-- ==== Sys2Proof/Word.lean ====
section
/-! DEFINITION. The words of the Sundir manual (Table 0.5, R3, R5) and the two container types of the model. -/

namespace Sys2Proof

/-- One octet (U8, ENUM8 and BOOL of Table 0.5). -/
abbrev U8 := BitVec 8
/-- U16 of Table 0.5. -/
abbrev U16 := BitVec 16
/-- U32 and BITS32 of Table 0.5. -/
abbrev U32 := BitVec 32
/-- U64 of Table 0.5. -/
abbrev U64 := BitVec 64
/-- I64 of Table 0.5: two's complement. -/
abbrev I64 := BitVec 64
/-- HT80 (R3): whole nanoseconds in [79:16], units of 2^-16 ns in [15:0]. -/
abbrev HT := BitVec 80
/-- A 24-bit device or herd identity (R216, Table 12.10). -/
abbrev Id24 := BitVec 24
/-- An octet string, least significant byte first (R5, R313). -/
abbrev Bytes := List (BitVec 8)

/-- A numbered array of the manual, held sparsely: strictly rising indices, and no entry equal to
the array's reset element. The operations and the canonical form are in Machine/Ops.lean. -/
abbrev Tbl (α : Type) := List (Nat × α)

end Sys2Proof
end

