-- ==== Sys2Proof/Syntax.lean ====
section
/-! DEFINITION. The commands of the block, one constructor of `Instr` per row of spec/opcode_table.json, and
the types of their operands. A command is one whole step of the part as spec/95_what_each_step_holds.md
lists it: a write of a dictionary object, a cell released by a sync port, a token of a region, a
message of a reference, or an event of a timer. -/

namespace Sys2Proof

/-- The two parts of the fabric that the manual describes (00_scope.md). -/
inductive Dev where
  | tsu | fjz
  deriving DecidableEq, Repr

/-- The two planes of the data hierarchy (R13, R14). -/
inductive Plane where
  | a | b
  deriving DecidableEq, Repr

/-- The four sources of dictionary requests (R18, R316). -/
inductive Source where
  | window | tunA | tunB | net
  deriving DecidableEq, Repr

/-- The header of one ZDP request (Table 12.4), with the path it came by. INDEX and SUBINDEX are the
command's own; `length` is the LENGTH field, and `busSecure` the security attribute of the bus write to
DOORBELL (R317). `peer` names the network address and port that a response returns to; `eth` and `udp` the Ethernet port and the UDP
port that a network request came on (R307). -/
structure Req where
  src        : Source
  busSecure  : Bool
  version    : U8
  typ        : U8
  secure     : Bool
  applyAck   : Bool
  byPort     : Bool
  useElement : Bool
  port       : U8
  reqId      : U32
  target     : Id24
  origin     : U16
  element    : U32
  length     : U16
  secCounter : U64
  tag        : BitVec 128
  peer       : U64
  eth        : U8 := 0
  udp        : U16 := 23481
  deriving DecidableEq, Repr

/-- One cell as it is released (R61, Table 3.3): 8-byte header, 56-byte body, and the body and header of the
CONTINUATION if the cell is the first of a pair (R63), zero otherwise. -/
structure Cell where
  hdr     : BitVec 64
  body    : BitVec 448
  cont    : BitVec 448
  contHdr : BitVec 64 := 0
  deriving DecidableEq, Repr

/-- A received codeword (Table 3.2): its CW_NUM and RF, or that it was uncorrectable (R60). -/
structure RxCw where
  num : BitVec 12
  rf  : Bool
  bad : Bool
  deriving DecidableEq, Repr

/-- A port and the codewords that it has received, oldest first (R60). -/
structure RxRun where
  port : Nat
  cws  : List RxCw
  deriving DecidableEq, Repr

/-- A lateral link, and whether its other end has been LOCKED for 600 s (R84). -/
structure LatEnds where
  link       : Nat
  peerLocked : Bool
  deriving DecidableEq, Repr

/-- A raw time-stamp (Table 3.8). -/
structure Stamp where
  frc : U64
  sub : BitVec 7
  deriving DecidableEq, Repr

/-- A marker frame of a lateral link (R83). -/
structure Marker where
  originHt    : HT
  originValid : Bool
  lastArrival : Option HT
  peerDie     : Id24
  deriving DecidableEq, Repr

/-- What one second's measurement of one candidate gives (R97): whether it is present, its phase
against hall time in ps, and its frequency against the corrected OCXO in units of 10^-15. -/
structure CandMeas where
  cand    : Nat
  present : Bool
  phasePs : Int
  freqErr : Int
  deriving DecidableEq, Repr

/-- What a second gives a Fjouz chip: a measurement of each candidate (R97), and the FEC symbols that its ports corrected (R86). -/
structure SecondMeas where
  cands   : List CandMeas
  symbols : List (Nat × Nat)
  deriving DecidableEq, Repr

/-- The fields of a PTP event or general message that R89 uses; `transport` and `source` say how it came: the transport as
PTP_TRANSPORT numbers it, and the sender's address. -/
structure PtpMsg where
  transport  : U8
  source     : BitVec 128
  gm         : U64
  domain     : U8
  seqId      : U16
  originHt   : HT
  corrPs     : Int
  twoStep    : Bool
  deriving DecidableEq, Repr

/-- The fields of an Announce message that R89 and R92 use, with how it came; `intervalNs` is the interval that it announces. -/
structure Announce where
  transport    : U8
  source       : BitVec 128
  intervalNs   : Nat
  gm           : U64
  domain       : U8
  ptpTimescale : Bool
  priority1    : U8
  clockClass   : U8
  accuracy     : U8
  variance     : U16
  priority2    : U8
  stepsRemoved : U16
  deriving DecidableEq, Repr

/-- A word of a protected SRAM array (01_fabric_architecture.md, *Inside the TSU*). -/
inductive SramWord where
  | desc (i : Nat) | ledger (i : Nat) | counter (i : Nat) | event (i : Nat) | watch (i : Nat)
  | meterA (i : Nat) | meterB (i : Nat) | part (i : Nat) | round (i : Nat) | template (i : Nat)
  | tenantA (i : Nat) | tenantB (i : Nat) | dieA (i : Nat) | dieB (i : Nat)
  deriving DecidableEq, Repr

/-- What the check codes say of the words a command reads: how many were corrected, which are
uncorrectable, and which meter slots, tenant slots and die counters (by subindex) read another value from copy B (R154, R177, R271,
Table 7.5). -/
structure Ecc where
  corrected     : Nat
  uncorrectable : List SramWord
  copyB         : List (Nat × BitVec 256)
  tenantB       : List (Nat × BitVec 256) := []
  dieB          : List (Nat × U64) := []
  deriving DecidableEq, Repr

/-- The commands: one constructor per row of spec/opcode_table.json, in the table's order. -/
inductive Instr where
  /-- POWER_GOOD (R336): TSU_PWRGOOD rises, so the TSU leaves RESET, reads fuses and OTP, sets the frequency control word to nominal and starts the DPLL. -/
  | powerGood
  /-- POWER_ON_RESET (R328): TSU_PWRGOOD falls, including on a brown-out; the TSU is held in power-on reset and every object takes its reset value. -/
  | powerOnReset
  /-- WARM_RESET (R335): A secure write of WARM to RESET_REQ, or a Ruavo warm reset, resets the TSU as at power-on with the rails held. -/
  | warmReset (secure : Bool) (byRuavo : Bool)
  /-- INIT_DONE (R336): The DPLL has settled, the SRAMs are zeroed and the spine skew is measured, so power-on self-test starts. -/
  | initDone (skewPs : U16)
  /-- POST_DONE (R338): Power-on self-test ends: on a pass the TSU enters RUN and starts its ports; on a failure it enters FAULT_HOLD. -/
  | postDone (failed : U8) (waiter : U32) (durationUs : U32)
  /-- BIST_START (R341): A secure write of 0x01 to BIST_START is checked and, if accepted, starts on-demand self-test of the blocks in BIST_MASK. -/
  | bistStart (q : Req) (v : U8) (bankBytes : Nat)
  /-- BIST_BLOCK_DONE (R342): The test of one block ends; its state is restored and checked by CRC, then the next block starts, or the test ends with BIST_DONE or FAULT_HOLD. -/
  | bistBlockDone (testOk : Bool) (restoreOk : Bool) (waiter : U32) (us : U32)
  /-- INT_STATUS (R333): A write of INT_STATUS clears the bits written as 1, unless their event falls on the same tick. -/
  | intStatus (v : U32) (sameTick : U32) (enable : Option U32)
  /-- LC_PROVISION (R344): LC_ADVANCE to PROVISIONED by a secure window write generates the meter signing key and blows life-cycle fuse 0. -/
  | lcProvision (d : Dev) (q : Req) (confirm : U32)
  /-- LC_DEPLOY (R344): LC_ADVANCE to DEPLOYED is checked for the key, the certificate and the device ID, and blows fuse 1. -/
  | lcDeploy (d : Dev) (q : Req) (confirm : U32)
  /-- LC_RETURN (R344): LC_ADVANCE to RETURN with every herd context FREE blows fuse 2 and breaks the meter seal if it is sealed. -/
  | lcReturn (d : Dev) (q : Req) (confirm : U32)
  /-- LC_FUSE_PROGRAMMED (R344): A life-cycle fuse has been programmed and read back, and LC_STATE shows the new state. -/
  | lcFuseProgrammed (d : Dev)
  /-- SEC_KEY (R345): A one-time secure window write stores the secure dictionary key in OTP and sets SEC_KEY_VALID. -/
  | secKey (d : Dev) (q : Req) (key : BitVec 256)
  /-- FJZ_RESET_RELEASE (R348): FJZ_RST_N rises and a Fjouz chip starts its self-test. -/
  | fjzResetRelease
  /-- FJZ_SELFTEST_DONE (R348): The Fjouz self-test ends; a failure asserts FJZ_FAULT and keeps every port DISABLED. -/
  | fjzSelftestDone (failed : U8) (waiter : U32) (durationUs : U32) (mgmtOk : Bool)
  /-- FIRMWARE_LOADED (R348): The Fjouz management processor has loaded its firmware from the serial flash. -/
  | firmwareLoaded (version : U32)
  /-- ROLE (R348): A write of ROLE while every port is DISABLED sets the chip's level, and the ports then act on PORT_ENABLE. -/
  | role (q : Req) (v : U8)
  /-- MAPPING_UPDATE_TICK (R36): Every 2^20 spine ticks, parked targets are converted and, in HOLDOVER, rate and the holdover bound are updated. -/
  | mappingUpdateTick
  /-- HOLDOVER_RELOCK (R41): A die in HOLDOVER on a regained plane reaches phase error within 100 ps with SLEW_REMAINING_PS zero, and enters LOCKED. -/
  | holdoverRelock (phaseErrPs : Int)
  /-- OFFSET (R33): A write of OFFSET is admitted only in the allowed states and jumps hall time on the tick on which it is applied. -/
  | offset (q : Req) (v : HT)
  /-- RATE (R32): A write of RATE is range- and state-checked and applied with offset compensation. -/
  | rate (q : Req) (v : I64)
  /-- PHASE_STEP_PS (R38): A phase step is added to offset at once outside LOCKED, is slewed in LOCKED, or is refused. -/
  | phaseStepPs (q : Req) (v : I64)
  /-- LATCH_NOW (R33): A write of LATCH_NOW captures LATCHED_FRC and LATCHED_HT on one spine tick. -/
  | latchNow (q : Req) (v : U8)
  /-- TSU_PPS (R42): Hall time reaches a whole second in LOCKED or HOLDOVER, so the TSU_PPS pulse rises. -/
  | tsuPps
  /-- TEMP_SAMPLE (R52): A 1 ms package temperature sample updates the holdover model and the bound sum. -/
  | tempSample (mk : I64) (uF : U32)
  /-- HOLD_MODEL_VALID (R52): After 300 s LOCKED over a 2 K temperature span, HOLD_MODEL_VALID becomes true. -/
  | holdModelValid
  /-- LOCK_SLOW (R112): NARROW has lasted 1 s without the narrow criterion, so LOCK_SLOW is recorded once. -/
  | lockSlow
  /-- SNAPSHOT_PERIODIC (R45): Every 65,536 spine ticks each region is snapshotted and its stretch time is accounted. -/
  | snapshotPeriodic (rccs : List (BitVec 48))
  /-- SNAPSHOT_REQ (R45): A write of SNAPSHOT_REQ takes a snapshot of the region. -/
  | snapshotReq (q : Req) (region : Nat) (v : U8) (rcc : BitVec 48)
  /-- STRETCH_REPORT (R44): A region reports a stretched period and STRETCH_EVENTS gains one. -/
  | stretchReport (region : Nat)
  /-- NOMINAL_PERIOD_CHANGE (R44): A region reports a new nominal period, which is stored and snapshotted. -/
  | nominalPeriodChange (region : Nat) (fs : U32) (rcc : BitVec 48)
  /-- MARGIN_READING (R48): A region sends a changed replica-path margin reading; minima and margin events are updated. -/
  | marginReading (region : Nat) (reading : U8)
  /-- QUEUE_STALL (R47): A producer waits for a dual-clock queue credit; QUEUE_STALLS counts it and the first wait of a step sends SLACK_EXHAUSTED. -/
  | queueStall (region : Nat) (queue : U8)
  /-- MARGIN_BIAS (R49): A write of MARGIN_BIAS takes effect in phase 8 and reaches each region with its next launch token. -/
  | marginBias (q : Req) (v : U8)
  /-- COUNTER_CLEAR (R49): A write of COUNTER_CLEAR resets the margin and stretch counters of every region. -/
  | counterClear (q : Req) (v : U8)
  /-- PORT_ENABLE (R72): PORT_ENABLE written 0x01 starts loopback latency measurement and training. -/
  | portEnable (d : Dev) (p : Nat) (q : Req)
  /-- PORT_DISABLE (R72): PORT_ENABLE written 0x00 stops transmission and makes the port DISABLED. -/
  | portDisable (d : Dev) (p : Nat) (q : Req)
  /-- TRAIN_COMPLETE (R72): Training and loopback are complete, so the port sends IDLE codewords and enters LOCK. -/
  | trainComplete (d : Dev) (p : Nat) (loopback : U32 × U32) (partner : Bool)
  /-- TRAIN_FAIL (R72): Training has not completed within 10 ms, so LINK_DOWN is recorded under R366 and the port enters DOWN_HOLD. -/
  | trainFail (d : Dev) (p : Nat)
  /-- DOWN_HOLD_EXPIRY (R72): After 1 ms in DOWN_HOLD, the port restarts training. -/
  | downHoldExpiry (d : Dev) (p : Nat)
  /-- CODEWORD_LOCK (R60): 8 good codewords in sequence give codeword lock, and with RF clear the port starts sending HELLO. -/
  | codewordLock (d : Dev) (p : Nat) (cws : List RxCw)
  /-- CODEWORD_LOCK_LOST (R60): 16 bad or out-of-sequence codewords lose lock, and the link goes down. -/
  | codewordLockLost (d : Dev) (run : RxRun)
  /-- REMOTE_FAULT (R72): The peer sets RF while the link is UP, so the link goes down. -/
  | remoteFault (d : Dev) (p : Nat)
  /-- HELLO (R73): A received HELLO negotiates versions and roles; it brings the link UP, takes it down on a mismatch or change, and checks POSITION. -/
  | hello (d : Dev) (p : Nat) (c : Cell)
  /-- HELLO_SEND (R73): At the HELLO period in codewords, the port sends HELLO. -/
  | helloSend (d : Dev) (p : Nat)
  /-- CODEWORD_UNCORRECTABLE (R69): A codeword is uncorrectable while lock holds, so RETRY_REQ cells naming it are sent. -/
  | codewordUncorrectable (d : Dev) (p : Nat) (before : BitVec 12)
  /-- RETRY_REQ (R69): A received RETRY_REQ retransmits every retried cell of the named codeword, or takes the link down if that codeword has left the replay buffer. -/
  | retryReq (d : Dev) (p : Nat) (c : Cell)
  /-- RETRY_REQ_REPEAT (R69): A gap has stayed open for 1 µs, so the RETRY_REQ is repeated. -/
  | retryReqRepeat (d : Dev) (p : Nat) (cw : BitVec 12)
  /-- RETRY_EXHAUSTED (R70): A gap has not been filled within 8 µs, so the link is declared down. -/
  | retryExhausted (d : Dev) (p : Nat) (cw : BitVec 12)
  /-- REPLAY_BUFFER_EXPIRY (R68): A retried cell's 80-codeword hold in the replay buffer ends, and the cell is dropped from the buffer. -/
  | replayBufferExpiry (d : Dev) (p : Nat) (cls : BitVec 2) (lseq : U16)
  /-- TIME_DOWN_SEND (R78): At a CW_NUM multiple of 1,024 a parent sends TIME_DOWN with its hall time. -/
  | timeDownSend (d : Dev) (p : Nat)
  /-- TIME_DOWN (R78): A child receives TIME_DOWN and time-stamps t2. -/
  | timeDown (d : Dev) (p : Nat) (c : Cell) (t2 : Stamp)
  /-- TIME_UP_SEND (R78): At CW_NUM 512 past a multiple of 1,024 a child sends TIME_UP. -/
  | timeUpSend (d : Dev) (p : Nat) (t3 : Stamp)
  /-- TIME_UP (R78): A parent receives TIME_UP, time-stamps t4 and answers with TIME_REPLY. -/
  | timeUp (d : Dev) (p : Nat) (c : Cell) (t4 : Stamp) (probeCw : BitVec 12)
  /-- TIME_REPLY (R79): A child computes delay and offset from the exchange and feeds the loop or the plane-offset measurement. -/
  | timeReply (d : Dev) (p : Nat) (c : Cell)
  /-- LATENCY_REMEASURE (R80): Every 1 s an UP port measures its latencies again and applies any change in steps of at most 8 ps. -/
  | latencyRemeasure (d : Dev) (p : Nat) (txLat : U32) (rxLat : U32)
  /-- LAT_MARKER_SEND (R83): Every LAT_PERIOD_US the TSU sends a marker frame on an enabled lateral link. -/
  | latMarkerSend (link : Nat) (sent : Stamp)
  /-- LAT_MARKER (R84): A received marker updates the lateral offset, delay and drift of the link. -/
  | latMarker (link : Nat) (m : Marker) (arrival : Stamp)
  /-- LAT_BASELINE_CAPTURE (R84): A write of LAT_BASELINE_CAPTURE captures every lateral baseline. -/
  | latBaselineCapture (q : Req) (v : U8)
  /-- LAT_BASELINE_AUTO (R84): Both ends have been LOCKED for 600 s, so a link without a baseline captures one. -/
  | latBaselineAuto (ends : LatEnds)
  /-- TX_TIMESTAMP (R85): A marked frame's transmit time-stamp enters the queue, or is dropped with TXTS_OVERFLOW set. -/
  | txTimestamp (link : Nat) (tsId : U16) (stamp : Stamp)
  /-- TXTS_POP (R85): A read of TXTS_POP returns and removes the head entry of the transmit time-stamp queue. -/
  | txtsPop (q : Req)
  /-- TXTS_OVERFLOW_CLEAR (R85): A write of TXTS_OVERFLOW_CLEAR clears TXTS_OVERFLOW. -/
  | txtsOverflowClear (q : Req) (v : U8)
  /-- REF_QUALIFY (R97): Once per second a Fjouz chip qualifies its candidates and selects the best one. -/
  | refQualify (meas : SecondMeas)
  /-- SWITCH_WINDOW_END (R99): The switch window ends, so Δ is absorbed, SWITCH_SEQ advances at the root and the switch completes. -/
  | switchWindowEnd (deltaPs : Int)
  /-- REALIGN (R101): A write of REALIGN at a root slews TRACE_OFFSET_PS to zero. -/
  | realign (q : Req) (v : U8)
  /-- REF_TYPE (R95): A write of REF_TYPE sets a candidate's type and loads its default tolerances, or makes it absent. -/
  | refType (q : Req) (cand : Nat) (v : U8)
  /-- REF_PRIORITY (R97): A write of REF_PRIORITY sets the candidate's priority, and zero makes it absent at once. -/
  | refPriority (q : Req) (cand : Nat) (v : U8)
  /-- FORCE_REF (R98): A write of FORCE_REF forces an eligible candidate to be the best one. -/
  | forceRef (q : Req) (v : U8)
  /-- FREE_SERVE (R103): FREE_SERVE written 0x01 establishes hall time from FREE_START_HT in FREE. -/
  | freeServe (q : Req) (v : U8)
  /-- HOLD_WTR_EXPIRY (R103): A time candidate has been eligible for HOLD_WTR_S, so the chip switches from FREE or HOLD into LOCK. -/
  | holdWtrExpiry
  /-- HOLD_UPDATE (R107): Every 1 ms in HOLD the chip corrects its OCXO frequency and updates HOLD_BOUND_NS, entering FREE past the limit. -/
  | holdUpdate (tempMk : I64)
  /-- OCXO_TABLE (R106): A write of OCXO_TABLE is checked, and the cubic is fitted through its points. -/
  | ocxoTable (q : Req) (v : BitVec 320)
  /-- OCXO_AGEING_VALID (R106): After 24 h in LOCK without a break, the OCXO ageing slope becomes valid. -/
  | ocxoAgeingValid
  /-- PTP_SYNC (R89): A root receives a PTP Sync message and time-stamps it. -/
  | ptpSync (e : Nat) (m : PtpMsg) (t2 : Stamp)
  /-- PTP_FOLLOW_UP (R89): A root receives a two-step Follow_Up carrying the origin time. -/
  | ptpFollowUp (e : Nat) (m : PtpMsg)
  /-- PTP_ANNOUNCE (R89): A root receives an Announce message and runs grandmaster choice and clockClass mapping. -/
  | ptpAnnounce (e : Nat) (a : Announce)
  /-- PTP_DELAY_REQ_SEND (R89): At the configured rate a root sends a Delay_Req. -/
  | ptpDelayReqSend (e : Nat) (t3 : Stamp)
  /-- PTP_DELAY_RESP (R89): A root receives a Delay_Resp and updates the path delay and phase of the candidate. -/
  | ptpDelayResp (e : Nat) (m : PtpMsg)
  /-- PTP_ANNOUNCE_TIMEOUT (R97): The Announce receipt timeout expires, so the PTP candidate is lost. -/
  | ptpAnnounceTimeout (e : Nat)
  /-- REF_PPS_EDGE (R90): A pulse arrives on a PPS_TOD input; three unused seconds make the candidate lost. -/
  | refPpsEdge (cand : Nat) (stamp : Stamp)
  /-- TOD_MESSAGE (R90): A time-of-day message is received and checked, and names the second of its pulse together with SQC and CROSS. -/
  | todMessage (cand : Nat) (m : BitVec 184)
  /-- REF_CLOCK_LOSS (R97): A FREQ or SYNCE candidate has shown no clock edge for 1 µs, so it is lost. -/
  | refClockLoss (cand : Nat)
  /-- ESMC (R92): An ESMC message updates the SQC received on a SYNCE candidate. -/
  | esmc (e : Nat) (ql : BitVec 4)
  /-- ESMC_TIMEOUT (R92): No ESMC has arrived for 5 s, so the candidate takes SQC 7. -/
  | esmcTimeout (e : Nat)
  /-- REF_OUT_PPS (R91): A PPS_TOD output raises its pulse before the second and then sends its time-of-day message. -/
  | refOutPps (o : Nat)
  /-- BLEAT_SEND (R93): At CW_NUM 256 or 768 modulo 1,024 a node sends a downward or upward BLEAT. -/
  | bleatSend (d : Dev) (p : Nat)
  /-- BLEAT (R93): A received BLEAT updates quality, state and health; the first valid one moves a die from UNSET to ACQUIRE. -/
  | bleat (d : Dev) (p : Nat) (c : Cell) (stamp : Stamp)
  /-- BLEAT_TIMEOUT (R113): No BLEAT has arrived on a plane for 4 periods, so the die loses the plane and switches plane or enters HOLDOVER or FREE_RUN. -/
  | bleatTimeout (plane : Plane)
  /-- PARENT_BLEAT_TIMEOUT (R97): A Fjouz parent candidate has received no BLEAT for 4 periods, so it is lost. -/
  | parentBleatTimeout (cand : Nat)
  /-- PLANE_WTR_EXPIRY (R114): The unselected plane has had the better SQC for PLANE_WTR_S, so the die switches to it. -/
  | planeWtrExpiry
  /-- FORCE_PLANE (R114): A write of FORCE_PLANE selects the named plane if it is not lost. -/
  | forcePlane (q : Req) (v : U8)
  /-- PLANE_DRIFT_CHECK (R115): Once per second a LOCKED die compares its plane drift with lateral drift and demotes a plane or records PLANE_DISAGREE. -/
  | planeDriftCheck
  /-- PLANE_OFFSET_RELEASE (R116): A write of PLANE_OFFSET_RELEASE starts the slew of the carried plane offset. -/
  | planeOffsetRelease (q : Req) (v : U8)
  /-- PLANE_CONFIG (R351): A write of PLANE_CONFIG while every context is FREE sets dual or single-plane operation. -/
  | planeConfig (q : Req) (v : U8)
  /-- PRONK_REQUEST_ARM (R143): A PRONK_REQUEST of phase ARM at an origin is checked and sends ARM downwards. -/
  | pronkRequestArm (q : Req) (v : BitVec 256)
  /-- PRONK_REQUEST_STEP (R143): A PRONK_REQUEST of phase STEP at an origin is checked and sends STEP downwards. -/
  | pronkRequestStep (q : Req) (v : BitVec 256)
  /-- PRONK_CANCEL (R145): A PRONK_REQUEST cancel sends ABORT if COMMIT has not left, and is refused otherwise. -/
  | pronkCancel (q : Req) (v : BitVec 256)
  /-- PRONK_FORWARD (R144): A Fjouz chip forwards a downward PRONK cell by bypass to the member child ports. -/
  | pronkForward (p : Nat) (c : Cell)
  /-- PRONK_ARM (R149): A die receives ARM, checks it, arms or refuses, and answers with an ACK on both ports. -/
  | pronkArm (p : Nat) (c : Cell)
  /-- PRONK_ACK (R144): A Fjouz chip sums the ACK counts in the pronk counter; the origin sends COMMIT or ABORT as the counts decide. -/
  | pronkAck (p : Nat) (c : Cell)
  /-- PRONK_COMMIT_DEADLINE (R145): FIRE_HT − PRONK_COMMIT_LEAD_NS is reached with no refusal, so the origin sends COMMIT. -/
  | pronkCommitDeadline (herd : BitVec 24)
  /-- PRONK_COMMIT (R146): A die receives COMMIT for the armed sequence number and becomes COMMITTED, or discards it. -/
  | pronkCommit (p : Nat) (c : Cell)
  /-- PRONK_ABORT (R146): A die receives ABORT for the armed sequence number and keeps it for the decision. -/
  | pronkAbort (p : Nat) (c : Cell)
  /-- PRONK_STEP (R136): A STEP pronk releases the next k descriptors with grid time T_s. -/
  | pronkStep (p : Nat) (c : Cell)
  /-- PRONK_DECISION (R147): On the tick of T − 2,000 ns the die decides to fire, or writes PRONK_ABORTED or PRONK_NO_COMMIT. -/
  | pronkDecision (h : Nat)
  /-- PRONK_FIRE (R147): On the tick of T the die sets BASE and ITER, starts START_STEP and arrives at the start tine. -/
  | pronkFire (h : Nat)
  /-- STEP_RELEASE_DEADLINE (R136): In SINGLE_STEP mode no STEP pronk has arrived by T_s − 2,000 ns, so PRONK_NO_COMMIT is written. -/
  | stepReleaseDeadline (h : Nat)
  /-- STEP_LAUNCH (R129): A LAUNCH descriptor whose gates hold launches its regions at ENTRY on F_L and applies its actions. -/
  | stepLaunch (h : Nat) (rccs : List (BitVec 48)) (ecc : Ecc)
  /-- STEP_NOP (R122): A NOP descriptor is passed and applies its ledger, swap, power and meter actions. -/
  | stepNop (h : Nat) (ecc : Ecc)
  /-- STEP_LOOP (R137): A LOOP descriptor continues or exits the loop, advancing ITER and BASE. -/
  | stepLoop (h : Nat) (ecc : Ecc)
  /-- STEP_END (R122): An END descriptor is reached and the herd context enters DONE. -/
  | stepEnd (h : Nat) (ecc : Ecc)
  /-- DESCRIPTOR_PASS (R135): A halting die passes a descriptor before H on its grid tick without actions, and enters HALTED at H. -/
  | descriptorPass (h : Nat)
  /-- REGION_DONE (R131): A done token is seen: the step completes, DONE_SIGNAL gains 1, the stretch is computed and the die's arrival is queued. -/
  | regionDone (region : Nat) (h : Nat) (abandoned : Bool) (rcc : BitVec 48)
  /-- STEP_OVERRUN (R133): In FREE_GRID mode a step is not complete at its done deadline, so the herd halts. -/
  | stepOverrun (h : Nat) (step : Nat)
  /-- GATE_MISSED (R135): In FREE_GRID mode a gate set does not hold by F_G − 8, so the herd halts. -/
  | gateMissed (h : Nat)
  /-- GATE_TIMEOUT (R134): A gate has not held by grid time + GATE_TIMEOUT_NS, so the herd halts. -/
  | gateTimeout (h : Nat)
  /-- LOAD_COMMIT (R152): LOAD_COMMIT runs admission and either grants every resource or refuses with a code. -/
  | loadCommit (q : Req) (h : Nat) (v : U8)
  /-- UNLOAD (R149): UNLOAD releases every resource of the context, takes the final meter records and makes the context FREE. -/
  | unload (q : Req) (h : Nat) (v : U8)
  /-- STEP_DESC (R152): A write of STEP_DESC stores a descriptor and sets its written flag while the context is FREE. -/
  | stepDesc (q : Req) (v : BitVec 512)
  /-- LEDGER_ENTRY (R139): A ledger entry write is checked against its state and owner, then applied, held or refused. -/
  | ledgerEntry (q : Req) (v : BitVec 256) (applyIter : Option U64)
  /-- LEDGER_ADV_PENDING (R138): A region write through the LEDGER queue adds to ADV_PENDING, saturating at 255. -/
  | ledgerAdvPending (region : Nat) (entry : U16) (amount : U8)
  /-- CTR_ADD (R159): A CTR_ADD signal is checked and added to a counting object in phase 2. -/
  | ctrAdd (tok : U64) (ecc : Ecc)
  /-- CTR_SETBIT (R161): A CTR_SETBIT signal sets a bit of a counting object. -/
  | ctrSetbit (tok : U64) (ecc : Ecc)
  /-- EVENT_SET (R164): An EVENT_SET signal sets a binary event, or marks an oversignal and halts the herd. -/
  | eventSet (tok : U64) (ecc : Ecc)
  /-- WATCH_REGISTER (R165): A region registers a watch, which is checked and placed in a slot, or refused with a halt. -/
  | watchRegister (region : Nat) (tok : BitVec 208)
  /-- WATCH_REGISTER_DEFERRED (R165): A registration that waited for a slot is taken on the first tick on which a slot is free. -/
  | watchRegisterDeferred (region : Nat)
  /-- WATCH_CANCEL (R167): A cancel token ends the named waiting watch as CANCELLED. -/
  | watchCancel (region : Nat) (tag : U16)
  /-- WATCH_TIMEOUT (R171): A watch's converted timeout tick passes while it still waits, so the object becomes TIMED_OUT and the herd halts. -/
  | watchTimeout (slot : Nat)
  /-- WATCH_NOTIFY (R169): Up to 8 notifications of ended watches are emitted per tick, and their slots are freed. -/
  | watchNotify
  /-- SYNC_RESET (R156): SYNC_RESET zeroes the herd's counters and clears its events, claims and flags. -/
  | syncReset (q : Req) (h : Nat) (v : U8)
  /-- COUNTER_VALUE (R157): A write of COUNTER_VALUE sets a counting object while its context is stopped. -/
  | counterValue (q : Req) (v : U64)
  /-- EVENT_STATE (R157): A write of EVENT_STATE sets or clears an event while its context is stopped. -/
  | eventState (q : Req) (v : U32)
  /-- EVENT_OVERSIGNAL_CLEAR (R164): A write of EVENT_OVERSIGNAL_CLEAR clears the OVERSIGNAL flag of the selected event. -/
  | eventOversignalClear (q : Req) (v : U8)
  /-- BANK_DRAINED (R175): A draining bank has no write outstanding and is powered off. -/
  | bankDrained (region : Nat) (bank : Nat)
  /-- BANK_DRAIN_TIMEOUT (R176): The 10,000 ns drain timer expires with a write outstanding, so the bank returns to ON and a record is written. -/
  | bankDrainTimeout (region : Nat) (bank : Nat) (channel : U8)
  /-- BANK_WAKE_DONE (R175): 250 ns after an on action a waking bank becomes ON and accepts requests. -/
  | bankWakeDone (region : Nat) (bank : Nat)
  /-- BANK_UNAVAILABLE (R175): A request to a DRAINING or OFF bank is refused, and the requesting herd halts. -/
  | bankUnavailable (region : Nat) (bank : Nat) (h : Nat) (source : U16)
  /-- TINE_CONTRIBUTION (R182): A region contribution enters a round of a participation, or is discarded or overruns. -/
  | tineContribution (region : Nat) (part : Nat) (payload : BitVec 512) (ecc : Ecc)
  /-- TINE_ARRIVAL (R189): A Fjouz context takes an arrival into its round, combines it when complete and sends a partial or result. -/
  | tineArrival (p : Nat) (c : Cell) (ecc : Ecc)
  /-- TINE_ARRIVAL_FAILED (R191): A FAILED arrival fails the round at a Fjouz context, subject to twin rules. -/
  | tineArrivalFailed (p : Nat) (c : Cell)
  /-- TINE_RESYNC (R207): A RESYNC completes its round at a context on the new plane with the echoed outcome. -/
  | tineResync (p : Nat) (c : Cell)
  /-- TINE_ARRIVAL_MOVE (R205): An upward MOVE arrival is forwarded, and the top sends a MOVE result down. -/
  | tineArrivalMove (p : Nat) (c : Cell)
  /-- TINE_TIMEOUT (R193): A round's deadline passes with a member slot empty, so the context fails the round and writes TINE_TIMEOUT. -/
  | tineTimeout (ctx : Nat) (next : Bool)
  /-- TINE_RESULT_FORWARD (R187): A Fjouz context receives a result from its parent and forwards it by bypass to its member ports. -/
  | tineResultForward (p : Nat) (c : Cell)
  /-- TINE_RESULT (R192): A die delivers a result: it updates d, writes the result record and applies the result target. -/
  | tineResult (p : Nat) (c : Cell)
  /-- TINE_RESULT_FAILED (R192): A die delivers a FAILED result, which ends watches and halts the herd at the waiting gate. -/
  | tineResultFailed (p : Nat) (c : Cell)
  /-- TINE_RESULT_MOVE (R206): A die takes a MOVE result on its active plane and moves its tine traffic. -/
  | tineResultMove (p : Nat) (c : Cell)
  /-- TINE_ABANDON (R204): The losing twin marks its arrival sent and sets its ABANDON_EVENT. -/
  | tineAbandon (p : Nat) (c : Cell)
  /-- TINE_NOT_SENT (R194): A waiting gate's own arrival is not ready after TIMEOUT_NS, so FAILED arrivals of cause NOT_SENT are sent. -/
  | tineNotSent (h : Nat) (gate : Nat)
  /-- ISOLATED (R195): A gate's wait limit passes with no sync port UP, so a FAILED result of cause ISOLATED is delivered locally. -/
  | isolated (h : Nat) (gate : Nat)
  /-- TEMPLATE_VALIDATE (R184): TEMPLATE_VALID written 0x01 checks the template and makes it valid or refuses it. -/
  | templateValidate (d : Dev) (q : Req)
  /-- TEMPLATE_ERASE (R185): TEMPLATE_VALID written 0x00 erases the template unless it is in use. -/
  | templateErase (d : Dev) (q : Req)
  /-- TREE_RESERVE (R208): TREE_RESERVE with ACTION 1 starts a path reservation on the plane. -/
  | treeReserve (q : Req) (v : BitVec 128)
  /-- TREE_RESERVE_HOME (R367): TREE_RESERVE with ACTION 3 starts a reservation marked as the herd's home plane. -/
  | treeReserveHome (q : Req) (v : BitVec 128)
  /-- TREE_RELEASE (R210): TREE_RESERVE with ACTION 2 starts a release query for the reservation. -/
  | treeRelease (q : Req) (v : BitVec 128)
  /-- RESERVE_REQUEST (R211): A chip or die takes a REQUEST pass, holds its needs tentatively and forwards it. -/
  | reserveRequest (d : Dev) (p : Nat) (c : Cell)
  /-- RESERVE_OUTCOME (R211): A chip combines the OUTCOME cells from below and, at the top, commits or releases. -/
  | reserveOutcome (p : Nat) (c : Cell)
  /-- RESERVE_COMMIT (R211): A COMMIT pass fills the port maps and sets PATH_A or PATH_B. -/
  | reserveCommit (d : Dev) (p : Nat) (c : Cell)
  /-- RESERVE_RELEASE (R211): A RELEASE pass frees what each chip holds for the herd and template. -/
  | reserveRelease (d : Dev) (p : Nat) (c : Cell)
  /-- RELEASE_QUERY (R211): A RELEASE_QUERY pass collects each member die's context state. -/
  | releaseQuery (d : Dev) (p : Nat) (c : Cell)
  /-- RESERVE_TIMEOUT (R209): No outcome has reached the top within RESERVE_TIMEOUT_MS, so the top reports TINE_CONTEXT. -/
  | reserveTimeout
  /-- FJOUZ_WRITE_APPLY (R21): A held Fjouz write to a tine context or template is applied once no round is open. -/
  | fjouzWriteApply
  /-- PAUSE_REQUEST (R219): PAUSE_REQUEST at a top chip is checked and sends a HALT of KIND PAUSE downwards. -/
  | pauseRequest (q : Req) (v : BitVec 160)
  /-- REEPOCH_COMMIT (R220): REEPOCH_COMMIT checks the staged membership and installs it, or refuses. -/
  | reepochCommit (q : Req) (h : Nat) (v : U8)
  /-- DRAIN_ADOPT (R222): DRAIN_ADOPT puts a joining die into a drain that is in progress, making it FLIPPED. -/
  | drainAdopt (q : Req) (h : Nat) (v : BitVec 192)
  /-- EXPEL (R225): EXPEL takes a member out of its herd at once or at the next step boundary, writing HERD_LEFT. -/
  | expel (q : Req) (h : Nat) (v : U8)
  /-- HEALTH_UPDATE (R226): Every second the TSU updates its health accumulators and HEALTH. -/
  | healthUpdate (symA : Nat) (symB : Nat)
  /-- MISMATCH_IN (R227): A write of MISMATCH_IN adds to the X count of the current second. -/
  | mismatchIn (q : Req) (v : U32)
  /-- HEALTH_SAMPLE (R228): Every second a leaf samples child health and sends suspect or clear reports. -/
  | healthSample
  /-- SUSPECT_REPORT (R231): A steward receives a suspect report and expels the die or quarantines it. -/
  | suspectReport (herd : BitVec 24) (die : BitVec 24) (health : U16)
  /-- CLEAR_REPORT (R231): A steward receives a clear report and releases the die's quarantine. -/
  | clearReport (herd : BitVec 24) (die : BitVec 24) (health : U16)
  /-- REPORT_FAILED (R230): REPORT_FAILED names a die, and the steward decides to expel it as failed. -/
  | reportFailed (q : Req) (die : U32)
  /-- FAIL_CONFIRM_EXPIRY (R230): Both leaves have reported a die's port down for FAIL_CONFIRM_MS, so the steward treats the die as failed. -/
  | failConfirmExpiry (herd : BitVec 24) (die : BitVec 24)
  /-- QUARANTINE_CONVERT (R231): The budget allows an expulsion, so the steward converts the lowest-scoring quarantined suspect. -/
  | quarantineConvert (herd : BitVec 24)
  /-- STEWARD_TAKEOVER (R229): The plane A steward chip has been silent for FAIL_CONFIRM_MS, so the plane B steward takes over with the budget. -/
  | stewardTakeover (herd : BitVec 24)
  /-- SWAP_PLAN (R234): A swap plan is checked and accepted, and takes effect at the next step boundary. -/
  | swapPlan (q : Req) (h : Nat) (v : BitVec 256)
  /-- SWAP_CANCEL (R240): SWAP_CANCEL aborts the swap at the next step boundary, writing SWAP_ABORTED. -/
  | swapCancel (q : Req) (h : Nat) (v : U8)
  /-- SWAP_BROADCAST (R235): SWAP_BROADCAST at a top chip sends a SWAP_CTRL cell down the herd's path. -/
  | swapBroadcast (q : Req) (v : BitVec 352)
  /-- SWAP_CTRL_PLAN (R235): A SWAP_CTRL cell with ACTION plan is applied as a secure SWAP_PLAN write. -/
  | swapCtrlPlan (d : Dev) (p : Nat) (c : Cell)
  /-- SWAP_CTRL_CANCEL (R235): A SWAP_CTRL cell with ACTION cancel is applied as a secure SWAP_CANCEL write. -/
  | swapCtrlCancel (d : Dev) (p : Nat) (c : Cell)
  /-- SWAP_FETCH_LIMIT (R236): A fetch attempt fails or exceeds FETCH_LIMIT_US, so the swap re-fetches or fails. -/
  | swapFetchLimit (h : Nat)
  /-- SWAP_REFETCH_LAUNCH (R236): The fetch regions are idle, so the fetch is launched again at its ENTRY. -/
  | swapRefetchLaunch (h : Nat) (rccs : List (BitVec 48))
  /-- HALT_FORWARD (R252): A Fjouz chip forwards, turns, merges or discards a HALT cell. -/
  | haltForward (p : Nat) (c : Cell)
  /-- HALT_AT (R254): A die applies a HALT of KIND AT, keeping the earliest H. -/
  | haltAt (p : Nat) (c : Cell)
  /-- HALT_PAUSE (R219): A die applies a HALT of KIND PAUSE and writes HERD_PAUSED. -/
  | haltPause (p : Nat) (c : Cell)
  /-- HALT_NOW (R255): A secure write of HALT_NOW sends a HALT of KIND NOW for a herd, or for every herd. -/
  | haltNow (d : Dev) (q : Req) (v : U32)
  /-- HALT_NOW_CELL (R255): A die receives a HALT of KIND NOW, stops the regions mid-step and writes HALTED_NOW. -/
  | haltNowCell (p : Nat) (c : Cell)
  /-- ERR_POP (R248): A read of ERR_POP returns and removes the oldest error record. -/
  | errPop (d : Dev) (q : Req)
  /-- ERR_OVERFLOW_CLEAR (R248): A write of ERR_OVERFLOW_CLEAR clears ERR_OVERFLOW. -/
  | errOverflowClear (d : Dev) (q : Req) (v : U8)
  /-- METER_PART_WALK (R273): The part walk visits the next meter slot and issues a STREAM_PART record, and a DIE record at the end of the walk. -/
  | meterPartWalk
  /-- TENANT_INTERVAL (R273): Every TENANT_INTERVAL_S a TENANT record is issued for each valid tenant slot. -/
  | tenantInterval
  /-- TENANT_STATEMENT (R273): A write of TENANT_STATEMENT issues a TENANT record for the tenant. -/
  | tenantStatement (q : Req) (v : U32)
  /-- TENANT_CLOSE (R272): TENANT_CLOSE issues TENANT_FINAL and frees the tenant slot, or is refused. -/
  | tenantClose (q : Req) (v : U32)
  /-- RECORD_SIGNED (R276): The signing engine completes the signature of the oldest unsigned meter record. -/
  | recordSigned
  /-- REC_POP (R276): A read of REC_POP returns and removes the oldest signed meter record. -/
  | recPop (q : Req)
  /-- FINAL_RECORD_ISSUE (R277): Ring space frees, so a pending STREAM_FINAL enters the ring and FINAL_PENDING clears. -/
  | finalRecordIssue
  /-- SEAL (R280): A write of SEAL checks the checksum, blows a seal fuse and applies the sealed parameters. -/
  | meterSeal (q : Req) (v : BitVec 192)
  /-- UNSEAL (R282): A write of UNSEAL blows a break fuse and logs SEAL_BROKEN, or is refused. -/
  | meterUnseal (q : Req) (v : U8)
  /-- METER_CLEAR (R278): METER_CLEAR zeroes every meter counter and the tamper log while the meter is unsealed. -/
  | meterClear (q : Req) (v : U8)
  /-- TAP_STAGING_DRAIN (R288): Staged record cells drain from the tap's staging buffer into the port's P3 buffer as room frees. -/
  | tapStagingDrain
  /-- RECORD (R292): A leaf stores a RECORD cell in its window area and checks it for freeze triggers. -/
  | record (p : Nat) (c : Cell)
  /-- REC_FREEZE_NOW (R294): A write of REC_FREEZE_NOW is a freeze trigger for the leaf window. -/
  | recFreezeNow (q : Req) (v : U8)
  /-- RECORDER_FROZEN (R294): The POST_TRIGGER_MS tail ends, so the window is frozen and RECORDER_FROZEN is written. -/
  | recorderFrozen
  /-- REC_THAW (R295): REC_THAW empties the window area and resumes storing. -/
  | recThaw (q : Req) (v : U8)
  /-- REC_WINDOW_DATA (R295): A read of REC_WINDOW_DATA returns 16 stored entries and advances the offset. -/
  | recWindowData (q : Req)
  /-- REPLAY_SETUP (R296): A write of REPLAY_SETUP pins hall time to ANCHOR_HT and enters REPLAY_PINNED. -/
  | replaySetup (q : Req) (v : BitVec 192)
  /-- REPLAY_RELEASE (R296): REPLAY_RELEASE returns the die to UNSET and clears the forced stretches. -/
  | replayRelease (q : Req) (v : U8)
  /-- REPLAY_FEED (R298): A write of REPLAY_FEED appends whole records to the feed queue. -/
  | replayFeed (q : Req) (v : Bytes)
  /-- REPLAY_END (R298): A write of REPLAY_END marks the end of the feed. -/
  | replayEnd (q : Req) (v : U8)
  /-- REPLAY_APPLY (R298): In STRICT mode the record at the head of the feed is applied at its BNUM. -/
  | replayApply
  /-- REPLAY_TIMED_APPLY (R300): In TIMED mode a fed record is applied when hall time reaches its recorded HT. -/
  | replayTimedApply
  /-- REPLAY_STALL (R301): No descriptor has advanced for REPLAY_STALL_MS with the feed not empty, so REPLAY_MISMATCH is written. -/
  | replayStall
  /-- FORCED_STRETCH (R303): A write of FORCED_STRETCH sets forced stretch entries in REPLAY_PINNED. -/
  | forcedStretch (q : Req) (v : BitVec 3072)
  /-- GO (R310): GO written to DOORBELL submits the window request buffer to the dictionary agent. -/
  | go (busSecure : Bool) (msg : Bytes)
  /-- ZDP_READ (R312): A ZDP READ request is routed or tunnelled, checked and answered. -/
  | zdpRead (d : Dev) (q : Req) (index : U16) (sub : U8)
  /-- REGISTER_WRITE (R321): A ZDP WRITE to an object with no row of its own is checked and applied per its commit class. -/
  | registerWrite (d : Dev) (q : Req) (index : U16) (sub : U8) (v : Bytes)
  /-- DICT_RSP (R308): A leaf receives a die's response from the tunnel and sends it to the manager. -/
  | dictRsp (p : Nat) (msg : Bytes)
  /-- TUNNEL_TIMEOUT (R308): No first response has come within TUNNEL_TIMEOUT_MS, so the leaf answers TIMEOUT. -/
  | tunnelTimeout (p : Nat) (reqId : U32)
  /-- REMOTE_FAULT_CLEARED (R72): A port in LOCK that already holds codeword lock sees RF clear in the peer's codewords and starts sending HELLO. -/
  | remoteFaultCleared (d : Dev) (p : Nat)
  /-- PRONK_COUNT_SEND (R144): The 1,024 ns spacing of a Fjouz chip's pronk counter ends with changed sums unsent, so the chip sends its READY and REFUSED sums upwards. -/
  | pronkCountSend (herd : BitVec 24)
  /-- REGION_TIME_READ (R330): A region reads hall time through the TIME queue; the TSU returns the HT80 of the taking tick, or zero while HT_VALID is false, and records a TIME_VALUE record. -/
  | regionTimeRead (region : Nat)
  /-- FJZ_RESET_ASSERT (R346): FJZ_RST_N falls, on a rail leaving tolerance, and the Fjouz chip is reset into FREE with hall time not established and its outputs low. -/
  | fjzResetAssert
  deriving DecidableEq, Repr

end Sys2Proof
end

