-- ==== Sys2Proof/Decode.lean ====
section
/-! DEFINITION. The block is commanded and not fetched: spec/opcode_table.json gives no row a bit pattern, so no word spells a
command. -/

namespace Sys2Proof

/-- The command that a word of `nbits` bits spells by the table's bits: none, since the table gives no row any. -/
def decodeTableWord (_nbits _w : Nat) : Option Instr := none

end Sys2Proof
end

