-- ==== Sys2Proof/Config.lean ====
section
/-! DEFINITION. What an implementation or a chip's making fixes and the manual does not give (values "from fuses",
"fixed", "drawn from the entropy source", learned estimates). Every constant here is opaque: nothing can be proved of
its value, so every claim holds whatever it is (log 2). -/

namespace Sys2Proof.Config

/-- The n-th value drawn from the entropy source (R275, R318). -/
opaque entropy : Nat → BitVec 256
/-- LOGIC_VERSION (R263), fixed at manufacture. -/
opaque logicVersion : U16
/-- LOGIC_CHECKSUM (R263), fixed at manufacture. -/
opaque logicChecksum : BitVec 128
/-- STEPPING (Table 12.10), fixed. -/
opaque stepping : U8
/-- PART_NUMBER (Table 12.10), fixed. -/
opaque partNumber : BitVec 128
/-- Value of a counter of the given width that steps past its maximum where the manual does not say that it
saturates. -/
opaque pastMax : (w : Nat) → BitVec w
/-- k of R52, learned by least squares from the window of (FRC, temperature, frequency control word). -/
opaque learnTempCoeff : List (Nat × Int × Int) → I64
/-- a of R52, learned from the same window. -/
opaque learnAgeing : List (Nat × Int × Int) → I64
/-- u_k and u_a of R53, estimated by the fit. -/
opaque learnUncertainty : List (Nat × Int × Int) → U32 × U32
/-- OCXO_AGEING_SLOPE (R106), learned over 72 h in LOCK that ended on the given tick. -/
opaque learnOcxoAgeing : Nat → I64
/-- u_a of R107 once the learned slope is valid, in 10^-18 per second. -/
opaque ocxoAgeingUnc : Nat → U32
/-- OCXO_U_F (R107): uncertainty of the frequency at entry to HOLD. -/
opaque ocxoUF : Nat → U32
/-- The frequency control word after one measurement, by a loop of the given bandwidth in mHz and damping factor: phase error in ps,
whether it steers frequency as well, and the word before (R95, R96, R112; the manual gives the loop no gains). -/
opaque loopWord : (mHz damping : Nat) → (errorPs : Int) → (steersFreq : Bool) → (word : Int) → Int
/-- The same by a frequency error, in units of 10^-15 (R96). -/
opaque freqWord : (mHz damping : Nat) → (freqErr : Int) → (word : Int) → Int
/-- Whether a quotient that the manual does not say how to round is rounded up. -/
opaque roundsUp : Int → Nat → Bool
/-- RUN and STEP of a record prefix that belongs to no herd context (R289 states none). -/
opaque noHerdRun : U8
opaque noHerdStep : BitVec 20
/-- OBJECT, WAITER and ROUND of an error record whose raising rule does not state them, by CODE (R11, R28). -/
opaque unstatedObject : U16 → U32
opaque unstatedWaiter : U16 → U32
opaque unstatedRound : U16 → U16
/-- LAT_MEDIAN_DRIFT_PS while no link has LAT_STATE 4 (R115). -/
opaque medianOfNone : I64
/-- P(θ) of R106, in 10^-12, while OCXO_TABLE does not hold five distinct temperatures. -/
opaque ocxoUnfitted : Int → Int
/-- Margin read as the difference of a monitor's reading and its bias when the bias exceeds the reading (R49). -/
opaque marginBelowZero : U8 → U8 → U8
/-- Context number that a chip gives its child for template entry i, by the draw made as the reservation is committed: no
cell of R211 carries it downwards (UP_CTX_A, UP_CTX_B, parent context of CTX_MAP). -/
opaque upContext : Nat → Nat → BitVec 13
/-- Chip ID of the top chip of a plane above a die, where the die's neighbour is not that chip (R209). -/
opaque topChip : (plane span : Nat) → Id24
/-- Action byte of a HERD_CHANGE record for admission, REEPOCH_COMMIT and UNLOAD (Table 11.4 gives no values). -/
opaque herdAction : Nat → U8
/-- Member dies that answered below a child chip, by the draw made at its last OUTCOME: no field of that cell carries the count
(R208). -/
opaque diesBelow : Nat → Nat
/-- A reservation that a chip above the leaves commits, by the draw made then, omits a die that the steward has decided to expel: no
field of the RESERVE cells names the dies (Table 8.3, R208). -/
opaque resvOmits : (die draw : Nat) → Bool
/-- Plane configuration of the hall as the management agents of its chips hold it (R229, R351): 0 DUAL, 1 A_ONLY, 2 B_ONLY. -/
opaque hallPlanes : Nat
/-- Content of an entry of the window area that holds no cell (R295 gives none). -/
opaque unwrittenEntry : Nat → BitVec 512
/-- The tenant slot that TENANT_STATEMENT reads for a tenant that holds none (Table 10.10 gives no values). -/
opaque noTenantSlot : Id24 → BitVec 256
/-- END_STATE of a final record that UNLOAD gives an entry whose ledger word cannot be read (Table 10.5 names the word's STATE). -/
opaque unreadableEnd : Nat → U8

/-- Writes that a recorded channel has completed as its completion signal comes: bank, row and data (R290); the scratchpad lies behind
the region interface. -/
opaque ingressWrites : (region channel tick : Nat) → List (U8 × U32 × List (BitVec 8))
/-- Whether a region reads an entry of one of its outbound queues on a spine tick, which returns the credit (R47): the manual
gives the region's side no time. -/
opaque regionReads : (region queue tick : Nat) → Bool

/-- Octets that the banks of BIST_SAVE hold, as the scratchpad controller reports them to a request that the window delivers
(R341). -/
opaque bankBytes : Nat → Nat
/-- RCC that a region shows to a snapshot that the window requests (Table 2.3). -/
opaque regionCount : Nat → BitVec 48

end Sys2Proof.Config
end

