-- ==== Sys2Proof/Machine/State.lean ====
section
/-! DEFINITION. The state of one TSU and one Fjouz chip, all of it plain data. Every field names the object or
register of the manual it holds, its type, and the rule that names it; a field marked "implied" is state that
the rule needs and the manual does not name. Field defaults are the values after power-on reset. -/

namespace Sys2Proof.Machine

/-! ## Enumerations -/

/-- TIME_STATE (Table 2.1). -/
inductive TimeState where
  | unset | acquire | narrow | calibrate | locked | holdover | freeRun | replayPinned
  deriving DecidableEq, Repr
/-- PORT_STATE (Table 3.6). -/
inductive PortState where
  | disabled | train | lock | hello | up | downHold
  deriving DecidableEq, Repr
/-- HERD_STATE (Table 5.11). -/
inductive HerdState where
  | free | loaded | armed | committed | running | done | halted | left
  deriving DecidableEq, Repr
/-- LOCK_STATE of a Fjouz chip (Table 4.9). -/
inductive LockState where
  | free | acq | lock | hold
  deriving DecidableEq, Repr
/-- REF_STATE (Table 4.12). -/
inductive RefState where
  | absent | qualified | demoted | disqualified | waiting
  deriving DecidableEq, Repr
/-- PHASE of BOUNDARY_STATUS (Table 13.9). -/
inductive Phase where
  | reset | init | post | run | onDemand | faultHold
  deriving DecidableEq, Repr
/-- Power state of a scratchpad bank (Table 6.6). -/
inductive BankState where
  | on | draining | off | waking
  deriving DecidableEq, Repr
/-- SWAP_STATE (Table 8.5). -/
inductive SwapState where
  | idle | planned | fetching | ready | refetching | failed | flipped
  deriving DecidableEq, Repr
/-- State of a round buffer (Table 7.6). -/
inductive RoundState where
  | empty | open | sent | held
  deriving DecidableEq, Repr
/-- State the steward keeps of one die (Table 8.3). -/
inductive DieState where
  | healthy | quarantined | expelDecided
  deriving DecidableEq, Repr
/-- REC_WINDOW_STATE (Table 11.11). -/
inductive WindowState where
  | recording | tail | frozen
  deriving DecidableEq, Repr
/-- Medium of a sync port (R56, R366). -/
inductive Media where
  | optical | copper
  deriving DecidableEq, Repr
/-- What a Fjouz chip's self-test came to (R348). -/
inductive SelfTest where
  | running | passed | failed
  deriving DecidableEq, Repr

/-! ## Reasons to stop -/

/-- Faults of the model. -/
inductive Fault where
  /-- An operand names a port, region, link, herd context, candidate, output, tine context or watch slot beyond
  the numbers of the manual (R8, Table 1.1, Table 12.9), so no such part exists to act. Raised by every
  command with such an operand. Safe: it only stops. -/
  | outsidePart
  deriving DecidableEq, Repr

/-- Refusals of the model. -/
inductive Refusal where
  /-- A command that has no meaning yet, by its mnemonic. Safe: it only stops. -/
  | notModelled (mnemonic : String)
  deriving DecidableEq, Repr

/-! ## Records, cells in flight and outputs -/

/-- An error record (Table 9.2). -/
structure ErrRec where
  code          : U16 := 0
  halts         : Bool := false
  fjouz         : Bool := false
  secure        : Bool := false
  droppedBefore : Bool := false
  ht            : HT := 0
  die           : Id24 := 0
  herd          : Id24 := 0
  object        : U32 := 0
  waiter        : U32 := 0
  round         : U16 := 0
  detail        : U16 := 0
  deriving DecidableEq, Repr

/-- The error ring and its objects (R248, Table 9.10), on either part. -/
structure ErrRing where
  /-- ERR_POP, ERR_COUNT (R248): the records held, oldest first. -/
  ring     : List ErrRec := []
  /-- ERR_OVERFLOW (BOOL; R248): sticky overflow flag. -/
  overflow : Bool := false
  /-- ERR_DROPPED (U32; R248): records dropped, saturating. -/
  dropped  : U32 := 0
  /-- ERR_TOTAL (U64; R248): records raised since reset. -/
  total    : U64 := 0
  /-- implied (R248): a record was dropped since the last one that entered. -/
  gap      : Bool := false
  deriving DecidableEq, Repr

/-- A cell waiting in a port's transmit queue (R64): its place in the order, whether it is a retransmission,
whether it is bypass-forwarded, whether it leaves ahead of every other P1 cell (R206), and the tick on which it became
ready. -/
structure TxCell where
  cell   : Cell
  bypass : Bool := false
  retry  : Bool := false
  first  : Bool := false
  ready  : Nat := 0
  deriving DecidableEq, Repr

/-- A retried cell in the replay buffer (R68), with the codewords that carried it. -/
structure ReplayCell where
  cell : Cell
  cws  : List (BitVec 12)
  at_  : Nat
  deriving DecidableEq, Repr

/-- A gap in a class of retried cells (R69, R70): the lost codeword, when it opened, and when the last
RETRY_REQ for it left; of the four classes, those in which cells have come ahead of it and those that miss nothing. -/
structure Gap where
  cw      : BitVec 12
  opened  : Nat
  lastReq : Nat
  ahead   : BitVec 4 := 0
  filled  : BitVec 4 := 0
  deriving DecidableEq, Repr

/-- A response of a dictionary agent (R311): the source and the network address it returns to, its header
(Table 12.4), its value and, if SECURE, its tag. -/
structure Rsp where
  src   : Source
  peer  : U64
  hdr   : BitVec 256
  value : Bytes
  tag   : BitVec 128
  deriving DecidableEq, Repr

/-- What a command hands out of the block other than cells (Table 13.3, R91, R307): region tokens, frames,
pulses and messages. -/
inductive Out where
  /-- LAUNCH token (R129): region, ENTRY, context. -/
  | launch (region : Nat) (entry : U16) (ctx : Nat)
  /-- STOP (R255). -/
  | stop (region : Nat)
  /-- WATCH notification (Table 6.3). -/
  | notify (region : Nat) (n : BitVec 192)
  /-- TINE result record (R192): region, participation, round, members, GRANT, FAILED, FAIL_CAUSE, payload. -/
  | result (region part : Nat) (round : U16) (members : Id24) (grant failed : Bool) (cause : BitVec 3)
      (payload : BitVec 512)
  /-- TIME value (R330). -/
  | time (region : Nat) (ht : HT)
  /-- BANK request (R175): region, bank, on. -/
  | bank (region bank : Nat) (on : Bool)
  /-- BIAS (R49). -/
  | bias (region : Nat) (v : U8)
  /-- FSTRETCH (R303). -/
  | fstretch (region : Nat) (e : BitVec 192)
  /-- A marker frame handed to a data link (R83, R331). -/
  | marker (link : Nat) (m : Marker)
  /-- A response or request on the management network, or in the window (R307, R310). -/
  | response (d : Dev) (r : Rsp)
  /-- A ZDP write sent on the management network (R227): target device, index, subindex, value. -/
  | report (target : Id24) (index : U16) (sub : U8) (value : Bytes)
  /-- A suspect or clear report to the stewards of a herd (R228): die and HEALTH. -/
  | healthReport (suspect : Bool) (herd die : Id24) (health : U16)
  /-- The steward sets or clears QUARANTINED in the context of a die that holds the herd (R231). -/
  | quarantine (herd die : Id24) (on : Bool)
  /-- What a leaf tells the stewards of a herd of a member die (R230): 2, it has written HERD_LEFT; 3, a TINE_TIMEOUT names it. -/
  | memberReport (herd : Id24) (cond : Nat) (die : Id24)
  /-- The active steward's copy of its state to the other steward after a decision (R229): each die's state and HEALTH, the hall
  times of the decisions of the last hour, and LAST_EXPEL_HT. -/
  | stewardCopy (herd : Id24) (dies : List (Nat × DieState × U16)) (decisions : List Nat) (lastExpel : HT)
  /-- Delay_Req sent by a root (R89): its transport and address, zero for multicast. -/
  | delayReq (eth : Nat) (seqId : U16) (transport : U8) (address : BitVec 128)
  /-- Pulse and time-of-day message of a reference output (R91): output, advance in ps, message. -/
  | refPulse (out : Nat) (advPs : U32) (tod : BitVec 184)
  /-- Data of an INGRESS_DATA record written by its channel (R299): region, channel, bank, row, data. -/
  | ingress (region : Nat) (channel bank : U8) (row : U32) (data : Bytes)
  deriving DecidableEq, Repr

/-! ## The sync port (both parts) -/

/-- One sync port (Table 3.13, R72), of a TSU or a Fjouz chip. -/
structure Port where
  /-- PORT_STATE (ENUM8; R72, 03_sync_ports_timestamps.md). -/
  state : PortState := .disabled
  /-- PORT_ENABLE (BOOL; R87). -/
  enable : Bool := true
  /-- CW_UNCORRECTABLE (U64; R87). -/
  cwUncorr : U64 := 0
  /-- SYMBOLS_CORRECTED (U64; R87). -/
  symCorr : U64 := 0
  /-- RETRY_COUNT (U32; R87): RETRY_REQ cells sent. -/
  retryCount : U32 := 0
  /-- CABLE_ASYM_PS (I64; R81). -/
  cableAsym : I64 := 0
  /-- MEAN_PATH_DELAY_PS (U64; R79). -/
  pathDelay : U64 := 0
  /-- TX_LATENCY_PS (U32; R80). -/
  txLat : U32 := 0
  /-- RX_LATENCY_PS (U32; R80). -/
  rxLat : U32 := 0
  /-- implied (R80): the latencies last measured, which the two above follow in steps, and the tick of that measurement. -/
  txMeasured : U32 := 0
  rxMeasured : U32 := 0
  measuredAt : Nat := 0
  /-- NEG_VERSIONS (DOMAIN, 8 bytes; R74): framing, time, tine, dictionary. -/
  negVer : BitVec 64 := 0
  /-- PEER_ID (U32; R87). -/
  peerId : U32 := 0
  /-- PEER_PORT (U8; R87). -/
  peerPort : U8 := 0
  /-- DOWN_CAUSE (ENUM8; R86). -/
  downCause : U8 := 0
  /-- LINK_DOWN_COUNT (U32; R86). -/
  linkDowns : U32 := 0
  /-- PROTOCOL_ERRORS (U32; R61). -/
  protoErrors : U32 := 0
  /-- P1_RESERVED_CPS (U32; R208, Table 7.11): reserved P1 rate of a Fjouz port. -/
  p1Reserved : U32 := 0
  /-- implied (R56): the medium the integrator fitted. -/
  media : Media := .optical
  /-- implied (R60): the receiver holds codeword lock. -/
  rxLock : Bool := false
  /-- CW_NUM (12 bits) and RF (1 bit) of Table 3.2: the header of the codeword now being transmitted (R59, R60). -/
  cwHeader : BitVec 20 := 0
  /-- implied (Table 12.10): DEVICE_ID as the port uses it, taken as the port starts training. -/
  ownId : Id24 := 0
  /-- RF (1 bit; Table 3.2) of the codewords the peer sends. -/
  rfFromPeer : Bool := true
  /-- implied (R73, R86): the last HELLO received from the peer, as it was; none if none ever has been. -/
  peerHello : Option (BitVec 448) := none
  /-- ACK (1 bit; R73): a HELLO has been received from the peer since the port last left TRAIN. -/
  heard : Bool := false
  /-- implied (R366): a training failure has been recorded since PORT_ENABLE or UP. -/
  trainFailSeen : Bool := false
  /-- implied (R72): tick on which the present TRAIN or DOWN_HOLD began. -/
  since : Nat := 0
  /-- CW_NUM (12 bits; R59) and slot: cell slots transmitted since the port left TRAIN. -/
  slots : Nat := 0
  /-- implied (R64): cells waiting to be transmitted. -/
  txq : List TxCell := []
  /-- implied (R66): P2 cells that the dictionary agent or the management agent holds back while the P2 buffer is full. -/
  p2Held : List TxCell := []
  /-- implied (R66): of the last 64 slots, which took a P3 cell. -/
  p3Last : List Bool := []
  /-- implied (R20, R64): the cell in the slot now on the lane, with its codeword and slot numbers. -/
  onLane : Option (Nat × Cell) := none
  /-- implied (R252): where that cell is the first of a pair, the waiting cell that it was, and the replay buffer before it. -/
  begun : Option (TxCell × List ReplayCell) := none
  /-- LSEQ (16 bits, one per class; R68): next number to send. -/
  lseqTx : Tbl U16 := []
  /-- LSEQ (16 bits, one per class; R68): next number to deliver. -/
  lseqRx : Tbl U16 := []
  /-- implied (R68): the replay buffer. -/
  replay : List ReplayCell := []
  /-- implied (R68): cells held behind a gap, as the commands that brought them. -/
  heldRx : List Instr := []
  /-- implied (R69): open gaps. -/
  gaps : List Gap := []
  /-- implied (R78): t1 and t2 of the exchange in progress. -/
  t12 : Option (HT × HT) := none
  /-- implied (R78): t3 of the exchange in progress and the codeword that carried the TIME_UP. -/
  t3 : Option (HT × BitVec 12) := none
  /-- implied (R79): an exchange on this port has completed. -/
  exchanged : Bool := false
  /-- implied (R93, R113): tick of the last BLEAT, and its body. -/
  lastBleat : Option (Nat × BitVec 448) := none
  /-- POSITION (16 bits; R75) received here, if valid. -/
  position : Option U16 := none
  /-- implied (R228): consecutive HEALTH samples below HEALTH_SUSPECT. -/
  suspectRun : Nat := 0
  /-- implied (R228): consecutive HEALTH samples at or above HEALTH_WARN. -/
  clearRun : Nat := 0
  /-- implied (R228): the die on this port has been reported suspect. -/
  reported : Bool := false
  /-- implied (R308): requests tunnelled on this port that await their first response: header (Table 12.4),
  source address and the tick on which they were tunnelled. -/
  tunnels : List (BitVec 256 × U64 × Nat) := []
  /-- implied (R308): writes with APPLY_ACK whose second response is awaited: REQ_ID, ORIGIN, address. -/
  ackWait : List (U32 × U16 × U64) := []
  /-- MSG_TAG (16 bits; Table 12.1) of the next message on this port. -/
  msgTag : U16 := 0
  deriving DecidableEq, Repr

/-! ## The dictionary agent (both parts) -/

/-- A pending write (R322); `ctx` is the herd context, 64 for one of class D, or the template slot of a write held on a Fjouz chip
(R21). -/
structure PendingWrite where
  ctx      : Nat
  index    : U16
  sub      : U8
  value    : Bytes
  req      : Req
  frc      : Nat
  /-- The element that a second selector of the object named as the write was accepted. -/
  elem     : Nat
  deriving DecidableEq, Repr

/-- A held ledger write (R140). -/
structure HeldWrite where
  ctx   : Nat
  entry : Nat
  value : BitVec 256
  iter  : Nat
  req   : Req
  frc   : Nat
  deriving DecidableEq, Repr

/-- The dictionary agent of one part (Table 12.10) with its identity and worlds. -/
structure Agent where
  /-- DEVICE_ID (U32; R324): fuse, 24 bits. -/
  deviceId : Id24 := 0
  /-- SERIAL (U64; R324): fuse. -/
  serial : U64 := 0
  /-- LC_FUSES, LC_STATE (3 fuses; R344). -/
  lcFuses : BitVec 3 := 0
  /-- implied (R344): a life-cycle fuse is being programmed. -/
  lcPending : Option (Fin 3) := none
  /-- SEC_KEY (32 bytes; R345): OTP, never readable. -/
  secKey : BitVec 256 := 0
  /-- SEC_KEY_VALID (BOOL; R345). -/
  secKeyValid : Bool := false
  /-- SEC_BOOT_ID (24 bits; R318): drawn at reset. -/
  bootId : Id24 := 0
  /-- SEC_COUNTER_LAST (U64; R318). -/
  secLast : U64 := 0
  /-- ZDP_ACCEPTED (U64; R324). -/
  accepted : U64 := 0
  /-- ZDP_DUPLICATES (U32; R314). -/
  duplicates : U32 := 0
  /-- ZDP_AUTH_FAILS (U32; R318). -/
  authFails : U32 := 0
  /-- TUNNEL_DISCARDS (U32; R309). -/
  tunnelDiscards : U32 := 0
  /-- implied (R314): responses to the last 64 non-idempotent requests, newest first. -/
  held : List Rsp := []
  /-- Selectors (R316), by source: the key is 2^24 · source + 256 · index + subindex. -/
  selectors : Tbl Nat := []
  /-- WORLD_SUBBLOCK (BITS32; R319). -/
  worldSub : U32 := 0x600
  /-- WORLD_HERD (8 bytes; R319). -/
  worldHerd : BitVec 64 := 0
  /-- WORLD_REGION (16 entries of 8 bytes; R319). -/
  worldRegions : Tbl (BitVec 64) := []
  /-- PENDING_LIST (R322): pending writes of class H, in acceptance order. -/
  pending : List PendingWrite := []
  /-- PENDING_LIST (R140, R322): held ledger writes, in acceptance order. -/
  heldLedger : List HeldWrite := []
  deriving DecidableEq, Repr

/-! ## TSU: time core, planes -/

/-- The time core of a TSU (Table 2.5) and its plane loop (Table 4.12). -/
structure TimeCore where
  /-- FRC_NOW (U64; R27, 02_hall_time.md). -/
  frc : U64 := 0
  /-- TIME_STATE (ENUM8; R41). -/
  state : TimeState := .unset
  /-- STATE_ENTRY_HT (HT80; R41). -/
  entryHt : HT := 0
  /-- HT_VALID (BOOL; Table 2.2). -/
  htValid : Bool := false
  /-- OFFSET (HT80; R29, R33). -/
  offset : HT := 0
  /-- RATE (I64; R30): rate times 2^40. -/
  rate : I64 := 0
  /-- LATCHED_FRC (U64; R33). -/
  latchedFrc : U64 := 0
  /-- LATCHED_HT (HT80; R33). -/
  latchedHt : HT := 0
  /-- PHASE_STEP_PS (I64; R38): the last accepted step. -/
  phaseStep : I64 := 0
  /-- implied (R38): remainder of the phase steps not represented in offset, in 2^-16 ns / 1000. -/
  stepRem : Int := 0
  /-- SLEW_REMAINING_PS (I64; R39). -/
  slewRemaining : I64 := 0
  /-- implied (R39): slew done and not yet a whole ps, in 10^-9 ps. -/
  slewFrac : Nat := 0
  /-- PHASE_SLEW_MAX_PPB (U32; R39). -/
  slewMaxPpb : U32 := 100
  /-- PLANE_OFFSET_PS (I64; R51). -/
  planeOffset : I64 := 0
  /-- PLANE_OFFSET_DRIFT_PS (I64; R51). -/
  planeDrift : I64 := 0
  /-- implied (R51): PLANE_OFFSET_PS at the last switch; none until the first measurement after a selection that
  carries no offset. -/
  offsetAtSwitch : Option Int := none
  /-- HOLDOVER_BOUND_PS (U64; R53). -/
  holdBound : U64 := 0
  /-- HOLDOVER_EXIT_LIMIT_PS (U32; R54). -/
  holdLimit : U32 := 2000
  /-- HOLD_TEMP_COEFF (I64; R52): k. -/
  tempCoeff : I64 := 0
  /-- implied (R52): the default coefficient that the board configuration wrote. -/
  boardCoeff : I64 := 0
  /-- HOLD_AGEING_SLOPE (I64; R52): a. -/
  ageing : I64 := 0
  /-- HOLD_MODEL_VALID (BOOL; R52). -/
  modelValid : Bool := false
  /-- HOLD_U_F (U32; R53). -/
  uF : U32 := 0
  /-- HOLD_U_K (U32; R53). -/
  uK : U32 := 0
  /-- HOLD_U_A (U32; R53). -/
  uA : U32 := 0
  /-- HOLD_ENTRY_TEMP_MK (I64; R53): θ_e. -/
  entryTemp : I64 := 0
  /-- TEMP (16-bit sample, 1 ms; R52): the last samples in mK, newest first, up to 1 s of them. -/
  temps : List Int := []
  /-- implied (R52): the sliding window of (FRC, θ, frequency control word) the model is learned from. -/
  window : List (Nat × Int × Int) := []
  /-- implied (R53): tick of entry to HOLDOVER. -/
  holdEntry : Nat := 0
  /-- implied (R53): Σ |θ − θ_e| · Δt in mK·ms. -/
  tempSum : Nat := 0
  /-- implied (R53): a plane has been regained, so RATE and the bound are frozen. -/
  regained : Bool := false
  /-- implied (Table 2.2): the loop has taken over on the regained plane. -/
  takenOver : Bool := false
  /-- implied (R52): tick since which the die has been LOCKED after CALIBRATE without a break. -/
  lockedSince : Option Nat := none
  /-- implied (R52): lowest and highest temperature since then. -/
  tempSpan : Option (Int × Int) := none
  /-- implied (R334): tick up to which TSU_PPS is high. -/
  ppsUntil : Nat := 0
  /-- SEL_PLANE (ENUM8; R113): 0 A, 1 B, none. -/
  selPlane : Option Plane := none
  /-- PLANE_A_SQC, PLANE_B_SQC (U8; R114): received SQC of each plane. -/
  sqcA : U8 := 7
  sqcB : U8 := 7
  /-- implied (R114): demoted planes. -/
  demotedA : Bool := false
  demotedB : Bool := false
  /-- FORCE_PLANE (ENUM8; R114). -/
  forcePlane : U8 := 0
  /-- PLANE_WTR_S (U32; R114). -/
  planeWtrS : U32 := 10
  /-- implied (R114): tick since which the unselected plane has had the lower SQC. -/
  betterSince : Option Nat := none
  /-- PLANE_DRIFT_DEMOTE_PS (U32; R115). -/
  driftDemote : U32 := 250
  /-- implied (R115): consecutive seconds of high and of low drift. -/
  driftHigh : Nat := 0
  driftLow : Nat := 0
  /-- PLANE_CARRIED_OFFSET_PS (I64; R116). -/
  carried : I64 := 0
  /-- implied (R116): PLANE_OFFSET_RELEASE written since the carried offset was set. -/
  released : Bool := false
  /-- implied (R116): slew of the carried offset done and not yet a whole ps, in 10^-9 ps. -/
  carriedFrac : Nat := 0
  /-- LAT_MEDIAN_DRIFT_PS (I64; R115). -/
  latMedian : I64 := 0
  /-- PLANE_CONFIG (ENUM8; R351). -/
  planeConfig : U8 := 0
  /-- implied (R112): consecutive exchanges that meet the criterion, newest first, in ps. -/
  thetas : List Int := []
  /-- implied (R82): exchanges gathered in CALIBRATE as (θ, d) in ps. -/
  calib : List (Int × Int) := []
  /-- implied (R82): consecutive calibration restarts, and CAL_FAIL recorded. -/
  restarts : Nat := 0
  calFailed : Bool := false
  /-- implied (R112): tick of entry to NARROW, and LOCK_SLOW recorded for it. -/
  narrowSince : Nat := 0
  lockSlow : Bool := false
  /-- SPINE_SKEW_PS (U16; R28). -/
  spineSkew : U16 := 0
  /-- implied (R26, R112): the frequency control word, as its deviation from nominal. -/
  fcw : Int := 0
  deriving DecidableEq, Repr

/-! ## TSU: regions, banks, lateral taps -/

/-- A step that a launch started on a region (R129, R131): context, step index, ITER, F_L, its snapshot RCC,
nominal period changed since. -/
structure Launched where
  ctx     : Nat
  step    : Nat
  iter    : Nat
  fl      : Nat
  rcc     : BitVec 48
  nomOk   : Bool
  deriving DecidableEq, Repr

/-- One region (0x24nn, 0x63nn). -/
structure Region where
  /-- SNAPSHOT (16 bytes; Table 2.3). DESIGN CHOICE (log 62): Table 2.5 gives the record the reset value 0, Table 2.3 its MARGIN_MIN
  0xFF; the model resets that field to 0xFF and the others to 0. -/
  snap : BitVec 128 := BitVec.ofNat 128 (0xFF <<< 112)
  /-- STRETCH_EVENTS (U32, saturating; R44). -/
  stretchEvents : U32 := 0
  /-- STRETCH_NS (U64; R46). -/
  stretchNs : U64 := 0
  /-- MARGIN_MIN (U8; R48). -/
  marginMin : U8 := 0xFF
  /-- QUEUE_STALLS (U32; R47). -/
  queueStalls : U32 := 0
  /-- NOMINAL_PERIOD_FS (U32; R44). -/
  nominalFs : U32 := 0
  /-- implied (Table 2.3): lowest reading and stretched periods since the previous snapshot. -/
  snapMin : U8 := 0xFF
  snapStretches : Nat := 0
  /-- implied (R46): a snapshot has been taken, and the nominal period has not changed since. -/
  snapValid : Bool := false
  /-- implied (R48): the last reading was below the threshold. -/
  below : Bool := false
  /-- implied (R47): SLACK_EXHAUSTED sent for the step now running. -/
  slackSent : Bool := false
  /-- implied (R49): the bias the region's monitors hold. -/
  bias : U8 := 0
  /-- implied (R125, R131): launches without a done token yet, oldest first. -/
  launched : List Launched := []
  /-- implied (R165, R329): the registration queue: registrations not yet taken, oldest first. -/
  watchQueue : List (BitVec 208) := []
  /-- implied (R329): tokens of the other inbound queues not yet taken, oldest first, by queue. Those past the depth of
  Table 13.4 wait at the region for credit (R47). -/
  inq : Tbl (List Instr) := []
  /-- implied (R329): inbound queues that have given an entry on this tick. -/
  inTaken : BitVec 8 := 0
  /-- implied (R47, R329): entries of each outbound queue that the region has not read. -/
  outq : Tbl Nat := []
  /-- implied (R47): entries for the region for which the TSU holds no credit, oldest first, with their queue. -/
  outWait : List (Nat × Out) := []
  /-- BANK_POWER, BANK_DRAINING (BITS32; R175): state of each of 16 banks. -/
  banks : Tbl BankState := []
  /-- implied (R175): tick on which each bank's drain or wake began. -/
  bankSince : Tbl Nat := []
  /-- implied (R176): herd context whose descriptor switched each bank. -/
  bankCtx : Tbl Nat := []
  /-- BANK_DRAIN_TIMEOUTS (U32; R176). -/
  drainTimeouts : U32 := 0
  /-- BANK_REFUSALS (U32; R175). -/
  refusals : U32 := 0
  deriving DecidableEq, Repr

/-- One lateral link (0x34nn). -/
structure Link where
  /-- LAT_STATE (ENUM8; R84): 0 off, 1 no peer, 2 peer time invalid, 3 measuring, 4 valid. -/
  state : U8 := 0
  /-- LAT_OFFSET_PS (I64; R84). -/
  offset : I64 := 0
  /-- LAT_BASELINE_PS (I64; R84). -/
  baseline : I64 := 0
  /-- implied (R84): a baseline has been captured. -/
  hasBaseline : Bool := false
  /-- LAT_DRIFT_PS (I64; R84). -/
  drift : I64 := 0
  /-- LAT_DELAY_PS (U64; R83). -/
  delay : U64 := 0
  /-- LAT_PEER_DIE (U32; R84). -/
  peer : U32 := 0
  /-- LAT_ASYM_PS (I64; R83). -/
  asym : I64 := 0
  /-- LAT_ENABLE (BOOL; R83). -/
  enable : Bool := true
  /-- implied (R84): θ_L of the last 16 exchanges, newest first, in ps. -/
  last : List Int := []
  /-- implied (R83): hall times of the last 16 markers sent, newest first, and of the last one that arrived. -/
  sentHts : List HT := []
  gotHt : Option HT := none
  /-- implied (R83): tick of the last marker sent. -/
  sentAt : Option Nat := none
  deriving DecidableEq, Repr

/-! ## TSU: herd contexts, sync engine, tines, ledger -/

/-- What a pass over the entries of a group does to each (R141, R239, R264 to R266). -/
inductive GroupAct where
  /-- A ledger operation of Table 5.7 with LEDGER_AMOUNT. -/
  | ledger (op amount : Nat)
  /-- CLOSE: D shared among the entries named (R265). -/
  | share (d : Nat) (who : List Nat)
  /-- The automatic takes after a share or a ledger operation (R266). -/
  | auto
  /-- A take of every entry (R267). -/
  | take
  /-- FLIP: BOUND entries become DRAINING (R238). -/
  | flip
  /-- The drain's end: DRAINING entries expire, or rebind (R239). -/
  | drainEnd (rebind : Bool)
  deriving DecidableEq, Repr

/-- A pass over a group in progress (R141): what it does, the next entry, the entry after the last, the integer hall
time of its boundary, the entries that took a share or were changed so far, and the tick on which it last ran. A pass over every
group of a herd (R238, R239) counts its entries in group order. -/
structure LedgerOp where
  ctx    : Nat
  group  : Nat
  act    : GroupAct
  next   : Nat
  upto   : Nat
  ns     : Nat
  rank   : Nat := 0
  tick   : Option Nat := none
  deriving DecidableEq, Repr

/-- A descriptor that the sequencer looks at ahead of its launch or pass (R125, R126): its index, its grid time with the BASE it
rests on, ITER as it will be, the outcomes of the LOOPs before it on which all that depends, whether its successors have still to be
looked at, the tick of the grid time and of the gate timeout once converted, the gates seen to hold, F_g, and the hall time at which
its gates began to wait (R194, R195). -/
structure Ahead where
  step  : Nat
  grid  : HT
  base  : HT
  iter  : Nat
  path  : List Bool := []
  more  : Bool := true
  gridTick : Option Nat := none
  outTick  : Option Nat := none
  held  : BitVec 4 := 0
  fg    : Option Nat := none
  since : Option HT := none
  deriving DecidableEq, Repr

/-- A step boundary of the present tick whose phases 7 and 8 are still to come (R128): context, descriptor, grid time, ITER there,
whether its actions apply, and the iteration that its LOOP began. -/
structure Boundary where
  ctx  : Nat
  step : Nat
  grid : HT
  iter : Nat
  acts : Bool
  loop : Option Nat
  deriving DecidableEq, Repr

/-- A HALTED_NOW record that waits for the done tokens of the regions told to stop (R255): its waiter and round fields, those regions,
and how many of them were stopped mid-step. -/
structure NowStop where
  waiter  : U32
  round   : Nat
  regions : List Nat
  count   : Nat := 0
  deriving DecidableEq, Repr

/-- A launched step that is not complete (R131, R133): index, ITER, F_L, the regions not yet done, an abandoned
region among them, and its overrun already raised. -/
structure RunStep where
  step : Nat
  iter : Nat
  fl   : Nat
  left : BitVec 52
  dead : Bool := false
  late : Bool := false
  deriving DecidableEq, Repr

/-- One herd context (0x51hh, 0x61hh, 0x81hh). -/
structure Herd where
  /-- HERD_ID (U32; R216). -/
  herdId : U32 := 0
  /-- HERD_STATE (ENUM8; R149). -/
  state : HerdState := .free
  /-- LAUNCH_MODE (ENUM8; Table 5.4). -/
  mode : U8 := 1
  /-- STEP_FIRST, STEP_COUNT (U32; R119). -/
  stepFirst : U32 := 0
  stepCount : U32 := 0
  /-- CUR_STEP (U32; R147). -/
  cur : U32 := 0
  /-- ITER (48 bits; R137). -/
  iter : U64 := 0
  /-- ITER_LIMIT (U64; R137). -/
  iterLimit : U64 := 0xFFFFFFFFFFFF
  /-- BASE_HT (HT80; R124). -/
  base : HT := 0
  /-- MEMBER_COUNT (U32; R217). -/
  memberCount : U32 := 0
  /-- MEMBER_EPOCH (U16; R217). -/
  memberEpoch : U16 := 0
  /-- TEMPLATE_ID (U16; R217). -/
  templateId : U16 := 0
  /-- implied (R220): staged MEMBER_EPOCH, MEMBER_COUNT, TEMPLATE_ID. -/
  stEpoch : Option U16 := none
  stCount : Option U32 := none
  stTemplate : Option U16 := none
  /-- HOME_PLANE (ENUM8; R15). -/
  homePlane : U8 := 0
  /-- TREE_SPAN (ENUM8; R155). -/
  span : U8 := 0
  /-- GATE_TIMEOUT_NS (U32; R134). -/
  gateTimeout : U32 := 100000
  /-- HALT_LEAD_NS (U32; R135). -/
  haltLead : U32 := 2000
  /-- START_TIMEOUT_NS (U32; R148). -/
  startTimeout : U32 := 50000
  /-- PRONK_SEQ_LAST (U32; R146). -/
  seqLast : U32 := 0
  /-- ARMED_FIRE_HT (HT80; R155): T. -/
  fireHt : HT := 0
  /-- RESOURCE_DECL (32 bytes; R151). -/
  decl : BitVec 256 := 0
  /-- STREAM_GROUPS (60 bytes; R155). -/
  groups : BitVec 480 := 0
  /-- LOAD_STATUS (16 bytes; Table 5.16). -/
  loadStatus : BitVec 128 := 0
  /-- SLIP_LAST_NS, SLIP_MAX_NS (U32; R132). -/
  slipLast : U32 := 0
  slipMax : U32 := 0
  /-- HALT_POINT (HT80; R135). -/
  haltPoint : HT := 0
  /-- LAST_FAULT (U16; R155). -/
  lastFault : U16 := 0
  /-- WATCH_TIMEOUT_MIN_NS (U32; R170). -/
  watchMin : U32 := 60000
  /-- HERD_WATCH_PEAK (U16; R178). -/
  watchPeak : U16 := 0
  /-- WATCH_TIMEOUTS (U32; R171). -/
  watchTimeouts : U32 := 0
  /-- OVERSIGNALS (U32; R164). -/
  oversignals : U32 := 0
  /-- LIVE_MODEL_EPOCH (U16; R218). -/
  liveEpoch : U16 := 0
  /-- OLD_MODEL_EPOCH (U16; R218). -/
  oldEpoch : U16 := 0xFFFF
  /-- SWAP_PARTICIPATION (U16; R233). -/
  swapPart : U16 := 0xFFFF
  /-- SWAP_PLAN (32 bytes; R234). -/
  swapPlan : BitVec 256 := 0
  /-- SWAP_STATE (ENUM8; R236). -/
  swap : SwapState := .idle
  /-- FETCH_ATTEMPTS (U8; R236). -/
  attempts : U8 := 0
  /-- PLAN_SEQ_LAST (U16; R234). -/
  planSeq : U16 := 0
  /-- FLIP_GRID_HT (HT80; R238). -/
  flipHt : HT := 0
  /-- DRAIN_END_HT (HT80; R238). -/
  drainEnd : HT := 0
  /-- implied (R239): DRAIN_POLICY in force. -/
  drainPolicy : Bool := false
  /-- QUARANTINED (BOOL; R231). -/
  quarantined : Bool := false
  /-- implied (R236): READY_CTR at the launch of the attempt, its tick, and its FETCH descriptor. -/
  swapBase : Nat := 0
  swapSince : Nat := 0
  fetchStep : Nat := 0
  /-- implied (R236): a re-fetch waits for its regions. -/
  refetchWait : Bool := false
  /-- implied (R149): state before the first ARM. -/
  before : HerdState := .loaded
  /-- implied (R146): START_STEP and origin of the armed pronk, the cause of an ABORT received for it. -/
  startStep : U32 := 0
  originId : Id24 := 0xFFFFFF
  abort : Option (BitVec 8) := none
  /-- implied (R290): MEMBER_EPOCH and TEMPLATE_ID of the armed pronk, for its records. -/
  armEpoch : U16 := 0
  armTemplate : U16 := 0
  /-- implied (R147): the sequence number of the pronk that was last decided on, and whether the context fires at its T. -/
  decidedSeq : Option U32 := none
  fires : Bool := false
  /-- implied (R148): the arrival with 0 that a decision not to fire leaves for T: its tick, T and the sequence number. -/
  zeroAt : Option (Nat × HT × U32) := none
  /-- implied (R14, R146): (phase, sequence) of the PRONK cells acted on. -/
  acted : List (BitVec 3 × U32) := []
  /-- implied (R136): STEP releases not used up: (T_s, descriptors left). -/
  releases : List (HT × Nat) := []
  /-- implied (R136): STEP pronks taken, with T_s, for the deadline check. -/
  stepDeadline : Option (HT × U32) := none
  /-- implied (R135): H, when a halt time is held. -/
  halt : Option HT := none
  /-- implied (R135): this die detected the fault, so descriptors before H are passed without action. -/
  selfFault : Bool := false
  /-- implied (R154): the descriptor at CUR_STEP is uncorrectable. -/
  badHead : Bool := false
  /-- implied (R257): the next boundary halts, after a late HALT. -/
  haltLate : Bool := false
  /-- implied (R255): stopped by a HALT of KIND NOW. -/
  stoppedNow : Bool := false
  /-- implied (R255): HALTED_NOW records that still wait for the regions told to stop. -/
  nowStops : List NowStop := []
  /-- implied (R54, R225): cause of a departure at the next step boundary. -/
  departing : Option Nat := none
  /-- implied (R126): F_L of the preceding descriptor, and descriptors launched on that tick. -/
  lastFl : Nat := 0
  sameTick : Nat := 0
  /-- implied (R125, R126): the descriptors looked at ahead, in link order from CUR_STEP, along both ways past a LOOP. -/
  ahead : List Ahead := []
  /-- implied (R147): ticks of T and of the decision, once converted. -/
  fireTick : Option Nat := none
  decideTick : Option Nat := none
  /-- implied (R289): descriptors of the run launched or passed before the present tick. -/
  bnum : Nat := 0
  /-- implied (R257): greatest grid time of a descriptor of the run launched or passed. -/
  lastGrid : Option HT := none
  /-- implied (R264): open marks of the groups. -/
  openMarks : Tbl (Option Nat) := []
  /-- implied (R141): for each group, the tick on which its last operation ends. -/
  groupEnd : Tbl Nat := []
  /-- implied (R131): the launched steps that are not complete. -/
  steps : List RunStep := []
  /-- implied (R148): the start round has delivered 1. -/
  started : Bool := false
  deriving DecidableEq, Repr

/-- One binary event (R156, R163). -/
structure EventSt where
  set        : Bool := false
  claimed    : Bool := false
  oversignal : Bool := false
  timedOut   : Bool := false
  /-- implied (R172): LATE_AFTER_TIMEOUT has been written. -/
  lateSeen   : Bool := false
  /-- implied (R177): its word is uncorrectable. -/
  bad        : Bool := false
  deriving DecidableEq, Repr

/-- One counting sync object (R156). -/
structure CounterSt where
  value    : BitVec 48 := 0
  timedOut : Bool := false
  lateSeen : Bool := false
  bad      : Bool := false
  deriving DecidableEq, Repr

/-- One watch slot (Table 6.2, R165): the entry, the converted or parked timeout, the notification that waits to be emitted,
and whether it has been emitted on the present tick. -/
structure Watch where
  entry   : BitVec 256 := 0
  target  : HT := 0
  fire    : Option Nat := none
  outcome : Option (BitVec 3) := none
  value   : BitVec 48 := 0
  decidedAt : Nat := 0
  sent    : Bool := false
  deriving DecidableEq, Repr

/-- One region's contribution (R182): its payload, and the step that the region runs, by index and F_L. -/
structure Contribution where
  payload : BitVec 512
  step    : Nat
  fl      : Nat
  deriving DecidableEq, Repr

/-- A round that a participation assembles (R182): which regions have contributed, and what. -/
structure Assembly where
  contrib : Tbl (Option Contribution) := []
  deriving DecidableEq, Repr

/-- An arrival sent and not yet answered, kept for replay (R192, R206). -/
structure Kept where
  round    : U16
  kind     : BitVec 4
  cause    : BitVec 3
  members  : Id24
  deadline : U64
  payload  : BitVec 512
  deriving DecidableEq, Repr

/-- One participation (Table 7.1, PART_STATE of Table 7.11). -/
structure Part where
  /-- PART_ENTRY (32 bytes; Table 7.1). -/
  entry : BitVec 256 := 0
  /-- a, d (U16; R182, R183). -/
  a : U16 := 0
  d : U16 := 0
  /-- RUN (8 bits), GEN (4 bits; R183, R190). -/
  run : U8 := 0
  gen : BitVec 4 := 0
  /-- Active tine plane (R183). -/
  plane : Plane := .a
  /-- Bit 0 failed (R192), with the first failed round and its cause. -/
  failed : Bool := false
  failRound : U16 := 0
  failCause : BitVec 3 := 0
  /-- implied (R182): the two rounds assembled, a + 1 and a + 2. -/
  cur : Assembly := {}
  nxt : Assembly := {}
  /-- implied (R182, R194): contributions of each region still to be discarded, since their rounds were marked sent. -/
  skip : Tbl Nat := []
  /-- implied (R204): rounds past a + 1 that are marked sent. -/
  sentAhead : List U16 := []
  /-- implied (R206): kept arrivals, oldest first. -/
  kept : List Kept := []
  /-- implied (R238): round, MEMBERS and payload of the last results delivered not marked failed, newest first, up to 16. -/
  results : List (U16 × Id24 × BitVec 512) := []
  /-- implied (R206): the last result delivered: kind, cause, origin, members, payload. -/
  last : Option (BitVec 4 × BitVec 3 × Id24 × Id24 × BitVec 512) := none
  /-- implied (R206): tick of the last delivery or arrival. -/
  activeAt : Option Nat := none
  deriving DecidableEq, Repr

/-- A tree template (R185): its identity, entries and validity. -/
structure Template where
  id      : U16 := 0
  valid   : Bool := false
  count   : U16 := 0
  entries : Tbl (BitVec 256) := []
  deriving DecidableEq, Repr

/-! ## TSU: meter core -/

/-- A record of the meter ring (R274): body and, once signed, signature. -/
structure MeterRec where
  body : BitVec 768
  sig  : Option (BitVec 512)
  deriving DecidableEq, Repr

/-- The die-wide counters of the meter core (Table 10.10), held twice (R271). -/
structure DieCounters where
  /-- DIE_RUN_NS, DIE_ATTRIBUTED_NS, DIE_IDLE_NS, DIE_TOKENS (U64; R265, R267), REPLAY_IGNORED (U32, saturating; R269). -/
  run : U64 := 0
  attributed : U64 := 0
  idle : U64 := 0
  tokens : U64 := 0
  ignored : U32 := 0
  deriving DecidableEq, Repr

/-- The meter core (Table 10.10). -/
structure Meter where
  /-- SEAL_FUSES_USED, BREAK_FUSES_USED (fuses; R279). -/
  sealFuses : Nat := 0
  breakFuses : Nat := 0
  /-- implied (R279): OTP slot of each seal fuse. -/
  otp : Tbl (BitVec 64) := []
  /-- METER_PARAMS (8 bytes; Table 10.7). -/
  params : BitVec 64 := 60
  /-- implied (R275): private key (OTP), none before the die leaves BLANK. -/
  key : Option (BitVec 256) := none
  /-- METER_CERT (variable; R275): OTP. -/
  cert : Option Bytes := none
  /-- SLOT_ENTRY (32 bytes each; Table 10.2): copies A and B (R271). -/
  slotsA : Tbl (BitVec 256) := []
  slotsB : Tbl (BitVec 256) := []
  /-- TENANT_ENTRY (32 bytes each; Table 10.3): copies A and B. -/
  tenantsA : Tbl (BitVec 256) := []
  tenantsB : Tbl (BitVec 256) := []
  /-- Die counters: copies A and B. -/
  dieA : DieCounters := {}
  dieB : DieCounters := {}
  /-- implied (R273): DEVICE_NS and TOKENS of each slot at its last record. -/
  lastPart : Tbl (Nat × Nat) := []
  /-- implied (R270, R277): the bodies of the pending final records. -/
  finals : Tbl (Option (BitVec 768)) := []
  /-- REC_POP, REC_COUNT (R273): the ring of records, oldest first. -/
  ring : List MeterRec := []
  /-- REC_LOST (U32, saturating; R276). -/
  recLost : U32 := 0
  /-- implied (R276): a record was dropped since the last that entered. -/
  lostBefore : Bool := false
  /-- REC_SEQ_NEXT (U64; R273). -/
  seqNext : U64 := 0
  /-- BOOT_HT (HT80; R273), none before the BOOT record. -/
  bootHt : Option HT := none
  /-- TAMPER_ENTRY, TAMPER_COUNT (16 bytes each, up to 1,024; R278). -/
  tamper : List (BitVec 128) := []
  /-- TAMPER_TOTALS (13 × U32; R278). -/
  totals : Tbl U32 := []
  /-- implied (R278): tamper entries whose record waits for the BOOT record. -/
  heldTamper : List (BitVec 128) := []
  /-- implied (R278): REPLAY_IGNORED was logged for this entry to REPLAY_PINNED. -/
  replayLogged : Bool := false
  /-- implied (R278): TIME_DEGRADED logged since the die was last LOCKED. -/
  degradedLogged : Bool := false
  /-- implied (R273): next slot of the part walk. -/
  walk : Nat := 0
  deriving DecidableEq, Repr

/-! ## The TSU -/

/-- A record in the feed queue (R298): KIND and data. -/
structure FeedRec where
  kind : U8
  data : Bytes
  deriving DecidableEq, Repr

/-- A path reservation that a die has confirmed on one plane (R208, R221): herd, template, plane, and the draw that
names the leaf's context numbers (log 2). -/
structure PathHold where
  herd     : Id24
  template : U16
  plane    : Plane
  draw     : Nat
  /-- P1_CELLS_PER_S of the reservation (R208). -/
  p1       : Nat
  deriving DecidableEq, Repr

/-- The TSU of one die. -/
structure Tsu where
  /-- PHASE (BOUNDARY_STATUS; R336, 13_boundary_startup.md). -/
  phase : Phase := .reset
  /-- implied (R152, R208): herd, template, plane and P1_CELLS_PER_S of the reservation REQUESTs that the die has answered. -/
  asked : List (Id24 × U16 × Plane × Nat) := []
  /-- TSU_PWRGOOD (pin; R328). -/
  pwrGood : Bool := false
  /-- POST_PASSED (R336). -/
  postPassed : Bool := false
  /-- FAILED_BLOCK (8 bits; R340). -/
  failedBlock : U8 := 0
  /-- INT_STATUS (9 bits; R333). -/
  intStatus : U32 := 0
  /-- INT_ENABLE (9 bits; Table 13.6). -/
  intEnable : U32 := 0x80
  /-- POST_RECORD (32 bytes; R340). -/
  postRecord : ErrRec := {}
  /-- Request buffer of the local window (R310). -/
  winReq : Bytes := []
  /-- Response buffer of the local window (R310). -/
  winRsp : Option Rsp := none
  /-- BUSY, DONE, SECURE_GO of WIN_STATUS (Table 12.3). -/
  winBusy : Bool := false
  winDone : Bool := false
  secureGo : Bool := false
  /-- PPS_PIN_DELAY_PS (U32; R334): fuse. -/
  ppsDelay : U32 := 1800
  /-- BIST_MASK (BITS32; R341), BIST_SAVE (4 bytes), BIST_STATE, BIST_BLOCK, BIST_DURATION_US,
  POST_DURATION_US, BIST_PASSES (Table 13.17). -/
  bistMask : U32 := 0
  /-- implied (R342): the blocks of the test that runs. -/
  bistSel : U32 := 0
  bistSave : U32 := 0
  bistState : U8 := 0
  bistBlock : U8 := 0
  bistUs : U32 := 0
  postUs : U32 := 0
  bistPasses : U32 := 0
  /-- The dictionary agent, identity and worlds (12_zalcy_dictionary.md). -/
  agent : Agent := {}
  /-- POSITION (U16; R10), and whether POSITION_MISMATCH stands (R11). -/
  position : U16 := 0
  mismatch : Bool := false
  /-- The time core and plane loop. -/
  tc : TimeCore := {}
  /-- Ports 0 and 1 (R87). -/
  ports : Tbl Port := []
  /-- P3_LIMIT (U8; R66). -/
  p3Limit : U8 := 8
  /-- P3_DROPPED (U64; R66). -/
  p3Dropped : U64 := 0
  /-- Regions 0 to 51. -/
  regions : Tbl Region := []
  /-- MARGIN_THRESHOLD (U8; R48). -/
  marginThr : U8 := 13
  /-- MARGIN_BIAS (U8; R49). -/
  marginBias : U8 := 0
  /-- DIE_MARGIN_MIN, DIE_MARGIN_REGION (U8; R48). -/
  dieMargin : U8 := 0xFF
  dieMarginRegion : U8 := 0
  /-- MARGIN_EVENTS (U32, saturating; R48). -/
  marginEvents : U32 := 0
  /-- LAT_PERIOD_US (U32; R83). -/
  latPeriod : U32 := 1000
  /-- Lateral links 0 to 95. -/
  links : Tbl Link := []
  /-- TXTS_POP, TXTS_COUNT (64 entries of Table 3.12; R85). -/
  txts : List (BitVec 128) := []
  /-- TXTS_OVERFLOW, TXTS_DROPPED (R85). -/
  txtsOverflow : Bool := false
  txtsDropped : U32 := 0
  /-- Step table (16,384 × 64 bytes; R119, Table 5.1) and the written flags (R152). -/
  steps : Tbl (BitVec 512) := []
  written : List Nat := []
  /-- PRONK_DISCARDS, STRETCH_OVER_COUNT (U32; R146, R132). -/
  pronkDiscards : U32 := 0
  stretchOver : U32 := 0
  /-- Herd contexts 0 to 63. -/
  herds : Tbl Herd := []
  /-- Stream ledger (65,536 × 32 bytes; R138). -/
  ledger : Tbl (BitVec 256) := []
  /-- implied (R128): the tick on which gates were last evaluated. -/
  gatesAt : Option Nat := none
  /-- implied (R141): ledger operations that run on over later ticks. -/
  ledgerOps : List LedgerOp := []
  /-- implied (R154): ledger entries whose word is uncorrectable. -/
  badLedger : List Nat := []
  /-- implied (R128): step boundaries of the present tick whose phases 7 and 8 are still to come, and contexts that have left ARMED,
  COMMITTED or RUNNING on it, with whether they were RUNNING. -/
  bounds : List Boundary := []
  ended : List (Nat × Bool) := []
  /-- Counting objects (16,384 × 48 bits; R156). -/
  counters : Tbl CounterSt := []
  /-- Binary events (4,096; R156). -/
  events : Tbl EventSt := []
  /-- implied (R163): events to clear at the end of phase 6 of this tick. -/
  clearing : List Nat := []
  /-- Watch slots (4,096; R165). -/
  watches : Tbl Watch := []
  /-- SIGNAL_IGNORED, LATE_DISCARDS, NOTIFY_LAG_MAX (U32; R159, R172, R169). -/
  signalIgnored : U32 := 0
  lateDiscards : U32 := 0
  notifyLag : U32 := 0
  /-- Participations (1,024; R181). -/
  parts : Tbl Part := []
  /-- Template cache (256 slots; R185). -/
  templates : Tbl Template := []
  /-- implied (R208, R221): path reservations confirmed on this die. -/
  paths : List PathHold := []
  /-- RESULT_DISCARDS, TAG_DISCARDS, CONTRIB_DISCARDS (U32; Table 7.11). -/
  resultDiscards : U32 := 0
  tagDiscards : U32 := 0
  contribDiscards : U32 := 0
  /-- FAWN (BOOL; R224). -/
  fawn : Bool := true
  /-- HEALTH (U16; R226). -/
  health : U16 := 1000
  /-- HEALTH_POLICY (24 bytes; Table 8.2). -/
  healthPolicy : BitVec 192 := 0x14012c006401f42000012c002000fa001000fa0008
  /-- HEALTH_PENALTIES (10 bytes; R226). -/
  penalties : BitVec 80 := 0
  /-- implied (R226): accumulators of C, M, L, X. -/
  accC : U32 := 0
  accM : U32 := 0
  accL : U32 := 0
  accX : U32 := 0
  /-- implied (R226): counts of the current second of corrected words, late arrivals and mismatches. -/
  secC : Nat := 0
  secL : Nat := 0
  secX : Nat := 0
  /-- implied (R226): SYMBOLS_CORRECTED and CW_UNCORRECTABLE of the ports and MARGIN_EVENTS at the last update. -/
  lastSym : Nat := 0
  lastCw : Nat := 0
  lastMargin : Nat := 0
  /-- implied (R226): tick of the last update. -/
  healthAt : Nat := 0
  /-- MISMATCH_IN (U32; R227): reads return zero. LATE_ARRIVALS, SRAM_CORRECTIONS (U32, saturating; Table 8.8). -/
  lateArrivals : U32 := 0
  sramCorrections : U32 := 0
  /-- HALT_NOW, HALT_SEQ_LAST, HALTS_SENT, HALT_DISCARDS, HALT_LATE_COUNT (Table 9.10). -/
  haltNow : U32 := 0
  haltSeq : U16 := 0
  haltsSent : U32 := 0
  haltDiscards : U32 := 0
  haltLates : U32 := 0
  /-- implied (R254): (ORIGIN_ID, HALT_SEQ) taken. -/
  haltsTaken : List (Id24 × U16) := []
  /-- The error ring of 256 records (R248). -/
  errs : ErrRing := {}
  /-- The meter core. -/
  meter : Meter := {}
  /-- implied (R273): tick of the last part walk visit and of the last TENANT interval. -/
  walkAt : Nat := 0
  tenantAt : Nat := 0
  /-- RECORD_ENABLE (BOOL; R288). -/
  recordEnable : Bool := true
  /-- RECORD_INGRESS (16 bytes; R286). -/
  recordIngress : BitVec 128 := 0
  /-- TAP_SEQ_NEXT (U32; R288), TAP_DROPPED (U32), TAP_CELLS (U64). -/
  tapSeq : U32 := 0
  tapDropped : U32 := 0
  tapCells : U64 := 0
  /-- implied (R288): the staging buffer of 512 cells. -/
  staging : List Cell := []
  /-- REPLAY_SETUP (24 bytes; R296). -/
  replaySetup : BitVec 192 := 0
  /-- REPLAY_FEED, REPLAY_FEED_FREE (64 KiB queue; R298). -/
  feed : List FeedRec := []
  /-- implied (R298): REPLAY_END written. -/
  feedEnd : Bool := false
  /-- REPLAY_BNUM (U64; R298). -/
  replayBnum : U64 := 0
  /-- REPLAY_FIRST_DIFF (16 bytes; R301). -/
  firstDiff : BitVec 128 := 0
  /-- REPLAY_MISMATCHES (U32, saturating; R301). -/
  replayMismatches : U32 := 0
  /-- REPLAY_STALL_MS (U32; R301). -/
  stallMs : U32 := 1000
  /-- REPLAY_FAULT_MATCH (ENUM8; R300). -/
  faultMatch : U8 := 0
  /-- implied (R301): tick of the last descriptor launched or passed in the replay. -/
  replayAt : Nat := 0
  /-- implied (R300): first HALTS record of the window, and the first fault the replay raised: CODE,
  OBJECT, WAITER, BNUM. -/
  windowFault : Option (U16 × U32 × U32 × Nat) := none
  ownFault : Option (U16 × U32 × U32 × Nat) := none
  /-- implied (R299): recorded hall time values not yet used, by DEADLINE operations and region reads. -/
  timeValues : List (Id24 × U8 × U8 × HT) := []
  /-- implied (R301): recorded arrivals and results not yet compared. -/
  recArrivals : List (U16 × U16 × U8 × U8 × U64) := []
  recResults : List Bytes := []
  /-- implied (R301): own arrivals and results not yet compared. -/
  ownArrivals : List (U16 × U16 × U8 × U8 × U64) := []
  ownResults : List Bytes := []
  /-- implied (R301): the present stall has been recorded. -/
  replayStalled : Bool := false
  /-- FORCED_STRETCH (384 bytes; R303). -/
  forcedStretch : BitVec 3072 := 0
  deriving DecidableEq, Repr

/-! ## The Fjouz chip -/

/-- A candidate reference (0x410c; R97). -/
structure Cand where
  /-- REF_TYPE, REF_FREQ (ENUM8), REF_PRIORITY (U8). -/
  typ : U8 := 0
  freq : U8 := 0
  priority : U8 := 0
  /-- REF_SQC_RECEIVED, REF_SQC_ASSIGNED, REF_SQC_EFFECTIVE (U8; R92, R97). -/
  sqcRecv : U8 := 7
  sqcAssigned : U8 := 7
  sqcEff : U8 := 7
  /-- REF_STATE (ENUM8; R97). -/
  state : RefState := .absent
  /-- REF_PHASE_ERR_PS, REF_FREQ_ERR (I64). -/
  phaseErr : I64 := 0
  freqErr : I64 := 0
  /-- REF_PHASE_TOL_PS (U64), REF_FREQ_TOL (U32; R95). -/
  phaseTol : U64 := 0
  freqTol : U32 := 0
  /-- REF_WTR_S, REF_WTR_REMAINING_S (U32; R97). -/
  wtr : U32 := 300
  wtrLeft : U32 := 0
  /-- REF_ABSORBED_PS (I64; R99). -/
  absorbed : I64 := 0
  /-- REF_CABLE_DELAY_PS (I64; R90). -/
  cableDelay : I64 := 0
  /-- implied (R97): the counts over, high and low, baseline, phase, present, lost. -/
  nOver : Nat := 0
  nHigh : Nat := 0
  nLow : Nat := 0
  baseline : Int := 0
  phase : Int := 0
  present : Bool := false
  lost : Bool := false
  /-- implied (R90): pulse of the current second awaiting its message, and unused seconds in a row. -/
  ppsAt : Option Nat := none
  ppsStamp : Option HT := none
  unused : Nat := 0
  /-- implied (R110): CROSS of the latest messages, newest first. -/
  cross : List Bool := []
  /-- implied (R91): SOURCE_ID of the candidate. -/
  sourceId : U64 := 0
  /-- implied (R97): tick since which a time candidate has been eligible. -/
  eligibleSince : Option Nat := none
  deriving DecidableEq, Repr

/-- A PTP port of a root (0x450e; R89). -/
structure Eth where
  /-- PTP_DOMAIN (U8), PTP_TRANSPORT (ENUM8), PTP_UNICAST_ADDR (16 bytes), PTP_LOG_INTERVAL (ENUM8). -/
  domain : U8 := 0
  transport : U8 := 0
  unicast : BitVec 128 := 0
  logInterval : U8 := 4
  /-- PTP_DELAY_ASYM_PS (I64; R89). -/
  asym : I64 := 0
  /-- PTP_GM_IDENTITY (U64), PTP_CLOCK_CLASS (U8; Table 4.12). -/
  gm : U64 := 0
  clockClass : U8 := 255
  /-- ESMC_QL (U8; R92). -/
  esmcQl : U8 := 0x0F
  /-- implied (R89): Announce senders heard. -/
  senders : List Announce := []
  /-- implied (R89): tick of the last Announce of each sender, by its identity. -/
  heardAt : List (U64 × Nat) := []
  /-- implied (R89): tick of the last Delay_Req. -/
  delayAt : Option Nat := none
  /-- implied (R92): tick of the last ESMC. -/
  esmcAt : Option Nat := none
  /-- implied (R89): t1, t2 of the last Sync, a Sync awaiting its Follow_Up, t3 of the Delay_Req, its sequence number, and the mean
  path delay in ps. -/
  t1 : Option HT := none
  t2 : Option HT := none
  syncSeq : Option U16 := none
  syncCorr : Int := 0
  t3 : Option HT := none
  delaySeq : U16 := 0
  pathDelay : Int := 0
  deriving DecidableEq, Repr

/-- A switch in progress (Table 4.8): target, whether it is bridged, whether it is the frequency selection, and the tick
of its start. -/
structure Switch where
  target  : Nat
  bridged : Bool
  freq    : Bool
  started : Nat
  deriving DecidableEq, Repr

/-- A reference output (0x440o; R91). -/
structure RefOut where
  mode : U8 := 0
  freq : U8 := 0
  adv : U32 := 0
  /-- implied (R91): tick up to which the pulse is high. -/
  highUntil : Nat := 0
  deriving DecidableEq, Repr

/-- One round buffer of a Fjouz context (Table 7.6). -/
structure Round where
  state    : RoundState := .empty
  /-- Arrivals stored, by slot. -/
  cells    : Tbl (Option Cell) := []
  deadline : U64 := 0
  /-- Held outcome (R191). -/
  outcome  : Option Cell := none
  /-- Per twin slot: FAILED arrivals seen, and the winner's port (R202, R203). -/
  twinFail : List Nat := []
  winners  : Tbl (Option Nat) := []
  deriving DecidableEq, Repr

/-- One tine context of a Fjouz chip (Table 7.11). -/
structure TineCtx where
  /-- CTX_CONFIG (32 bytes; Table 7.2). -/
  config : BitVec 256 := 0
  /-- CTX_STATE: HERD_ID, b, RUN and GEN, states of rounds b and b + 1, UNSYNCED. -/
  herdId : Id24 := 0
  templateId : U16 := 0
  b : U16 := 0
  tag : Option (U8 × BitVec 4) := none
  unsynced : Bool := false
  r0 : Round := {}
  r1 : Round := {}
  /-- implied (R189): results of b − 1 and b − 2. -/
  kept1 : Option Cell := none
  kept2 : Option Cell := none
  /-- implied (R202): winners of the twin slots in rounds b − 1 and b − 2. -/
  winners1 : Tbl (Option Nat) := []
  winners2 : Tbl (Option Nat) := []
  /-- implied (R367): active. -/
  active : Bool := false
  /-- CTX_MAP (130 bytes; Table 7.11): parent context, then each slot's number; none is 0xFFFF. -/
  parent : U16 := 0xFFFF
  map : Tbl U16 := []
  inUse : Bool := false
  deriving DecidableEq, Repr

/-- A reservation of a Fjouz chip (R208, R221). -/
structure Resv where
  herdId : Id24
  templateId : U16
  span : U8
  memberCount : U32
  p1 : U32
  home : Bool
  committed : Bool
  /-- Context numbers held, in template-entry order, and the pronk counter's. -/
  ctxs : List Nat
  /-- Numbers that children listed in the running pass: port, template entry, number; the failures they reported, by port. -/
  numbers : List (Nat × Nat × U16)
  failures : Tbl (Option (BitVec 448))
  /-- Ports that have sent their last OUTCOME. -/
  lasts : List Nat
  /-- Dies that answered below (at a chip that is no leaf, as the free value of log 2). -/
  dies : Nat
  /-- A release query is running (R210). -/
  query : Bool
  started : Nat
  deriving DecidableEq, Repr

/-- Pronk counter of a herd (R143 to R145). -/
structure PronkCtr where
  /-- PRONK_STATUS: PRONK_SEQ, READY_COUNT, REFUSED_COUNT, last phase sent (16 bytes). -/
  seq : U32 := 0
  /-- implied (R143): no request has been accepted since the reservation was committed. -/
  first : Bool := true
  /-- implied (R143): the last sequence number that this chip accepted for the herd as an origin. -/
  accepted : Option U32 := none
  origin : Bool := false
  fireHt : HT := 0
  startStep : U32 := 0
  memberEpoch : U16 := 0
  templateId : U16 := 0
  memberCount : U32 := 0
  phase : U8 := 0
  /-- implied (R144): READY and REFUSED counts by child port. -/
  ready : Tbl Nat := []
  refused : Tbl Nat := []
  /-- implied (R144): sums last sent upwards, and the tick on which they left. -/
  sent : Nat × Nat := (0, 0)
  sentAt : Option Nat := none
  deriving DecidableEq, Repr

/-- The steward of one herd (R229 to R231). -/
structure Steward where
  /-- EXPEL_INTERVAL_S (U32), EXPEL_HOURLY_PCT (U8), BUDGET_BASE (U32; R231). -/
  interval : U32 := 60
  pct : U8 := 2
  base : U32 := 0
  /-- EXPELLED_LAST_HOUR: hall times in ns of the decisions, newest first; LAST_EXPEL_HT (HT80). -/
  decisions : List Nat := []
  lastExpel : HT := 0
  /-- STEWARD_DIES (R231): state and HEALTH of each reported die. -/
  dies : Tbl (Option (DieState × U16)) := []
  /-- implied (R230): the latest failed round of the herd (context, RUN, round), the dies that TINE_TIMEOUT named in it, and
  those it named in the failed round before it. -/
  failKey : Option (Nat × U8 × U16) := none
  named : List U32 := []
  namedBefore : List U32 := []
  /-- implied (R229): the steward of a plane B chip has taken over. -/
  took : Bool := false
  deriving DecidableEq, Repr

/-- One Fjouz chip, whose level ROLE sets. -/
structure Fjz where
  /-- FJZ_RST_N (pin; R346). -/
  rstN : Bool := false
  /-- implied (R348): self-test, firmware loaded, management processor works. -/
  selfTest : SelfTest := .running
  firmware : Bool := false
  mgmtOk : Bool := true
  /-- FIRMWARE_VERSION (U32; Table 12.10). -/
  fwVersion : U32 := 0
  /-- POST_DURATION_US (U32; Table 13.17). -/
  postUs : U32 := 0
  /-- ROLE, PLANE (ENUM8; R348). -/
  role : U8 := 0
  plane : U8 := 0
  /-- The management agent, identity and worlds. DESIGN CHOICE (log 11): the fuses of the chip, which has no local window to
  leave BLANK by (R344), are made PROVISIONED with a key. -/
  agent : Agent := { lcFuses := 1, secKeyValid := true }
  /-- implied (R77): the chip's counter and the mapping of its time core, in 2^-16 ns. -/
  frc : U64 := 0
  htOffset : HT := 0
  /-- implied (R103): hall time established. -/
  established : Bool := false
  /-- Ports 0 to 71. -/
  ports : Tbl Port := []
  p3Limit : U8 := 8
  p3Dropped : U64 := 0
  /-- Candidates 0 to 9. -/
  cands : Tbl Cand := []
  /-- LOCK_STATE (ENUM8; R103). -/
  lock : LockState := .free
  /-- SEL_TIME_REF, SEL_FREQ_REF (U8; R96). -/
  selTime : Option Nat := none
  selFreq : Option Nat := none
  /-- OUT_SQC (U8; R105). -/
  outSqc : U8 := 7
  /-- SWITCH_SEQ (U16; R99). -/
  switchSeq : U16 := 0
  /-- SWITCH_IN_PROGRESS (BOOL; R99). -/
  switch : Option Switch := none
  /-- FORCE_REF (U8; R98). -/
  forceRef : U8 := 0xFF
  /-- REALIGN (BOOL; R101): a slew is in progress. -/
  realigning : Bool := false
  realignFrac : Nat := 0
  /-- REALIGN_SLEW_PPB, PARENT_RELEASE_PPB, HOLD_WTR_S, HOLD_SQC_LIMIT_NS, HOLD_FREE_LIMIT_NS (U32). -/
  realignPpb : U32 := 10
  parentPpb : U32 := 100
  holdWtr : U32 := 10
  holdSqcLimit : U32 := 1000
  holdFreeLimit : U32 := 1000000
  /-- FREE_SERVE (BOOL), FREE_START_HT (HT80; R103). -/
  freeServe : Bool := false
  freeStart : HT := 0
  /-- implied (R100): a switch was abandoned, so the chip selects again on the next tick. -/
  selectNext : Bool := false
  /-- implied (R95, R96): the word that steers the jitter cleaner. -/
  fcw : Int := 0
  /-- implied (R95): consecutive intervals or exchanges within the acquisition limit. -/
  acqRun : Nat := 0
  /-- OCXO_TABLE (40 bytes; R106). -/
  ocxo : BitVec 320 := 0
  /-- OCXO_TEMP_MK (I64; R106). -/
  ocxoTemp : I64 := 0
  /-- HOLD_BOUND_NS (U64; R107). -/
  holdBound : U64 := 0
  /-- OCXO_AGEING_SLOPE (I64), OCXO_AGEING_VALID (BOOL), OCXO_AGEING_UNC (U32; R106). -/
  ocxoAge : I64 := 0
  ocxoAgeValid : Bool := false
  ocxoAgeUnc : U32 := 1157
  /-- OCXO_U_F, OCXO_U_P (U32; R107). -/
  ocxoUF : U32 := 0
  ocxoUP : U32 := 2000
  /-- HOLD_ENTRY_TEMP_MK (I64; R106): θ_e. -/
  holdTemp : I64 := 0
  /-- implied (R106): temperature samples of the last 1 s, newest first. -/
  temps : List Int := []
  /-- implied (R107): tick of entry to HOLD, Σ |θ − θ_e| · Δt in mK·ms, B_0 in ps, OUT_SQC at entry. -/
  holdEntry : Nat := 0
  tempSum : Nat := 0
  holdB0 : Nat := 0
  sqcAtHold : U8 := 7
  /-- implied (R106): the correction applied, in units of 10^-18. -/
  freqCorr : Int := 0
  /-- implied (R106): tick since which the chip has been in LOCK. -/
  lockSince : Option Nat := none
  /-- SOURCE_ID, SWITCH_SEQ and SOURCE_TYPE (Table 4.6) of the latest BLEAT of the selected parent. -/
  srcId : U64 := 0
  srcSeq : U16 := 0
  srcType : BitVec 4 := 0
  /-- implied (R107): phase errors in ps of the selected candidate over the last 100 s. -/
  phaseErrs : List Int := []
  outs : Tbl RefOut := []
  eths : Tbl Eth := []
  /-- PRONK_COMMIT_LEAD_NS (U32; R145). -/
  commitLead : U32 := 20000
  /-- Pronk counters, by herd (R144). -/
  pronks : Tbl PronkCtr := []
  /-- implied (R155): the herd of the last PRONK_REQUEST accepted, which PRONK_STATUS shows. -/
  pronkHerd : Option Id24 := none
  /-- Tine contexts 0 to 8,191 (Table 7.11). -/
  ctxs : Tbl TineCtx := []
  /-- Template cache (1,024 slots; R185). -/
  templates : Tbl Template := []
  /-- STALE_DISCARDS, DUP_DISCARDS, TAG_DISCARDS, TWIN_LATE, TWIN_MISMATCHES, NONMEMBER_DISCARDS (U32). -/
  staleDiscards : U32 := 0
  dupDiscards : U32 := 0
  tagDiscards : U32 := 0
  twinLate : U32 := 0
  twinMismatches : U32 := 0
  nonmember : U32 := 0
  /-- Reservations (R208), those tentative included. -/
  resvs : List Resv := []
  /-- RESERVE_STATUS (16 bytes; R209). -/
  resvStatus : BitVec 128 := 0
  /-- RESERVE_TIMEOUT_MS (U32; R209). -/
  resvTimeout : U32 := 100
  /-- implied (R209): herd and template of the pass that runs from this top chip. -/
  resvRun : Option (Id24 × U16) := none
  /-- implied (R21): writes held until no round is open. -/
  heldWrites : List PendingWrite := []
  /-- HALT_NOW, HALT_SEQ_LAST, HALTS_SENT, HALTS_MERGED, HALT_DISCARDS (Table 9.10). -/
  haltNow : U32 := 0
  haltSeq : U16 := 0
  haltsSent : U32 := 0
  haltsMerged : U32 := 0
  haltDiscards : U32 := 0
  /-- implied (R253): HALTs forwarded: herd, downward, H, tick. -/
  forwarded : List (Id24 × Bool × HT × Nat) := []
  /-- The error ring of 4,096 records (R248). -/
  errs : ErrRing := {}
  /-- HEALTH_WARN, HEALTH_SUSPECT (U16), SUSPECT_CONFIRM_S (U8), CLEAR_S (U16), FAIL_CONFIRM_MS (U32). -/
  healthWarn : U16 := 700
  healthSuspect : U16 := 400
  suspectConfirm : U8 := 3
  clearS : U16 := 60
  failConfirm : U32 := 1000
  /-- implied (R228): the second of hall time of the last health sample. -/
  sampledAt : Option Nat := none
  /-- Stewards, by herd (R229). -/
  stewards : Tbl Steward := []
  /-- REC_WINDOW_STATE, POST_TRIGGER_MS, FREEZE_CODES (Table 11.11). -/
  recState : WindowState := .recording
  postTrigger : U32 := 100
  freezeCodes : BitVec 2816 := 0
  /-- REC_FREEZE_HT (HT80), REC_FREEZE_TRIGGER (ENUM8), REC_TRIGGERS_EXTRA (U32; R294). -/
  freezeHt : HT := 0
  freezeTrigger : U8 := 0
  triggersExtra : U32 := 0
  /-- implied (R294): tick of the first trigger, who caused it and for which herd. -/
  freezeAt : Nat := 0
  freezeBy : U32 := 0
  freezeHerd : Id24 := 0xFFFFFF
  /-- REC_STORED (U64; R292): entries of the window area, oldest first. -/
  window : List (BitVec 512) := []
  /-- REC_WINDOW_START_HT (HT80; R295): hall time of each stored entry. -/
  windowHt : List HT := []
  /-- implied (R292): the event area, oldest first. -/
  events : List (BitVec 512) := []
  /-- REC_DISCARDED_FROZEN (U64; R295). -/
  discardedFrozen : U64 := 0
  /-- implied (R287): TAP_SEQ of the chip's own records. -/
  ownSeq : U32 := 0
  /-- ZDP_ENABLE (BITS32), ZDP_UDP_PORT (U16), ZDP_IPV4 (5 bytes), ZDP_IPV6 (17 bytes),
  TUNNEL_TIMEOUT_MS (U32; Table 12.10). -/
  zdpEnable : U32 := 3
  zdpPort : U16 := 23481
  ipv4 : BitVec 40 := 0
  ipv6 : BitVec 136 := 0
  tunnelTimeout : U32 := 10
  deriving DecidableEq, Repr

/-! ## The block -/

/-- The block: one TSU and one Fjouz chip, the commands that wait (first in, first out), what the last
command handed out, and the model's own counter of free values drawn. -/
structure State where
  tsu     : Tsu := {}
  fjz     : Fjz := {}
  /-- The waiting commands, first in, first out. -/
  pending : List Instr := []
  /-- The model's own: commands of this tick that came before one that goes ahead of them (R128, R67, R18): they act once
  the queue is empty, before the tick ends. -/
  later   : List Instr := []
  /-- The model's own: what the command last executed handed out of the block other than cells. -/
  out     : List Out := []
  /-- The model's own: error records of the TSU, with their prefixes, that a command has raised and that enter the ring as it ends (R248). -/
  staged  : List (ErrRec × Bytes) := []
  /-- The model's own: free values drawn so far (DESIGN CHOICE, log 2). -/
  free    : Nat := 0
  deriving DecidableEq, Repr

/-- The block right after power-on reset: every object at the reset value of its chapter's table, both reset
pins low, nothing waiting (R328, R335, R346). -/
def State.reset : State := {}

end Sys2Proof.Machine
end

