-- ==== Sys2Proof/Machine/Ops.lean ====
section
/-! DEFINITION. Named operations on bits, octet strings, tables and rounded quotients, that every meaning is built on. -/

namespace Sys2Proof.Machine

/-! ## Bits (R5) -/

/-- Bits [lo + len − 1 : lo] of a word. -/
def fld {n : Nat} (x : BitVec n) (lo len : Nat) : BitVec len := x.extractLsb' lo len

/-- The same bits as a number. -/
def fldN {n : Nat} (x : BitVec n) (lo len : Nat) : Nat := (x.extractLsb' lo len).toNat

/-- One bit. -/
def bitOf {n : Nat} (x : BitVec n) (i : Nat) : Bool := x.getLsbD i

/-- A word with bits [lo + len − 1 : lo] replaced. -/
def put {n : Nat} (x : BitVec n) (lo len : Nat) (v : BitVec len) : BitVec n :=
  (x &&& ~~~((BitVec.allOnes len).setWidth n <<< lo)) ||| (v.setWidth n <<< lo)

/-- The same with a number for the new bits. -/
def putN {n : Nat} (x : BitVec n) (lo len v : Nat) : BitVec n := put x lo len (BitVec.ofNat len v)

/-- One bit replaced. -/
def putBit {n : Nat} (x : BitVec n) (i : Nat) (b : Bool) : BitVec n := put x i 1 (BitVec.ofBool b)

/-- A word put together from fields (low bit, length, value); a value is cut to its field's length. -/
def pack (n : Nat) (fs : List (Nat × Nat × Nat)) : BitVec n :=
  BitVec.ofNat n ((fs.map fun f => f.2.2 % 2 ^ f.2.1 * 2 ^ f.1).sum)

/-- A Boolean as 0 or 1. -/
def b2n (b : Bool) : Nat := if b then 1 else 0

/-! ## Octet strings (R5, R313) -/

/-- The n octets of a number, least significant first. -/
def leBytes : Nat → Nat → Bytes
  | 0, _ => []
  | n + 1, x => BitVec.ofNat 8 x :: leBytes n (x / 256)

/-- The number that octets spell, least significant first. -/
def ofLe : Bytes → Nat
  | [] => 0
  | b :: bs => b.toNat + 256 * ofLe bs

/-- The n octets of a number, most significant first. -/
def beBytes (n x : Nat) : Bytes := (leBytes n x).reverse

/-- The number that octets spell, most significant first. -/
def ofBe (bs : Bytes) : Nat := ofLe bs.reverse

/-- The octets of a word whose width is a whole number of octets. -/
def bvBytes {n : Nat} (x : BitVec n) : Bytes := leBytes (n / 8) x.toNat

/-- Octets as a word. -/
def bytesBv (n : Nat) (bs : Bytes) : BitVec n := BitVec.ofNat n (ofLe bs)

/-! ## Tables -/

end Sys2Proof.Machine

namespace Sys2Proof

variable {α : Type}

/-- The element at an index, the reset element `d` where none is listed. -/
def Tbl.get (d : α) : Tbl α → Nat → α
  | [], _ => d
  | (i, x) :: t, k => if i = k then x else Tbl.get d t k

/-- A table without the entry at an index. -/
def Tbl.erase (t : Tbl α) (k : Nat) : Tbl α := t.filter fun e => decide (e.1 ≠ k)

/-- A table with an entry placed in index order. -/
def Tbl.insert : Tbl α → Nat → α → Tbl α
  | [], k, v => [(k, v)]
  | (i, x) :: t, k, v => if k < i then (k, v) :: (i, x) :: t else (i, x) :: Tbl.insert t k v

/-- Store an element, keeping the canonical form: the reset element is not listed. -/
def Tbl.set [DecidableEq α] (d : α) (t : Tbl α) (k : Nat) (v : α) : Tbl α :=
  if v = d then t.erase k else (t.erase k).insert k v

/-- Change the element at an index. -/
def Tbl.upd [DecidableEq α] (d : α) (t : Tbl α) (k : Nat) (f : α → α) : Tbl α := t.set d k (f (t.get d k))

/-- Change every listed element. -/
def Tbl.mapAll [DecidableEq α] (d : α) (t : Tbl α) (f : Nat → α → α) : Tbl α :=
  t.filterMap fun e => if f e.1 e.2 = d then none else some (e.1, f e.1 e.2)

/-- The canonical form: strictly rising indices above `lo`, and no entry equal to the reset element. -/
def Tbl.wfFrom [DecidableEq α] (d : α) : Nat → Tbl α → Bool
  | _, [] => true
  | lo, (i, x) :: t => decide (lo ≤ i) && decide (x ≠ d) && Tbl.wfFrom d (i + 1) t

/-- The canonical form of a whole table. -/
def Tbl.wf [DecidableEq α] (d : α) (t : Tbl α) : Bool := Tbl.wfFrom d 0 t

end Sys2Proof

namespace Sys2Proof.Machine

/-! ## Numbers -/

/-- Quotient rounded to nearest, ties to even (R29, R32). -/
def rne (x : Int) (d : Nat) : Int :=
  let q := x / (d : Int)
  let r2 := 2 * (x % (d : Int))
  if r2 < d then q else if r2 > d then q + 1 else if q % 2 = 0 then q else q + 1

/-- Quotient brought to a whole number where the manual does not say how: the one below or the one above, left open
(log 10). -/
def openRound (x : Int) (d : Nat) : Int :=
  if x % (d : Int) = 0 then x / (d : Int) else x / (d : Int) + (if Config.roundsUp x d then 1 else 0)

/-- Mean of a list of integers, rounded as left open; zero for the empty list. -/
def meanOf (xs : List Int) : Int := if xs.isEmpty then 0 else openRound xs.sum xs.length

/-- Quotient rounded up. -/
def cdiv (a b : Nat) : Nat := (a + b - 1) / b

/-- A difference of serial numbers of the given width counts as newer when it is 1 to half the range
(R190, R219, R234). -/
def newer {w : Nat} (a b : BitVec w) : Bool :=
  let d := (a - b).toNat
  decide (1 ≤ d ∧ d ≤ 2 ^ (w - 1))

/-- Place an element behind every element that does not come after it. -/
def insertBy {α : Type} (before : α → α → Bool) (x : α) : List α → List α
  | [] => [x]
  | y :: ys => if before x y then x :: y :: ys else y :: insertBy before x ys

/-- A list in order, elements of equal rank as they stood. -/
def sortBy {α : Type} (before : α → α → Bool) (xs : List α) : List α :=
  xs.foldl (fun acc x => insertBy before x acc) []

/-- Twice the median of a list of integers, zero for the empty list: the sum of the two middle elements. -/
def median2 (xs : List Int) : Int :=
  let ys := sortBy (fun a b => decide (a < b)) xs
  ys.getD ((xs.length - 1) / 2) 0 + ys.getD (xs.length / 2) 0

/-- Append to a ring that keeps the newest `cap` elements. -/
def pushRing {α : Type} (cap : Nat) (xs : List α) (x : α) : List α :=
  let ys := xs ++ [x]
  ys.drop (ys.length - cap)

/-- Pieces of a list of `n` elements each, the last possibly shorter; `fuel` bounds their number. -/
def chunks {α : Type} (n : Nat) : Nat → List α → List (List α)
  | 0, _ => []
  | fuel + 1, xs => if xs.isEmpty then [] else xs.take n :: chunks n fuel (xs.drop n)

/-- Octets cut or filled with zeros to a length. -/
def padTo (n : Nat) (bs : Bytes) : Bytes := (bs ++ List.replicate n 0).take n

/-- Apply an update over a list of indices in order. -/
def forAll {α β : Type} (xs : List α) (f : α → β → β) (s : β) : β := xs.foldl (fun s x => f x s) s

/-- A word from a signed number, two's complement. -/
def i64 (x : Int) : I64 := BitVec.ofInt 64 x

end Sys2Proof.Machine
end

