-- ==== Sys2Proof/Machine/Crypto.lean ====
section
/-! DEFINITION. The check codes and the cryptography that the manual names: CRC-64 of ECMA-182 (R290), SHA-256 and
HMAC-SHA-256 (FIPS 180-4, FIPS 198-1; R318), ECDSA over P-256 with the nonce of RFC 6979 (FIPS 186-5; R274). Big numbers
are Nat; every recursion is on a list or on a fixed count. -/

namespace Sys2Proof.Machine

/-! ## CRC-64 (R290) -/

/-- Shift one bit out of the remainder, `n` times. -/
def crcShift : Nat → BitVec 64 → BitVec 64
  | 0, c => c
  | n + 1, c => crcShift n (if c.getLsbD 63 then (c <<< 1) ^^^ 0x42F0E1EBA9EA3693#64 else c <<< 1)

/-- CRC-64 with initial value zero, no reflection, no final inversion. -/
def crc64From (c : BitVec 64) (bs : Bytes) : BitVec 64 :=
  bs.foldl (fun (c : BitVec 64) (b : BitVec 8) => crcShift 8 (c ^^^ (BitVec.setWidth 64 b <<< (56 : Nat)))) c

def crc64 (bs : Bytes) : BitVec 64 := crc64From 0 bs

/-- One octet through CRC-16 with polynomial 0x1021, most significant bit first. -/
def crc16Shift : Nat → BitVec 16 → BitVec 16
  | 0, c => c
  | n + 1, c => crc16Shift n (if c.msb then (c <<< 1) ^^^ 0x1021#16 else c <<< 1)

/-- CRC-16 of Table 4.3: initial value 0xFFFF, octets in order. -/
def crc16 (bs : Bytes) : BitVec 16 :=
  bs.foldl (fun (c : BitVec 16) (b : BitVec 8) => crc16Shift 8 (c ^^^ (BitVec.setWidth 16 b <<< (8 : Nat)))) 0xFFFF#16

/-! ## SHA-256 -/

/-- The round constants in one number, word 0 highest: the first 32 bits of the fractions of the cube roots of the first 64 primes. -/
def shaFractions : Nat :=
  0x428a2f9871374491b5c0fbcfe9b5dba53956c25b59f111f1923f82a4ab1c5ed5d807aa9812835b01243185be550c7dc372be5d7480deb1fe9bdc06a7c19bf174 * 2 ^ 1536 +
  0xe49b69c1efbe47860fc19dc6240ca1cc2de92c6f4a7484aa5cb0a9dc76f988da983e5152a831c66db00327c8bf597fc7c6e00bf3d5a7914706ca635114292967 * 2 ^ 1024 +
  0x27b70a852e1b21384d2c6dfc53380d13650a7354766a0abb81c2c92e92722c85a2bfe8a1a81a664bc24b8b70c76c51a3d192e819d6990624f40e3585106aa070 * 2 ^ 512 +
  0x19a4c1161e376c082748774c34b0bcb5391c0cb34ed8aa4a5b9cca4f682e6ff3748f82ee78a5636f84c878148cc7020890befffaa4506cebbef9a3f7c67178f2

/-- Constant of a round, 0 to 63. -/
def shaConst (t : Nat) : BitVec 32 := BitVec.ofNat 32 (shaFractions / 2 ^ (32 * (63 - t)))

/-- The eight words of the hash state. -/
structure ShaState where
  a : BitVec 32
  b : BitVec 32
  c : BitVec 32
  d : BitVec 32
  e : BitVec 32
  f : BitVec 32
  g : BitVec 32
  h : BitVec 32
  deriving DecidableEq, Repr

/-- The state whose eight words a number spells, the first highest. -/
def shaWords (n : Nat) : ShaState :=
  let w (i : Nat) : BitVec 32 := BitVec.ofNat 32 (n / 2 ^ (32 * (7 - i)))
  ⟨w 0, w 1, w 2, w 3, w 4, w 5, w 6, w 7⟩

/-- The fractions of the square roots of the first eight primes. -/
def shaInit : ShaState :=
  shaWords 0x6a09e667bb67ae853c6ef372a54ff53a510e527f9b05688c1f83d9ab5be0cd19

/-- The message schedule: 16 words of the block, then each from the words 2, 7, 15 and 16 back. The list is
newest first. -/
def shaSchedule : Nat → List (BitVec 32) → List (BitVec 32)
  | 0, w => w
  | n + 1, w =>
    let g (i : Nat) := w.getD i 0
    let mix (x : BitVec 32) (i j k : Nat) := x.rotateRight i ^^^ x.rotateRight j ^^^ (x >>> k)
    shaSchedule n ((g 15 + g 6 + mix (g 14) 7 18 3 + mix (g 1) 17 19 10) :: w)

/-- Exclusive or of a word turned right by each of three amounts. -/
def turned (x : BitVec 32) (i j k : Nat) : BitVec 32 := x.rotateRight i ^^^ x.rotateRight j ^^^ x.rotateRight k

/-- One round: a word of the schedule with its constant already added moves in at the top and in the middle. -/
def shaRound (s : ShaState) (word : BitVec 32) : ShaState :=
  let choice := s.g ^^^ (s.e &&& (s.f ^^^ s.g))
  let middle := (s.a &&& s.b) ||| (s.c &&& (s.a ||| s.b))
  let moved := s.h + turned s.e 6 11 25 + choice + word
  { a := moved + turned s.a 2 13 22 + middle, b := s.a, c := s.b, d := s.c, e := s.d + moved, f := s.e, g := s.f, h := s.g }

/-- One block of 64 octets. -/
def shaBlock (x : ShaState) (blk : Bytes) : ShaState :=
  let w := (shaSchedule 48 ((chunks 4 16 blk).map fun q => BitVec.ofNat 32 (ofBe q)).reverse).reverse
  let y := (w.zipIdx.map fun e => e.1 + shaConst e.2).foldl shaRound x
  ⟨x.a + y.a, x.b + y.b, x.c + y.c, x.d + y.d, x.e + y.e, x.f + y.f, x.g + y.g, x.h + y.h⟩

/-- SHA-256 of an octet string, 32 octets. -/
def sha256 (m : Bytes) : Bytes :=
  let zeros := (119 - m.length % 64) % 64
  let p := m ++ [0x80#8] ++ List.replicate zeros 0#8 ++ beBytes 8 (8 * m.length)
  let x := (chunks 64 (p.length / 64) p).foldl shaBlock shaInit
  [x.a, x.b, x.c, x.d, x.e, x.f, x.g, x.h].flatMap fun v => beBytes 4 v.toNat

/-- HMAC-SHA-256 with a key of 32 octets. -/
def hmac (key msg : Bytes) : Bytes :=
  let k := padTo 64 key
  sha256 (k.map (· ^^^ 0x5c#8) ++ sha256 (k.map (· ^^^ 0x36#8) ++ msg))

/-! ## ECDSA over P-256 -/

def p256 : Nat := 0xffffffff00000001000000000000000000000000ffffffffffffffffffffffff
def n256 : Nat := 0xffffffff00000000ffffffffffffffffbce6faada7179e84f3b9cac2fc632551
def g256 : Nat × Nat :=
  (0x6b17d1f2e12c4247f8bce6e563a440f277037d812deb33a0f4a13945d898c296,
   0x4fe342e2fe1a7f9b8ee7eb4a7c0f9e162bce33576b315ececbb6406837bf51f5)

/-- x^e mod m over the low `bits` bits of e. -/
def powMod (m x e : Nat) : Nat → Nat
  | 0 => 1 % m
  | bits + 1 =>
    let y := powMod m x (e / 2) bits
    if e % 2 = 1 then y * y % m * x % m else y * y % m

/-- Inverse modulo a prime. -/
def invMod (m x : Nat) : Nat := powMod m x (m - 2) 256

/-- A point in Jacobian coordinates; z = 0 is the point at infinity. -/
structure EcPoint where
  x : Nat
  y : Nat
  z : Nat
  deriving DecidableEq, Repr

/-- a − b modulo the field prime. -/
def subP (a b : Nat) : Nat := (a + (p256 - b % p256)) % p256

/-- Doubling on y² = x³ − 3x + b. -/
def ecDouble (q : EcPoint) : EcPoint :=
  let d := q.z * q.z % p256
  let g := q.y * q.y % p256
  let b := q.x * g % p256
  let a := 3 * (subP q.x d * ((q.x + d) % p256) % p256) % p256
  let x := subP (a * a % p256) (8 * b % p256)
  let z := 2 * q.y * q.z % p256
  ⟨x, subP (a * subP (4 * b % p256) x % p256) (8 * (g * g % p256) % p256), z⟩

/-- Sum of two points. -/
def ecAdd (q r : EcPoint) : EcPoint :=
  if q.z = 0 then r else if r.z = 0 then q
  else
    let zz1 := q.z * q.z % p256
    let zz2 := r.z * r.z % p256
    let u1 := q.x * zz2 % p256
    let u2 := r.x * zz1 % p256
    let s1 := q.y * (r.z * zz2 % p256) % p256
    let s2 := r.y * (q.z * zz1 % p256) % p256
    if u1 = u2 then (if s1 = s2 then ecDouble q else ⟨1, 1, 0⟩)
    else
      let h := subP u2 u1
      let hh := h * h % p256
      let hhh := h * hh % p256
      let v := u1 * hh % p256
      let r' := subP s2 s1
      let x := subP (subP (r' * r' % p256) hhh) (2 * v % p256)
      ⟨x, subP (r' * subP v x % p256) (s1 * hhh % p256), q.z * r.z % p256 * h % p256⟩

/-- k · q over the low `bits` bits of k. -/
def ecMul (k : Nat) (q : EcPoint) : Nat → EcPoint
  | 0 => ⟨1, 1, 0⟩
  | bits + 1 =>
    let y := ecDouble (ecMul (k / 2) q bits)
    if k % 2 = 1 then ecAdd y q else y

/-- Affine coordinates of a point that is not at infinity. -/
def ecAffine (q : EcPoint) : Nat × Nat :=
  let zi := invMod p256 q.z
  let zi2 := zi * zi % p256
  (q.x * zi2 % p256, q.y * (zi * zi2 % p256) % p256)

/-- The public key of a private key. -/
def publicKey (d : Nat) : Nat × Nat := ecAffine (ecMul d ⟨g256.1, g256.2, 1⟩ 256)

/-- The nonce of RFC 6979: candidates in turn until one lies from 1 to n − 1. -/
def rfc6979Loop : Nat → Bytes → Bytes → Nat
  | 0, _, v => ofBe v % n256
  | fuel + 1, k, v =>
    let v := hmac k v
    let t := ofBe v
    if 1 ≤ t ∧ t < n256 then t
    else
      let k := hmac k (v ++ [0#8])
      rfc6979Loop fuel k (hmac k v)

/-- The nonce for a key and a digest. -/
def rfc6979 (d : Nat) (digest : Bytes) : Nat :=
  let seed := beBytes 32 d ++ beBytes 32 (ofBe digest % n256)
  let k0 := List.replicate 32 0#8
  let v0 := List.replicate 32 1#8
  let k1 := hmac k0 (v0 ++ [0#8] ++ seed)
  let v1 := hmac k1 v0
  let k2 := hmac k1 (v1 ++ [1#8] ++ seed)
  rfc6979Loop 64 k2 (hmac k2 v1)

/-- The signature (r, s) of a digest of 32 octets. -/
def ecdsaSign (d : Nat) (digest : Bytes) : Nat × Nat :=
  let k := rfc6979 d digest
  let r := (ecAffine (ecMul k ⟨g256.1, g256.2, 1⟩ 256)).1 % n256
  (r, invMod n256 k * ((ofBe digest + r * d) % n256) % n256)

end Sys2Proof.Machine
end

