-- ==== Sys2Proof/Machine/Flags.lean ====
section
/-! DEFINITION. Counters and the flags that follow from them: saturating counters, counters whose overflow the manual
leaves open, the interrupt bits of INT_STATUS (R333) and the status pins (R334). -/

namespace Sys2Proof.Machine

/-- A counter that the manual says saturates, moved up by n. -/
def satAdd {w : Nat} (x : BitVec w) (n : Nat) : BitVec w :=
  if x.toNat + n < 2 ^ w then BitVec.ofNat w (x.toNat + n) else BitVec.allOnes w

/-- A counter whose overflow the manual does not describe, moved up by n: a free value past its maximum (log 3). -/
def bumpBy {w : Nat} (x : BitVec w) (n : Nat) : BitVec w :=
  if x.toNat + n < 2 ^ w then BitVec.ofNat w (x.toNat + n) else Config.pastMax w

/-- The same by one. -/
def bump {w : Nat} (x : BitVec w) : BitVec w := bumpBy x 1

/-- Bits of INT_STATUS (Table 13.6). -/
def irqWinDone : Nat := 0
def irqErrPending : Nat := 1
def irqErrOverflow : Nat := 2
def irqTxtsPending : Nat := 3
def irqTxtsOverflow : Nat := 4
def irqTimeState : Nat := 5
def irqMeterRing : Nat := 6
def irqFault : Nat := 7
def irqBistDone : Nat := 8

/-- Set a bit of INT_STATUS on the tick of its event (R333). -/
def setIrq (t : Tsu) (bit : Nat) : Tsu := { t with intStatus := t.intStatus ||| (1#32 <<< bit) }

/-- TSU_IRQ (R333): high while any bit is set in both INT_STATUS and INT_ENABLE. -/
def tsuIrq (t : Tsu) : Bool := decide (t.intStatus &&& t.intEnable ≠ 0)

/-- TSU_LOCK (R41, Table 13.7). -/
def pinLock (t : Tsu) : Bool :=
  decide (t.tc.state = .locked) && decide (t.phase = .run ∨ t.phase = .onDemand)

/-- TSU_HOLD (R41, Table 13.7). -/
def pinHold (t : Tsu) : Bool :=
  decide (t.tc.state = .holdover ∨ t.tc.state = .freeRun) && decide (t.phase = .run ∨ t.phase = .onDemand)

/-- TSU_FAULT (R334, R340). -/
def pinFault (t : Tsu) : Bool := decide (t.phase = .faultHold)

/-- TSU_PPS (R334): high for 100 µs from the edge of R42, and low in every state but LOCKED and HOLDOVER. -/
def pinPps (t : Tsu) : Bool :=
  decide (t.tc.frc.toNat < t.tc.ppsUntil) && decide (t.tc.state = .locked ∨ t.tc.state = .holdover) && decide (t.phase = .run ∨ t.phase = .onDemand)

/-- FJZ_FREE, FJZ_ACQ, FJZ_LOCK and FJZ_HOLD (R104): exactly the one that matches LOCK_STATE, none in reset. -/
def fjzPin (f : Fjz) (l : LockState) : Bool := f.rstN && decide (f.lock = l)

/-- What a reference output of a Fjouz chip sends (R91): low, the clock that OUT_FREQ chooses, or its pulse high. -/
inductive OutLine where
  | low | clock (freq : U8) | high
  deriving DecidableEq, Repr

/-- A reference output (R91): low while hall time is not established or the mode is off. -/
def fjzOutput (f : Fjz) (o : Nat) : OutLine :=
  let x := f.outs.get {} o
  if !f.rstN || !f.established then .low
  else if x.mode = 1 then .clock x.freq
  else if x.mode = 2 ∧ f.frc.toNat < x.highUntil then .high
  else .low

/-- FJZ_FAULT (R348). -/
def fjzFault (f : Fjz) : Bool := f.rstN && decide (f.selfTest = .failed)

end Sys2Proof.Machine
end

