-- ==== Sys2Proof/Machine/Order.lean ====
section
/-! DEFINITION. The order in which the commands of one spine tick act where the manual fixes it: the phases of R128, plane A
before plane B (R67), and the local window before the tunnels (R18). -/

namespace Sys2Proof.Machine

/-- Where a command stands among those of its tick: the part, the agent of the part that takes it (0 what R128 orders, 1 the
dictionary agent), and a number that is lower for what goes first. -/
structure Place where
  dev  : Dev
  lane : Nat
  key  : Nat
  deriving DecidableEq, Repr

/-- A place in phase `k` of R128; `n` orders within the phase. -/
def inPhase (k n : Nat) : Option Place := some ⟨.tsu, 0, k * 1048576 + n⟩

/-- A cell on a port: phase 1 of R128 on a TSU, plane A first (R67); on a Fjouz chip every cell of a tick goes before the
deadlines of that tick (R196). -/
def cellPlace (d : Dev) (p : Nat) : Option Place :=
  match d with
  | .tsu => inPhase 1 p
  | .fjz => some ⟨.fjz, 0, 1⟩

/-- A dictionary request: the local window, then plane A, then plane B (R18). -/
def requestPlace (d : Dev) (q : Req) : Option Place :=
  match q.src with
  | .window => some ⟨d, 1, 0⟩
  | .tunA => some ⟨d, 1, 1⟩
  | .tunB => some ⟨d, 1, 2⟩
  | .net => none

/-- SRC_REGION of a signal token (Table 6.1). -/
def tokRegion (tok : U64) : Nat := (tok.extractLsb' 40 8).toNat

/-- (SRC_REGION, SRC_CHANNEL) of a signal token as a number that rises with it (R161). -/
def tokSource (tok : U64) : Nat := tokRegion tok * 256 + (tok.extractLsb' 48 8).toNat

/-- The part whose agent takes a request command, and the request (R18). -/
def requestOf : Instr → Option (Dev × Req)
  | .lcProvision d q _ | .lcDeploy d q _ | .lcReturn d q _ | .secKey d q _ | .portEnable d _ q | .portDisable d _ q
  | .templateValidate d q | .templateErase d q | .haltNow d q _ | .errPop d q | .errOverflowClear d q _ | .zdpRead d q _ _
  | .registerWrite d q _ _ _ => some (d, q)
  | .bistStart q _ _ | .offset q _ | .rate q _ | .phaseStepPs q _ | .latchNow q _ | .snapshotReq q _ _ _ | .marginBias q _
  | .counterClear q _ | .latBaselineCapture q _ | .txtsPop q | .txtsOverflowClear q _ | .forcePlane q _
  | .planeOffsetRelease q _ | .planeConfig q _ | .loadCommit q _ _ | .unload q _ _ | .stepDesc q _ | .ledgerEntry q _ _
  | .syncReset q _ _ | .counterValue q _ | .eventState q _ | .eventOversignalClear q _ | .reepochCommit q _ _
  | .drainAdopt q _ _ | .expel q _ _ | .mismatchIn q _ | .swapPlan q _ _ | .swapCancel q _ _ | .tenantStatement q _
  | .tenantClose q _ | .recPop q | .meterSeal q _ | .meterUnseal q _ | .meterClear q _ | .replaySetup q _
  | .replayRelease q _ | .replayFeed q _ | .replayEnd q _ | .forcedStretch q _ => some (.tsu, q)
  | .role q _ | .realign q _ | .refType q _ _ | .refPriority q _ _ | .forceRef q _ | .freeServe q _ | .ocxoTable q _
  | .pronkRequestArm q _ | .pronkRequestStep q _ | .pronkCancel q _ | .treeReserve q _ | .treeReserveHome q _
  | .treeRelease q _ | .pauseRequest q _ | .reportFailed q _ | .swapBroadcast q _ | .recFreezeNow q _ | .recThaw q _
  | .recWindowData q => some (.fjz, q)
  | _ => none

/-- Place of a command in its tick, none for one that acts as it comes. -/
def placeOf : Instr → Option Place
  | .hello d p _ | .retryReq d p _ | .timeDown d p _ _ | .timeUp d p _ _ _ | .timeReply d p _ | .bleat d p _ _
  | .reserveRequest d p _ | .reserveCommit d p _ | .reserveRelease d p _ | .releaseQuery d p _
  | .swapCtrlPlan d p _ | .swapCtrlCancel d p _ => cellPlace d p
  | .pronkArm p _ | .pronkCommit p _ | .pronkAbort p _ | .pronkStep p _ | .haltAt p _ | .haltPause p _
  | .haltNowCell p _ | .tineAbandon p _ => cellPlace .tsu p
  | .tineArrival p _ _ | .tineArrivalFailed p _ | .tineResync p _ | .tineArrivalMove p _ | .tineResultForward p _
  | .pronkForward p _ | .pronkAck p _ | .haltForward p _ | .record p _ | .reserveOutcome p _ => cellPlace .fjz p
  | .tineResult p _ | .tineResultFailed p _ | .tineResultMove p _ => inPhase 2 p
  | .ctrAdd tok _ | .ctrSetbit tok _ | .eventSet tok _ => inPhase 2 (2 + tokSource tok)
  | .tineContribution .. => inPhase 2 100000
  | .pronkDecision h => inPhase 1 (100 + h)
  | .pronkFire h => inPhase 1 (200 + h)
  | .stepOverrun h _ => inPhase 4 h
  | .watchNotify => inPhase 6 1000
  | .regionDone .. | .ledgerAdvPending .. | .watchRegister .. | .watchRegisterDeferred .. => inPhase 3 0
  | .watchCancel .. => inPhase 3 1
  | .watchTimeout slot => inPhase 5 slot
  | .gateTimeout h | .tineNotSent h _ | .isolated h _ => inPhase 5 (8192 + h)
  | .gateMissed h => inPhase 5 (8192 + h)
  | .stepLaunch h .. | .stepNop h _ | .stepLoop h _ | .stepEnd h _ | .descriptorPass h => inPhase 6 h
  | .swapRefetchLaunch h _ => inPhase 6 (500 + h)
  | .swapFetchLimit h => inPhase 5 (16384 + h)
  | .tineTimeout .. => some ⟨.fjz, 0, 2⟩
  | .txTimestamp .. => some ⟨.tsu, 2, 0⟩
  | .go .. => some ⟨.tsu, 1, 0⟩
  | i => (requestOf i).bind fun r => requestPlace r.1 r.2

/-- A pop goes before what would put an entry into its queue on the same tick (Table 9.9): ERR_POP before what may raise a record of
its part (R248), TXTS_POP before a time-stamp (R85). -/
def popsAhead (a : Instr) (y : Place) : Bool :=
  match a with
  | .errPop d _ => decide (y.dev = d ∧ y.lane = 0)
  | .txtsPop _ => decide (y.lane = 2)
  | _ => false

/-- A command goes ahead of one of the same tick whose place is this. -/
def goesAhead (a : Instr) (y : Place) : Bool :=
  popsAhead a y || (placeOf a).any fun x => decide (x.dev = y.dev ∧ x.lane = y.lane ∧ x.key < y.key)

/-- Order in which waiting commands act, which keeps `goesAhead`: requests first, then the rest, each lane by its keys. -/
def actsBefore (a b : Instr) : Bool :=
  let key (i : Instr) : Nat :=
    match placeOf i with
    | some x => (if x.lane = 1 then 0 else 1 + x.lane) * 2 ^ 40 + x.key
    | none => 2 ^ 50
  decide (key a < key b)

/-- A command that waits on this tick goes ahead of one whose place is this. -/
def State.aheadOf (s : State) (place : Option Place) : Bool :=
  place.any fun y => (s.pending ++ s.later).any fun a => goesAhead a y

/-- A command in its turn: it acts, or, where one that goes ahead of it still waits, it waits for that one. -/
def inTurn (c : Instr) (act : State → State) (s : State) : State :=
  if s.aheadOf (placeOf c) then { s with later := s.later ++ [c] } else act s

/-- The part, the port and the cell of a command that a sync port releases, for the types that link retry recovers
(Table 3.4). -/
def cellOf : Instr → Option (Dev × Nat × Cell)
  | .reserveRequest d p c | .reserveCommit d p c | .reserveRelease d p c | .releaseQuery d p c | .swapCtrlPlan d p c
  | .swapCtrlCancel d p c => some (d, p, c)
  | .pronkArm p c | .pronkCommit p c | .pronkAbort p c | .pronkStep p c | .haltAt p c | .haltPause p c | .haltNowCell p c
  | .tineAbandon p c | .tineResult p c | .tineResultFailed p c | .tineResultMove p c => some (.tsu, p, c)
  | .tineArrival p c _ | .tineArrivalFailed p c | .tineResync p c | .tineArrivalMove p c | .tineResultForward p c
  | .pronkForward p c | .pronkAck p c | .haltForward p c | .record p c | .reserveOutcome p c => some (.fjz, p, c)
  | _ => none

end Sys2Proof.Machine
end

