-- ==== Sys2Proof/Machine/Access.lean ====
section
/-! DEFINITION. Reading and changing the parts of State: one accessor and one update for each kind of part, and the
one form in which every command answers. -/

namespace Sys2Proof.Machine

/-- The three outcomes of a command of this block. -/
abbrev Result := Host.Outcome State Fault Refusal

/-- The TSU acts: RUN or ON_DEMAND. In RESET, INIT, POST and FAULT_HOLD every block is held in reset (R336, R340). -/
def Tsu.works (t : Tsu) : Bool := decide (t.phase = .run ∨ t.phase = .onDemand)

/-- The Fjouz chip acts: out of reset and its self-test passed (R348). -/
def Fjz.works (x : Fjz) : Bool := x.rstN && decide (x.selfTest = .passed)

/-- A part acts. -/
def partWorks (s : State) : Dev → Bool
  | .tsu => s.tsu.works
  | .fjz => s.fjz.works

/-! ## Parts -/

def onTsu (f : Tsu → Tsu) (s : State) : State := { s with tsu := f s.tsu }
def onFjz (f : Fjz → Fjz) (s : State) : State := { s with fjz := f s.fjz }
def onTc (f : TimeCore → TimeCore) (s : State) : State := onTsu (fun t => { t with tc := f t.tc }) s
def onMeter (f : Meter → Meter) (s : State) : State := onTsu (fun t => { t with meter := f t.meter }) s

/-- Add an output of the command. -/
def emit (o : Out) (s : State) : State := { s with out := s.out ++ [o] }

def Tsu.herd (t : Tsu) (h : Nat) : Herd := t.herds.get {} h
def Tsu.region (t : Tsu) (n : Nat) : Region := t.regions.get {} n
def Tsu.link (t : Tsu) (l : Nat) : Link := t.links.get {} l
def Tsu.part (t : Tsu) (n : Nat) : Part := t.parts.get {} n

def onHerd (h : Nat) (f : Herd → Herd) (s : State) : State :=
  onTsu (fun t => { t with herds := t.herds.upd {} h f }) s
def onRegion (n : Nat) (f : Region → Region) (s : State) : State :=
  onTsu (fun t => { t with regions := t.regions.upd {} n f }) s
def onLink (l : Nat) (f : Link → Link) (s : State) : State :=
  onTsu (fun t => { t with links := t.links.upd {} l f }) s
def onPart (n : Nat) (f : Part → Part) (s : State) : State :=
  onTsu (fun t => { t with parts := t.parts.upd {} n f }) s

/-- The sync ports of a part. -/
def ports (s : State) : Dev → Tbl Port
  | .tsu => s.tsu.ports
  | .fjz => s.fjz.ports

def port (s : State) (d : Dev) (p : Nat) : Port := (ports s d).get {} p

def onPort (d : Dev) (p : Nat) (f : Port → Port) (s : State) : State :=
  match d with
  | .tsu => onTsu (fun t => { t with ports := t.ports.upd {} p f }) s
  | .fjz => onFjz (fun x => { x with ports := x.ports.upd {} p f }) s

/-- The dictionary agent of a part. -/
def agent (s : State) : Dev → Agent
  | .tsu => s.tsu.agent
  | .fjz => s.fjz.agent

def onAgent (d : Dev) (f : Agent → Agent) (s : State) : State :=
  match d with
  | .tsu => onTsu (fun t => { t with agent := f t.agent }) s
  | .fjz => onFjz (fun x => { x with agent := f x.agent }) s

def Fjz.cand (x : Fjz) (c : Nat) : Cand := x.cands.get {} c
def onCand (c : Nat) (f : Cand → Cand) (s : State) : State :=
  onFjz (fun x => { x with cands := x.cands.upd {} c f }) s
def Fjz.eth (x : Fjz) (e : Nat) : Eth := x.eths.get {} e
def onEth (e : Nat) (f : Eth → Eth) (s : State) : State :=
  onFjz (fun x => { x with eths := x.eths.upd {} e f }) s
def Fjz.ctx (x : Fjz) (c : Nat) : TineCtx := x.ctxs.get {} c
def onCtx (c : Nat) (f : TineCtx → TineCtx) (s : State) : State :=
  onFjz (fun x => { x with ctxs := x.ctxs.upd {} c f }) s
def Fjz.pronk (x : Fjz) (h : Id24) : PronkCtr := x.pronks.get {} h.toNat
def onPronk (h : Id24) (f : PronkCtr → PronkCtr) (s : State) : State :=
  onFjz (fun x => { x with pronks := x.pronks.upd {} h.toNat f }) s
def Fjz.steward (x : Fjz) (h : Id24) : Steward := x.stewards.get {} h.toNat
def onSteward (h : Id24) (f : Steward → Steward) (s : State) : State :=
  onFjz (fun x => { x with stewards := x.stewards.upd {} h.toNat f }) s

/-! ## Herd contexts -/

/-- ARMED, COMMITTED or RUNNING. -/
def Herd.live (h : Herd) : Bool := decide (h.state = .armed ∨ h.state = .committed ∨ h.state = .running)

/-- The contexts that are not FREE, in ascending number. -/
def Tsu.held (t : Tsu) : List Nat := (t.herds.filter fun e => decide (e.2.state ≠ .free)).map (·.1)

/-- The die holds no herd context (R33). -/
def Tsu.allFree (t : Tsu) : Bool := t.held.isEmpty

/-- The context that holds a herd, if one does. -/
def Tsu.ctxOf (t : Tsu) (id : Id24) : Option Nat :=
  (t.herds.find? fun e => decide (e.2.state ≠ .free) && decide (e.2.herdId.setWidth 24 = id)).map (·.1)

/-- A watch of a slot is registered: bit 0 of its entry (Table 6.2). -/
def Watch.live (w : Watch) : Bool := decide (w ≠ {})

/-- No watch is registered (R33). -/
def Tsu.noWatch (t : Tsu) : Bool := t.watches.all fun e => !e.2.live

/-- Bits of a word of 52 regions, in ascending number. -/
def regionsOf (mask : BitVec 52) : List Nat := (List.range 52).filter fun i => mask.getLsbD i

end Sys2Proof.Machine
end

