-- ==== Sys2Proof/Machine/Tokens.lean ====
section
/-! DEFINITION. The dual-clock queues between a region and the TSU (R47, R329, Table 13.4). -/

namespace Sys2Proof.Machine

/-! ## Into the TSU -/

def qDone : Nat := 0
def qSignal : Nat := 1
def qWatch : Nat := 2
def qCancel : Nat := 3
def qTine : Nat := 4
def qLedger : Nat := 5
def qTime : Nat := 6

/-- Depth of an inbound queue (Table 13.4). -/
def inDepth (q : Nat) : Nat :=
  if q = qDone then 4 else if q = qSignal then 32 else if q = qTime then 2 else 8

/-- Tokens that wait in an inbound queue of a region, oldest first. -/
def Region.waiting (r : Region) (q : Nat) : List Instr := r.inq.get [] q

/-- Credits that a region holds for an inbound queue: with none it keeps its tokens, and waits (R47). -/
def Region.credits (r : Region) (q : Nat) : Nat := inDepth q - (r.waiting q).length

/-- The queue has given its entry of this tick (R329). -/
def Region.took (r : Region) (q : Nat) : Bool := bitOf r.inTaken q

/-- The queue has given an entry on this tick. -/
def Region.took1 (q : Nat) (r : Region) : Region := { r with inTaken := putBit r.inTaken q true }

def Region.take (q : Nat) (rest : List Instr) (r : Region) : Region :=
  { r with inq := r.inq.set [] q rest, inTaken := putBit r.inTaken q true }

/-- The block that takes a queue's tokens behind the region interface (Table 13.11). -/
def queueBlock (q : Nat) : Nat :=
  if q = qDone then 6 else if q = qSignal ∨ q = qWatch ∨ q = qCancel then 8 else if q = qTine then 10 else if q = qLedger then 12 else 1

/-- The tokens of a queue wait while the block that takes them is under test (R342). -/
def queuesHeld (t : Tsu) (q : Nat) : Bool := decide (t.phase = .onDemand ∧ (t.bistBlock.toNat = queueBlock q ∨ t.bistBlock = 5))

/-- A token that command `i` brings from queue `q` of region `n`: taken where it is next and the queue has given none on this tick,
else it waits in its queue (R329); nothing is lost (R47). -/
def fromRegion (n q : Nat) (i : Instr) (act : State → State) (s : State) : State :=
  let r := s.tsu.region n
  let wait (s : State) : State := onRegion n (fun r => { r with inq := r.inq.set [] q (r.waiting q ++ [i]) }) s
  if r.took q || queuesHeld s.tsu q then wait s
  else
    match r.waiting q with
    | [] => act (onRegion n (Region.take q []) s)
    | j :: rest => if j = i then act (onRegion n (Region.take q rest) s) else wait s

/-! ## Out of the TSU -/

def oLaunch : Nat := 0
def oResult : Nat := 1
def oTime : Nat := 2
def oNotify : Nat := 3

/-- Depth of an outbound queue (Table 13.4). -/
def outDepth (q : Nat) : Nat := if q = oTime then 2 else if q = oNotify then 16 else 4

/-- The TSU holds a credit for an outbound queue of a region (R47). -/
def Region.credit (r : Region) (q : Nat) : Bool := decide (r.outq.get 0 q < outDepth q)

/-- An entry goes into an outbound queue. -/
def putOut (n q : Nat) (o : Out) (s : State) : State :=
  emit o (onRegion n (fun r => { r with outq := r.outq.upd 0 q (· + 1) }) s)

/-- Entries of an outbound queue that wait for credit. -/
def Region.heldBack (r : Region) (q : Nat) : List (Nat × Out) := r.outWait.filter fun e => decide (e.1 = q)

/-- The TSU sends a region an entry: at once where it holds a credit and nothing waits before it, else when one returns (R47). -/
def toRegion (n q : Nat) (o : Out) (s : State) : State :=
  let r := s.tsu.region n
  if r.credit q && (r.heldBack q).isEmpty then putOut n q o s
  else onRegion n (fun r => { r with outWait := r.outWait ++ [(q, o)] }) s

/-- On a new tick a region may read an entry of an outbound queue, which returns its credit; an entry that waited for it follows. -/
def readOut (n q : Nat) (s : State) : State :=
  let r := s.tsu.region n
  let s := if r.outq.get 0 q ≠ 0 ∧ Config.regionReads n q s.tsu.tc.frc.toNat = true then
      onRegion n (fun r => { r with outq := r.outq.upd 0 q (· - 1) }) s
    else s
  match (r.heldBack q).head? with
  | some e =>
    if (s.tsu.region n).credit q then putOut n q e.2 (onRegion n (fun r => { r with outWait := r.outWait.erase e }) s) else s
  | none => s

/-! ## A new tick -/

/-- The heads of a region's inbound queues may be taken on the new tick, in the order of the queues. -/
def offerTokens (n : Nat) (s : State) : State :=
  let r := s.tsu.region n
  let heads := (r.inq.filterMap fun e => e.2.head?) ++ (if r.watchQueue = [] then [] else [.watchRegisterDeferred n])
  { onRegion n (fun r => { r with inTaken := 0 }) s with later := s.later ++ heads }

/-- The queues of every region on a new tick. -/
def serveQueues (s : State) : State :=
  forAll (s.tsu.regions.map (·.1)) (fun n s => forAll [oLaunch, oResult, oTime, oNotify] (readOut n) (offerTokens n s)) s

end Sys2Proof.Machine
end

