-- ==== Sys2Proof/Machine/TimeOps.lean ====
section
/-! DEFINITION. Hall time (02_hall_time.md): the mapping from the counter to hall time, the inverse mapping of
targets, changes of rate, phase steps and slews. -/

namespace Sys2Proof.Machine

/-- A whole number of nanoseconds as hall time. -/
def htOfNs (ns : Nat) : HT := BitVec.ofNat 80 (ns * 65536)

/-- The whole nanoseconds of a hall time. -/
def nsOf (h : HT) : Nat := h.toNat / 65536

/-- Exact sum of counter, product and offset, rounded once to 2^-16 ns (R29), before it is held in 80 bits. -/
def htExact (tc : TimeCore) (f : Nat) : Int :=
  rne (((f : Int) * 65536 + (tc.offset.toNat : Int)) * 2 ^ 24 + (f : Int) * tc.rate.toInt) (2 ^ 24)

/-- HT of a counter value (R29). -/
def htAt (tc : TimeCore) (f : Nat) : HT := BitVec.ofInt 80 (htExact tc f)

/-- Hall time of the present tick of the die. -/
def Tsu.now (t : Tsu) : HT := htAt t.tc t.tc.frc.toNat

/-- Hall time of the present tick of the Fjouz chip. -/
def Fjz.now (x : Fjz) : HT := BitVec.ofNat 80 (x.frc.toNat * 65536 + x.htOffset.toNat)

/-- Hall time of a part. -/
def hallTime (s : State) : Dev → HT
  | .tsu => s.tsu.now
  | .fjz => s.fjz.now

/-- Counter of a part. -/
def counterOf (s : State) : Dev → Nat
  | .tsu => s.tsu.tc.frc.toNat
  | .fjz => s.fjz.frc.toNat

/-- OFFSET as the signed number that makes the exact sum of the present tick its hall time: below zero where the counter is ahead of
hall time. -/
def offsetInt (tc : TimeCore) : Int :=
  let f := tc.frc.toNat
  (tc.offset.toNat : Int) + (htAt tc f).toNat - htExact tc f

/-- First counter value whose hall time reaches a target (R34): HT rounds to nearest even, so a target whose last
bit is odd is reached only above the half. -/
def tickOf (tc : TimeCore) (h : HT) : Nat :=
  let x := ((h.toNat : Int) - offsetInt tc) * 2 ^ 24 - 2 ^ 23 + b2n (bitOf h 0)
  let d := (2 : Int) ^ 40 + tc.rate.toInt
  ((x + d - 1) / d).toNat

/-- Conversion of a target on the present tick (R36, R37): parked when more than 2^24 ns ahead; a value that is
already past fires on the next tick. -/
def convert (tc : TimeCore) (h : HT) : Option Nat :=
  if h.toNat > (htAt tc tc.frc.toNat).toNat + 2 ^ 24 * 65536 then none
  else
    let f := tickOf tc h
    some (if f < tc.frc.toNat then tc.frc.toNat + 1 else f)

/-- A converted target has fired by the present tick. -/
def reached (tc : TimeCore) (target : Option Nat) : Bool :=
  match target with
  | some f => decide (f ≤ tc.frc.toNat)
  | none => false

/-- Change of rate on the present tick, with the compensation of R32 rounded on its own. -/
def setRate (r : I64) (tc : TimeCore) : TimeCore :=
  let comp := rne ((tc.frc.toNat : Int) * (tc.rate.toInt - r.toInt)) (2 ^ 24)
  { tc with offset := tc.offset + BitVec.ofInt 80 comp, rate := r }

/-- Add a phase of picoseconds to offset at once, carrying what 2^-16 ns cannot hold (R38). -/
def addPhase (ps : Int) (tc : TimeCore) : TimeCore :=
  let x := ps * 65536 + tc.stepRem
  { tc with offset := tc.offset + BitVec.ofInt 80 (x / 1000), stepRem := x % 1000 }

/-- Jump of offset by a measured error in picoseconds (Table 2.2), rounded to 2^-16 ns as left open. -/
def jumpPhase (ps : Int) (tc : TimeCore) : TimeCore :=
  { tc with offset := tc.offset + BitVec.ofInt 80 (openRound (ps * 65536) 1000) }

/-- Change of TIME_STATE (R41): hall time of the change and the interrupt of Table 13.6. -/
def enterTime (st : TimeState) (s : State) : State :=
  onTsu (fun t => setIrq { t with tc := { t.tc with state := st, entryHt := t.now } } irqTimeState) s

/-- Fold the offset fraction and rate into the loop phase (Table 2.2, CALIBRATE to LOCKED and R31): rate to zero
under R32, offset rounded to a whole nanosecond, the removed fraction, in picoseconds, to the slew accumulator when
`slewed` says so and to the loop otherwise. DESIGN CHOICE (log 62): Table 2.2 says only that OFFSET is rounded; the model takes the
nearest whole nanosecond, ties to even. -/
def foldMapping (slewed : Bool) (tc : TimeCore) : TimeCore :=
  let tc := setRate 0 tc
  let off := BitVec.ofInt 80 (rne tc.offset.toNat 65536 * 65536)
  let removed := openRound (((tc.offset.toNat : Int) - off.toNat) * 1000) 65536
  { tc with offset := off,
            slewRemaining := if slewed then tc.slewRemaining + i64 removed else tc.slewRemaining }

/-- One tick of a slew (R39): moves `ppb` · 10^-9 ns towards zero, counted in 10^-9 ps of `frac`; returns what
remains and the new fraction. -/
def slewTick (remaining : Int) (frac ppb : Nat) : Int × Nat :=
  if remaining = 0 then (0, 0)
  else
    let f := frac + ppb * 1000
    let whole := min (f / 1000000000) remaining.natAbs
    (if remaining < 0 then remaining + whole else remaining - whole, f % 1000000000)

/-- Picoseconds of a difference of hall times, rounded as left open. -/
def diffPs (a b : HT) : Int := openRound ((BitVec.toInt (a - b)) * 1000) 65536

/-- Hall time moved by picoseconds, to nearest. -/
def htAddPs (h : HT) (ps : Int) : HT := BitVec.ofInt 80 (rne ((h.toNat : Int) * 1000 + ps * 65536) 1000)

/-- Hall time of a raw time-stamp (Table 3.8): the counter's, and the fraction of the tick in units of 8 ps. -/
def stampHt (s : State) (d : Dev) (x : Stamp) : HT :=
  match d with
  | .tsu => htAddPs (htAt s.tsu.tc x.frc.toNat) (8 * x.sub.toNat)
  | .fjz => htAddPs (BitVec.ofNat 80 (x.frc.toNat * 65536 + s.fjz.htOffset.toNat)) (8 * x.sub.toNat)

end Sys2Proof.Machine
end

