-- ==== Sys2Proof/Machine/Records.lean ====
section
/-! DEFINITION. Error records and their rings (R247 to R249), the worlds that mark them (R319), the recorder tap of the
TSU (R287 to R290) and the event and window areas of a Fjouz chip (R292 to R295). -/

namespace Sys2Proof.Machine

/-! ## Declared ranges (Table 5.13, STREAM_GROUPS) -/

def Herd.syncFirst (h : Herd) : Nat := fldN h.decl 0 16
def Herd.syncCount (h : Herd) : Nat := fldN h.decl 16 16
def Herd.eventFirst (h : Herd) : Nat := fldN h.decl 32 16
def Herd.eventCount (h : Herd) : Nat := fldN h.decl 48 16
def Herd.watchQuota (h : Herd) : Nat := fldN h.decl 64 16
def Herd.tineFirst (h : Herd) : Nat := fldN h.decl 80 16
def Herd.tineCount (h : Herd) : Nat := fldN h.decl 96 16
def Herd.startTine (h : Herd) : Nat := fldN h.decl 112 16
def Herd.regionMask (h : Herd) : BitVec 52 := fld h.decl 128 52
def Herd.exclusive (h : Herd) : Bool := bitOf h.decl 180
/-- First entry and count of a stream group. -/
def Herd.group (h : Herd) (g : Nat) : Nat × Nat := (fldN h.groups (32 * g) 16, fldN h.groups (32 * g + 16) 16)

/-- n lies in the range of `count` from `first`. -/
def inRange (n first count : Nat) : Bool := decide (first ≤ n ∧ n < first + count)

/-- n lies in the range of a kind (numbered as WORLD_REGION, Table 12.10) that a herd holds. -/
def Herd.holds (h : Herd) (kind n : Nat) : Bool :=
  match kind with
  | 1 => inRange n h.stepFirst.toNat h.stepCount.toNat
  | 2 => (List.range 15).any fun g => inRange n (h.group g).1 (h.group g).2
  | 3 => inRange n h.syncFirst h.syncCount
  | 4 => inRange n h.eventFirst h.eventCount
  | 5 => inRange n h.tineFirst h.tineCount
  | _ => false

/-! ## Worlds (R319) -/

/-- An element lies in a secure memory region: a valid WORLD_REGION entry, or a range of a secure context that is
not FREE. -/
def elemSecure (t : Tsu) (kind n : Nat) : Bool :=
  (t.agent.worldRegions.any fun e => decide (kind ≠ 0 ∧ fldN e.2 0 8 = kind) && inRange n (fldN e.2 8 24) (fldN e.2 32 24)) ||
  (t.herds.any fun e => bitOf t.agent.worldHerd e.1 && decide (e.2.state ≠ .free) && e.2.holds kind n)

/-- Kind of secure region that an indexed class of elements falls in, 0 for none. -/
def elemKind (index : Nat) : Nat :=
  if index = 0x5080 then 1 else if index = 0x5090 then 2 else if index = 0x6080 then 3
  else if index = 0x6090 then 4 else if index = 0x7080 then 5 else if index = 0x7200 then 6 else 0

/-- The sub-block of an index is given to the secure world (Table 12.6). -/
def subSecure (worldSub : U32) (index : Nat) : Bool := bitOf worldSub (index / 4096 - 1) && decide (0x1000 ≤ index)

/-- A per-herd object of a secure context (R319). -/
def herdSecure (t : Tsu) (index : Nat) : Bool :=
  decide (index / 256 = 0x51 ∨ index / 256 = 0x61 ∨ index / 256 = 0x81) && decide (index % 256 < 64) &&
    bitOf t.agent.worldHerd (index % 256)

/-- SECURE of an error record: its OBJECT falls under R319 at the time of the record. -/
def objSecure (s : State) (d : Dev) (obj : U32) : Bool :=
  let index := obj.toNat / 65536
  subSecure (agent s d).worldSub index ||
    match d with
    | .tsu => herdSecure s.tsu index || elemSecure s.tsu (elemKind index) (obj.toNat % 65536)
    | .fjz => false

/-! ## The record and the ring -/

/-- The 256 bits of an error record (Table 9.2). -/
def errBits (r : ErrRec) : BitVec 256 :=
  pack 256 [(0, 16, r.code.toNat), (16, 1, b2n r.halts), (17, 1, b2n r.fjouz), (18, 1, b2n r.secure),
    (19, 1, b2n r.droppedBefore), (32, 80, r.ht.toNat), (112, 24, r.die.toNat), (136, 24, r.herd.toNat),
    (160, 32, r.object.toNat), (192, 32, r.waiter.toNat), (224, 16, r.round.toNat), (240, 16, r.detail.toNat)]

/-- The record that 256 bits spell. -/
def errOf (x : BitVec 256) : ErrRec :=
  { code := fld x 0 16, halts := bitOf x 16, fjouz := bitOf x 17, secure := bitOf x 18, droppedBefore := bitOf x 19,
    ht := fld x 32 80, die := fld x 112 24, herd := fld x 136 24, object := fld x 160 32, waiter := fld x 192 32,
    round := fld x 224 16, detail := fld x 240 16 }

/-- A record enters a ring of `cap` records, or is dropped (R248). -/
def pushErr (cap : Nat) (r : ErrRec) (e : ErrRing) : ErrRing :=
  if e.ring.length < cap then
    { e with ring := e.ring ++ [{ r with droppedBefore := e.gap }], gap := false, total := bump e.total }
  else
    { e with overflow := true, gap := true, dropped := satAdd e.dropped 1, total := bump e.total }

/-- An object of a class index and a number (R247). -/
def objOf (index n : Nat) : U32 := BitVec.ofNat 32 (index * 65536 + n)

/-! ## The recorder tap (R287 to R290) -/

/-- BNUM of an input taken now (R289). -/
def Herd.bnumNow (h : Herd) : Nat :=
  if h.state = .running then h.bnum else if h.live then 0 else 0xFFFFFFFFFF

/-- The record prefix of an input of a context (Table 11.3). -/
def prefixOf (t : Tsu) (h : Nat) : Bytes :=
  let x := t.herd h
  bvBytes (pack 192 [(0, 80, t.now.toNat), (80, 24, x.herdId.toNat), (104, 8, x.seqLast.toNat),
    (112, 40, x.bnumNow), (152, 20, x.cur.toNat)])

/-- The record prefix of a record of no context: RUN and STEP are open there (log 6). -/
def prefixNone (ht : HT) (herd : Id24) : Bytes :=
  bvBytes (pack 192 [(0, 80, ht.toNat), (80, 24, herd.toNat), (104, 8, Config.noHerdRun.toNat),
    (112, 40, 0xFFFFFFFFFF), (152, 20, Config.noHerdStep.toNat)])

/-- The bodies of the cells of one record (Table 11.2): up to 48 bytes of data each. -/
def recordBodies (kind : Nat) (seq : U32) (data : Bytes) : List (BitVec 448) :=
  let ps := chunks 48 (data.length + 1) data
  (List.range ps.length).map fun i =>
    let q := ps.getD i []
    pack 448 [(0, 8, kind), (8, 1, b2n (decide (i = 0))), (9, 1, b2n (decide (i + 1 = ps.length))),
      (16, 6, q.length), (32, 32, seq.toNat), (64, 384, ofLe q)]

/-- The tap places one record in its staging buffer of 512 cells, whole or not at all (R288); a record that it
suppresses or drops consumes its TAP_SEQ (R358). In REPLAY_PINNED it sends ERROR records only (R356). -/
def tap (kind : Nat) (data : Bytes) (s : State) : State :=
  let t := s.tsu
  if kind ≠ 11 ∧ t.tc.state = .replayPinned then s
  else if kind ≠ 11 ∧ !t.recordEnable then onTsu (fun t => { t with tapSeq := t.tapSeq + 1 }) s
  else
    let cells := (recordBodies kind t.tapSeq data).map fun b =>
      ({ hdr := pack 64 [(0, 8, 0x30), (8, 2, 3), (12, 4, 14), (32, 24, t.agent.deviceId.toNat)], body := b,
         cont := 0 } : Cell)
    if t.staging.length + cells.length ≤ 512 then
      onTsu (fun t => { t with staging := t.staging ++ cells, tapSeq := t.tapSeq + 1 }) s
    else onTsu (fun t => { t with tapDropped := satAdd t.tapDropped 1, tapSeq := t.tapSeq + 1 }) s

/-- A record of a context's input: prefix and content. -/
def tapHerd (kind h : Nat) (content : Bytes) (s : State) : State := tap kind (prefixOf s.tsu h ++ content) s

/-! ## Raising a record on the TSU -/

/-- MODE of REPLAY_SETUP (Table 11.7): 1 is TIMED. -/
def Tsu.replayTimed (t : Tsu) : Bool := decide (t.tc.state = .replayPinned ∧ fldN t.replaySetup 80 8 = 1)
/-- The die replays in STRICT mode. -/
def Tsu.replayStrict (t : Tsu) : Bool := decide (t.tc.state = .replayPinned ∧ fldN t.replaySetup 80 8 = 0)
/-- TINES of REPLAY_SETUP: recorded results are injected. -/
def Tsu.replayInject (t : Tsu) : Bool := decide (t.tc.state = .replayPinned) && bitOf t.replaySetup 88

/-- REPLAY_FAULT_MATCH (R300) of the first recorded and the first own fault. -/
def faultMatchOf (window own : Option (U16 × U32 × U32 × Nat)) : U8 :=
  match window, own with
  | some a, some b => if a = b then 1 else 3
  | _, _ => 0

/-- A record enters the ring of the TSU: interrupts and ERROR record, behind the prefix that it was raised with (R248, R333). -/
def enterErr (e : ErrRec × Bytes) (s : State) : State :=
  let errs := pushErr 256 e.1 s.tsu.errs
  let t := { s.tsu with errs := errs }
  let t := if s.tsu.errs.ring = [] then setIrq t irqErrPending else t
  let t := if errs.overflow && !s.tsu.errs.overflow then setIrq t irqErrOverflow else t
  let stored := { e.1 with droppedBefore := decide (s.tsu.errs.ring.length < 256) && s.tsu.errs.gap }
  tap 11 (e.2 ++ bvBytes (errBits stored)) { s with tsu := t }

/-- The records raised in one phase enter the ring in ascending OBJECT (R248). -/
def enterErrs (s : State) : State :=
  forAll (sortBy (fun a b : ErrRec × Bytes => decide (a.1.object.toNat < b.1.object.toNat)) s.staged) enterErr
    { s with staged := [] }

/-- The TSU raises an error record of the present tick (R247); it enters the ring as the command, or the phase of the tick, ends. -/
def raise (r : ErrRec) (s : State) : State :=
  let t := s.tsu
  let r := { r with ht := t.now, die := t.agent.deviceId, secure := objSecure s .tsu r.object, fjouz := false }
  let ctx := t.ctxOf r.herd
  let own : Option (U16 × U32 × U32 × Nat) :=
    match t.ownFault with
    | some x => some x
    | none =>
      if t.replayTimed && r.halts then
        some (r.code, r.object, r.waiter, (match ctx with | some h => (t.herd h).bnumNow | none => 0xFFFFFFFFFF))
      else none
  { s with
    staged := s.staged ++ [(r, match ctx with | some h => prefixOf t h | none => prefixNone t.now r.herd)]
    tsu := { t with ownFault := own,
                    faultMatch := if t.ownFault = own then t.faultMatch else faultMatchOf t.windowFault own } }

/-- A record about a herd context, with the codes that Table 5.17 lists kept in LAST_FAULT (R155). -/
def raiseHerd (h : Nat) (code : U16) (halts : Bool) (obj waiter : U32) (round : Nat) (detail : Nat) (s : State) :
    State :=
  let r : ErrRec :=
    { code := code, halts := halts, herd := (s.tsu.herd h).herdId.setWidth 24, object := obj, waiter := waiter,
      round := BitVec.ofNat 16 round, detail := BitVec.ofNat 16 (min detail 0xFFFF) }
  onHerd h (fun x => if code.toNat / 256 = 5 then { x with lastFault := code } else x) (raise r s)

/-- "All ones" of a waiter field. -/
def allOnes32 : U32 := 0xFFFFFFFF
/-- HERD of a record of no herd. -/
def noHerd : Id24 := 0xFFFFFF

/-! ## The areas of a Fjouz chip (R292, R294) -/

def windowCap : Nat := 68719476736 / 64
def eventCap : Nat := 3280523264 / 64

/-- One stored entry (Table 11.5). -/
def storedEntry (body : BitVec 448) (src : Nat) (die : Id24) (tick : U64) : BitVec 512 :=
  pack 512 [(0, 448, body.toNat), (448, 8, src), (456, 24, die.toNat), (480, 32, tick.toNat)]

/-- The chip stores a cell body of its own in its event area. -/
def ownEntry (body : BitVec 448) (x : Fjz) : Fjz :=
  { x with events := pushRing eventCap x.events (storedEntry body 0xFF x.agent.deviceId x.frc) }

/-- A freeze trigger at a leaf (R294): the first starts the tail, every further one is counted. -/
def freezeTrigger (n : U8) (by_ : U32) (herd : Id24) (x : Fjz) : Fjz :=
  if x.role ≠ 1 then x
  else if x.recState = .recording then
    { x with recState := .tail, freezeHt := x.now, freezeTrigger := n, freezeAt := x.frc.toNat, freezeBy := by_,
             freezeHerd := herd }
  else { x with triggersExtra := bump x.triggersExtra }

/-- A complete record enters the Fjouz chip's ring and its event area (R248, R287). -/
def fjzRecord (r : ErrRec) (x : Fjz) : Fjz :=
  let errs := pushErr 4096 r x.errs
  let stored := { r with droppedBefore := decide (x.errs.ring.length < 4096) && x.errs.gap }
  let bodies := recordBodies 11 x.ownSeq (prefixNone r.ht r.herd ++ bvBytes (errBits stored))
  bodies.foldl (fun x b => ownEntry b x) { x with errs := errs, ownSeq := x.ownSeq + 1 }

/-- The Fjouz chip writes an error record of its own: ring, event area, and trigger 5 if it halts a herd. -/
def raiseFjz (r : ErrRec) (s : State) : State :=
  let x := s.fjz
  let r := { r with ht := x.now, die := x.agent.deviceId, secure := objSecure s .fjz r.object, fjouz := true }
  let x := fjzRecord r x
  { s with fjz := if r.halts then freezeTrigger 5 (x.agent.deviceId.setWidth 32) r.herd x else x }

/-- A record of either part. -/
def raiseOn (d : Dev) (r : ErrRec) (s : State) : State :=
  match d with
  | .tsu => raise r s
  | .fjz => raiseFjz r s

/-! ## The answer of a command -/

/-- The block as a command finds it: what the last one handed out is gone, and no record of it is left to enter. -/
def State.fresh (s : State) : State := { s with out := [], staged := [] }

/-- A command's answer: its effect on the block with the outputs of the last command taken away and its error records entered, or
the fault of an operand that names a part the block does not have (log 4). -/
def perform (ok : Bool) (f : State → State) (s : State) : Result :=
  if ok then .next (enterErrs (f s.fresh)) else .fault .outsidePart

/-- A command to a part: without effect while the part does not act. -/
def performOn (d : Dev) (ok : Bool) (f : State → State) (s : State) : Result :=
  perform ok (fun s => if partWorks s d then f s else s) s

end Sys2Proof.Machine
end

