-- ==== Sys2Proof/Machine/Ports.lean ====
section
/-! DEFINITION. Cells and the sync port's two sides (R61 to R71): building and queueing a cell, taking a released
cell, and where cells of each type go on a Fjouz chip. -/

namespace Sys2Proof

open Machine

/-! ## The cell header (Table 3.3) -/

def Cell.typ (c : Cell) : Nat := fldN c.hdr 0 8
def Cell.cls (c : Cell) : Nat := fldN c.hdr 8 2
def Cell.pair (c : Cell) : Bool := bitOf c.hdr 10
def Cell.retry (c : Cell) : Bool := bitOf c.hdr 11
def Cell.lseq (c : Cell) : U16 := fld c.hdr 16 16
def Cell.addr (c : Cell) : Id24 := fld c.hdr 32 24

end Sys2Proof

namespace Sys2Proof.Machine

/-- Cell types (Table 3.4). -/
def tIdle : Nat := 0x00
def tTimeDown : Nat := 0x01
def tTimeUp : Nat := 0x02
def tTimeReply : Nat := 0x03
def tBleat : Nat := 0x04
def tPronk : Nat := 0x05
def tHalt : Nat := 0x06
def tRetryReq : Nat := 0x07
def tHello : Nat := 0x08
def tArrival : Nat := 0x10
def tResult : Nat := 0x11
def tAbandon : Nat := 0x12
def tCont : Nat := 0x13
def tDictReq : Nat := 0x20
def tDictRsp : Nat := 0x21
def tSwapCtrl : Nat := 0x22
def tReserve : Nat := 0x23
def tRecord : Nat := 0x30

/-- Class of each type, none for a reserved value (Table 3.4). A CONTINUATION takes its first cell's. -/
def classOf (typ : Nat) : Option Nat :=
  if typ ≤ 0x08 then some 0
  else if typ = 0x10 ∨ typ = 0x11 ∨ typ = 0x12 then some 1
  else if typ = 0x20 ∨ typ = 0x21 ∨ typ = 0x22 ∨ typ = 0x23 then some 2
  else if typ = 0x30 then some 3
  else none

/-- Types that link retry recovers (Table 3.4). -/
def retried (typ : Nat) : Bool :=
  decide (typ = 0x05 ∨ typ = 0x06 ∨ (0x10 ≤ typ ∧ typ ≤ 0x13) ∨ (0x20 ≤ typ ∧ typ ≤ 0x23) ∨ typ = 0x30)

/-- A cell of a type; `units` is BODY_LEN. -/
def mkCell (typ addr units : Nat) (body : BitVec 448) : Cell :=
  { hdr := pack 64 [(0, 8, typ), (8, 2, (classOf typ).getD 0), (12, 4, units), (32, 24, addr)], body := body, cont := 0 }

/-- Header of the CONTINUATION of a pair: CLASS and RETRY of its first cell, and the next LSEQ (R63). -/
def contHeader (hdr : BitVec 64) : BitVec 64 :=
  pack 64 [(0, 8, tCont), (8, 2, fldN hdr 8 2), (11, 1, b2n (bitOf hdr 11)), (12, 4, 14), (16, 16, fldN hdr 16 16 + 1)]

/-- A pair (R63). -/
def mkPair (typ addr : Nat) (body cont : BitVec 448) : Cell :=
  let hdr := pack 64 [(0, 8, typ), (8, 2, (classOf typ).getD 0), (10, 1, 1), (12, 4, 14), (32, 24, addr)]
  { hdr := hdr, body := body, cont := cont, contHdr := contHeader hdr }

end Sys2Proof.Machine

namespace Sys2Proof

open Machine

/-- The CONTINUATION of a pair, as a cell of its own slot. -/
def Cell.second (c : Cell) : Cell := { hdr := c.contHdr, body := c.cont, cont := 0 }

/-- CLASS of a cell matches its TYPE, and a CONTINUATION has that TYPE, its first cell's CLASS and the next LSEQ (R61, R63). -/
def Cell.sound (c : Cell) : Bool :=
  decide (classOf c.typ = some c.cls) &&
    (!c.pair || decide (fldN c.contHdr 0 8 = tCont ∧ fldN c.contHdr 8 2 = c.cls ∧ fld c.contHdr 16 16 = c.lseq + 1))

end Sys2Proof

namespace Sys2Proof.Machine

/-! ## Sending -/

/-- A port that is UP. -/
def isUp (s : State) (d : Dev) (p : Nat) : Bool := decide ((port s d p).state = .up)

/-- Cells of a class that wait in the buffer of a port (R66). -/
def classWaiting (k : Nat) (x : Port) : Nat := (x.txq.filter fun e => decide (e.cell.cls = k)).length

/-- Cells of P2 or P3 that the buffer of a port holds (R66). -/
def bufferCap : Nat := 256

/-- A cell becomes ready at a port that is UP (R64). A P1 cell needs a tine interface (R74); a P3 cell that finds its
buffer full is dropped, and a P2 cell that does is held back at the agent that sends it, which loses none (R66). -/
def sendOn (d : Dev) (p : Nat) (bypass : Bool) (c : Cell) (s : State) : State :=
  let x := port s d p
  if x.state ≠ .up then s
  else if c.cls = 1 ∧ fldN x.negVer 32 16 = 0 then s
  else if c.cls = 3 ∧ bufferCap ≤ classWaiting 3 x then
    match d with
    | .tsu => onTsu (fun t => { t with p3Dropped := bump t.p3Dropped }) s
    | .fjz => onFjz (fun f => { f with p3Dropped := bump f.p3Dropped }) s
  else
    let e : TxCell := { cell := c, bypass := bypass, ready := counterOf s d }
    if c.cls = 2 ∧ bufferCap ≤ classWaiting 2 x then onPort d p (fun x => { x with p2Held := x.p2Held ++ [e] }) s
    else onPort d p (fun x => { x with txq := x.txq ++ [e] }) s

/-- The agent goes on as the P2 buffer of a port has room again (R66). -/
def refillP2 (x : Port) : Port :=
  match x.p2Held with
  | e :: es => if classWaiting 2 x < bufferCap then { x with txq := x.txq ++ [e], p2Held := es } else x
  | [] => x

def send (d : Dev) (p : Nat) (c : Cell) (s : State) : State := sendOn d p false c s

/-- A P1 cell of a move, which leaves ahead of every other P1 cell of the die (R206). -/
def sendFirst (p : Nat) (c : Cell) (s : State) : State :=
  let x := port s .tsu p
  if x.state ≠ .up ∨ fldN x.negVer 32 16 = 0 then s
  else onPort .tsu p
    (fun x => { x with txq := x.txq ++ [{ cell := c, first := true, ready := counterOf s .tsu }] }) s

/-- The same cell on several ports, in order. -/
def sendAll (d : Dev) (ps : List Nat) (bypass : Bool) (c : Cell) (s : State) : State :=
  forAll ps (fun p s => sendOn d p bypass c s) s

/-- The port of a plane on a die. -/
def planePort : Plane → Nat
  | .a => 0
  | .b => 1

def otherPlane : Plane → Plane
  | .a => .b
  | .b => .a

/-- A die sends on every UP sync port (R251). -/
def sendBoth (c : Cell) (s : State) : State := sendAll .tsu [0, 1] false c s

/-! ## Receiving -/

/-- Distance of a sequence number past the one expected. -/
def lseqAhead (x : Port) (c : Cell) : Nat := (c.lseq - x.lseqRx.get 0 c.cls).toNat

/-- The cells that a port holds behind a gap (R68). -/
def heldCells (x : Port) : List Cell := x.heldRx.filterMap fun i => (cellOf i).map fun e => e.2.2

/-- Bit of a class in the class sets of a gap. -/
def classBit (k : Nat) : BitVec 4 := BitVec.ofNat 4 (2 ^ k)

/-- A gap after a cell of its class was delivered in turn. The class misses nothing more where no cell of it is held; where the
cell was no retransmission it never did, since cells of a class come in order. A gap that no class misses is gone (R69, R70). -/
def Gap.after (g : Gap) (k : Nat) (held retry : Bool) : Gap :=
  { g with ahead := if held then g.ahead else g.ahead &&& ~~~(classBit k),
           filled := if held ∨ (retry = true ∧ g.ahead &&& classBit k = 0) then g.filled else g.filled ||| classBit k }

/-- A retried cell that is next in its class is delivered: the sequence moves past it (and its CONTINUATION), and the gaps of its
class follow (R68 to R70). -/
def deliver (c : Cell) (x : Port) : Port :=
  let held := x.heldRx.filter fun i => match cellOf i with
    | some e => decide (e.2.2.cls ≠ c.cls ∨ e.2.2.lseq ≠ c.lseq)
    | none => false
  let x := { x with lseqRx := x.lseqRx.upd 0 c.cls (fun n => n + (if c.pair then 2 else 1)), heldRx := held }
  let still := (heldCells x).any fun h => decide (h.cls = c.cls)
  { x with gaps := (x.gaps.map fun g => g.after c.cls still c.retry).filter fun g => decide (g.filled ≠ 15) }

/-- A retried cell came ahead of its turn: it is held, as the command that brought it, and its class misses a cell (R68). -/
def holdCell (i : Instr) (c : Cell) (x : Port) : Port :=
  if (heldCells x).contains c then x
  else { x with heldRx := x.heldRx ++ [i],
                gaps := x.gaps.map fun g =>
                  if g.filled &&& classBit c.cls = 0 then { g with ahead := g.ahead ||| classBit c.cls } else g }

/-- A port takes cells of its peer: while UP, and while its receiver holds codeword lock before that. -/
def Port.listens (x : Port) : Bool :=
  decide (x.state = .up) || (x.rxLock && decide (x.state = .lock ∨ x.state = .hello))

/-- Effect of a released cell, as command `i` brings it (R61, R67, R68): a cell that is not sound is counted and discarded; on a
port that is UP a retried cell ahead of its turn is held, and one already delivered is discarded. -/
def receive (i : Instr) (d : Dev) (p : Nat) (types : List Nat) (c : Cell) (act : State → State) : State → State :=
  inTurn i fun s =>
    let x := port s d p
    if !x.listens then s
    else if !c.sound then onPort d p (fun x => { x with protoErrors := bump x.protoErrors }) s
    else if x.state ≠ .up ∨ !types.contains c.typ then s
    else if !retried c.typ then act s
    else if lseqAhead x c = 0 then act (onPort d p (deliver c) s)
    else if lseqAhead x c < 32768 then onPort d p (holdCell i c) s
    else s

/-! ## The ports of a Fjouz chip by level (R8, R9) -/

def Fjz.childPorts (x : Fjz) : List Nat :=
  if x.role = 1 then List.range 64 else if x.role = 2 then List.range 71 else if x.role = 3 then List.range 16 else []

/-- The ports on which the chip itself is a child. -/
def Fjz.parentPorts (x : Fjz) : List Nat := if x.role = 1 then [64, 65] else if x.role = 2 then [71] else []

/-- The port towards the parent that the chip follows: 65 on a leaf that has adopted its standby parent (Table 4.1). -/
def Fjz.parentPort (x : Fjz) : Option Nat :=
  if x.role = 1 then some (if x.selTime = some 9 then 65 else 64) else if x.role = 2 then some 71 else none

/-- The ports of a level that are powered (R8, R9). -/
def Fjz.powered (x : Fjz) (p : Nat) : Bool := x.childPorts.contains p || x.parentPorts.contains p

/-- The part at the other end of this port is the parent. -/
def isChildSide (s : State) (d : Dev) (p : Nat) : Bool :=
  match d with
  | .tsu => true
  | .fjz => s.fjz.parentPorts.contains p

/-- A child port that carries an active leaf: the leaf's SENDER_PORT is 64 (R9); every other child port is taken as
it is. -/
def activeChild (s : State) (p : Nat) : Bool := !(decide (s.fjz.role = 2 ∧ (port s .fjz p).peerPort = 65))

/-- Send to the active parent. -/
def sendUp (bypass : Bool) (c : Cell) (s : State) : State :=
  match s.fjz.parentPort with
  | some p => sendOn .fjz p bypass c s
  | none => s

/-- Object index of a port (R87). -/
def portIndex (p : Nat) : Nat := 0x3100 + p

end Sys2Proof.Machine
end

