-- ==== Sys2Proof/Machine/MeterLog.lean ====
section
/-! DEFINITION. The meter core's records and tamper log (10_meter_core.md): record bodies, the ring of signed records, its
overflow, tamper events, and the BOOT record. -/

namespace Sys2Proof.Machine

/-- The meter core is sealed: more seal fuses than break fuses are blown (R279). -/
def Meter.isSealed (m : Meter) : Bool := decide (m.breakFuses < m.sealFuses)

/-! ## Records (Tables 10.4, 10.5) -/

/-- Life-cycle state of a part (R344): the highest fuse blown; 0 BLANK to 3 RETURN. -/
def lcState (a : Agent) : Nat :=
  if bitOf a.lcFuses 2 then 3 else if bitOf a.lcFuses 1 then 2 else if bitOf a.lcFuses 0 then 1 else 0

/-- The fields common to every record body; LOST_BEFORE is set as the record enters the ring (R276). -/
def recordBody (t : Tsu) (typ flags : Nat) (recNs : Nat) (rest : List (Nat × Nat × Nat)) : BitVec 768 :=
  let m := t.meter
  let fl := flags + b2n m.isSealed + 32 * b2n (decide (lcState t.agent = 0))
  pack 768 ([(0, 8, typ), (8, 8, fl), (16, 16, Config.logicVersion.toNat), (32, 24, t.agent.deviceId.toNat),
    (56, 8, m.sealFuses), (64, 64, m.seqNext.toNat), (128, 64, nsOf (m.bootHt.getD 0)), (192, 64, recNs),
    (544, 32, m.recLost.toNat)] ++ rest)

/-- A record in the ring: one that arose in BLANK, which its UNSIGNED flag tells, carries a signature of zeros (R275); the first to
enter after a loss sets LOST_BEFORE (R276). -/
def ringRec (lost : Bool) (b : BitVec 768) : MeterRec :=
  { body := putBit b 12 lost, sig := if bitOf b 13 then some 0 else none }

/-- A record enters the ring, with METER_RING raised as it reaches 4,096 (Table 13.6). -/
def enterRing (b : BitVec 768) (t : Tsu) : Tsu :=
  let ring := t.meter.ring ++ [ringRec t.meter.lostBefore b]
  let t := { t with meter := { t.meter with ring := ring, lostBefore := false } }
  if ring.length = 4096 then setIrq t irqMeterRing else t

def ringCap : Nat := 8192

/-! ## Pending final records (R277) -/

/-- Both datapaths write a slot in step (R271). -/
def Meter.setSlot (m : Meter) (i : Nat) (w : BitVec 256) : Meter :=
  { m with slotsA := m.slotsA.set 0 i w, slotsB := m.slotsB.set 0 i w }

def tnId (w : BitVec 256) : Id24 := fld w 0 24
def tnValid (w : BitVec 256) : Bool := bitOf w 24
def Meter.tenant (m : Meter) (i : Nat) : BitVec 256 := m.tenantsA.get 0 i
def Meter.setTenant (m : Meter) (i : Nat) (w : BitVec 256) : Meter :=
  { m with tenantsA := m.tenantsA.set 0 i w, tenantsB := m.tenantsB.set 0 i w }

/-- The VALID tenant slot of a tenant. -/
def Meter.tenantSlot (m : Meter) (id : Id24) : Option Nat :=
  (m.tenantsA.find? fun e => tnValid e.2 && decide (tnId e.2 = id)).map (·.1)

/-- Change the tenant slot of a tenant, if it has one. -/
def Meter.onTenant (m : Meter) (id : Id24) (f : BitVec 256 → BitVec 256) : Meter :=
  match m.tenantSlot id with
  | some i => m.setTenant i (f (m.tenant i))
  | none => m

/-- A field of a word moved by an amount; the counters never wrap in the life of a die (R270). -/
def addFld {n : Nat} (w : BitVec n) (lo len v : Nat) : BitVec n := putN w lo len (fldN w lo len + v)

/-- The slot of an issued final record becomes inactive, with every field zero; its tenant counts the record (Table 10.3). -/
def clearSlot (i : Nat) (m : Meter) : Meter :=
  let m := m.onTenant (fld (m.slotsA.get 0 i) 32 24) fun x => putN (addFld x 160 32 1) 192 32 (fldN x 192 32 - 1)
  { m.setSlot i 0 with lastPart := m.lastPart.erase i }

/-- The lowest pending final record enters the ring (R277). -/
def moveFinal (t : Tsu) : Tsu :=
  match t.meter.finals with
  | [] => t
  | (i, b) :: rest =>
    if ringCap ≤ t.meter.ring.length then t
    else
      let t := { t with meter := clearSlot i { t.meter with finals := rest } }
      match b with
      | some b => enterRing b t
      | none => t

/-- Every pending final record that finds room enters the ring, ahead of any other record. -/
def moveFinals (t : Tsu) : Tsu := t.meter.finals.foldl (fun t _ => moveFinal t) t

/-! ## Tamper events -/

/-- A tamper entry (R278). -/
def tamperEntry (t : Tsu) (code detail aux : Nat) : BitVec 128 :=
  pack 128 [(0, 16, code), (16, 16, detail), (32, 64, if t.tc.htValid then nsOf t.now else 0), (96, 32, aux)]

/-- An event in the log and the totals, without its record. -/
def keepTamper (e : BitVec 128) (m : Meter) : Meter :=
  { m with tamper := if m.tamper.length < 1024 then m.tamper ++ [e] else m.tamper,
           totals := m.totals.upd 0 (fldN e 0 16) (fun n => satAdd n 1) }

/-- A record that finds the ring full is dropped (R276): REC_LOST, and at the first drop RECORDS_LOST in the log, whose own
TAMPER record is dropped as well. -/
def dropRecord (t : Tsu) : Tsu :=
  let m := t.meter
  let lost := satAdd m.recLost 1
  let m1 := { m with recLost := lost, seqNext := m.seqNext + 1, lostBefore := true }
  if m.lostBefore then { t with meter := m1 }
  else
    let m2 := keepTamper (tamperEntry t 10 0 lost.toNat) m1
    { t with meter := { m2 with recLost := satAdd m2.recLost 1, seqNext := m2.seqNext + 1 } }

/-- A record other than a final one arises (R273, R276). -/
def issue (typ flags : Nat) (rest : List (Nat × Nat × Nat)) (recNs : Nat) (t : Tsu) : Tsu :=
  let t := moveFinals t
  if ringCap ≤ t.meter.ring.length then dropRecord t
  else
    let t := enterRing (recordBody t typ flags recNs rest) t
    { t with meter := { t.meter with seqNext := t.meter.seqNext + 1 } }

/-- The TAMPER record of an entry. -/
def issueTamper (e : BitVec 128) (recNs : Nat) (t : Tsu) : Tsu := issue 5 0 [(576, 128, e.toNat)] recNs t

/-- A tamper event (R278): its record waits for the BOOT record, 64 at most. -/
def logTamper (code detail aux : Nat) (t : Tsu) : Tsu :=
  let e := tamperEntry t code detail aux
  let t := { t with meter := keepTamper e t.meter }
  if t.meter.bootHt = none then
    if t.meter.heldTamper.length < 64 then { t with meter := { t.meter with heldTamper := t.meter.heldTamper ++ [e] } }
    else { t with meter := { t.meter with recLost := satAdd t.meter.recLost 1 } }
  else issueTamper e (nsOf t.now) t

/-- The BOOT record, once, as HT_VALID first becomes true, and the held TAMPER records after it (R273, R278). -/
def bootRecord (t : Tsu) : Tsu :=
  if t.meter.bootHt ≠ none then t
  else
    let t := { t with meter := { t.meter with bootHt := some t.now, seqNext := 0 } }
    let t := issue 6 0 [(576, 128, Config.logicChecksum.toNat)] (nsOf t.now) t
    let held := t.meter.heldTamper
    held.foldl (fun t e => issueTamper e (fldN e 32 64) t) { t with meter := { t.meter with heldTamper := [] } }

end Sys2Proof.Machine
end

