-- ==== Sys2Proof/Machine/Agent.lean ====
section
/-! DEFINITION. The dictionary agent (12_zalcy_dictionary.md): the message header, the checks of Table 12.5 in order,
worlds and secure requests, duplicate protection, commit classes and pending writes, tunnelling, and responses. Every
write and pop read of an object is one WriteOp or ReadOp run by the agent. -/

namespace Sys2Proof.Machine

/-! ## The header (Table 12.4) -/

/-- The 256 header bits of a message. -/
def headerBits (q : Req) (index sub typ length status : Nat) (applied : Bool) : BitVec 256 :=
  pack 256 [(0, 8, q.version.toNat), (8, 8, typ), (16, 1, b2n q.secure), (17, 1, b2n q.applyAck),
    (18, 1, b2n q.byPort), (19, 1, b2n q.useElement), (20, 1, b2n applied), (24, 8, q.port.toNat),
    (32, 32, q.reqId.toNat), (64, 24, q.target.toNat), (88, 16, q.origin.toNat), (104, 16, index), (120, 8, sub),
    (128, 32, q.element.toNat), (160, 16, length), (176, 16, status), (192, 64, q.secCounter.toNat)]

/-- A request as its message spells it: header, value and tag. -/
def requestBytes (q : Req) (index sub : Nat) (v : Bytes) : Bytes :=
  bvBytes (headerBits q index sub q.typ.toNat q.length.toNat 0 false) ++ v ++ (if q.secure then bvBytes q.tag else [])

/-- The tag of a message (R318): the leftmost 16 octets of HMAC-SHA-256 of header and value. -/
def tagOf (key : BitVec 256) (hdr : BitVec 256) (v : Bytes) : BitVec 128 :=
  bytesBv 128 ((hmac (bvBytes key) (bvBytes hdr ++ v)).take 16)

/-! ## Sources and selectors (R316) -/

def sourceNumber : Source → Nat
  | .window => 0
  | .tunA => 1
  | .tunB => 2
  | .net => 3

/-- A TSU is reached by its window and two tunnels, a Fjouz chip by the network (R18, R307). -/
def sourceOf (d : Dev) (src : Source) : Bool :=
  match d, src with
  | .tsu, .net => false
  | .tsu, _ => true
  | .fjz, .net => true
  | .fjz, _ => false

def selectorKey (src : Source) (index sub : Nat) : Nat := sourceNumber src * 2 ^ 24 + index * 256 + sub

def selector (s : State) (d : Dev) (q : Req) (index sub : Nat) : Nat :=
  (agent s d).selectors.get 0 (selectorKey q.src index sub)

def setSelector (d : Dev) (q : Req) (index sub v : Nat) : State → State :=
  onAgent d fun a => { a with selectors := a.selectors.set 0 (selectorKey q.src index sub) v }

/-- The element a request addresses: ELEMENT, or what the selector names (R316). -/
def element (s : State) (d : Dev) (q : Req) (index sub : Nat) : Nat :=
  if q.useElement then q.element.toNat else selector s d q index sub

/-! ## Status (Table 12.5) -/

def stOk : Nat := 0
def stPending : Nat := 1
def stFormat : Nat := 2
def stVersion : Nat := 3
def stAuth : Nat := 4
def stNoObject : Nat := 5
def stAccess : Nat := 6
def stWorld : Nat := 7
def stSealed : Nat := 8
def stLength : Nat := 9
def stState : Nat := 10
def stRange : Nat := 11
def stBusy : Nat := 12
def stNoRoute : Nat := 13
def stTimeout : Nat := 14

/-- Access codes (Table 0.6). -/
inductive Access where
  | ro | rw | wo | rws | sealed
  deriving DecidableEq, Repr

/-- Commit classes (Table 12.7): at once, at a herd boundary, at the die boundary, held for the ledger, held for
Fjouz rounds. -/
inductive Commit where
  | now | herd (ctx : Nat) | die | ledger (ctx entry : Nat) (iter : Nat) | fjouz
  deriving DecidableEq, Repr

/-- A write of one object: where it lies, the checks the object adds, and its effect. `size` 0 is a variable DOMAIN of 1 to
`maxSize` octets. `result` is the status that the effect's own rule answers; `accept` is
what an accepted write does at once, also where `apply` waits; `refuse` is what its rule has a write do that is refused for its
state or value (R312: any record that the rule names is still written). -/
structure WriteOp where
  index   : Nat
  sub     : Nat
  access  : Access := .rw
  size    : Nat
  maxSize : Nat := 0
  bytes   : Bytes
  whole   : Bool := true
  kind    : Nat := 0
  elem    : Nat := 0
  second  : Nat := 0
  present : State → Bool := fun _ => true
  ready   : State → Bool := fun _ => true
  range   : State → Bool := fun _ => true
  cls     : State → Commit := fun _ => .now
  result  : State → Nat := fun _ => 0
  accept  : State → State := id
  refuse  : State → State := id
  apply   : State → State

/-- A read with its own row: a pop, or a plain read of one object. -/
structure ReadOp where
  index   : Nat
  sub     : Nat
  kind    : Nat := 0
  elem    : Nat := 0
  pop     : Bool := false
  present : State → Bool := fun _ => true
  value   : State → Bytes
  effect  : State → State := id

/-! ## The checks -/

/-- ORIGIN and APPLY_ACK of a window request are the agent's (R310). -/
def asTaken (q : Req) : Req :=
  if q.src = .window then { q with origin := 0xFFFF, applyAck := false } else q

/-- The secure request passes R318. -/
def authOk (a : Agent) (q : Req) (hdr : BitVec 256) (v : Bytes) : Bool :=
  a.secKeyValid && decide (fld q.secCounter 40 24 = a.bootId) &&
    decide (fldN a.secLast 0 40 < fldN q.secCounter 0 40) && decide (q.tag = tagOf a.secKey hdr v)

/-- The request is of the secure world (R317), once it has passed its checks. -/
def secureReq (q : Req) : Bool := if q.src = .window then q.busSecure else q.secure

/-- FORMAT, VERSION and AUTH, in order: the checks that do not depend on the object. -/
def headStatus (a : Agent) (q : Req) (typ : Nat) (whole : Bool) (hdr : BitVec 256) (v : Bytes) : Nat :=
  if q.typ.toNat ≠ typ ∨ !whole ∨ 1024 < q.length.toNat ∨ (q.src ≠ .window ∧ q.origin = 0xFFFF) then stFormat
  else if q.version ≠ 1 then stVersion
  else if q.src = .window ∧ q.secure ≠ q.busSecure then stAuth
  else if q.src ≠ .window ∧ q.secure ∧ !authOk a q hdr v then stAuth
  else stOk

/-- The world check of a write (R319). -/
def worldRefused (s : State) (d : Dev) (q : Req) (op : WriteOp) : Bool :=
  !secureReq q &&
    (decide (op.access = .rws ∨ op.access = .sealed) || subSecure (agent s d).worldSub op.index ||
      (match d with
        | .tsu => herdSecure s.tsu op.index || elemSecure s.tsu op.kind op.elem
        | .fjz => false))

/-- Pending writes of class H and D that one more would exceed (R322). -/
def pendingFull (a : Agent) (c : Commit) : Bool :=
  match c with
  | .herd h => decide (256 ≤ a.pending.length ∨ 64 ≤ (a.pending.filter fun w => decide (w.ctx = h)).length)
  | .ledger .. => decide (1024 ≤ a.heldLedger.length)
  | _ => false

/-- Something of the tick is still to come ahead of its phase 8: the work of phase 7, or a waiting command of R128. -/
def phase8Waits (s : State) : Bool :=
  !(s.tsu.bounds.isEmpty && s.tsu.ended.isEmpty && s.tsu.ledgerOps.isEmpty) ||
    (s.pending ++ s.later).any fun i => (placeOf i).any fun y => decide (y.dev = .tsu ∧ y.lane = 0)

/-- A write of class H waits while its context runs, one of class D for phase 8 of its tick, one of the ledger while it is live
(Table 12.7), a Fjouz write while a round is open (R21). -/
def waits (s : State) (c : Commit) : Bool :=
  match c with
  | .herd h => decide ((s.tsu.herd h).state = .running)
  | .die => phase8Waits s
  | .ledger .. => true
  | .fjouz => true
  | _ => false

/-- Self-test block under which the objects of an index lie (Table 13.11; DEDUCED from its names, log 12). -/
def blockOf (index : Nat) : List Nat :=
  if index = 0x3100 then [2] else if index = 0x3101 then [3]
  else if index = 0x3300 ∨ index = 0x3380 ∨ (0x3400 ≤ index ∧ index < 0x3460) then [4]
  else if (0x2400 ≤ index ∧ index < 0x2434) ∨ index = 0x2440 ∨ index = 0x6280 ∨ (0x6300 ≤ index ∧ index < 0x6334) then [5]
  else if index = 0x5000 ∨ (0x5100 ≤ index ∧ index < 0x5140) ∨ (0x8100 ≤ index ∧ index < 0x8140) then [6]
  else if index = 0x5080 then [7]
  else if index = 0x6000 ∨ (0x6100 ≤ index ∧ index < 0x6140) then [8]
  else if index = 0x6080 ∨ index = 0x6090 ∨ index = 0x60A0 then [9]
  else if index = 0x7000 ∨ index = 0x7080 then [10]
  else if index = 0x7200 then [11]
  else if index = 0x5090 then [12]
  else if index = 0xA400 then [13, 14]
  else if index = 0xA100 ∨ index = 0xA200 then [15, 16]
  else if index = 0xA080 then [17]
  else if index = 0x9080 ∨ index = 0x9100 then [18]
  else []

/-- An object belongs to the block now under on-demand self-test (R343). -/
def underTest (s : State) (d : Dev) (index : Nat) : Bool :=
  decide (d = .tsu ∧ s.tsu.phase = .onDemand) && (blockOf index).contains s.tsu.bistBlock.toNat

/-- The first status of Table 12.5 that applies to a write. -/
def writeStatus (s : State) (d : Dev) (q : Req) (op : WriteOp) : Nat :=
  let a := agent s d
  let hdr := headerBits q op.index op.sub q.typ.toNat q.length.toNat 0 false
  let head := headStatus a q 2 op.whole hdr op.bytes
  if head ≠ stOk then head
  else if !op.present s then stNoObject
  else if op.access = .ro then stAccess
  else if worldRefused s d q op then stWorld
  else if op.access = .sealed ∧ s.tsu.meter.isSealed then stSealed
  else if (op.size ≠ 0 ∧ q.length.toNat ≠ op.size) ∨
      (op.size = 0 ∧ (q.length.toNat = 0 ∨ op.maxSize < q.length.toNat)) then stLength
  else if underTest s d op.index ∨ !op.ready s then stState
  else if !op.range s then stRange
  else if waits s (op.cls s) && pendingFull a (op.cls s) then stBusy
  else stOk

/-! ## Responses -/

/-- Fragments of a message as DICT cells (Table 12.1). -/
def dictCells (typ addr : Nat) (tag : U16) (m : Bytes) : List Cell :=
  let ps := chunks 48 23 m
  (List.range ps.length).map fun i =>
    mkCell typ addr 14 (pack 448 [(0, 8, i), (8, 8, ps.length), (16, 16, tag.toNat), (32, 11, m.length),
      (64, 384, ofLe (ps.getD i []))])

/-- Queue a message on a port as DICT cells (R309); a port that is not UP, or has no dictionary interface, loses it. -/
def sendMessage (d : Dev) (p typ addr : Nat) (m : Bytes) (s : State) : State :=
  let x := port s d p
  if x.state ≠ .up ∨ fldN x.negVer 48 16 = 0 then s
  else forAll (dictCells typ addr x.msgTag m) (send d p) (onPort d p (fun x => { x with msgTag := x.msgTag + 1 }) s)

/-- Octets of a response message. -/
def rspBytes (r : Rsp) : Bytes := bvBytes r.hdr ++ r.value ++ (if bitOf r.hdr 16 then bvBytes r.tag else [])

/-- A response leaves by the path of its request (R309, R310, R307). -/
def deliverRsp (d : Dev) (r : Rsp) (s : State) : State :=
  match r.src with
  | .window =>
    emit (.response d r)
      (onTsu (fun t => setIrq { t with winRsp := some r, winBusy := false, winDone := true } irqWinDone) s)
  | .tunA => sendMessage d 0 tDictRsp (agent s d).deviceId.toNat (rspBytes r) s
  | .tunB => sendMessage d 1 tDictRsp (agent s d).deviceId.toNat (rspBytes r) s
  | .net => emit (.response d r) s

/-- The response to a request (R311), without APPLY_ACK and tagged if the request was secure; with status VERSION it names the highest
version supported (R361). -/
def mkRsp (a : Agent) (q : Req) (index sub status : Nat) (applied : Bool) (v : Bytes) : Rsp :=
  let hdr := headerBits { q with applyAck := false, version := if status = stVersion then 1 else q.version } index sub (q.typ.toNat % 128 + 128) v.length status applied
  { src := q.src, peer := q.peer, hdr := hdr, value := v, tag := if q.secure then tagOf a.secKey hdr v else 0 }

/-- Keep the response to a non-idempotent request: the last 64 (R314). -/
def keepRsp (r : Rsp) (a : Agent) : Agent := { a with held := (r :: a.held).take 64 }

/-- A held response with the same (ORIGIN, REQ_ID, SEC_COUNTER) (R314). -/
def findRsp (a : Agent) (q : Req) : Option Rsp :=
  a.held.find? fun r =>
    decide (fld r.hdr 88 16 = q.origin ∧ fld r.hdr 32 32 = q.reqId ∧ fld r.hdr 192 64 = q.secCounter)

/-- The held response goes back by the path of the repeated request (R314). -/
def repeatRsp (d : Dev) (q : Req) (r : Rsp) (s : State) : State :=
  deliverRsp d { r with src := q.src, peer := q.peer }
    (onAgent d (fun a => { a with duplicates := bump a.duplicates }) s)

/-- The second response to a write with APPLY_ACK (R322). -/
def appliedRsp (d : Dev) (q : Req) (index sub status : Nat) (s : State) : State :=
  if q.applyAck then deliverRsp d (mkRsp (agent s d) q index sub status true []) s else s

/-! ## Taking a request -/

/-- Counters of a request taken (R318, R324): ZDP_ACCEPTED, and SEC_COUNTER_LAST or ZDP_AUTH_FAILS. -/
def countTaken (d : Dev) (q : Req) (status : Nat) : State → State :=
  onAgent d fun a =>
    let a := { a with accepted := bump a.accepted }
    if q.src ≠ .window ∧ q.secure then
      if status = stAuth then { a with authFails := bump a.authFails }
      else if status = stFormat ∨ status = stVersion then a
      else { a with secLast := q.secCounter }
    else a

/-- A write that passes its checks waits in its list (R322). -/
def park (d : Dev) (q : Req) (op : WriteOp) (c : Commit) (s : State) : State :=
  let frc := counterOf s d
  match c with
  | .ledger h e i =>
    onAgent d (fun a => { a with heldLedger := a.heldLedger ++ [⟨h, e, bytesBv 256 op.bytes, i, q, frc⟩] }) s
  | .herd h =>
    onAgent d (fun a => { a with pending := a.pending ++ [⟨h, BitVec.ofNat 16 op.index, BitVec.ofNat 8 op.sub, op.bytes, q, frc, 0⟩] }) s
  | .die =>
    onAgent d (fun a => { a with pending := a.pending ++ [⟨64, BitVec.ofNat 16 op.index, BitVec.ofNat 8 op.sub, op.bytes, q, frc, 0⟩] }) s
  | _ =>
    onFjz (fun x => { x with heldWrites := x.heldWrites ++
      [⟨op.elem, BitVec.ofNat 16 op.index, BitVec.ofNat 8 op.sub, op.bytes, q, frc, op.second⟩] }) s

/-- A write to an object of access SEAL that is refused while the meter is sealed is logged (R281). -/
def logSealed (d : Dev) (access : Access) (st index sub : Nat) (s : State) : State :=
  if d = .tsu ∧ access = .sealed ∧ s.tsu.meter.isSealed ∧ (st = stWorld ∨ st = stSealed) then onTsu (logTamper 6 sub index) s
  else s

/-- A write served by the agent (R312, R314, R321). -/
def serveWrite (d : Dev) (q : Req) (op : WriteOp) (s : State) : State :=
  let q := asTaken q
  match findRsp (agent s d) q with
  | some r => repeatRsp d q r s
  | none =>
    let st := writeStatus s d q op
    let answer (st : Nat) (s : State) : State :=
      let r := mkRsp (agent s d) q op.index op.sub st false []
      deliverRsp d r (onAgent d (keepRsp r) s)
    let s := logSealed d op.access st op.index op.sub (countTaken d q st s)
    if st ≠ stOk then answer st (if (st = stState ∨ st = stRange) ∧ !underTest s d op.index then op.refuse s else s)
    else
      match op.cls s with
      | .now =>
        let st := op.result s
        answer st (op.apply s)
      | c =>
        if waits s c then answer stPending (park d q op c (op.accept s))
        else appliedRsp d q op.index op.sub stOk (answer stPending (op.apply (op.accept s)))

/-- A read served by the agent (R312, R319). A pop read is not idempotent (R314). -/
def serveRead (d : Dev) (q : Req) (op : ReadOp) (s : State) : State :=
  let q := asTaken q
  match (if op.pop then findRsp (agent s d) q else none) with
  | some r => repeatRsp d q r s
  | none =>
    let hdr := headerBits q op.index op.sub q.typ.toNat q.length.toNat 0 false
    let head := headStatus (agent s d) q 1 (decide (q.length = 0)) hdr []
    let st :=
      if head ≠ stOk then head
      else if !op.present s then stNoObject
      else if decide (d = .tsu) && !secureReq q && elemSecure s.tsu op.kind op.elem then stWorld
      else if underTest s d op.index then stState
      else stOk
    let s := countTaken d q st s
    let v := if st = stOk then op.value s else []
    let s := if st = stOk then op.effect s else s
    let r := mkRsp (agent s d) q op.index op.sub st false v
    deliverRsp d r (if op.pop then onAgent d (keepRsp r) s else s)

/-! ## Routing (R308) -/

/-- Where a request on the management network goes. -/
inductive Route where
  | here | tunnel (p : Nat) | nowhere
  deriving DecidableEq, Repr

/-- A leaf can tunnel on a child port that is UP with a dictionary interface. -/
def tunnelPort (s : State) (p : Nat) : Route :=
  if s.fjz.role = 1 ∧ p < 64 ∧ isUp s .fjz p ∧ fldN (port s .fjz p).negVer 48 16 ≠ 0 then .tunnel p else .nowhere

/-- Routing of a request. On a TSU every request is its own, but a tunnelled one whose TARGET is another die's was sent
with that ADDR (R309). -/
def route (s : State) (d : Dev) (q : Req) : Route :=
  let a := agent s d
  let own := decide (q.target = a.deviceId)
  match d with
  | .tsu => if q.src = .window ∨ own ∨ q.target = 0xFFFFFF ∨ q.byPort then .here else .nowhere
  | .fjz =>
    if (own || decide (q.target = 0xFFFFFF)) && !q.byPort then .here
    else if q.byPort && own then tunnelPort s q.port.toNat
    else
      match (List.range 64).find? fun p =>
        isUp s .fjz p && decide ((port s .fjz p).peerId.setWidth 24 = q.target ∧ (port s .fjz p).peerHello ≠ none) with
      | some p => tunnelPort s p
      | none => .nowhere

/-- A request passes into the tunnel of a child port unchanged (R306, R308): the chip remembers it for its first response,
and a write with APPLY_ACK for its second, 256 for each port. -/
def tunnelOn (p : Nat) (q : Req) (index sub : Nat) (v : Bytes) (s : State) : State :=
  let x := port s .fjz p
  onPort .fjz p (fun x =>
      { x with tunnels := x.tunnels ++ [(headerBits q index sub q.typ.toNat q.length.toNat 0 false, q.peer, counterOf s .fjz)],
               ackWait := if q.applyAck ∧ q.typ = 2 then pushRing 256 x.ackWait (q.reqId, q.origin, q.peer)
                          else x.ackWait })
    (sendMessage .fjz p tDictReq x.peerId.toNat (requestBytes q index sub v) s)

/-- The agent of a part can serve: a TSU's whenever the TSU acts, a Fjouz chip's once its firmware has loaded and its
management processor works (R348). -/
def agentUp (s : State) (d : Dev) : Bool :=
  match d with
  | .tsu => s.tsu.works
  | .fjz => s.fjz.rstN && s.fjz.firmware && s.fjz.mgmtOk

/-- A Fjouz chip receives ZDP on ZDP_UDP_PORT of every Ethernet port that ZDP_ENABLE enables (R307). -/
def zdpHeard (x : Fjz) (q : Req) : Bool := bitOf x.zdpEnable q.eth.toNat && decide (q.udp = x.zdpPort)

/-- The dictionary cells of a message of `n` octets have come on a port that is UP: each took a number of class P2 (R68, R309). -/
def countFragments (d : Dev) (p n : Nat) (s : State) : State :=
  if isUp s d p then onPort d p (fun x => { x with lseqRx := x.lseqRx.upd 0 2 (· + BitVec.ofNat 16 (cdiv n 48)) }) s else s

/-- The cells of a tunnelled request, on its port. -/
def tunnelCells (q : Req) (n : Nat) (s : State) : State :=
  match q.src with
  | .tunA => countFragments .tsu 0 (32 + n + (if q.secure then 16 else 0)) s
  | .tunB => countFragments .tsu 1 (32 + n + (if q.secure then 16 else 0)) s
  | _ => s

/-- A request reaches the agent of a part: it is routed, and served by `serve` if it is the part's own (R308). A version that the
dictionary interface of a child port does not carry is answered VERSION in place of the tunnel (R361). -/
def takeRequest (d : Dev) (q : Req) (index sub : Nat) (v : Bytes) (serve : State → State) (s : State) : State :=
  if !agentUp s d ∨ !sourceOf d q.src ∨ (q.src = .net ∧ !zdpHeard s.fjz q) then s
  else
    let s := tunnelCells q v.length s
    match route s d q with
    | .here => serve s
    | .tunnel p =>
      if 1 ≤ q.version.toNat ∧ q.version.toNat ≤ fldN (port s .fjz p).negVer 48 16 then tunnelOn p q index sub v s
      else deliverRsp .fjz (mkRsp (agent s .fjz) q index sub stVersion false []) (countTaken .fjz q stVersion s)
    | .nowhere =>
      match d with
      | .tsu => onAgent .tsu (fun a => { a with tunnelDiscards := bump a.tunnelDiscards }) s
      | .fjz => deliverRsp .fjz (mkRsp (agent s .fjz) q index sub stNoRoute false []) (countTaken .fjz q stNoRoute s)

/-- A write command of the table: the agent of part `d` takes the write of one object. -/
def agentWrite (d : Dev) (q : Req) (op : WriteOp) : State → State :=
  takeRequest d q op.index op.sub op.bytes (serveWrite d q op)

/-- A read command of the table. -/
def agentRead (d : Dev) (q : Req) (op : ReadOp) : State → State :=
  takeRequest d q op.index op.sub [] (serveRead d q op)

/-- A BOOL's value, if it is one (Table 0.5). -/
def boolOk (v : U8) : Bool := decide (v = 0 ∨ v = 1)

/-- A command that acts when 0x01 is written to its BOOL object. -/
def boolCommand (index sub : Nat) (access : Access) (v : U8) (f : State → State) : WriteOp :=
  { index := index, sub := sub, access := access, size := 1, bytes := [v], range := fun _ => boolOk v,
    apply := fun s => if v = 1 then f s else s }

end Sys2Proof.Machine
end

