-- ==== Sys2Proof/Machine/HerdOps.lean ====
section
/-! DEFINITION. Herd contexts (05_step_programs_pronk.md): the step descriptor and its gates, grid times, halting a
herd on a fault (R135, R251, R258), and the HALT body. -/

namespace Sys2Proof.Machine

/-! ## The step descriptor (Table 5.1) -/

abbrev Desc := BitVec 512

def dType (d : Desc) : Nat := fldN d 0 4
def dRebase (d : Desc) : Bool := bitOf d 4
def dRecord (d : Desc) : Bool := bitOf d 5
def dTineSrc (d : Desc) : Bool := bitOf d 6
def dNext (d : Desc) : Nat := fldN d 12 20
def dAlt (d : Desc) : Nat := fldN d 32 20
def dOffset (d : Desc) : Nat := fldN d 64 32
def dBody (d : Desc) : Nat := fldN d 96 24
def dAllow (d : Desc) : Nat := fldN d 128 16
def dEntry (d : Desc) : U16 := fld d 144 16
def dPeriod (d : Desc) : Nat := fldN d 160 32
def dMask (d : Desc) : BitVec 52 := fld d 192 52
def dGate (d : Desc) (k : Nat) : BitVec 48 := fld d (256 + 48 * k) 48
def dLedgerOp (d : Desc) : Nat := fldN d 448 3
def dGroup (d : Desc) : Nat := fldN d 451 4
def dAmount (d : Desc) : Nat := fldN d 455 8
def dSwap (d : Desc) : Nat := fldN d 464 4
def dPower (d : Desc) : Nat := fldN d 468 2
def dBanks (d : Desc) : BitVec 16 := fld d 470 16
def dHooks (d : Desc) : BitVec 4 := fld d 486 4
def dDone (d : Desc) : Nat := fldN d 490 16

/-- Types of Table 5.2. -/
def typeNop : Nat := 0
def typeLaunch : Nat := 1
def typeLoop : Nat := 2
def typeEnd : Nat := 3

/-! ## Gates (Table 5.3) -/

def gKind (g : BitVec 48) : Nat := fldN g 0 3
def gConsume (g : BitVec 48) : Bool := bitOf g 3
def gObj (g : BitVec 48) : Nat := fldN g 4 16
def gStride (g : BitVec 48) : Nat := fldN g 20 12
def gAdd (g : BitVec 48) : Nat := fldN g 32 16

/-- V of a gate before its modulus (R123). -/
def gValue (g : BitVec 48) (iter : Nat) : Nat := iter * gStride g + gAdd g

/-- Some gate of a descriptor is of a kind. -/
def hasGate (d : Desc) (kind : Nat) : Bool := (List.range 4).any fun k => gKind (dGate d k) = kind

/-- The descriptor of an index. -/
def Tsu.desc (t : Tsu) (i : Nat) : Desc := t.steps.get 0 i

/-- ITER[15:0] (Table 5.17). -/
def Herd.iter16 (x : Herd) : Nat := x.iter.toNat % 65536

/-- Object of a herd context (Table 5.17). -/
def herdObj (h : Nat) : U32 := objOf (0x5100 + h) 0

/-! ## HALT (Table 9.4) -/

def haltKind (c : Cell) : Nat := fldN c.body 0 3
def haltDown (c : Cell) : Bool := bitOf c.body 3
def haltTop (c : Cell) : Nat := fldN c.body 4 2
def haltHerd (c : Cell) : Id24 := fld c.body 8 24
def haltRun (c : Cell) : U8 := fld c.body 32 8
def haltSeqOf (c : Cell) : U16 := fld c.body 48 16
def haltHt (c : Cell) : HT := fld c.body 64 80
def haltCause (c : Cell) : U16 := fld c.body 144 16
def haltOrigin (c : Cell) : Id24 := fld c.body 160 24

/-- A HALT cell; ADDR is zero (R250). -/
def mkHalt (kind : Nat) (down : Bool) (top : Nat) (herd : Id24) (run : U8) (seq : U16) (h : HT) (cause : U16)
    (origin : Id24) : Cell :=
  mkCell tHalt 0 6 (pack 448 [(0, 3, kind), (3, 1, b2n down), (4, 2, top), (8, 24, herd.toNat), (32, 8, run.toNat),
    (48, 16, seq.toNat), (64, 80, h.toNat), (144, 16, cause.toNat), (160, 24, origin.toNat)])

/-- Sync ports of the die that are UP. -/
def upPorts (s : State) : List Nat := [0, 1].filter fun p => isUp s .tsu p

/-- A die originates a HALT on every UP port (R251): HALT_SEQ_LAST and HALTS_SENT move with it. TOP_LEVEL is TREE_SPAN
plus one, since levels count from the leaf. -/
def sendHalt (kind span : Nat) (herd : Id24) (run : U8) (h : HT) (cause : U16) (s : State) : State :=
  let seq := s.tsu.haltSeq + 1
  let s := onTsu (fun t => { t with haltSeq := seq, haltsSent := bump t.haltsSent }) s
  sendBoth (mkHalt kind false (span + 1) herd run seq h cause s.tsu.agent.deviceId) s

/-! ## Halting on a fault (R135) -/

/-- Hall time rounded up to a whole nanosecond. -/
def ceilNs (h : HT) : HT := htOfNs (cdiv h.toNat 65536)

/-- Of two halt times the earlier stands. -/
def earlier (a : Option HT) (b : HT) : HT :=
  match a with
  | some x => if x.toNat ≤ b.toNat then x else b
  | none => b

/-- HALT_LEAD_NS, at least 2,500 where fewer than two ports are UP or one plane is configured (R258). -/
def leadNs (s : State) (x : Herd) : Nat :=
  if (upPorts s).length < 2 ∨ s.tsu.tc.planeConfig ≠ 0 then max x.haltLead.toNat 2500 else x.haltLead.toNat

/-- The herd of a RUNNING context halts on a fault this die detected: H, the pass-through to it, and the HALT cell. A
context that has already raised such a fault raises none again. -/
def haltHerd' (h : Nat) (code : U16) (s : State) : State :=
  let x := s.tsu.herd h
  let t := earlier x.halt (ceilNs s.tsu.now + htOfNs (leadNs s x))
  let s := onHerd h (fun x => { x with halt := some t, selfFault := true }) s
  sendHalt 0 x.span.toNat (x.herdId.setWidth 24) (x.seqLast.setWidth 8) t code s

/-- A fault that halts a herd (R135): record and halt. In STRICT replay timer faults come from the recording only. -/
def faultHerd (h : Nat) (code : U16) (obj waiter : U32) (round detail : Nat) (s : State) : State :=
  let x := s.tsu.herd h
  if x.state ≠ .running ∨ x.selfFault then s
  else haltHerd' h code (raiseHerd h code true obj waiter round detail s)

/-! ## Membership of a step in a herd's range -/

/-- A step index inside the context's range (R119). -/
def Herd.owns (x : Herd) (i : Nat) : Bool := inRange i x.stepFirst.toNat x.stepCount.toNat

/-- Grid time of a descriptor (R124). -/
def Herd.gridOf (x : Herd) (d : Desc) : HT := x.base + htOfNs (dOffset d)

end Sys2Proof.Machine
end

