-- ==== Sys2Proof/Machine/SyncOps.lean ====
section
/-! DEFINITION. The sync engine's shared operations (06_sync_objects_watches.md): owners and values of objects, the
effect of one signal, ending a watch, the conditions of watches, and purging. -/

namespace Sys2Proof.Machine

def nCounters : Nat := 16384
def nEvents : Nat := 4096
def nWatches : Nat := 4096

def Tsu.counter (t : Tsu) (n : Nat) : CounterSt := t.counters.get {} n
def Tsu.event (t : Tsu) (n : Nat) : EventSt := t.events.get {} n
def Tsu.watch (t : Tsu) (n : Nat) : Watch := t.watches.get {} n

def onCounter (n : Nat) (f : CounterSt → CounterSt) (s : State) : State :=
  onTsu (fun t => { t with counters := t.counters.upd {} n f }) s
def onEvent (n : Nat) (f : EventSt → EventSt) (s : State) : State :=
  onTsu (fun t => { t with events := t.events.upd {} n f }) s
def onWatch (n : Nat) (f : Watch → Watch) (s : State) : State :=
  onTsu (fun t => { t with watches := t.watches.upd {} n f }) s

/-- The context that owns a counting object (kind 3) or an event (kind 4). -/
def Tsu.ownerOf (t : Tsu) (kind n : Nat) : Option Nat :=
  (t.herds.find? fun e => decide (e.2.state ≠ .free) && e.2.holds kind n).map (·.1)

def counterObj (n : Nat) : U32 := objOf 0x6080 n
def eventObj (n : Nat) : U32 := objOf 0x6090 n

/-- SRAM words corrected while a command reads (R226): they count in SRAM_CORRECTIONS and in the current second. -/
def countCorrected (e : Ecc) (s : State) : State :=
  if e.corrected = 0 then s
  else onTsu (fun t => { t with sramCorrections := satAdd t.sramCorrections e.corrected, secC := t.secC + e.corrected }) s

/-- A late arrival (input L of R226): a late step of TINE_SRC, TINE_NOT_SENT or LATE_AFTER_TIMEOUT. -/
def countLate (s : State) : State :=
  onTsu (fun t => { t with lateArrivals := satAdd t.lateArrivals 1, secL := t.secL + 1 }) s

/-! ## Watches (Table 6.2) -/

def Watch.cond (w : Watch) : Nat := fldN w.entry 0 3
def Watch.consume (w : Watch) : Bool := bitOf w.entry 3
def Watch.ctx (w : Watch) : Nat := fldN w.entry 8 6
def Watch.obj (w : Watch) : Nat := fldN w.entry 16 16
def Watch.cmp (w : Watch) : BitVec 48 := fld w.entry 32 48
def Watch.tag (w : Watch) : U16 := fld w.entry 80 16
def Watch.region (w : Watch) : Nat := fldN w.entry 96 6
def Watch.round (w : Watch) : Nat := fldN w.entry 208 16
def Watch.status (w : Watch) : Nat := fldN w.entry 224 3
def Watch.waiting (w : Watch) : Bool := decide (w.status = 1)

/-- Outcomes of Table 6.3. -/
def outSatisfied : BitVec 3 := 0
def outTimedOut : BitVec 3 := 1
def outCancelled : BitVec 3 := 2
def outFailed : BitVec 3 := 3
def outPurged : BitVec 3 := 4
def outRefused : BitVec 3 := 5

/-- Waiter of a record about a watch (R177). -/
def Watch.waiter (w : Watch) : U32 := BitVec.ofNat 32 (w.region * 65536 + w.tag.toNat)

/-- The object a watch names, as a record names it. -/
def Watch.object (w : Watch) : U32 := if w.cond = 3 then eventObj w.obj else counterObj w.obj

/-- Notification (Table 6.3). -/
def notification (outcome : BitVec 3) (tag : U16) (value : BitVec 48) (frc : Nat) : BitVec 192 :=
  pack 192 [(0, 3, outcome.toNat), (8, 16, tag.toNat), (32, 48, value.toNat), (80, 64, frc)]

/-- A watch ends on the present tick: STATUS of Table 6.2, and the notification that waits to be emitted (R169). -/
def endWatch (slot : Nat) (status : Nat) (outcome : BitVec 3) (value : BitVec 48) (s : State) : State :=
  onWatch slot (fun w => { w with entry := putN w.entry 224 3 status, outcome := some outcome, value := value,
                                  decidedAt := s.tsu.tc.frc.toNat }) s

/-- An event as a watch sees it: one that another consumer has claimed appears clear to a consuming watch (R163). -/
def eventSeen (w : Watch) (e : EventSt) : Bool := e.set && (!w.consume || !e.claimed)

/-- VALUE of a notification decided now (Table 6.3). -/
def watchValue (t : Tsu) (w : Watch) : BitVec 48 :=
  if w.cond = 3 then BitVec.ofNat 48 (b2n (eventSeen w (t.event w.obj))) else (t.counter w.obj).value

/-- The slots that hold a waiting watch, in ascending order. -/
def Tsu.waitingSlots (t : Tsu) : List Nat := (t.watches.filter fun e => e.2.waiting).map (·.1)

/-- Waiting watches of a context. -/
def Tsu.herdWatches (t : Tsu) (h : Nat) : Nat :=
  (t.watches.filter fun e => e.2.waiting && decide (e.2.ctx = h)).length

/-- Every waiting watch of a context is purged on this tick (R168). -/
def purgeHerd (h : Nat) (s : State) : State :=
  forAll (s.tsu.waitingSlots.filter fun i => decide ((s.tsu.watch i).ctx = h))
    (fun i s => endWatch i 6 outPurged (watchValue s.tsu (s.tsu.watch i)) s) s

/-- Every waiting watch on one object ends (R168, R177). -/
def endObjectWatches (isEvent : Bool) (n status : Nat) (outcome : BitVec 3) (s : State) : State :=
  forAll (s.tsu.waitingSlots.filter fun i =>
      let w := s.tsu.watch i
      decide ((w.cond = 3) = (isEvent = true) ∧ w.obj = n))
    (fun i s => endWatch i status outcome (watchValue s.tsu (s.tsu.watch i)) s) s

/-! ## Uncorrectable words (R177) -/

/-- SYNC_UNCORRECTABLE: the owning herd halts if it is RUNNING; HALTS says whether it does (R177, R247). -/
def syncFault (owner : Option Nat) (obj : U32) (s : State) : State :=
  match owner with
  | some h =>
    let x := s.tsu.herd h
    if x.state = .running then faultHerd h 0x0608 obj allOnes32 x.iter16 0 s else raiseHerd h 0x0608 false obj allOnes32 x.iter16 0 s
  | none => raise { code := 0x0608, herd := noHerd, object := obj, waiter := allOnes32 } s

/-- An uncorrectable counting object or event: record, watches on it purged, owning herd halted, never read again. -/
def syncUncorrectable (isEvent : Bool) (n : Nat) (s : State) : State :=
  let obj := if isEvent then eventObj n else counterObj n
  let s := endObjectWatches isEvent n 6 outPurged s
  let s := if isEvent then onEvent n (fun e => { e with bad := true }) s
    else onCounter n (fun c => { c with bad := true }) s
  syncFault (s.tsu.ownerOf (if isEvent then 4 else 3) n) obj s

/-- An uncorrectable watch entry: the watch ends PURGED and its herd halts; the entry of a free slot is no herd's. -/
def watchUncorrectable (slot : Nat) (s : State) : State :=
  let w := s.tsu.watch slot
  if w.waiting then syncFault (some w.ctx) (objOf 0x60A0 slot) (endWatch slot 6 outPurged 0 s)
  else syncFault none (objOf 0x60A0 slot) s

/-- The uncorrectable sync words that a command met (R177). -/
def syncFaults (e : Ecc) (s : State) : State :=
  forAll e.uncorrectable (fun w s =>
    match w with
    | .counter i => syncUncorrectable false i s
    | .event i => syncUncorrectable true i s
    | .watch i => watchUncorrectable i s
    | _ => s) s

/-! ## The effect of one signal (R159 to R164, R172) -/

/-- A signal that reaches a TIMED_OUT object (R172). -/
def lateSignal (h : Nat) (obj source : U32) (seen : Bool) (s : State) : State :=
  if seen then onTsu (fun t => { t with lateDiscards := satAdd t.lateDiscards 1 }) s
  else countLate (raiseHerd h 0x0602 false obj source (s.tsu.herd h).iter16 0 s)

/-- CTR_ADD or CTR_SETBIT reaches a counting object of context h. -/
def signalCounter (h n : Nat) (source : U32) (f : BitVec 48 → BitVec 48) (s : State) : State :=
  let c := s.tsu.counter n
  if c.bad then s
  else if c.timedOut then
    lateSignal h (counterObj n) source c.lateSeen (onCounter n (fun c => { c with lateSeen := true }) s)
  else onCounter n (fun c => { c with value := f c.value }) s

/-- EVENT_SET reaches an event of context h (R164). -/
def signalEvent (h n : Nat) (source : U32) (s : State) : State :=
  let e := s.tsu.event n
  if e.bad then s
  else if e.timedOut then
    lateSignal h (eventObj n) source e.lateSeen (onEvent n (fun e => { e with lateSeen := true }) s)
  else if !e.set then onEvent n (fun e => { e with set := true }) s
  else
    let s := onHerd h (fun x => { x with oversignals := bump x.oversignals })
      (onEvent n (fun e => { e with oversignal := true }) s)
    if e.oversignal then s
    else if (s.tsu.herd h).state = .running then
      faultHerd h 0x0603 (eventObj n) source (s.tsu.herd h).iter16 0 s
    else raiseHerd h 0x0603 false (eventObj n) source (s.tsu.herd h).iter16 0 s

/-! ## Conditions (Tables 5.3, 6.2) -/

/-- Value at or above: the difference modulo 2^48 is below 2^47. -/
def ctrGe (value v : BitVec 48) : Bool := decide ((value - v).toNat < 2 ^ 47)

/-- A watch's condition on the state at the end of phase 3. -/
def watchHolds (t : Tsu) (w : Watch) : Bool :=
  match w.cond with
  | 0 => !(t.counter w.obj).bad && ctrGe (t.counter w.obj).value w.cmp
  | 1 => !(t.counter w.obj).bad && decide ((t.counter w.obj).value = w.cmp)
  | 2 => !(t.counter w.obj).bad && (t.counter w.obj).value.getLsbD (fldN w.cmp 0 6)
  | 3 => !(t.event w.obj).bad && eventSeen w (t.event w.obj)
  | _ => false

/-- A consuming watch claims its event, to be cleared at the end of phase 6 (R163). -/
def claimForWatch (n : Nat) (s : State) : State :=
  onTsu (fun t => { t with clearing := t.clearing ++ [n] }) (onEvent n (fun e => { e with claimed := true }) s)

/-- The watches that ended in an earlier phase of this tick take VALUE as it stands at the end of phase 3 (Table 6.3). -/
def settleValues (s : State) : State :=
  let f := s.tsu.tc.frc.toNat
  let ended := s.tsu.watches.filter fun e => e.2.outcome.isSome && decide (e.2.decidedAt = f)
  forAll ended (fun e s => onWatch e.1 (fun w => { w with value := watchValue s.tsu w }) s) s

/-- Phase 4 for the watches: every waiting watch, in ascending slot (R163, R166). -/
def evalWatches (s : State) : State :=
  forAll s.tsu.waitingSlots (fun i s =>
    let w := s.tsu.watch i
    if watchHolds s.tsu w then
      let v := watchValue s.tsu w
      endWatch i 2 outSatisfied v (if w.cond = 3 ∧ w.consume then claimForWatch w.obj s else s)
    else s) s

/-- The events claimed by watches are cleared at the end of phase 6 (R163). -/
def clearClaimed (s : State) : State :=
  onTsu (fun t => { t with clearing := [] })
    (forAll s.tsu.clearing (fun n s => onEvent n (fun e => { e with set := false, claimed := false }) s) s)

/-- SYNC_RESET of a context, also at admission (R156, R172). -/
def syncReset (h : Nat) (s : State) : State :=
  let x := s.tsu.herd h
  let cs := s.tsu.counters.filter fun e => !inRange e.1 x.syncFirst x.syncCount
  let es := s.tsu.events.filter fun e => !inRange e.1 x.eventFirst x.eventCount
  onTsu (fun t => { t with counters := cs, events := es }) s

end Sys2Proof.Machine
end

