-- ==== Sys2Proof/Machine/MeterOps.lean ====
section
/-! DEFINITION. The sealed meter core's shared operations (10_meter_core.md): ledger entries as the meter reads them,
slots held twice and compared, takes, activation, signed records and their ring, and the tamper log. -/

namespace Sys2Proof.Machine

/-! ## Ledger entries (Table 5.6) -/

def lStream (e : BitVec 256) : U32 := fld e 0 32
def lTenant (e : BitVec 256) : Id24 := fld e 32 24
def lState (e : BitVec 256) : Nat := fldN e 56 4
def lPos (e : BitVec 256) : Nat := fldN e 64 24
def lLimit (e : BitVec 256) : Nat := fldN e 88 24
def lAdv (e : BitVec 256) : Nat := fldN e 112 8
def lEpoch (e : BitVec 256) : U16 := fld e 120 16
def lDeadline (e : BitVec 256) : Nat := fldN e 136 64
def lAccNs (e : BitVec 256) : Nat := fldN e 200 40
def lAccTok (e : BitVec 256) : Nat := fldN e 240 16

/-- States of an entry. -/
def lsFree : Nat := 0
def lsPending : Nat := 1
def lsBound : Nat := 2
def lsDraining : Nat := 3
def lsEnded : Nat := 4
def lsExpired : Nat := 5
def lsFaulted : Nat := 6

def lSetState (e : BitVec 256) (st : Nat) : BitVec 256 := putN e 56 4 st

/-- BOUND or DRAINING. -/
def lActive (e : BitVec 256) : Bool := decide (lState e = 2 ∨ lState e = 3)

def Tsu.entry (t : Tsu) (i : Nat) : BitVec 256 := t.ledger.get 0 i
/-- A ledger word is written, with new check bits (R154). -/
def setEntry (i : Nat) (e : BitVec 256) (s : State) : State :=
  onTsu (fun t => { t with ledger := t.ledger.set 0 i e, badLedger := t.badLedger.filter fun k => decide (k ≠ i) }) s

/-- The context that owns an entry (R139): one that is not FREE and was granted a group with it, else the lowest
FREE one whose written STREAM_GROUPS include it. -/
def Tsu.ledgerOwner (t : Tsu) (i : Nat) : Option Nat :=
  match t.herds.find? fun e => decide (e.2.state ≠ .free) && e.2.holds 2 i with
  | some e => some e.1
  | none => (t.herds.find? fun e => decide (e.2.state = .free) && e.2.holds 2 i).map (·.1)

/-- The group of an entry in its owner (R138). -/
def Tsu.groupOf (t : Tsu) (i : Nat) : Nat :=
  match t.ledgerOwner i with
  | some h => ((List.range 15).find? fun g => inRange i ((t.herd h).group g).1 ((t.herd h).group g).2).getD 0
  | none => 0

/-- The entry as it reads, GROUP included. -/
def Tsu.entryView (t : Tsu) (i : Nat) : BitVec 256 := putN (t.entry i) 60 4 (t.groupOf i)

/-! ## Meter slots (Table 10.2) and tenant slots (Table 10.3) -/

def mStream (w : BitVec 256) : U32 := fld w 0 32
def mTenant (w : BitVec 256) : Id24 := fld w 32 24
def mActive (w : BitVec 256) : Bool := bitOf w 56
def mDisputed (w : BitVec 256) : Bool := bitOf w 57
def mUnreadable (w : BitVec 256) : Bool := bitOf w 58
def mDegraded (w : BitVec 256) : Bool := bitOf w 59
def mPending (w : BitVec 256) : Bool := bitOf w 60
def mNs (w : BitVec 256) : Nat := fldN w 64 64
def mTok (w : BitVec 256) : Nat := fldN w 128 32
def mPart (w : BitVec 256) : Nat := fldN w 160 32
def mStart (w : BitVec 256) : Nat := fldN w 192 64

def Meter.slot (m : Meter) (i : Nat) : BitVec 256 := m.slotsA.get 0 i
/-- The lowest free tenant slot, if any of the 4,096 is free. -/
def Meter.freeTenant (m : Meter) : Option Nat :=
  if (m.tenantsA.filter fun e => tnValid e.2).length ≥ 4096 then none
  else (List.range 4096).find? fun i => !tnValid (m.tenant i)

/-- Both copies of the die counters move in step (R271). -/
def Meter.onDie (m : Meter) (f : DieCounters → DieCounters) : Meter := { m with dieA := f m.dieA, dieB := f m.dieB }

/-! ## Comparing the copies (R271) -/

/-- The herd that owns a slot's ledger entry, for a record. -/
def slotHerd (t : Tsu) (i : Nat) : Id24 :=
  match t.ledgerOwner i with
  | some h => if (t.herd h).state = .free then noHerd else (t.herd h).herdId.setWidth 24
  | none => noHerd

/-- An error record of the meter core, with SECURE set in every one (R283). -/
def raiseMeter (code : U16) (obj waiter : U32) (herd : Id24) (detail : Nat) (s : State) : State :=
  raise { code := code, object := obj, waiter := waiter, herd := herd, detail := BitVec.ofNat 16 detail } s

def slotObj (i : Nat) : U32 := objOf 0xA100 i

/-- Both copies of a slot decode but differ: the lower of each counter in both, DISPUTED. -/
def lowerSlot (a b : BitVec 256) : BitVec 256 :=
  putBit (putN (putN (putN a 64 64 (min (mNs a) (mNs b))) 128 32 (min (mTok a) (mTok b))) 160 32
    (min (mPart a) (mPart b))) 57 true

/-- The same of a tenant slot, which has no UNREADABLE. -/
def lowerTenant (a b : BitVec 256) : BitVec 256 :=
  putBit ([(32, 64), (96, 64), (160, 32), (192, 32)].foldl
    (fun w f => putN w f.1 f.2 (min (fldN a f.1 f.2) (fldN b f.1 f.2))) a) 25 true

/-- A word held in two copies: its object field, waiter and herd in the records of R283, what it reads in each copy, a write of each
copy, and what the two make where they differ or neither can be read (R271). -/
structure Copies (α : Type) where
  obj    : U32
  waiter : U32
  herd   : Id24
  a      : α
  b      : α
  setA   : α → Meter → Meter
  setB   : α → Meter → Meter
  lower  : α
  zero   : α

/-- The check of one word on an update or a read: what the codes say of copies A and B (R271). -/
def checkCopies {α : Type} [DecidableEq α] (badA badB : Bool) (w : Copies α) (s : State) : State :=
  let log (code detail : Nat) (s : State) : State := onTsu (logTamper code detail w.obj.toNat) s
  let both (v : α) (s : State) : State := onMeter (fun m => w.setB v (w.setA v m)) s
  if badA && badB then raiseMeter 0x0A03 w.obj w.waiter w.herd 0 (log 9 0 (both w.zero s))
  else if badA then log 8 0 (onMeter (w.setA w.b) s)
  else if badB then log 8 1 (onMeter (w.setB w.a) s)
  else if w.a ≠ w.b then raiseMeter 0x0A01 w.obj w.waiter w.herd 0 (log 7 0 (both w.lower s))
  else s

/-- Meter slot i. -/
def slotCopies (t : Tsu) (i : Nat) : Copies (BitVec 256) :=
  let a := t.meter.slotsA.get 0 i
  let b := t.meter.slotsB.get 0 i
  { obj := slotObj i, waiter := mStream a, herd := slotHerd t i, a := a, b := b, lower := lowerSlot a b,
    zero := putBit (putN (putN (putN a 64 64 0) 128 32 0) 160 32 0) 58 true,
    setA := fun v m => { m with slotsA := m.slotsA.set 0 i v }, setB := fun v m => { m with slotsB := m.slotsB.set 0 i v } }

/-- Tenant slot i. -/
def tenantCopies (t : Tsu) (i : Nat) : Copies (BitVec 256) :=
  let a := t.meter.tenantsA.get 0 i
  let b := t.meter.tenantsB.get 0 i
  { obj := objOf 0xA200 i, waiter := (tnId a).setWidth 32, herd := noHerd, a := a, b := b, lower := lowerTenant a b,
    zero := putN (putN (putN (putN a 32 64 0) 96 64 0) 160 32 0) 192 32 0,
    setA := fun v m => { m with tenantsA := m.tenantsA.set 0 i v }, setB := fun v m => { m with tenantsB := m.tenantsB.set 0 i v } }

/-- A die counter by its subindex (Table 10.10). -/
def DieCounters.read (d : DieCounters) (i : Nat) : U64 :=
  match i with
  | 1 => d.run
  | 2 => d.attributed
  | 3 => d.idle
  | 4 => d.tokens
  | 5 => d.ignored.setWidth 64
  | _ => 0

def DieCounters.write (i : Nat) (v : U64) (d : DieCounters) : DieCounters :=
  match i with
  | 1 => { d with run := v }
  | 2 => { d with attributed := v }
  | 3 => { d with idle := v }
  | 4 => { d with tokens := v }
  | 5 => { d with ignored := v.setWidth 32 }
  | _ => d

/-- Die counter i. -/
def dieCopies (t : Tsu) (i : Nat) : Copies U64 :=
  let a := t.meter.dieA.read i
  let b := t.meter.dieB.read i
  { obj := objOf 0xA400 0, waiter := allOnes32, herd := noHerd, a := a, b := b, lower := if b.toNat < a.toNat then b else a, zero := 0,
    setA := fun v m => { m with dieA := m.dieA.write i v }, setB := fun v m => { m with dieB := m.dieB.write i v } }

/-- The check of one meter slot. -/
def checkSlot (badA badB : Bool) (i : Nat) (s : State) : State := checkCopies badA badB (slotCopies s.tsu i) s

/-- What the check codes of a command's reads say of the meter slots, the tenant slots and the die counters. -/
def meterFaults (e : Ecc) (s : State) : State :=
  let bad (w : SramWord) : Bool := e.uncorrectable.contains w
  let named (f : SramWord → Option Nat) : List Nat := e.uncorrectable.filterMap f
  let s := forAll e.copyB (fun x s => onMeter (fun m => { m with slotsB := m.slotsB.set 0 x.1 x.2 }) s) s
  let s := forAll e.tenantB (fun x s => onMeter (fun m => { m with tenantsB := m.tenantsB.set 0 x.1 x.2 }) s) s
  let s := forAll e.dieB (fun x s => onMeter (fun m => { m with dieB := m.dieB.write x.1 x.2 }) s) s
  let slots := e.copyB.map (·.1) ++ named fun w => match w with | .meterA i => some i | .meterB i => some i | _ => none
  let tenants := e.tenantB.map (·.1) ++ named fun w => match w with | .tenantA i => some i | .tenantB i => some i | _ => none
  let dies := e.dieB.map (·.1) ++ named fun w => match w with | .dieA i => some i | .dieB i => some i | _ => none
  let s := forAll slots.eraseDups (fun i s => checkSlot (bad (.meterA i)) (bad (.meterB i)) i s) s
  let s := forAll tenants.eraseDups (fun i s => checkCopies (bad (.tenantA i)) (bad (.tenantB i)) (tenantCopies s.tsu i) s) s
  forAll dies.eraseDups (fun i s => checkCopies (bad (.dieA i)) (bad (.dieB i)) (dieCopies s.tsu i) s) s

/-! ## Takes and activation (R267 to R269) -/

/-- A step event in REPLAY_PINNED is ignored and counted (R269). -/
def ignored (t : Tsu) : Tsu :=
  let t := { t with meter := t.meter.onDie fun d => { d with ignored := satAdd d.ignored 1 } }
  if t.meter.replayLogged then t else logTamper 11 0 0 { t with meter := { t.meter with replayLogged := true } }

/-- A step event reaches the meter core, or is ignored in a replay. -/
def meterEvent (f : Tsu → Tsu) (t : Tsu) : Tsu := if t.tc.state = .replayPinned then ignored t else f t

/-- Activation of a slot (R268). -/
def activate (i : Nat) (stream : U32) (tenant : Id24) (ns : Nat) (t : Tsu) : Tsu :=
  let old := t.meter.slot i
  let w := pack 256 [(0, 32, stream.toNat), (32, 24, tenant.toNat), (56, 1, 1), (192, 64, ns)]
  let m := if mActive old then t.meter.onTenant (mTenant old) (fun x => putN x 192 32 (fldN x 192 32 - 1)) else t.meter
  let m := m.onTenant tenant (fun x => addFld x 192 32 1)
  { t with meter := { m.setSlot i w with lastPart := m.lastPart.erase i } }

/-- The meter's side of a take of entry i with its ledger word (R267 to R269). -/
def takeSlot (i : Nat) (e : BitVec 256) (ns : Nat) (t : Tsu) : Tsu :=
  let fresh := !mActive (t.meter.slot i)
  let t := if fresh then activate i (lStream e) (lTenant e) ns t else t
  let w := t.meter.slot i
  let wrong := fresh || decide (mStream w ≠ lStream e)
  let degraded := decide (t.tc.state = .holdover ∨ t.tc.state = .freeRun)
  let w := addFld (addFld w 64 64 (lAccNs e)) 128 32 (lAccTok e)
  let w := if wrong then putBit w 57 true else w
  let w := if degraded then putBit w 59 true else w
  let m := (t.meter.setSlot i w).onTenant (lTenant e) fun x => addFld (addFld x 32 64 (lAccNs e)) 96 64 (lAccTok e)
  let m := m.onDie fun d => { d with tokens := d.tokens + BitVec.ofNat 64 (lAccTok e) }
  let first := decide (t.tc.state ≠ .locked) && !m.degradedLogged
  let t := { t with meter := { m with degradedLogged := m.degradedLogged || first } }
  if first then
    logTamper 12 (match t.tc.state with
      | .unset => 0 | .acquire => 1 | .narrow => 2 | .calibrate => 3 | .locked => 4 | .holdover => 5 | .freeRun => 6
      | .replayPinned => 7) 0 t
  else t

/-- A take of an entry: the meter core reads the two accumulators, and the sequencer clears them (R262, R267). -/
def takeEntry (i : Nat) (s : State) : State :=
  let e := s.tsu.entry i
  if lState e = lsFree then s
  else setEntry i (putN (putN e 200 40 0) 240 16 0) (onTsu (meterEvent (takeSlot i e (nsOf s.tsu.now))) s)

/-- The meter's side of a take of an entry whose ledger word is uncorrectable: it adds nothing (R267). -/
def takeUnreadable (i : Nat) (t : Tsu) : Tsu :=
  { t with meter := t.meter.setSlot i (putBit (t.meter.slot i) 58 true) }

/-! ## Final records (R270, R277) -/

/-- The slot's own fields of a record, with the flags it carries. -/
def slotFlags (w : BitVec 256) : Nat := 2 * b2n (mDisputed w) + 4 * b2n (mUnreadable w) + 8 * b2n (mDegraded w)

def slotFields (w : BitVec 256) (endState : Nat) (herd : Id24) : List (Nat × Nat × Nat) :=
  [(256, 32, (mStream w).toNat), (288, 24, (mTenant w).toNat), (312, 8, endState), (320, 64, mNs w), (384, 64, mTok w),
    (448, 64, mStart w), (512, 32, mPart w), (576, 24, herd.toNat)]

/-- The final record of a released entry (R270, R277): its values are fixed on this tick, and it enters the ring if there
is room and no other final record waits. -/
def finalRecord (i endState : Nat) (herd : Id24) (t : Tsu) : Tsu :=
  let w := t.meter.slot i
  if !mActive w then t
  else
    let b := recordBody t 2 (slotFlags w) (nsOf t.now) (slotFields w endState herd)
    let m := { t.meter with seqNext := t.meter.seqNext + 1 }
    if decide (m.ring.length < ringCap) && m.finals.isEmpty then enterRing b { t with meter := clearSlot i m }
    else { t with meter := { m.setSlot i (putBit w 60 true) with finals := m.finals.set none i (some b) } }

end Sys2Proof.Machine
end

