-- ==== Sys2Proof/Machine/LedgerOps.lean ====
section
/-! DEFINITION. The stream ledger's shared operations (R137 to R141, R222, R264 to R268): passes over a group at 8 entries
per tick, opening and closing a group, the checks of a ledger write and its application. -/

namespace Sys2Proof.Machine

/-! ## One entry (Table 5.7) -/

/-- ADVANCE of one entry, as its pseudocode gives. -/
def advanceEntry (amount : Nat) (e : BitVec 256) : BitVec 256 :=
  let a := amount + lAdv e
  let e := putN e 112 8 0
  if lPos e + a ≤ lLimit e then
    putN (putN e 64 24 (lPos e + a)) 240 16 (min 0xFFFF (lAccTok e + a))
  else
    let tokens := lLimit e + 1 - lPos e
    putN (lSetState (putN e 64 24 (lLimit e)) lsEnded) 240 16 (min 0xFFFF (lAccTok e + tokens))

/-- One ledger operation on one entry of a context's group; `ns` is the integer hall time of its boundary. A stream that is bound
starts on the present tick (R268). -/
def ledgerOpOn (h op amount ns i : Nat) (s : State) : State :=
  let e := s.tsu.entry i
  let x := s.tsu.herd h
  match op with
  | 1 => if lActive e then setEntry i (advanceEntry amount e) s else s
  | 2 =>
    if lState e = lsPending then
      let e' := put (lSetState e lsBound) 120 16 x.liveEpoch
      onTsu (meterEvent (activate i (lStream e) (lTenant e) (nsOf s.tsu.now))) (setEntry i e' s)
    else s
  | 3 =>
    if lsEnded ≤ lState e then
      let s := takeEntry i s
      let s := onTsu (meterEvent (finalRecord i (lState e) (x.herdId.setWidth 24))) s
      setEntry i 0 s
    else s
  | 4 =>
    if lActive e ∧ lDeadline e ≠ 0 ∧ lDeadline e < ns then
      raiseHerd h 0x0507 false (objOf 0x5090 0) (BitVec.ofNat 32 i) x.iter16 0 (setEntry i (lSetState e lsExpired) s)
    else s
  | _ => s

/-- The accumulators of an entry have grown so far that it is taken without a hook (R266). -/
def autoDue (e : BitVec 256) : Bool := decide (0x8000 ≤ lAccTok e ∨ 2 ^ 39 ≤ lAccNs e)

/-- The automatic take of an entry (R266). -/
def autoTake (i : Nat) (s : State) : State := if autoDue (s.tsu.entry i) then takeEntry i s else s

/-- Group number of a pass over every group of a herd, which waits for the herd's other passes. -/
def allGroups : Nat := 15

/-- The groups of a herd as (first, count), in group order. -/
def Herd.groupList (x : Herd) : List (Nat × Nat) := (List.range 15).map x.group

/-- The entries of a herd's groups in ascending group and entry. -/
def Herd.groupEntries (x : Herd) : List Nat := x.groupList.flatMap fun g => (List.range g.2).map (g.1 + ·)

/-- A pass's effect on one entry, and whether it took one of the 8 places of its tick and added to `rank`: the entries that took a
share, or that the drain's end changed, before it. -/
def passEntry (p : LedgerOp) (rank i : Nat) (s : State) : State × Nat :=
  let e := s.tsu.entry i
  let x := s.tsu.herd p.ctx
  match p.act with
  | .ledger op amount => (ledgerOpOn p.ctx op amount p.ns i s, rank)
  | .share d who =>
    if who.contains i then
      let share := d / who.length + b2n (decide (rank < d % who.length))
      let e' := putN e 200 40 (min (2 ^ 40 - 1) (lAccNs e + share))
      let add (t : Tsu) : Tsu :=
        { t with meter := t.meter.onDie fun c => { c with attributed := c.attributed + BitVec.ofNat 64 share } }
      (setEntry i e' (onTsu (meterEvent add) s), rank + 1)
    else (s, rank)
  | .auto => (autoTake i s, rank)
  | .take => (takeEntry i s, rank)
  | .flip =>
    (if lState e = lsBound ∧ lEpoch e ≠ x.liveEpoch then setEntry i (lSetState e lsDraining) s else s, rank)
  | .drainEnd rebind =>
    if lState e = lsDraining then
      (setEntry i (if rebind then put (lSetState e lsBound) 120 16 x.liveEpoch else lSetState e lsExpired) s, rank + 1)
    else (s, rank)

/-- The record of an uncorrectable ledger word (R154): a RUNNING herd halts. -/
def ledgerFault (h i : Nat) (s : State) : State :=
  let x := s.tsu.herd h
  if x.state = .running then faultHerd h 0x0506 (objOf 0x5090 0) (BitVec.ofNat 32 i) x.iter16 0 s
  else raiseHerd h 0x0506 false (objOf 0x5090 0) (BitVec.ofNat 32 i) x.iter16 0 s

/-- An operation of a pass that takes the entry (R266, R267). -/
def GroupAct.takes : GroupAct → Bool
  | .take => true
  | .auto => true
  | .ledger op _ => decide (op = 3)
  | _ => false

/-- An entry whose ledger word is uncorrectable is never used (R154): the step faults, and a take marks the slot. -/
def passBad (p : LedgerOp) (i : Nat) (s : State) : State :=
  ledgerFault p.ctx i (if p.act.takes then onTsu (meterEvent (takeUnreadable i)) s else s)

/-- The ledger entry that a pass meets at position k. -/
def LedgerOp.entryAt (p : LedgerOp) (x : Herd) (k : Nat) : Nat := if p.group = allGroups then x.groupEntries.getD k 0 else k

/-- An automatic take passes over an entry that needs none without taking one of the 8 places of the tick. -/
def takesPlace (p : LedgerOp) (e : BitVec 256) : Bool :=
  match p.act with
  | .auto => autoDue e
  | _ => true

/-- The next entries of a pass on one tick: 8 (R141). -/
def passChunk : Nat → Nat → LedgerOp → State → State × LedgerOp
  | 0, _, p, s => (s, p)
  | fuel + 1, room, p, s =>
    if p.upto ≤ p.next then (s, p)
    else
      let i := p.entryAt (s.tsu.herd p.ctx) p.next
      let place := takesPlace p (s.tsu.entry i)
      if place && decide (room = 0) then (s, p)
      else
        let r := if s.tsu.badLedger.contains i then (passBad p i s, p.rank) else passEntry p p.rank i s
        passChunk fuel (if place then room - 1 else room) { p with next := p.next + 1, rank := r.2 } r.1

/-- The drain has ended (R239): its record gives the entries changed; OLD_MODEL_EPOCH and SWAP_STATE follow. -/
def drainEnded (p : LedgerOp) (s : State) : State :=
  let h := p.ctx
  let s := raiseHerd h 0x080D false (objOf (0x8100 + h) 0) (BitVec.ofNat 32 p.rank) (s.tsu.herd h).iter16 0 s
  onHerd h (fun x => { x with oldEpoch := 0xFFFF, swap := .idle }) s

/-- A pass ends: the next operation on its group begins on a later tick (R141). -/
def passEnded (p : LedgerOp) (s : State) : State :=
  let s := match p.act with
    | .drainEnd _ => drainEnded p s
    | _ => s
  onHerd p.ctx (fun x => { x with groupEnd := x.groupEnd.set 0 p.group (s.tsu.tc.frc.toNat + 1) }) s

/-- Entries of a herd's groups in a state. -/
def countState (t : Tsu) (x : Herd) (st : Nat) : Nat :=
  (t.ledger.filter fun e => decide (lState e.2 = st) && x.holds 2 e.1).length

/-- One visit of a pass of context h on the present tick, unless an earlier pass of its group still runs. -/
def visitPass (h : Nat) (p : LedgerOp) (r : State × List LedgerOp) : State × List LedgerOp :=
  let s := r.1
  let blocked := r.2.any fun q =>
    decide (q.ctx = p.ctx ∧ (q.group = p.group ∨ p.group = allGroups ∨ q.group = allGroups))
  if p.ctx ≠ h ∨ blocked ∨ p.tick = some s.tsu.tc.frc.toNat then (s, r.2 ++ [p])
  else
    let c := passChunk (p.upto - p.next) 8 p s
    let q := { c.2 with tick := some s.tsu.tc.frc.toNat }
    if q.upto ≤ q.next then (passEnded q c.1, r.2) else (c.1, r.2 ++ [q])

/-- Phase 7 of the present tick for every pass of context h in progress (R141). -/
def runPasses (h : Nat) (s : State) : State :=
  let r := s.tsu.ledgerOps.foldl (fun r p => visitPass h p r) (onTsu (fun t => { t with ledgerOps := [] }) s, [])
  onTsu (fun t => { t with ledgerOps := r.2 }) r.1

/-- A pass is begun, behind those already in progress. -/
def addPass (p : LedgerOp) (s : State) : State := onTsu (fun t => { t with ledgerOps := t.ledgerOps ++ [p] }) s

/-- A pass over one group is begun. -/
def beginPass (h g : Nat) (act : GroupAct) (ns : Nat) (s : State) : State :=
  let r := (s.tsu.herd h).group g
  addPass { ctx := h, group := g, act := act, next := r.1, upto := r.1 + r.2, ns := ns } s

/-- A pass over every group of a herd is begun. -/
def beginAll (h : Nat) (act : GroupAct) (ns : Nat) (s : State) : State :=
  addPass { ctx := h, group := allGroups, act := act, next := 0, upto := (s.tsu.herd h).groupEntries.length, ns := ns } s

/-- A ledger operation, CLOSE or TOKENS of an earlier boundary of this tick names a group. -/
def boundOn (t : Tsu) (h g : Nat) : Bool :=
  t.bounds.any fun b =>
    let d := t.desc b.step
    decide (b.ctx = h ∧ dGroup d = g) && b.acts && (decide (dLedgerOp d ≠ 0) || bitOf (dHooks d) 1 || bitOf (dHooks d) 2)

/-- The next ledger operation or LOOP test on a group may begin (R141). -/
def groupReady (t : Tsu) (h g : Nat) : Bool :=
  decide (g = 15) ||
    (!(t.ledgerOps.any fun p => decide (p.ctx = h ∧ (p.group = g ∨ p.group = allGroups))) && !boundOn t h g &&
      decide ((t.herd h).groupEnd.get 0 g ≤ t.tc.frc.toNat))

/-- A group holds an entry in BOUND or DRAINING (R137); an uncorrectable word is not read (R154). -/
def groupLives (t : Tsu) (h g : Nat) : Bool :=
  let r := (t.herd h).group g
  t.ledger.any fun e => inRange e.1 r.1 r.2 && lActive e.2 && !t.badLedger.contains e.1

/-- The first uncorrectable entry of a group. -/
def badInGroup (t : Tsu) (h g : Nat) : Option Nat :=
  let r := (t.herd h).group g
  t.badLedger.find? fun i => inRange i r.1 r.2

/-! ## Open marks (R264, R265) -/

/-- OPEN of a group: no effect on an open one. -/
def openGroup (h g ns : Nat) (s : State) : State :=
  if (s.tsu.herd h).openMarks.get none g ≠ none then s
  else onTsu (meterEvent id) (onHerd h (fun x => { x with openMarks := x.openMarks.set none g (some ns) }) s)

/-- The entries of a group that are BOUND or DRAINING, in ascending index. -/
def sharers (t : Tsu) (h g : Nat) : List Nat :=
  let r := (t.herd h).group g
  (t.ledger.filter fun e => inRange e.1 r.1 r.2 && lActive e.2 && !t.badLedger.contains e.1).map (·.1)

/-- CLOSE of a group: D is shared among the entries that were BOUND or DRAINING at the start `t0` of phase 7, or is idle time of the
die. -/
def closeGroup (t0 : Tsu) (h g ns : Nat) (s : State) : State :=
  match (s.tsu.herd h).openMarks.get none g with
  | none => s
  | some mark =>
    let d := ns - mark
    let who := sharers t0 h g
    let s := onHerd h (fun x => { x with openMarks := x.openMarks.set none g none }) s
    if who = [] then
      onTsu (meterEvent fun t => { t with meter := t.meter.onDie fun c => { c with idle := c.idle + BitVec.ofNat 64 d } }) s
    else beginPass h g (.share d who) ns s

/-- The passes of the automatic takes of a group, unless one stands already (R266). -/
def autoPass (h g ns : Nat) (s : State) : State :=
  if s.tsu.ledgerOps.getLast?.any fun p => decide (p.ctx = h ∧ p.group = g ∧ p.act = .auto ∧ p.tick = none) then s
  else beginPass h g .auto ns s

/-- Groups whose open interval has reached 2^38 ns are closed and opened again at a step boundary (R266). -/
def renewOpen (t0 : Tsu) (h ns : Nat) (s : State) : State :=
  forAll (List.range 15) (fun g s =>
    match (s.tsu.herd h).openMarks.get none g with
    | some mark => if 2 ^ 38 ≤ ns - mark then openGroup h g ns (autoPass h g ns (closeGroup t0 h g ns s)) else s
    | none => s) s

/-- The owning context leaves RUNNING (R266): open groups are closed with this tick's hall time and every entry taken. -/
def closeHerd (t0 : Tsu) (h : Nat) (s : State) : State :=
  let ns := nsOf s.tsu.now
  forAll (List.range 15) (fun g s =>
    if (s.tsu.herd h).group g = (0, 0) then s else beginPass h g .take ns (closeGroup t0 h g ns s)) s

/-- Every pass of a context is carried to its end at once. -/
def finishPasses (h : Nat) (s : State) : State :=
  let mine := s.tsu.ledgerOps.filter fun p => decide (p.ctx = h)
  let s := onTsu (fun t => { t with ledgerOps := t.ledgerOps.filter fun p => decide (p.ctx ≠ h) }) s
  forAll mine (fun p s =>
    let c := passChunk (p.upto - p.next) (p.upto - p.next) p s
    passEnded c.2 c.1) s

/-- UNLOAD of one entry (R266): taken, and given a final record with the ledger STATE at its release, or 0 where it was BOUND or
DRAINING (Table 10.5). What END_STATE holds where the ledger word cannot be read is left open (log 2). -/
def unloadEntry (herd : Id24) (h i : Nat) (s : State) : State :=
  let e := s.tsu.entry i
  if s.tsu.badLedger.contains i then
    setEntry i 0 (onTsu (meterEvent (finalRecord i (Config.unreadableEnd i).toNat herd))
      (ledgerFault h i (onTsu (meterEvent (takeUnreadable i)) s)))
  else if lState e = lsFree then s
  else
    setEntry i 0 (onTsu (meterEvent (finalRecord i (if lActive e then 0 else lState e) herd)) (takeEntry i s))

/-- UNLOAD (R266): every entry that is not FREE is taken and given a final record. -/
def unloadEntries (h : Nat) (s : State) : State :=
  let x := s.tsu.herd h
  forAll x.groupEntries (unloadEntry (x.herdId.setWidth 24) h) s

/-! ## Ledger writes (R139, R222) -/

/-- The first two cases of R139: a PENDING stream into a FREE entry without a waiting final record, and a change of a
PENDING entry; a word that cannot be read admits neither (R154). -/
def ingressOk (t : Tsu) (i : Nat) (old new : BitVec 256) : Bool :=
  !t.badLedger.contains i &&
  ((decide (lState old = lsFree) && !mPending (t.meter.slot i) && decide (lState new = lsPending)) ||
    (decide (lState old = lsPending) && decide (lState new = lsPending ∨ lState new = lsFree)))

/-- The states in which the owner admits any other write, and what R222 asks of BOUND and DRAINING. -/
def ownerOk (t : Tsu) (i : Nat) (new : BitVec 256) : Bool :=
  match t.ledgerOwner i with
  | some h =>
    let x := t.herd h
    match x.state with
    | .free => !lActive new
    | .loaded | .halted | .done => !(decide (lState new = lsDraining) && decide (x.oldEpoch = 0xFFFF))
    | _ => false
  | none => false

/-- The entry that a write leaves (R222): the read-only fields stand, EPOCH follows a BOUND or DRAINING state. -/
def writtenEntry (x : Herd) (old new : BitVec 256) : BitVec 256 :=
  let e := putN (putN (put new 200 56 (fld old 200 56)) 112 8 (lAdv old)) 60 4 0
  let epoch := if lState new = lsBound then x.liveEpoch else if lState new = lsDraining then x.oldEpoch else lEpoch old
  put e 120 16 epoch

/-- A tenant slot is allocated when an accepted write names a tenant without one (R272). -/
def allocTenant (id : Id24) (m : Meter) : Meter :=
  match m.tenantSlot id with
  | some _ => m
  | none =>
    match m.freeTenant with
    | some k => m.setTenant k (pack 256 [(0, 24, id.toNat), (24, 1, 1)])
    | none => m

/-- A ledger write is applied: entry, tenant slot, meter slot of a bound stream (R268), and its record. -/
def applyLedger (i : Nat) (new : BitVec 256) (s : State) : State :=
  let old := s.tsu.entry i
  let owner := s.tsu.ledgerOwner i
  let x := match owner with | some h => s.tsu.herd h | none => {}
  let e := writtenEntry x old new
  let s := setEntry i e s
  let s := if lActive e then onTsu (meterEvent (activate i (lStream e) (lTenant e) (nsOf s.tsu.now))) s else s
  let content := leBytes 2 i ++ bvBytes (s.tsu.entryView i)
  match owner with
  | some h => tapHerd 6 h content s
  | none => tap 6 (prefixNone s.tsu.now noHerd ++ content) s

/-- A held write at its boundary (R140): checked again against the first two cases of R139; discarded, with status STATE,
if the entry no longer admits it. -/
def applyHeld (w : HeldWrite) (s : State) : State :=
  if ingressOk s.tsu w.entry (s.tsu.entry w.entry) w.value then
    appliedRsp .tsu w.req 0x5090 2 stOk (applyLedger w.entry w.value s)
  else appliedRsp .tsu w.req 0x5090 2 stState s

/-- The held writes of a context that are due: those of an iteration, or all when it leaves its run (R140). -/
def applyHeldOf (h : Nat) (due : HeldWrite → Bool) (s : State) : State :=
  let ws := s.tsu.agent.heldLedger.filter fun w => decide (w.ctx = h) && due w
  forAll ws applyHeld (onAgent .tsu (fun a => { a with heldLedger := a.heldLedger.filter fun w => !(decide (w.ctx = h) && due w) }) s)

/-! ## FIRE_DIGEST (R291) -/

/-- CRC over the entries of the herd's groups that are neither FREE nor PENDING, in ascending index. -/
def fireDigest (t : Tsu) (x : Herd) : BitVec 64 :=
  (t.ledger.filter fun e => x.holds 2 e.1 && decide (lsBound ≤ lState e.2)).foldl
    (fun c e => crc64From c (bvBytes (t.entryView e.1))) 0

end Sys2Proof.Machine
end

