-- ==== Sys2Proof/Machine/RunOps.lean ====
section
/-! DEFINITION. What a herd context does outside its descriptors: weight swaps (R234, R236, R238, R240), pending writes at a
boundary (R322), and the ways a context leaves its run (R149, R168, R266, R54, R225). -/

namespace Sys2Proof.Machine

/-! ## SWAP_PLAN (Table 8.4) -/

def pNewEpoch (p : BitVec 256) : U16 := fld p 0 16
def pReadyCtr (p : BitVec 256) : Nat := fldN p 32 16
def pFailEvent (p : BitVec 256) : Nat := fldN p 48 16
def pChunks (p : BitVec 256) : Nat := fldN p 64 32
def pFetchLimit (p : BitVec 256) : Nat := fldN p 96 32
def pReadyDeadline (p : BitVec 256) : Nat := fldN p 128 64
def pDrainMs (p : BitVec 256) : Nat := fldN p 192 32
def pDrainPolicy (p : BitVec 256) : Bool := bitOf p 224
def pSeq (p : BitVec 256) : U16 := fld p 240 16

/-- Object of the swap records (Table 8.7). -/
def swapObj (h : Nat) : U32 := objOf (0x8100 + h) 0

/-- PLANNED to FAILED (Table 8.5). -/
def swapOpen (st : SwapState) : Bool :=
  decide (st = .planned ∨ st = .fetching ∨ st = .ready ∨ st = .refetching ∨ st = .failed)

/-- A plan takes effect (R234): in IDLE the context becomes PLANNED; of two that take effect on one tick the last stands (R18). -/
def takePlan (h : Nat) (plan : BitVec 256) (s : State) : State :=
  let x := s.tsu.herd h
  let f := s.tsu.tc.frc.toNat
  if x.swap = .idle ∨ (x.swap = .planned ∧ x.swapSince = f) then
    tapHerd 8 h (1 :: bvBytes plan)
      (onHerd h (fun x => { x with swapPlan := plan, swap := .planned, attempts := 0, refetchWait := false, swapSince := f }) s)
  else s

/-- A swap is aborted (R238): SWAP_STATE returns to IDLE, and both model epochs stand. -/
def abortSwap (h : Nat) (cause : U32) (s : State) : State :=
  raiseHerd h 0x080A false (swapObj h) cause (s.tsu.herd h).iter16 0
    (onHerd h (fun x => { x with swap := .idle, refetchWait := false }) s)

/-- A cancellation takes effect (R240). -/
def takeCancel (h : Nat) (s : State) : State :=
  let x := s.tsu.herd h
  if swapOpen x.swap then abortSwap h 3 (tapHerd 8 h (2 :: bvBytes x.swapPlan) s) else s

/-- The first region of the FETCH descriptor, as a record names it. -/
def fetchRegion (t : Tsu) (x : Herd) : U32 :=
  match regionsOf (dMask (t.desc x.fetchStep)) with
  | r :: _ => BitVec.ofNat 32 r
  | [] => allOnes32

/-- A fetch attempt has failed (Table 8.5): the first is repeated, the second ends in FAILED. -/
def fetchFailed (h : Nat) (s : State) : State :=
  let x := s.tsu.herd h
  let w := fetchRegion s.tsu x
  match x.swap with
  | .fetching =>
    let s := raiseHerd h 0x0808 false (swapObj h) w x.iter16 x.attempts.toNat s
    let s := onEvent (pFailEvent x.swapPlan) (fun e => { e with set := false, claimed := false }) s
    onHerd h (fun y => { y with swap := .refetching, refetchWait := true, attempts := 2,
                                swapBase := (s.tsu.counter (pReadyCtr x.swapPlan)).value.toNat }) s
  | .refetching =>
    onHerd h (fun y => { y with swap := .failed, refetchWait := false })
      (raiseHerd h 0x0809 false (swapObj h) w x.iter16 x.attempts.toNat s)
  | _ => s

/-- READY_CTR has reached its target. -/
def fetchReady (t : Tsu) (x : Herd) : Bool :=
  let c := t.counter (pReadyCtr x.swapPlan)
  !c.bad && decide (pChunks x.swapPlan ≤ (c.value - BitVec.ofNat 48 x.swapBase).toNat)

/-- FAIL_EVENT is set; the swap reads it without consuming it. -/
def fetchFault (t : Tsu) (x : Herd) : Bool :=
  let e := t.event (pFailEvent x.swapPlan)
  !e.bad && e.set

/-- Failure and readiness of one context's fetch in phase 4 (R236): failure wins. -/
def swapPhase4 (h : Nat) (s : State) : State :=
  let x := s.tsu.herd h
  if x.swap = .fetching ∨ x.swap = .refetching then
    if fetchFault s.tsu x then fetchFailed h s
    else if fetchReady s.tsu x then onHerd h (fun y => { y with swap := .ready, refetchWait := false }) s
    else s
  else s

/-! ## Pending writes (R322) -/

/-- One pending write of class H is applied. EXPEL has acted as the departure itself. -/
def applyPendingWrite (w : PendingWrite) (s : State) : State :=
  let h := w.ctx
  let s :=
    if w.index.toNat / 256 = 0x51 ∧ w.sub = 8 then onHerd h (fun x => { x with iterLimit := bytesBv 64 w.value }) s
    else if w.index.toNat / 256 = 0x81 ∧ w.sub = 4 then takePlan h (bytesBv 256 w.value) s
    else if w.index.toNat / 256 = 0x81 ∧ w.sub = 6 ∧ w.value = [1] then takeCancel h s
    else s
  appliedRsp .tsu w.req w.index.toNat w.sub.toNat stOk s

/-- A write of EXPEL waits for the context's next boundary. -/
def expelPending (t : Tsu) (h : Nat) : Bool :=
  t.agent.pending.any fun w => decide (w.ctx = h ∧ w.index.toNat = 0x8100 + h ∧ w.sub = 0x0D ∧ w.value = [1])

/-! ## Leaving a run -/

/-- A context leaves ARMED, COMMITTED or RUNNING for a state other than RUNNING: its watches are purged (R168). Its groups are closed
and its entries taken in phase 7 of this tick (R266), and its held and pending writes applied in phase 8 (R140, R322). -/
def endRun (h : Nat) (st : HerdState) (s : State) : State :=
  let running := decide ((s.tsu.herd h).state = .running)
  let s := if running then purgeHerd h s else s
  let s := onHerd h (fun x => { x with state := st, ahead := [], departing := none, haltLate := false }) s
  onTsu (fun t => { t with ended := t.ended ++ [(h, running)] }) s

/-- Causes of a departure. -/
def byHoldover : Nat := 1
def byExpulsion : Nat := 2
def byFreeRun : Nat := 3

/-- The context becomes LEFT (Table 5.11), with the records of R54 and R225. -/
def leaveHerd (h cause : Nat) (s : State) : State :=
  let x := s.tsu.herd h
  let s :=
    if cause = byExpulsion then s
    else
      raiseHerd h 0x0202 false (objOf 0x2200 0) (if cause = byFreeRun then 2 else 1) x.iter16
        (if cause = byFreeRun then 0 else s.tsu.tc.holdBound.toNat / 16) s
  let s := raiseHerd h 0x050D false (herdObj h) (if cause = byExpulsion then 2 else 1) x.iter16 0 s
  endRun h .left s

/-- The die leaves its herds (R54): ARMED and COMMITTED contexts at once, RUNNING ones at their next step boundary. -/
def departHerds (cause : Nat) (s : State) : State :=
  forAll s.tsu.held (fun h s =>
    match (s.tsu.herd h).state with
    | .armed => leaveHerd h cause s
    | .committed => leaveHerd h cause s
    | .running => onHerd h (fun x => { x with departing := some (x.departing.getD cause) }) s
    | _ => s) s

/-- The cause of a departure that is due at the next boundary. -/
def departureDue (t : Tsu) (h : Nat) : Option Nat :=
  match (t.herd h).departing with
  | some c => some c
  | none => if expelPending t h then some byExpulsion else none

/-- Origin of the last PRONK cell, as a record names it (Table 5.17). -/
def Herd.originWaiter (x : Herd) : U32 := if x.originId = noHerd then allOnes32 else x.originId.setWidth 32

/-- The start round has delivered (R148): 1 lets the run proceed, anything else abandons the start. -/
def startResult (h : Nat) (ok : Bool) (s : State) : State :=
  let x := s.tsu.herd h
  if x.state ≠ .running ∨ x.started then s
  else if ok then onHerd h (fun x => { x with started := true }) s
  else
    endRun h x.before (raiseHerd h 0x050C false (herdObj h) x.originWaiter x.seqLast.toNat 0 s)

end Sys2Proof.Machine
end

