-- ==== Sys2Proof/Machine/TineMath.lean ====
section
/-! DEFINITION. The arithmetic of the tines (R197 to R200): the operations of Table 7.7 on payloads, binary32 addition and
order, entry order, and the fixed binary tree over 64 slots. -/

namespace Sys2Proof.Machine

/-- A payload: byte 0 lowest. -/
abbrev Payload := BitVec 512

/-- Operations of Table 7.7. -/
def opSumI64 : Nat := 0
def opSumF32 : Nat := 1
def opMaxF32 : Nat := 2
def opMinF32 : Nat := 3
def opMaxI32 : Nat := 4
def opMinI32 : Nat := 5
def opMaxU64 : Nat := 6
def opMinU64 : Nat := 7
def opArgmax : Nat := 8
def opTop8 : Nat := 9
def opOr : Nat := 10
def opAnd : Nat := 11
def opXor : Nat := 12
def opCount : Nat := 13

/-- Element size in bytes, 0 for a reserved operation. -/
def elemSize (op : Nat) : Nat :=
  if op = 0 ∨ op = 6 ∨ op = 7 ∨ op = 8 ∨ op = 13 then 8
  else if op = 9 then 64
  else if op ≤ 5 then 4
  else if op ≤ 12 then 1
  else 0

/-- OP and LEN agree with Table 7.7. -/
def opLenOk (op len : Nat) : Bool :=
  decide (elemSize op ≠ 0 ∧ elemSize op ≤ len ∧ len ≤ 64) && decide (len % elemSize op = 0) &&
    (!decide (op = opCount) || decide (len = 8))

/-! ## binary32 (R199) -/

def nan32 : U32 := 0x7FC00000
def f32Exp (x : U32) : Nat := fldN x 23 8
def f32Man (x : U32) : Nat := fldN x 0 23
def f32Neg (x : U32) : Bool := bitOf x 31
def f32Nan (x : U32) : Bool := decide (f32Exp x = 255 ∧ f32Man x ≠ 0)
def f32Inf (x : U32) : Bool := decide (f32Exp x = 255 ∧ f32Man x = 0)

/-- A finite number times 2^149. -/
def f32Scaled (x : U32) : Int :=
  let m := if f32Exp x = 0 then f32Man x else (f32Man x + 2 ^ 23) * 2 ^ (f32Exp x - 1)
  if f32Neg x then -(m : Int) else m

/-- The magnitude bits nearest to n · 2^-149, ties to even; infinity past the range. -/
def f32Mag (n : Nat) : Nat :=
  if n < 2 ^ 24 then n
  else
    let sh := Nat.log2 n - 23
    let q := (rne n (2 ^ sh)).toNat
    let r := if q = 2 ^ 24 then (sh + 2) * 2 ^ 23 else (sh + 1) * 2 ^ 23 + (q - 2 ^ 23)
    min r (255 * 2 ^ 23)

/-- Addition under roundTiesToEven. -/
def f32Add (x y : U32) : U32 :=
  if f32Nan x ∨ f32Nan y then nan32
  else if f32Inf x then (if f32Inf y ∧ f32Neg x ≠ f32Neg y then nan32 else x)
  else if f32Inf y then y
  else
    let v := f32Scaled x + f32Scaled y
    let neg := if v = 0 then f32Neg x && f32Neg y else decide (v < 0)
    BitVec.ofNat 32 (f32Mag v.natAbs + b2n neg * 2 ^ 31)

/-- Order of numbers with −0 below +0. -/
def f32Key (x : U32) : Int :=
  let m := fldN x 0 31
  if f32Neg x then -(m : Int) - 1 else m

/-- Maximum or minimum: a NaN is passed over in favour of a number. -/
def f32Pick (max : Bool) (x y : U32) : U32 :=
  if f32Nan x then (if f32Nan y then nan32 else y)
  else if f32Nan y then x
  else if (decide (f32Key x < f32Key y)) = max then y else x

/-! ## Entry order (R200) -/

/-- An entry of ARGMAX_F32 or TOP8_MERGE: value in [31:0], index in [63:32]. -/
def eEmpty (x : BitVec 64) : Bool := decide (fld x 32 32 = (0xFFFFFFFF : U32))
def emptyEntry : BitVec 64 := 0xFFFFFFFFFF800000

/-- Order of values: a NaN below every number, −0 equal to +0. -/
def eKey (x : BitVec 64) : Int :=
  let v : U32 := fld x 0 32
  if f32Nan v then -(2 : Int) ^ 32 else
    let m := fldN v 0 31
    if f32Neg v then -(m : Int) else m

/-- x comes strictly before y. -/
def eBefore (x y : BitVec 64) : Bool :=
  if eEmpty x then false
  else if eEmpty y then true
  else decide (eKey y < eKey x) || (decide (eKey x = eKey y) && decide (fldN x 32 32 < fldN y 32 32))

/-- The first 8 non-empty entries in entry order, padded. -/
def top8 (xs : List (BitVec 64)) : List (BitVec 64) :=
  let ys := sortBy eBefore (xs.filter fun x => !eEmpty x)
  ((ys ++ List.replicate 8 emptyEntry).take 8)

/-! ## Lanes -/

/-- Lane i of w bits. -/
def lane (w : Nat) (p : Payload) (i : Nat) : BitVec w := p.extractLsb' (w * i) w

/-- A payload of lanes. -/
def ofLanes {w : Nat} (xs : List (BitVec w)) : Payload :=
  xs.foldr (fun x acc => (acc <<< w) ||| x.setWidth 512) 0

/-- Lane-wise combination over the first n lanes. -/
def lanes (w n : Nat) (f : BitVec w → BitVec w → BitVec w) (a b : Payload) : Payload :=
  ofLanes ((List.range n).map fun i => f (lane w a i) (lane w b i))

/-- The first LEN bytes of a payload. -/
def cutTo (len : Nat) (p : Payload) : Payload := p &&& BitVec.ofNat 512 (2 ^ (8 * len) - 1)

/-- Combination of two inputs (Table 7.7). -/
def combine (op len : Nat) (a b : Payload) : Payload :=
  match op with
  | 0 => lanes 64 (len / 8) (· + ·) a b
  | 1 => lanes 32 (len / 4) f32Add a b
  | 2 => lanes 32 (len / 4) (f32Pick true) a b
  | 3 => lanes 32 (len / 4) (f32Pick false) a b
  | 4 => lanes 32 (len / 4) (fun x y => if x.toInt < y.toInt then y else x) a b
  | 5 => lanes 32 (len / 4) (fun x y => if y.toInt < x.toInt then y else x) a b
  | 6 => lanes 64 (len / 8) (fun x y => if x.toNat < y.toNat then y else x) a b
  | 7 => lanes 64 (len / 8) (fun x y => if y.toNat < x.toNat then y else x) a b
  | 8 => lanes 64 (len / 8) (fun x y =>
      if eEmpty x && eEmpty y then emptyEntry else if eBefore y x then y else x) a b
  | 9 => ofLanes (top8 ((List.range 8).map (lane 64 a) ++ (List.range 8).map (lane 64 b)))
  | 10 => cutTo len (a ||| b)
  | 11 => cutTo len (a &&& b)
  | 12 => cutTo len (a ^^^ b)
  | 13 => lanes 32 2 (· + ·) a b
  | _ => 0

/-- A node of the tree: one empty input passes the other through. -/
def node (op len : Nat) : Option Payload → Option Payload → Option Payload
  | some a, some b => some (combine op len a b)
  | some a, none => some a
  | none, b => b

/-- One level of the tree, pairs in order. -/
def level (op len : Nat) : List (Option Payload) → List (Option Payload)
  | a :: b :: rest => node op len a b :: level op len rest
  | rest => rest

/-- Node (6, 0) over 64 slots (R198). -/
def combineTree (op len : Nat) (slots : List (Option Payload)) : Option Payload :=
  ((level op len (level op len (level op len (level op len (level op len (level op len slots)))))).head?).join

/-- A region's contribution as the TSU takes it in: TOP8_MERGE entries are sorted, COUNT gives its flag. -/
def takenIn (op len : Nat) (p : Payload) : Payload :=
  if op = opTop8 then ofLanes (top8 ((List.range 8).map (lane 64 p)))
  else if op = opCount then BitVec.ofNat 512 (b2n (bitOf p 0))
  else cutTo len p

/-- The value of a die's arrival from its regions' contributions (R197, R198). -/
def dieValue (op len : Nat) (contrib : List (Option Payload)) : Payload :=
  if op = opCount then
    pack 512 [(0, 32, b2n (contrib.any fun c => c.any fun p => bitOf p 0)), (32, 32, 1)]
  else (combineTree op len contrib).getD 0

end Sys2Proof.Machine
end

