-- ==== Sys2Proof/Machine/TineOps.lean ====
section
/-! DEFINITION. The die's side of the tines (07_tines_arithmetic.md): participations, the two rounds assembled, arrivals,
delivery of results, TINE gates, and moving to the other plane. -/

namespace Sys2Proof.Machine

/-! ## A participation (Table 7.1) -/

def ptOp (e : BitVec 256) : Nat := fldN e 0 4
def ptLen (e : BitVec 256) : Nat := fldN e 4 7
def ptStart (e : BitVec 256) : Bool := bitOf e 11
def ptTwin (e : BitVec 256) : Nat := fldN e 12 2
def ptContrib (e : BitVec 256) : BitVec 52 := fld e 32 52
def ptResult (e : BitVec 256) : BitVec 52 := fld e 84 52
def ptTargetKind (e : BitVec 256) : Nat := fldN e 136 2
def ptTargetObj (e : BitVec 256) : Nat := fldN e 140 16
def ptAbandon (e : BitVec 256) : Nat := fldN e 156 16
def ptTimeout (e : BitVec 256) : Nat := fldN e 172 32
def ptUp (e : BitVec 256) : Plane → Nat
  | .a => fldN e 204 13
  | .b => fldN e 217 13
def ptPath (e : BitVec 256) : Plane → Bool
  | .a => bitOf e 230
  | .b => bitOf e 231

/-- The context that declares a participation. -/
def Tsu.partCtx (t : Tsu) (n : Nat) : Option Nat := t.ownerOf 5 n

/-- The filled participations of a context, in ascending number. -/
def Tsu.partsOf (t : Tsu) (h : Nat) : List Nat :=
  (t.parts.filter fun e => (t.herd h).holds 5 e.1 && decide (e.2.entry ≠ 0)).map (·.1)

def partObj (n : Nat) : U32 := objOf 0x7080 n

/-- Failure causes (Table 7.5). -/
def fcTimeout : BitVec 3 := 1
def fcNotSent : BitVec 3 := 2
def fcOverrun : BitVec 3 := 3
def fcUncorrectable : BitVec 3 := 4
def fcFormat : BitVec 3 := 5
def fcIsolated : BitVec 3 := 6

/-- Round v has come at or before round r. -/
def roundReached (r v : U16) : Bool := decide ((r - v).toNat < 32768)

/-! ## Tine cells (Tables 7.3, 7.4) -/

def cKind (c : Cell) : BitVec 4 := fld c.body 0 4
def cOp (c : Cell) : Nat := fldN c.body 4 4
def cRound (c : Cell) : U16 := fld c.body 8 16
def cRun (c : Cell) : U8 := fld c.body 24 8
def cGen (c : Cell) : BitVec 4 := fld c.body 32 4
def cReplay (c : Cell) : Bool := bitOf c.body 36
def cLen (c : Cell) : Nat := fldN c.body 40 7
def cHerd (c : Cell) : Id24 := fld c.body 48 24
def cMembers (c : Cell) : Id24 := fld c.body 72 24
/-- Payload of an arrival or a result. -/
def cPayload (c : Cell) : Payload :=
  let lo := (c.body.extractLsb' 192 256).setWidth 512
  if c.pair then lo ||| ((c.cont.extractLsb' 0 256).setWidth 512 <<< (256 : Nat)) else lo

def aCause (c : Cell) : BitVec 3 := fld c.body 37 3
def aDeadline (c : Cell) : U64 := fld c.body 96 64
def aOrigin (c : Cell) : Id24 := fld c.body 160 24

def rGrant (c : Cell) : Bool := bitOf c.body 37
def rEchoed (c : Cell) : Bool := bitOf c.body 38
def rTarget (c : Cell) : Plane := if bitOf c.body 39 then .b else .a
def rCause (c : Cell) : BitVec 3 := fld c.body 96 3
def rOrigin (c : Cell) : Id24 := fld c.body 104 24

/-- KIND of an arrival and of a result. -/
def kArrival : BitVec 4 := 0
def kFailed : BitVec 4 := 1
def kResync : BitVec 4 := 2
def kMove : BitVec 4 := 3
def kResult : BitVec 4 := 0
def kResultMove : BitVec 4 := 2

/-- A tine cell: a pair where LEN exceeds 32 (R186). -/
def mkTine (typ addr len : Nat) (body : BitVec 448) (p : Payload) : Cell :=
  let b := body ||| ((p.extractLsb' 0 256).setWidth 448 <<< (192 : Nat))
  if 32 < len then mkPair typ addr b ((p.extractLsb' 256 256).setWidth 448)
  else mkCell typ addr (cdiv (24 + len) 4) b

/-- The fields that arrivals and results share. -/
def tineBody (kind : BitVec 4) (op : Nat) (round : U16) (run : U8) (gen : BitVec 4) (replay : Bool) (len : Nat)
    (herd members : Id24) (rest : List (Nat × Nat × Nat)) : BitVec 448 :=
  pack 448 ([(0, 4, kind.toNat), (4, 4, op), (8, 16, round.toNat), (24, 8, run.toNat), (32, 4, gen.toNat),
    (36, 1, b2n replay), (40, 7, len), (48, 24, herd.toNat), (72, 24, members.toNat)] ++ rest)

/-- A TINE_ARRIVAL (Table 7.3). -/
def mkArrival (addr : Nat) (kind : BitVec 4) (op : Nat) (round : U16) (run : U8) (gen : BitVec 4) (replay : Bool)
    (cause : BitVec 3) (len : Nat) (herd members : Id24) (deadline : U64) (origin : Id24) (p : Payload) : Cell :=
  mkTine tArrival addr len (tineBody kind op round run gen replay len herd members
    [(37, 3, cause.toNat), (96, 64, deadline.toNat), (160, 24, origin.toNat)]) p

/-- A TINE_RESULT (Table 7.4); GRANT is set. -/
def mkResult (addr : Nat) (kind : BitVec 4) (op : Nat) (round : U16) (run : U8) (gen : BitVec 4) (replay echoed : Bool)
    (target : Plane) (cause : BitVec 3) (len : Nat) (herd members : Id24) (origin : Id24) (p : Payload) : Cell :=
  mkTine tResult addr len (tineBody kind op round run gen replay len herd members
    [(37, 1, 1), (38, 1, b2n echoed), (39, 1, b2n (decide (target = .b))), (96, 3, cause.toNat), (104, 24, origin.toNat)]) p

/-! ## Comparison in a replay (R301) -/

def Tsu.startBnum (t : Tsu) : Nat := fldN t.replaySetup 128 40
def Tsu.sourceDie (t : Tsu) : Id24 := fld t.replaySetup 96 24

/-- A difference is found: the first is recorded and stored, each is counted. -/
def replayDiff (h : Nat) (obj : U32) (round : U16) (s : State) : State :=
  let t := s.tsu
  let first := decide (t.replayMismatches = 0)
  let s := onTsu (fun t => { t with replayMismatches := satAdd t.replayMismatches 1 }) s
  if first then
    onTsu (fun t => { t with firstDiff := pack 128 [(0, 64, (t.herd h).bnumNow), (64, 16, obj.toNat % 65536),
        (80, 16, round.toNat), (96, 16, obj.toNat / 65536)] })
      (raiseHerd h 0x0909 false obj (t.sourceDie.setWidth 32) round.toNat 0 s)
  else s

/-- The comparison has begun for a context. -/
def comparing (t : Tsu) (h : Nat) : Bool :=
  decide (t.tc.state = .replayPinned) && decide (t.startBnum ≤ (t.herd h).bnumNow)

/-- An own arrival or a recorded one is compared with its counterpart, or waits for it. -/
def compareArrival (own : Bool) (h : Nat) (a : U16 × U16 × U8 × U8 × U64) (s : State) : State :=
  if !comparing s.tsu h then s
  else
    let others := if own then s.tsu.recArrivals else s.tsu.ownArrivals
    match others.find? fun b => decide (b.1 = a.1 ∧ b.2.1 = a.2.1) with
    | some b =>
      let rest := others.erase b
      let s := onTsu (fun t => if own then { t with recArrivals := rest } else { t with ownArrivals := rest }) s
      if a = b then s else replayDiff h (partObj a.1.toNat) a.2.1 s
    | none =>
      onTsu (fun t => if own then { t with ownArrivals := t.ownArrivals ++ [a] }
                      else { t with recArrivals := t.recArrivals ++ [a] }) s

/-- A result record's content without its GRANT flag. -/
def withoutGrant (b : Bytes) : Bytes := b.modify 4 (· &&& 0xFE)

/-- An own result or a recorded one, as the content of its record (Table 11.4), is compared or waits. -/
def compareResult (own : Bool) (h : Nat) (content : Bytes) (s : State) : State :=
  if !comparing s.tsu h ∨ s.tsu.replayInject then s
  else
    let a := withoutGrant content
    let others := if own then s.tsu.recResults else s.tsu.ownResults
    match others.find? fun b => decide (b.take 4 = a.take 4) with
    | some b =>
      let rest := others.erase b
      let s := onTsu (fun t => if own then { t with recResults := rest } else { t with ownResults := rest }) s
      if a = b then s else replayDiff h (partObj (ofLe (a.take 2))) (bytesBv 16 ((a.drop 2).take 2)) s
    | none =>
      onTsu (fun t => if own then { t with ownResults := t.ownResults ++ [a] }
                      else { t with recResults := t.recResults ++ [a] }) s

/-! ## Sending arrivals (R182, R193, R206) -/

/-- Hall time in whole ns from now on. -/
def deadlineFrom (s : State) (ns : Nat) : U64 := BitVec.ofNat 64 (nsOf s.tsu.now + ns)

/-- The tine timeout of a participation: the start tine uses START_TIMEOUT_NS. -/
def partTimeout (x : Herd) (p : Part) : Nat :=
  if ptStart p.entry then x.startTimeout.toNat else ptTimeout p.entry

/-- The octets of a payload of a participation. -/
def payloadBytes (len : Nat) (p : Payload) : Bytes := leBytes len p.toNat

/-- A cell of a participation leaves on its active tine plane. A LEFT context sends no arrival (R225), and with TINES 1
arrivals go only to the comparison (R299). -/
def sendPart (n : Nat) (kind : BitVec 4) (round : U16) (replay first : Bool) (cause : BitVec 3) (members : Id24)
    (deadline : U64) (origin : Id24) (payload : Payload) (s : State) : State :=
  match s.tsu.partCtx n with
  | none => s
  | some h =>
    let x := s.tsu.herd h
    let p := s.tsu.part n
    let len := ptLen p.entry
    let row : U16 × U16 × U8 × U8 × U64 :=
      (BitVec.ofNat 16 n, round, kind.setWidth 8, BitVec.ofNat 8 len, crc64 (payloadBytes len payload))
    let c := mkArrival (ptUp p.entry p.plane) kind (ptOp p.entry) round p.run p.gen replay cause len
      (x.herdId.setWidth 24) members deadline origin payload
    if x.state = .left then s
    else
      let s := compareArrival true h row s
      if s.tsu.replayInject ∨ !isUp s .tsu (planePort p.plane) then s
      else
        let s := if first then sendFirst (planePort p.plane) c s else send .tsu (planePort p.plane) c s
        tapHerd 3 h (leBytes 2 n ++ bvBytes round ++ [kind.setWidth 8, BitVec.ofNat 8 len] ++
          bvBytes (crc64 (payloadBytes len payload))) s

/-- The window moves past round a + 1: regions that had not contributed to it owe one discarded contribution if the round
was marked sent under R194 or R204. -/
def shiftWindow (owed : Bool) (p : Part) : Part :=
  let missing := (regionsOf (ptContrib p.entry)).filter fun r => p.cur.contrib.get none r = none
  { p with a := p.a + 1, cur := p.nxt, nxt := {},
           skip := if owed then missing.foldl (fun t r => t.upd 0 r (· + 1)) p.skip else p.skip }

/-- Rounds marked sent ahead of the window are passed as it reaches them (R204). -/
def passSentAhead : Nat → Part → Part
  | 0, p => p
  | fuel + 1, p =>
    if p.sentAhead.contains (p.a + 1) then
      passSentAhead fuel (shiftWindow true { p with sentAhead := p.sentAhead.erase (p.a + 1) })
    else p

/-- The arrival of round a + 1 is queued and kept (R182, R192). -/
def queueArrival (n : Nat) (kind : BitVec 4) (cause : BitVec 3) (members : Id24) (deadline : U64) (payload : Payload)
    (s : State) : State :=
  let round := (s.tsu.part n).a + 1
  let s := onPart n (fun p =>
    let p := shiftWindow (decide (cause = fcNotSent)) p
    let p := { p with kept := p.kept ++ [⟨round, kind, cause, members, deadline, payload⟩],
                      activeAt := some s.tsu.tc.frc.toNat }
    passSentAhead p.sentAhead.length p) s
  sendPart n kind round false false cause members deadline s.tsu.agent.deviceId payload s

/-- Round a + 1 is sent as a FAILED arrival (R182, R194). -/
def failRound (n : Nat) (cause : BitVec 3) (s : State) : State :=
  match s.tsu.partCtx n with
  | some h => queueArrival n kFailed cause 0 (deadlineFrom s (partTimeout (s.tsu.herd h) (s.tsu.part n))) 0 s
  | none => s

/-- The step that made a contribution is complete (R182). -/
def stepComplete (x : Herd) (c : Contribution) : Bool :=
  !(x.steps.any fun r => decide (r.step = c.step ∧ r.fl = c.fl ∧ (r.left ≠ 0 ∨ r.dead = true)))

/-- Round a + 1 of a participation has every contribution, each from a complete step. -/
def roundComplete (t : Tsu) (x : Herd) (n : Nat) : Bool :=
  let p := t.part n
  let rs := regionsOf (ptContrib p.entry)
  !rs.isEmpty && rs.all fun r =>
    match p.cur.contrib.get none r with
    | some c => stepComplete x c
    | none => false

/-- The value of the die's arrival. -/
def assembled (p : Part) : Payload :=
  dieValue (ptOp p.entry) (ptLen p.entry)
    ((List.range 64).map fun r => (p.cur.contrib.get none r).map (·.payload))

/-- Complete rounds leave in round order. -/
def completeRounds : Nat → Nat → State → State
  | 0, _, s => s
  | fuel + 1, n, s =>
    match s.tsu.partCtx n with
    | none => s
    | some h =>
      if roundComplete s.tsu (s.tsu.herd h) n then
        completeRounds fuel n
          (queueArrival n kArrival 0 1 (deadlineFrom s (ptTimeout (s.tsu.part n).entry)) (assembled (s.tsu.part n)) s)
      else s

/-- The step of a region of a herd that runs now. -/
def runningStep (t : Tsu) (region h : Nat) : Nat × Nat :=
  match (t.region region).launched.find? fun l => decide (l.ctx = h) with
  | some l => (l.step, l.fl)
  | none => (0, 0)

/-- A record of the tines about a participation. -/
def raisePart (h n : Nat) (code : U16) (waiter : U32) (round : U16) (detail : Nat) (s : State) : State :=
  raiseHerd h code true (partObj n) waiter round.toNat detail s

/-- A contribution token (R182). -/
def contribute (region n : Nat) (payload : Payload) (s : State) : State :=
  let p := s.tsu.part n
  let mask := ptContrib p.entry
  let discard := onTsu (fun t => { t with contribDiscards := bump t.contribDiscards }) s
  match s.tsu.partCtx n with
  | none => discard
  | some h =>
    if ptStart p.entry ∨ !mask.getLsbD region then discard
    else if 0 < p.skip.get 0 region then onPart n (fun p => { p with skip := p.skip.upd 0 region (· - 1) }) s
    else
      let run := runningStep s.tsu region h
      let c : Contribution := ⟨takenIn (ptOp p.entry) (ptLen p.entry) payload, run.1, run.2⟩
      if p.cur.contrib.get none region = none then
        completeRounds 3 n (onPart n (fun p => { p with cur := { contrib := p.cur.contrib.set none region (some c) } }) s)
      else if p.nxt.contrib.get none region = none then
        onPart n (fun p => { p with nxt := { contrib := p.nxt.contrib.set none region (some c) } }) s
      else
        completeRounds 3 n
          (failRound n fcOverrun (raisePart h n 0x0701 (BitVec.ofNat 32 region) (p.a + 1) fcOverrun.toNat s))

/-- A step of a context completes: its die's arrivals are queued (R182). -/
def completeArrivals (h : Nat) (s : State) : State :=
  forAll (s.tsu.partsOf h) (fun n s => completeRounds 3 n s) s

/-! ## Delivery (R192) -/

/-- A result as it is delivered. -/
structure Delivery where
  failed  : Bool
  round   : U16
  members : Id24
  grant   : Bool
  echoed  : Bool
  cause   : BitVec 3
  origin  : Id24
  payload : Payload
  deriving DecidableEq, Repr

/-- Content of a TINE_RESULT record (Table 11.4). -/
def resultContent (n len : Nat) (r : Delivery) : Bytes :=
  leBytes 2 n ++ bvBytes r.round ++
    [BitVec.ofNat 8 (b2n r.grant + 2 * b2n r.failed + 4 * b2n r.echoed), r.cause.setWidth 8] ++
    leBytes 4 r.members.toNat ++ [BitVec.ofNat 8 len] ++ payloadBytes len r.payload

/-- The result target of a participation (R160, R168). -/
def applyTarget (h n : Nat) (failed : Bool) (s : State) : State :=
  let e := (s.tsu.part n).entry
  let obj := ptTargetObj e
  let source : U32 := BitVec.ofNat 32 (0x02000000 + n)
  match ptTargetKind e, failed with
  | 1, false => signalCounter h obj source (· + 1) s
  | 2, false => signalEvent h obj source s
  | 1, true => endObjectWatches false obj 5 outFailed s
  | 2, true => endObjectWatches true obj 5 outFailed s
  | _, _ => s

/-- Delivery of a result to a participation of a context. -/
def deliverResult (h n : Nat) (r : Delivery) (s : State) : State :=
  let e := (s.tsu.part n).entry
  let content := resultContent n (ptLen e) r
  let s := onPart n (fun p =>
    { p with d := r.round,
             last := some (if r.failed then kFailed else kResult, r.cause, r.origin, r.members, r.payload),
             activeAt := some s.tsu.tc.frc.toNat,
             kept := p.kept.filter fun k => !roundReached r.round k.round,
             results := if r.failed then p.results else ((r.round, r.members, r.payload) :: p.results).take 16,
             failed := p.failed || r.failed,
             failRound := if r.failed && !p.failed then r.round else p.failRound,
             failCause := if r.failed && !p.failed then r.cause else p.failCause }) s
  let s := forAll (regionsOf (ptResult e)) (fun g s =>
    toRegion g oResult (.result g n r.round r.members r.grant r.failed r.cause r.payload) s) s
  let s := compareResult true h content (tapHerd 2 h content s)
  let s := applyTarget h n r.failed s
  if ptStart e then startResult h (!r.failed && bitOf r.payload 0) s else s

/-- A TINE_RESULT cell's delivery, as it is. -/
def cellDelivery (c : Cell) : Delivery :=
  { failed := decide (cKind c = kFailed), round := cRound c, members := cMembers c, grant := rGrant c, echoed := rEchoed c,
    cause := rCause c, origin := rOrigin c, payload := cPayload c }

/-- A result cell released on a port is for this participation: its herd, plane and tag, and ROUND = d + 1 (R192). -/
def resultFits (t : Tsu) (p n : Nat) (c : Cell) : Bool :=
  let x := t.part n
  match t.partCtx n with
  | some h =>
    decide ((t.herd h).herdId.setWidth 24 = cHerd c) && decide (planePort x.plane = p) &&
      decide (cRun c = x.run ∧ cGen c = x.gen ∧ cRound c = x.d + 1)
  | none => false

/-! ## TINE gates (R123, R192) -/

/-- What a TINE gate for round v sees. -/
inductive GateView where
  | held | failed | waits
  deriving DecidableEq, Repr

def tineGate (p : Part) (v : U16) : GateView :=
  if p.failed && roundReached v p.failRound then .failed
  else if roundReached p.d v then .held
  else .waits

/-! ## Moving to the other plane (R205, R206) -/

/-- Arrivals and deliveries of the last 20,000 ns keep a participation in the move. -/
def recentlyActive (t : Tsu) (p : Part) : Bool :=
  match p.activeAt with
  | some f => decide (t.tc.frc.toNat ≤ f + 20000)
  | none => false

/-- RESYNC for round d of one participation, on the new plane (step 4 of R206). -/
def resyncPart (h n : Nat) (s : State) : State :=
  let p := s.tsu.part n
  match p.last with
  | some l =>
    if recentlyActive s.tsu p then
      let failed := decide (l.1 = kFailed)
      sendPart n kResync p.d false true (if failed then l.2.1 else 0) (if failed then 0 else l.2.2.2.1)
        (deadlineFrom s (partTimeout (s.tsu.herd h) p)) (if failed then l.2.2.1 else s.tsu.agent.deviceId)
        (if failed then 0 else l.2.2.2.2) s
    else s
  | none => s

/-- The kept arrivals of one participation, in round order (step 5 of R206). -/
def replayPart (n : Nat) (s : State) : State :=
  forAll (s.tsu.part n).kept (fun k s =>
    sendPart n k.kind k.round true true k.cause k.members k.deadline s.tsu.agent.deviceId k.payload s) s

/-- The die moves a herd to a plane in one tick: every RESYNC leaves before the replays. -/
def moveHerd (h : Nat) (plane : Plane) (s : State) : State :=
  let ns := s.tsu.partsOf h
  let s := forAll ns (fun n s => onPart n (fun p => { p with gen := p.gen + 1, plane := plane }) s) s
  forAll ns replayPart (forAll ns (resyncPart h) s)

/-- The active tine plane of a context, if it has participations. -/
def Tsu.tinePlane (t : Tsu) (h : Nat) : Option Plane := (t.partsOf h).head?.map fun n => (t.part n).plane

/-- The port of a plane has gone down: a context whose active tine plane it is moves itself, whatever the other port (R205), where both
planes are configured. -/
def moveOff (p h : Nat) (s : State) : State :=
  match s.tsu.tinePlane h with
  | some pl => if planePort pl = p ∧ s.tsu.tc.planeConfig = 0 then moveHerd h (otherPlane pl) s else s
  | none => s

/-- At a fire, a context whose active tine plane has lost its port moves itself if the other port is UP (R183). -/
def moveIfLost (h : Nat) (s : State) : State :=
  match s.tsu.tinePlane h with
  | some pl =>
    if !isUp s .tsu (planePort pl) && isUp s .tsu (planePort (otherPlane pl)) then moveHerd h (otherPlane pl) s else s
  | none => s

/-! ## Fire (R183, R148) -/

/-- A participation at a fire. -/
def firePart (seq : U32) (p : Part) : Part :=
  let r : U16 := seq.setWidth 16
  let first : U16 := if ptStart p.entry then r - 1 else 0xFFFF
  { p with a := first, d := first, run := seq.setWidth 8, gen := 0, failed := false, failRound := 0, failCause := 0,
           cur := {}, nxt := {}, skip := [], sentAhead := [], kept := [], results := [], last := none, activeAt := none }

/-- The die arrives at the start tine of the pronk with fire time `fire` (R148). -/
def startArrive (h : Nat) (fire : HT) (value : Bool) (s : State) : State :=
  let x := s.tsu.herd h
  let n := x.startTine
  queueArrival n kArrival 0 1 (BitVec.ofNat 64 (nsOf fire + x.startTimeout.toNat)) (BitVec.ofNat 512 (b2n value)) s

end Sys2Proof.Machine
end

