-- ==== Sys2Proof/Machine/RegionOps.lean ====
section
/-! DEFINITION. Regions as the step sequencer and the time core act on them: snapshots and stretch accounting (R45, R46), the
bias that a launch carries (R49), and bank power (R175). -/

namespace Sys2Proof.Machine

/-- TRIGGER of a snapshot (Table 2.3). -/
def trigPeriodic : Nat := 0
def trigLaunch : Nat := 1
def trigDone : Nat := 2
def trigRequest : Nat := 3
def trigFrequency : Nat := 4

/-- Stretch between two snapshots: max(0, ΔF − ⌈ΔC × T_nom⌉) ns (R46). -/
def stretchOf (f0 f1 : Nat) (c0 c1 : BitVec 48) (fs : Nat) : Nat :=
  (f1 - f0) - cdiv ((c1 - c0).toNat * fs) 1000000

/-- A snapshot of a region on the present tick. -/
def takeSnapshot (n trig : Nat) (rcc : BitVec 48) (s : State) : State :=
  let f := s.tsu.tc.frc.toNat
  onRegion n (fun r =>
    let add := if r.snapValid then stretchOf (fldN r.snap 0 64) f (fld r.snap 64 48) rcc r.nominalFs.toNat else 0
    { r with snap := pack 128 [(0, 64, f), (64, 48, rcc.toNat), (112, 8, r.snapMin.toNat),
                       (120, 4, min 15 r.snapStretches), (124, 4, trig)],
             stretchNs := bumpBy r.stretchNs add, snapMin := 0xFF, snapStretches := 0, snapValid := true }) s

/-- The bias reaches a region with its next launch token, or at once if the region is idle (R49). -/
def sendBias (n : Nat) (s : State) : State :=
  if (s.tsu.region n).bias = s.tsu.marginBias then s
  else emit (.bias n s.tsu.marginBias) (onRegion n (fun r => { r with bias := s.tsu.marginBias }) s)

/-- Every region of a mask has returned done for every launch made on it (R125). -/
def regionsIdle (t : Tsu) (mask : BitVec 52) : Bool := (regionsOf mask).all fun r => (t.region r).launched.isEmpty

/-! ## Bank power (Table 6.6) -/

def Region.bank (r : Region) (b : Nat) : BankState := r.banks.get .on b

def setBank (n b : Nat) (st : BankState) (s : State) : State :=
  onRegion n (fun r => { r with banks := r.banks.set .on b st }) s

/-- The tick of a bank's latest action is kept, counted from 1; the context is the one whose descriptor acted. -/
def stampBank (n b h : Nat) (s : State) : State :=
  onRegion n (fun r => { r with bankSince := r.bankSince.set 0 b (s.tsu.tc.frc.toNat + 1),
                                bankCtx := r.bankCtx.set 64 b h }) s

/-- An off action fences the bank; one that meets an on action of the same tick has no effect. -/
def bankOff (n h b : Nat) (s : State) : State :=
  let r := s.tsu.region n
  if r.bank b = .on ∧ r.bankSince.get 0 b ≠ s.tsu.tc.frc.toNat + 1 then
    emit (.bank n b false) (stampBank n b h (setBank n b .draining s))
  else s

/-- An on action lifts a fence, or powers the bank on and zeroes it. -/
def bankOn (n h b : Nat) (s : State) : State :=
  match (s.tsu.region n).bank b with
  | .on => stampBank n b h s
  | .draining => emit (.bank n b true) (stampBank n b h (setBank n b .on s))
  | .off => emit (.bank n b true) (stampBank n b h (setBank n b .waking s))
  | .waking => s

/-- POWER_OP of a descriptor: on its regions, over BANK_MASK. -/
def powerOp (h : Nat) (d : Desc) (s : State) : State :=
  let banks := (List.range 16).filter fun b => (dBanks d).getLsbD b
  let act := if dPower d = 1 then bankOn else bankOff
  if dPower d = 1 ∨ dPower d = 2 then
    forAll (regionsOf (dMask d)) (fun n s => forAll banks (fun b s => act n h b s) s) s
  else s

end Sys2Proof.Machine
end

