-- ==== Sys2Proof/Machine/StepOps.lean ====
section
/-! DEFINITION. The step sequencer's shared operations (R120 to R141): the descriptors looked at ahead, phase 4 of a tick, what is
due at a context's next descriptor, and the step boundary with its actions in the order of R128 and R264. -/

namespace Sys2Proof.Machine

/-! ## Looking ahead (R124 to R126) -/

/-- Launch modes (Table 5.4). -/
def modeFree : U8 := 0
def modeGated : U8 := 1
def modeSingle : U8 := 2

/-- FREE_GRID, unless a STRICT replay launches it as GATED (R299). -/
def freeGrid (t : Tsu) (x : Herd) : Bool := decide (x.mode = modeFree) && !t.replayStrict

/-- Descriptors the sequencer looks at ahead for one context at most (log 37). -/
def windowSize : Nat := 256

/-- The fire time of the STEP pronk that releases the k-th waiting descriptor (R136). -/
def releaseAt : List (HT × Nat) → Nat → Option HT
  | [], _ => none
  | (ht, n) :: rest, k => if k < n then some ht else releaseAt rest (k - n)

/-- The releases without the first descriptor of them. -/
def useRelease : List (HT × Nat) → List (HT × Nat)
  | [] => []
  | (ht, n) :: rest => if n ≤ 1 then rest else (ht, n - 1) :: rest

/-- Entries of a window that come before one on a way past the LOOPs. -/
def beforeOn (x : Herd) (path : List Bool) : Nat := (x.ahead.filter fun a => a.path.isPrefixOf path).length

/-- Descriptor `i` as it would enter the window, on BASE and ITER as they will stand there, with its grid time and gate timeout
converted or parked (R36, R124, R134); none while SINGLE_STEP has not released it. -/
def newAhead (t : Tsu) (x : Herd) (path : List Bool) (i iter : Nat) (base : HT) : Option Ahead :=
  let grid := if x.mode = modeSingle then releaseAt x.releases (beforeOn x path) else some (base + htOfNs (dOffset (t.desc i)))
  grid.map fun g =>
    { step := i, grid := g, base := base, iter := iter, path := path, gridTick := convert t.tc g,
      outTick := convert t.tc (g + htOfNs x.gateTimeout.toNat) }

/-- What follows a descriptor of the window: one descriptor, none after END, both ways past a LOOP (R122, R137). -/
def successors (t : Tsu) (x : Herd) (a : Ahead) : List (Option Ahead) :=
  let d := t.desc a.step
  let base := if dRebase d then a.base + htOfNs (dOffset d) else a.base
  if dType d = typeEnd then []
  else if dType d = typeLoop then
    [newAhead t x (a.path ++ [true]) (dNext d) (a.iter + 1) (if dRebase d then base else base + htOfNs (dPeriod d)),
      newAhead t x (a.path ++ [false]) (dAlt d) a.iter base]
  else [newAhead t x a.path (dNext d) a.iter base]

/-- The successors of entry k enter the window, once its gates are evaluated and they are released. -/
def growAt (t : Tsu) (x : Herd) (k : Nat) (a : Ahead) : Option (List Ahead) :=
  let ns := successors t x a
  if a.more && a.gridTick.any (fun g => decide (g ≤ t.tc.frc.toNat + 8)) && ns.all Option.isSome then
    some (x.ahead.set k { a with more := false } ++ ns.filterMap id)
  else none

/-- The window with the next descriptors to look at: the current one, or what follows one in it. -/
def growWindow (t : Tsu) (x : Herd) : Option (List Ahead) :=
  if x.badHead ∨ windowSize ≤ x.ahead.length then none
  else if x.ahead.isEmpty then (newAhead t x [] x.cur.toNat x.iter.toNat x.base).map ([·])
  else x.ahead.zipIdx.findSome? fun e => growAt t x e.2 e.1

/-- The window of a context is filled as far as it goes on this tick. -/
def fillAhead (h : Nat) : Nat → State → State
  | 0, s => s
  | fuel + 1, s =>
    match growWindow s.tsu (s.tsu.herd h) with
    | some as => fillAhead h fuel (onHerd h (fun x => { x with ahead := as }) s)
    | none => s

/-! ## Gates (R123, R125, R162, R163) -/

/-- An entry of a window has seen one of its consuming gates hold on an event. -/
def claims (t : Tsu) (a : Ahead) (n : Nat) : Bool :=
  (List.range 4).any fun k =>
    let g := dGate (t.desc a.step) k
    bitOf a.held k && gConsume g && decide (gKind g = 5 ∧ gObj g = n)

/-- Of two ways past the LOOPs at most one will be gone. -/
def diverge (p q : List Bool) : Bool := !p.isPrefixOf q && !q.isPrefixOf p

/-- An event is claimed by nothing that entry a could meet on its way: not at all, or only by descriptors on another way. -/
def claimFree (t : Tsu) (x : Herd) (a : Ahead) (n : Nat) : Bool :=
  !(t.event n).claimed ||
    ((x.ahead.any fun b => claims t b n) && x.ahead.all fun b => !claims t b n || diverge a.path b.path)

/-- A gate of a window entry holds on the values of this tick's end of phase 3. -/
def gateHolds (t : Tsu) (x : Herd) (a : Ahead) (g : BitVec 48) : Bool :=
  let v := gValue g a.iter
  let c := t.counter (gObj g)
  match gKind g with
  | 0 => true
  | 1 => decide (tineGate (t.part (gObj g)) (BitVec.ofNat 16 v) = .held)
  | 2 => !c.bad && ctrGe c.value (BitVec.ofNat 48 v)
  | 3 => !c.bad && decide (c.value = BitVec.ofNat 48 v)
  | 4 => !c.bad && c.value.getLsbD (gAdd g % 64)
  | 5 =>
    let e := t.event (gObj g)
    !e.bad && e.set && (!gConsume g || claimFree t x a (gObj g))
  | 6 => x.started
  | _ => false

/-- A TINE gate of a descriptor that sees a failed result: its number and round. -/
def failedGate (t : Tsu) (a : Ahead) : Option (Nat × U16) :=
  (List.range 4).findSome? fun k =>
    let g := dGate (t.desc a.step) k
    let v : U16 := BitVec.ofNat 16 (gValue g a.iter)
    if gKind g = 1 ∧ !bitOf a.held k ∧ tineGate (t.part (gObj g)) v = .failed then some (k, v) else none

/-- The gates of a window entry are evaluated on this tick: from F_G − 8, not after a fault of this die, and not for a
descriptor at or after H (R126, R135); in FREE_GRID on one tick only (Table 5.4). -/
def evaluates (t : Tsu) (x : Herd) (a : Ahead) : Bool :=
  match a.gridTick with
  | some g =>
    decide (g ≤ t.tc.frc.toNat + 8) && !x.selfFault && !x.stoppedNow &&
      (match x.halt with
        | some hh => decide (a.grid.toNat < hh.toNat)
        | none => true) &&
      (!freeGrid t x || decide (a.since = none))
  | none => false

/-- Change one entry of a window. -/
def onAhead (h i : Nat) (f : Ahead → Ahead) (s : State) : State :=
  onHerd h (fun x => { x with ahead := x.ahead.modify i f }) s

/-- Gate k of a window entry: once seen to hold it counts as held, and a consuming one claims its event. -/
def evalGate (h i k : Nat) (s : State) : State :=
  let x := s.tsu.herd h
  match x.ahead[i]? with
  | none => s
  | some a =>
    let g := dGate (s.tsu.desc a.step) k
    if bitOf a.held k then s
    else if gateHolds s.tsu x a g then
      let s := onAhead h i (fun a => { a with held := putBit a.held k true }) s
      if gKind g = 5 ∧ gConsume g then onEvent (gObj g) (fun e => { e with claimed := true }) s else s
    else s

/-- A descriptor launches its regions: a LAUNCH does, but a FETCH only in PLANNED (R236). -/
def launches (x : Herd) (d : Desc) : Bool := decide (dType d = typeLaunch) && decide (dSwap d ≠ 1 ∨ x.swap = .planned)

/-- The implicit region gate (R125). -/
def regionGate (t : Tsu) (x : Herd) (d : Desc) : Bool := !launches x d || regionsIdle t (dMask d)

/-- F_g of a window entry: the first tick on which the whole gate set holds; found again when a region was taken. -/
def findFg (t : Tsu) (x : Herd) (a : Ahead) : Ahead :=
  if a.held = 15#4 ∧ regionGate t x (t.desc a.step) then { a with fg := some (a.fg.getD t.tc.frc.toNat) }
  else { a with fg := none }

/-- Phase 4 of one window entry. -/
def evalAhead (h i : Nat) (s : State) : State :=
  match (s.tsu.herd h).ahead[i]? with
  | none => s
  | some a =>
    let s :=
      if evaluates s.tsu (s.tsu.herd h) a then
        forAll (List.range 4) (fun k s => evalGate h i k s)
          (onAhead h i (fun a => { a with since := some (a.since.getD s.tsu.now) }) s)
      else s
    onAhead h i (fun a => if a.since = none then a else findFg s.tsu (s.tsu.herd h) a) s

/-- The head of a window sees a failed TINE result: every member halts at this descriptor (R135). -/
def haltAtFailedGate (h : Nat) (s : State) : State :=
  let x := s.tsu.herd h
  match x.ahead.head? with
  | none => s
  | some a =>
    if a.since = none ∨ x.selfFault then s
    else
      match failedGate s.tsu a with
      | none => s
      | some (k, v) =>
        let part := s.tsu.part (gObj (dGate (s.tsu.desc a.step) k))
        let s := raiseHerd h 0x0504 true (herdObj h) (BitVec.ofNat 32 a.step) v.toNat part.failCause.toNat s
        endRun h .halted (onHerd h (fun x => { x with haltPoint := a.grid }) s)

/-- Phase 4 of one context. -/
def herdPhase4 (h : Nat) (s : State) : State :=
  if (s.tsu.herd h).state ≠ .running then s
  else
    let s := fillAhead h (2 * windowSize) s
    let s := forAll (List.range (s.tsu.herd h).ahead.length) (fun i s => evalAhead h i s) s
    haltAtFailedGate h s

/-- Phase 4 of the present tick, once: gates in ascending context and link order, then watches, then fetches (R128, R163,
R236). -/
def phase4 (s : State) : State :=
  if s.tsu.gatesAt = some s.tsu.tc.frc.toNat then s
  else
    let s := settleValues (onTsu (fun t => { t with gatesAt := some t.tc.frc.toNat }) s)
    let s := forAll s.tsu.held (fun h s => herdPhase4 h s) s
    enterErrs (forAll s.tsu.held (fun h s => swapPhase4 h s) (evalWatches s))

/-! ## What is due (R126, R135, R141, R257) -/

/-- What happens at a context's next descriptor on this tick. -/
inductive Due where
  | nothing | halted | silent | leaves (cause : Nat) | go
  deriving DecidableEq, Repr

/-- Descriptors of a context launched or passed on the present tick (R127). -/
def onThisTick (t : Tsu) (x : Herd) : Nat := if x.lastFl = t.tc.frc.toNat then x.sameTick else 0

/-- A STRICT replay holds a descriptor until the head of the feed names a later one, or REPLAY_END has been written (R298). -/
def replayHolds (t : Tsu) (x : Herd) : Bool :=
  t.replayStrict && !t.feedEnd &&
    match t.feed with
    | [] => true
    | r :: _ => decide (ofLe ((r.data.drop 14).take 5) ≤ x.bnum + onThisTick t x)

/-- The sequencer issues meter hook k of a descriptor: SINGLE_STEP issues no OPEN and no CLOSE (R357). -/
def issuesHook (x : Herd) (d : Desc) (k : Nat) : Bool :=
  bitOf (dHooks d) k && decide (dGroup d ≠ 15) && (decide (k = 2) || decide (x.mode ≠ modeSingle))

/-- The ledger operation or LOOP test of a descriptor may begin (R141). -/
def ledgerReady (t : Tsu) (h : Nat) (d : Desc) : Bool :=
  !(decide (dLedgerOp d ≠ 0 ∨ dType d = typeLoop) || issuesHook (t.herd h) d 1 || issuesHook (t.herd h) d 2) ||
    groupReady t h (dGroup d)

/-- At most four descriptors of a herd on one tick (R127). -/
def tickRoom (t : Tsu) (x : Herd) : Bool := decide (onThisTick t x < 4)

/-- The gates and the ledger let the head go on this tick. -/
def headReady (t : Tsu) (h : Nat) (a : Ahead) : Bool :=
  let x := t.herd h
  let d := t.desc a.step
  (if freeGrid t x then decide (a.held = 15#4)
   else match a.fg with
     | some f => decide (f + 8 ≤ t.tc.frc.toNat)
     | none => false) &&
    regionGate t x d && ledgerReady t h d && tickRoom t x && !replayHolds t x

/-- Regions that the head of a context's window launches on this tick, unless another context takes one of them. -/
def wantedBy (t : Tsu) (h : Nat) : BitVec 52 :=
  let x := t.herd h
  match x.ahead.head? with
  | none => 0
  | some a =>
    let d := t.desc a.step
    if x.state = .running ∧ !x.stoppedNow ∧ !x.haltLate ∧ !x.selfFault ∧ (departureDue t h).isNone ∧ reached t.tc a.gridTick ∧
        !(x.halt.any fun hh => decide (hh.toNat ≤ a.grid.toNat)) ∧ launches x d ∧ headReady t h a then dMask d
    else 0

/-- Regions that contexts of lower index launch on this tick: they go before context h (R127). -/
def takenBelow (t : Tsu) (h : Nat) : BitVec 52 :=
  (t.held.filter fun k => decide (k < h)).foldl (fun m k => if wantedBy t k &&& m = 0 then m ||| wantedBy t k else m) 0

/-- What is due at the head of a context's window. A descriptor whose word cannot be read is not passed: its context enters HALTED on
the tick of H (R154; log 37). -/
def due (t : Tsu) (h : Nat) : Due :=
  let x := t.herd h
  match x.ahead.head? with
  | none => .nothing
  | some a =>
    if x.state ≠ .running ∨ !reached t.tc a.gridTick then .nothing
    else if x.badHead then (if x.halt.any fun hh => decide (hh.toNat ≤ t.now.toNat) then .halted else .nothing)
    else if x.stoppedNow ∨ x.haltLate ∨ x.halt.any (fun hh => decide (hh.toNat ≤ a.grid.toNat)) then .halted
    else if x.selfFault then
      (if tickRoom t x && !replayHolds t x then (match departureDue t h with | some c => .leaves c | none => .silent) else .nothing)
    else if headReady t h a && decide (wantedBy t h &&& takenBelow t h = 0) then
      (match departureDue t h with | some c => .leaves c | none => .go)
    else .nothing

/-- The context enters HALTED (Table 5.11): HALT_POINT is H, or the descriptor's grid time after a late HALT (R257). -/
def enterHalted (h : Nat) (s : State) : State :=
  let x := s.tsu.herd h
  let grid := match x.ahead.head? with
    | some a => a.grid
    | none => 0
  let s := onHerd h (fun y => { y with haltPoint := if x.haltLate then grid else x.halt.getD grid }) s
  endRun h .halted s

/-! ## The boundary -/

/-- The descriptor leaves the window: it counts as launched or passed on this tick (R127, R257). -/
def countBoundary (h : Nat) (a : Ahead) (s : State) : State :=
  let f := s.tsu.tc.frc.toNat
  let s := onHerd h (fun x =>
    { x with ahead := x.ahead.tail, sameTick := if x.lastFl = f then x.sameTick + 1 else 1, lastFl := f,
             lastGrid := some (match x.lastGrid with | some g => if g.toNat ≤ a.grid.toNat then a.grid else g | none => a.grid),
             releases := if x.mode = modeSingle then useRelease x.releases else x.releases }) s
  if s.tsu.tc.state = .replayPinned then
    onTsu (fun t => { t with replayBnum := t.replayBnum + 1, replayAt := f, replayStalled := false }) s
  else s

/-- STEP_EVENT record of a descriptor with RECORD set (Table 11.4). -/
def stepEvent (h : Nat) (a : Ahead) (d : Desc) (s : State) : State :=
  if dRecord d then
    let f := s.tsu.tc.frc.toNat
    let g := a.gridTick.getD f
    tapHerd 12 h (leBytes 8 g ++ leBytes 8 f ++ leBytes 4 (min (f - g) 0xFFFFFFFF)) s
  else s

/-- An entry of FORCED_STRETCH (Table 11.8). -/
def forcedEntry (t : Tsu) (i : Nat) : BitVec 192 := fld t.forcedStretch (192 * i) 192

/-- The forced stretches that a launch of a step on a region meets (R303). -/
def forcedOn (t : Tsu) (region step iter : Nat) : List (BitVec 192) :=
  ((List.range 16).map (forcedEntry t)).filter fun e =>
    bitOf e 6 && decide (fldN e 0 6 = region ∧ fldN e 8 20 = step ∧ fldN e 32 48 ≤ iter) &&
      decide (fldN e 80 16 = 0xFFFF ∨ iter < fldN e 32 48 + fldN e 80 16)

/-- A launch token reaches one region (R129), with its snapshot (R45), bias (R49) and forced stretches. -/
def launchRegion (h step : Nat) (entry : U16) (region : Nat) (rcc : BitVec 48) (s : State) : State :=
  let x := s.tsu.herd h
  let f := s.tsu.tc.frc.toNat
  let s := toRegion region oLaunch (.launch region entry h) (sendBias region s)
  let s := takeSnapshot region trigLaunch rcc s
  let s := onRegion region (fun r =>
    { r with launched := r.launched ++ [⟨h, step, x.iter.toNat, f, rcc, true⟩], slackSent := false }) s
  forAll (forcedOn s.tsu region step x.iter.toNat) (fun e s => emit (.fstretch region e) s) s

/-- Every region of a mask is launched, in ascending number; `rccs` gives the first region edge of each. -/
def launchRegions (h step : Nat) (d : Desc) (rccs : List (BitVec 48)) (s : State) : State :=
  forAll ((regionsOf (dMask d)).zipIdx) (fun r s => launchRegion h step (dEntry d) r.1 (rccs.getD r.2 0) s) s

/-- A LAUNCH descriptor launches (R129, R132); a FETCH launch has no step to complete (R236). -/
def launchStep (h : Nat) (a : Ahead) (d : Desc) (rccs : List (BitVec 48)) (s : State) : State :=
  let f := s.tsu.tc.frc.toNat
  let slip : U32 := BitVec.ofNat 32 (min (f - a.gridTick.getD f) 0xFFFFFFFF)
  let s := launchRegions h a.step d rccs s
  onHerd h (fun x =>
    { x with slipLast := slip, slipMax := if x.slipMax.toNat < slip.toNat then slip else x.slipMax,
             steps := if dSwap d = 1 ∨ dMask d = 0 then x.steps
                      else x.steps ++ [{ step := a.step, iter := x.iter.toNat, fl := f, left := dMask d }] }) s

/-- Events that the descriptor's gates consume are cleared at the end of phase 6 (R163). -/
def consumeEvents (d : Desc) (s : State) : State :=
  forAll (List.range 4) (fun k s =>
    let g := dGate d k
    if gKind g = 5 ∧ gConsume g then onTsu (fun t => { t with clearing := t.clearing ++ [gObj g] }) s else s) s

/-! ## Swap actions (R236 to R239) -/

/-- FETCH in PLANNED. -/
def swapFetch (h step : Nat) (s : State) : State :=
  onHerd h (fun x =>
    if x.swap = .planned then
      { x with swap := .fetching, attempts := 1, fetchStep := step, swapSince := s.tsu.tc.frc.toNat,
               swapBase := (s.tsu.counter (pReadyCtr x.swapPlan)).value.toNat }
    else x) s

/-- ARRIVE: the TSU makes the arrival of the swap participation itself (R237). -/
def swapArrive (h : Nat) (s : State) : State :=
  let x := s.tsu.herd h
  let n := x.swapPart.toNat
  queueArrival n kArrival 0 1 (deadlineFrom s (ptTimeout (s.tsu.part n).entry))
    (pack 512 [(0, 64, b2n (decide (x.swap = .ready))), (64, 64, b2n (decide (x.swap = .failed)))]) s

/-- The flip (R238): its entries become DRAINING at 8 a tick, in group order. -/
def swapFlip (h : Nat) (grid : HT) (s : State) : State :=
  let x := s.tsu.herd h
  let new := pNewEpoch x.swapPlan
  let s := if x.swap = .idle then raiseHerd h 0x080C false (swapObj h) allOnes32 x.iter16 0 s else s
  let s := onHerd h (fun y =>
    { y with oldEpoch := x.liveEpoch, liveEpoch := new, flipHt := grid,
             drainEnd := grid + htOfNs (pDrainMs x.swapPlan * 1000000), drainPolicy := pDrainPolicy x.swapPlan,
             swap := .flipped, refetchWait := false }) s
  raiseHerd h 0x080B false (swapObj h) (new.setWidth 32) x.iter16 0 (beginAll h .flip (nsOf s.tsu.now) s)

/-- The round of the swap participation that a FLIP descriptor's gate names, for ITER as it was at its boundary (R233, R238). -/
def flipRound (x : Herd) (d : Desc) (iter : Nat) : Option U16 :=
  (List.range 4).findSome? fun k =>
    let g := dGate d k
    if gKind g = 1 ∧ gObj g = x.swapPart.toNat then some (BitVec.ofNat 16 (gValue g iter)) else none

/-- FLIP: what the result of the swap round brings about (R238). Only PLANNED to FAILED abort (Table 8.5). -/
def swapDecide (h : Nat) (b : Boundary) (d : Desc) (s : State) : State :=
  let x := s.tsu.herd h
  match (flipRound x d b.iter).bind fun v => (s.tsu.part x.swapPart.toNat).results.find? fun r => decide (r.1 = v) with
  | none => s
  | some r =>
    let r0 := (lane 64 r.2.2 0).toNat
    let r1 := (lane 64 r.2.2 1).toNat
    let m := r.2.1.toNat
    if 0 < r1 then (if swapOpen x.swap then abortSwap h 1 s else s)
    else if r0 = m ∧ m = x.memberCount.toNat then swapFlip h b.grid s
    else if swapOpen x.swap ∧ pReadyDeadline x.swapPlan ≤ nsOf b.grid then abortSwap h 2 s
    else s

/-- RELEASE_OLD: only in FLIPPED, and only when no entry drains (R239). -/
def swapRelease (h : Nat) (s : State) : State :=
  let x := s.tsu.herd h
  if x.swap = .flipped ∧ countState s.tsu x lsDraining = 0 then
    onHerd h (fun x => { x with oldEpoch := 0xFFFF, swap := .idle }) s
  else s

def swapAction (h : Nat) (b : Boundary) (d : Desc) (s : State) : State :=
  match dSwap d with
  | 1 => swapFetch h b.step s
  | 2 => swapArrive h s
  | 3 => swapDecide h b d s
  | 4 => swapRelease h s
  | _ => s

/-- The drain's end at the first boundary at or after DRAIN_END_HT, after that descriptor's own ledger operation (R239). -/
def drainCheck (h : Nat) (grid : HT) (s : State) : State :=
  let x := s.tsu.herd h
  let ends := s.tsu.ledgerOps.any fun p => decide (p.ctx = h ∧ (p.act = .drainEnd true ∨ p.act = .drainEnd false))
  if x.swap = .flipped ∧ x.drainEnd.toNat ≤ grid.toNat ∧ !ends then beginAll h (.drainEnd x.drainPolicy) (nsOf s.tsu.now) s
  else s

/-! ## Phase 7 (R264) -/

/-- Hall time that a DEADLINE operation of a herd uses: the value recorded for it in a STRICT replay (R299). -/
def deadlineTime (herd : Id24) (s : State) : HT × State :=
  if s.tsu.replayStrict then
    match s.tsu.timeValues.find? fun v => decide (v.1 = herd ∧ v.2.1 = 0) with
    | some v => (v.2.2.2, onTsu (fun t => { t with timeValues := t.timeValues.erase v }) s)
    | none => (s.tsu.now, s)
  else (s.tsu.now, s)

/-- The descriptor's ledger operation begins, with the TIME_VALUE record of a DEADLINE (R141, Table 11.4). -/
def beginLedger (h : Nat) (d : Desc) (s : State) : State :=
  if dLedgerOp d = 0 ∨ dGroup d = 15 then s
  else if dLedgerOp d = 4 then
    let r := deadlineTime ((s.tsu.herd h).herdId.setWidth 24) s
    beginPass h (dGroup d) (.ledger 4 0) (nsOf r.1) (tapHerd 9 h ([0, 0] ++ bvBytes r.1) r.2)
  else beginPass h (dGroup d) (.ledger (dLedgerOp d) (dAmount d)) (nsOf s.tsu.now) s

/-- The actions of a descriptor in phase 7, in their order (R264): the swap action, CLOSE, the ledger operation, the automatic takes,
TOKENS and OPEN; `t0` is the die at the start of the phase. -/
def descActions (t0 : Tsu) (b : Boundary) (s : State) : State :=
  let h := b.ctx
  let d := s.tsu.desc b.step
  let g := dGroup d
  let ns := nsOf s.tsu.now
  let hook := issuesHook (s.tsu.herd h) d
  let s := swapAction h b d s
  let s := if hook 1 then closeGroup t0 h g ns s else s
  let s := beginLedger h d s
  let s := if g ≠ 15 ∧ (hook 1 ∨ dLedgerOp d ≠ 0) then autoPass h g ns s else s
  let s := if hook 2 then beginPass h g .take ns s else s
  if hook 0 then openGroup h g ns s else s

/-- Phase 7 of one boundary: the groups open too long (R266), the descriptor's actions, the drain's end, and the passes begun. -/
def boundaryPhase7 (t0 : Tsu) (b : Boundary) (s : State) : State :=
  let s := renewOpen t0 b.ctx (nsOf s.tsu.now) s
  let s := if b.acts then descActions t0 b s else s
  runPasses b.ctx (drainCheck b.ctx b.grid s)

/-- Phase 7 of one context: the passes in progress, its boundaries in order, and the close of a run that has ended. -/
def herdPhase7 (t0 : Tsu) (h : Nat) (s : State) : State :=
  let s := forAll (t0.bounds.filter fun b => decide (b.ctx = h)) (boundaryPhase7 t0) (runPasses h s)
  if t0.ended.contains (h, true) then runPasses h (closeHerd t0 h s) else s

/-- Pending writes of a context in phase 8: those taken on an earlier tick, or all where its run has ended (R322). -/
def applyPending (h : Nat) (all : Bool) (s : State) : State :=
  let mine (w : PendingWrite) : Bool := decide (w.ctx = h) && (all || decide (w.frc < s.tsu.tc.frc.toNat))
  forAll (s.tsu.agent.pending.filter mine) applyPendingWrite
    (onAgent .tsu (fun a => { a with pending := a.pending.filter fun w => !mine w }) s)

/-- Phase 8 of one context: the pending writes, and the ledger writes held for the iteration that a LOOP began, or all that are held
where its run has ended (R140, R322). -/
def herdPhase8 (t0 : Tsu) (h : Nat) (s : State) : State :=
  let bs := t0.bounds.filter fun b => decide (b.ctx = h)
  let ended := t0.ended.any fun e => decide (e.1 = h)
  let s := if ended ∨ bs ≠ [] then applyPending h ended s else s
  let s := forAll (bs.filterMap Boundary.loop) (fun i s => applyHeldOf h (fun w => decide (w.iter = i)) s) s
  if ended then applyHeldOf h (fun _ => true) s else s

/-- The boundaries of the tick count from the next tick on (R289). -/
def countBounds (t0 : Tsu) (s : State) : State :=
  forAll t0.bounds (fun b s => onHerd b.ctx (fun x => { x with bnum := x.bnum + 1 }) s) s

/-- Contexts with work in phases 7 and 8 of this tick, in ascending order. -/
def busyContexts (t : Tsu) : List Nat :=
  (List.range 64).filter fun h =>
    (t.bounds.any fun b => decide (b.ctx = h)) || (t.ended.any fun e => decide (e.1 = h)) ||
      t.ledgerOps.any fun p => decide (p.ctx = h)

/-- Phases 7 and 8 of the present tick (R128): every context in phase 7, then every context in phase 8. -/
def lastPhases (s : State) : State :=
  let t0 := s.tsu
  let hs := busyContexts t0
  let s := onTsu (fun t => { t with bounds := [], ended := [] }) s
  countBounds t0 (enterErrs (forAll hs (herdPhase8 t0) (enterErrs (forAll hs (herdPhase7 t0) s))))

/-- A context is about to be released: its work of phases 7 and 8 is done at once. -/
def finishContext (h : Nat) (s : State) : State :=
  let t0 := s.tsu
  let s := onTsu (fun t => { t with bounds := t.bounds.filter fun b => decide (b.ctx ≠ h),
                                    ended := t.ended.filter fun e => decide (e.1 ≠ h) }) s
  finishPasses h (herdPhase8 t0 h (herdPhase7 t0 h s))

/-! ## LOOP, REBASE and the next descriptor -/

/-- The LOOP test (R137). -/
def loopGoesOn (t : Tsu) (h : Nat) (d : Desc) : Bool :=
  let x := t.herd h
  (decide (dGroup d = 15) || groupLives t h (dGroup d)) && decide (x.iter.toNat + 1 < x.iterLimit.toNat)

/-- Past a LOOP the descriptors on the other way leave the window, and what they alone had claimed is free again. -/
def takeWay (h : Nat) (on : Bool) (s : State) : State :=
  let x := s.tsu.herd h
  let gone := x.ahead.filter fun a => a.path.head? == some (!on)
  let kept := x.ahead.filter fun a => a.path.head? == some on
  let freed (n : Nat) : Bool := (gone.any fun a => claims s.tsu a n) && !kept.any fun a => claims s.tsu a n
  let objs := (gone.flatMap fun a => (List.range 4).map fun k => gObj (dGate (s.tsu.desc a.step) k)).eraseDups.filter freed
  forAll objs (fun n s => onEvent n (fun e => { e with claimed := false }) s)
    (onHerd h (fun x => { x with ahead := kept.map fun a => { a with path := a.path.tail } }) s)

/-- ITER, BASE, CUR_STEP and the window after the boundary of a descriptor (R122, R137). -/
def advance (h : Nat) (d : Desc) (s : State) : State :=
  let x := s.tsu.herd h
  let on := loopGoesOn s.tsu h d
  let grid := x.base + htOfNs (dOffset d)
  let s :=
    if dType d = typeLoop then
      takeWay h on (onHerd h (fun x =>
        if on then { x with iter := x.iter + 1, base := x.base + htOfNs (dPeriod d), cur := BitVec.ofNat 32 (dNext d) }
        else { x with cur := BitVec.ofNat 32 (dAlt d) }) s)
    else if dType d = typeEnd then s
    else onHerd h (fun x => { x with cur := BitVec.ofNat 32 (dNext d) }) s
  if dRebase d then onHerd h (fun x => { x with base := grid }) s else s

/-- A boundary is done with phase 6: phases 7 and 8 follow at the end of the tick; END leads to DONE, any other descriptor to the
next. -/
def finishBoundary (h : Nat) (a : Ahead) (d : Desc) (acts : Bool) (s : State) : State :=
  let was := s.tsu.herd h
  let s := advance h d s
  let now := (s.tsu.herd h).iter
  let b : Boundary := { ctx := h, step := a.step, grid := a.grid, iter := was.iter.toNat, acts := acts,
                        loop := if now = was.iter then none else some now.toNat }
  let s := onTsu (fun t => { t with bounds := t.bounds ++ [b] }) s
  if dType d = typeEnd then endRun h .done s else fillAhead h (2 * windowSize) s

/-- A descriptor is launched or passed with its actions: phase 6. -/
def goBoundary (h : Nat) (a : Ahead) (rccs : List (BitVec 48)) (s : State) : State :=
  let d := s.tsu.desc a.step
  let go := launches (s.tsu.herd h) d
  let acts := decide (dType d = typeLaunch ∨ dType d = typeNop)
  let s := stepEvent h a d (countBoundary h a s)
  let s := if go then launchStep h a d rccs s else s
  finishBoundary h a d acts (consumeEvents d (if acts then powerOp h d s else s))

/-- A descriptor before H is passed by the die that detected the fault, without any of its actions (R135). -/
def silentBoundary (h : Nat) (a : Ahead) (s : State) : State :=
  let d := s.tsu.desc a.step
  finishBoundary h a d false (stepEvent h a d (countBoundary h a s))

/-- The ledger words that a command met as uncorrectable are never used from then on (R154). -/
def ledgerBad (e : Ecc) (s : State) : State :=
  let is := e.uncorrectable.filterMap fun w => match w with | .ledger i => some i | _ => none
  onTsu (fun t => { t with badLedger := t.badLedger ++ is.filter fun i => !t.badLedger.contains i }) s

/-- The descriptor's word was read uncorrectable (R154): the step faults, and nothing behind it can be reached. -/
def descFault (h step : Nat) (s : State) : State :=
  faultHerd h 0x0505 (objOf 0x5080 0) (BitVec.ofNat 32 step) (s.tsu.herd h).iter16 0
    (onHerd h (fun x => { x with badHead := true, ahead := x.ahead.take 1 }) s)

/-- A descriptor goes, unless its own word, or for a LOOP one of the group that it tests, cannot be read (R154). -/
def tryBoundary (h : Nat) (a : Ahead) (rccs : List (BitVec 48)) (ecc : Ecc) (s : State) : State :=
  let d := s.tsu.desc a.step
  if ecc.uncorrectable.contains (.desc a.step) then descFault h a.step s
  else
    match (if dType d = typeLoop ∧ dGroup d ≠ 15 then badInGroup s.tsu h (dGroup d) else none) with
    | some i => ledgerFault h i s
    | none => goBoundary h a rccs s

/-- A descriptor of the named type comes to its boundary: it goes, or the die leaves the herd in its place. -/
def stepBoundary (h typ : Nat) (rccs : List (BitVec 48)) (ecc : Ecc) (s : State) : State :=
  let s := phase4 (ledgerBad ecc (meterFaults ecc (syncFaults ecc (countCorrected ecc s))))
  match (s.tsu.herd h).ahead.head? with
  | none => s
  | some a =>
    if dType (s.tsu.desc a.step) ≠ typ then s
    else
      match due s.tsu h with
      | .leaves c => leaveHerd h c s
      | .go => tryBoundary h a rccs ecc s
      | _ => s

/-- A halting die's descriptor: passed silently before H, HALTED at H. -/
def haltBoundary (h : Nat) (s : State) : State :=
  let s := phase4 s
  match (s.tsu.herd h).ahead.head? with
  | none => s
  | some a =>
    match due s.tsu h with
    | .halted => enterHalted h s
    | .silent => silentBoundary h a s
    | .leaves c => if (s.tsu.herd h).selfFault then leaveHerd h c s else s
    | _ => s

end Sys2Proof.Machine
end

