-- ==== Sys2Proof/Machine/Bank.lean ====
section
/-! DEFINITION. The events of scratchpad bank power (Table 6.6, R175, R176); the actions of descriptors stand in RegionOps. -/

namespace Sys2Proof.Machine

/-- Object of a bank (R177). -/
def bankObj (region bank : Nat) : U32 := objOf (0x6300 + region) bank

/-- A region and a bank that the die has. -/
def bankOk (region bank : Nat) : Bool := decide (region < 52 ∧ bank < 16)

/-- Ticks since the bank's last action. -/
def bankAge (t : Tsu) (region bank : Nat) : Nat := t.tc.frc.toNat + 1 - (t.region region).bankSince.get 0 bank

/-- A record about a bank of a herd context; of no herd where the context holds none. -/
def raiseBank (h : Nat) (code : U16) (obj waiter : U32) (s : State) : State :=
  let x := s.tsu.herd h
  if x.state = .free then raise { code := code, herd := noHerd, object := obj, waiter := waiter } s
  else raiseHerd h code false obj waiter x.iter16 0 s

/-- BANK_DRAINED: no write is outstanding to a draining bank, which goes off. -/
def execBankDrained (region bank : Nat) (s : State) : Result :=
  performOn .tsu (bankOk region bank) (fun s =>
    if (s.tsu.region region).bank bank = .draining then setBank region bank .off s else s) s

/-- BANK_DRAIN_TIMEOUT: 10,000 ns after the off action a write is still outstanding, so the fence is lifted (R176). -/
def execBankDrainTimeout (region bank : Nat) (channel : U8) (s : State) : Result :=
  performOn .tsu (bankOk region bank) (fun s =>
    if (s.tsu.region region).bank bank = .draining ∧ 10000 ≤ bankAge s.tsu region bank then
      let s := setBank region bank .on s
      let s := onRegion region (fun r => { r with drainTimeouts := bump r.drainTimeouts }) s
      raiseBank ((s.tsu.region region).bankCtx.get 64 bank) 0x0609 (bankObj region bank) (channel.setWidth 32) s
    else s) s

/-- BANK_WAKE_DONE: 250 ns after the on action the bank accepts requests. The bank that a reset wakes is the scratchpad controller's
alone until the TSU acts again (R332). -/
def execBankWakeDone (region bank : Nat) (s : State) : Result :=
  perform (bankOk region bank) (fun s =>
    if (s.tsu.region region).bank bank = .waking ∧ (s.tsu.works = false ∨ 250 ≤ bankAge s.tsu region bank) then setBank region bank .on s
    else s) s

/-- BANK_UNAVAILABLE: a request to a fenced or switched off bank is refused, and the herd of its step halts (R176). -/
def execBankUnavailable (region bank h : Nat) (source : U16) (s : State) : Result :=
  performOn .tsu (bankOk region bank && decide (h < 64)) (fun s =>
    let st := (s.tsu.region region).bank bank
    if st = .draining ∨ st = .off then
      let s := onRegion region (fun r => { r with refusals := bump r.refusals }) s
      if (s.tsu.herd h).state = .running then
        faultHerd h 0x060A (bankObj region bank) (source.setWidth 32) (s.tsu.herd h).iter16 0 s
      else raiseBank h 0x060A (bankObj region bank) (source.setWidth 32) s
    else s) s

end Sys2Proof.Machine
end

