-- ==== Sys2Proof/Machine/PlaneOps.lean ====
section
/-! DEFINITION. The die's time states and its choice of plane (R41, R52, R53, R113 to R116, R224): changes of TIME_STATE, loss
and regain of planes, switches between them, and the lock criteria. -/

namespace Sys2Proof.Machine

/-! ## Planes -/

/-- The plane is one that PLANE_CONFIG configures (R351). -/
def Tsu.configured (t : Tsu) : Plane → Bool
  | .a => decide (t.tc.planeConfig ≠ 2)
  | .b => decide (t.tc.planeConfig ≠ 1)

/-- The planes that PLANE_CONFIG configures. -/
def Tsu.planes (t : Tsu) : List Plane := [Plane.a, Plane.b].filter t.configured

def TimeCore.sqc (tc : TimeCore) : Plane → Nat
  | .a => tc.sqcA.toNat
  | .b => tc.sqcB.toNat

def TimeCore.demoted (tc : TimeCore) : Plane → Bool
  | .a => tc.demotedA
  | .b => tc.demotedB

/-- Effective SQC of a plane (R114). -/
def TimeCore.effSqc (tc : TimeCore) (pl : Plane) : Nat :=
  if tc.demoted pl then min 7 (tc.sqc pl + 2) else tc.sqc pl

/-- A BLEAT has arrived within the last 4 periods, 419,430.4 ns (R113). -/
def bleatFresh (now : Nat) (x : Port) : Bool :=
  match x.lastBleat with
  | some (f, _) => decide (now < f + 419431)
  | none => false

/-- A plane is lost to the die (R113); an unconfigured one always is. -/
def planeLost (s : State) (pl : Plane) : Bool :=
  !s.tsu.configured pl || !isUp s .tsu (planePort pl) || decide (s.tsu.tc.sqc pl = 7) ||
    !bleatFresh s.tsu.tc.frc.toNat (port s .tsu (planePort pl))

/-! ## Changes of TIME_STATE -/

/-- A change of TIME_STATE with what every change brings: the carried offset (R116), the bound of HOLDOVER, HOLD_MODEL_VALID and
what its fall restores (R52), FAWN (R224), and the run of lock criteria and calibration, which begins afresh. -/
def goTime (st : TimeState) (s : State) : State :=
  let was := s.tsu.tc.state
  let f := s.tsu.tc.frc.toNat
  let keeps := decide (st = .locked ∨ st = .holdover)
  let falls := decide (was = .locked ∧ st ≠ .holdover)
  let s := enterTime st s
  let s := onTc (fun tc =>
    { tc with carried := if keeps then tc.carried else 0, carriedFrac := if keeps then tc.carriedFrac else 0,
              holdBound := if st = .holdover then tc.holdBound else 0, regained := false, takenOver := false,
              thetas := [], calib := [], restarts := 0, calFailed := false, modelValid := tc.modelValid && !falls,
              tempCoeff := if falls then tc.boardCoeff else tc.tempCoeff, ageing := if falls then 0 else tc.ageing,
              lockedSince := if st = .locked ∧ was = .calibrate then some f else none, tempSpan := none,
              narrowSince := f, lockSlow := false, ppsUntil := if keeps then tc.ppsUntil else 0,
              fcw := if st = .unset then 0 else tc.fcw }) s
  let s := onTsu (fun t => { t with fawn := if st = .locked then false else if st = .freeRun then true else t.fawn }) s
  onMeter (fun m => { m with degradedLogged := m.degradedLogged && decide (st ≠ .locked) }) s

/-- Entry to HOLDOVER (R52, R53): the bound starts at B_0 and θ_e is the mean temperature of the last second. -/
def startHoldover (s : State) : State :=
  onTc (fun tc => { tc with holdEntry := tc.frc.toNat, tempSum := 0, holdBound := 350,
                            entryTemp := if tc.temps.isEmpty then tc.entryTemp else i64 (meanOf tc.temps) })
    (goTime .holdover s)

/-- Both planes are lost (Table 2.2). -/
def bothLost (s : State) : State :=
  let s := onTc (fun tc => { tc with selPlane := none, betterSince := none }) s
  let run (s : State) : State := departHerds byFreeRun (goTime .freeRun s)
  match s.tsu.tc.state with
  | .acquire => run s
  | .narrow => run s
  | .calibrate => run s
  | .locked => if s.tsu.tc.modelValid then startHoldover s else run s
  | _ => s

/-- A switch of the selected plane (R113, R116): in LOCKED it carries PLANE_OFFSET_PS and, after a demotion of the old plane,
slews its drift; the lock criterion and the exchanges of CALIBRATE start again. -/
def switchPlane (pl : Plane) (s : State) : State :=
  onTc (fun tc =>
    let locked := decide (tc.state = .locked)
    let off := locked && (match tc.selPlane with | some o => tc.demoted o | none => false)
    { tc with selPlane := some pl, betterSince := none, thetas := [], calib := [],
              carried := if locked then tc.planeOffset else tc.carried,
              carriedFrac := if locked then 0 else tc.carriedFrac,
              released := tc.released && !locked,
              slewRemaining := if off then tc.slewRemaining + tc.planeDrift else tc.slewRemaining,
              planeOffset := 0, planeDrift := 0, offsetAtSwitch := if locked then some 0 else none }) s

/-- The die is a member of some herd: it holds a context that it has not left. -/
def Tsu.member (t : Tsu) : Bool := t.herds.any fun e => decide (e.2.state ≠ .free ∧ e.2.state ≠ .left)

/-- How far the die is ahead of where its loop aims (R116): of the plane's time less the carried offset. -/
def TimeCore.aimed (tc : TimeCore) (theta : Int) : Int := theta + tc.carried.toInt

/-- A plane is regained (Table 2.2); `err` is the measured phase error in ps, the die ahead of the plane. -/
def regainPlane (pl : Plane) (err : Int) (s : State) : State :=
  let s := onTc (fun tc => { tc with selPlane := some pl, betterSince := none, thetas := [], calib := [], planeOffset := 0,
                                     planeDrift := 0, offsetAtSwitch := none }) s
  let jump (s : State) : State := goTime .narrow (onTc (fun tc => setRate 0 (jumpPhase (-err) tc)) s)
  match s.tsu.tc.state with
  | .holdover =>
    if s.tsu.member then
      onTc (fun tc => { tc with slewRemaining := tc.slewRemaining + i64 (-(tc.aimed err)), regained := true, takenOver := false }) s
    else jump s
  | .freeRun => jump s
  | _ => s

/-- The plane that the die ought to follow: the forced one, else the selected one, else the first, that is not lost. -/
def wantedPlane (s : State) : Option Plane :=
  let ok (pl : Plane) : Bool := !planeLost s pl
  let forced : Option Plane := if s.tsu.tc.forcePlane = 1 then some .a else if s.tsu.tc.forcePlane = 2 then some .b else none
  match forced.filter ok, s.tsu.tc.selPlane.filter ok with
  | some p, _ => some p
  | none, some p => some p
  | none, none => [Plane.a, Plane.b].find? ok

/-- Since when the unselected plane has had the lower effective SQC (R114). -/
def judgeBetter (s : State) : State :=
  let better : Bool := match s.tsu.tc.selPlane with
    | some p => !planeLost s (otherPlane p) && decide (s.tsu.tc.effSqc (otherPlane p) < s.tsu.tc.effSqc p)
    | none => false
  onTc (fun tc => { tc with betterSince := if better then some (tc.betterSince.getD tc.frc.toNat) else none }) s

/-- The choice of plane on the present tick (R113, R114); `err` is the phase error on a plane that a BLEAT has just brought
back. In REPLAY_PINNED nothing is steered (Table 14.3), and UNSET is left by FIRST_BLEAT alone. -/
def reselect (err : Int) (s : State) : State :=
  if s.tsu.tc.state = .unset ∨ s.tsu.tc.state = .replayPinned then s
  else
    judgeBetter (match s.tsu.tc.selPlane, wantedPlane s with
      | none, some p => regainPlane p err s
      | some p, some q => if p = q then s else switchPlane q s
      | some _, none => bothLost s
      | none, none => s)

/-- LAT_DRIFT_PS of the links whose LAT_STATE is 4. -/
def validDrifts (t : Tsu) : List Int := (t.links.filter fun e => decide (e.2.state = 4)).map fun e => e.2.drift.toInt

/-- LAT_MEDIAN_DRIFT_PS (R115). -/
def latMedian (t : Tsu) : I64 :=
  let xs := validDrifts t
  if xs.isEmpty then Config.medianOfNone else i64 (openRound (median2 xs) 2)

/-- The median is taken anew (R115). -/
def takeMedian (t : Tsu) : Tsu := { t with tc := { t.tc with latMedian := latMedian t } }

/-! ## The first BLEAT (R94) -/

/-- Hall time at the arrival of a BLEAT: its time and the path delay, t_hop plus 75 ns where no exchange has completed. -/
def bleatArrival (x : Port) (ht : HT) : HT := htAddPs ht (if x.exchanged then (x.pathDelay.toNat : Int) else 215000)

/-- FIRST_BLEAT: OFFSET makes the hall time of the time-stamp the BLEAT's; the meter writes its BOOT record. -/
def firstBleat (pl : Plane) (ht : HT) (st : Stamp) (s : State) : State :=
  let raw := htAddPs (BitVec.ofNat 80 (st.frc.toNat * 65536)) (8 * st.sub.toNat)
  let s := onTc (fun tc => { tc with selPlane := some pl, betterSince := none, htValid := true, planeOffset := 0, planeDrift := 0,
                                     offsetAtSwitch := none,
                                     offset := bleatArrival (port s .tsu (planePort pl)) ht - raw }) s
  onTsu bootRecord (goTime .acquire s)

/-! ## Exchanges (R79, R82, R112) -/

/-- Wide lock: 32 consecutive exchanges within 5 ns. -/
def wideExchange (theta : Int) (s : State) : State :=
  let s := onTc (fun tc => { tc with thetas := if theta.natAbs ≤ 5000 then theta :: tc.thetas else [] }) s
  if 32 ≤ s.tsu.tc.thetas.length then goTime .narrow s else s

/-- The narrow criterion on the exchanges gathered: 128 in a row within 250 ps, of mean magnitude at most 50 ps. -/
def narrowMet (tc : TimeCore) : Bool :=
  decide (tc.thetas.length = 128 ∧ (tc.thetas.map Int.natAbs).sum ≤ 128 * 50)

def narrowExchange (theta : Int) : State → State :=
  onTc fun tc => { tc with thetas := if theta.natAbs ≤ 250 then (theta :: tc.thetas).take 128 else [] }

/-- Greatest less smallest of a list. -/
def spread (xs : List Int) : Int :=
  match xs with
  | [] => 0
  | x :: rest => rest.foldl max x - rest.foldl min x

/-- 256 exchanges of CALIBRATE are complete (R82): on stable delay the mean is applied and the die enters LOCKED, unless its
spine skew forbids it (R28); otherwise they are discarded, and the eighth restart in a row writes CAL_FAIL once. -/
def calibrated (p : Nat) (s : State) : State :=
  let tc := s.tsu.tc
  let mean := meanOf (tc.calib.map (·.1))
  if 64 < spread (tc.calib.map (·.2)) then
    let s := onTc (fun tc => { tc with calib := [], restarts := tc.restarts + 1,
                                       calFailed := tc.calFailed || decide (7 ≤ tc.restarts) }) s
    if 7 ≤ tc.restarts ∧ !tc.calFailed then
      raise { code := 0x0303, herd := noHerd, object := objOf (portIndex p) 0,
              waiter := if (port s .tsu p).peerHello = none then allOnes32 else (port s .tsu p).peerId } s
    else s
  else if 26 < tc.spineSkew.toNat then onTc (fun tc => { tc with calib := [], restarts := 0 }) s
  else goTime .locked (onTc (fun tc => foldMapping false (addPhase (-mean) tc)) s)

/-- Bandwidth in mHz and damping factor of the die's loop (Tables 2.1, 4.11); none while the frequency control word stands still. -/
def TimeCore.loopParams (tc : TimeCore) : Option (Nat × Nat) :=
  match tc.state with
  | .acquire => some (1000000, 1)
  | .narrow | .calibrate | .locked => some (20000, 5)
  | .holdover => if tc.regained then some (20000, 5) else none
  | .unset | .freeRun | .replayPinned => none

/-- The loop steers the spine by an error from where it aims (R112). -/
def TimeCore.steer (error : Int) (tc : TimeCore) : TimeCore :=
  match tc.loopParams with
  | some w => { tc with fcw := Config.loopWord w.1 w.2 error true tc.fcw }
  | none => tc

/-- One exchange on the selected plane reaches the loop, which aims at the plane's time less the carried offset (R116). -/
def loopExchange (p : Nat) (measured d : Int) (s : State) : State :=
  let theta := s.tsu.tc.aimed measured
  let s := onTc (TimeCore.steer theta) s
  match s.tsu.tc.state with
  | .acquire => wideExchange theta s
  | .narrow =>
    let s := narrowExchange theta s
    if narrowMet s.tsu.tc then goTime .calibrate s else s
  | .calibrate =>
    let s := onTc (fun tc => { tc with calib := tc.calib ++ [(theta, d)] }) s
    if 256 ≤ s.tsu.tc.calib.length then calibrated p s else s
  | .holdover =>
    if s.tsu.tc.regained ∧ !s.tsu.tc.takenOver then
      let s := narrowExchange theta s
      if narrowMet s.tsu.tc then onTc (fun tc => { foldMapping true tc with takenOver := true }) s else s
    else s
  | _ => s

/-- One exchange on the other plane (R51): the offset of that plane against the die, and its change since the switch. In a
single-plane configuration both read zero (Table 14.3). -/
def otherExchange (theta : Int) : State → State :=
  onTc fun tc =>
    if tc.planeConfig ≠ 0 then tc
    else
      let base := tc.offsetAtSwitch.getD (-theta)
      { tc with planeOffset := i64 (-theta), planeDrift := i64 (-theta - base), offsetAtSwitch := some base }

end Sys2Proof.Machine
end

