-- ==== Sys2Proof/Machine/RefOps.lean ====
section
/-! DEFINITION. The references of a Fjouz chip (R88 to R110): candidates and their qualification, the switch sequence, lock
states, holdover on the OCXO, and the quality that the chip offers. -/

namespace Sys2Proof.Machine

/-! ## Candidates (Table 4.1) -/

def nCands : Nat := 10
def typFreq : U8 := 1
def typPps : U8 := 2
def typPtp : U8 := 3
def typSynce : U8 := 4
def typParent : U8 := 5

/-- PTP, PPS_TOD and PARENT candidates give time (R88). -/
def Cand.isTime (k : Cand) : Bool := decide (k.typ = typPps ∨ k.typ = typPtp ∨ k.typ = typParent)

/-- A candidate of the chip's level (R88, Table 4.1). -/
def Fjz.hasCand (x : Fjz) (c : Nat) : Bool :=
  if x.role = 3 then decide (c < 8) else if x.role = 2 then decide (c = 8)
  else if x.role = 1 then decide (c = 8 ∨ c = 9) else false

/-- The port of a PARENT candidate. -/
def Fjz.candPort (x : Fjz) (c : Nat) : Nat := if c = 9 then 65 else if x.role = 2 then 71 else 64

/-- The candidate of a parent port. -/
def Fjz.portCand (x : Fjz) (p : Nat) : Option Nat :=
  if x.role = 1 ∧ p = 64 then some 8 else if x.role = 1 ∧ p = 65 then some 9
  else if x.role = 2 ∧ p = 71 then some 8 else none

/-- SQC that a candidate has received; a FREQ input takes the assigned one (R92). -/
def Cand.received (k : Cand) : Nat := if k.typ = typFreq then k.sqcAssigned.toNat else k.sqcRecv.toNat

/-- REF_SQC_EFFECTIVE as the procedure of R97 ends it; 7 for an absent candidate. -/
def Cand.effective (k : Cand) : U8 :=
  match k.state with
  | .qualified => BitVec.ofNat 8 k.received
  | .demoted => BitVec.ofNat 8 (min 7 (k.received + 2))
  | _ => 7

/-- The candidate may be selected (R98); candidate 3 of a root never while its latest message has CROSS set, nor on plane A
unless the two latest have it clear (R110). -/
def Fjz.eligible (x : Fjz) (c : Nat) : Bool :=
  let k := x.cand c
  let crossed := decide (c = 3 ∧ k.typ = typPps) &&
    (if x.plane = 0 then !decide ((k.cross.take 2) = [false, false]) else !decide (k.cross.head? = some false))
  x.hasCand c && decide (k.state = .qualified ∨ k.state = .demoted) && !crossed

/-- The better of two candidates (R98): lower effective SQC, then priority, then number. -/
def Fjz.betterCand (x : Fjz) (c d : Nat) : Bool :=
  let k := x.cand c
  let l := x.cand d
  decide (k.sqcEff.toNat < l.sqcEff.toNat) ||
    (decide (k.sqcEff = l.sqcEff) && (decide (k.priority.toNat < l.priority.toNat) ||
      (decide (k.priority = l.priority) && decide (c < d))))

/-- The best eligible candidate of a kind: the forced one, or the first in order. -/
def Fjz.best (x : Fjz) (ok : Nat → Bool) : Option Nat :=
  let cs := (List.range nCands).filter fun c => x.eligible c && ok c
  if cs.contains x.forceRef.toNat then some x.forceRef.toNat
  else cs.foldl (fun b c => match b with
    | some d => if x.betterCand c d then some c else some d
    | none => some c) none

def Fjz.bestTime (x : Fjz) : Option Nat := x.best fun c => (x.cand c).isTime

/-- The best frequency candidate of a root: no worse than the time candidate, or any while no time candidate is followed
(R96). -/
def Fjz.bestFreq (x : Fjz) : Option Nat :=
  if x.role ≠ 3 then none
  else x.best fun c => !(x.cand c).isTime &&
    (match x.selTime with
      | some t => decide ((x.cand c).sqcEff.toNat ≤ (x.cand t).sqcEff.toNat)
      | none => true)

/-! ## Quality (R105) -/

def Fjz.quality (x : Fjz) : U8 :=
  match x.lock with
  | .lock =>
    match x.switch with
    | some w => if w.bridged ∧ !w.freq then (x.cand w.target).sqcEff
                else (match x.selTime with | some c => (x.cand c).sqcEff | none => 7)
    | none => match x.selTime with
      | some c => (x.cand c).sqcEff
      | none => 7
  | .acq => 7
  | .hold => if x.holdBound.toNat ≤ x.holdSqcLimit.toNat then (if x.sqcAtHold.toNat < 5 then 5 else x.sqcAtHold) else 6
  | .free => if x.established then 6 else 7

/-- OUT_SQC follows the lock state; serving time with an SQC below 7 establishes hall time. -/
def Fjz.setOut (x : Fjz) : Fjz := { x with outSqc := x.quality, established := x.established || decide (x.quality ≠ 7) }

/-! ## Holdover (R106, R107) -/

/-- DESIGN CHOICE (log 63): a frequency candidate gained or lost during HOLD sets the growth of the whole time since entry.
Bound of HOLD at a number of ms after entry, in units of 5 · 10^-13 ps, from the units of Table 4.12. With a frequency candidate
in place of the OCXO model its tolerance stands for u_f, u_P and u_a (R96). -/
def Fjz.holdBoundScaled (x : Fjz) (ms : Nat) : Nat :=
  let uA := if x.ocxoAgeValid then (Config.ocxoAgeingUnc x.holdEntry).toNat else x.ocxoAgeUnc.toNat
  match x.selFreq with
  | some c => x.holdB0 * (2 * 10 ^ 12) + (x.cand c).freqTol.toNat * ms * (2 * 10 ^ 9)
  | none =>
    x.holdB0 * (2 * 10 ^ 12) + x.ocxoUF.toNat * ms * (2 * 10 ^ 6) + uA * ms * ms + x.ocxoUP.toNat * x.tempSum * 2000

/-- Entry to HOLD: B_0 is three times the RMS phase error of the last 100 s, θ_e the mean temperature of the last second. A switch of
the frequency selection runs on (R100). DESIGN CHOICE (log 63): B_0 is 0 where no phase error is held, and the root is rounded down to
a whole ps; R107 states neither. -/
def Fjz.enterHold (x : Fjz) : Fjz :=
  let n := x.phaseErrs.length
  let sq := (x.phaseErrs.map fun e => e.natAbs * e.natAbs).sum
  let b0 := if n = 0 then 0 else Nat.sqrt (9 * sq / n)
  { x with lock := .hold, selTime := none, switch := x.switch.filter (fun w => w.freq), holdEntry := x.frc.toNat, tempSum := 0, holdB0 := b0,
           holdTemp := if x.temps.isEmpty then x.holdTemp else i64 (meanOf x.temps), sqcAtHold := x.outSqc,
           ocxoUF := Config.ocxoUF x.frc.toNat, holdBound := BitVec.ofInt 64 (openRound b0 1000), lockSince := none,
           phaseErrs := [] }

/-! ## The switch sequence (Table 4.8) and lock states (Table 4.9) -/

/-- Switch window in ticks of the chip's counter (Table 4.7). -/
def windowTicks (k : Cand) : Nat :=
  if k.typ = typPtp ∨ k.typ = typPps then 16000000000 else if k.typ = typParent then 1048576 else 1000000000

/-- A switch to a target begins: bridged when nothing eligible disciplines the loop. -/
def Fjz.startSwitch (x : Fjz) (target : Nat) (freq : Bool) : Fjz :=
  let old := if freq then x.selFreq else x.selTime
  let bridged := match old with | some c => !x.eligible c | none => true
  { x with switch := some ⟨target, bridged, freq, x.frc.toNat⟩ }

/-- A chip that is not established takes hall time from its first eligible time candidate at once. -/
def Fjz.acquireFrom (x : Fjz) (c : Nat) : Fjz :=
  let jump := (x.cand c).phase
  let move (k : Cand) : Cand := { k with phase := k.phase - jump, baseline := k.baseline - jump }
  { x with lock := .acq, selTime := some c, acqRun := 0,
           htOffset := x.htOffset + BitVec.ofInt 80 (openRound (jump * 65536) 1000),
           cands := x.cands.mapAll {} fun _ k => move k }

/-- Since when each time candidate has been eligible. -/
def Fjz.markEligible (x : Fjz) : Fjz :=
  let mark (c : Nat) (k : Cand) : Cand :=
    { k with eligibleSince := if x.eligible c then some (k.eligibleSince.getD x.frc.toNat) else none }
  { x with cands := x.cands.mapAll {} mark }

/-- The choice of references on the present tick (R96, R99, R100, R103); after an abandoned switch it waits for the next tick. -/
def Fjz.select (x : Fjz) : Fjz :=
  let x := x.markEligible
  if x.selectNext then x.setOut else
  let t := x.bestTime
  let x :=
    match x.lock, t with
    | .free, some c => if x.established then x else x.acquireFrom c
    | .free, none => x
    | .hold, _ => x
    | _, some c => if x.switch = none ∧ x.selTime ≠ some c then x.startSwitch c false else x
    | _, none => x
  let f := x.bestFreq
  let x :=
    if x.switch ≠ none ∨ f = x.selFreq then x
    else match f with
      | some c => x.startSwitch c true
      | none => { x with selFreq := none }
  x.setOut

/-- What follows from the disqualification of the selected time candidate (Table 4.9). -/
def Fjz.lostSelected (x : Fjz) : Fjz :=
  match x.lock with
  | .acq => { x with lock := .free, established := false, selTime := none, switch := none }
  | .lock =>
    match x.bestTime with
    | some _ =>
      { x with switch := x.switch.map fun w => if w.freq then w else { w with bridged := true } }
    | none => if (x.switch.any fun w => !w.freq && x.eligible w.target) then x else x.enterHold
  | _ => x

/-- A candidate is disqualified: REF_LOST if it is the selected time candidate (R117), and a switch to it is abandoned (R100). -/
def disqualify (c : Nat) (s : State) : State :=
  let was := s.fjz.cand c
  let sel := decide (s.fjz.selTime = some c)
  let s := onCand c (fun k => { k with state := .disqualified, sqcEff := 7, eligibleSince := none }) s
  let s := onFjz (fun x =>
    let abandoned := x.switch.any fun w => w.target = c
    { x with switch := if abandoned then none else x.switch, selectNext := x.selectNext || abandoned,
             selFreq := if x.selFreq = some c then none else x.selFreq }) s
  if was.state = .disqualified ∨ was.state = .absent then s
  else if sel then
    onFjz Fjz.lostSelected
      (raiseFjz { code := 0x0401, herd := noHerd, object := objOf (0x4100 + c) 0,
                  waiter := s.fjz.agent.deviceId.setWidth 32 } s)
  else
    onFjz (fun x => if x.lock = .lock ∧ x.switch = none ∧ (x.selTime.all fun t => !x.eligible t) ∧ x.bestTime = none then x.enterHold
                    else x) s

/-- Loss of a candidate acts at once (R97). -/
def loseCand (c : Nat) (s : State) : State :=
  if (s.fjz.cand c).state = .absent then onCand c (fun k => { k with lost := true }) s
  else onFjz Fjz.select (disqualify c (onCand c (fun k => { k with lost := true }) s))

/-- A candidate becomes absent at once (R97): it is lost as a selection as well. -/
def dropCand (c : Nat) (s : State) : State :=
  let s := if (s.fjz.cand c).state = .absent then s else disqualify c s
  onFjz Fjz.select (onCand c (fun k => { k with state := .absent, sqcEff := 7, present := false, lost := false, wtrLeft := 0 }) s)

/-- What a quality just received, or assigned to a FREQ input, brings: 7 disqualifies at once; a parent's is effective at once
(R97, R105). -/
def actReceived (c : Nat) (s : State) : State :=
  let k := s.fjz.cand c
  if k.received = 7 then (if k.state = .absent then s else onFjz Fjz.select (disqualify c s))
  else if k.typ = typParent then onFjz Fjz.select (onCand c (fun k => { k with sqcEff := k.effective }) s)
  else s

/-- A received quality. -/
def setReceived (c : Nat) (sqc : Nat) (s : State) : State :=
  actReceived c (onCand c (fun k => { k with sqcRecv := BitVec.ofNat 8 sqc }) s)

/-! ## The loop (R95, R96) -/

/-- Tracking and acquisition bandwidth of a type, in mHz (Table 4.7). -/
def loopRow (k : Cand) : Nat × Nat :=
  if k.typ = typPtp then (10, 1000) else if k.typ = typPps then (100, 1000) else if k.typ = typParent then (100000, 1000000)
  else (10000, 10000)

/-- Bandwidth and damping factor that the chip follows a candidate by (R95). -/
def Fjz.loopParams (x : Fjz) (c : Nat) : Nat × Nat :=
  let w := loopRow (x.cand c)
  if x.lock = .acq then (w.2, 1) else (w.1, 5)

/-- The selected time candidate disciplines the loop: not in HOLD or FREE, nor during a bridged switch (Table 4.8). -/
def Fjz.followsTime (x : Fjz) : Bool :=
  decide (x.lock = .acq ∨ x.lock = .lock) && !(x.switch.any fun w => w.bridged && !w.freq)

/-- The selected time candidate steers phase, and frequency too where no frequency candidate is selected (R96). -/
def Fjz.steerPhase (e : Int) (x : Fjz) : Fjz :=
  match x.selTime with
  | some c =>
    if x.followsTime then
      let w := x.loopParams c
      { x with fcw := Config.loopWord w.1 w.2 e x.selFreq.isNone x.fcw }
    else x
  | none => x

/-- The selected frequency candidate steers frequency (R96). -/
def Fjz.steerFreq (x : Fjz) : Fjz :=
  match x.selFreq with
  | some c =>
    let w := x.loopParams c
    { x with fcw := Config.freqWord w.1 w.2 (x.cand c).freqErr.toInt x.fcw }
  | none => x

/-! ## Qualification (R97) -/

/-- |a| / tol is at least n / d. -/
def atLeast (a : Int) (tol n d : Nat) : Bool := decide (n * tol ≤ a.natAbs * d)

/-- Twice the phase that a candidate is judged by: its own change, or how the other qualified time candidates appear to move. -/
def Fjz.judgedPhase2 (x : Fjz) (c : Nat) : Int :=
  let k := x.cand c
  if !k.isTime ∨ k.state = .disqualified then 0
  else if x.selTime = some c then
    let others := (List.range nCands).filter fun d => decide (d ≠ c) && x.hasCand d && (x.cand d).isTime &&
      decide ((x.cand d).state = .qualified)
    if 2 ≤ others.length then median2 (others.map fun d => ((x.cand d).phase - (x.cand d).baseline).natAbs) else 0
  else 2 * (k.phase - k.baseline)

/-- The counts over, high and low of one evaluation. -/
def Fjz.countCand (x : Fjz) (c : Nat) (k : Cand) : Cand :=
  let fTol := 1000 * k.freqTol.toNat
  let f := k.freqErr.toInt
  let p2 := x.judgedPhase2 c
  let pTol := 2 * k.phaseTol.toNat
  let ge (n d : Nat) : Bool := atLeast f fTol n d || (k.isTime && atLeast p2 pTol n d)
  let le (n d : Nat) : Bool := decide (f.natAbs * d ≤ n * fTol) && (!k.isTime || decide (p2.natAbs * d ≤ n * pTol))
  { k with nOver := if ge 1 1 then k.nOver + 1 else 0, nHigh := if ge 1 2 then k.nHigh + 1 else 0,
           nLow := if le 1 4 then k.nLow + 1 else 0 }

/-- The remaining wait, cut to HOLD_WTR_S in HOLD and FREE (R98). -/
def Fjz.cutWait (x : Fjz) (k : Cand) : Nat :=
  if x.lock = .hold ∨ x.lock = .free then min k.wtrLeft.toNat x.holdWtr.toNat else k.wtrLeft.toNat

/-- What the procedure of R97 does with a candidate's state after the counts. -/
def qualifyState (c : Nat) (s : State) : State :=
  let k := s.fjz.cand c
  match k.state with
  | .qualified =>
    if 4 ≤ k.nOver then disqualify c s else if 10 ≤ k.nHigh then onCand c (fun k => { k with state := .demoted }) s else s
  | .demoted =>
    if 4 ≤ k.nOver then disqualify c s else if 60 ≤ k.nLow then onCand c (fun k => { k with state := .qualified }) s else s
  | .disqualified =>
    if 1 ≤ k.nLow then onCand c (fun k => { k with state := .waiting, wtrLeft := k.wtr, baseline := k.phase, phaseErr := 0 }) s else s
  | .waiting =>
    if 1 ≤ k.nOver then disqualify c s
    else
      let left := s.fjz.cutWait k - 1
      onCand c (fun k => { k with wtrLeft := BitVec.ofNat 32 left, state := if left = 0 then .qualified else k.state }) s
  | .absent => s

/-- One evaluation of one candidate. -/
def qualify (c : Nat) (s : State) : State :=
  let k := s.fjz.cand c
  let configured := decide (k.typ ≠ 0 ∧ k.priority ≠ 0) && s.fjz.hasCand c
  if k.state = .absent ∧ !(configured && k.present) then s
  else
    let s := if k.state = .absent then onCand c (fun k => { k with state := .disqualified }) s else s
    let s :=
      if k.lost ∨ k.received = 7 then disqualify c s
      else qualifyState c (onFjz (fun x => { x with cands := x.cands.upd {} c (x.countCand c) }) s)
    onCand c (fun k => { k with sqcEff := k.effective }) s

/-- The second's measurement of a candidate: it is present, or lost. -/
def measure (m : CandMeas) (s : State) : State :=
  if m.present then
    onCand m.cand (fun k => { k with present := true, lost := false, phase := m.phasePs, freqErr := i64 m.freqErr,
                                     phaseErr := i64 (m.phasePs - k.baseline) }) s
  else onCand m.cand (fun k => { k with lost := k.lost || decide (k.state ≠ .absent) }) s

end Sys2Proof.Machine
end

