-- ==== Sys2Proof/Machine/ChipOps.lean ====
section
/-! DEFINITION. The tine contexts of a Fjouz chip (R187 to R207, R367): rounds and their window, tags, combining, failures, twin
pairs, results on their way down, and moves to the other plane. -/

namespace Sys2Proof.Machine

/-! ## Configuration of a context (Table 7.2) -/

def cfOp (e : BitVec 256) : Nat := fldN e 0 4
def cfLen (e : BitVec 256) : Nat := fldN e 4 7
def cfTop (e : BitVec 256) : Bool := bitOf e 11
def cfMembers (e : BitVec 256) : BitVec 64 := fld e 32 64
def cfTwin (e : BitVec 256) (i : Nat) : BitVec 13 := fld e (96 + 13 * i) 13
/-- Member dies below a context. -/
def cfBelow (e : BitVec 256) : Nat := fldN e 148 24

/-- The twin pairs as (primary port, backup port). -/
def cfTwins (e : BitVec 256) : List (Nat × Nat) :=
  ((List.range 4).map (cfTwin e)).filterMap fun t => if bitOf t 12 then some (fldN t 0 6, fldN t 6 6) else none

/-- Member slots in ascending order. -/
def cfSlots (e : BitVec 256) : List Nat := (List.range 64).filter fun i => (cfMembers e).getLsbD i

/-- The pair of a port. -/
def cfPair (e : BitVec 256) (p : Nat) : Option (Nat × Nat) := (cfTwins e).find? fun t => decide (t.1 = p ∨ t.2 = p)

/-- The slot that cells from a port enter: its own, or its primary's. -/
def cfSlot (e : BitVec 256) (p : Nat) : Option Nat :=
  if p < 64 ∧ (cfMembers e).getLsbD p then some p else ((cfTwins e).find? fun t => decide (t.2 = p)).map (·.1)

/-- Ports to which results go: member ports and the backups of twin pairs. -/
def cfPorts (e : BitVec 256) : List Nat :=
  (List.range 64).filter fun i => (cfMembers e).getLsbD i || (cfTwins e).any fun t => decide (t.2 = i)

def ctxObj (n : Nat) : U32 := objOf 0x7300 n

/-- The occupant of a slot: the part at the other end of the port. -/
def occupant (s : State) (p : Nat) : U32 := (port s .fjz p).peerId

/-! ## Rounds -/

/-- Buffer of round b or b + 1. -/
def TineCtx.round (k : TineCtx) (i : Nat) : Round := if i = 0 then k.r0 else k.r1
def TineCtx.setRound (k : TineCtx) (i : Nat) (r : Round) : TineCtx := if i = 0 then { k with r0 := r } else { k with r1 := r }

def onRound (n i : Nat) (f : Round → Round) : State → State := onCtx n fun k => k.setRound i (f (k.round i))

/-- Slots of a round without an arrival, in ascending order. -/
def TineCtx.emptySlots (k : TineCtx) (i : Nat) : List Nat :=
  (cfSlots k.config).filter fun sl => (k.round i).cells.get none sl = none

/-- Tag of the context's cells; zero where it holds none. -/
def TineCtx.run (k : TineCtx) : U8 := (k.tag.map (·.1)).getD 0
def TineCtx.gen (k : TineCtx) : BitVec 4 := (k.tag.map (·.2)).getD 0

/-- The window advances: the result is kept for two rounds more (R189, R191). -/
def TineCtx.advance (c : Cell) (k : TineCtx) : TineCtx :=
  { k with b := k.b + 1, kept2 := k.kept1, kept1 := some c, winners2 := k.winners1, winners1 := k.r0.winners, r0 := k.r1, r1 := {} }

/-- A result as one port of the context receives it (R187, R202): ADDR from the port map, and GRANT for a twin pair. -/
def TineCtx.forPort (k : TineCtx) (winners : Tbl (Option Nat)) (p : Nat) (c : Cell) : Cell :=
  let c := { c with hdr := putN c.hdr 32 24 (k.map.get 0xFFFF p).toNat }
  match cfPair k.config p with
  | some t =>
    match winners.get none t.1 with
    | some w => { c with body := putBit c.body 37 (decide (w = p)) }
    | none => c
  | none => c

/-- A result goes to every member port. -/
def spreadResult (n : Nat) (bypass : Bool) (c : Cell) (s : State) : State :=
  let k := s.fjz.ctx n
  forAll (cfPorts k.config) (fun p s => sendOn .fjz p bypass (k.forPort k.r0.winners p c) s) s

/-- The outcome of round b leaves, and with it the held one of the round after it (R191). -/
def sendOutcome (n : Nat) (bypass : Bool) (c : Cell) (s : State) : State :=
  let s := onCtx n (TineCtx.advance c) (spreadResult n bypass c s)
  match (s.fjz.ctx n).r0.state, (s.fjz.ctx n).r0.outcome with
  | .held, some o => onCtx n (TineCtx.advance o) (spreadResult n false o s)
  | _, _ => s

/-- A top context completes or fails a round: it leaves at once, or is held behind round b. -/
def topOutcome (n i : Nat) (c : Cell) (s : State) : State :=
  if i = 0 then sendOutcome n false c s
  else onRound n i (fun r => { r with state := .held, outcome := some c, cells := [] }) s

/-- A result of the context for one of its rounds. -/
def ctxResult (k : TineCtx) (kind : BitVec 4) (i : Nat) (echoed : Bool) (cause : BitVec 3) (members origin : Id24) (p : Payload) :
    Cell :=
  mkResult 0 kind (cfOp k.config) (k.b + BitVec.ofNat 16 i) k.run k.gen false echoed .a cause (cfLen k.config) k.herdId members
    origin p

/-- The port on which tine traffic goes up: never a standby parent's (R16). -/
def Fjz.tineParent (x : Fjz) : Option Nat := if x.role = 1 then some 64 else if x.role = 2 then some 71 else none

def sendTineUp (c : Cell) (s : State) : State :=
  match s.fjz.tineParent with
  | some p => send .fjz p c s
  | none => s

/-- A partial of the context for one of its rounds. -/
def ctxPartial (s : State) (k : TineCtx) (kind : BitVec 4) (i : Nat) (cause : BitVec 3) (members : Id24) (deadline : U64)
    (origin : Id24) (p : Payload) : Cell :=
  mkArrival k.parent.toNat kind (cfOp k.config) (k.b + BitVec.ofNat 16 i) k.run k.gen false cause
    (cfLen k.config) k.herdId members deadline (if kind = kArrival then s.fjz.agent.deviceId else origin) p

/-- The round is sent and its cells are kept no more. -/
def markSent (n i : Nat) : State → State := onRound n i fun r => { r with state := .sent, cells := [], twinFail := [] }

/-- The chip is the top of the herd's tree. -/
def Fjz.isTop (x : Fjz) (herd : Id24) : Bool :=
  x.resvs.any fun r => r.committed && decide (r.herdId = herd ∧ r.span.toNat + 1 = x.role.toNat)

/-- A round of a herd has failed here: the dies named in the failed round before it are kept for R230. -/
def noteFailed (n : Nat) (round : U16) (s : State) : State :=
  let k := s.fjz.ctx n
  let key := (n, k.run, round)
  if !s.fjz.isTop k.herdId then s
  else
    onSteward k.herdId (fun w =>
      if w.failKey = some key then w else { w with failKey := some key, namedBefore := w.named, named := [] }) s

/-- An EMPTY or OPEN round fails (Table 7.6, R193). -/
def failCtx (n i : Nat) (cause : BitVec 3) (origin : Id24) (deadline : U64) (s : State) : State :=
  let k := s.fjz.ctx n
  let r := k.round i
  let s := noteFailed n (k.b + BitVec.ofNat 16 i) s
  if r.state = .sent ∨ r.state = .held then s
  else if cfTop k.config then topOutcome n i (ctxResult k kFailed i false cause 0 origin 0) s
  else
    let dl := if r.state = .open ∧ r.deadline.toNat < deadline.toNat then r.deadline else deadline
    markSent n i (sendTineUp (ctxPartial s k kFailed i cause 0 dl origin 0) s)

/-- A record of the tines by this chip, about a context (Table 7.10). -/
def raiseCtx (n : Nat) (code : U16) (waiter : U32) (round : U16) (detail : BitVec 3) (s : State) : State :=
  raiseFjz { code := code, halts := true, herd := (s.fjz.ctx n).herdId, object := ctxObj n, waiter := waiter, round := round,
             detail := detail.setWidth 16 } s

/-- Hall time of the chip in whole ns. -/
def chipNs (s : State) : Nat := nsOf s.fjz.now

/-- ORIGIN_ID of a round that fails here: the occupant of its lowest empty member slot (R193). Where every slot is filled the rule
names none (log 6). -/
def failOrigin (s : State) (n i : Nat) : Id24 :=
  match (s.fjz.ctx n).emptySlots i with
  | sl :: _ => (occupant s sl).setWidth 24
  | [] => (Config.unstatedWaiter 0x0704).setWidth 24

/-- A word of the round's buffer or of the context's template entry reads back uncorrectable: never combined or forwarded (Table
7.5). -/
def roundUncorrectable (n i : Nat) (deadline : U64) (s : State) : State :=
  failCtx n i fcUncorrectable (failOrigin s n i) deadline
    (raiseCtx n 0x0704 allOnes32 ((s.fjz.ctx n).b + BitVec.ofNat 16 i) fcUncorrectable s)

/-- Every member slot of a round is filled: its value goes up, or down as the result (R189, R198). -/
def completeRound (n i : Nat) (s : State) : State :=
  let k := s.fjz.ctx n
  let r := k.round i
  let cells := (List.range 64).map fun sl => r.cells.get none sl
  let value := (combineTree (cfOp k.config) (cfLen k.config) (cells.map fun c => c.map cPayload)).getD 0
  let members : Id24 := BitVec.ofNat 24 ((cells.map fun c => match c with | some c => (cMembers c).toNat | none => 0).sum)
  if cfTop k.config then topOutcome n i (ctxResult k kResult i false 0 members 0 value) s
  else markSent n i (sendTineUp (ctxPartial s k kArrival i 0 members r.deadline 0 value) s)

/-! ## Tags (R190) and the window (R189) -/

/-- A newer tag makes the context abandon every round and lose its place; it is active again (R367). -/
def TineCtx.adopt (run : U8) (gen : BitVec 4) (k : TineCtx) : TineCtx :=
  { k with tag := some (run, gen), unsynced := true, active := true, r0 := {}, r1 := {}, kept1 := none, kept2 := none,
           winners1 := [], winners2 := [] }

/-- How a cell's tag compares with the context's. -/
inductive TagView where
  | older | same | newer
  deriving DecidableEq, Repr

def TineCtx.tagView (k : TineCtx) (run : U8) (gen : BitVec 4) : TagView :=
  match k.tag with
  | none => .newer
  | some (r, g) =>
    if run ≠ r then (if newer run r then .newer else .older)
    else if gen ≠ g then (if newer gen g then .newer else .older)
    else .same

/-- A tine cell reaches a context: discarded on an older tag, else it fixes tag and round of an UNSYNCED context, and `f` acts. -/
def tagged (n : Nat) (c : Cell) (f : State → State) (s : State) : State :=
  let k := s.fjz.ctx n
  match k.tagView (cRun c) (cGen c) with
  | .older => onFjz (fun x => { x with tagDiscards := bump x.tagDiscards }) s
  | v =>
    let s := if v = .newer then onCtx n (TineCtx.adopt (cRun c) (cGen c)) s else s
    f (onCtx n (fun k => if k.unsynced then { k with b := cRound c, unsynced := false } else k) s)

def countStale (s : State) : State := onFjz (fun x => { x with staleDiscards := bump x.staleDiscards }) s
def countTwinLate (s : State) : State := onFjz (fun x => { x with twinLate := bump x.twinLate }) s
def countDup (s : State) : State := onFjz (fun x => { x with dupDiscards := bump x.dupDiscards }) s

/-- A port is the loser's of a twin pair under the winners of a round (R202). -/
def TineCtx.lostTwin (k : TineCtx) (winners : Tbl (Option Nat)) (p : Nat) : Bool :=
  match cfPair k.config p with
  | some t => match winners.get none t.1 with
    | some w => decide (w ≠ p)
    | none => false
  | none => false

/-- A stale arrival is answered with the kept result on its own port, REPLAY set (R189); that of a twin pair's loser is discarded
(R204). -/
def answerStale (n p : Nat) (round : U16) (s : State) : State :=
  let k := s.fjz.ctx n
  let again (c : Option Cell) (w : Tbl (Option Nat)) : State :=
    if k.lostTwin w p then countTwinLate s
    else match c with
    | some c => send .fjz p (k.forPort w p { c with body := putBit c.body 36 true }) s
    | none => countStale s
  if round = k.b - 1 then again k.kept1 k.winners1 else if round = k.b - 2 then again k.kept2 k.winners2 else countStale s

/-- OP, LEN and HERD_ID of a cell are the context's (Table 7.5). -/
def formatOk (k : TineCtx) (c : Cell) : Bool :=
  decide (cOp c = cfOp k.config ∧ cLen c = cfLen k.config ∧ cHerd c = k.herdId)

/-- An arrival cell of a context from one of its ports: membership, tag, window and format, and then `f slot i` in round b + i
(R189, R190). -/
def intoRound (p : Nat) (c : Cell) (f : Nat → Nat → State → State) (s : State) : State :=
  let n := fldN c.hdr 32 13
  match cfSlot (s.fjz.ctx n).config p with
  | none => onFjz (fun x => { x with nonmember := bump x.nonmember }) s
  | some slot =>
    tagged n c (fun s =>
      let k := s.fjz.ctx n
      let d := (cRound c - k.b).toNat
      if 32768 ≤ d then (if cKind c = kResync then s else answerStale n p (cRound c) s)
      else if 2 ≤ d then
        failCtx n 0 fcOverrun ((occupant s p).setWidth 24) (aDeadline c) (raiseCtx n 0x0701 (occupant s p) k.b fcOverrun s)
      else if !formatOk k c then
        failCtx n d fcFormat (failOrigin s n d) (aDeadline c) (raiseCtx n 0x0705 (occupant s p) (cRound c) fcFormat s)
      else f slot d s) s

/-! ## Arrivals (Table 7.6) -/

/-- TINE_ABANDON to the losing die of a twin pair (R188, R202). -/
def sendAbandon (n loser : Nat) (round : U16) (winner : U32) (s : State) : State :=
  let k := s.fjz.ctx n
  send .fjz loser (mkCell tAbandon (k.map.get 0xFFFF loser).toNat 3
    (pack 448 [(8, 16, round.toNat), (24, 8, k.run.toNat), (32, 4, k.gen.toNat), (48, 24, k.herdId.toNat), (72, 24, winner.toNat)])) s

/-- The winner of a twin slot is fixed and its partner told. -/
def grantTwin (n i slot p : Nat) (round : U16) (s : State) : State :=
  match cfPair (s.fjz.ctx n).config p with
  | none => s
  | some t =>
    let loser := if t.1 = p then t.2 else t.1
    sendAbandon n loser round (occupant s p) (onRound n i (fun r => { r with winners := r.winners.set none slot (some p) }) s)

/-- A leaf writes 1 to MISMATCH_IN of a die (R227). -/
def reportMismatch (die : U32) (s : State) : State := emit (.report (die.setWidth 24) 0x8000 5 (leBytes 4 1)) s

/-- The loser's arrival meets an open round: it is compared with the winner's (R204). -/
def compareTwin (n p : Nat) (win : Cell) (c : Cell) (s : State) : State :=
  if cPayload win = cPayload c then countTwinLate s
  else
    let k := s.fjz.ctx n
    let s := raiseFjz { code := 0x0706, herd := k.herdId, object := ctxObj n, waiter := occupant s p, round := cRound c }
      (onFjz (fun x => { x with twinMismatches := bump x.twinMismatches }) s)
    match cfPair k.config p with
    | some t => reportMismatch (occupant s t.2) (reportMismatch (occupant s t.1) s)
    | none => s

/-- The deadline of a round with one more cell. -/
def joinDeadline (r : Round) (dl : U64) : U64 := if r.state = .open ∧ r.deadline.toNat ≤ dl.toNat then r.deadline else dl

/-- An arrival takes its slot in an EMPTY or OPEN round, or is a duplicate or the loser of a pair. -/
def storeArrival (n p slot i : Nat) (c : Cell) (bad : Bool) (s : State) : State :=
  let k := s.fjz.ctx n
  let r := k.round i
  let twin := (cfPair k.config p).isSome
  if r.state = .sent ∨ r.state = .held then (if twin then countTwinLate s else countStale s)
  else if bad then roundUncorrectable n i (joinDeadline r (aDeadline c)) s
  else
    match r.cells.get none slot with
    | some w => if twin ∧ r.winners.get none slot ≠ some p then compareTwin n p w c s else countDup s
    | none =>
      let s := onRound n i (fun r => { r with state := .open, cells := r.cells.set none slot (some c),
                                              deadline := joinDeadline r (aDeadline c) }) s
      let s := grantTwin n i slot p (cRound c) s
      if ((s.fjz.ctx n).emptySlots i).isEmpty then completeRound n i s else s

/-- A FAILED arrival (R191, R203). -/
def storeFailed (n p slot i : Nat) (c : Cell) (s : State) : State :=
  let k := s.fjz.ctx n
  let r := k.round i
  let fail (s : State) : State := failCtx n i (aCause c) (aOrigin c) (aDeadline c) s
  match cfPair k.config p with
  | none =>
    if r.state = .sent ∨ r.state = .held then countStale s
    else if r.cells.get none slot ≠ none then countDup s
    else fail s
  | some t =>
    if r.state = .sent ∨ r.state = .held ∨ r.cells.get none slot ≠ none then countTwinLate s
    else if r.twinFail.contains (if t.1 = p then t.2 else t.1) then fail s
    else onRound n i (fun r => { r with state := .open, deadline := joinDeadline r (aDeadline c),
                                        twinFail := if r.twinFail.contains p then r.twinFail else r.twinFail ++ [p] }) s

/-- A RESYNC completes its round with the echoed outcome, in any state of the round (R207). -/
def storeResync (n i : Nat) (c : Cell) (s : State) : State :=
  let k := s.fjz.ctx n
  if cfTop k.config then
    let out := if aCause c = 0 then ctxResult k kResult i true 0 (cMembers c) 0 (cPayload c)
      else ctxResult k kFailed i true (aCause c) 0 (aOrigin c) 0
    topOutcome n i out s
  else
    markSent n i (sendTineUp (ctxPartial s k kResync i (aCause c) (cMembers c) (aDeadline c) (aOrigin c) (cPayload c)) s)

/-! ## Results on their way down (R187, R191) -/

/-- A result from the parent for round b is forwarded by bypass to every member port and kept; any other is discarded. -/
def forwardResult (c : Cell) (s : State) : State :=
  let n := fldN c.hdr 32 13
  let k := s.fjz.ctx n
  if !k.inUse ∨ cfTop k.config then countStale s
  else
    tagged n c (fun s =>
      if cRound c = (s.fjz.ctx n).b then sendOutcome n true c s else countStale s) s

/-! ## Moves (R205, R367) -/

/-- Contexts that no reservation holds, in ascending number. -/
def Fjz.freeCtxs (x : Fjz) : List Nat :=
  let used := x.resvs.flatMap (·.ctxs)
  (List.range 8192).filter fun n => !used.contains n

/-- Contexts that committed reservations of a herd hold on this chip. -/
def Fjz.herdCtxs (x : Fjz) (herd : Id24) : List Nat :=
  (x.resvs.filter fun r => r.committed && decide (r.herdId = herd)).flatMap (·.ctxs)

/-- The herds that hold a committed reservation here. -/
def Fjz.herdsHeld (x : Fjz) : List Id24 := ((x.resvs.filter fun r => r.committed).map (·.herdId)).eraseDups

/-- The first active context of a herd. -/
def Fjz.activeCtx (x : Fjz) (herd : Id24) : Option Nat := (x.herdCtxs herd).find? fun n => (x.ctx n).active

/-- Member ports of a herd on this chip. -/
def Fjz.herdPorts (x : Fjz) (herd : Id24) : List Nat :=
  let ps := (x.herdCtxs herd).flatMap fun n => cfPorts (x.ctx n).config
  (List.range 64).filter fun p => ps.contains p

/-- Ports of a spine on which a leaf follows it as its standby parent or may come to: UP, with SENDER_PORT 65 (R9, R16). Which of them
has adopted it the spine does not see: a leaf takes pronks and HALTs from the parent that it follows (log 64). -/
def Fjz.standbyPorts (x : Fjz) : List Nat :=
  if x.role ≠ 2 then [] else (List.range 71).filter fun p =>
    let q := x.ports.get {} p
    decide (q.state = .up ∧ q.peerPort = 65)

/-- Ports on which a cell of a herd goes down: those given and, each once, the ports of standby leaves. -/
def Fjz.withStandby (x : Fjz) (ps : List Nat) : List Nat := ps ++ x.standbyPorts.filter fun p => !ps.contains p

/-- Every context of a herd becomes inactive (R367). -/
def deactivate (herd : Id24) (s : State) : State :=
  forAll (s.fjz.herdCtxs herd) (fun n s => onCtx n (fun k => { k with active := false }) s) s

/-- The plane that is not this chip's. -/
def Fjz.otherPlane (x : Fjz) : Plane := if x.plane = 0 then .b else .a

/-- GEN of a MOVE that a context sends: one more than its tag's, or zero. -/
def TineCtx.nextGen (k : TineCtx) : BitVec 4 := match k.tag with | some t => t.2 + 1 | none => 0

/-- Number of the receiver on a member port of a herd (R187): from the port map of the first context that serves the port. -/
def Fjz.receiverOn (x : Fjz) (herd : Id24) (p : Nat) : Nat :=
  match (x.herdCtxs herd).find? fun n => (cfPorts (x.ctx n).config).contains p with
  | some n => ((x.ctx n).map.get 0xFFFF p).toNat
  | none => 0xFFFF

/-- A MOVE result of a context goes to every member port of the herd. -/
def moveDown (herd : Id24) (n : Nat) (s : State) : State :=
  let k := s.fjz.ctx n
  forAll (s.fjz.herdPorts herd) (fun p s =>
    send .fjz p (mkResult (s.fjz.receiverOn herd p) kResultMove (cfOp k.config) 0 k.run k.nextGen false false s.fjz.otherPlane 0 0
      herd 0 0 0) s) s

/-- A MOVE arrival goes up. -/
def moveUp (herd : Id24) (n : Nat) (s : State) : State :=
  let k := s.fjz.ctx n
  sendTineUp (mkArrival 0 kMove (cfOp k.config) 0 k.run k.nextGen false 0 0 herd 0 0 s.fjz.agent.deviceId 0) s

/-- The chip originates a MOVE of a herd whose path port p is down (R205). -/
def originateMove (herd : Id24) (p : Nat) (down : Bool) (s : State) : State :=
  match s.fjz.activeCtx herd with
  | none => s
  | some n =>
    let gen := (s.fjz.ctx n).nextGen
    let s := if down ∨ s.fjz.isTop herd then moveDown herd n s else moveUp herd n s
    deactivate herd
      (raiseFjz { code := 0x0707, herd := herd, object := ctxObj 0, waiter := occupant s p, detail := gen.setWidth 16 } s)

/-- A port of a chip has gone down: every herd whose path it carries is moved. -/
def chipMoves (p : Nat) (s : State) : State :=
  forAll s.fjz.herdsHeld (fun herd s =>
    if s.fjz.tineParent = some p then (if s.fjz.isTop herd then s else originateMove herd p true s)
    else if (s.fjz.herdPorts herd).contains p ∧ s.fjz.childPorts.contains p then originateMove herd p false s
    else s) s

/-- A MOVE arrival: passed up, or answered by the top with a MOVE result to every member port (R205). -/
def takeMoveUp (c : Cell) (s : State) : State :=
  let herd := cHerd c
  match s.fjz.activeCtx herd with
  | none => s
  | some n => deactivate herd (if s.fjz.isTop herd then moveDown herd n s else sendTineUp c s)

/-- A MOVE result from the parent goes on to every member port (R187, R205). -/
def takeMoveDown (c : Cell) (s : State) : State :=
  let herd := cHerd c
  deactivate herd (forAll (s.fjz.herdPorts herd) (fun p s =>
    sendOn .fjz p true { c with hdr := putN c.hdr 32 24 (s.fjz.receiverOn herd p) } s) s)

/-- This plane is the home plane of a herd, as its reservation was committed (R367). -/
def Fjz.homeHere (x : Fjz) (herd : Id24) : Bool := x.resvs.any fun r => r.committed && r.home && decide (r.herdId = herd)

/-- LEAF_STANDBY_ADOPT (R16, R205): the leaf moves every herd that has this plane as its home plane. -/
def adoptStandby (s : State) : State :=
  forAll (s.fjz.herdsHeld.filter s.fjz.homeHere) (fun herd s => originateMove herd 64 true s) s

/-- A leaf follows its standby parent, or switches to it. -/
def Fjz.onStandby (x : Fjz) : Bool :=
  decide (x.role = 1) && (decide (x.selTime = some 9) || x.switch.any fun w => decide (w.target = 9) && !w.freq)

/-- A change of a chip's references, with the adoption of a standby parent that it brings about. -/
def withAdoption (f : State → State) (s : State) : State :=
  let s' := f s
  if s'.fjz.onStandby && !s.fjz.onStandby then adoptStandby s' else s'

end Sys2Proof.Machine
end

