-- ==== Sys2Proof/Machine/LinkOps.lean ====
section
/-! DEFINITION. The sync port's state machine (R72 to R75, R366): training, link-up, what going down abandons and sets off, and the
position address of a die (R10, R11). -/

namespace Sys2Proof.Machine

/-- Causes of LINK_DOWN (R86). -/
def dcLockLost : U8 := 1
def dcRetryExhausted : U8 := 2
def dcVersionNone : U8 := 3
def dcTrainFail : U8 := 4
def dcRemoteFault : U8 := 5
def dcRoleMismatch : U8 := 6
def dcPlaneMismatch : U8 := 7
def dcPeerChanged : U8 := 8

/-- The port may leave DISABLED: a die's port of a configured plane (R351), a powered port of a Fjouz chip whose self-test passed
and whose ROLE is set (R8, R9, R348). -/
def portFree (s : State) (d : Dev) (p : Nat) : Bool :=
  match d with
  | .tsu => s.tsu.works && s.tsu.configured (if p = 0 then .a else .b)
  | .fjz => s.fjz.works && decide (s.fjz.role ≠ 0) && s.fjz.powered p

/-- What a link that is not up holds: nothing in flight and nothing held (R71). A position address that its parent gave stays
known (R10). -/
def quietPort (x : Port) : Port :=
  { x with rxLock := false, rfFromPeer := true, heard := false, slots := 0, cwHeader := 0, txq := [], p2Held := [], p3Last := [],
           onLane := none, lseqTx := [], lseqRx := [], replay := [], heldRx := [], gaps := [], t12 := none, t3 := none,
           lastBleat := none }

/-- A port starts training (Table 3.6). -/
def startTrain (d : Dev) (p : Nat) (s : State) : State :=
  onPort d p (fun x => { quietPort x with state := .train, since := counterOf s d, ownId := (agent s d).deviceId }) s

/-- A port of a part: 0 and 1 on a TSU, 0 to 71 on a Fjouz chip (R8). -/
def portOk (d : Dev) (p : Nat) : Bool :=
  match d with
  | .tsu => decide (p < 2)
  | .fjz => decide (p < 72)

/-! ## Going down (R71) -/

/-- Both planes are there to be compared (R260, Table 14.3): dual-plane configuration, and both ports UP. -/
def bothPlanes (s : State) : Bool := decide (s.tsu.tc.planeConfig = 0) && isUp s .tsu 0 && isUp s .tsu 1

/-- With no second plane there is no offset between planes: it reads zero, and is measured anew when the plane is back (R260). -/
def forgetOffset (s : State) : State :=
  onTc (fun tc => { tc with planeOffset := 0, planeDrift := 0, driftHigh := 0, driftLow := 0 }) s

/-- What the loss of a link that was UP sets off on its part: the die's choice of plane and its own moves (R113, R205), a chip's
parent candidate and the moves of the herds whose path it carried (R97, R205). -/
def afterDown (d : Dev) (p : Nat) (s : State) : State :=
  match d with
  | .tsu => forgetOffset (forAll s.tsu.held (moveOff p) (reselect 0 s))
  | .fjz =>
    let s := match s.fjz.portCand p with
      | some c => withAdoption (loseCand c) s
      | none => s
    chipMoves p s

/-- A port leaves its state for another in which the link is not up. -/
def takeDown (d : Dev) (p : Nat) (st : PortState) (s : State) : State :=
  let was := (port s d p).state
  let s := onPort d p (fun x => { quietPort x with state := st, since := counterOf s d }) s
  if was = .up then afterDown d p s else s

/-- The record of a port (R86). -/
def portRecord (x : Port) (p : Nat) (code detail : U16) : ErrRec :=
  { code := code, herd := noHerd, object := objOf (portIndex p) 0,
    waiter := if x.peerHello = none then allOnes32 else x.peerId, detail := detail }

/-- LINK_DOWN with its cause, and VERSION_NONE beside it where that is the cause (R74, R86). -/
def recordDown (d : Dev) (p : Nat) (cause : U8) (s : State) : State :=
  let s := onPort d p (fun x => { x with downCause := cause, linkDowns := bump x.linkDowns }) s
  let s := raiseOn d (portRecord (port s d p) p 0x0301 (cause.setWidth 16)) s
  if cause = dcVersionNone then raiseOn d (portRecord (port s d p) p 0x0302 0) s else s

/-- The link goes down for a cause: recorded, and the port waits in DOWN_HOLD. -/
def linkDown (d : Dev) (p : Nat) (cause : U8) (s : State) : State := takeDown d p .downHold (recordDown d p cause s)

/-- The port acts on its PORT_ENABLE (Table 3.6, R336, R351). -/
def actEnable (d : Dev) (p : Nat) (s : State) : State :=
  let x := port s d p
  if x.enable && portFree s d p then (if x.state = .disabled then startTrain d p s else s)
  else if x.state = .disabled then s
  else takeDown d p .disabled s

/-- PORT_ENABLE of a port is written: the next training failure is recorded again (R366). -/
def setEnable (d : Dev) (p : Nat) (on : Bool) (s : State) : State :=
  actEnable d p (onPort d p (fun x => { x with enable := on, trainFailSeen := x.trainFailSeen && !on }) s)

/-! ## HELLO (Table 3.7) -/

def hFraming (b : BitVec 448) : BitVec 16 := fld b 0 16
def hTime (b : BitVec 448) : BitVec 16 := fld b 16 16
def hTine (b : BitVec 448) : BitVec 16 := fld b 32 16
def hDict (b : BitVec 448) : BitVec 16 := fld b 48 16
def hSender (b : BitVec 448) : Id24 := fld b 64 24
def hRole (b : BitVec 448) : Nat := fldN b 88 2
def hPlane (b : BitVec 448) : Nat := fldN b 90 1
def hAck (b : BitVec 448) : Bool := bitOf b 91
def hPosValid (b : BitVec 448) : Bool := bitOf b 92
def hPort (b : BitVec 448) : U8 := fld b 96 8
def hPosition (b : BitVec 448) : U16 := fld b 104 16

/-- Versions that every interface of this generation supports: version 1. -/
def ownVersions : BitVec 16 := 1

/-- The highest version that both support, zero for none (R74). -/
def commonVersion (theirs : BitVec 16) : Nat :=
  ((List.range 16).filter fun i => (ownVersions &&& theirs).getLsbD i).foldl (fun _ i => i + 1) 0

/-- NEG_VERSIONS that a HELLO gives. -/
def negotiated (b : BitVec 448) : BitVec 64 :=
  pack 64 [(0, 16, commonVersion (hFraming b)), (16, 16, commonVersion (hTime b)), (32, 16, commonVersion (hTine b)),
    (48, 16, commonVersion (hDict b))]

/-- ROLE of a part: 0 die, 1 leaf, 2 spine, 3 root. -/
def roleOf (s : State) : Dev → Nat
  | .tsu => 0
  | .fjz => s.fjz.role.toNat

/-- ROLE that the other end of a port must have (R8, R9). -/
def peerRole (s : State) (d : Dev) (p : Nat) : Nat :=
  match d with
  | .tsu => 1
  | .fjz => if s.fjz.parentPorts.contains p then s.fjz.role.toNat + 1 else s.fjz.role.toNat - 1

/-- PLANE of a port: that of a die's port number, or the chip's. -/
def planeOf (s : State) (d : Dev) (p : Nat) : Nat :=
  match d with
  | .tsu => p
  | .fjz => s.fjz.plane.toNat

/-- The position address that a parent gives below a child port, as far as known (R75). -/
def childPosition (s : State) (p : Nat) : Option U16 :=
  let own (q : Nat) : Option U16 := (port s .fjz q).position
  if s.fjz.role = 3 then some (BitVec.ofNat 16 (p * 4096))
  else if s.fjz.role = 2 then (own 71).map fun a => putN a 6 6 p
  else if s.fjz.role = 1 then (own 64).map fun a => putN a 0 6 p
  else none

/-- The position address that a plane now gives a die: that of its port, while UP. -/
def diePosition (s : State) (p : Nat) : Option U16 := if isUp s .tsu p then (port s .tsu p).position else none

/-- POSITION and POS_VALID of a HELLO: from a parent what lies below the port, from a child its own. -/
def sentPosition (s : State) (d : Dev) (p : Nat) : Option U16 :=
  match d with
  | .tsu => (diePosition s 0).or (diePosition s 1)
  | .fjz => if s.fjz.parentPorts.contains p then (port s .fjz (if s.fjz.role = 1 then 64 else 71)).position else childPosition s p

/-- The HELLO of a port. -/
def helloCell (s : State) (d : Dev) (p : Nat) : Cell :=
  let pos := sentPosition s d p
  mkCell tHello 0 4 (pack 448 [(0, 16, ownVersions.toNat), (16, 16, ownVersions.toNat), (32, 16, ownVersions.toNat),
    (48, 16, ownVersions.toNat), (64, 24, (port s d p).ownId.toNat), (88, 2, roleOf s d), (90, 1, planeOf s d p),
    (91, 1, b2n (port s d p).heard), (92, 1, b2n pos.isSome), (96, 8, p), (104, 16, (pos.getD 0).toNat)])

/-- The position address on a port after a HELLO: that of its active parent, which a chip keeps while the parent does not know
its own (R10, R75). -/
def heardPosition (s : State) (d : Dev) (p : Nat) (b : BitVec 448) : Option U16 :=
  match d with
  | .tsu => if hPosValid b then some (hPosition b) else none
  | .fjz =>
    if !(decide (p = 64 ∨ p = 71) && s.fjz.parentPorts.contains p) then none
    else if hPosValid b then some (hPosition b) else (port s .fjz p).position

/-- A die compares the position addresses of its planes (R11): POSITION_MISMATCH is recorded at a link-up at which they differ, and
as they come to differ while both links are up; it stands until they agree. -/
def comparePosition (linkUp : Bool) (s : State) : State :=
  let a := diePosition s 0
  let b := diePosition s 1
  let s := onTsu (fun t => { t with position := (a.or b).getD t.position }) s
  match a, b with
  | some x, some y =>
    if x = y then onTsu (fun t => { t with mismatch := false }) s
    else if s.tsu.mismatch && !linkUp then s
    else
      raise { code := 0x0101, herd := noHerd, object := Config.unstatedObject 0x0101, waiter := Config.unstatedWaiter 0x0101,
              round := Config.unstatedRound 0x0101 }
        (onTsu (fun t => { t with mismatch := true }) s)
  | _, _ => s

/-- A HELLO is kept: who the peer is, and the position it gives. -/
def keepHello (d : Dev) (p : Nat) (b : BitVec 448) (s : State) : State :=
  onPort d p (fun x => { x with peerHello := some b, heard := true, peerId := (hSender b).setWidth 32, peerPort := hPort b }) s

/-- The link comes UP (Table 3.6). -/
def linkUp (d : Dev) (p : Nat) (b : BitVec 448) (s : State) : State :=
  let pos := heardPosition s d p b
  let s := onPort d p (fun x =>
    { x with state := .up, since := counterOf s d, negVer := negotiated b, position := pos, trainFailSeen := false }) s
  match d with
  | .tsu => comparePosition true s
  | .fjz => s

/-- A HELLO in HELLO: a version, role or plane that does not fit takes the link down; ACK brings it up. -/
def takeHello (d : Dev) (p : Nat) (b : BitVec 448) (s : State) : State :=
  let s := keepHello d p b s
  if commonVersion (hFraming b) = 0 ∨ commonVersion (hTime b) = 0 then linkDown d p dcVersionNone s
  else if hRole b ≠ peerRole s d p then linkDown d p dcRoleMismatch s
  else if hPlane b ≠ planeOf s d p then linkDown d p dcPlaneMismatch s
  else if hAck b then linkUp d p b s
  else s

/-- SENDER_ID, ROLE, PLANE and SENDER_PORT of a HELLO (R73). -/
def helloIdentity (b : BitVec 448) : Id24 × Nat × Nat × U8 := (hSender b, hRole b, hPlane b, hPort b)

/-- A HELLO while UP: a change of the peer takes the link down; a position that has become known is taken. -/
def hearAgain (d : Dev) (p : Nat) (b : BitVec 448) (s : State) : State :=
  if (port s d p).peerHello.map helloIdentity ≠ some (helloIdentity b) then linkDown d p dcPeerChanged s
  else
    let pos := heardPosition s d p b
    let s := onPort d p (fun x => { x with position := pos }) (keepHello d p b s)
    match d with
    | .tsu => comparePosition false s
    | .fjz => s

/-! ## Retry (R68 to R70) -/

/-- A RETRY_REQ for a codeword leaves (R69). -/
def askRetry (d : Dev) (p : Nat) (cw : BitVec 12) (s : State) : State :=
  send d p (mkCell tRetryReq cw.toNat 0 0) (onPort d p (fun x => { x with retryCount := bump x.retryCount }) s)

/-- One step of at most 8 ps towards a newly measured latency (R80). -/
def latencyStep (old new : U32) : U32 :=
  if new.toNat < old.toNat then BitVec.ofNat 32 (old.toNat - min 8 (old.toNat - new.toNat))
  else BitVec.ofNat 32 (old.toNat + min 8 (new.toNat - old.toNat))

/-- The latencies of a port take a step towards those last measured (R80). -/
def stepLatencies (x : Port) : Port :=
  { x with txLat := latencyStep x.txLat x.txMeasured, rxLat := latencyStep x.rxLat x.rxMeasured }

/-- Codewords since the one of a number began, seen from the slot count of the transmitter. -/
def codewordAge (x : Port) (cw : BitVec 12) : Nat := (BitVec.ofNat 12 (x.slots / 10) - cw).toNat

/-- The cells of the replay buffer that a codeword carried go out again (R69). -/
def resend (d : Dev) (p : Nat) (cw : BitVec 12) (s : State) : State :=
  let again := (port s d p).replay.filter fun r => r.cws.contains cw
  onPort d p (fun x =>
    { x with txq := x.txq ++ again.map fun r =>
        { cell := { r.cell with hdr := putBit r.cell.hdr 11 true, contHdr := if r.cell.pair then putBit r.cell.contHdr 11 true else r.cell.contHdr }, retry := true, ready := counterOf s d } }) s

end Sys2Proof.Machine
end

