-- ==== Sys2Proof/Machine/BoundaryOps.lean ====
section
/-! DEFINITION. What the boundary commands share (13_boundary_startup.md): the two resets, the safe state after a failed
self-test, the blocks that on-demand self-test may take, the broken seal and the life-cycle fuses. -/

namespace Sys2Proof.Machine

/-! ## Resets (R335, R346) -/

/-- What fuses and OTP hold of a dictionary agent (R335, R344, R345). -/
def fusedAgent (a : Agent) : Agent :=
  { deviceId := a.deviceId, serial := a.serial, lcFuses := a.lcFuses, secKey := a.secKey, secKeyValid := a.secKeyValid }

/-- What fuses and OTP hold of the meter core (R275, R279). -/
def fusedMeter (m : Meter) : Meter :=
  { sealFuses := m.sealFuses, breakFuses := m.breakFuses, otp := m.otp, key := m.key, cert := m.cert }

/-- A port right after reset; its medium is the integrator's (R56). -/
def freshPort (x : Port) : Port := { media := x.media }

/-- A bank as a reset leaves it: with its power request gone the scratchpad controller wakes one that is OFF, and every other stays or
becomes ON with its contents (R332). -/
def bankAfterReset : BankState → BankState
  | .off => .waking
  | .waking => .waking
  | .on => .on
  | .draining => .on

/-- A region right after a reset of the TSU. -/
def freshRegion (r : Region) : Region := { banks := r.banks.mapAll .on fun _ b => bankAfterReset b }

/-- The TSU right after a reset: reset values, and what fuses and OTP hold (Table 13.8). -/
def resetTsu (t : Tsu) : Tsu :=
  { agent := fusedAgent t.agent, meter := fusedMeter t.meter, ppsDelay := t.ppsDelay,
    ports := t.ports.mapAll {} fun _ x => freshPort x, regions := t.regions.mapAll {} fun _ r => freshRegion r }

/-- Commands for a part that still waited on the tick, and records that it has staged, are gone with its reset. -/
def dropWaiting (d : Dev) (s : State) : State :=
  { s with later := s.later.filter fun i => !(placeOf i).any fun y => decide (y.dev = d),
           staged := if d = .tsu then [] else s.staged }

/-- The Fjouz chip in reset (R346). -/
def resetFjz (x : Fjz) : Fjz :=
  { agent := fusedAgent x.agent, ports := x.ports.mapAll {} fun _ x => freshPort x }

/-- METER_PARAMS at power-on: of the highest seal fuse blown if sealed, else the defaults of Table 10.7 (R279). -/
def bootParams (m : Meter) : BitVec 64 := if m.isSealed then m.otp.get 0 m.sealFuses else 60

/-- RESET to INIT (Table 13.9): fuses and OTP are read, SEC_BOOT_ID is drawn (R318), and the meter core counts its fuses and logs
BOOT (R279). -/
def startInit (s : State) : State :=
  let s := onTsu (fun t =>
    { t with phase := .init, pwrGood := true,
             agent := { t.agent with bootId := (Config.entropy s.free).setWidth 24 },
             meter := { t.meter with params := bootParams t.meter } }) { s with free := s.free + 1 }
  onTsu (fun t => logTamper 1 t.meter.sealFuses t.meter.breakFuses t) s

/-! ## Self-test (R338 to R342) -/

/-- Number of self-test blocks (Table 13.11). -/
def bistBlocks : Nat := 20

/-- The blocks that a mask selects, in ascending number. -/
def blocksIn (mask : U32) : List Nat := ((List.range bistBlocks).filter fun i => bitOf mask i).map (· + 1)

/-- A block may be tested on demand in the present state (Table 13.11). -/
def blockAllowed (t : Tsu) (n : Nat) : Bool :=
  if n = 1 ∨ n = 19 ∨ n = 20 then false
  else if n = 2 then decide ((t.ports.get {} 0).state = .disabled)
  else if n = 3 then decide ((t.ports.get {} 1).state = .disabled)
  else if 13 ≤ n ∧ n ≤ 17 then !t.meter.isSealed
  else true

/-- BIST_FAIL (Table 13.12). -/
def bistFail (die : Id24) (ht : HT) (n : Nat) (waiter : U32) : ErrRec :=
  { code := 0x0B01, secure := true, ht := ht, die := die, herd := noHerd, object := BitVec.ofNat 32 (0xB1000000 + n),
    waiter := waiter, detail := BitVec.ofNat 16 n }

/-- The safe state (R340): every block in reset but the self-test controller and the boundary registers. -/
def faultHold (n : Nat) (ht : HT) (waiter : U32) (t : Tsu) : Tsu :=
  { resetTsu t with
      phase := .faultHold, pwrGood := true, postPassed := t.postPassed, failedBlock := BitVec.ofNat 8 n,
      intStatus := t.intStatus ||| (1#32 <<< irqFault), intEnable := t.intEnable,
      postRecord := bistFail t.agent.deviceId ht n waiter, bistMask := t.bistMask, bistSave := t.bistSave, bistUs := t.bistUs,
      postUs := t.postUs, bistPasses := t.bistPasses }

/-- BIST_SAVE names banks of a service region that are all ON (R341). -/
def saveBanksOn (t : Tsu) : Bool :=
  let r := fldN t.bistSave 0 8
  let first := fldN t.bistSave 8 8
  let count := fldN t.bistSave 16 8
  decide (48 ≤ r ∧ r ≤ 51 ∧ 1 ≤ count ∧ first + count ≤ 16) &&
    (List.range count).all fun i => decide ((t.region r).banks.get .on (first + i) = .on)

/-- The conditions of R341 other than the secure world. -/
def bistReady (t : Tsu) (bankBytes : Nat) : Bool :=
  let lc := lcState t.agent
  (decide (lc = 1 ∨ lc = 3) ||
    (decide (lc = 2) && t.held.all fun h => decide ((t.herd h).state = .left))) &&
  decide (t.phase = .run ∧ t.bistMask ≠ 0) && (blocksIn t.bistMask).all (blockAllowed t) &&
  saveBanksOn t && decide (2621440 ≤ bankBytes)

/-! ## The seal and the life cycle (R282, R344) -/

/-- The next break fuse is blown: logged, and recorded by SEAL_BROKEN (R282, Table 10.9). -/
def breakSeal (cause : Nat) (s : State) : State :=
  let s := onMeter (fun m => { m with breakFuses := m.breakFuses + 1 }) s
  let n := s.tsu.meter.breakFuses
  raiseMeter 0x0A02 0xA0000000 (BitVec.ofNat 32 cause) noHerd n (onTsu (logTamper 3 n cause) s)

/-- The signing key is generated into OTP (R275): a value of the entropy source brought into the range of P-256 keys. -/
def makeKey (s : State) : State :=
  onMeter (fun m => { m with key := some (BitVec.ofNat 256 ((Config.entropy s.free).toNat % (n256 - 1) + 1)) })
    { s with free := s.free + 1 }

/-- What LC_ADVANCE to a target needs (Table 13.13): the target's own state and event. -/
def lcReady (d : Dev) (window : Bool) (target : Nat) (s : State) : Bool :=
  let a := agent s d
  let lc := lcState a
  let whole := decide (d = .fjz)
  decide (a.lcPending = none) &&
    (if target = 1 then decide (lc = 0) && window
     else if target = 2 then
       decide (lc = 1 ∧ a.deviceId ≠ 0) && a.secKeyValid && (whole || s.tsu.meter.cert.isSome)
     else if target = 3 then decide (lc = 1 ∨ lc = 2) && (whole || s.tsu.allFree)
     else false)

/-- What an accepted LC_ADVANCE does at once (Table 13.13): the fuse begins to be programmed; a TSU makes its key, or breaks its seal
if it is sealed and a break fuse is left. -/
def lcStart (d : Dev) (target : Nat) (s : State) : State :=
  let s := onAgent d (fun a =>
    { a with lcPending := if target = 1 then some 0 else if target = 2 then some 1 else some 2 }) s
  match d with
  | .fjz => s
  | .tsu =>
    if target = 1 then makeKey s
    else if target = 3 ∧ s.tsu.meter.isSealed ∧ s.tsu.meter.breakFuses < 32 then breakSeal 2 s
    else s

end Sys2Proof.Machine
end

