-- ==== Sys2Proof/Machine/Boundary.lean ====
section
/-! DEFINITION. The commands of the block boundary (13_boundary_startup.md): power, reset, self-test, interrupts, the life cycle, and the
start of a Fjouz chip. -/

namespace Sys2Proof.Machine

/-! ## Power and start-up (Table 13.9) -/

/-- POWER_GOOD (R328, R336). -/
def execPowerGood (s : State) : Result := perform true (fun s => if s.tsu.pwrGood then s else startInit s) s

/-- POWER_ON_RESET (R328): the TSU is held in RESET. -/
def execPowerOnReset (s : State) : Result := perform true (fun s => dropWaiting .tsu (onTsu resetTsu s)) s

/-- WARM_RESET (R335): a secure WARM, or the Ruavo's own warm reset; the rails are held, so INIT follows. -/
def execWarmReset (secure byRuavo : Bool) (s : State) : Result :=
  perform true (fun s => if s.tsu.pwrGood && (secure || byRuavo) then startInit (dropWaiting .tsu (onTsu resetTsu s)) else s) s

/-- INIT_DONE (R336): POST begins; a residual skew above 26 ps is recorded (R28). -/
def execInitDone (skewPs : U16) (s : State) : Result :=
  perform true (fun s =>
    if s.tsu.phase ≠ .init then s
    else
      let s := onTsu (fun t => { t with phase := .post, tc := { t.tc with spineSkew := skewPs } }) s
      if 26 < skewPs.toNat then
        raise { code := 0x0201, herd := noHerd, object := objOf 0x2460 0, waiter := Config.unstatedWaiter 0x0201,
                round := Config.unstatedRound 0x0201, detail := skewPs } s
      else s) s

/-- POST_DONE (R336, R338, R340): `failed` is the failing block, zero for a pass. -/
def execPostDone (failed : U8) (waiter durationUs : U32) (s : State) : Result :=
  perform (decide (failed.toNat ≤ bistBlocks)) (fun s =>
    if s.tsu.phase ≠ .post then s
    else
      let s := onTsu (fun t => { t with postUs := durationUs }) s
      if failed = 0 then
        actEnable .tsu 1 (actEnable .tsu 0 (onTsu (fun t => { t with phase := .run, postPassed := true }) s))
      else dropWaiting .tsu (onTsu (faultHold failed.toNat 0 waiter) s)) s

/-! ## On-demand self-test (R341, R342) -/

/-- BIST_START: every write that R341 does not accept is refused with STATE. -/
def wBistStart (v : U8) (bankBytes : Nat) : WriteOp :=
  { index := 0xB100, sub := 3, access := .rws, size := 1, bytes := [v],
    ready := fun s => decide (v = 1) && bistReady s.tsu bankBytes,
    apply := onTsu fun t =>
      { t with phase := .onDemand, bistSel := t.bistMask, bistState := 1, bistUs := 0,
               bistBlock := BitVec.ofNat 8 ((blocksIn t.bistMask).headD 0) } }

def execBistStart (q : Req) (v : U8) (bankBytes : Nat) (s : State) : Result :=
  perform true (inTurn (.bistStart q v bankBytes) (agentWrite .tsu q (wBistStart v bankBytes))) s

/-- BIST_BLOCK_DONE (R342): the next selected block, the end of the test, or the safe state. -/
def execBistBlockDone (testOk restoreOk : Bool) (waiter us : U32) (s : State) : Result :=
  perform true (fun s =>
    if s.tsu.phase ≠ .onDemand then s
    else
      let t := { s.tsu with bistUs := s.tsu.bistUs + us }
      let n := t.bistBlock.toNat
      if !(testOk && restoreOk) then dropWaiting .tsu { s with tsu := faultHold n t.now waiter t }
      else
        match (blocksIn t.bistSel).find? (fun k => decide (n < k)) with
        | some k => { s with tsu := { t with bistBlock := BitVec.ofNat 8 k } }
        | none =>
          let t := { t with phase := .run, bistState := 2, bistBlock := 0, bistSel := 0, bistPasses := bump t.bistPasses }
          { s with tsu := setIrq t irqBistDone }) s

/-! ## Interrupts (R333) -/

/-- INT_STATUS: `v` is written, `sameTick` are the bits whose events fall on the same tick, and `enable` is a write of INT_ENABLE that
comes with it. Both registers hold 9 bits. -/
def execIntStatus (v sameTick : U32) (enable : Option U32) (s : State) : Result :=
  perform true (fun s =>
    if !s.tsu.pwrGood then s
    else
      onTsu (fun t =>
        { t with intStatus := t.intStatus &&& ~~~(v &&& ~~~sameTick),
                 intEnable := match enable with | some e => e &&& 0x1FF | none => t.intEnable }) s) s

/-! ## The life cycle (R344, R345) -/

/-- LC_ADVANCE with its 8 octets: TARGET, three reserved, CONFIRM. -/
def wLcAdvance (d : Dev) (q : Req) (v : Bytes) : WriteOp :=
  let target := ofLe (v.take 1)
  { index := 0xB000, sub := 2, access := .rws, size := 8, bytes := v,
    ready := fun s =>
      decide (ofLe (v.drop 4) = 0x4C430000 + target) && lcReady d (decide (q.src = .window)) target s,
    apply := lcStart d target }

/-- The octets of LC_ADVANCE. -/
def lcBytes (target : Nat) (confirm : U32) : Bytes := leBytes 8 (target + confirm.toNat * 2 ^ 32)

def execLcProvision (d : Dev) (q : Req) (confirm : U32) (s : State) : Result :=
  perform true (inTurn (.lcProvision d q confirm) (agentWrite d q (wLcAdvance d q (lcBytes 1 confirm)))) s

def execLcDeploy (d : Dev) (q : Req) (confirm : U32) (s : State) : Result :=
  perform true (inTurn (.lcDeploy d q confirm) (agentWrite d q (wLcAdvance d q (lcBytes 2 confirm)))) s

def execLcReturn (d : Dev) (q : Req) (confirm : U32) (s : State) : Result :=
  perform true (inTurn (.lcReturn d q confirm) (agentWrite d q (wLcAdvance d q (lcBytes 3 confirm)))) s

/-- LC_FUSE_PROGRAMMED: LC_STATE and LC_FUSES show the fuse. -/
def execLcFuseProgrammed (d : Dev) (s : State) : Result :=
  perform true (onAgent d fun a =>
    match a.lcPending with
    | some i => { a with lcFuses := a.lcFuses ||| (1#3 <<< i.val), lcPending := none }
    | none => a) s

/-- SEC_KEY: PROVISIONED, by a secure window write, once (R345). -/
def wSecKey (d : Dev) (q : Req) (key : BitVec 256) : WriteOp :=
  { index := 0xB000, sub := 3, access := .wo, size := 32, bytes := bvBytes key,
    ready := fun s =>
      decide (lcState (agent s d) = 1 ∧ q.src = .window) && !(agent s d).secKeyValid,
    apply := onAgent d fun a => { a with secKey := key, secKeyValid := true } }

def execSecKey (d : Dev) (q : Req) (key : BitVec 256) (s : State) : Result :=
  perform true (inTurn (.secKey d q key) (agentWrite d q (wSecKey d q key))) s

/-! ## The Fjouz chip (R346, R348) -/

/-- FJZ_RESET_RELEASE: self-test begins, and SEC_BOOT_ID is drawn. -/
def execFjzResetRelease (s : State) : Result :=
  perform true (fun s =>
    if s.fjz.rstN then s
    else
      onFjz (fun x => { x with rstN := true, selfTest := .running,
                               agent := { x.agent with bootId := (Config.entropy s.free).setWidth 24 } })
        { s with free := s.free + 1 }) s

/-- FJZ_RESET_ASSERT. -/
def execFjzResetAssert (s : State) : Result := perform true (fun s => dropWaiting .fjz (onFjz resetFjz s)) s

/-- FJZ_SELFTEST_DONE: `failed` is the failing block of R348, zero for a pass. -/
def execFjzSelftestDone (failed : U8) (waiter durationUs : U32) (mgmtOk : Bool) (s : State) : Result :=
  perform (decide (failed.toNat ≤ 7)) (onFjz fun x =>
    if !x.rstN ∨ x.selfTest ≠ .running then x
    else if failed = 0 then { x with selfTest := .passed, mgmtOk := mgmtOk, postUs := durationUs }
    else
      let x := { x with selfTest := .failed, mgmtOk := mgmtOk, postUs := durationUs }
      if mgmtOk then fjzRecord { bistFail x.agent.deviceId 0 failed.toNat waiter with fjouz := true } x else x) s

/-- FIRMWARE_LOADED: the management processor has its firmware, after the self-test. -/
def execFirmwareLoaded (version : U32) (s : State) : Result :=
  perform true (onFjz fun x =>
    if x.rstN && x.mgmtOk && decide (x.selfTest ≠ .running) then { x with firmware := true, fwVersion := version } else x) s

/-- Every port of the chip is DISABLED. -/
def Fjz.portsOff (x : Fjz) : Bool := (List.range 72).all fun p => decide ((x.ports.get {} p).state = .disabled)

/-- ROLE: each port then acts on PORT_ENABLE (R348). -/
def wRole (v : U8) : WriteOp :=
  { index := 0x1000, sub := 7, access := .rws, size := 1, bytes := [v],
    ready := fun s => s.fjz.portsOff, range := fun _ => decide (1 ≤ v.toNat ∧ v.toNat ≤ 3),
    apply := fun s => forAll (List.range 72) (actEnable .fjz) (onFjz (fun x => { x with role := v }) s) }

def execRole (q : Req) (v : U8) (s : State) : Result := perform true (inTurn (.role q v) (agentWrite .fjz q (wRole v))) s

end Sys2Proof.Machine
end

