-- ==== Sys2Proof/Machine/HealthOps.lean ====
section
/-! DEFINITION. The health score of a die and the steward of a herd (R226 to R232). -/

namespace Sys2Proof.Machine

/-! ## The health score (R226, Tables 8.1, 8.2) -/

/-- One step of an accumulator, saturating. -/
def healthAcc (a : U32) (x : Nat) : U32 :=
  BitVec.ofNat 32 (min (a.toNat - a.toNat / 64 + 1024 * min x 65535) (2 ^ 32 - 1))

/-- Weight and cap of input i of HEALTH_POLICY. -/
def healthPenalty (policy : BitVec 192) (i : Nat) (a : U32) : Nat :=
  min (fldN policy (32 * i + 16) 16) (fldN policy (32 * i) 16 * a.toNat / 65536)

/-- Penalty of the lateral disagreement. -/
def lateralPenalty (t : Tsu) : Nat :=
  if (t.links.filter fun e => decide (e.2.state = 4)).length < 4 then 0
  else min (fldN t.healthPolicy 144 16) ((t.tc.latMedian.toInt.natAbs - fldN t.healthPolicy 128 16) / 4)

/-- The update at the end of a second; the median of the lateral drifts feeds it in every configuration (R23, R260). -/
def updateHealth (t : Tsu) : Tsu :=
  let t := takeMedian t
  let sym := ([0, 1].map fun p => (t.ports.get {} p).symCorr.toNat).sum
  let cw := ([0, 1].map fun p => (t.ports.get {} p).cwUncorr.toNat).sum
  let c := t.secC + (sym - t.lastSym) / 2 ^ fldN t.healthPolicy 160 8 + 16 * (cw - t.lastCw)
  let aC := healthAcc t.accC c
  let aM := healthAcc t.accM (t.marginEvents.toNat - t.lastMargin)
  let aL := healthAcc t.accL t.secL
  let aX := healthAcc t.accX t.secX
  let ps := [healthPenalty t.healthPolicy 0 aC, healthPenalty t.healthPolicy 1 aM, healthPenalty t.healthPolicy 2 aL,
    healthPenalty t.healthPolicy 3 aX, lateralPenalty t]
  { t with accC := aC, accM := aM, accL := aL, accX := aX, secC := 0, secL := 0, secX := 0,
           lastSym := sym, lastCw := cw, lastMargin := t.marginEvents.toNat, healthAt := t.tc.frc.toNat,
           health := BitVec.ofNat 16 (1000 - ps.sum),
           penalties := pack 80 ((List.range 5).map fun i => (16 * i, 16, ps.getD i 0)) }

/-! ## The steward (R229 to R231) -/

def stewardObj : U32 := objOf 0x8800 0

/-- The steward of a herd is the active one: a plane A chip's, a plane B chip's that has taken over, or a plane B chip's in a B_ONLY
hall. -/
def Fjz.stewards_ (x : Fjz) (herd : Id24) : Bool := decide (x.plane = 0) || (x.steward herd).took || decide (Config.hallPlanes = 2)

/-- The active steward of a dual-plane hall copies its state to the other steward after a decision (R229). -/
def copySteward (herd : Id24) (s : State) : State :=
  let w := s.fjz.steward herd
  if s.fjz.stewards_ herd ∧ Config.hallPlanes = 0 then
    emit (.stewardCopy herd (w.dies.filterMap fun e => e.2.map fun x => (e.1, x)) w.decisions w.lastExpel) s
  else s

/-- A record of the steward about a die. -/
def raiseSteward (code : U16) (herd die : Id24) (round : Nat) (s : State) : State :=
  if s.fjz.stewards_ herd then
    raiseFjz { code := code, herd := herd, object := stewardObj, waiter := die.setWidth 32, round := BitVec.ofNat 16 round } s
  else s

/-- Decisions of the last 3,600 s. -/
def lastHour (now : Nat) (w : Steward) : List Nat := w.decisions.filter fun d => decide (now < d + 3600000000000)

/-- The budget allows an expulsion (R231). -/
def budgetAllows (now : Nat) (w : Steward) : Bool :=
  decide (nsOf w.lastExpel + w.interval.toNat * 1000000000 ≤ now) &&
    decide ((lastHour now w).length < max 1 (w.base.toNat * w.pct.toNat / 100))

/-- A die's row in the steward. -/
def Steward.die (w : Steward) (d : Id24) : Option (DieState × U16) := w.dies.get none d.toNat

/-- State of a die, HEALTHY where the steward has no row for it. -/
def Steward.dieState (w : Steward) (d : Id24) : DieState := ((w.die d).map (·.1)).getD .healthy

def Steward.setDie (d : Id24) (st : DieState) (h : U16) (w : Steward) : Steward :=
  { w with dies := w.dies.set none d.toNat (some (st, h)) }

/-- EXPEL_DECIDED: the decision is counted and its time kept (R230, R231). -/
def decideExpel (herd die : Id24) (cause : Nat) (health : U16) (s : State) : State :=
  let now := s.fjz.now
  copySteward herd <| raiseSteward 0x0805 herd die cause
    (onSteward herd (fun w =>
      { (w.setDie die .expelDecided health) with decisions := nsOf now :: lastHour (nsOf now) w, lastExpel := now }) s)

/-- A die has failed (R230): decided at once, whatever the budget. -/
def failDie (herd die : Id24) (cond : Nat) (s : State) : State :=
  let w := s.fjz.steward herd
  if !s.fjz.isTop herd ∨ w.dieState die = .expelDecided then s
  else decideExpel herd die 1 (((w.die die).map (·.2)).getD 0) (raiseSteward 0x0804 herd die cond s)

/-- The steward sets or clears QUARANTINED in the die's context. -/
def setQuarantine (herd die : Id24) (on : Bool) (s : State) : State :=
  if s.fjz.stewards_ herd then emit (.quarantine herd die on) s else s

/-- A suspect report (Table 8.3); a repeated one only brings the HEALTH it carries. -/
def suspectDie (herd die : Id24) (health : U16) (s : State) : State :=
  let w := s.fjz.steward herd
  if !s.fjz.isTop herd then s
  else
    match w.dieState die with
    | .healthy =>
      if budgetAllows (nsOf s.fjz.now) w then decideExpel herd die 2 health s
      else
        copySteward herd (setQuarantine herd die true
          (raiseSteward 0x0806 herd die health.toNat (onSteward herd (Steward.setDie die .quarantined health) s)))
    | .quarantined => onSteward herd (Steward.setDie die .quarantined health) s
    | .expelDecided => s

/-- A clear report (Table 8.3). -/
def clearDie (herd die : Id24) (health : U16) (s : State) : State :=
  if s.fjz.isTop herd ∧ (s.fjz.steward herd).dieState die = .quarantined then
    copySteward herd (setQuarantine herd die false
      (raiseSteward 0x0807 herd die health.toNat (onSteward herd (Steward.setDie die .healthy health) s)))
  else s

/-- The quarantined die that conversion takes first: lowest HEALTH, then lowest ID, of those whose last sample is below
HEALTH_SUSPECT. -/
def firstSuspect (limit : U16) (w : Steward) : Option (Nat × U16) :=
  let qs := w.dies.filterMap fun e =>
    match e.2 with
    | some (.quarantined, h) => if h.toNat < limit.toNat then some (e.1, h) else none
    | _ => none
  (sortBy (fun p q : Nat × U16 => decide (p.2.toNat < q.2.toNat)) qs).head?

/-- A conversion (R231). -/
def convertDie (herd : Id24) (s : State) : State :=
  let w := s.fjz.steward herd
  if s.fjz.isTop herd && budgetAllows (nsOf s.fjz.now) w then
    match firstSuspect s.fjz.healthSuspect w with
    | some (d, h) => decideExpel herd (BitVec.ofNat 24 d) 2 h s
    | none => s
  else s

/-- A TINE_TIMEOUT of this leaf names a die in a failed round: in two consecutive ones it has failed (R230). A leaf that is not the
herd's top tells the stewards. -/
def timeoutNames (n : Nat) (die : U32) (s : State) : State :=
  let herd := (s.fjz.ctx n).herdId
  if s.fjz.role ≠ 1 then s
  else if !s.fjz.isTop herd then emit (.memberReport herd 3 (die.setWidth 24)) s
  else
    let s := onSteward herd (fun w => { w with named := if w.named.contains die then w.named else w.named ++ [die] }) s
    if (s.fjz.steward herd).namedBefore.contains die then failDie herd (die.setWidth 24) 3 s else s

/-! ## Samples (R228) -/

/-- Herds that have a context on a member port. -/
def Fjz.herdsOn (x : Fjz) (p : Nat) : List Id24 := x.herdsHeld.filter fun h => (x.herdPorts h).contains p

/-- One sample of a child die: its HEALTH in the last BLEAT. -/
def samplePort (p : Nat) (s : State) : State :=
  let x := port s .fjz p
  match x.lastBleat with
  | none => s
  | some b =>
    let h : U16 := fld b.2 208 10 |>.setWidth 16
    let die : Id24 := x.peerId.setWidth 24
    let run := if h.toNat < s.fjz.healthSuspect.toNat then x.suspectRun + 1 else 0
    let clear := if s.fjz.healthWarn.toNat ≤ h.toNat ∧ x.reported then x.clearRun + 1 else 0
    let suspect := decide (s.fjz.suspectConfirm.toNat ≤ run) && !x.reported
    let cleared := decide (s.fjz.clearS.toNat ≤ clear) && x.reported
    let s := onPort .fjz p (fun x =>
      { x with suspectRun := run, clearRun := if cleared then 0 else clear, reported := (x.reported || suspect) && !cleared }) s
    let hs := s.fjz.herdsOn p
    let s := forAll hs (fun herd s =>
      if s.fjz.isTop herd ∧ (s.fjz.steward herd).die die ≠ none then
        onSteward herd (fun w => w.setDie die (w.dieState die) h) s
      else s) s
    let s := if suspect then
        forAll hs (fun herd s => emit (.healthReport true herd die h) s)
          (raiseFjz { code := 0x0803, herd := noHerd, object := objOf 0x8000 0, waiter := die.setWidth 32, round := h } s)
      else s
    if cleared then forAll hs (fun herd s => emit (.healthReport false herd die h) s) s else s

end Sys2Proof.Machine
end

