-- ==== Sys2Proof/Machine/Health.lean ====
section
/-! DEFINITION. The commands of health and expulsion (R226 to R231). -/

namespace Sys2Proof.Machine

/-- FEC symbols that a port corrected in the second now over (R87, R226). -/
def countSymbols (p n : Nat) : State → State := onPort .tsu p fun x => { x with symCorr := bumpBy x.symCorr n }

/-- HEALTH_UPDATE: every 1,000,000,000 spine ticks; `symA` and `symB` are the symbols that ports 0 and 1 corrected since the last
update. -/
def execHealthUpdate (symA symB : Nat) (s : State) : Result :=
  performOn .tsu true (fun s =>
    if s.tsu.tc.frc.toNat < s.tsu.healthAt + 1000000000 then s
    else onTsu updateHealth (countSymbols 1 symB (countSymbols 0 symA s))) s

/-- MISMATCH_IN. -/
def wMismatchIn (v : U32) : WriteOp :=
  { index := 0x8000, sub := 5, access := .wo, size := 4, bytes := bvBytes v,
    apply := onTsu fun t => { t with secX := t.secX + v.toNat } }

def execMismatchIn (q : Req) (v : U32) (s : State) : Result := perform true (inTurn (.mismatchIn q v) (agentWrite .tsu q (wMismatchIn v))) s

/-- HEALTH_SAMPLE: once per second of the leaf's hall time, every child die. -/
def execHealthSample (s : State) : Result :=
  performOn .fjz true (fun s =>
    let sec := nsOf s.fjz.now / 1000000000
    if s.fjz.role ≠ 1 ∨ s.fjz.sampledAt = some sec then s
    else forAll s.fjz.childPorts samplePort (onFjz (fun x => { x with sampledAt := some sec }) s)) s

def execSuspectReport (herd die : BitVec 24) (health : U16) (s : State) : Result :=
  performOn .fjz true (suspectDie herd die health) s

def execClearReport (herd die : BitVec 24) (health : U16) (s : State) : Result :=
  performOn .fjz true (clearDie herd die health) s

/-- REPORT_FAILED, for the herd that STEWARD_HERD selects. -/
def wReportFailed (herd : Nat) (die : U32) : WriteOp :=
  { index := 0x8800, sub := 8, access := .wo, size := 4, bytes := bvBytes die, present := fun _ => decide (herd < 2 ^ 20),
    range := fun _ => decide (die.toNat < 2 ^ 24),
    apply := failDie (BitVec.ofNat 24 herd) (die.setWidth 24) 4 }

def execReportFailed (q : Req) (die : U32) (s : State) : Result :=
  perform true (inTurn (.reportFailed q die) fun s => agentWrite .fjz q (wReportFailed (element s .fjz q 0x8800 1) die) s) s

/-- FAIL_CONFIRM_EXPIRY: both leaves have reported the die's port down for FAIL_CONFIRM_MS. -/
def execFailConfirmExpiry (herd die : BitVec 24) (s : State) : Result := performOn .fjz true (failDie herd die 1) s

def execQuarantineConvert (herd : BitVec 24) (s : State) : Result := performOn .fjz true (convertDie herd) s

/-- STEWARD_TAKEOVER: the steward of the plane B chip takes over, with the budget that it holds a copy of. -/
def execStewardTakeover (herd : BitVec 24) (s : State) : Result :=
  performOn .fjz true (fun s =>
    if s.fjz.plane = 1 ∧ s.fjz.isTop herd then onSteward herd (fun w => { w with took := true }) s else s) s

end Sys2Proof.Machine
end

