-- ==== Sys2Proof/Machine/PronkOps.lean ====
section
/-! DEFINITION. The pronk (R142 to R149): its cell and its request, the counters and the origin on a Fjouz chip, and arming, deciding and
firing on a die. -/

namespace Sys2Proof.Machine

/-! ## The PRONK body (Table 5.9) -/

def phArm : Nat := 0
def phAck : Nat := 1
def phCommit : Nat := 2
def phAbort : Nat := 3
def phStep : Nat := 4
def phCancel : Nat := 5

def kPhase (c : Cell) : Nat := fldN c.body 0 3
def kHerd (c : Cell) : Id24 := fld c.body 8 24
def kSeq (c : Cell) : U32 := fld c.body 32 32
def kFire (c : Cell) : HT := fld c.body 64 80
def kStart (c : Cell) : Nat := fldN c.body 144 20
def kEpoch (c : Cell) : U16 := fld c.body 164 16
def kTemplate (c : Cell) : U16 := fld c.body 180 16
def kReady (c : Cell) : Nat := fldN c.body 196 24
def kRefused (c : Cell) : Nat := fldN c.body 220 24
def kCount (c : Cell) : Nat := fldN c.body 244 8
def kCause (c : Cell) : BitVec 8 := fld c.body 252 8

/-- A PRONK cell of a phase. -/
def mkPronk (addr phase : Nat) (herd : Id24) (seq : U32) (fire : HT) (epoch template : U16) (rest : List (Nat × Nat × Nat)) : Cell :=
  mkCell tPronk addr 9 (pack 448 ([(0, 3, phase), (8, 24, herd.toNat), (32, 32, seq.toNat), (64, 80, fire.toNat),
    (164, 16, epoch.toNat), (180, 16, template.toNat)] ++ rest))

/-! ## The Fjouz chip (R143 to R145) -/

/-- The herd's pronk counters are reserved on this chip. -/
def Fjz.holdsHerd (x : Fjz) (herd : Id24) : Bool := x.resvs.any fun r => r.committed && decide (r.herdId = herd)

/-- Ports that lead to members under a template: those of its reservation, or of every reservation of the herd; and, on a spine,
those of the leaves that it may serve as a standby parent (R16). -/
def Fjz.pronkPorts (x : Fjz) (herd : Id24) (template : U16) : List Nat :=
  x.withStandby (match x.resvs.find? fun r => r.committed && decide (r.herdId = herd ∧ r.templateId = template) with
    | some r =>
      let ps := r.ctxs.flatMap fun n => cfPorts (x.ctx n).config
      (List.range 64).filter fun p => ps.contains p
    | none => x.herdPorts herd)

/-- A PRONK cell goes downwards to the members, by bypass unless the chip originates it (R144). -/
def pronkDown (bypass : Bool) (c : Cell) (s : State) : State :=
  sendAll .fjz (s.fjz.pronkPorts (kHerd c) (kTemplate c)) bypass c s

/-- The chip originates a PRONK cell, and keeps it in its event area (R292). -/
def pronkOriginate (c : Cell) (s : State) : State := pronkDown false c (onFjz (ownEntry c.body) s)

def PronkCtr.readySum (k : PronkCtr) : Nat := (k.ready.map (·.2)).sum
def PronkCtr.refusedSum (k : PronkCtr) : Nat := (k.refused.map (·.2)).sum

/-- The counter follows a new pronk: its fields, and no counts (R144). -/
def PronkCtr.begin (k : PronkCtr) (seq : U32) (fire : HT) (start : Nat) (epoch template : U16) (phase : Nat) : PronkCtr :=
  { k with seq := seq, origin := false, fireHt := fire, startStep := BitVec.ofNat 32 start, memberEpoch := epoch, templateId := template,
           phase := BitVec.ofNat 8 phase, ready := [], refused := [], sent := (0, 0), sentAt := k.sentAt }

/-- The origin's last word on a pronk: COMMIT, or ABORT with its cause. -/
def pronkFinal (herd : Id24) (phase : Nat) (cause : Nat) (s : State) : State :=
  let k := s.fjz.pronk herd
  pronkOriginate (mkPronk s.fjz.agent.deviceId.toNat phase herd k.seq k.fireHt k.memberEpoch k.templateId [(252, 8, cause)])
    (onPronk herd (fun k => { k with phase := BitVec.ofNat 8 phase, origin := false }) s)

/-- The origin judges the counts: ABORT on a refusal, COMMIT when every member is ready (R145). -/
def pronkJudge (herd : Id24) (s : State) : State :=
  let k := s.fjz.pronk herd
  if !k.origin then s
  else if 0 < k.refusedSum then pronkFinal herd phAbort 1 s
  else if k.readySum = k.memberCount.toNat then pronkFinal herd phCommit 0 s
  else s

/-- The sums go upwards (R144), and are kept in the event area, since the chip originates the cell (R292). -/
def pronkCounts (herd : Id24) (s : State) : State :=
  let k := s.fjz.pronk herd
  let c := mkPronk s.fjz.agent.deviceId.toNat phAck herd k.seq k.fireHt k.memberEpoch k.templateId
    [(196, 24, k.readySum), (220, 24, k.refusedSum)]
  let s := onPronk herd (fun k => { k with sent := (k.readySum, k.refusedSum), sentAt := some s.fjz.frc.toNat }) s
  sendUp false c (onFjz (ownEntry c.body) s)

/-- PRONK_STATUS (Table 5.18). -/
def pronkStatus (x : Fjz) : BitVec 128 :=
  match x.pronkHerd with
  | none => 0
  | some h =>
    let k := x.pronk h
    pack 128 [(0, 32, k.seq.toNat), (32, 32, k.readySum), (64, 32, k.refusedSum), (96, 8, k.phase.toNat)]

/-! ## PRONK_REQUEST (Table 5.18) -/

def qHerd (v : BitVec 256) : Nat := fldN v 0 32
def qSeq (v : BitVec 256) : U32 := fld v 32 32
def qFire (v : BitVec 256) : HT := fld v 64 80
def qStart (v : BitVec 256) : Nat := fldN v 144 32
def qEpoch (v : BitVec 256) : U16 := fld v 176 16
def qTemplate (v : BitVec 256) : U16 := fld v 192 16
def qMembers (v : BitVec 256) : U32 := fld v 208 32
def qPhase (v : BitVec 256) : Nat := fldN v 240 8
def qCount (v : BitVec 256) : Nat := fldN v 248 8

/-- The herd of a request, as far as it can name one. -/
def qHerdId (v : BitVec 256) : Id24 := BitVec.ofNat 24 (qHerd v)

/-- STATE: the chip is no origin of the herd, or the cancel names no pronk that it may still cancel (R143, R145). -/
def requestReady (v : BitVec 256) (s : State) : Bool :=
  let k := s.fjz.pronk (qHerdId v)
  decide (qHerd v < 2 ^ 24) &&
    (if qPhase v = phCancel then k.origin && decide (k.seq = qSeq v) else s.fjz.isTop (qHerdId v))

/-- RANGE: the fire time, the sequence number and the fields of a request (R143, R363). -/
def requestRange (v : BitVec 256) (s : State) : Bool :=
  let k := s.fjz.pronk (qHerdId v)
  if qPhase v = phCancel then true
  else
    decide (qPhase v = phArm ∨ (qPhase v = phStep ∧ 1 ≤ qCount v)) && decide (qStart v < 16384) &&
    decide (s.fjz.now.toNat + 100000 * 65536 ≤ (qFire v).toNat) &&
    (match k.accepted with
      | some last => decide (last.toNat < (qSeq v).toNat) && (k.first || decide ((qSeq v).toNat ≤ last.toNat + 127))
      | none => true)

/-- An accepted request: ARM, STEP or ABORT leaves (R144, R145). -/
def takePronkRequest (v : BitVec 256) (s : State) : State :=
  let herd := qHerdId v
  let me := s.fjz.agent.deviceId.toNat
  if qPhase v = phCancel then pronkFinal herd phAbort 2 s
  else
    let s := onFjz (fun x => { x with pronkHerd := some herd }) s
    let s := onPronk herd (fun k =>
      { k.begin (qSeq v) (qFire v) (qStart v) (qEpoch v) (qTemplate v) (qPhase v) with
          first := false, accepted := some (qSeq v), memberCount := qMembers v, origin := decide (qPhase v = phArm) }) s
    pronkOriginate (mkPronk me (qPhase v) herd (qSeq v) (qFire v) (qEpoch v) (qTemplate v)
      [(144, 20, if qPhase v = phArm then qStart v else 0), (244, 8, if qPhase v = phStep then qCount v else 0)]) s

/-! ## The die (R146 to R149) -/

def countPronkDiscard (s : State) : State := onTsu (fun t => { t with pronkDiscards := bump t.pronkDiscards }) s

/-- A template with an identity is present on the die. -/
def Tsu.hasTemplate (t : Tsu) (id : U16) : Bool := t.templates.any fun e => e.2.valid && decide (e.2.id = id)

/-- First refusal cause of Table 5.10 that applies to an ARM at a context, zero for none. -/
def armCause (t : Tsu) (h : Nat) (c : Cell) : Nat :=
  let x := t.herd h
  let ahead := (kFire c).toNat - t.now.toNat
  if !decide (x.state = .loaded ∨ x.state = .halted ∨ x.state = .done ∨ x.state = .armed) then 1
  else if kEpoch c ≠ x.memberEpoch then 2
  else if !t.hasTemplate (kTemplate c) then 3
  else if !decide (t.tc.state = .locked ∨ t.tc.state = .holdover) then 4
  else if (kFire c).toNat < t.now.toNat ∨ ahead < 30000 * 65536 ∨ 10000000000 * 65536 < ahead then 5
  else if !x.owns (kStart c) ∨ !hasGate (t.desc (kStart c)) 6 then 6
  else 0

/-- The ACK of a die leaves on both ports (R144). -/
def armAck (c : Cell) (cause : Nat) (s : State) : State :=
  sendBoth (mkPronk s.tsu.agent.deviceId.toNat phAck (kHerd c) (kSeq c) (kFire c) (kEpoch c) (kTemplate c)
    [(196, 24, b2n (decide (cause = 0))), (220, 24, b2n (decide (cause ≠ 0))), (252, 8, cause)]) s

/-- PRONK record of a context (Table 11.4): outcome 0 armed, 1 fired, 2 not fired. -/
def tapPronk (h phase outcome : Nat) (seq : U32) (fire : HT) (start : U32) (ids : U16 × U16) (count : Nat) (s : State) : State :=
  tapHerd 1 h ([BitVec.ofNat 8 phase, BitVec.ofNat 8 outcome] ++ bvBytes seq ++ bvBytes fire ++ bvBytes start ++
    bvBytes ids.1 ++ bvBytes ids.2 ++ [BitVec.ofNat 8 count] ++
    (if outcome = 1 then bvBytes (fireDigest s.tsu (s.tsu.herd h)) else [])) s

/-- The record of the armed pronk. -/
def tapArmed (h outcome : Nat) (s : State) : State :=
  let x := s.tsu.herd h
  tapPronk h phArm outcome x.seqLast x.fireHt x.startStep (x.armEpoch, x.armTemplate) 0 s

/-- A context takes a pronk's T, START_STEP and sequence number and is ARMED (Table 5.11); a halt time that it held is cleared
(R254). -/
def armHerd (h : Nat) (seq : U32) (fire : HT) (start : Nat) (ids : U16 × U16) (origin : Id24) (s : State) : State :=
  let tc := s.tsu.tc
  onHerd h (fun x =>
    { x with before := if x.state = .armed then x.before else x.state, state := .armed, fireHt := fire,
             startStep := BitVec.ofNat 32 start, seqLast := seq, originId := origin, abort := none, decidedSeq := none,
             armEpoch := ids.1, armTemplate := ids.2, badHead := false,
             fires := false, fireTick := convert tc fire, decideTick := convert tc (fire - htOfNs 2000), acted := [(0, seq)],
             halt := none, selfFault := false, haltLate := false, stoppedNow := false, releases := [],
             stepDeadline := none }) s

/-- An ARM that fails a check: refused, and an armed pronk is dropped (R146). A context in another state than those of Table 5.11
changes nothing but what it has acted on, so that the second copy is discarded (R14). -/
def refuseArm (h cause : Nat) (c : Cell) (s : State) : State :=
  let x := s.tsu.herd h
  let s := if cause = 1 then onHerd h (fun x => { x with acted := x.acted ++ [(0, kSeq c)] }) s
    else
      let s := onHerd h (fun x => { x with seqLast := kSeq c, originId := c.addr, acted := [(0, kSeq c)] }) s
      if x.state = .armed then endRun h x.before s else s
  armAck c cause s

/-- An ARM at a context that R146 lets through. -/
def takeArm (h : Nat) (c : Cell) (s : State) : State :=
  match armCause s.tsu h c with
  | 0 => armAck c 0 (tapArmed h 0 (armHerd h (kSeq c) (kFire c) (kStart c) (kEpoch c, kTemplate c) c.addr s))
  | cause => refuseArm h cause c s

/-- The phase and sequence number have been acted on. -/
def Herd.hasActed (x : Herd) (c : Cell) : Bool := x.acted.contains (BitVec.ofNat 3 (kPhase c), kSeq c)

def actOn (h : Nat) (c : Cell) : State → State :=
  onHerd h fun x => { x with acted := x.acted ++ [(BitVec.ofNat 3 (kPhase c), kSeq c)], originId := c.addr }

/-- A COMMIT or ABORT: taken by the armed pronk, late after its decision, or discarded (R146, R147). -/
def takeFinal (h : Nat) (c : Cell) (act : State → State) (s : State) : State :=
  let x := s.tsu.herd h
  if x.hasActed c then countPronkDiscard s
  else if x.decidedSeq = some (kSeq c) then
    let s := actOn h c s
    raiseHerd h 0x050B false (herdObj h) (s.tsu.herd h).originWaiter (kSeq c).toNat 0 s
  else if (x.state = .armed ∨ x.state = .committed) ∧ kSeq c = x.seqLast then act (actOn h c s)
  else countPronkDiscard s

/-- The decision (R147), with the tick of T converted once (R36): nothing more for a context that fires; any other records why, goes back to its state before ARM, and arrives
with 0 at T. -/
def decideHerd (h : Nat) (s : State) : State :=
  let x := s.tsu.herd h
  let fires := decide (x.state = .committed ∧ x.abort = none)
  let s := onHerd h (fun x => { x with decidedSeq := some x.seqLast, fires := fires }) s
  if fires then s
  else
    let s := match x.abort with
      | some cause => raiseHerd h 0x050A false (herdObj h) x.originWaiter x.seqLast.toNat cause.toNat s
      | none => raiseHerd h 0x0509 false (herdObj h) x.originWaiter x.seqLast.toNat 0 s
    let s := tapArmed h 2 s
    endRun h x.before (onHerd h (fun x =>
      { x with zeroAt := some (x.fireTick.getD (tickOf s.tsu.tc x.fireHt), x.fireHt, x.seqLast), fireTick := none,
               decideTick := none }) s)

/-- The arrival with 0 on the tick of T (R148). -/
def arriveZero (h : Nat) (fire : HT) (seq : U32) (s : State) : State :=
  let s := onHerd h (fun x => { x with zeroAt := none }) s
  if (s.tsu.herd h).state = .free then s
  else startArrive h fire false (onPart (s.tsu.herd h).startTine (firePart seq) s)

/-- The fire (R147, R183): BASE, ITER and the first descriptor; every participation starts over, on the other plane if its port is
down; the die arrives with 1. -/
def fireHerd (h : Nat) (s : State) : State :=
  let x := s.tsu.herd h
  let s := onHerd h (fun x =>
    { x with state := .running, base := x.fireHt, iter := 0, cur := x.startStep, fireTick := none, decideTick := none, fires := false,
             bnum := 0, lastGrid := none, steps := [], ahead := [], lastFl := 0, sameTick := 0, started := false, departing := none,
             openMarks := [], badHead := false }) s
  let s := tapArmed h 1 s
  let s := forAll (s.tsu.partsOf h) (fun n s => onPart n (firePart x.seqLast) s) s
  startArrive h x.fireHt true (moveIfLost h s)

/-- A STEP pronk releases the next k descriptors with grid time T_s; one that comes after the tick of T_s − 2,000 ns releases none
(R136). -/
def takeStep (h : Nat) (seq : U32) (fire : HT) (ids : U16 × U16) (count : Nat) (s : State) : State :=
  let late := decide (tickOf s.tsu.tc (fire - htOfNs 2000) < s.tsu.tc.frc.toNat)
  let s := onHerd h (fun x =>
    { x with seqLast := seq, acted := [(4, seq)],
             stepDeadline := if late then some (fire, seq) else x.stepDeadline,
             releases := if late then x.releases else x.releases ++ [(fire, count)] }) s
  tapPronk h phStep 0 seq fire 0 ids count s

end Sys2Proof.Machine
end

