-- ==== Sys2Proof/Machine/LoadOps.lean ====
section
/-! DEFINITION. Load-time admission (R150 to R153, R170, R181, R220, R233): what a die holds and has free, the checks of Table
5.15 in ascending order, the walk over the link order, and filling the participations from the template. -/

namespace Sys2Proof.Machine

/-! ## Refusals (Tables 5.15, 5.16) -/

/-- A refusal: the fields of LOAD_STATUS. CHIP_ID is this die where no other chip is concerned; a field that no rule fills
keeps its reset value, zero. -/
structure LoadFail where
  code  : Nat
  index : Nat := 0
  level : Nat := 0
  plane : Nat := 0
  chip  : Option Id24 := none
  need  : Nat := 0
  avail : Nat := 0
  deriving DecidableEq, Repr

/-- LOAD_STATUS (Table 5.16). -/
def loadStatusOf (own : Id24) (f : LoadFail) : BitVec 128 :=
  pack 128 [(0, 8, f.code), (8, 2, f.level), (10, 1, f.plane), (16, 20, f.index), (40, 24, (f.chip.getD own).toNat),
    (64, 32, f.need), (96, 32, f.avail)]

/-! ## What is held and what is free -/

/-- First element and count of what a context declares: step range, sync objects, events, participations. -/
def Herd.range (x : Herd) (kind : Nat) : Nat × Nat :=
  match kind with
  | 1 => (x.stepFirst.toNat, x.stepCount.toNat)
  | 3 => (x.syncFirst, x.syncCount)
  | 4 => (x.eventFirst, x.eventCount)
  | _ => (x.tineFirst, x.tineCount)

/-- Elements of a kind on the die (Table 12.9). -/
def capOf (kind : Nat) : Nat :=
  match kind with
  | 1 => 16384
  | 3 => nCounters
  | 4 => nEvents
  | _ => 1024

/-- The contexts that hold their declarations. -/
def Tsu.loaded (t : Tsu) : List Herd := (t.herds.filter fun e => decide (e.2.state ≠ .free)).map (·.2)

/-- Elements of a kind that no context holds (Tables 5.18, 6.8, 7.11). -/
def Tsu.freeOf (t : Tsu) (kind : Nat) : Nat := capOf kind - (t.loaded.map fun x => (x.range kind).2).sum
def Tsu.freeWatches (t : Tsu) : Nat := nWatches - (t.loaded.map Herd.watchQuota).sum
/-- LEDGER_FREE: entries in no group. -/
def Tsu.freeLedger (t : Tsu) : Nat := 65536 - (t.loaded.flatMap fun x => (List.range 15).map fun g => (x.group g).2).sum
/-- HERD_CONTEXTS_FREE. -/
def Tsu.freeContexts (t : Tsu) : Nat := 64 - t.held.length
/-- TEMPLATE_SLOTS_FREE of a cache of `cap` slots: those that hold nothing. -/
def freeTemplates (cap : Nat) (ts : Tbl Template) : Nat := cap - ts.length

/-- First element that two ranges share. -/
def shared (r q : Nat × Nat) : Option Nat :=
  if max r.1 q.1 < min (r.1 + r.2) (q.1 + q.2) then some (max r.1 q.1) else none

/-- Least element of a list. -/
def least (xs : List Nat) : Option Nat := xs.foldl (fun m x => some (match m with | some y => min x y | none => x)) none

/-- First element of a range that is not free: held by another context, or past the last of its kind. -/
def notFree (cap : Nat) (r : Nat × Nat) (others : List (Nat × Nat)) : Option Nat :=
  least ((others.filterMap (shared r)) ++ (if r.1 + r.2 ≤ cap then [] else [max r.1 cap]))

/-! ## Templates and paths -/

/-- A valid template of an identity. -/
def Tsu.template (t : Tsu) (id : U16) : Option Template :=
  (t.templates.find? fun e => e.2.valid && decide (e.2.id = id)).map (·.2)

def planeNat (p : Plane) : Nat := planePort p

def Herd.home (x : Herd) : Plane := if x.homePlane = 0 then .a else .b

/-- The confirmed reservation of a herd under a template on a plane. -/
def Tsu.pathOf (t : Tsu) (herd : Id24) (template : U16) (p : Plane) : Option PathHold :=
  t.paths.find? fun e => decide (e.herd = herd ∧ e.template = template ∧ e.plane = p)

/-- UP_CTX and PATH of a plane (Table 7.1) for template entry i. -/
def withPath (p : Plane) (draw i : Nat) (e : BitVec 256) : BitVec 256 :=
  match p with
  | .a => putBit (put e 204 13 (Config.upContext draw i)) 230 true
  | .b => putBit (put e 217 13 (Config.upContext draw i)) 231 true

/-- UP_CTX and PATH of a plane taken away. -/
def withoutPath (p : Plane) (e : BitVec 256) : BitVec 256 :=
  match p with
  | .a => putBit (putN e 204 13 0) 230 false
  | .b => putBit (putN e 217 13 0) 231 false

/-- The entry of a participation filled from template entry i, with the paths confirmed for it. -/
def filledEntry (t : Tsu) (herd : Id24) (template : U16) (i : Nat) (e : BitVec 256) : BitVec 256 :=
  [Plane.a, Plane.b].foldl (fun e p =>
    match t.pathOf herd template p with
    | some h => withPath p h.draw i e
    | none => e) (putN e 204 28 0)

/-- Every declared participation of a context is filled anew from its template (R181, R183, R220). -/
def fillParts (h : Nat) (s : State) : State :=
  let x := s.tsu.herd h
  let es := match s.tsu.template x.templateId with | some m => m | none => {}
  forAll (List.range x.tineCount) (fun i s =>
    onPart (x.tineFirst + i) (fun _ =>
      if i < es.count.toNat then
        { entry := filledEntry s.tsu (x.herdId.setWidth 24) x.templateId i (es.entries.get 0 i), plane := x.home }
      else {}) s) s

/-- PATH bits of a live context follow a reservation of the template it was filled from (R208). -/
def setPaths (h : Nat) (f : Nat → BitVec 256 → BitVec 256) (s : State) : State :=
  let x := s.tsu.herd h
  forAll (s.tsu.partsOf h) (fun n s => onPart n (fun p => { p with entry := f (n - x.tineFirst) p.entry }) s) s

/-! ## The checks that depend on membership (R152, R220) -/

/-- TEMPLATE_SLOT: the template absent and no slot free. -/
def failTemplate (t : Tsu) (template : U16) : Option LoadFail :=
  if t.template template = none ∧ freeTemplates 256 t.templates = 0 then some { code := 0x07, index := template.toNat, need := 1 } else none

/-- TINE_CONTEXT: a path not confirmed, naming the top chip of the plane (R209). -/
def failPath (s : State) (x : Herd) (template : U16) : Option LoadFail :=
  (s.tsu.planes.find? fun p => (s.tsu.pathOf (x.herdId.setWidth 24) template p).isNone).map fun p =>
    { code := 0x08, level := x.span.toNat + 1, plane := planeNat p,
      chip := some (if x.span = 0 then (port s .tsu (planePort p)).peerId.setWidth 24 else Config.topChip (planeNat p) x.span.toNat) }

/-- Reserved P1 rate limit of a port (R65, R208). -/
def p1Limit : Nat := 23437500

/-- P1_BANDWIDTH: the confirmed paths of the die on a plane load its port beyond R65 (R152, R220). -/
def failP1 (t : Tsu) : Option LoadFail :=
  let load (p : Plane) : Nat := ((t.paths.filter fun e => decide (e.plane = p)).map (·.p1)).sum
  (t.planes.find? fun p => decide (p1Limit < load p)).map fun p =>
    { code := 0x0B, index := planePort p, plane := planeNat p, need := load p, avail := p1Limit }

/-- VERSION: the tine interface not negotiated on a sync port that a path uses (R74). -/
def failVersion (s : State) : Option LoadFail :=
  (s.tsu.planes.find? fun p => decide (fldN (port s .tsu (planePort p)).negVer 32 16 = 0)).map fun p =>
    { code := 0x11, plane := planeNat p }

/-- PLANE: POSITION_MISMATCH stands (R11). -/
def failMismatch (t : Tsu) : Option LoadFail := if t.mismatch then some { code := 0x12 } else none

/-- PLANE: the home plane is not configured, or its port is not UP. -/
def failHome (s : State) (x : Herd) : Option LoadFail :=
  if s.tsu.planes.contains x.home && isUp s .tsu (planePort x.home) then none
  else some { code := 0x12, plane := planeNat x.home }

/-- The template that admission judges a herd by. In a replay the fawn check, which asks for it, is left out (R296): a herd whose template is
absent then has none but empty participations (R181). -/
def Tsu.admitTemplate (t : Tsu) (id : U16) : Option Template :=
  match t.template id with
  | some m => some m
  | none => if t.tc.state = .replayPinned then some {} else none

/-- FAWN (R224); a die that replays admits as it stands (R296). -/
def failFawn (t : Tsu) (template : U16) : Option LoadFail :=
  if t.tc.state ≠ .replayPinned ∧ (t.fawn ∨ (t.template template).isNone) then some { code := 0x13 } else none

/-- WORLD (R320): a non-secure commit of a secure context, or a non-secure context over a secure memory region. -/
def failWorld (t : Tsu) (h : Nat) (secure : Bool) : Option LoadFail :=
  let x := t.herd h
  let secureCtx := bitOf t.agent.worldHerd h
  if secureCtx && !secure then some { code := 0x15 }
  else if secureCtx then none
  else
    let mine : List (Nat × Nat × Nat) :=
      [(1, x.range 1), (3, x.range 3), (4, x.range 4), (5, x.range 5)] ++ (List.range 15).map fun g => (2, x.group g)
    let regions := t.agent.worldRegions.map fun e => (fldN e.2 0 8, fldN e.2 8 24, fldN e.2 32 24)
    let ctxs := (t.herds.filter fun e => bitOf t.agent.worldHerd e.1 && decide (e.2.state ≠ .free)).flatMap fun e =>
      [(1, e.2.range 1), (3, e.2.range 3), (4, e.2.range 4), (5, e.2.range 5)] ++ (List.range 15).map fun g => (2, e.2.group g)
    (mine.findSome? fun m => least ((regions ++ ctxs).filterMap fun r => if r.1 = m.1 then shared m.2 r.2 else none)).map fun i =>
      { code := 0x15, index := i }

/-! ## Resources of the die (R152) -/

/-- HERD_CONTEXT: the context is not FREE, or its herd is loaded in another. -/
def failContext (t : Tsu) (h : Nat) : Option LoadFail :=
  if (t.herd h).state ≠ .free then some { code := 0x01, index := h }
  else (t.ctxOf ((t.herd h).herdId.setWidth 24)).map fun k => { code := 0x01, index := k }

/-- A declared range that is not free. -/
def failRange (t : Tsu) (x : Herd) (kind code : Nat) : Option LoadFail :=
  (notFree (capOf kind) (x.range kind) (t.loaded.map fun y => y.range kind)).map fun i =>
    { code := code, index := i, need := (x.range kind).2, avail := t.freeOf kind }

/-- WATCHES. -/
def failWatches (t : Tsu) (x : Herd) : Option LoadFail :=
  if t.freeWatches < x.watchQuota then some { code := 0x05, need := x.watchQuota, avail := t.freeWatches } else none

/-- LEDGER_SLOTS: a group not free, or overlapping an earlier group of the same herd. -/
def failLedger (t : Tsu) (x : Herd) : Option LoadFail :=
  (List.range 15).findSome? fun g =>
    (notFree 65536 (x.group g) ((List.range g).map x.group ++ t.loaded.flatMap fun y => (List.range 15).map y.group)).map fun i =>
      { code := 0x09, index := i, need := (x.group g).2, avail := t.freeLedger }

/-- REGION_CONFLICT: FREE_GRID without EXCLUSIVE, or a region that another herd's declaration shuts out. -/
def failRegions (t : Tsu) (x : Herd) : Option LoadFail :=
  if x.mode = 0 ∧ !x.exclusive then some { code := 0x14 }
  else
    (least (t.loaded.flatMap fun y => if x.exclusive || y.exclusive then regionsOf (x.regionMask &&& y.regionMask) else [])).map
      fun r => { code := 0x14, index := r }

/-! ## Descriptors (R122, R123, R152, R233) -/

/-- The steps of a context's range. -/
def Herd.stepList (x : Herd) : List Nat := (List.range x.stepCount.toNat).map (x.stepFirst.toNat + ·)

/-- A participation of the herd that its template fills, where the template is known. -/
def filled (x : Herd) (tm : Option Template) (n : Nat) : Bool :=
  inRange n x.tineFirst x.tineCount &&
    match tm with
    | some m => decide (n < x.tineFirst + m.count.toNat)
    | none => true

/-- A gate is of a kind that exists, uses only what its kind has, and names a declared object (Table 5.3). -/
def gateOk (x : Herd) (tm : Option Template) (g : BitVec 48) : Bool :=
  decide (gKind g ≠ 7) && (!gConsume g || decide (gKind g = 5)) && (!decide (gKind g = 4) || decide (gStride g = 0)) &&
    match gKind g with
    | 1 => filled x tm (gObj g)
    | 2 | 3 | 4 => inRange (gObj g) x.syncFirst x.syncCount
    | 5 => inRange (gObj g) x.eventFirst x.eventCount
    | _ => true

/-- SWAP_PARTICIPATION can serve the swap actions (R233). -/
def swapPartOk (x : Herd) (tm : Option Template) : Bool :=
  filled x tm x.swapPart.toNat &&
    match tm with
    | some m =>
      let e := m.entries.get 0 (x.swapPart.toNat - x.tineFirst)
      decide (ptOp e = opSumI64 ∧ ptLen e = 16)
    | none => true

/-- The swap action of a descriptor meets R233. -/
def swapActionOk (x : Herd) (tm : Option Template) (d : Desc) : Bool :=
  decide (dSwap d ≤ 4) && (decide (dSwap d = 0) || swapPartOk x tm) &&
    match dSwap d with
    | 1 => decide (dType d = typeLaunch ∧ dDone d = 0xFFFF)
    | 2 | 4 => decide (dType d = typeNop)
    | 3 => (List.range 4).any fun k => decide (gKind (dGate d k) = 1 ∧ gObj (dGate d k) = x.swapPart.toNat)
    | _ => true

/-- A descriptor of a range passes the checks that need no other descriptor. END has no link, and only a LAUNCH completes. -/
def descOk (x : Herd) (tm : Option Template) (d : Desc) : Bool :=
  decide (dType d ≤ 3 ∧ dLedgerOp d ≤ 4 ∧ dPower d ≠ 3) && (!decide (dType d = typeLoop) || decide (dLedgerOp d = 0)) &&
    (decide (dType d = typeLoop) || decide (dPeriod d = 0)) && (decide (dType d = typeEnd) || x.owns (dNext d)) &&
    (!decide (dType d = typeLoop) || x.owns (dAlt d)) &&
    (decide (dType d ≠ typeLaunch ∨ dDone d = 0xFFFF) || inRange (dDone d) x.syncFirst x.syncCount) &&
    ((List.range 4).all fun k => gateOk x tm (dGate d k)) && swapActionOk x tm d

/-- DESCRIPTOR_INVALID: the first descriptor that was never written or breaks a check. -/
def failDesc (t : Tsu) (x : Herd) (tm : Option Template) : Option LoadFail :=
  (x.stepList.find? fun i => !t.written.contains i || !descOk x tm (t.desc i)).map fun i => { code := 0x10, index := i }

/-- A descriptor names its LEDGER_GROUP: a ledger operation, a LOOP test or a meter hook. -/
def namesGroup (d : Desc) : Bool := decide (dLedgerOp d ≠ 0 ∨ dType d = typeLoop ∨ dHooks d &&& 7 ≠ 0)

/-- STREAM_GROUPS: a descriptor names an empty group. -/
def failGroup (t : Tsu) (x : Herd) : Option LoadFail :=
  (x.stepList.find? fun i =>
    let d := t.desc i
    namesGroup d && decide (dGroup d ≠ 15 ∧ (x.group (dGroup d)).2 = 0)).map fun i => { code := 0x0A, index := i }

/-- REGION_REUSE: a region outside REGIONS, or one that a FETCH descriptor shares with another descriptor. -/
def failRegion (t : Tsu) (x : Herd) : Option LoadFail :=
  let fetches := x.stepList.filter fun i => dSwap (t.desc i) = 1
  (x.stepList.find? fun i =>
    let m := dMask (t.desc i)
    decide (m &&& ~~~x.regionMask ≠ 0) || fetches.any fun j => decide (j ≠ i ∧ m &&& dMask (t.desc j) ≠ 0)).map fun i =>
      { code := 0x0E, index := i }

/-! ## Participations (R170, R181) -/

/-- A participation's entry in the template. -/
def Template.entryList (m : Template) : List (Nat × BitVec 256) := (List.range m.count.toNat).map fun i => (i, m.entries.get 0 i)

/-- The result target lies inside the declarations. -/
def targetOk (x : Herd) (e : BitVec 256) : Bool :=
  match ptTargetKind e with
  | 0 => true
  | 1 => inRange (ptTargetObj e) x.syncFirst x.syncCount
  | 2 => inRange (ptTargetObj e) x.eventFirst x.eventCount
  | _ => false

/-- Entry i fills the participation that START_TINE names. -/
def isStart (x : Herd) (i : Nat) : Bool := decide (x.tineFirst + i = x.startTine)

/-- Template entry i passes R181 for a herd: the start tine alone has START set, and no CONTRIB_MASK (Table 7.1). -/
def entryOk (x : Herd) (i : Nat) (e : BitVec 256) : Bool :=
  opLenOk (ptOp e) (ptLen e) && decide (ptTwin e ≠ 3) && (if isStart x i then
      ptStart e && decide (ptOp e = opAnd ∧ ptLen e = 1 ∧ ptContrib e = 0) else !ptStart e && decide (ptContrib e ≠ 0)) &&
    decide ((ptContrib e ||| ptResult e) &&& ~~~x.regionMask = 0) && targetOk x e &&
    (decide (ptAbandon e = 0xFFFF) || inRange (ptAbandon e) x.eventFirst x.eventCount)

/-- START_TINE names a participation that the template fills. -/
def startTineOk (x : Herd) (m : Template) : Bool := filled x (some m) x.startTine

/-- DESCRIPTOR_INVALID of R181. -/
def failParts (x : Herd) (m : Template) : Option LoadFail :=
  if x.tineCount < m.count.toNat then some { code := 0x10, index := x.tineFirst + x.tineCount }
  else
    match m.entryList.find? fun e => !entryOk x e.1 e.2 with
    | some e => some { code := 0x10, index := x.tineFirst + e.1 }
    | none =>
      if !startTineOk x m then some { code := 0x10, index := x.startTine }
      else if inRange x.swapPart.toNat x.tineFirst x.tineCount ∧ !filled x (some m) x.swapPart.toNat then
        some { code := 0x10, index := x.swapPart.toNat }
      else none

/-- Tine timeout of entry i. -/
def entryTimeout (x : Herd) (i : Nat) (e : BitVec 256) : Nat := if isStart x i then x.startTimeout.toNat else ptTimeout e

/-- TIMEOUT_FLOOR: the herd's timeouts (R152, R170), a participation's, and a watch timeout too short for a result target. -/
def failTimeout (x : Herd) (tm : Option Template) : Option LoadFail :=
  if x.gateTimeout.toNat < 50000 ∨ x.startTimeout.toNat < 50000 ∨ x.watchMin.toNat < 40000 then some { code := 0x0F }
  else
    match tm with
    | none => none
    | some m =>
      (m.entryList.find? fun e =>
        (!isStart x e.1 && decide (ptTimeout e.2 < 50000)) ||
          (decide (ptTargetKind e.2 ≠ 0) && targetOk x e.2 && decide (x.watchMin.toNat < entryTimeout x e.1 e.2 + 10000))).map fun e =>
        { code := 0x0F, index := x.tineFirst + e.1 }

/-! ## Timing (R153, Table 5.14) -/

/-- Minimum gated period of a span. -/
def minPeriod (span : Nat) : Nat := if span = 0 then 500 else if span = 1 then 1000 else 2000
/-- Free-grid gap of a span, single cell or pair. -/
def gapOf (span : Nat) (pair : Bool) : Nat :=
  match span, pair with
  | 0, false => 640
  | 0, true => 660
  | 1, false => 1270
  | 1, true => 1310
  | _, false => 1900
  | _, true => 1960

/-- Where a branch of the walk stands: BASE, the grid time of the descriptor before with the number that share it, grid time of
the last tine-gated one, end of the last TINE_SRC, end of the last launch of each region, grid time of each group's last ledger
operation or LOOP test, the descriptors visited, and whether the branch has come past one of them again. -/
structure WalkAt where
  base : Nat := 0
  prev : Option Nat := none
  run  : Nat := 0
  gate : Option Nat := none
  src  : Option Nat := none
  ends : Tbl Nat := []
  ops  : Tbl (Option Nat) := []
  seen : List Nat := []
  again : Bool := false
  deriving DecidableEq, Repr

/-- Payload length of a participation's template entry; unknown counts as a single cell. -/
def lenOf (x : Herd) (tm : Option Template) (n : Nat) : Nat :=
  match tm with
  | some m => if filled x tm n then ptLen (m.entries.get 0 (n - x.tineFirst)) else 0
  | none => 0

/-- Participations that the TINE gates of a descriptor name. -/
def tineGates (d : Desc) : List Nat := (List.range 4).filterMap fun k => if gKind (dGate d k) = 1 then some (gObj (dGate d k)) else none

/-- Planned end of a step that starts on its grid time. -/
def stepEnd (grid : Nat) (d : Desc) : Nat := grid + dBody d + dAllow d + 4

/-- Entries a ledger operation or LOOP test of a descriptor runs over, if it names a group; CLOSE and TOKENS count as ledger operations
(R266). -/
def groupSpan (x : Herd) (d : Desc) : Option Nat :=
  if (dLedgerOp d ≠ 0 ∨ dType d = typeLoop ∨ dHooks d &&& 6 ≠ 0) ∧ dGroup d ≠ 15 then some (x.group (dGroup d)).2 else none

/-- The pair rules that a descriptor breaks as the walk reaches it. -/
def pairFails (x : Herd) (tm : Option Template) (w : WalkAt) (i : Nat) (d : Desc) : List LoadFail :=
  let grid := w.base + dOffset d
  let span := x.span.toNat
  let late (last : Option Nat) (by_ : Nat) : Bool := match last with | some g => decide (grid < g + by_) | none => false
  let fail (b : Bool) (code : Nat) : List LoadFail := if b then [{ code := code, index := i }] else []
  fail (decide (x.mode = 1) && !(tineGates d).isEmpty && late w.gate (minPeriod span)) 0x0C ++
  fail (decide (x.mode = 0) && (tineGates d).any fun n => late w.src (gapOf span (decide (32 < lenOf x tm n)))) 0x0D ++
  fail (match groupSpan x d with | some c => late (w.ops.get none (dGroup d)) (cdiv c 8 + 1) | none => false) 0x0D ++
  fail (decide (x.mode = 0 ∧ dType d = typeLaunch) && (regionsOf (dMask d)).any fun r => decide (grid < w.ends.get 0 r)) 0x0E ++
  fail (!w.again && (late w.prev 0 || (decide (w.prev = some grid) && decide (4 ≤ w.run)))) 0x10

/-- The walk past a descriptor. -/
def walkPast (x : Herd) (w : WalkAt) (i : Nat) (d : Desc) : WalkAt :=
  let grid := w.base + dOffset d
  { w with prev := some grid, run := if w.prev = some grid then w.run + 1 else 1,
           gate := if (tineGates d).isEmpty then w.gate else some grid,
           src := if dTineSrc d then some (stepEnd grid d) else w.src,
           ends := if dType d = typeLaunch then forAll (regionsOf (dMask d)) (fun r t => t.set 0 r (stepEnd grid d)) w.ends else w.ends,
           ops := if (groupSpan x d).isSome then w.ops.set none (dGroup d) (some grid) else w.ops,
           again := w.again || w.seen.contains i, seen := i :: w.seen }

/-- The walk along the link order (R152): a branch ends at END, outside the range, or once the pair into a descriptor already
visited has been checked. For the rules of R153, which look back across the loop edge past other descriptors, it goes on until a
descriptor has been visited twice. Every descriptor is visited at most twice on a branch, which bounds it. -/
def walk (t : Tsu) (x : Herd) (tm : Option Template) : Nat → Nat → WalkAt → List LoadFail
  | 0, _, _ => []
  | fuel + 1, i, w =>
    if !x.owns i then []
    else
      let d := t.desc i
      let fs := pairFails x tm w i d
      let v := walkPast x w i d
      if 2 ≤ w.seen.count i ∨ dType d = typeEnd then fs
      else if dType d = typeLoop then
        fs ++ walk t x tm fuel (dNext d) { v with base := w.base + dPeriod d } ++ walk t x tm fuel (dAlt d) v
      else fs ++ walk t x tm fuel (dNext d) (if dRebase d then { v with base := w.base + dOffset d } else v)

/-- The timing rules: the walk from every START gate with BASE zero, and the offset of each (R153). -/
def walkFails (t : Tsu) (x : Herd) (tm : Option Template) : List LoadFail :=
  let starts := x.stepList.filter fun i => hasGate (t.desc i) 6
  (starts.filterMap fun i =>
    if dOffset (t.desc i) < gapOf x.span.toNat true then some { code := 0x0D, index := i } else none) ++
  starts.flatMap fun i => walk t x tm (2 * x.stepCount.toNat + 2) i {}

/-- The first refusal of a list with a code. -/
def withCode (code : Nat) (fs : List LoadFail) : Option LoadFail := fs.find? fun f => decide (f.code = code)

/-! ## Admission -/

/-- The first failing code of Table 5.15 in ascending order. P1_BANDWIDTH of the chips is the reservation's own check (R208). -/
def admission (s : State) (h : Nat) (secure : Bool) : Option LoadFail :=
  let t := s.tsu
  let x := t.herd h
  let tm := t.admitTemplate x.templateId
  let w := walkFails t x tm
  [failContext t h, failRange t x 1 0x02, failRange t x 3 0x03, failRange t x 4 0x04, failWatches t x, failRange t x 5 0x06,
    failTemplate t x.templateId, failPath s x x.templateId].findSome? id <|>
  ([failLedger t x, failGroup t x, failP1 t, withCode 0x0C w, withCode 0x0D w, failRegion t x, withCode 0x0E w, failTimeout x tm,
    failDesc t x tm, withCode 0x10 w, tm.bind (failParts x), failVersion s, failMismatch t, failHome s x, failFawn t x.templateId,
    failRegions t x, failWorld t h secure].findSome? id)

/-- What a context keeps of its last run is gone when it is loaded anew: halt times, releases, marks and steps. -/
def freshRun (x : Herd) : Herd :=
  { x with halt := none, selfFault := false, badHead := false, haltLate := false, stoppedNow := false, departing := none,
           releases := [], stepDeadline := none, ahead := [], steps := [], openMarks := [], groupEnd := [], started := false,
           fires := false, zeroAt := none, abort := none, fireTick := none, decideTick := none, lastGrid := none, stEpoch := none,
           stCount := none, stTemplate := none, before := .loaded }

/-- A HERD_CHANGE record: 0 admission, 1 REEPOCH_COMMIT, 2 UNLOAD (Table 11.4; log 2). -/
def tapChange (h action : Nat) (s : State) : State :=
  let x := s.tsu.herd h
  tapHerd 7 h ([Config.herdAction action] ++ bvBytes x.memberEpoch ++ bvBytes x.memberCount ++ bvBytes x.templateId ++
    bvBytes x.liveEpoch) s

/-- LOAD_COMMIT takes effect (Table 5.11): every granted resource is held, or nothing is. -/
def commitLoad (h : Nat) (secure : Bool) (s : State) : State :=
  let own := s.tsu.agent.deviceId
  match admission s h secure with
  | some f => onHerd h (fun x => { x with loadStatus := loadStatusOf own f }) s
  | none =>
    let s := onHerd h (fun x => { freshRun x with state := .loaded, watchPeak := 0, loadStatus := loadStatusOf own { code := 0 } }) s
    tapChange h 0 (fillParts h (syncReset h s))

/-- UNLOAD (Table 5.11): entries taken and closed (R266), objects, participations and written flags released. -/
def releaseHerd (h : Nat) (s : State) : State :=
  let x := s.tsu.herd h
  let s := syncReset h (unloadEntries h (finishContext h s))
  let s := forAll (List.range x.tineCount) (fun i s => onPart (x.tineFirst + i) (fun _ => {}) s) s
  let s := onTsu (fun t => { t with written := t.written.filter fun i => !x.owns i }) s
  onHerd h (fun x => { freshRun x with state := .free }) (tapChange h 2 s)

end Sys2Proof.Machine
end

