-- ==== Sys2Proof/Machine/Template.lean ====
section
/-! DEFINITION. The tree-template cache of either part (R184, R185): its slots, checking one, and erasing one. -/

namespace Sys2Proof.Machine

/-- Slots and entries of the cache of a part (R185). -/
def templateSlots : Dev → Nat
  | .tsu => 256
  | .fjz => 1024
def templateEntriesCap : Dev → Nat
  | .tsu => 4096
  | .fjz => 262144

def templatesOf (s : State) : Dev → Tbl Template
  | .tsu => s.tsu.templates
  | .fjz => s.fjz.templates

def templateAt (s : State) (d : Dev) (k : Nat) : Template := (templatesOf s d).get {} k

def onTemplate (d : Dev) (k : Nat) (f : Template → Template) (s : State) : State :=
  match d with
  | .tsu => onTsu (fun t => { t with templates := t.templates.upd {} k f }) s
  | .fjz => onFjz (fun x => { x with templates := x.templates.upd {} k f }) s

/-- Herds and reservations that use a slot (R185): on a die the contexts that are not FREE, by the template in force or staged, and the
confirmed reservations; on a Fjouz chip its reservations. -/
def templateUsers (s : State) (d : Dev) (k : Nat) : Nat :=
  let m := templateAt s d k
  if !m.valid then 0
  else
    match d with
    | .tsu =>
      (s.tsu.loaded.filter fun x => decide (x.templateId = m.id ∨ x.stTemplate = some m.id)).length +
        (s.tsu.paths.filter fun e => decide (e.template = m.id)).length
    | .fjz => (s.fjz.resvs.filter fun r => decide (r.templateId = m.id)).length

/-- A TSU template entry by itself passes R181. -/
def dieEntryOk (e : BitVec 256) : Bool :=
  opLenOk (ptOp e) (ptLen e) && decide (ptTwin e ≠ 3 ∧ ptTargetKind e ≠ 3) &&
    (if ptStart e then decide (ptOp e = opAnd ∧ ptLen e = 1 ∧ ptContrib e = 0)
     else decide (ptContrib e ≠ 0 ∧ 50000 ≤ ptTimeout e))

/-- The twin pairs of a Fjouz template entry pass R184. -/
def twinsOk (role : Nat) (e : BitVec 256) : Bool :=
  let ts := cfTwins e
  (decide (role = 1) || ts.isEmpty) &&
    ((List.range ts.length).all fun i =>
      let t := ts.getD i (0, 0)
      (cfMembers e).getLsbD t.1 && !(cfMembers e).getLsbD t.2 && decide (t.1 ≠ t.2) &&
        ((List.range ts.length).all fun j =>
          let u := ts.getD j (0, 0)
          decide (i = j ∨ (t.2 ≠ u.1 ∧ t.2 ≠ u.2))))

/-- A Fjouz template entry passes R184. -/
def chipEntryOk (role : Nat) (e : BitVec 256) : Bool :=
  opLenOk (cfOp e) (cfLen e) && twinsOk role e && (decide (role ≠ 3) || decide (fldN (cfMembers e) 16 48 = 0))

/-- Every entry of a template passes the check of its part. -/
def templateOk (s : State) (d : Dev) (m : Template) : Bool :=
  m.entryList.all fun e =>
    match d with
    | .tsu => dieEntryOk e.2
    | .fjz => chipEntryOk s.fjz.role.toNat e.2

/-- A round of a context that a slot configures is open (R21). -/
def roundOpen (s : State) (d : Dev) (k : Nat) : Bool :=
  match d with
  | .tsu => false
  | .fjz =>
    (s.fjz.resvs.filter fun r => decide (r.templateId = (templateAt s .fjz k).id)).any fun r =>
      r.ctxs.any fun n => decide ((s.fjz.ctx n).r0.state = .open ∨ (s.fjz.ctx n).r1.state = .open)

/-- A template entry with its reserved bits zero; the context numbers and paths of a participation come from reservation
(Tables 7.1, 7.2). -/
def templateEntryOf (d : Dev) (w : BitVec 256) : BitVec 256 :=
  match d with
  | .tsu => putN (putN (putN w 14 2 0) 138 2 0) 204 52 0
  | .fjz => putN (putN w 12 4 0) 172 84 0

/-- What a write of a register of a template slot leaves in it (Table 7.11): TEMPLATE_ID, entry j, TEMPLATE_ENTRIES, or TEMPLATE_VALID,
where 0x01 makes the slot valid and 0x00 erases it. -/
def writtenTemplate (d : Dev) (sub j : Nat) (v : Bytes) (m : Template) : Template :=
  match sub with
  | 2 => { m with id := bytesBv 16 v }
  | 4 => { m with entries := m.entries.set 0 j (templateEntryOf d (bytesBv 256 v)) }
  | 5 => { m with count := bytesBv 16 v }
  | _ => if bytesBv 8 v = 1 then { m with valid := true } else {}

/-- TEMPLATE_VALID of a slot. -/
def wTemplateValid (d : Dev) (k : Nat) (v : U8) : WriteOp :=
  { index := 0x7200, sub := 6, access := .rws, size := 1, bytes := [v], kind := 6, elem := k,
    present := fun _ => decide (k < templateSlots d),
    ready := fun s => decide (v = 1) || decide (templateUsers s d k = 0),
    range := fun s => boolOk v && (decide (v ≠ 1) || templateOk s d (templateAt s d k)),
    cls := fun s => if v = 1 ∧ roundOpen s d k then .fjouz else .now
    apply := onTemplate d k (writtenTemplate d 6 0 [v]) }

/-- The slot a request selects. -/
def templateElem (s : State) (d : Dev) (q : Req) : Nat := element s d q 0x7200 1

/-- TEMPLATE_VALIDATE. -/
def execTemplateValidate (d : Dev) (q : Req) (s : State) : Result :=
  perform true (inTurn (.templateValidate d q) fun s => agentWrite d q (wTemplateValid d (templateElem s d q) 1) s) s

/-- TEMPLATE_ERASE. -/
def execTemplateErase (d : Dev) (q : Req) (s : State) : Result :=
  perform true (inTurn (.templateErase d q) fun s => agentWrite d q (wTemplateValid d (templateElem s d q) 0) s) s

end Sys2Proof.Machine
end

