-- ==== Sys2Proof/Machine/Herd.lean ====
section
/-! DEFINITION. The commands that change a herd's membership (R219 to R225): the pause, the new epoch, adopting a drain, and
forced expulsion. -/

namespace Sys2Proof.Machine

/-! ## PAUSE_REQUEST (R219) -/

def pauseHerd (v : BitVec 160) : Nat := fldN v 0 32
def pauseHt (v : BitVec 160) : HT := fld v 32 80
def pauseSeq (v : BitVec 160) : U16 := fld v 112 16
def pauseOrigin (v : BitVec 160) : Nat := fldN v 128 32
/-- The herd of a pause, as far as it can name one. -/
def pauseHerdId (v : BitVec 160) : Id24 := BitVec.ofNat 24 (pauseHerd v)

/-- ORIGIN_ID of a pause is the chip's own. -/
def pauseOwn (x : Fjz) (v : BitVec 160) : Bool := decide (pauseOrigin v = x.agent.deviceId.toNat)

/-- H at least 2,000 ns ahead, identifiers that exist, and a new HALT_SEQ where the chip is the origin. -/
def pauseRange (v : BitVec 160) (s : State) : Bool :=
  decide (pauseHerd v < 2 ^ 20 ∧ pauseOrigin v < 2 ^ 24 ∧ s.fjz.now.toNat + 2000 * 65536 ≤ (pauseHt v).toNat) &&
    (!pauseOwn s.fjz v || newer (pauseSeq v) s.fjz.haltSeq)

/-- A HALT of a chip, sent downwards as if turned there: kept in its event area (R292), and remembered for R253. -/
def chipHalt (ps : List Nat) (c : Cell) (s : State) : State :=
  let s := onFjz (fun x => ownEntry c.body { x with haltsSent := bump x.haltsSent }) s
  let s := if haltKind c = 2 then s
    else onFjz (fun x => { x with forwarded := x.forwarded ++ [(haltHerd c, true, haltHt c, x.frc.toNat)] }) s
  sendAll .fjz ps false c s

/-- RUN of a herd on a chip: the pronk that its counter last followed. -/
def Fjz.runOf (x : Fjz) (herd : Id24) : U8 := (x.pronk herd).seq.setWidth 8

/-- An accepted pause. -/
def takePause (v : BitVec 160) (s : State) : State :=
  let herd := pauseHerdId v
  let s := if pauseOwn s.fjz v then onFjz (fun x => { x with haltSeq := pauseSeq v }) s else s
  chipHalt (s.fjz.withStandby (s.fjz.herdPorts herd))
    (mkHalt 1 true s.fjz.role.toNat herd (s.fjz.runOf herd) (pauseSeq v) (pauseHt v) 0 (BitVec.ofNat 24 (pauseOrigin v))) s

def wPauseRequest (v : BitVec 160) : WriteOp :=
  { index := 0x8800, sub := 9, access := .wo, size := 20, bytes := bvBytes v,
    ready := fun s => decide (pauseHerd v < 2 ^ 24) && s.fjz.holdsHerd (pauseHerdId v), range := pauseRange v,
    apply := takePause v }

def execPauseRequest (q : Req) (v : BitVec 160) (s : State) : Result :=
  perform true (inTurn (.pauseRequest q v) (agentWrite .fjz q (wPauseRequest v))) s

/-! ## REEPOCH_COMMIT (R220) -/

/-- The template identity that REEPOCH_COMMIT installs. -/
def Herd.nextTemplate (x : Herd) : U16 := x.stTemplate.getD x.templateId

/-- TEMPLATE_SLOT at REEPOCH_COMMIT: in a replay, where the fawn check is left out, an absent template is refused here (R220, R296). -/
def absentTemplate (t : Tsu) (template : U16) : Option LoadFail :=
  if t.tc.state = .replayPinned ∧ t.template template = none then some { code := 0x07, index := template.toNat, need := 1 } else none

/-- The first failing check of R220 in the order of Table 5.15. -/
def reepochFail (s : State) (h : Nat) (secure : Bool) : Option LoadFail :=
  let t := s.tsu
  let x := t.herd h
  if ¬ (x.state = .loaded ∨ x.state = .halted ∨ x.state = .done) ∨ ¬ (x.swap = .idle ∨ x.swap = .flipped) then
    some { code := 0x01, index := h }
  else
    [failTemplate t x.nextTemplate, absentTemplate t x.nextTemplate, failPath s x x.nextTemplate, failP1 t, failVersion s, failMismatch t, failFawn t x.nextTemplate,
      failWorld t h secure].findSome? id

/-- The staged values are installed and nothing is staged any more. -/
def installStaged (x : Herd) : Herd :=
  { x with memberEpoch := x.stEpoch.getD x.memberEpoch, memberCount := x.stCount.getD x.memberCount, templateId := x.nextTemplate,
           stEpoch := none, stCount := none, stTemplate := none, state := .loaded }

/-- REEPOCH_COMMIT takes effect, or LOAD_STATUS reports the refusal. -/
def reepoch (h : Nat) (secure : Bool) (s : State) : State :=
  let own := s.tsu.agent.deviceId
  match reepochFail s h secure with
  | some f => onHerd h (fun x => { x with loadStatus := loadStatusOf own f }) s
  | none =>
    let s := fillParts h (onHerd h (fun x => { installStaged x with loadStatus := loadStatusOf own { code := 0 } }) s)
    let s := raiseHerd h 0x0802 false (swapObj h) ((s.tsu.herd h).memberEpoch.setWidth 32) 0 0 s
    tapChange h 1 s

def wReepochCommit (q : Req) (h : Nat) (v : U8) : WriteOp :=
  boolCommand (0x8100 + h) 0x0C .wo v (reepoch h (secureReq q))

def execReepochCommit (q : Req) (h : Nat) (v : U8) (s : State) : Result :=
  perform (decide (h < 64)) (inTurn (.reepochCommit q h v) (agentWrite .tsu q (wReepochCommit q h v))) s

/-! ## DRAIN_ADOPT (R222) -/

def adoptEpoch (v : BitVec 192) : U16 := fld v 0 16
def adoptPolicy (v : BitVec 192) : U8 := fld v 16 8
def adoptFlip (v : BitVec 192) : HT := fld v 32 80
def adoptEnd (v : BitVec 192) : HT := fld v 112 80

/-- A joining die takes over a drain: IDLE to FLIPPED (Table 8.5). -/
def takeAdopt (h : Nat) (v : BitVec 192) : State → State :=
  onHerd h fun x => { x with oldEpoch := adoptEpoch v, drainPolicy := decide (adoptPolicy v = 1), flipHt := adoptFlip v,
                             drainEnd := adoptEnd v, swap := .flipped }

def wDrainAdopt (h : Nat) (v : BitVec 192) : WriteOp :=
  { index := 0x8100 + h, sub := 0x0F, access := .wo, size := 24, bytes := bvBytes v,
    ready := fun s => decide ((s.tsu.herd h).state = .loaded ∧ (s.tsu.herd h).swap = .idle),
    range := fun s => decide (adoptEpoch v ≠ 0xFFFF ∧ adoptEpoch v ≠ (s.tsu.herd h).liveEpoch) && boolOk (adoptPolicy v),
    apply := takeAdopt h v }

def execDrainAdopt (q : Req) (h : Nat) (v : BitVec 192) (s : State) : Result :=
  perform (decide (h < 64)) (inTurn (.drainAdopt q h v) (agentWrite .tsu q (wDrainAdopt h v))) s

/-! ## EXPEL (R225) -/

/-- EXPEL of class H: a RUNNING context leaves at its next boundary, an ARMED or COMMITTED one at once. -/
def wExpel (h : Nat) (v : U8) : WriteOp :=
  { boolCommand (0x8100 + h) 0x0D .wo v (leaveHerd h byExpulsion) with
    ready := fun s => (s.tsu.herd h).live, cls := fun _ => .herd h }

def execExpel (q : Req) (h : Nat) (v : U8) (s : State) : Result :=
  perform (decide (h < 64)) (inTurn (.expel q h v) (agentWrite .tsu q (wExpel h v))) s

end Sys2Proof.Machine
end

