-- ==== Sys2Proof/Machine/Lateral.lean ====
section
/-! DEFINITION. The commands of the 96 lateral taps (R83 to R85): marker exchange, baselines, and the transmit time-stamp queue. -/

namespace Sys2Proof.Machine

/-- A lateral link (Table 12.9). -/
def linkOk (n : Nat) : Bool := decide (n < 96)

/-- LAT_STATE values (Table 3.13). -/
def latNoPeer : U8 := 1
def latInvalid : U8 := 2
def latMeasuring : U8 := 3
def latValid : U8 := 4

/-- LAT_MARKER_SEND (R83): every LAT_PERIOD_US on an enabled link, while hall time is valid. -/
def execLatMarkerSend (link : Nat) (sent : Stamp) (s : State) : Result :=
  performOn .tsu (linkOk link) (fun s =>
    let x := s.tsu.link link
    let f := s.tsu.tc.frc.toNat
    let due := match x.sentAt with
      | some g => decide (g + s.tsu.latPeriod.toNat * 1000 ≤ f)
      | none => true
    if !x.enable ∨ !s.tsu.tc.htValid ∨ !due then s
    else
      let ht := stampHt s .tsu sent
      let m : Marker := ⟨ht, s.tsu.tc.htValid, x.gotHt, s.tsu.agent.deviceId⟩
      emit (.marker link m) (onLink link (fun x =>
        { x with sentHts := (ht :: x.sentHts).take 16, sentAt := some f, state := if x.state = 0 then latNoPeer else x.state }) s)) s

/-- The exchange of one marker (R83, as R79 with the peer in the place of the child): θ_L and d_L in ps. -/
def lateralExchange (asym : Int) (sent peerGot peerSent arrival : HT) : Int × Int :=
  let e : Int × Int := ((peerGot - sent).toInt, (arrival - peerSent).toInt)
  (openRound ((e.1 - e.2) * 1000 - asym * 65536) (2 * 65536), openRound ((e.1 + e.2) * 1000) (2 * 65536))

/-- How far apart two hall times lie. -/
def htGap (a b : HT) : Nat := (a - b).toInt.natAbs

/-- Of the markers sent, the one that a peer's arrival time is that of: the nearest (R83). Markers leave at least 100 µs apart, and
valid hall times agree far closer. -/
def markerSent (there : HT) : List HT → Option HT
  | [] => none
  | t :: ts =>
    match markerSent there ts with
    | some u => if htGap t there ≤ htGap u there then some t else some u
    | none => some t

/-- An exchange joins the last 16; the offset and the drift follow from them (R84). DESIGN CHOICE (log 31): before 16 exchanges are
gathered the offset and the drift stay as they are, and LAT_STATE is 3. -/
def takeLateral (theta d : Int) (x : Link) : Link :=
  let last := (theta :: x.last).take 16
  let x := { x with last := last, delay := i64 d }
  if last.length < 16 then { x with state := latMeasuring }
  else
    let off := i64 (meanOf last)
    { x with state := latValid, offset := off, drift := off - x.baseline }

/-- LAT_MARKER (R84): a marker whose sender's hall time is not valid is not used. -/
def execLatMarker (link : Nat) (m : Marker) (arrival : Stamp) (s : State) : Result :=
  performOn .tsu (linkOk link) (fun s =>
    let x := s.tsu.link link
    if !x.enable then s
    else
      let s := onLink link (fun x => { x with peer := m.peerDie.setWidth 32 }) s
      if !m.originValid then onLink link (fun x => { x with state := latInvalid }) s
      else if !s.tsu.tc.htValid then s
      else
        let got := stampHt s .tsu arrival
        let s := onLink link (fun x => { x with gotHt := some got, state := if x.state = latValid then x.state else latMeasuring }) s
        match m.lastArrival with
        | some there =>
          match markerSent there x.sentHts with
          | some sent =>
            let r := lateralExchange x.asym.toInt sent there m.originHt got
            onLink link (takeLateral r.1 r.2) s
          | none => s
        | none => s) s

/-- A link captures its baseline. -/
def captureBaseline (x : Link) : Link := { x with baseline := x.offset, hasBaseline := true, drift := 0 }

/-- LAT_BASELINE_CAPTURE (R84): every link. -/
def wLatBaselineCapture (v : U8) : WriteOp :=
  boolCommand 0x3380 2 .wo v fun s => forAll (List.range 96) (fun l s => onLink l captureBaseline s) s

def execLatBaselineCapture (q : Req) (v : U8) (s : State) : Result :=
  perform true (inTurn (.latBaselineCapture q v) (agentWrite .tsu q (wLatBaselineCapture v))) s

/-- LAT_BASELINE_AUTO (R84): a link without a baseline, once both ends have been LOCKED for 600 s; `ends.peerLocked` says so of the
peer, of which no marker field tells. DESIGN CHOICE (log 31): there is an offset to capture only in LAT_STATE 4. -/
def execLatBaselineAuto (ends : LatEnds) (s : State) : Result :=
  performOn .tsu (linkOk ends.link) (fun s =>
    let x := s.tsu.link ends.link
    let tc := s.tsu.tc
    if !x.hasBaseline ∧ ends.peerLocked = true ∧ x.state = latValid ∧ tc.state = .locked ∧ nsOf tc.entryHt + 600000000000 ≤ nsOf s.tsu.now then
      onLink ends.link captureBaseline s
    else s) s

/-! ## The transmit time-stamp queue (R85) -/

def txtsCap : Nat := 64

/-- An entry of the queue (Table 3.12). -/
def txtsEntry (link : Nat) (tsId : U16) (x : Stamp) : BitVec 128 :=
  pack 128 [(0, 16, tsId.toNat), (16, 7, link), (32, 64, x.frc.toNat), (96, 7, x.sub.toNat), (127, 1, 1)]

/-- Order of the queue: by time-stamp, then by ascending link (R85). -/
def txtsBefore (a b : BitVec 128) : Bool :=
  let key (e : BitVec 128) : Nat := (fldN e 32 64 * 128 + fldN e 96 7) * 128 + fldN e 16 7
  decide (key a < key b)

/-- TX_TIMESTAMP: an entry enters the queue in its place, or is dropped. -/
def execTxTimestamp (link : Nat) (tsId : U16) (stamp : Stamp) (s : State) : Result :=
  performOn .tsu (linkOk link) (inTurn (.txTimestamp link tsId stamp) <| onTsu fun t =>
    if t.txts.length < txtsCap then
      let t' := { t with txts := insertBy txtsBefore (txtsEntry link tsId stamp) t.txts }
      if t.txts.isEmpty then setIrq t' irqTxtsPending else t'
    else
      let t' := { t with txtsOverflow := true, txtsDropped := bump t.txtsDropped }
      if t.txtsOverflow then t' else setIrq t' irqTxtsOverflow) s

/-- TXTS_POP: the head entry, or zeros. -/
def rTxtsPop : ReadOp :=
  { index := 0x3300, sub := 1, pop := true, value := fun s => bvBytes (s.tsu.txts.headD 0),
    effect := onTsu fun t => { t with txts := t.txts.tail } }

def execTxtsPop (q : Req) (s : State) : Result := perform true (inTurn (.txtsPop q) (agentRead .tsu q rTxtsPop)) s

/-- TXTS_OVERFLOW_CLEAR. -/
def wTxtsOverflowClear (v : U8) : WriteOp :=
  boolCommand 0x3300 4 .wo v (onTsu fun t => { t with txtsOverflow := false })

def execTxtsOverflowClear (q : Req) (v : U8) (s : State) : Result :=
  perform true (inTurn (.txtsOverflowClear q v) (agentWrite .tsu q (wTxtsOverflowClear v))) s

end Sys2Proof.Machine
end

