-- ==== Sys2Proof/Machine/Ledger.lean ====
section
/-! DEFINITION. The commands of the stream ledger (R138 to R140, R222, R272): writes of its entries and the advances that regions add. -/

namespace Sys2Proof.Machine

def nEntries : Nat := 65536

/-- The entry as the held writes already accepted for it would leave it (R140). -/
def heldEntry (t : Tsu) (i : Nat) : BitVec 256 :=
  match (t.agent.heldLedger.filter fun w => decide (w.entry = i)).getLast? with
  | some w => writtenEntry (t.herd w.ctx) (t.entry i) w.value
  | none => t.entry i

/-- The owning context of an entry that is ARMED, COMMITTED or RUNNING. -/
def liveOwner (t : Tsu) (i : Nat) : Option Nat :=
  match t.ledgerOwner i with
  | some h => if (t.herd h).live then some h else none
  | none => none

/-- ITER of a herd, zero before its fire (R140). -/
def iterNow (x : Herd) : Nat := if x.state = .running then x.iter.toNat else 0

/-- APPLY_ITER[47:0]. -/
def applyIterOf (v : Option U64) : Nat := (v.map fun x => fldN x 0 48).getD 0

/-- A tenant slot exists or can be allocated for the tenant that the write names (R272). -/
def tenantOk (m : Meter) (v : BitVec 256) : Bool := (m.tenantSlot (lTenant v)).isSome || (m.freeTenant).isSome

/-- The write is admitted by the state of the entry and of its owner (R139, R140). -/
def ledgerReadyFor (t : Tsu) (i : Nat) (v : BitVec 256) (iter : Option U64) : Bool :=
  !mPending (t.meter.slot i) && tenantOk t.meter v &&
    match liveOwner t i with
    | some h => iter.isSome && decide (iterNow (t.herd h) < applyIterOf iter) && ingressOk t i (heldEntry t i) v
    | none => ingressOk t i (t.entry i) v || ownerOk t i v

/-- LEDGER_ENTRY of entry i, in its form of 32 bytes or of 40 bytes with APPLY_ITER. -/
def wLedgerEntry (i : Nat) (v : BitVec 256) (iter : Option U64) : WriteOp :=
  { index := 0x5090, sub := 2, size := if iter.isSome then 40 else 32, kind := 2, elem := i,
    bytes := bvBytes v ++ (match iter with | some x => bvBytes x | none => []),
    present := fun _ => decide (i < nEntries),
    ready := fun s => ledgerReadyFor s.tsu i v iter,
    range := fun _ => decide (lPos v ≤ lLimit v ∧ lState v ≤ lsFaulted),
    cls := fun s =>
      match liveOwner s.tsu i with
      | some h => .ledger h i (applyIterOf iter)
      | none => .now
    apply := applyLedger i v }

/-- The write of a ledger entry, with the tenant slot that its acceptance allocates. -/
def ledgerWrite (q : Req) (op : WriteOp) (v : BitVec 256) (s : State) : State :=
  let fresh := (findRsp s.tsu.agent (asTaken q)).isNone && decide (writeStatus s .tsu (asTaken q) op = stOk)
  serveWrite .tsu q op (if fresh then onMeter (allocTenant (lTenant v)) s else s)

/-- LEDGER_ENTRY (R139, R140). -/
def execLedgerEntry (q : Req) (v : BitVec 256) (applyIter : Option U64) (s : State) : Result :=
  perform true (inTurn (.ledgerEntry q v applyIter) fun s =>
    let op := wLedgerEntry (element s .tsu q 0x5090 1) v applyIter
    takeRequest .tsu q op.index op.sub op.bytes (ledgerWrite q op v) s) s

/-- A region may add to an entry of a herd that was granted the entry and declares the region (R151). -/
def mayAdvance (t : Tsu) (region entry : Nat) : Bool :=
  t.herds.any fun e => decide (e.2.state ≠ .free) && e.2.holds 2 entry && e.2.regionMask.getLsbD region

/-- A region's amount is added to the value pending, saturating at 255 (R138); a word that cannot be read is not used (R154). -/
def advPending (region entry : Nat) (amount : U8) (s : State) : State :=
  if !mayAdvance s.tsu region entry ∨ s.tsu.badLedger.contains entry then s
  else
    let e := s.tsu.entry entry
    setEntry entry (putN e 112 8 (min 255 (lAdv e + amount.toNat))) s

/-- LEDGER_ADV_PENDING (R138), through the region's LEDGER queue (R329). -/
def execLedgerAdvPending (region : Nat) (entry : U16) (amount : U8) (s : State) : Result :=
  performOn .tsu (decide (region < 52))
    (inTurn (.ledgerAdvPending region entry amount)
      (fromRegion region qLedger (.ledgerAdvPending region entry amount) (advPending region entry.toNat amount))) s

end Sys2Proof.Machine
end

