-- ==== Sys2Proof/Machine/Load.lean ====
section
/-! DEFINITION. The commands of loading (R119, R150 to R152, Table 5.11): descriptors, admission and release. -/

namespace Sys2Proof.Machine

/-- Element i lies in the step range of a context that is not FREE. -/
def stepHeld (t : Tsu) (i : Nat) : Bool := t.loaded.any fun x => x.owns i

/-- STEP_DESC of descriptor i: writable while no context that is not FREE holds it; sets its written flag. -/
def wStepDesc (i : Nat) (v : BitVec 512) : WriteOp :=
  { index := 0x5080, sub := 2, size := 64, bytes := bvBytes v, kind := 1, elem := i,
    present := fun _ => decide (i < 16384), ready := fun s => !stepHeld s.tsu i,
    apply := onTsu fun t =>
      { t with steps := t.steps.set 0 i v, written := if t.written.contains i then t.written else t.written ++ [i] } }

/-- LOAD_COMMIT of context h; a refusal is reported in LOAD_STATUS. -/
def wLoadCommit (q : Req) (h : Nat) (v : U8) : WriteOp :=
  boolCommand (0x5100 + h) 0x16 .wo v (commitLoad h (secureReq q))

/-- UNLOAD of context h. -/
def wUnload (h : Nat) (v : U8) : WriteOp :=
  { boolCommand (0x5100 + h) 0x18 .wo v (releaseHerd h) with
    ready := fun s =>
      let st := (s.tsu.herd h).state
      decide (st = .loaded ∨ st = .halted ∨ st = .done ∨ st = .left) }

def execStepDesc (q : Req) (v : BitVec 512) (s : State) : Result :=
  perform true (inTurn (.stepDesc q v) fun s => agentWrite .tsu q (wStepDesc (element s .tsu q 0x5080 1) v) s) s

def execLoadCommit (q : Req) (h : Nat) (v : U8) (s : State) : Result :=
  perform (decide (h < 64)) (inTurn (.loadCommit q h v) (agentWrite .tsu q (wLoadCommit q h v))) s

def execUnload (q : Req) (h : Nat) (v : U8) (s : State) : Result :=
  perform (decide (h < 64)) (inTurn (.unload q h v) (agentWrite .tsu q (wUnload h v))) s

end Sys2Proof.Machine
end

