-- ==== Sys2Proof/Machine/Lane.lean ====
section
/-! DEFINITION. The cell that takes a slot of a port (R63 to R66, R68), and the hold on pairs from the decoding of a HALT (R252). -/

namespace Sys2Proof.Machine

/-! ## The cell that takes a slot (R64 to R66) -/

/-- Step of a waiting cell in the order of R64, retransmissions before new cells within a step. -/
def txRank (e : TxCell) : Nat :=
  let c := e.cell
  let k :=
    if c.cls = 0 then
      if e.bypass then 1 else if c.typ = tHalt then 2 else if c.typ = tPronk then 3 else if c.typ = tRetryReq then 4
      else if c.typ = tTimeDown ∨ c.typ = tTimeUp ∨ c.typ = tTimeReply then 5 else if c.typ = tBleat then 6 else 7
    else if c.cls = 1 then (if e.bypass then 8 else if e.first then 9 else if e.retry then 10 else 11)
    else if c.cls = 2 then 12 else 13
  2 * k + b2n (!e.retry)

/-- P3 is held back: a P2 cell waits and P3 has taken its share of the last 64 slots (R66). -/
def p3Held (limit : Nat) (x : Port) : Bool :=
  (x.txq.any fun e => decide (e.cell.cls = 2)) && decide (limit ≤ ((x.p3Last.take 63).filter id).length)

/-- The first cell of lowest rank. -/
def pickTx : List TxCell → Option TxCell
  | [] => none
  | e :: es =>
    match pickTx es with
    | some m => if txRank e ≤ txRank m then some e else some m
    | none => some e

/-- The codeword number of a slot count (R59). -/
def cwOf (slots : Nat) : BitVec 12 := BitVec.ofNat 12 (slots / 10)

/-- A cell's header with its sequence number and RETRY, and after it that of its CONTINUATION (R63). -/
def stampSeq (lseq : U16) (retry : Bool) (c : Cell) : Cell :=
  let hdr := putBit (put c.hdr 16 16 lseq) 11 retry
  { c with hdr := hdr, contHdr := if c.pair then contHeader hdr else c.contHdr }

/-- Hall time at the start of the codeword now on the lane: the boundary of its slot 0, and the transmit latency from the cell
interface to the medium (R76, R80; DEDUCED, log 9). -/
def cwStart (s : State) (d : Dev) (x : Port) : HT :=
  let residue := counterOf s d * 100 % 1024
  htAddPs (hallTime s d) ((x.txLat.toNat : Int) - residue * 10 - x.slots % 10 * 10240)

/-- The hall time that a TIME_DOWN or a BLEAT carries is that of the codeword in which it travels (R78, R93). -/
def stampTime (t : HT) (c : Cell) : Cell :=
  if c.typ = tTimeDown ∨ c.typ = tBleat then { c with body := put c.body 0 80 t } else c

/-- A cell enters the present slot of a port: its number, its place in the replay buffer (R68), and the slot. -/
def putOnLane (t : HT) (e : TxCell) (x : Port) : Port :=
  let c := e.cell
  let cws := if c.pair then [cwOf x.slots, cwOf (x.slots + 1)].eraseDups else [cwOf x.slots]
  let n := x.slots
  let x : Port :=
    { x with begun := if c.pair then some (e, x.replay) else none, txq := x.txq.erase e, slots := x.slots + 1, p3Last := (decide (c.cls = 3) :: x.p3Last).take 64,
             t3 := if c.typ = tTimeUp then x.t3.map fun v => (v.1, cwOf n) else x.t3 }
  if !retried c.typ then { x with onLane := some (n, stampTime t c) }
  else if e.retry then
    { x with onLane := some (n, c),
             replay := x.replay.map fun r =>
               if r.cell.cls = c.cls ∧ r.cell.lseq = c.lseq then { r with cws := r.cws ++ cws, at_ := n / 10 } else r }
  else
    let c := stampSeq (x.lseqTx.get 0 c.cls) false c
    { x with onLane := some (n, c), lseqTx := x.lseqTx.upd 0 c.cls (· + (if c.pair then 2 else 1)),
             replay := x.replay ++ [⟨c, cws, n / 10⟩] }

/-- The port transmits (Table 3.6). -/
def Port.transmits (x : Port) : Bool := decide (x.state = .lock ∨ x.state = .hello ∨ x.state = .up)

/-- The cell whose CONTINUATION the slot that begins now carries (R63). -/
def Port.continues (x : Port) : Option Cell :=
  match x.onLane with
  | some (n, c) => if c.pair && decide (n + 1 = x.slots) then some c else none
  | none => none

/-- An idle slot. -/
def idleSlot (x : Port) : Port :=
  { x with slots := x.slots + 1, p3Last := (false :: x.p3Last).take 64, onLane := some (x.slots, mkCell tIdle 0 0 0), begun := none }

/-- The port as it was before the pair whose CONTINUATION is now due. -/
def beforePair (c : Cell) (e : TxCell) (kept : List ReplayCell) (x : Port) : Port :=
  { x with txq := e :: x.txq, slots := x.slots - 1, p3Last := x.p3Last.tail, replay := kept, onLane := none, begun := none,
           lseqTx := if retried c.typ ∧ e.retry = false then x.lseqTx.upd 0 c.cls (· - 2) else x.lseqTx }

/-- A bypass-forwarded HALT is to enter the port at its next boundary: since the decoding of its codeword the port has started no pair
(R252), so no CONTINUATION is due there. The block hears of the HALT only as it is released: a pair that took the last slot gives it up
to a single cell (log 65). -/
def holdPairs (limit : Nat) (t : HT) (x : Port) : Port :=
  match x.onLane, x.begun with
  | some (n, c), some (e, kept) =>
    if c.pair && decide (n + 1 = x.slots) then
      let y := beforePair c e kept x
      match pickTx (y.txq.filter fun e => !e.cell.pair && (decide (e.cell.cls ≠ 3) || !p3Held limit y)) with
      | some m => putOnLane t m y
      | none => idleSlot y
    else x
  | _, _ => x

/-- A cell that a Fjouz chip forwards by bypass on several ports, which held their pairs for it. -/
def bypassOn (ps : List Nat) (c : Cell) (s : State) : State :=
  forAll ps (fun p s =>
    sendOn .fjz p true c
      (onPort .fjz p (fun x => holdPairs s.fjz.p3Limit.toNat (cwStart s .fjz { x with slots := x.slots - 1 }) x) s)) s

end Sys2Proof.Machine
end

