-- ==== Sys2Proof/Machine/HaltOps.lean ====
section
/-! DEFINITION. HALT on a Fjouz chip (R252, R253, R255, R294) and on a die (R135, R219, R254, R255, R257). -/

namespace Sys2Proof.Machine

/-- HERD_ID of a NOW that names every herd. -/
def everyHerd : Id24 := 0xFFFFFF

/-! ## The Fjouz chip -/

/-- A HALT of KIND AT or PAUSE that one already forwarded in this direction makes needless (R253). -/
def mergedBy (x : Fjz) (down : Bool) (c : Cell) : Bool :=
  decide (haltKind c < 2) && x.forwarded.any fun f =>
    decide (f.1 = haltHerd c ∧ f.2.1 = down ∧ f.2.2.1.toNat ≤ (haltHt c).toNat ∧ x.frc.toNat < f.2.2.2 + 4000)

/-- The chip remembers for 4,000 ns a HALT of KIND AT or PAUSE that it forwarded on some port. -/
def rememberHalt (down sent : Bool) (c : Cell) (x : Fjz) : Fjz :=
  let keep := x.forwarded.filter fun f => decide (x.frc.toNat < f.2.2.2 + 4000)
  { x with forwarded := if haltKind c < 2 ∧ sent = true then keep ++ [(haltHerd c, down, haltHt c, x.frc.toNat)] else keep }

/-- Ports on which a HALT goes down: member ports of the reservations with those of standby leaves (R16), or every child port that
is UP. -/
def haltPorts (s : State) (herd : Id24) : List Nat :=
  if herd = everyHerd then s.fjz.childPorts.filter fun p => isUp s .fjz p else s.fjz.withStandby (s.fjz.herdPorts herd)

/-- Freeze trigger 2: a downward AT or NOW for a herd of which the leaf holds a reservation. -/
def haltTrigger (c : Cell) (x : Fjz) : Fjz :=
  let held := if haltHerd c = everyHerd then !x.herdsHeld.isEmpty else x.holdsHerd (haltHerd c)
  if haltKind c ≠ 1 ∧ held then freezeTrigger 2 ((haltOrigin c).setWidth 32) (haltHerd c) x else x

/-- A HALT goes down by bypass, unless it is merged; `turned` here, it is kept in the event area (R292). -/
def haltDownwards (turned : Bool) (c : Cell) (s : State) : State :=
  if mergedBy s.fjz true c then onFjz (fun x => { x with haltsMerged := bump x.haltsMerged }) s
  else
    let c := { c with body := putBit c.body 3 true }
    let ps := haltPorts s (haltHerd c)
    let sent := ps.any fun p => isUp s .fjz p
    bypassOn ps c (onFjz (fun x => haltTrigger c (rememberHalt true sent c (if turned then ownEntry c.body x else x))) s)

/-- An upward HALT goes to the active parent (R252). -/
def haltUpwards (c : Cell) (s : State) : State :=
  if mergedBy s.fjz false c then onFjz (fun x => { x with haltsMerged := bump x.haltsMerged }) s
  else
    let ps := s.fjz.parentPort.toList
    bypassOn ps c (onFjz (rememberHalt false (ps.any fun p => isUp s .fjz p) c) s)

/-- A HALT cell at a chip. -/
def chipTakesHalt (c : Cell) (s : State) : State :=
  if haltDown c then haltDownwards false c s
  else if s.fjz.role.toNat ≠ haltTop c then haltUpwards c s
  else if haltHerd c = everyHerd ∨ s.fjz.holdsHerd (haltHerd c) then haltDownwards true c s
  else onFjz (fun x => { x with haltDiscards := bump x.haltDiscards }) s

/-- A NOW that the chip originates (R255): downwards only. -/
def chipHaltsNow (herd : Id24) (s : State) : State :=
  let s := onFjz (fun x => { x with haltNow := herd.setWidth 32, haltSeq := x.haltSeq + 1 }) s
  let x := s.fjz
  let c := mkHalt 2 true x.role.toNat herd (if herd = everyHerd then 0 else x.runOf herd) x.haltSeq 0 0 x.agent.deviceId
  chipHalt (haltPorts s herd) c (onFjz (haltTrigger c) s)

/-! ## The die -/

def countHaltDiscard (s : State) : State := onTsu (fun t => { t with haltDiscards := bump t.haltDiscards }) s

/-- The context that a HALT of one herd is applied to (R254). -/
def Tsu.haltCtx (t : Tsu) (c : Cell) : Option Nat :=
  t.held.find? fun h =>
    let x := t.herd h
    x.live && decide (x.herdId.toNat = (haltHerd c).toNat ∧ haltRun c = x.seqLast.setWidth 8)

/-- The die has taken a HALT of this origin and sequence number. -/
def haltTaken (t : Tsu) (c : Cell) : Bool := t.haltsTaken.contains (haltOrigin c, haltSeqOf c)

def takeKey (c : Cell) (t : Tsu) : Tsu := { t with haltsTaken := t.haltsTaken ++ [(haltOrigin c, haltSeqOf c)] }

/-- HALT_IN record (Table 11.4). -/
def tapHalt (h : Nat) (c : Cell) : State → State :=
  tapHerd 10 h ([BitVec.ofNat 8 (haltKind c)] ++ bvBytes (haltSeqOf c) ++ bvBytes ((haltOrigin c).setWidth 32 : U32) ++
    bvBytes (haltHt c) ++ bvBytes (haltCause c))

/-- H lies at or before the grid time of a descriptor that the run has launched or passed (R257). -/
def haltIsLate (x : Herd) (hh : HT) : Bool :=
  decide (x.state = .running) && x.lastGrid.any fun g => decide (hh.toNat ≤ g.toNat)

/-- A late HALT: the next boundary halts, and HALT_LATE says by how much (R257). -/
def lateHalt (h : Nat) (hh : HT) (origin : Id24) (seq : U16) (s : State) : State :=
  let s := onTsu (fun t => { t with haltLates := bump t.haltLates }) s
  raiseHerd h 0x0901 true (herdObj h) (origin.setWidth 32) seq.toNat ((s.tsu.now.toNat - hh.toNat) / 65536)
    (onHerd h (fun x => { x with haltLate := true }) s)

/-- A halt time reaches a context (R135): the earliest stands. -/
def applyHalt (h : Nat) (hh : HT) (origin : Id24) (seq : U16) (s : State) : State :=
  let late := haltIsLate (s.tsu.herd h) hh
  let s := onHerd h (fun x => { x with halt := some (earlier x.halt hh) }) s
  if late then lateHalt h hh origin seq s else s

/-- A HALT of KIND AT or PAUSE, once and to the run it names (R254). -/
def takeHalt (c : Cell) (more : Nat → State → State) (s : State) : State :=
  if haltTaken s.tsu c then countHaltDiscard s
  else
    let s := onTsu (takeKey c) s
    match s.tsu.haltCtx c with
    | none => countHaltDiscard s
    | some h => more h (applyHalt h (haltHt c) (haltOrigin c) (haltSeqOf c) (tapHalt h c s))

/-- HERD_PAUSED (Table 8.7). -/
def recordPause (origin : Id24) (h : Nat) (s : State) : State :=
  raiseHerd h 0x0801 false (swapObj h) (origin.setWidth 32) (s.tsu.herd h).iter16 0 s

/-! ## The immediate stop (R255) -/

/-- Regions whose current step a context launched. -/
def Tsu.stepsOf (t : Tsu) (h : Nat) : List Nat :=
  (List.range 52).filter fun n => match (t.region n).launched with | l :: _ => decide (l.ctx = h) | [] => false

/-- HALTED_NOW (R255). -/
def raiseHaltedNow (h : Nat) (w : NowStop) (s : State) : State := raiseHerd h 0x0902 true (herdObj h) w.waiter w.round w.count s

/-- A region told to stop has returned its done token; when all have, the record goes. -/
def NowStop.returned (region : Nat) (abandoned : Bool) (w : NowStop) : NowStop :=
  if w.regions.contains region then { w with regions := w.regions.erase region, count := w.count + b2n abandoned } else w

def nowReturned (region h : Nat) (abandoned : Bool) (s : State) : State :=
  let ws := (s.tsu.herd h).nowStops.map (NowStop.returned region abandoned)
  forAll (ws.filter fun w => decide (w.regions = [])) (raiseHaltedNow h)
    (onHerd h (fun x => { x with nowStops := ws.filter fun w => decide (w.regions ≠ []) }) s)

/-- A context stops: H is the present hall time, and every region whose current step it launched is told to abandon it. HALTED_NOW
counts the regions stopped mid-step, so it waits for what they return. -/
def stopNow (c : Cell) (h : Nat) (s : State) : State :=
  let s := tapHalt h c s
  let s := onHerd h (fun x => { x with halt := some (earlier x.halt s.tsu.now), stoppedNow := true }) s
  let ns := s.tsu.stepsOf h
  let s := forAll ns (fun n s => emit (.stop n) s) s
  let w : NowStop := ⟨(haltOrigin c).setWidth 32, (s.tsu.herd h).iter16, ns, 0⟩
  if ns = [] then raiseHaltedNow h w s else onHerd h (fun x => { x with nowStops := x.nowStops ++ [w] }) s

/-- Contexts that a NOW names and that can be stopped. -/
def Tsu.nowCtxs (t : Tsu) (c : Cell) : List Nat :=
  if haltHerd c = everyHerd then t.held.filter fun h => (t.herd h).live else (t.haltCtx c).toList

/-- A HALT of KIND NOW at a die. -/
def takeNow (c : Cell) (s : State) : State :=
  if haltTaken s.tsu c then countHaltDiscard s
  else
    let s := onTsu (takeKey c) s
    match s.tsu.nowCtxs c with
    | [] => countHaltDiscard s
    | hs => forAll hs (stopNow c) s

/-- The context of a die that holds a herd, as HALT_NOW names it. -/
def Tsu.nowCtx (t : Tsu) (v : U32) : Option Nat := t.held.find? fun h => decide ((t.herd h).herdId = v)

/-- Highest TREE_SPAN of the contexts that are not FREE. -/
def Tsu.highSpan (t : Tsu) : Nat := (t.loaded.map fun x => x.span.toNat).foldl max 0

/-- HALT_NOW names something here (R255). -/
def nowReady (d : Dev) (v : U32) (s : State) : Bool :=
  match d with
  | .tsu => if v = everyHerd.setWidth 32 then !s.tsu.allFree else (s.tsu.nowCtx v).isSome
  | .fjz => decide (v = everyHerd.setWidth 32) || (decide (v.toNat < 2 ^ 20) && s.fjz.holdsHerd (v.setWidth 24))

/-- A die originates a NOW (R251, R255). -/
def dieHaltsNow (v : U32) (s : State) : State :=
  let s := onTsu (fun t => { t with haltNow := v }) s
  if v = everyHerd.setWidth 32 then sendHalt 2 s.tsu.highSpan everyHerd 0 0 0 s
  else
    match s.tsu.nowCtx v with
    | some h =>
      let x := s.tsu.herd h
      sendHalt 2 x.span.toNat (v.setWidth 24) (x.seqLast.setWidth 8) 0 0 s
    | none => s

end Sys2Proof.Machine
end

