-- ==== Sys2Proof/Machine/Halt.lean ====
section
/-! DEFINITION. The commands of HALT and of the error ring (09_faults_budgets.md). -/

namespace Sys2Proof.Machine

/-- HALT_FORWARD (R252, R253): upwards, or downwards from the parent that the chip follows (R16). -/
def execHaltForward (p : Nat) (c : Cell) (s : State) : Result :=
  performOn .fjz (portOk .fjz p) (receive (.haltForward p c) .fjz p [tHalt] c fun s =>
    if haltDown c ∧ s.fjz.parentPort ≠ some p then s else chipTakesHalt c s) s

/-- HALT_AT (R254); a HALT of a reserved KIND is none that the die applies, and is counted. -/
def execHaltAt (p : Nat) (c : Cell) (s : State) : Result :=
  performOn .tsu (portOk .tsu p) (receive (.haltAt p c) .tsu p [tHalt] c fun s =>
    if haltKind c = 0 then takeHalt c (fun _ s => s) s else if 3 ≤ haltKind c then countHaltDiscard s else s) s

/-- HALT_PAUSE (R219, R254). -/
def execHaltPause (p : Nat) (c : Cell) (s : State) : Result :=
  performOn .tsu (portOk .tsu p) (receive (.haltPause p c) .tsu p [tHalt] c fun s =>
    if haltKind c = 1 then takeHalt c (recordPause (haltOrigin c)) s else s) s

/-- HALT_NOW_CELL (R255). -/
def execHaltNowCell (p : Nat) (c : Cell) (s : State) : Result :=
  performOn .tsu (portOk .tsu p) (receive (.haltNowCell p c) .tsu p [tHalt] c fun s => if haltKind c = 2 then takeNow c s else s) s

/-- HALT_NOW of either part (Table 9.10). -/
def wHaltNow (d : Dev) (v : U32) : WriteOp :=
  { index := 0x9040, sub := 1, access := .rws, size := 4, bytes := bvBytes v, ready := nowReady d v,
    apply := match d with
      | .tsu => dieHaltsNow v
      | .fjz => chipHaltsNow (v.setWidth 24) }

def execHaltNow (d : Dev) (q : Req) (v : U32) (s : State) : Result := perform true (inTurn (.haltNow d q v)
    (agentWrite d q (wHaltNow d v))) s

/-! ## The error ring (R248) -/

/-- The error ring of a part. -/
def errsOf (s : State) : Dev → ErrRing
  | .tsu => s.tsu.errs
  | .fjz => s.fjz.errs

def onErrs (d : Dev) (f : ErrRing → ErrRing) (s : State) : State :=
  match d with
  | .tsu => onTsu (fun t => { t with errs := f t.errs }) s
  | .fjz => onFjz (fun x => { x with errs := f x.errs }) s

/-- ERR_POP: the oldest record, all zero when the ring is empty. -/
def rErrPop (d : Dev) : ReadOp :=
  { index := 0x9080, sub := 1, pop := true,
    value := fun s => match (errsOf s d).ring with | r :: _ => bvBytes (errBits r) | [] => List.replicate 32 0,
    effect := onErrs d fun e => { e with ring := e.ring.tail } }

def execErrPop (d : Dev) (q : Req) (s : State) : Result := perform true (inTurn (.errPop d q) (agentRead d q (rErrPop d))) s

/-- ERR_OVERFLOW_CLEAR. -/
def wErrOverflowClear (d : Dev) (v : U8) : WriteOp :=
  boolCommand 0x9080 4 .wo v (onErrs d fun e => { e with overflow := false })

def execErrOverflowClear (d : Dev) (q : Req) (v : U8) (s : State) : Result :=
  perform true (inTurn (.errOverflowClear d q v) (agentWrite d q (wErrOverflowClear d v))) s

end Sys2Proof.Machine
end

