-- ==== Sys2Proof/Machine/Meter.lean ====
section
/-! DEFINITION. The commands of the sealed meter core (R271 to R282): the part walk, tenant records, the ring and its
signatures, and the seal. -/

namespace Sys2Proof.Machine

/-! ## METER_PARAMS (Table 10.7) -/

def mpPart (p : BitVec 64) : Nat := fldN p 0 16
def mpTenant (p : BitVec 64) : Nat := fldN p 16 16

/-- The parameters lie in their ranges. -/
def paramsOk (p : BitVec 64) : Bool :=
  decide ((mpPart p = 0 ∨ (10 ≤ mpPart p ∧ mpPart p ≤ 3600)) ∧ (mpTenant p = 0 ∨ 60 ≤ mpTenant p))

/-- Parameters take effect: both intervals count from this tick, and reserved bits stay zero. -/
def applyParams (p : BitVec 64) (t : Tsu) : Tsu :=
  { t with meter := { t.meter with params := putN p 32 32 0 }, walkAt := t.tc.frc.toNat, tenantAt := t.tc.frc.toNat }

/-! ## The part walk (R273) -/

/-- A STREAM_PART record of a slot; PART then gains 1. -/
def streamPart (i : Nat) (t : Tsu) : Tsu :=
  let w := t.meter.slot i
  let t := issue 1 (slotFlags w) (slotFields w 0 (slotHerd t i)) (nsOf t.now) t
  { t with meter := { t.meter.setSlot i (addFld w 160 32 1) with lastPart := t.meter.lastPart.set (0, 0) i (mNs w, mTok w) } }

/-- An active slot whose amounts have changed since its last record. -/
def partDue (m : Meter) (i : Nat) : Bool :=
  let w := m.slot i
  mActive w && !mPending w && decide (m.lastPart.get (0, 0) i ≠ (mNs w, mTok w))

/-- The DIE record at the end of a walk. -/
def dieRecord (t : Tsu) : Tsu :=
  let d := t.meter.dieA
  issue 7 0 [(320, 64, d.attributed.toNat), (384, 64, d.tokens.toNat), (576, 64, d.run.toNat), (640, 64, d.idle.toNat)] (nsOf t.now) t

/-- The walk visits its next slot. -/
def walkSlot (s : State) : State :=
  let i := s.tsu.meter.walk
  let s := checkSlot false false i s
  onTsu (fun t =>
    let t := if partDue t.meter i then streamPart i t else t
    let t := if i = 65535 then dieRecord t else t
    { t with meter := { t.meter with walk := (i + 1) % 65536 }, walkAt := t.tc.frc.toNat }) s

/-- METER_PART_WALK: one slot every ⌊PART_INTERVAL_S × 10^9 / 65,536⌋ ticks. -/
def execMeterPartWalk (s : State) : Result :=
  performOn .tsu true (fun s =>
    let t := s.tsu
    let p := mpPart t.meter.params
    if p = 0 ∨ t.tc.frc.toNat < t.walkAt + p * 1000000000 / 65536 then s else walkSlot s) s

/-! ## Tenant records -/

/-- The fields of a tenant's record. -/
def tenantFields (w : BitVec 256) : List (Nat × Nat × Nat) :=
  [(288, 24, (tnId w).toNat), (320, 64, fldN w 32 64), (384, 64, fldN w 96 64), (448, 32, fldN w 160 32)]

/-- A TENANT or TENANT_FINAL record of a slot. -/
def tenantRecord (typ : Nat) (w : BitVec 256) (t : Tsu) : Tsu := issue typ (2 * b2n (bitOf w 25)) (tenantFields w) (nsOf t.now) t

/-- TENANT_INTERVAL: a TENANT record for every VALID slot, in ascending number. -/
def execTenantInterval (s : State) : Result :=
  performOn .tsu true (fun s =>
    let t := s.tsu
    let n := mpTenant t.meter.params
    if n = 0 ∨ t.tc.frc.toNat < t.tenantAt + n * 1000000000 then s
    else onTsu (fun t =>
      forAll (t.meter.tenantsA.filter fun e => tnValid e.2) (fun e t => tenantRecord 3 e.2 t) { t with tenantAt := t.tc.frc.toNat }) s) s

/-- A TENANT record on demand; a tenant that holds no slot has amounts that the manual does not give (log 2). -/
def tenantStatement (id : Id24) (t : Tsu) : Tsu :=
  tenantRecord 3 (match t.meter.tenantSlot id with
    | some k => t.meter.tenant k
    | none => put (Config.noTenantSlot id) 0 24 id) t

/-- TENANT_STATEMENT. -/
def wTenantStatement (v : U32) : WriteOp :=
  { index := 0xA200, sub := 3, access := .rws, size := 4, bytes := bvBytes v, range := fun _ => decide (v.toNat < 2 ^ 24),
    apply := onTsu (tenantStatement (v.setWidth 24)) }

/-- No active meter slot and no entry that is not FREE names the tenant. -/
def tenantIdle (t : Tsu) (id : Id24) : Bool :=
  (t.meter.slotsA.all fun e => !(mActive e.2 && decide (mTenant e.2 = id))) &&
    (t.ledger.all fun e => decide (lState e.2 = lsFree ∨ lTenant e.2 ≠ id))

/-- TENANT_CLOSE (R272): TENANT_FINAL, and the slot is free. -/
def closeTenant (id : Id24) (t : Tsu) : Tsu :=
  match t.meter.tenantSlot id with
  | some k =>
    let t := tenantRecord 4 (t.meter.tenant k) t
    { t with meter := t.meter.setTenant k 0 }
  | none => t

def wTenantClose (v : U32) : WriteOp :=
  { index := 0xA200, sub := 4, access := .rws, size := 4, bytes := bvBytes v,
    ready := fun s =>
      decide (2 ^ 24 ≤ v.toNat) || ((s.tsu.meter.tenantSlot (v.setWidth 24)).isSome && tenantIdle s.tsu (v.setWidth 24)),
    range := fun _ => decide (v.toNat < 2 ^ 24), apply := onTsu (closeTenant (v.setWidth 24)) }

def execTenantStatement (q : Req) (v : U32) (s : State) : Result := perform true (inTurn (.tenantStatement q v)
    (agentWrite .tsu q (wTenantStatement v))) s

def execTenantClose (q : Req) (v : U32) (s : State) : Result := perform true (inTurn (.tenantClose q v)
    (agentWrite .tsu q (wTenantClose v))) s

/-! ## The ring and its signatures (R274 to R277) -/

/-- The signature of a body: r and s, big-endian, 32 bytes each. -/
def signature (key : BitVec 256) (body : BitVec 768) : BitVec 512 :=
  let rs := ecdsaSign key.toNat (sha256 (bvBytes body))
  bytesBv 512 (beBytes 32 rs.1 ++ beBytes 32 rs.2)

/-- The oldest unsigned record of a ring is signed. -/
def signOldest (key : BitVec 256) : List MeterRec → List MeterRec
  | [] => []
  | r :: rest =>
    match r.sig with
    | some _ => r :: signOldest key rest
    | none => { r with sig := some (signature key r.body) } :: rest

/-- RECORD_SIGNED. -/
def execRecordSigned (s : State) : Result :=
  performOn .tsu true (fun s =>
    match s.tsu.meter.key with
    | some k => onMeter (fun m => { m with ring := signOldest k m.ring }) s
    | none => s) s

/-- The oldest record, once it is signed. -/
def oldestSigned (m : Meter) : Option Bytes :=
  match m.ring with
  | r :: _ => r.sig.map fun g => bvBytes r.body ++ bvBytes g
  | [] => none

/-- REC_POP: 160 bytes, all zero while the ring is empty or its oldest record unsigned. -/
def rRecPop : ReadOp :=
  { index := 0xA080, sub := 1, pop := true, value := fun s => (oldestSigned s.tsu.meter).getD (List.replicate 160 0),
    effect := onMeter fun m => if (oldestSigned m).isSome then { m with ring := m.ring.tail } else m }

def execRecPop (q : Req) (s : State) : Result := perform true (inTurn (.recPop q) (agentRead .tsu q rRecPop)) s

/-- FINAL_RECORD_ISSUE (R277). -/
def execFinalRecordIssue (s : State) : Result := performOn .tsu true (onTsu moveFinal) s

/-! ## The seal (R280 to R282) -/

def sealSum (v : BitVec 192) : BitVec 128 := fld v 0 128
def sealParams (v : BitVec 192) : BitVec 64 := fld v 128 64

/-- PROVISIONED or DEPLOYED. -/
def lcOpen (a : Agent) : Bool := decide (lcState a = 1 ∨ lcState a = 2)

/-- Why a seal is refused (Table 10.6), zero for not. -/
def sealReason (v : BitVec 192) (t : Tsu) : Nat :=
  if sealSum v ≠ Config.logicChecksum then 1
  else if 33 ≤ t.meter.sealFuses then 2
  else if !lcOpen t.agent then 3
  else if t.meter.isSealed then 4
  else if !paramsOk (sealParams v) then 5
  else 0

/-- The next seal fuse is blown, its parameters stored and applied. -/
def applySeal (v : BitVec 192) (t : Tsu) : Tsu :=
  let n := t.meter.sealFuses + 1
  let p := putN (sealParams v) 32 32 0
  logTamper 2 n (mpPart p) (applyParams p { t with meter := { t.meter with sealFuses := n, otp := t.meter.otp.set 0 n p } })

/-- SEAL. -/
def wSeal (v : BitVec 192) : WriteOp :=
  { index := 0xA000, sub := 6, access := .rws, size := 24, bytes := bvBytes v, cls := fun _ => .die,
    ready := fun s => decide (s.tsu.meter.sealFuses < 33) && lcOpen s.tsu.agent && !s.tsu.meter.isSealed,
    range := fun _ => decide (sealSum v = Config.logicChecksum) && paramsOk (sealParams v),
    refuse := onTsu fun t => logTamper 4 (sealReason v t) 0 t, apply := onTsu (applySeal v) }

def execMeterSeal (q : Req) (v : BitVec 192) (s : State) : Result := perform true (inTurn (.meterSeal q v) (agentWrite .tsu q (wSeal v))) s

/-- Why a break is refused, zero for not. -/
def unsealReason (t : Tsu) : Nat :=
  if !t.meter.isSealed then 1 else if 32 ≤ t.meter.breakFuses then 2 else if !lcOpen t.agent then 3 else 0

/-- UNSEAL. -/
def wUnseal (v : U8) : WriteOp :=
  { boolCommand 0xA000 7 .rws v (breakSeal 1) with
    cls := fun _ => .die, ready := fun s => decide (v ≠ 1) || decide (unsealReason s.tsu = 0),
    refuse := fun s => if v = 1 then onTsu (fun t => logTamper 5 (unsealReason t) 0 t) s else s }

def execMeterUnseal (q : Req) (v : U8) (s : State) : Result := perform true (inTurn (.meterUnseal q v) (agentWrite .tsu q (wUnseal v))) s

/-- METER_CLEAR (Table 10.8): slots, tenant slots, die counters, the log and the totals. -/
def clearMeter (t : Tsu) : Tsu :=
  logTamper 13 0 0 { t with meter := { t.meter with slotsA := [], slotsB := [], tenantsA := [], tenantsB := [], dieA := {}, dieB := {},
                                                    lastPart := [], finals := [], tamper := [], totals := [] } }

def wMeterClear (v : U8) : WriteOp :=
  { boolCommand 0xA000 9 .sealed v (onTsu clearMeter) with cls := fun _ => .die }

def execMeterClear (q : Req) (v : U8) (s : State) : Result := perform true (inTurn (.meterClear q v) (agentWrite .tsu q (wMeterClear v))) s

end Sys2Proof.Machine
end

