-- ==== Sys2Proof/Machine/PlaneCmds.lean ====
section
/-! DEFINITION. The commands of BLEAT and of the die's two planes (R93, R94, R113 to R117, R351). -/

namespace Sys2Proof.Machine

/-! ## The BLEAT body (Table 4.6) -/

def bleatHt (b : BitVec 448) : HT := fld b 0 80
def bleatOk (b : BitVec 448) : Bool := bitOf b 80
def bleatUp (b : BitVec 448) : Bool := bitOf b 81
def bleatSqc (b : BitVec 448) : Nat := fldN b 82 3
def bleatState (b : BitVec 448) : Nat := fldN b 85 4
def bleatSourceType (b : BitVec 448) : BitVec 4 := fld b 89 4
def bleatSourceId (b : BitVec 448) : U64 := fld b 128 64
def bleatSeq (b : BitVec 448) : U16 := fld b 192 16
def bleatHealth (b : BitVec 448) : Nat := fldN b 208 10
def bleatTimePlane (b : BitVec 448) : Bool := bitOf b 218

/-- TIME_STATE as a number (Table 2.1). -/
def timeStateN : TimeState → Nat
  | .unset => 0
  | .acquire => 1
  | .narrow => 2
  | .calibrate => 3
  | .locked => 4
  | .holdover => 5
  | .freeRun => 6
  | .replayPinned => 7

/-- LOCK_STATE as a number (Table 4.9). -/
def lockStateN : LockState → Nat
  | .free => 0
  | .acq => 1
  | .lock => 2
  | .hold => 3

/-- SOURCE_TYPE of a chip: what a root follows, what the parent's BLEAT says below it, or the own oscillator. -/
def Fjz.sourceType (x : Fjz) : Nat :=
  match x.selTime with
  | some c =>
    if x.role ≠ 3 then x.srcType.toNat else if c = 3 then 4 else if (x.cand c).typ = typPtp then 1 else 2
  | none => if x.selFreq ≠ none then 3 else if x.established then 5 else 0

/-- SOURCE_TYPE of a die. -/
def dieSourceType (s : State) : Nat :=
  match s.tsu.tc.selPlane with
  | some pl => ((port s .tsu (planePort pl)).lastBleat.map fun b => (bleatSourceType b.2).toNat).getD 0
  | none => if s.tsu.tc.htValid then 5 else 0

/-- SOURCE_ID that a chip sends: a root's own source, or the one its parent sent. DESIGN CHOICE (log 63): R111 names no SOURCE_ID for a
root that follows no time candidate; the model sends 0. -/
def Fjz.sourceId (x : Fjz) : U64 :=
  if x.role = 3 then (match x.selTime with | some c => (x.cand c).sourceId | none => 0) else x.srcId

/-- SWITCH_SEQ that a chip sends. -/
def Fjz.sentSeq (x : Fjz) : U16 := if x.role = 3 then x.switchSeq else x.srcSeq

/-- The lowest HEALTH that a chip received from its children in the last period, 104,857.6 ns; 1,000 if none. -/
def childHealth (s : State) : Nat :=
  (s.fjz.childPorts.filterMap fun p =>
    match (port s .fjz p).lastBleat with
    | some (f, b) => if isUp s .fjz p ∧ s.fjz.frc.toNat < f + 104858 then some (bleatHealth b) else none
    | none => none).foldl min 1000

/-- HOLD_BOUND_NS of a sender: zero unless it is in holdover. DESIGN CHOICE (log 63): R111 has a downward BLEAT carry the root's bound
in HOLD, Table 4.6 the sender's; the model sends the sender's own at every level. -/
def bleatBound (s : State) : Dev → Nat
  | .tsu => if s.tsu.tc.state = .holdover then min (openRound s.tsu.tc.holdBound.toNat 1000).toNat 0xFFFFFFFF else 0
  | .fjz => if s.fjz.lock = .hold then min s.fjz.holdBound.toNat 0xFFFFFFFF else 0

/-- The body of a BLEAT; its time is set as it enters its codeword. -/
def bleatBody (s : State) (d : Dev) (p : Nat) : BitVec 448 :=
  let bound := (96, 32, bleatBound s d)
  match d with
  | .tsu =>
    let pl : Plane := if p = 0 then .a else .b
    pack 448 [(80, 1, b2n s.tsu.tc.htValid), (81, 1, 1), (82, 3, s.tsu.tc.effSqc pl), (85, 4, timeStateN s.tsu.tc.state),
      (89, 4, dieSourceType s), bound, (208, 10, s.tsu.health.toNat), (218, 1, b2n (decide (s.tsu.tc.selPlane = some pl)))]
  | .fjz =>
    let x := s.fjz
    let shared := [(80, 1, b2n x.established), (85, 4, lockStateN x.lock), (89, 4, x.sourceType), bound]
    if x.parentPorts.contains p then
      pack 448 (shared ++ [(81, 1, 1), (82, 3, 7), (208, 10, childHealth s), (218, 1, b2n (decide (x.selTime = x.portCand p)))])
    else pack 448 (shared ++ [(82, 3, x.outSqc.toNat), (128, 64, x.sourceId.toNat), (192, 16, x.sentSeq.toNat)])

/-- BLEAT_SEND (R93): at codeword 256 modulo 1,024 of a parent, 768 of a child. -/
def execBleatSend (d : Dev) (p : Nat) (s : State) : Result :=
  performOn d (match d with | .tsu => decide (p < 2) | .fjz => decide (p < 72)) (fun s =>
    let at_ := if isChildSide s d p then 768 else 256
    if (port s d p).slots / 10 % 1024 = at_ then send d p (mkCell tBleat 0 7 (bleatBody s d p)) s else s) s

/-! ## Receiving BLEAT -/

/-- The SQC that a plane's BLEAT carries. -/
def setPlaneSqc (pl : Plane) (sqc : Nat) : State → State :=
  onTc fun tc => match pl with
    | .a => { tc with sqcA := BitVec.ofNat 8 sqc }
    | .b => { tc with sqcB := BitVec.ofNat 8 sqc }

/-- A downward BLEAT reaches a die (R94, R113): the first good one gives it time, a later one judges and may regain its plane. -/
def dieBleat (pl : Plane) (b : BitVec 448) (stamp : Stamp) (s : State) : State :=
  let s := setPlaneSqc pl (bleatSqc b) s
  if s.tsu.tc.state = .unset then
    (if bleatOk b ∧ !planeLost s pl then firstBleat pl (bleatHt b) stamp s else s)
  else reselect (diffPs (stampHt s .tsu stamp) (bleatArrival (port s .tsu (planePort pl)) (bleatHt b))) s

/-- A downward BLEAT reaches a chip on a parent port: its SQC acts at once (R97, R105), and what it copies downwards follows the
selected parent. -/
def parentBleat (p : Nat) (b : BitVec 448) (s : State) : State :=
  match s.fjz.portCand p with
  | none => s
  | some c =>
    let s := withAdoption (setReceived c (bleatSqc b)) s
    if s.fjz.selTime = some c then
      onFjz (fun x => { x with srcId := bleatSourceId b, srcSeq := bleatSeq b, srcType := bleatSourceType b }) s
    else s

/-- BLEAT. -/
def execBleat (d : Dev) (p : Nat) (c : Cell) (stamp : Stamp) (s : State) : Result :=
  performOn d (match d with | .tsu => decide (p < 2) | .fjz => decide (p < 72)) (receive (.bleat d p c stamp) d p [tBleat] c fun s =>
    if bleatUp c.body = isChildSide s d p then s
    else
      let s := onPort d p (fun x => { x with lastBleat := some (counterOf s d, c.body) }) s
      match d with
      | .tsu => dieBleat (if p = 0 then .a else .b) c.body stamp s
      | .fjz => if s.fjz.parentPorts.contains p then parentBleat p c.body s else s) s

/-- BLEAT_TIMEOUT (R113): no BLEAT for 4 periods loses the plane. -/
def execBleatTimeout (plane : Plane) (s : State) : Result :=
  performOn .tsu true (fun s =>
    if bleatFresh s.tsu.tc.frc.toNat (port s .tsu (planePort plane)) then s else reselect 0 s) s

/-- PARENT_BLEAT_TIMEOUT (R97): a parent candidate without a BLEAT for 4 periods is lost. -/
def execParentBleatTimeout (cand : Nat) (s : State) : Result :=
  performOn .fjz (decide (cand < nCands)) (fun s =>
    if !s.fjz.hasCand cand ∨ (s.fjz.cand cand).typ ≠ typParent ∨
        bleatFresh s.fjz.frc.toNat (port s .fjz (s.fjz.candPort cand)) then s
    else withAdoption (loseCand cand) s) s

/-! ## Choice of plane (R114 to R116) -/

/-- PLANE_WTR_EXPIRY (R114): the unselected plane has been the better for PLANE_WTR_S, and no plane is forced. -/
def execPlaneWtrExpiry (s : State) : Result :=
  performOn .tsu true (fun s =>
    let s := judgeBetter s
    match s.tsu.tc.betterSince, s.tsu.tc.selPlane with
    | some f, some pl =>
      let forced := decide (s.tsu.tc.forcePlane = (match pl with | .a => 1 | .b => 2))
      if forced ∨ s.tsu.tc.state = .replayPinned ∨ s.tsu.tc.frc.toNat < f + s.tsu.tc.planeWtrS.toNat * 1000000000 then s
      else switchPlane (otherPlane pl) s
    | _, _ => s) s

/-- FORCE_PLANE (R114, R351). -/
def wForcePlane (v : U8) : WriteOp :=
  { index := 0x4800, sub := 4, access := .rws, size := 1, bytes := [v],
    range := fun s => decide (v.toNat ≤ 2) && (decide (v ≠ 1) || s.tsu.configured .a) && (decide (v ≠ 2) || s.tsu.configured .b),
    apply := fun s => reselect 0 (onTc (fun tc => { tc with forcePlane := v }) s) }

def execForcePlane (q : Req) (v : U8) (s : State) : Result := perform true (inTurn (.forcePlane q v) (agentWrite .tsu q (wForcePlane v))) s

/-- A record of the planes (R115, R117). -/
def planeRecord (code detail : U16) (s : State) : State :=
  raise { code := code, herd := noHerd, object := objOf 0x4800 0, waiter := s.tsu.agent.deviceId.setWidth 32, detail := detail } s

/-- A plane is demoted. -/
def demotePlane (pl : Plane) (s : State) : State :=
  match pl with
  | .a => planeRecord 0x0402 0 (onTc (fun tc => { tc with demotedA := true }) s)
  | .b => planeRecord 0x0402 1 (onTc (fun tc => { tc with demotedB := true }) s)

/-- Ten seconds of high drift: the plane that the neighbours do not follow is demoted (R115). -/
def judgeDrift (d m : Int) (s : State) : State :=
  if (validDrifts s.tsu).length < 4 then planeRecord 0x0403 0 s
  else
    match s.tsu.tc.selPlane with
    | some pl => if m.sign = d.sign ∧ d.natAbs ≤ 2 * m.natAbs then demotePlane pl s else demotePlane (otherPlane pl) s
    | none => s

/-- PLANE_DRIFT_CHECK (R115): once per second while LOCKED the median is taken; where both planes are there, the drift is judged. -/
def execPlaneDriftCheck (s : State) : Result :=
  performOn .tsu true (fun s =>
    let s := if s.tsu.tc.state = .locked then onTsu takeMedian s else s
    if s.tsu.tc.state ≠ .locked ∨ !bothPlanes s then s
    else
      let d := s.tsu.tc.planeDrift.toInt
      let lim := s.tsu.tc.driftDemote.toNat
      let s := onTc (fun tc =>
        { tc with driftHigh := if lim ≤ d.natAbs then tc.driftHigh + 1 else 0,
                  driftLow := if 2 * d.natAbs ≤ lim then tc.driftLow + 1 else 0 }) s
      let s := if s.tsu.tc.driftHigh = 10 then judgeDrift d s.tsu.tc.latMedian.toInt s else s
      judgeBetter (if s.tsu.tc.driftLow = 60 then onTc (fun tc => { tc with demotedA := false, demotedB := false }) s else s)) s

/-- PLANE_OFFSET_RELEASE (R116): the slew of the carried offset may begin. -/
def wPlaneOffsetRelease (v : U8) : WriteOp :=
  boolCommand 0x4800 8 .wo v (onTc fun tc => { tc with released := true })

def execPlaneOffsetRelease (q : Req) (v : U8) (s : State) : Result :=
  perform true (inTurn (.planeOffsetRelease q v) (agentWrite .tsu q (wPlaneOffsetRelease v))) s

/-- PLANE_CONFIG (R351): while every context is FREE; each port acts on its PORT_ENABLE or is held DISABLED, and in a single plane
the plane offset reads zero (Table 14.3). -/
def wPlaneConfig (v : U8) : WriteOp :=
  { index := 0x4800, sub := 0x0A, access := .rws, size := 1, bytes := [v], range := fun _ => decide (v.toNat ≤ 2),
    ready := fun s => s.tsu.allFree,
    apply := fun s =>
      let s := onTc (fun tc =>
        { tc with planeConfig := v, planeOffset := if v = 0 then tc.planeOffset else 0,
                  planeDrift := if v = 0 then tc.planeDrift else 0, offsetAtSwitch := if v = 0 then tc.offsetAtSwitch else none }) s
      reselect 0 (actEnable .tsu 1 (actEnable .tsu 0 s)) }

def execPlaneConfig (q : Req) (v : U8) (s : State) : Result := perform true (inTurn (.planeConfig q v)
    (agentWrite .tsu q (wPlaneConfig v))) s

end Sys2Proof.Machine
end

