-- ==== Sys2Proof/Machine/Recorder.lean ====
section
/-! DEFINITION. The commands of the flight recorder (R24, R288, R292 to R295): draining the tap, the leaf's window, and its
freeze and thaw. -/

namespace Sys2Proof.Machine

/-! ## The tap (R24, R288) -/

/-- Port of the leaf that takes the die's records: plane A's while it is UP. -/
def recordPort (s : State) : Nat := if isUp s .tsu 0 then 0 else 1

/-- Staged cells that the port's P3 buffer has room for. -/
def drainRoom (s : State) : Nat :=
  let p := recordPort s
  if isUp s .tsu p then bufferCap - classWaiting 3 (port s .tsu p) else 0

/-- The oldest staged cells move into the P3 buffer of the port. -/
def drainStaging (s : State) : State :=
  let n := drainRoom s
  let cells := s.tsu.staging.take n
  forAll cells (send .tsu (recordPort s))
    (onTsu (fun t => { t with staging := t.staging.drop n, tapCells := bumpBy t.tapCells cells.length }) s)

/-- TAP_STAGING_DRAIN. -/
def execTapStagingDrain (s : State) : Result := performOn .tsu true drainStaging s

/-! ## The leaf's window (R292, R294) -/

/-- A RECORD cell enters the window area, or is counted while the window is frozen. -/
def storeRecord (p : Nat) (c : Cell) (x : Fjz) : Fjz :=
  if x.recState = .frozen then { x with discardedFrozen := bump x.discardedFrozen }
  else { x with window := pushRing windowCap x.window (storedEntry c.body p c.addr x.frc),
                windowHt := pushRing windowCap x.windowHt x.now }

/-- The first cell of an ERROR record (Table 11.2), which holds CODE, HALTS, DIE and HERD behind the prefix. -/
def isErrorHead (b : BitVec 448) : Bool := decide (fldN b 0 8 = 11) && bitOf b 8

/-- The record that the first cell holds as far as it goes. -/
def headError (b : BitVec 448) : ErrRec := errOf ((fld b 256 192).setWidth 256)

/-- A bit of FREEZE_CODES is set for a code. -/
def freezeCode (x : Fjz) (code : U16) : Bool :=
  let h := code.toNat / 256
  decide (1 ≤ h ∧ h ≤ 11) && bitOf x.freezeCodes (256 * (h - 1) + code.toNat % 256)

/-- Triggers 1 and 3 of Table 11.6. -/
def recordTrigger (c : Cell) (x : Fjz) : Fjz :=
  if !isErrorHead c.body then x
  else
    let e := headError c.body
    if e.halts then freezeTrigger 1 (e.die.setWidth 32) e.herd x
    else if freezeCode x e.code then freezeTrigger 3 (e.die.setWidth 32) e.herd x
    else x

/-- A die's HERD_LEFT reaches the steward that runs on its leaf, or is told to the stewards above (R230). -/
def recordLeft (c : Cell) (s : State) : State :=
  let e := headError c.body
  if isErrorHead c.body && decide (e.code = 0x050D) then
    if s.fjz.isTop e.herd then failDie e.herd e.die 2 s else emit (.memberReport e.herd 2 e.die) s
  else s

/-- RECORD: a cell from a child port of a leaf. -/
def execRecord (p : Nat) (c : Cell) (s : State) : Result :=
  performOn .fjz (portOk .fjz p) (receive (.record p c) .fjz p [tRecord] c fun s =>
    if s.fjz.role ≠ 1 ∨ isChildSide s .fjz p then s
    else recordLeft c (onFjz (fun x => recordTrigger c (storeRecord p c x)) s)) s

/-! ## Freezing and thawing (R294, R295) -/

/-- REC_FREEZE_NOW. -/
def wRecFreezeNow (v : U8) : WriteOp := boolCommand 0x9200 4 .wo v (onFjz (freezeTrigger 4 allOnes32 noHerd))

def execRecFreezeNow (q : Req) (v : U8) (s : State) : Result := perform true (inTurn (.recFreezeNow q v)
    (agentWrite .fjz q (wRecFreezeNow v))) s

/-- The tail has ended. -/
def tailOver (x : Fjz) : Bool :=
  decide (x.recState = .tail ∧ x.freezeAt + x.postTrigger.toNat * 1000000 ≤ x.frc.toNat)

/-- RECORDER_FROZEN: the window is frozen. -/
def execRecorderFrozen (s : State) : Result :=
  performOn .fjz true (fun s =>
    let x := s.fjz
    if !tailOver x then s
    else
      raiseFjz { code := 0x0908, herd := x.freezeHerd, object := 0x92000000, waiter := x.freezeBy, detail := x.freezeTrigger.setWidth 16 }
        (onFjz (fun x => { x with recState := .frozen }) s)) s

/-- REC_THAW: the window area is emptied and stores again. -/
def wRecThaw (v : U8) : WriteOp :=
  boolCommand 0x9200 5 .rws v (onFjz fun x => { x with recState := .recording, window := [], windowHt := [] })

def execRecThaw (q : Req) (v : U8) (s : State) : Result := perform true (inTurn (.recThaw q v) (agentWrite .fjz q (wRecThaw v))) s

/-! ## Reading the window (R295, R316) -/

/-- The 16 entries from an offset; an entry that holds no cell has a content that the manual does not give (log 2). -/
def windowData (x : Fjz) (off : Nat) : Bytes :=
  (List.range 16).flatMap fun i => bvBytes (x.window.getD (off + i) (Config.unwrittenEntry (off + i)))

/-- REC_WINDOW_DATA: REC_WINDOW_OFFSET then advances by 16, unless ELEMENT named the start. -/
def rRecWindowData (q : Req) : ReadOp :=
  let start (s : State) : Nat := element s .fjz q 0x9200 0x0B
  { index := 0x9200, sub := 0x0C, pop := true, present := fun s => decide (start s < windowCap),
    value := fun s => windowData s.fjz (start s),
    effect := fun s => if q.useElement then s else setSelector .fjz q 0x9200 0x0B (start s + 16) s }

def execRecWindowData (q : Req) (s : State) : Result := perform true (inTurn (.recWindowData q) (agentRead .fjz q (rRecWindowData q))) s

end Sys2Proof.Machine
end

