-- ==== Sys2Proof/Machine/Refs.lean ====
section
/-! DEFINITION. The commands of a Fjouz chip's references (R88 to R110): qualification, switches, the OCXO, PTP, reference inputs
and outputs, and ESMC. -/

namespace Sys2Proof.Machine

/-- A candidate (Table 4.1), a PTP port, a reference output. -/
def candOk (c : Nat) : Bool := decide (c < nCands)
def ethOk (e : Nat) : Bool := decide (e < 2)
def outputOk (o : Nat) : Bool := decide (o < 4)

/-- The choice of references on the present tick, with the adoption of a standby parent. -/
def selectRefs : State → State := withAdoption (onFjz Fjz.select)

/-! ## Qualification (R97) -/

/-- The chip's loop against the selected time candidate, in ps: its phase, and the offset absorbed. -/
def Fjz.loopError (x : Fjz) : Option Int := x.selTime.map fun c => (x.cand c).phase + (x.cand c).absorbed.toInt

/-- One second of the loop: in LOCK the error joins the last 100 s (R107); in ACQ a root locks after 16 intervals within a quarter of
the tolerance (Table 4.7). -/
def Fjz.loopSecond (x : Fjz) : Fjz :=
  let x := x.steerFreq
  match x.selTime, x.loopError with
  | some c, some e =>
    let x := if (x.cand c).typ = typParent then x else x.steerPhase e
    if x.lock = .lock then { x with phaseErrs := (e :: x.phaseErrs).take 100 }
    else if x.lock = .acq ∧ (x.cand c).typ ≠ typParent then
      let n := if 4 * e.natAbs ≤ (x.cand c).phaseTol.toNat then x.acqRun + 1 else 0
      if n < 16 then { x with acqRun := n }
      else Fjz.setOut { x with acqRun := n, lock := .lock, established := true, lockSince := some x.frc.toNat }
    else x
  | _, _ => x

/-- A second without a pulse at a reference input is an unused one; the third in a row loses the candidate (R90). -/
def ppsSecond (c : Nat) (s : State) : State :=
  let k := s.fjz.cand c
  match k.ppsAt with
  | some f =>
    if k.typ ≠ typPps ∨ s.fjz.frc.toNat ≤ f + 1000000000 then s
    else
      let s := onCand c (fun k => { k with unused := k.unused + 1 }) s
      if 3 ≤ k.unused + 1 then loseCand c s else s
  | none => s

/-- FEC symbols that ports of the chip corrected in the second now over (R86). -/
def countChipSymbols (symbols : List (Nat × Nat)) (s : State) : State :=
  forAll (symbols.filter fun e => decide (e.1 < 72)) (fun e s =>
    onPort .fjz e.1 (fun x => { x with symCorr := bumpBy x.symCorr e.2 }) s) s

/-- REF_QUALIFY: the second's measurements, the procedure of R97 for each candidate, and the choice; with them the FEC
symbols that the chip's ports corrected in that second (log 56). -/
def execRefQualify (meas : SecondMeas) (s : State) : Result :=
  performOn .fjz true (withAdoption fun s =>
    let s := countChipSymbols meas.symbols s
    let s := forAll (meas.cands.filter fun m => s.fjz.hasCand m.cand) measure s
    let s := forAll (List.range 4) ppsSecond s
    let s := onFjz Fjz.loopSecond s
    let s := forAll (List.range nCands) qualify s
    onFjz Fjz.select s) s

/-! ## Switches (Table 4.8) -/

/-- Steps 3 and 4 of a switch: Δ is absorbed by a time target, the root counts it, and the chip selects again. -/
def endSwitch (w : Switch) (deltaPs : Int) (x : Fjz) : Fjz :=
  let x : Fjz :=
    if w.freq then { x with selFreq := some w.target, switch := none }
    else
      { x with selTime := some w.target, switch := none, realigning := false, realignFrac := 0,
               switchSeq := if x.role = 3 then x.switchSeq + 1 else x.switchSeq,
               cands := x.cands.upd {} w.target fun k => { k with absorbed := i64 deltaPs, baseline := k.phase, phaseErr := 0 } }
  x.select

/-- SWITCH_WINDOW_END (R99). -/
def execSwitchWindowEnd (deltaPs : Int) (s : State) : Result :=
  performOn .fjz true (withAdoption fun s =>
    match s.fjz.switch with
    | some w =>
      let span := if w.freq then 1000000000 else windowTicks (s.fjz.cand w.target)
      if s.fjz.frc.toNat < w.started + span then s else onFjz (endSwitch w deltaPs) s
    | none => s) s

/-- REALIGN (R101): refused during a switch and below the root. -/
def wRealign (v : U8) : WriteOp :=
  { boolCommand 0x4200 8 .wo v (onFjz fun x => { x with realigning := true, realignFrac := 0 }) with
    ready := fun s => decide (s.fjz.role = 3 ∧ s.fjz.switch = none) }

def execRealign (q : Req) (v : U8) (s : State) : Result := perform true (inTurn (.realign q v) (agentWrite .fjz q (wRealign v))) s

/-- HOLD_WTR_EXPIRY (R103): a time candidate has been eligible for HOLD_WTR_S in HOLD, or in FREE once established; a switch of the
frequency selection that is under way ends first (R100). -/
def execHoldWtrExpiry (s : State) : Result :=
  performOn .fjz true (withAdoption fun s =>
    onFjz (fun x =>
      let x := x.markEligible
      let waited := (List.range nCands).any fun c => x.eligible c && (x.cand c).isTime &&
        ((x.cand c).eligibleSince.any fun f => decide (f + x.holdWtr.toNat * 1000000000 ≤ x.frc.toNat))
      match x.bestTime with
      | some c =>
        if (x.lock = .hold ∨ (x.lock = .free ∧ x.established = true)) ∧ waited = true ∧ x.switch = none then
          Fjz.setOut (Fjz.startSwitch { x with lock := .lock, holdBound := 0, lockSince := some x.frc.toNat, phaseErrs := [] } c false)
        else x
      | none => x) s) s

/-! ## Candidate objects -/

/-- Types that REF_TYPE of a candidate accepts (Table 4.12). -/
def typeAllowed (c : Nat) (v : U8) : Bool :=
  decide (v = 0) ||
    (if c < 4 then decide (v = typFreq ∨ v = typPps) else if c < 6 then decide (v = typPtp)
     else if c < 8 then decide (v = typSynce) else decide (v = typParent))

/-- The default tolerances of a type (R95, Table 4.7); a frequency type has no phase tolerance. -/
def loadDefaults (v : U8) (k : Cand) : Cand :=
  if v = typPtp then { k with phaseTol := 250000, freqTol := 10000 }
  else if v = typPps then { k with phaseTol := 50000, freqTol := 10000 }
  else if v = typFreq ∨ v = typSynce then { k with freqTol := 2000 }
  else if v = typParent then { k with phaseTol := 1000, freqTol := 50000 }
  else k

/-- REF_TYPE (R95, R97). -/
def wRefType (c : Nat) (v : U8) : WriteOp :=
  { index := 0x4100 + c, sub := 1, access := .rws, size := 1, bytes := [v], range := fun _ => typeAllowed c v,
    apply := withAdoption fun s =>
      let s := onCand c (fun k => loadDefaults v { k with typ := v }) s
      if v = 0 then dropCand c s else onFjz Fjz.select s }

def execRefType (q : Req) (cand : Nat) (v : U8) (s : State) : Result :=
  perform (candOk cand) (inTurn (.refType q cand v) (agentWrite .fjz q (wRefType cand v))) s

/-- REF_PRIORITY (R97). -/
def wRefPriority (c : Nat) (v : U8) : WriteOp :=
  { index := 0x4100 + c, sub := 3, access := .rws, size := 1, bytes := [v],
    apply := withAdoption fun s =>
      let s := onCand c (fun k => { k with priority := v }) s
      if v = 0 then dropCand c s else onFjz Fjz.select s }

def execRefPriority (q : Req) (cand : Nat) (v : U8) (s : State) : Result :=
  perform (candOk cand) (inTurn (.refPriority q cand v) (agentWrite .fjz q (wRefPriority cand v))) s

/-- FORCE_REF (R98). -/
def wForceRef (v : U8) : WriteOp :=
  { index := 0x4200, sub := 7, access := .rws, size := 1, bytes := [v],
    apply := fun s => selectRefs (onFjz (fun x => { x with forceRef := v }) s) }

def execForceRef (q : Req) (v : U8) (s : State) : Result := perform true (inTurn (.forceRef q v) (agentWrite .fjz q (wForceRef v))) s

/-- FREE_SERVE (R103): in FREE, not established, hall time starts from FREE_START_HT. -/
def wFreeServe (v : U8) : WriteOp :=
  { index := 0x4200, sub := 0x0F, access := .rws, size := 1, bytes := [v], range := fun _ => boolOk v,
    apply := onFjz fun x =>
      let x := { x with freeServe := decide (v = 1) }
      if v = 1 ∧ x.lock = .free ∧ x.established = false then
        Fjz.setOut { x with htOffset := x.freeStart - BitVec.ofNat 80 (x.frc.toNat * 65536), established := true }
      else x }

def execFreeServe (q : Req) (v : U8) (s : State) : Result := perform true (inTurn (.freeServe q v) (agentWrite .fjz q (wFreeServe v))) s

/-! ## Holdover on the OCXO (R106, R107) -/

/-- The five points of OCXO_TABLE: temperature in mK, fractional frequency in 10^-12. -/
def ocxoPoints (t : BitVec 320) : List (Int × Int) :=
  (List.range 5).map fun k => ((fld t (64 * k) 32).toInt, (fld t (64 * k + 32) 32).toInt)

/-- The temperatures are distinct and span at least 20 K. -/
def ocxoOk (t : BitVec 320) : Bool :=
  let xs := (ocxoPoints t).map (·.1)
  decide xs.Nodup && decide (20000 ≤ spread xs)

/-- Weight of point i: one over the product of its distances from the others. -/
def ocxoWeight (xs : List Rat) (i : Nat) : Rat :=
  1 / ((List.range 5).foldl (fun p j => if j = i then p else p * (xs.getD i 0 - xs.getD j 0)) 1)

/-- P(θ): the least-squares cubic through five points. The residual of a cubic fit to five points lies along the weights of the fourth
divided difference, so taking it away leaves five points of the cubic, through which Lagrange's formula passes. -/
def ocxoCubic (t : BitVec 320) (theta : Int) : Rat :=
  let ps := ocxoPoints t
  let xs : List Rat := ps.map fun p => (p.1 : Rat)
  let ys : List Rat := ps.map fun p => (p.2 : Rat)
  let ws := (List.range 5).map (ocxoWeight xs)
  let num := ((List.range 5).map fun i => ws.getD i 0 * ys.getD i 0).sum
  let den := ((List.range 5).map fun i => ws.getD i 0 * ws.getD i 0).sum
  let fit (i : Nat) : Rat := ys.getD i 0 - ws.getD i 0 * (num / den)
  ((List.range 5).map fun i =>
    (List.range 5).foldl (fun p j => if j = i then p else p * ((theta : Rat) - xs.getD j 0) / (xs.getD i 0 - xs.getD j 0)) (fit i)).sum

/-- P(θ) in 10^-12; left open while the table does not hold five distinct temperatures. -/
def ocxoP (t : BitVec 320) (theta : Int) : Rat :=
  if ((ocxoPoints t).map (·.1)).Nodup then ocxoCubic t theta else (Config.ocxoUnfitted theta : Rat)

/-- The correction −y(t) in 10^-18, a number of ms after entry to HOLD; none where a frequency candidate stands in for the model (R96). -/
def Fjz.correction (x : Fjz) (theta : Int) (ms : Nat) : Int :=
  if x.selFreq ≠ none then 0
  else
    let a : Int := if x.ocxoAgeValid then x.ocxoAge.toInt else 0
    let y : Rat := (ocxoP x.ocxo theta - ocxoP x.ocxo x.holdTemp.toInt) * 1000000 +
      ((a * ms * 1000000000000000 : Int) : Rat) / 72057594037927936
    openRound (-y).num y.den

/-- HOLD_UPDATE: a 1 ms sample of the OCXO's temperature; in HOLD the correction and the bound, and FREE past the limit. -/
def execHoldUpdate (tempMk : I64) (s : State) : Result :=
  performOn .fjz true (onFjz fun x =>
    let theta := tempMk.toInt
    let x := { x with ocxoTemp := tempMk, temps := (theta :: x.temps).take 1000 }
    if x.lock ≠ .hold then x
    else
      let ms := (x.frc.toNat - x.holdEntry) / 1000000
      let x := { x with tempSum := x.tempSum + (theta - x.holdTemp.toInt).natAbs }
      let scaled := x.holdBoundScaled ms
      let x := { x with freqCorr := x.correction theta ms, holdBound := BitVec.ofInt 64 (openRound scaled (2 * 10 ^ 15)) }
      if x.holdFreeLimit.toNat * (2 * 10 ^ 15) < scaled then
        Fjz.setOut { x with lock := .free, freqCorr := 0, holdBound := 0 }
      else x.setOut) s

/-- OCXO_TABLE (R106). -/
def wOcxoTable (v : BitVec 320) : WriteOp :=
  { index := 0x4300, sub := 1, access := .rws, size := 40, bytes := bvBytes v, range := fun _ => ocxoOk v,
    apply := onFjz fun x => { x with ocxo := v } }

def execOcxoTable (q : Req) (v : BitVec 320) (s : State) : Result := perform true (inTurn (.ocxoTable q v)
    (agentWrite .fjz q (wOcxoTable v))) s

/-- OCXO_AGEING_VALID (R106): 24 h in LOCK without a break. -/
def execOcxoAgeingValid (s : State) : Result :=
  performOn .fjz true (onFjz fun x =>
    match x.lockSince with
    | some f =>
      if x.lock = .lock ∧ f + 86400000000000 ≤ x.frc.toNat then
        { x with ocxoAgeValid := true, ocxoAge := Config.learnOcxoAgeing x.frc.toNat }
      else x
    | none => x) s

/-! ## PTP (R89, Table 4.2) -/

/-- SQC of a clockClass (Table 4.5). -/
def classSqc (c : U8) : Nat :=
  let n := c.toNat
  if n = 6 then 0 else if n = 7 ∨ n = 140 then 1 else if n = 13 then 2 else if n = 14 ∨ n = 150 then 3
  else if n = 160 ∨ n = 165 then 4 else if n = 52 ∨ n = 58 ∨ n = 187 ∨ n = 193 ∨ n = 248 then 6 else 7

/-- Candidate of a PTP port, and of its recovered clock. -/
def ptpCand (e : Nat) : Nat := 4 + e
def synceCand (e : Nat) : Nat := 6 + e

/-- A message comes on the port's transport, and from its configured address where it is not multicast (Table 4.2). -/
def Eth.takes (x : Eth) (transport : U8) (source : BitVec 128) : Bool :=
  decide (transport = x.transport) && (decide (x.unicast = 0) || decide (source = x.unicast))

/-- A message is of the port's transport and domain and of its chosen grandmaster; only a root takes PTP (R88). -/
def ptpFor (s : State) (e : Nat) (m : PtpMsg) : Bool :=
  let x := s.fjz.eth e
  decide (s.fjz.role = 3 ∧ m.domain = x.domain ∧ m.gm = x.gm) && x.takes m.transport m.source && !x.senders.isEmpty

/-- PTP_SYNC: t2, and t1 of a one-step Sync. -/
def execPtpSync (e : Nat) (m : PtpMsg) (t2 : Stamp) (s : State) : Result :=
  performOn .fjz (ethOk e) (fun s =>
    if !ptpFor s e m then s
    else
      onEth e (fun x =>
        { x with t2 := some (stampHt s .fjz t2), t1 := if m.twoStep then none else some (htAddPs m.originHt m.corrPs),
                 syncSeq := if m.twoStep then some m.seqId else none, syncCorr := m.corrPs }) s) s

/-- PTP_FOLLOW_UP: t1 of a two-step Sync. -/
def execPtpFollowUp (e : Nat) (m : PtpMsg) (s : State) : Result :=
  performOn .fjz (ethOk e) (fun s =>
    if !ptpFor s e m ∨ (s.fjz.eth e).syncSeq ≠ some m.seqId then s
    else
      onEth e (fun x => { x with t1 := some (htAddPs m.originHt (x.syncCorr + m.corrPs)), syncSeq := none }) s) s

/-- The order of the default algorithm between two Announce senders: priority1, class, accuracy, variance, priority2, identity,
steps removed. -/
def announceKey (a : Announce) : List Nat :=
  [a.priority1.toNat, a.clockClass.toNat, a.accuracy.toNat, a.variance.toNat, a.priority2.toNat, a.gm.toNat, a.stepsRemoved.toNat]

def lexLess : List Nat → List Nat → Bool
  | x :: xs, y :: ys => decide (x < y) || (decide (x = y) && lexLess xs ys)
  | _, _ => false

/-- The best of the senders heard. -/
def bestSender (xs : List Announce) : Option Announce :=
  xs.foldl (fun b a => match b with
    | some c => if lexLess (announceKey a) (announceKey c) then some a else some c
    | none => some a) none

/-- The winner among the senders heard is the candidate, and its clockClass gives the SQC (R89, R92). -/
def followBest (e : Nat) (s : State) : State :=
  match bestSender (s.fjz.eth e).senders with
  | none => s
  | some w =>
    let s := onEth e (fun x =>
      let x := { x with clockClass := w.clockClass }
      if x.gm = w.gm then x else { x with gm := w.gm, t1 := none, t2 := none, syncSeq := none, t3 := none }) s
    withAdoption (setReceived (ptpCand e) (classSqc w.clockClass)) (onCand (ptpCand e) (fun k => { k with sourceId := w.gm }) s)

/-- PTP_ANNOUNCE: only senders with ptpTimescale set are accepted; the winner is the candidate, and its clockClass gives the SQC
(R89, R92). -/
def execPtpAnnounce (e : Nat) (a : Announce) (s : State) : Result :=
  performOn .fjz (ethOk e) (fun s =>
    let x := s.fjz.eth e
    if s.fjz.role ≠ 3 ∨ a.ptpTimescale = false ∨ a.domain ≠ x.domain ∨ !x.takes a.transport a.source then s
    else
      followBest e (onEth e (fun x =>
        { x with senders := (x.senders.filter fun b => b.gm ≠ a.gm) ++ [a],
                 heardAt := (x.heardAt.filter fun h => h.1 ≠ a.gm) ++ [(a.gm, s.fjz.frc.toNat)] }) s)) s

/-- PTP_DELAY_REQ_SEND: every 2^-n s as PTP_LOG_INTERVAL says, on the port's transport, to its unicast address or as multicast. -/
def execPtpDelayReqSend (e : Nat) (t3 : Stamp) (s : State) : Result :=
  performOn .fjz (ethOk e) (fun s =>
    let x := s.fjz.eth e
    let f := s.fjz.frc.toNat
    if s.fjz.role ≠ 3 ∨ (x.delayAt.any fun g => decide (f < g + 1000000000 / 2 ^ x.logInterval.toNat)) = true then s
    else
      let seq := x.delaySeq + 1
      emit (.delayReq e seq x.transport x.unicast)
        (onEth e (fun x => { x with delaySeq := seq, t3 := some (stampHt s .fjz t3), delayAt := some f }) s)) s

/-- PTP_DELAY_RESP: the exchange is complete, and gives the path delay and the candidate's phase, the asymmetry taken away (R89). -/
def execPtpDelayResp (e : Nat) (m : PtpMsg) (s : State) : Result :=
  performOn .fjz (ethOk e) (fun s =>
    let x := s.fjz.eth e
    match x.t1, x.t2, x.t3 with
    | some t1, some t2, some t3 =>
      if !ptpFor s e m ∨ m.seqId ≠ x.delaySeq then s
      else
        let t4 := htAddPs m.originHt (-m.corrPs)
        let a : Int := (t2 - t1).toInt
        let b : Int := (t4 - t3).toInt
        let theta := openRound ((a - b) * 1000 - x.asym.toInt * 65536) (2 * 65536)
        let s := onEth e (fun x => { x with pathDelay := openRound ((a + b) * 1000) (2 * 65536), t3 := none }) s
        onCand (ptpCand e) (fun k => { k with phase := -theta, phaseErr := i64 (-theta - k.baseline) }) s
    | _, _, _ => s) s

/-- A sender has not been heard for 3 of its Announce intervals (Table 4.2). -/
def Eth.silent (x : Eth) (f : Nat) (a : Announce) : Bool :=
  !(x.heardAt.any fun h => decide (h.1 = a.gm ∧ f < h.2 + 3 * a.intervalNs))

/-- PTP_ANNOUNCE_TIMEOUT (R97): the receipt timeout of the chosen grandmaster has expired, so the candidate is lost; the best of the
senders still heard is then the candidate. -/
def execPtpAnnounceTimeout (e : Nat) (s : State) : Result :=
  performOn .fjz (ethOk e) (fun s =>
    let x := s.fjz.eth e
    let silent := x.silent s.fjz.frc.toNat
    if s.fjz.role ≠ 3 ∨ (x.senders.any fun a => decide (a.gm = x.gm) && silent a) = false then s
    else
      followBest e (withAdoption (loseCand (ptpCand e)) (onEth e (fun x =>
        { x with senders := x.senders.filter fun a => !silent a, t1 := none, t2 := none, t3 := none, syncSeq := none }) s))) s

/-! ## Reference inputs and outputs (R90, R91) -/

/-- REF_PPS_EDGE: a pulse; the one before it counts as unused if no valid message named it. -/
def execRefPpsEdge (cand : Nat) (stamp : Stamp) (s : State) : Result :=
  performOn .fjz (candOk cand) (fun s =>
    let k := s.fjz.cand cand
    if 4 ≤ cand ∨ k.typ ≠ typPps then s
    else
      let unused := if k.ppsStamp = none then k.unused else k.unused + 1
      let s := onCand cand (fun k =>
        { k with unused := unused, ppsAt := some s.fjz.frc.toNat,
                 ppsStamp := some (htAddPs (stampHt s .fjz stamp) (-k.cableDelay.toInt)) }) s
      if 3 ≤ unused then withAdoption (loseCand cand) s else s) s

/-- A time-of-day message is well formed (Table 4.3). -/
def todOk (m : BitVec 184) : Bool :=
  decide (fld m 0 8 = 0xA5 ∧ fld m 8 8 = 1 ∧ fld m 168 16 = crc16 ((bvBytes m).take 21))

/-- TOD_MESSAGE: it names the second of the pulse of the last 500 ms. -/
def execTodMessage (cand : Nat) (m : BitVec 184) (s : State) : Result :=
  performOn .fjz (candOk cand) (fun s =>
    let k := s.fjz.cand cand
    match k.ppsAt, k.ppsStamp with
    | some f, some ht =>
      if k.typ ≠ typPps ∨ !todOk m ∨ f + 500000000 < s.fjz.frc.toNat then s
      else
        let phase := diffPs (htOfNs (fldN m 16 64 * 1000000000)) ht
        let s := onCand cand (fun k =>
          { k with phase := phase, phaseErr := i64 (phase - k.baseline), ppsStamp := none, unused := 0,
                   cross := (bitOf m 83 :: k.cross).take 2, sourceId := fld m 88 64 }) s
        selectRefs (withAdoption (setReceived cand (fldN m 80 3)) s)
    | _, _ => s) s

/-- REF_CLOCK_LOSS (R97). -/
def execRefClockLoss (cand : Nat) (s : State) : Result :=
  performOn .fjz (candOk cand) (fun s =>
    let k := s.fjz.cand cand
    if k.typ = typFreq ∨ k.typ = typSynce then withAdoption (loseCand cand) s else s) s

/-- SQC of an SSM code (Table 4.5). -/
def ssmSqc (ql : BitVec 4) : Nat := if ql = 0x2 then 0 else if ql = 0x4 then 2 else if ql = 0x8 then 4 else if ql = 0xB then 6 else 7

/-- ESMC (R92). -/
def execEsmc (e : Nat) (ql : BitVec 4) (s : State) : Result :=
  performOn .fjz (ethOk e) (fun s =>
    if s.fjz.role ≠ 3 then s
    else withAdoption (setReceived (synceCand e) (ssmSqc ql))
        (onEth e (fun x => { x with esmcQl := ql.setWidth 8, esmcAt := some s.fjz.frc.toNat }) s)) s

/-- ESMC_TIMEOUT (R92): no ESMC for 5 s gives SQC 7. -/
def execEsmcTimeout (e : Nat) (s : State) : Result :=
  performOn .fjz (ethOk e) (fun s =>
    let heard := (s.fjz.eth e).esmcAt.any fun f => decide (s.fjz.frc.toNat < f + 5000000000)
    if s.fjz.role ≠ 3 ∨ heard = true then s else withAdoption (setReceived (synceCand e) 7) s) s

/-- The message of a PPS_TOD output for a second (Table 4.3). -/
def todOf (s : State) (seconds : Nat) (source : U64) : BitVec 184 :=
  let m : BitVec 184 := pack 184 [(0, 8, 0xA5), (8, 8, 1), (16, 64, seconds), (80, 3, s.fjz.outSqc.toNat),
    (83, 1, b2n (decide (s.fjz.selTime = some 3))), (88, 64, source.toNat)]
  put m 168 16 (crc16 ((bvBytes m).take 21))

/-- REF_OUT_PPS (R91): the pulse rises its advance before the second, once hall time is established, and stays high for 100 µs. -/
def execRefOutPps (o : Nat) (s : State) : Result :=
  performOn .fjz (outputOk o) (fun s =>
    let x := s.fjz.outs.get {} o
    let ns := nsOf s.fjz.now + cdiv x.adv.toNat 1000
    let source := if s.fjz.role = 3 then (match s.fjz.selTime with | some c => (s.fjz.cand c).sourceId | none => 0) else s.fjz.srcId
    if x.mode ≠ 2 ∨ s.fjz.established = false ∨ ns % 1000000000 ≠ 0 then s
    else
      emit (.refPulse o x.adv (todOf s (ns / 1000000000) source))
        (onFjz (fun f => { f with outs := f.outs.upd {} o fun x => { x with highUntil := f.frc.toNat + 100000 } }) s)) s

end Sys2Proof.Machine
end

