-- ==== Sys2Proof/Machine/Sync.lean ====
section
/-! DEFINITION. The commands of the sync engine (06_sync_objects_watches.md): signals, watches and their timeouts and notifications,
and the writes of its objects. -/

namespace Sys2Proof.Machine

/-! ## Signals (Table 6.1, R159, R161) -/

abbrev Token := U64

def sgOp (t : Token) : Nat := fldN t 0 2
def sgCtx (t : Token) : Nat := fldN t 2 6
def sgObj (t : Token) : Nat := fldN t 8 16
def sgAmount (t : Token) : Nat := fldN t 24 16
def sgRegion (t : Token) : Nat := fldN t 40 8
def sgChannel (t : Token) : Nat := fldN t 48 8

/-- Source of a region's signal, as a record names it (R177). -/
def sgSource (t : Token) : U32 := BitVec.ofNat 32 (sgRegion t * 256 + sgChannel t)

/-- Object of a signal; a reserved OP names class 0x6080 (R177). -/
def sgObject (t : Token) : U32 := if sgOp t = 2 then eventObj (sgObj t) else counterObj (sgObj t)

/-- The signal's object lies in the declared range of its class, and its region among the declared ones. -/
def sgOwned (x : Herd) (t : Token) : Bool :=
  decide (x.state ≠ .free) && x.holds (if sgOp t = 2 then 4 else 3) (sgObj t) && x.regionMask.getLsbD (sgRegion t)

/-- AMOUNT is in range for OP (Table 6.1). -/
def sgAmountOk (t : Token) : Bool :=
  match sgOp t with
  | 0 => true
  | 1 => decide (sgAmount t < 48)
  | _ => decide (sgAmount t = 0)

/-- A record about a signal: no herd where its context is FREE. -/
def signalRecord (code : U16) (halts : Bool) (t : Token) (s : State) : State :=
  let x := s.tsu.herd (sgCtx t)
  if x.state = .free then
    raise { code := code, halts := halts, herd := noHerd, object := sgObject t, waiter := sgSource t } s
  else raiseHerd (sgCtx t) code halts (sgObject t) (sgSource t) x.iter16 0 s

/-- SIGNAL_FOREIGN halts the herd that the signal names if it is RUNNING. -/
def signalForeign (t : Token) (s : State) : State :=
  let x := s.tsu.herd (sgCtx t)
  if x.state = .running then faultHerd (sgCtx t) 0x0606 (sgObject t) (sgSource t) x.iter16 0 s
  else signalRecord 0x0606 false t s

/-- A channel of a service region that RECORD_INGRESS names (R286). -/
def ingressRecorded (t : Tsu) (region channel : Nat) : Bool :=
  decide (48 ≤ region ∧ region < 52 ∧ channel < 32) && bitOf t.recordIngress (32 * (region - 48) + channel)

/-- The records of a recorded channel's signal: INGRESS_DATA for each write that it completes, up to 960 bytes a record, then
INGRESS_SIGNAL (R290, Table 11.4). -/
def tapIngress (t : Token) (s : State) : State :=
  let one (w : U8 × U32 × List (BitVec 8)) (s : State) : State :=
    forAll (List.range (cdiv w.2.2.length 960)) (fun k s =>
      let piece := (w.2.2.drop (960 * k)).take 960
      tapHerd 5 (sgCtx t) ([BitVec.ofNat 8 (sgRegion t), BitVec.ofNat 8 (sgChannel t), w.1] ++ bvBytes w.2.1 ++
        leBytes 2 piece.length ++ piece) s) s
  tapHerd 4 (sgCtx t) (bvBytes t)
    (forAll (Config.ingressWrites (sgRegion t) (sgChannel t) s.tsu.tc.frc.toNat) one s)

/-- The accepted signal acts on its object. -/
def applySignal (t : Token) (s : State) : State :=
  let h := sgCtx t
  match sgOp t with
  | 0 => signalCounter h (sgObj t) (sgSource t) (· + BitVec.ofNat 48 (sgAmount t)) s
  | 1 => signalCounter h (sgObj t) (sgSource t) (· ||| (1#48 <<< sgAmount t)) s
  | _ => signalEvent h (sgObj t) (sgSource t) s

/-- A signal is checked in the order of R159 and applied in phase 2, with its record where its channel is recorded. -/
def takeSignal (t : Token) (s : State) : State :=
  let x := s.tsu.herd (sgCtx t)
  if sgOp t = 3 then signalRecord 0x0607 false t s
  else if !sgOwned x t then signalForeign t s
  else if sgOp t = 0 ∧ sgAmount t = 0 then onTsu (fun t => { t with signalIgnored := bump t.signalIgnored }) s
  else if !sgAmountOk t then signalRecord 0x0607 false t s
  else
    applySignal t (if ingressRecorded s.tsu (sgRegion t) (sgChannel t) then tapIngress t s else s)

/-- A signal command takes tokens of its own OP, and those whose OP is reserved. -/
def signalCommand (i : Instr) (op : Nat) (t : Token) (e : Ecc) : State → State :=
  let act (s : State) : State := if sgOp t = op ∨ sgOp t = 3 then takeSignal t (syncFaults e (countCorrected e s)) else s
  inTurn i (if sgRegion t < 52 then fromRegion (sgRegion t) qSignal i act else act)

def execCtrAdd (tok : U64) (ecc : Ecc) (s : State) : Result := performOn .tsu true (signalCommand (.ctrAdd tok ecc) 0 tok ecc) s

def execCtrSetbit (tok : U64) (ecc : Ecc) (s : State) : Result :=
  performOn .tsu true (signalCommand (.ctrSetbit tok ecc) 1 tok ecc) s

def execEventSet (tok : U64) (ecc : Ecc) (s : State) : Result := performOn .tsu true (signalCommand (.eventSet tok ecc) 2 tok ecc) s

/-! ## Watches (R165 to R172) -/

/-- The entry that a registration token spells, before the TSU fills ROUND and STATUS: its reserved bits read zero (R6). -/
def tokenWatch (tok : BitVec 208) : Watch := { entry := putN (putN (putN (tok.setWidth 256) 5 3 0) 14 2 0) 102 26 0 }

def Watch.timeoutAbs (w : Watch) : Bool := bitOf w.entry 4

/-- Absolute target of a registration taken now (R35). -/
def watchTarget (now : HT) (w : Watch) : HT :=
  if w.timeoutAbs then fld w.entry 128 80 else now + htOfNs (fldN w.entry 128 32)

/-- How far ahead the timeout lies, in 2^-16 ns; below zero for a target already past. -/
def watchAhead (now : HT) (w : Watch) : Int := (watchTarget now w).toNat - now.toNat

/-- What a registration meets (R165). -/
inductive Registered where
  | refused | quota | invalid | short | taken
  deriving DecidableEq, Repr

/-- COND, object, REGION, bit index, CONSUME and WAITER_TAG of a registration are right. -/
def watchValid (t : Tsu) (x : Herd) (w : Watch) : Bool :=
  decide (w.cond ≤ 3) && x.holds (if w.cond = 3 then 4 else 3) w.obj && x.regionMask.getLsbD w.region &&
    !(decide (w.cond = 2 ∧ 47 < fldN w.cmp 0 6)) && !(w.consume && decide (w.cond ≠ 3)) &&
    !(t.watches.any fun e => e.2.waiting && decide (e.2.region = w.region ∧ e.2.tag = w.tag))

/-- The checks of a registration in their order. -/
def registerCheck (t : Tsu) (w : Watch) : Registered :=
  let x := t.herd w.ctx
  let ahead := watchAhead t.now w
  if x.state ≠ .running then .refused
  else if x.watchQuota ≤ t.herdWatches w.ctx then .quota
  else if !watchValid t x w then .invalid
  else if ahead < (x.watchMin.toNat : Int) * 65536 ∨ 4294967295 * 65536 < ahead then .short
  else .taken

/-- The lowest free slot. -/
def freeSlot (t : Tsu) : Option Nat := (List.range nWatches).find? fun i => !(t.watch i).live

/-- A registration is placed in a slot on this tick. -/
def placeWatch (slot : Nat) (w : Watch) (s : State) : State :=
  let t := s.tsu
  let target := watchTarget t.now w
  let e := putN (putN w.entry 208 16 (t.herd w.ctx).iter16) 224 32 1
  let fire := if t.replayStrict then none else convert t.tc target
  let s := onWatch slot (fun _ => { entry := e, target := target, fire := fire }) s
  onHerd w.ctx (fun x =>
    { x with watchPeak := if x.watchPeak.toNat < s.tsu.herdWatches w.ctx then BitVec.ofNat 16 (s.tsu.herdWatches w.ctx)
                          else x.watchPeak }) s

/-- A registration is refused, or finds no free slot, or is taken (R165). -/
def takeWatch (region : Nat) (tok : BitVec 208) (s : State) : State :=
  let w := tokenWatch tok
  let x := s.tsu.herd w.ctx
  match registerCheck s.tsu w with
  | .refused =>
    toRegion w.region oNotify (.notify w.region (notification outRefused w.tag (watchValue s.tsu w) s.tsu.tc.frc.toNat)) s
  | .quota =>
    faultHerd w.ctx 0x0508 (herdObj w.ctx) (BitVec.ofNat 32 (runningStep s.tsu w.region w.ctx).1) x.iter16 0 s
  | .invalid => faultHerd w.ctx 0x0604 w.object w.waiter x.iter16 0 s
  | .short => faultHerd w.ctx 0x0605 w.object w.waiter x.iter16 0 s
  | .taken =>
    match freeSlot s.tsu with
    | some i => placeWatch i w s
    | none => onRegion region (fun r => { r with watchQueue := tok :: r.watchQueue }) s

/-- WATCH_REGISTER: taken at once where nothing waits before it and the queue has given no entry on this tick (R329), else behind the
registrations that wait in the region's queue. -/
def execWatchRegister (region : Nat) (tok : BitVec 208) (s : State) : Result :=
  performOn .tsu (decide (region < 52)) (inTurn (.watchRegister region tok) fun s =>
    let r := s.tsu.region region
    if r.watchQueue.isEmpty && !r.took qWatch && !queuesHeld s.tsu qWatch then takeWatch region tok (onRegion region (Region.took1 qWatch) s)
    else onRegion region (fun r => { r with watchQueue := r.watchQueue ++ [tok] }) s) s

/-- WATCH_REGISTER_DEFERRED: the head of the region's queue is taken once a slot is free (R165). -/
def execWatchRegisterDeferred (region : Nat) (s : State) : Result :=
  performOn .tsu (decide (region < 52)) (inTurn (.watchRegisterDeferred region) fun s =>
    let r := s.tsu.region region
    match r.watchQueue with
    | [] => s
    | tok :: rest =>
      if (freeSlot s.tsu).isSome && !r.took qWatch && !queuesHeld s.tsu qWatch then
        takeWatch region tok (onRegion region (fun r => Region.took1 qWatch { r with watchQueue := rest }) s)
      else s) s

/-- WATCH_CANCEL (R167): a cancellation that names no waiting watch is ignored. -/
def execWatchCancel (region : Nat) (tag : U16) (s : State) : Result :=
  performOn .tsu (decide (region < 52)) (inTurn (.watchCancel region tag) (fromRegion region qCancel (.watchCancel region tag) fun s =>
    match s.tsu.waitingSlots.find? fun i => decide ((s.tsu.watch i).region = region ∧ (s.tsu.watch i).tag = tag) with
    | some i => endWatch i 4 outCancelled (watchValue s.tsu (s.tsu.watch i)) s
    | none => s)) s

/-- The object of a timed out watch enters TIMED_OUT (R171). -/
def timeOutObject (w : Watch) (s : State) : State :=
  if w.cond = 3 then onEvent w.obj (fun e => { e with timedOut := true }) s
  else onCounter w.obj (fun c => { c with timedOut := true }) s

/-- The herd of a timed out watch halts; of several on one tick the earliest halt time stands, each with its own record. -/
def timeOutHerd (w : Watch) (s : State) : State :=
  let h := w.ctx
  let s := raiseHerd h 0x0601 true w.object w.waiter w.round 0 s
  let x := s.tsu.herd h
  if x.state ≠ .running then s
  else if x.selfFault then
    onHerd h (fun x => { x with halt := some (earlier x.halt (ceilNs s.tsu.now + htOfNs (leadNs s x))) }) s
  else haltHerd' h 0x0601 s

/-- WATCH_TIMEOUT (R171), in phase 5 of the tick that the timeout converted to. -/
def execWatchTimeout (slot : Nat) (s : State) : Result :=
  performOn .tsu (decide (slot < nWatches)) (inTurn (.watchTimeout slot) fun s =>
    if !reached s.tsu.tc (s.tsu.watch slot).fire ∨ s.tsu.replayStrict then s
    else
      let s := phase4 s
      let w := s.tsu.watch slot
      if !w.waiting then s
      else
        let s := endWatch slot 3 outTimedOut (watchValue s.tsu w) s
        let s := onHerd w.ctx (fun x => { x with watchTimeouts := bump x.watchTimeouts }) s
        timeOutHerd w (timeOutObject w s)) s

/-- Notifications emitted on the present tick. -/
def Tsu.notified (t : Tsu) : Nat := (t.watches.filter fun e => e.2.sent).length

/-- One notification is emitted, unless 8 have been on this tick or its region's queue is full (R169, R329); its slot is free from the
next tick. -/
def notifySlot (i : Nat) (s : State) : State :=
  let w := s.tsu.watch i
  match w.outcome with
  | none => s
  | some o =>
    if w.sent ∨ 8 ≤ s.tsu.notified ∨ !(s.tsu.region w.region).credit oNotify then s
    else
      let lag := s.tsu.tc.frc.toNat - w.decidedAt
      putOut w.region oNotify (.notify w.region (notification o w.tag w.value w.decidedAt))
        (onWatch i (fun w => { w with sent := true })
          (onTsu (fun t => { t with notifyLag := if t.notifyLag.toNat < lag then BitVec.ofNat 32 lag else t.notifyLag }) s))

/-- The slots whose watches have ended, in ascending order. -/
def Tsu.endedSlots (t : Tsu) : List Nat := (t.watches.filter fun e => e.2.outcome.isSome).map (·.1)

/-- WATCH_NOTIFY (R169): up to 8 notifications on a tick, in ascending slot. -/
def execWatchNotify (s : State) : Result :=
  performOn .tsu true (inTurn .watchNotify fun s =>
    let s := phase4 s
    forAll s.tsu.endedSlots notifySlot s) s

/-! ## Objects (Table 6.8) -/

/-- LOADED, HALTED or DONE. -/
def Herd.atRest (x : Herd) : Bool := decide (x.state = .loaded ∨ x.state = .halted ∨ x.state = .done)

/-- The context that owns an object is LOADED, HALTED or DONE (R157). -/
def ownerAtRest (t : Tsu) (kind n : Nat) : Bool :=
  match t.ownerOf kind n with
  | some h => (t.herd h).atRest
  | none => false

/-- SYNC_RESET of context h (R156). -/
def wSyncReset (h : Nat) (v : U8) : WriteOp :=
  { boolCommand (0x6100 + h) 5 .wo v (syncReset h) with ready := fun s => (s.tsu.herd h).atRest }

/-- COUNTER_VALUE of counting object n (R157). -/
def wCounterValue (n : Nat) (v : U64) : WriteOp :=
  { index := 0x6080, sub := 2, size := 8, bytes := bvBytes v, kind := 3, elem := n,
    present := fun _ => decide (n < nCounters), ready := fun s => ownerAtRest s.tsu 3 n,
    apply := onCounter n fun c => { c with value := v.setWidth 48 } }

/-- EVENT_STATE of event n: only bit 0 is writable (R157); a claim ends as the event is cleared (R163). -/
def wEventState (n : Nat) (v : U32) : WriteOp :=
  { index := 0x6090, sub := 2, size := 4, bytes := bvBytes v, kind := 4, elem := n,
    present := fun _ => decide (n < nEvents), ready := fun s => ownerAtRest s.tsu 4 n,
    apply := onEvent n fun e => { e with set := bitOf v 0, claimed := e.claimed && bitOf v 0 } }

/-- EVENT_OVERSIGNAL_CLEAR of event n (R164). -/
def wEventOversignalClear (n : Nat) (v : U8) : WriteOp :=
  { boolCommand 0x6090 3 .wo v (onEvent n fun e => { e with oversignal := false }) with
    kind := 4, elem := n, present := fun _ => decide (n < nEvents) }

def execSyncReset (q : Req) (h : Nat) (v : U8) (s : State) : Result :=
  perform (decide (h < 64)) (inTurn (.syncReset q h v) (agentWrite .tsu q (wSyncReset h v))) s

def execCounterValue (q : Req) (v : U64) (s : State) : Result :=
  perform true (inTurn (.counterValue q v) (agentWrite .tsu q (wCounterValue (element s .tsu q 0x6080 1) v))) s

def execEventState (q : Req) (v : U32) (s : State) : Result :=
  perform true (inTurn (.eventState q v) (agentWrite .tsu q (wEventState (element s .tsu q 0x6090 1) v))) s

def execEventOversignalClear (q : Req) (v : U8) (s : State) : Result :=
  perform true (inTurn (.eventOversignalClear q v) (agentWrite .tsu q (wEventOversignalClear (element s .tsu q 0x6090 1) v))) s

end Sys2Proof.Machine
end

