-- ==== Sys2Proof/Machine/Replay.lean ====
section
/-! DEFINITION. The commands of replay (R296 to R303): pinning hall time, the feed, applying its records at their descriptor or their
time, the stall, and forced stretches. -/

namespace Sys2Proof.Machine

/-! ## Setting up and releasing (R296) -/

def rsAnchor (v : BitVec 192) : HT := fld v 0 80
def rsMode (v : BitVec 192) : Nat := fldN v 80 8

/-- The time core is pinned: hall time on this tick is ANCHOR_HT, and advances one nanosecond per tick. -/
def pinTime (anchor : HT) : State → State :=
  onTc fun tc => { tc with rate := 0, offset := anchor - htOfNs tc.frc.toNat, stepRem := 0, slewRemaining := 0, slewFrac := 0,
                           htValid := true }

/-- An accepted REPLAY_SETUP; what an earlier replay left is gone. -/
def startReplay (v : BitVec 192) (s : State) : State :=
  let s := goTime .replayPinned (pinTime (rsAnchor v) s)
  let s := onMeter (fun m => { m with replayLogged := false }) s
  onTsu (fun t =>
    bootRecord { t with replaySetup := v, replayBnum := 0, firstDiff := 0, replayMismatches := 0, faultMatch := 0, windowFault := none,
                        ownFault := none, timeValues := [], recArrivals := [], recResults := [], ownArrivals := [], ownResults := [],
                        replayAt := t.tc.frc.toNat, replayStalled := false }) s

/-- REPLAY_SETUP. -/
def wReplaySetup (v : BitVec 192) : WriteOp :=
  { index := 0x9300, sub := 1, access := .rws, size := 24, bytes := bvBytes v,
    ready := fun s => decide (s.tsu.tc.state = .unset ∨ s.tsu.tc.state = .freeRun) && s.tsu.allFree,
    range := fun _ => decide (rsMode v ≤ 1), apply := startReplay v }

/-- The die returns to UNSET: hall time is not valid, the forced stretches are cleared, and the feed with them. -/
def endReplay (s : State) : State :=
  let s := goTime .unset (onTc (fun tc => { tc with htValid := false, selPlane := none, betterSince := none }) s)
  onTsu (fun t => { t with forcedStretch := 0, feed := [], feedEnd := false }) s

/-- REPLAY_RELEASE. -/
def wReplayRelease (v : U8) : WriteOp :=
  { boolCommand 0x9300 2 .rws v endReplay with
    ready := fun s => decide (v ≠ 1) || (decide (s.tsu.tc.state = .replayPinned) && s.tsu.allFree) }

def execReplaySetup (q : Req) (v : BitVec 192) (s : State) : Result := perform true (inTurn (.replaySetup q v)
    (agentWrite .tsu q (wReplaySetup v))) s

def execReplayRelease (q : Req) (v : U8) (s : State) : Result := perform true (inTurn (.replayRelease q v)
    (agentWrite .tsu q (wReplayRelease v))) s

/-! ## The feed (R298) -/

/-- The whole records of a write; none if some octets belong to no whole record. -/
def parseFeed : Nat → Bytes → Option (List FeedRec)
  | _, [] => some []
  | 0, _ => none
  | fuel + 1, k :: a :: b :: rest =>
    let n := a.toNat + 256 * b.toNat
    if 24 ≤ n ∧ n ≤ rest.length then (parseFeed fuel (rest.drop n)).map (⟨k, rest.take n⟩ :: ·) else none
  | _, _ => none

/-- Octets of the queue that a record takes. -/
def FeedRec.size (r : FeedRec) : Nat := 3 + r.data.length

/-- REPLAY_FEED_FREE. -/
def feedFree (t : Tsu) : Nat := 65536 - (t.feed.map FeedRec.size).sum

/-- REPLAY_FEED: refused with STATE where the queue has no room. -/
def wReplayFeed (v : Bytes) : WriteOp :=
  { index := 0x9300, sub := 3, access := .wo, size := 0, maxSize := 1024, bytes := v, ready := fun s => decide (v.length ≤ feedFree s.tsu),
    range := fun _ => (parseFeed v.length v).isSome,
    apply := onTsu fun t => { t with feed := t.feed ++ (parseFeed v.length v).getD [] } }

def execReplayFeed (q : Req) (v : Bytes) (s : State) : Result := perform true (inTurn (.replayFeed q v)
    (agentWrite .tsu q (wReplayFeed v))) s

/-! ## A fed record -/

/-- A field of a record's octets. -/
def octets (b : Bytes) (off n : Nat) : Nat := ofLe ((b.drop off).take n)

def FeedRec.pre (r : FeedRec) : BitVec 192 := bytesBv 192 (r.data.take 24)
def FeedRec.ht (r : FeedRec) : HT := fld r.pre 0 80
def FeedRec.herd (r : FeedRec) : Id24 := fld r.pre 80 24
def FeedRec.run (r : FeedRec) : U8 := fld r.pre 104 8
def FeedRec.bnum (r : FeedRec) : Nat := fldN r.pre 112 40
def FeedRec.content (r : FeedRec) : Bytes := r.data.drop 24

/-- BNUM "before the next fire". -/
def beforeFire : Nat := 0xFFFFFFFFFF

/-- The context that a record is applied to: it holds the record's herd, and its run is the record's or the one before. -/
def feedCtx (t : Tsu) (r : FeedRec) : Option Nat :=
  match t.ctxOf r.herd with
  | some h =>
    let seq : U8 := (t.herd h).seqLast.setWidth 8
    if r.run = seq ∨ r.run = seq + 1 then some h else none
  | none => none

/-- A PRONK record of outcome 1. -/
def isFire (r : FeedRec) : Bool := decide (r.kind = 1 ∧ octets r.content 1 1 = 1)

/-- FIRE_HT of the next fire that the feed holds for a herd. -/
def fedFire (t : Tsu) (herd : Id24) : Option HT :=
  (t.feed.find? fun r => isFire r && decide (r.herd = herd)).map fun r => BitVec.ofNat 80 (octets r.content 6 10)

/-- A record of a context is due in STRICT mode (R298). -/
def strictDue (t : Tsu) (h : Nat) (r : FeedRec) : Bool :=
  let x := t.herd h
  let runs := decide (x.state = .running ∧ r.run = x.seqLast.setWidth 8)
  if r.bnum = beforeFire then true
  else if r.bnum = 0 then
    runs || (match fedFire t r.herd with | some f => decide (tickOf t.tc f ≤ t.tc.frc.toNat) | none => false)
  else runs && decide (r.bnum ≤ x.bnum)

/-! ## What a record does (R298, R299) -/

/-- The recorded fire: the context is armed, committed and fires, and its digest is compared (R301). -/
def replayFire (h : Nat) (c : Bytes) (s : State) : State :=
  let x := s.tsu.herd h
  if x.state = .loaded ∨ x.state = .halted ∨ x.state = .done then
    let s := armHerd h (BitVec.ofNat 32 (octets c 2 4)) (BitVec.ofNat 80 (octets c 6 10)) (octets c 16 4)
      (BitVec.ofNat 16 (octets c 20 2), BitVec.ofNat 16 (octets c 22 2)) noHerd s
    let s := onHerd h (fun x => { x with state := .committed, decidedSeq := some x.seqLast, fires := true }) s
    let s := onTsu (fun t => { t with replayBnum := 0, replayAt := t.tc.frc.toNat, replayStalled := false }) s
    let s := fireHerd h s
    if comparing s.tsu h && decide (octets c 25 8 ≠ (fireDigest s.tsu (s.tsu.herd h)).toNat) then
      replayDiff h 0x93000001 (BitVec.ofNat 16 (s.tsu.herd h).iter16) s
    else s
  else s

/-- A PRONK record: outcome 1 fires; a STEP releases its descriptors. -/
def replayPronk (h : Nat) (c : Bytes) (s : State) : State :=
  let outcome := octets c 1 1
  if outcome = 1 then replayFire h c s
  else if outcome = 0 ∧ octets c 0 1 = phStep then
    onHerd h (fun x => { x with seqLast := BitVec.ofNat 32 (octets c 2 4),
                                releases := x.releases ++ [(BitVec.ofNat 80 (octets c 6 10), octets c 24 1)] }) s
  else s

/-- A TINE_RESULT record: delivered as the result with TINES 1, compared otherwise. -/
def replayResult (h : Nat) (c : Bytes) (s : State) : State :=
  let n := octets c 0 2
  let fl : U8 := BitVec.ofNat 8 (octets c 4 1)
  if !s.tsu.replayInject then compareResult false h c s
  else if s.tsu.partCtx n ≠ some h then s
  else
    let r : Delivery :=
      { failed := bitOf fl 1, round := BitVec.ofNat 16 (octets c 2 2), members := BitVec.ofNat 24 (octets c 6 4), grant := bitOf fl 0,
        echoed := bitOf fl 2, cause := BitVec.ofNat 3 (octets c 5 1), origin := 0, payload := BitVec.ofNat 512 (ofLe (c.drop 11)) }
    let s := deliverResult h n r s
    if r.failed ∧ (s.tsu.herd h).state = .running then haltAtFailedGate h s else s

/-- A HERD_CHANGE record: the values that it carries stand in a context between two runs (log 2). -/
def replayChange (h : Nat) (c : Bytes) (s : State) : State :=
  if (s.tsu.herd h).live then s
  else
    fillParts h (onHerd h (fun x =>
      { x with memberEpoch := BitVec.ofNat 16 (octets c 1 2), memberCount := BitVec.ofNat 32 (octets c 3 4),
               templateId := BitVec.ofNat 16 (octets c 7 2), liveEpoch := BitVec.ofNat 16 (octets c 9 2) }) s)

/-- A HALT_IN record applies its H. -/
def replayHalt (h : Nat) (c : Bytes) (s : State) : State :=
  let kind := octets c 0 1
  let origin : Id24 := BitVec.ofNat 24 (octets c 3 4)
  let seq : U16 := BitVec.ofNat 16 (octets c 1 2)
  let hh : HT := BitVec.ofNat 80 (octets c 7 10)
  if !(s.tsu.herd h).live then s
  else if kind = 2 then stopNow (mkHalt 2 true 0 0 0 seq hh (BitVec.ofNat 16 (octets c 17 2)) origin) h s
  else
    let s := applyHalt h hh origin seq s
    if kind = 1 then recordPause origin h s else s

/-- The timer faults that a STRICT replay injects. -/
def injected (code : U16) : Bool := decide (code = 0x0501 ∨ code = 0x0502 ∨ code = 0x0503 ∨ code = 0x0601)

/-- An ERROR record in STRICT mode: the same fault, with its halt time HALT_LEAD_NS after the recorded time. -/
def replayFault (h : Nat) (c : Bytes) (s : State) : State :=
  let e := errOf (bytesBv 256 c)
  let x := s.tsu.herd h
  if !injected e.code ∨ x.state ≠ .running ∨ x.selfFault then s
  else
    let s := raiseHerd h e.code true e.object e.waiter e.round.toNat e.detail.toNat s
    let t := earlier x.halt (e.ht + htOfNs x.haltLead.toNat)
    sendHalt 0 x.span.toNat (x.herdId.setWidth 24) (x.seqLast.setWidth 8) t e.code
      (onHerd h (fun x => { x with halt := some t, selfFault := true }) s)

/-- REPLAY_FAULT_MATCH: 2 once the feed has ended without a fault of the replay's own (R300). -/
def settleMatch (t : Tsu) : Tsu :=
  if t.feed = [] ∧ t.feedEnd ∧ t.windowFault ≠ none ∧ t.ownFault = none then { t with faultMatch := 2 }
  else { t with faultMatch := faultMatchOf t.windowFault t.ownFault }

/-- REPLAY_END. -/
def wReplayEnd (v : U8) : WriteOp := boolCommand 0x9300 4 .wo v (onTsu fun t => settleMatch { t with feedEnd := true })

def execReplayEnd (q : Req) (v : U8) (s : State) : Result := perform true (inTurn (.replayEnd q v) (agentWrite .tsu q (wReplayEnd v))) s

/-- An ERROR record in TIMED mode: the first with HALTS set is what the replay's first fault is compared with. -/
def windowError (r : FeedRec) (t : Tsu) : Tsu :=
  let e := errOf (bytesBv 256 r.content)
  if e.halts ∧ t.windowFault = none then { t with windowFault := some (e.code, e.object, e.waiter, r.bnum) } else t

/-- A record takes effect on its context. -/
def applyFed (h : Nat) (r : FeedRec) (s : State) : State :=
  let c := r.content
  let strict := s.tsu.replayStrict
  match r.kind.toNat with
  | 1 => replayPronk h c s
  | 2 => replayResult h c s
  | 3 => compareArrival false h (BitVec.ofNat 16 (octets c 0 2), BitVec.ofNat 16 (octets c 2 2), BitVec.ofNat 8 (octets c 4 1),
      BitVec.ofNat 8 (octets c 5 1), BitVec.ofNat 64 (octets c 6 8)) s
  | 4 => applySignal (BitVec.ofNat 64 (ofLe (c.take 8))) s
  | 5 => emit (.ingress (octets c 0 1) (BitVec.ofNat 8 (octets c 1 1)) (BitVec.ofNat 8 (octets c 2 1)) (BitVec.ofNat 32 (octets c 3 4))
      ((c.drop 9).take (octets c 7 2))) s
  | 6 => applyLedger (octets c 0 2) (bytesBv 256 (c.drop 2)) s
  | 7 => replayChange h c s
  | 8 => if octets c 0 1 = 1 then takePlan h (bytesBv 256 (c.drop 1)) s else takeCancel h s
  | 9 =>
    if strict then
      onTsu (fun t => { t with timeValues := t.timeValues ++
        [(r.herd, BitVec.ofNat 8 (octets c 0 1), BitVec.ofNat 8 (octets c 1 1), BitVec.ofNat 80 (octets c 2 10))] }) s
    else s
  | 10 => if strict then replayHalt h c s else s
  | 11 => if strict then replayFault h c s else onTsu (windowError r) s
  | _ => s

/-- The record at the head leaves the queue and takes effect, if it names a loaded context and its run. -/
def takeFed (due : Nat → FeedRec → Bool) (s : State) : State :=
  match s.tsu.feed with
  | [] => s
  | r :: rest =>
    let drop (s : State) : State := onTsu (fun t => settleMatch { t with feed := rest }) s
    match feedCtx s.tsu r with
    | none => drop s
    | some h => if due h r then drop (applyFed h r s) else s

/-- REPLAY_APPLY: STRICT. -/
def execReplayApply (s : State) : Result :=
  performOn .tsu true (fun s => if s.tsu.replayStrict then takeFed (strictDue s.tsu) s else s) s

/-- REPLAY_TIMED_APPLY: hall time has reached the recorded HT. -/
def execReplayTimedApply (s : State) : Result :=
  performOn .tsu true (fun s =>
    if s.tsu.replayTimed then takeFed (fun _ r => decide (r.ht.toNat ≤ s.tsu.now.toNat)) s else s) s

/-- The herd and ITER that a stall record names: the head record's. -/
def stallAt (t : Tsu) : Option Nat := t.feed.head?.bind fun r => t.ctxOf r.herd

/-- REPLAY_STALL (R301): once for a stall. -/
def execReplayStall (s : State) : Result :=
  performOn .tsu true (fun s =>
    let t := s.tsu
    if !t.replayStrict ∨ t.feed = [] ∨ t.replayStalled ∨ t.tc.frc.toNat < t.replayAt + t.stallMs.toNat * 1000000 then s
    else
      let s := onTsu (fun t => { t with replayStalled := true }) s
      let w : U32 := t.sourceDie.setWidth 32
      match stallAt t with
      | some h => raiseHerd h 0x0909 false 0x93000002 w (t.herd h).iter16 0 s
      | none => raise { code := 0x0909, herd := noHerd, object := 0x93000002, waiter := w } s) s

/-! ## FORCED_STRETCH (R303) -/

/-- An entry's fields lie in their ranges, and a valid one's EXTRA_FS within the region's nominal period. -/
def forcedOk (t : Tsu) (e : BitVec 192) : Bool :=
  decide (fldN e 0 6 < 52 ∧ fldN e 8 20 < 16384) &&
    (!bitOf e 6 || decide (fldN e 136 24 ≤ (t.region (fldN e 0 6)).nominalFs.toNat))

/-- FORCED_STRETCH. -/
def wForcedStretch (v : BitVec 3072) : WriteOp :=
  { index := 0x9380, sub := 1, access := .rws, size := 384, bytes := bvBytes v, ready := fun s => decide (s.tsu.tc.state = .replayPinned),
    range := fun s => (List.range 16).all fun i => forcedOk s.tsu (fld v (192 * i) 192),
    apply := onTsu fun t => { t with forcedStretch := v } }

def execForcedStretch (q : Req) (v : BitVec 3072) (s : State) : Result := perform true (inTurn (.forcedStretch q v)
    (agentWrite .tsu q (wForcedStretch v))) s

end Sys2Proof.Machine
end

