-- ==== Sys2Proof/Machine/Objects.lean ====
section
/-! DEFINITION. What every object of the dictionary reads as, on either part (Table 12.11 and the object table of each chapter), the
selectors and the elements they address (R316), and the registers of the local window. An object that a part does not have reads
as none. -/

namespace Sys2Proof.Machine

/-! ## Values (Table 0.5, R313) -/

def numV (n x : Nat) : Option Bytes := some (leBytes n x)
def wordV {n : Nat} (x : BitVec n) : Option Bytes := some (bvBytes x)
def boolV (b : Bool) : Option Bytes := some [if b then 1 else 0]
/-- A command object, or one that is written only: it reads as zero (Table 0.6, R284). -/
def zeroV (n : Nat) : Option Bytes := some (List.replicate n 0)

/-- The index lies in a run of `n` objects from `base`, one for each element. -/
def nthOf (base n index : Nat) : Option Nat := if base ≤ index ∧ index < base + n then some (index - base) else none

/-! ## Enumerations as numbers -/

def portStateN : PortState → Nat
  | .disabled => 0 | .train => 1 | .lock => 2 | .hello => 3 | .up => 4 | .downHold => 5
def herdStateN : HerdState → Nat
  | .free => 0 | .loaded => 1 | .armed => 2 | .committed => 3 | .running => 4 | .done => 5 | .halted => 6 | .left => 7
def refStateN : RefState → Nat
  | .absent => 0 | .qualified => 1 | .demoted => 2 | .disqualified => 3 | .waiting => 4
def phaseN : Phase → Nat
  | .reset => 0 | .init => 1 | .post => 2 | .run => 3 | .onDemand => 4 | .faultHold => 5
def swapStateN : SwapState → Nat
  | .idle => 0 | .planned => 1 | .fetching => 2 | .ready => 3 | .refetching => 4 | .failed => 5 | .flipped => 6
def dieStateN : DieState → Nat
  | .healthy => 0 | .quarantined => 1 | .expelDecided => 2
def windowStateN : WindowState → Nat
  | .recording => 0 | .tail => 1 | .frozen => 2
/-- In the order of Table 7.6, which gives no numbers (log 14). -/
def roundStateN : RoundState → Nat
  | .empty => 0 | .open => 1 | .sent => 2 | .held => 3
/-- 0 A, 1 B, 0xFF none (Table 4.12). -/
def planeN : Option Plane → Nat
  | some .a => 0 | some .b => 1 | none => 0xFF

/-! ## Registers of the window (Tables 12.3, 13.6) -/

/-- WIN_STATUS. -/
def winStatus (t : Tsu) : U32 := pack 32 [(0, 1, b2n t.winBusy), (1, 1, b2n t.winDone), (2, 1, b2n t.secureGo)]

/-- BOUNDARY_STATUS. -/
def boundaryStatus (t : Tsu) : U32 :=
  pack 32 [(0, 4, phaseN t.phase), (4, 1, b2n t.postPassed), (5, 2, lcState t.agent), (8, 8, t.failedBlock.toNat)]

/-! ## Selectors (R316) -/

/-- Octets of a selector object and the number of elements that it selects from (R363), if the object is one. -/
def selectorOf (d : Dev) (index sub : Nat) : Option (Nat × Nat) :=
  if sub = 6 ∧ index = 0x1300 then some (2, 2 ^ 16)
  else
    match d with
    | .tsu =>
      if sub = 1 ∧ index = 0x5080 then some (4, 16384)
      else if sub = 1 ∧ index = 0x5090 then some (2, 65536)
      else if sub = 1 ∧ index = 0x6080 then some (2, nCounters)
      else if sub = 1 ∧ index = 0x6090 then some (2, nEvents)
      else if sub = 1 ∧ index = 0x60A0 then some (2, nWatches)
      else if sub = 1 ∧ index = 0x7080 then some (2, 1024)
      else if sub = 1 ∧ index = 0x7200 then some (2, templateSlots .tsu)
      else if sub = 3 ∧ index = 0x7200 then some (2, templateEntriesCap .tsu)
      else if sub = 1 ∧ index = 0xA100 then some (2, 65536)
      else if sub = 1 ∧ index = 0xA200 then some (2, 4096)
      else if sub = 1 ∧ index = 0xA300 then some (2, 1024)
      else if sub = 3 ∧ index = 0xB200 then some (1, 16)
      else none
    | .fjz =>
      if sub = 1 ∧ index = 0x7200 then some (2, templateSlots .fjz)
      else if sub = 3 ∧ index = 0x7200 then some (2, templateEntriesCap .fjz)
      else if sub = 1 ∧ index = 0x7300 then some (2, 8192)
      else if sub = 1 ∧ index = 0x8800 then some (4, 2 ^ 20)
      else if sub = 0x0B ∧ index = 0x9200 then some (8, 2 ^ 64)
      else none

/-- Subindex of the selector that serves an object: the entry selector for TEMPLATE_ENTRY, the slot selector for the other template
objects (DEDUCED, log 15). -/
def selectorSub (index sub : Nat) : Nat :=
  if index = 0x7200 ∧ sub = 4 then 3 else if index = 0x1300 then 6 else if index = 0xB200 then 3
  else if index = 0x9200 then 0x0B else 1

/-- The element that a request addresses, none where the object has no selector or the element lies outside its range (Table 12.5). -/
def elementAt (s : State) (d : Dev) (q : Req) (index sub : Nat) : Option Nat :=
  match selectorOf d index (selectorSub index sub) with
  | some (_, n) =>
    let e := element s d q index (selectorSub index sub)
    if e < n then some e else none
  | none => none

/-- The element that R319 protects: the addressed one, and for the template objects their slot. -/
def guardedElem (s : State) (d : Dev) (q : Req) (index sub : Nat) : Nat :=
  if index = 0x7200 ∧ sub = 4 then selector s d q 0x7200 1 else element s d q index (selectorSub index sub)

/-- Kind of secure region that an access of an object falls in, 0 for a selector and for what has no elements (R319). -/
def guardedKind (d : Dev) (index sub : Nat) : Nat := if (selectorOf d index sub).isSome then 0 else elemKind index

/-! ## Identity, agent, worlds (Tables 12.9, 12.10) -/

/-- The capability table (R323): TSU value, Fjouz value. -/
def capability (d : Dev) (sub : Nat) : Option Bytes :=
  let pick (n a b : Nat) : Option Bytes := numV n (match d with | .tsu => a | .fjz => b)
  match sub with
  | 0x01 => numV 1 1
  | 0x02 => pick 4 16384 0
  | 0x03 => pick 4 64 0
  | 0x04 => pick 4 16384 0
  | 0x05 => pick 4 4096 0
  | 0x06 => pick 4 4096 0
  | 0x07 => pick 4 1024 0
  | 0x08 => pick 4 0 8192
  | 0x09 => pick 4 256 1024
  | 0x0A => pick 4 4096 262144
  | 0x0B => pick 4 65536 0
  | 0x0C => pick 4 4096 0
  | 0x0D => pick 4 15 0
  | 0x0E => pick 4 48 0
  | 0x0F => pick 4 4 0
  | 0x10 => pick 4 2 72
  | 0x11 => pick 4 96 0
  | 0x12 => pick 4 64 0
  | 0x13 => pick 4 256 4096
  | 0x14 => pick 4 8192 0
  | 0x15 => pick 4 65536 0
  | 0x16 => pick 4 16 0
  | 0x17 => pick 4 16 0
  | 0x18 => numV 4 1024
  | 0x19 => numV 4 256
  | 0x1A => some [24, 24, 24, 20, 20, 14, 16, 16]
  | 0x1B => some [1, 0, 1, 0, 1, 0, 1, 0, 1, 0]
  | 0x1C => pick 8 0 68719476736
  | 0x1D => pick 4 1024 0
  | _ => none

def identityV (s : State) (d : Dev) (sub : Nat) : Option Bytes :=
  let a := agent s d
  match sub with
  | 1 => numV 1 (match d with | .tsu => 0 | .fjz => 1)
  | 2 => numV 4 a.deviceId.toNat
  | 3 => wordV a.serial
  | 4 => wordV Config.stepping
  | 5 => wordV Config.partNumber
  | 6 => numV 2 (match d with | .tsu => s.tsu.position.toNat | .fjz => 0)
  | 7 => numV 1 (match d with | .tsu => 0 | .fjz => s.fjz.role.toNat)
  | 8 => numV 1 (match d with | .tsu => 0 | .fjz => s.fjz.plane.toNat)
  | 9 => numV 4 (match d with | .tsu => 0 | .fjz => s.fjz.fwVersion.toNat)
  | _ => none

def networkV (x : Fjz) (sub : Nat) : Option Bytes :=
  match sub with
  | 1 => wordV x.zdpEnable
  | 2 => wordV x.zdpPort
  | 3 => wordV x.ipv4
  | 4 => wordV x.ipv6
  | 5 => wordV x.tunnelTimeout
  | _ => none

/-- PENDING_ENTRY of a waiting write. -/
def pendingEntry (index sub ctx : Nat) (q : Req) (frc : Nat) : BitVec 128 :=
  pack 128 [(0, 16, index), (16, 8, sub), (24, 8, ctx), (32, 16, q.origin.toNat), (64, 32, q.reqId.toNat), (96, 32, frc)]

/-- PENDING_LIST (R322), oldest first, by tick of acceptance: writes of class H and held ledger writes, or the writes that a Fjouz
chip holds. -/
def pendingList (s : State) (d : Dev) : List (BitVec 128) :=
  match d with
  | .tsu =>
    let a := s.tsu.agent
    let ws := (a.pending.map fun w => (w.frc, pendingEntry w.index.toNat w.sub.toNat w.ctx w.req w.frc)) ++
      a.heldLedger.map fun w => (w.frc, pendingEntry 0x5090 2 w.ctx w.req w.frc)
    (sortBy (fun x y => decide (x.1 < y.1)) ws).map (·.2)
  | .fjz => s.fjz.heldWrites.map fun w => pendingEntry w.index.toNat w.sub.toNat 0xFF w.req w.frc

def agentV (s : State) (d : Dev) (q : Req) (sub : Nat) : Option Bytes :=
  let a := agent s d
  match sub with
  | 1 => wordV a.accepted
  | 2 => wordV a.duplicates
  | 3 => wordV a.authFails
  | 4 => wordV a.tunnelDiscards
  | 5 => numV 2 (pendingList s d).length
  | 6 => numV 2 (selector s d q 0x1300 6)
  | 7 => (elementAt s d q 0x1300 7).bind fun i => wordV ((pendingList s d).getD i 0)
  | _ => none

def worldV (s : State) (d : Dev) (q : Req) (sub : Nat) : Option Bytes :=
  let a := agent s d
  match sub with
  | 1 => wordV a.worldSub
  | 2 => if d = .tsu then wordV a.worldHerd else none
  | 3 => if d = .tsu then numV 1 (selector s d q 0xB200 3) else none
  | 4 => (elementAt s d q 0xB200 4).bind fun i => wordV (a.worldRegions.get 0 i)
  | 5 => boolV a.secKeyValid
  | 6 => numV 4 a.bootId.toNat
  | 7 => wordV a.secLast
  | _ => none

def lifeV (s : State) (d : Dev) (sub : Nat) : Option Bytes :=
  let a := agent s d
  match sub with
  | 1 => numV 1 (lcState a)
  | 2 => zeroV 8
  | 3 => zeroV 32
  | 4 => numV 4 (match d with | .tsu => s.tsu.ppsDelay.toNat | .fjz => 0)
  | 5 => numV 4 a.lcFuses.toNat
  | _ => none

def bistV (s : State) (d : Dev) (sub : Nat) : Option Bytes :=
  let t := s.tsu
  match d, sub with
  | .tsu, 1 => wordV t.bistMask
  | .tsu, 2 => wordV t.bistSave
  | .tsu, 3 => zeroV 1
  | .tsu, 4 => wordV t.bistState
  | .tsu, 5 => wordV t.bistBlock
  | .tsu, 6 => wordV t.bistUs
  | .tsu, 7 => wordV t.postUs
  | .tsu, 8 => wordV t.bistPasses
  | .fjz, 7 => wordV s.fjz.postUs
  | _, _ => none

/-! ## Hall time and regions (Table 2.5) -/

def timeV (s : State) (index sub : Nat) : Option Bytes :=
  let t := s.tsu
  let tc := t.tc
  if index = 0x2100 then
    match sub with
    | 1 => numV 1 (timeStateN tc.state)
    | 2 => wordV tc.entryHt
    | 3 => boolV tc.htValid
    | _ => none
  else if index = 0x2140 then
    match sub with
    | 1 => wordV tc.frc
    | 2 => wordV tc.offset
    | 3 => wordV t.now
    | 4 => wordV tc.rate
    | 5 => zeroV 1
    | 6 => wordV tc.latchedFrc
    | 7 => wordV tc.latchedHt
    | _ => none
  else if index = 0x2160 then
    match sub with
    | 1 => wordV tc.phaseStep
    | 2 => wordV tc.slewRemaining
    | 3 => wordV tc.slewMaxPpb
    | _ => none
  else if index = 0x2180 then
    match sub with
    | 1 => wordV (if bothPlanes s then tc.planeOffset else 0)
    | 2 => wordV (if bothPlanes s then tc.planeDrift else 0)
    | _ => none
  else if index = 0x2200 then
    match sub with
    | 1 => wordV tc.holdBound
    | 2 => wordV tc.holdLimit
    | 3 => wordV tc.tempCoeff
    | 4 => wordV tc.ageing
    | 5 => boolV tc.modelValid
    | 6 => wordV tc.uF
    | 7 => wordV tc.uK
    | 8 => wordV tc.uA
    | 9 => wordV tc.entryTemp
    | _ => none
  else if index = 0x2460 then (match sub with | 1 => wordV tc.spineSkew | _ => none)
  else none

def regionV (x : Region) (sub : Nat) : Option Bytes :=
  match sub with
  | 1 => wordV x.snap
  | 2 => wordV x.stretchEvents
  | 3 => wordV x.stretchNs
  | 4 => wordV x.marginMin
  | 5 => wordV x.queueStalls
  | 6 => wordV x.nominalFs
  | 7 => zeroV 1
  | _ => none

def marginV (t : Tsu) (sub : Nat) : Option Bytes :=
  match sub with
  | 1 => wordV t.marginThr
  | 2 => wordV t.marginBias
  | 3 => wordV t.dieMargin
  | 4 => wordV t.dieMarginRegion
  | 5 => wordV t.marginEvents
  | 6 => zeroV 1
  | _ => none

/-! ## Ports and taps (Table 3.13) -/

def portV (x : Port) (sub : Nat) : Option Bytes :=
  match sub with
  | 0x01 => numV 1 (portStateN x.state)
  | 0x02 => boolV x.enable
  | 0x03 => wordV x.cwUncorr
  | 0x04 => wordV x.symCorr
  | 0x05 => wordV x.retryCount
  | 0x06 => wordV x.cableAsym
  | 0x07 => wordV x.pathDelay
  | 0x08 => wordV x.txLat
  | 0x09 => wordV x.rxLat
  | 0x0A => wordV x.negVer
  | 0x0B => wordV x.peerId
  | 0x0C => wordV x.peerPort
  | 0x0D => wordV x.downCause
  | 0x0E => wordV x.linkDowns
  | 0x0F => wordV x.protoErrors
  | _ => none

def schedulerV (s : State) (d : Dev) (sub : Nat) : Option Bytes :=
  match d, sub with
  | .tsu, 1 => wordV s.tsu.p3Limit
  | .tsu, 2 => wordV s.tsu.p3Dropped
  | .fjz, 1 => wordV s.fjz.p3Limit
  | .fjz, 2 => wordV s.fjz.p3Dropped
  | _, _ => none

def stampQueueV (t : Tsu) (sub : Nat) : Option Bytes :=
  match sub with
  | 2 => numV 1 t.txts.length
  | 3 => boolV t.txtsOverflow
  | 4 => zeroV 1
  | 5 => wordV t.txtsDropped
  | _ => none

def linkV (x : Link) (sub : Nat) : Option Bytes :=
  match sub with
  | 1 => wordV x.state
  | 2 => wordV x.offset
  | 3 => wordV x.baseline
  | 4 => wordV x.drift
  | 5 => wordV x.delay
  | 6 => wordV x.peer
  | 7 => wordV x.asym
  | 8 => boolV x.enable
  | _ => none

/-! ## References and planes (Table 4.12) -/

def candV (k : Cand) (sub : Nat) : Option Bytes :=
  match sub with
  | 0x01 => wordV k.typ
  | 0x02 => wordV k.freq
  | 0x03 => wordV k.priority
  | 0x04 => numV 1 k.received
  | 0x05 => wordV k.sqcAssigned
  | 0x06 => wordV k.sqcEff
  | 0x07 => numV 1 (refStateN k.state)
  | 0x08 => wordV k.phaseErr
  | 0x09 => wordV k.freqErr
  | 0x0A => wordV k.phaseTol
  | 0x0B => wordV k.freqTol
  | 0x0C => wordV k.wtr
  | 0x0D => wordV k.wtrLeft
  | 0x0E => wordV k.absorbed
  | 0x0F => wordV k.cableDelay
  | _ => none

/-- TRACE_OFFSET_PS (R101): at a root, REF_ABSORBED_PS of the selected time candidate. -/
def traceOffset (x : Fjz) : I64 :=
  if x.role = 3 then (match x.selTime with | some c => (x.cand c).absorbed | none => 0) else 0

def lockV (x : Fjz) (sub : Nat) : Option Bytes :=
  match sub with
  | 0x01 => numV 1 (lockStateN x.lock)
  | 0x02 => numV 1 (x.selTime.getD 0xFF)
  | 0x03 => numV 1 (x.selFreq.getD 0xFF)
  | 0x04 => wordV x.outSqc
  | 0x05 => wordV x.switchSeq
  | 0x06 => boolV x.switch.isSome
  | 0x07 => wordV x.forceRef
  | 0x08 => zeroV 1
  | 0x09 => wordV x.realignPpb
  | 0x0A => wordV (traceOffset x)
  | 0x0B => wordV x.parentPpb
  | 0x0C => wordV x.holdWtr
  | 0x0D => wordV x.holdSqcLimit
  | 0x0E => wordV x.holdFreeLimit
  | 0x0F => boolV x.freeServe
  | 0x10 => wordV x.freeStart
  | _ => none

def ocxoV (x : Fjz) (sub : Nat) : Option Bytes :=
  match sub with
  | 1 => wordV x.ocxo
  | 2 => wordV x.ocxoTemp
  | 3 => wordV x.holdBound
  | 4 => wordV x.ocxoAge
  | 5 => boolV x.ocxoAgeValid
  | 6 => wordV x.ocxoAgeUnc
  | 7 => wordV x.ocxoUF
  | 8 => wordV x.ocxoUP
  | 9 => wordV x.holdTemp
  | _ => none

def outputV (x : RefOut) (sub : Nat) : Option Bytes :=
  match sub with
  | 1 => wordV x.mode
  | 2 => wordV x.freq
  | 3 => wordV x.adv
  | _ => none

def ethV (x : Eth) (sub : Nat) : Option Bytes :=
  match sub with
  | 1 => wordV x.domain
  | 2 => wordV x.transport
  | 3 => wordV x.unicast
  | 4 => wordV x.logInterval
  | 5 => wordV x.asym
  | 6 => wordV x.gm
  | 7 => wordV x.clockClass
  | 8 => wordV x.esmcQl
  | _ => none

def planeV (tc : TimeCore) (sub : Nat) : Option Bytes :=
  match sub with
  | 0x01 => numV 1 (planeN tc.selPlane)
  | 0x02 => numV 1 (tc.effSqc .a)
  | 0x03 => numV 1 (tc.effSqc .b)
  | 0x04 => wordV tc.forcePlane
  | 0x05 => wordV tc.planeWtrS
  | 0x06 => wordV tc.driftDemote
  | 0x07 => wordV tc.carried
  | 0x08 => zeroV 1
  | 0x09 => wordV tc.latMedian
  | 0x0A => wordV tc.planeConfig
  | _ => none

/-! ## Steps and herds (Tables 5.18, 8.8) -/

/-- A descriptor with its reserved bits as they read (R6, Table 5.1). -/
def descView (v : BitVec 512) : BitVec 512 :=
  putN (putN (putN (putN (putN (putN v 7 5 0) 52 12 0) 120 8 0) 244 12 0) 463 1 0) 506 6 0

def stepV (s : State) (q : Req) (index sub : Nat) : Option Bytes :=
  let t := s.tsu
  if index = 0x5000 then
    match sub with
    | 1 => numV 4 (t.freeOf 1)
    | 2 => numV 1 t.freeContexts
    | 3 => numV 4 t.freeLedger
    | 4 => wordV t.pronkDiscards
    | 5 => wordV t.stretchOver
    | _ => none
  else if index = 0x5080 then
    match sub with
    | 1 => numV 4 (selector s .tsu q 0x5080 1)
    | 2 => (elementAt s .tsu q 0x5080 2).bind fun i => wordV (descView (t.desc i))
    | _ => none
  else if index = 0x5090 then
    match sub with
    | 1 => numV 2 (selector s .tsu q 0x5090 1)
    | 2 => (elementAt s .tsu q 0x5090 2).bind fun i => wordV (t.entryView i)
    | _ => none
  else none

def herdV (x : Herd) (sub : Nat) : Option Bytes :=
  match sub with
  | 0x01 => wordV x.herdId
  | 0x02 => numV 1 (herdStateN x.state)
  | 0x03 => wordV x.mode
  | 0x04 => wordV x.stepFirst
  | 0x05 => wordV x.stepCount
  | 0x06 => wordV x.cur
  | 0x07 => wordV x.iter
  | 0x08 => wordV x.iterLimit
  | 0x09 => wordV x.base
  | 0x0A => wordV x.memberCount
  | 0x0B => wordV x.memberEpoch
  | 0x0C => wordV x.templateId
  | 0x0D => wordV x.homePlane
  | 0x0E => wordV x.span
  | 0x0F => wordV x.gateTimeout
  | 0x10 => wordV x.haltLead
  | 0x11 => wordV x.startTimeout
  | 0x12 => wordV x.seqLast
  | 0x13 => wordV x.fireHt
  | 0x14 => wordV x.decl
  | 0x15 => wordV x.groups
  | 0x16 => zeroV 1
  | 0x17 => wordV x.loadStatus
  | 0x18 => zeroV 1
  | 0x19 => wordV x.slipLast
  | 0x1A => wordV x.slipMax
  | 0x1B => wordV x.haltPoint
  | 0x1C => wordV x.lastFault
  | _ => none

/-- DRAINING_COUNT: the DRAINING entries of a herd. -/
def drainingCount (t : Tsu) (x : Herd) : Nat :=
  (t.ledger.filter fun e => decide (lState e.2 = lsDraining) && x.holds 2 e.1).length

/-- SWAP_PLAN with its reserved bits as they read (Table 8.4). -/
def planView (v : BitVec 256) : BitVec 256 := putN (putN v 16 16 0) 225 15 0

def swapV (t : Tsu) (h sub : Nat) : Option Bytes :=
  let x := t.herd h
  match sub with
  | 0x01 => wordV x.liveEpoch
  | 0x02 => wordV x.oldEpoch
  | 0x03 => wordV x.swapPart
  | 0x04 => wordV (planView x.swapPlan)
  | 0x05 => numV 1 (swapStateN x.swap)
  | 0x06 => zeroV 1
  | 0x07 => wordV x.attempts
  | 0x08 => wordV x.planSeq
  | 0x09 => wordV x.flipHt
  | 0x0A => wordV x.drainEnd
  | 0x0B => numV 4 (drainingCount t x)
  | 0x0C => zeroV 1
  | 0x0D => zeroV 1
  | 0x0E => boolV x.quarantined
  | 0x0F => zeroV 24
  | _ => none

def healthV (t : Tsu) (sub : Nat) : Option Bytes :=
  match sub with
  | 1 => boolV t.fawn
  | 2 => wordV t.health
  | 3 => wordV t.healthPolicy
  | 4 => wordV t.penalties
  | 5 => zeroV 4
  | 6 => wordV t.lateArrivals
  | 7 => wordV t.sramCorrections
  | _ => none

def leafHealthV (x : Fjz) (sub : Nat) : Option Bytes :=
  match sub with
  | 1 => wordV x.healthWarn
  | 2 => wordV x.healthSuspect
  | 3 => wordV x.suspectConfirm
  | 4 => wordV x.clearS
  | 5 => wordV x.failConfirm
  | _ => none

/-- STEWARD_DIES: eight octets for each reported die in ascending ID, 128 dies at most (R323; DEDUCED, log 16). -/
def stewardDies (w : Steward) : Bytes :=
  (w.dies.take 128).flatMap fun e =>
    match e.2 with
    | some (st, h) => leBytes 4 e.1 ++ leBytes 1 (dieStateN st) ++ [0] ++ leBytes 2 h.toNat
    | none => []

def stewardV (s : State) (q : Req) (sub : Nat) : Option Bytes :=
  (elementAt s .fjz q 0x8800 sub).bind fun n =>
    let w := s.fjz.steward (BitVec.ofNat 24 n)
    match sub with
    | 2 => wordV w.interval
    | 3 => wordV w.pct
    | 4 => wordV w.base
    | 5 => numV 4 (lastHour (nsOf s.fjz.now) w).length
    | 6 => wordV w.lastExpel
    | 7 => some (stewardDies w)
    | 8 => zeroV 4
    | 9 => zeroV 20
    | 0x0A => zeroV 44
    | _ => none

def originV (x : Fjz) (sub : Nat) : Option Bytes :=
  match sub with
  | 1 => zeroV 32
  | 2 => wordV (pronkStatus x)
  | 3 => wordV x.commitLead
  | _ => none

/-! ## Sync objects and banks (Table 6.8) -/

/-- Declared bit and owning context of an object: bit `at_` and the 6 bits above it. -/
def ownerBits (owner : Option Nat) (declared ctx : Nat) : List (Nat × Nat × Nat) :=
  match owner with
  | some h => [(declared, 1, 1), (ctx, 6, h)]
  | none => []

/-- COUNTER_STATE. -/
def counterState (t : Tsu) (n : Nat) : U32 := pack 32 ((1, 1, b2n (t.counter n).timedOut) :: ownerBits (t.ownerOf 3 n) 0 2)

/-- EVENT_STATE. -/
def eventStateWord (t : Tsu) (n : Nat) : U32 :=
  let e := t.event n
  pack 32 ([(0, 1, b2n e.set), (1, 1, b2n e.claimed), (2, 1, b2n e.oversignal), (3, 1, b2n e.timedOut)] ++
    ownerBits (t.ownerOf 4 n) 4 5)

def syncV (s : State) (q : Req) (index sub : Nat) : Option Bytes :=
  let t := s.tsu
  if index = 0x6000 then
    match sub with
    | 1 => numV 4 (t.freeOf 3)
    | 2 => numV 4 (t.freeOf 4)
    | 3 => numV 4 t.freeWatches
    | 4 => numV 4 t.waitingSlots.length
    | 5 => numV 4 40000
    | 6 => wordV t.signalIgnored
    | 7 => wordV t.lateDiscards
    | 8 => wordV t.notifyLag
    | _ => none
  else if index = 0x6080 then
    match sub with
    | 1 => numV 2 (selector s .tsu q 0x6080 1)
    | 2 => (elementAt s .tsu q 0x6080 2).bind fun n => numV 8 (t.counter n).value.toNat
    | 3 => (elementAt s .tsu q 0x6080 3).bind fun n => wordV (counterState t n)
    | _ => none
  else if index = 0x6090 then
    match sub with
    | 1 => numV 2 (selector s .tsu q 0x6090 1)
    | 2 => (elementAt s .tsu q 0x6090 2).bind fun n => wordV (eventStateWord t n)
    | 3 => (elementAt s .tsu q 0x6090 3).bind fun _ => zeroV 1
    | _ => none
  else if index = 0x60A0 then
    match sub with
    | 1 => numV 2 (selector s .tsu q 0x60A0 1)
    | 2 => (elementAt s .tsu q 0x60A0 2).bind fun n => wordV (t.watch n).entry
    | _ => none
  else if index = 0x6280 then
    match sub with
    | 1 => numV 4 10000
    | 2 => numV 4 250
    | _ => none
  else none

def watchV (t : Tsu) (h sub : Nat) : Option Bytes :=
  let x := t.herd h
  match sub with
  | 1 => wordV x.watchMin
  | 2 => numV 2 (t.herdWatches h)
  | 3 => wordV x.watchPeak
  | 4 => wordV x.watchTimeouts
  | 5 => zeroV 1
  | 6 => wordV x.oversignals
  | _ => none

/-- Bits of the banks in a state that a test names. -/
def bankBits (x : Region) (f : BankState → Bool) : U32 := pack 32 ((List.range 16).map fun b => (b, 1, b2n (f (x.banks.get .on b))))

def bankV (x : Region) (sub : Nat) : Option Bytes :=
  match sub with
  | 1 => wordV (bankBits x fun b => decide (b ≠ .off))
  | 2 => wordV (bankBits x fun b => decide (b = .draining))
  | 3 => wordV x.drainTimeouts
  | 4 => wordV x.refusals
  | _ => none

/-! ## Tines (Table 7.11) -/

def tineV (s : State) (d : Dev) (sub : Nat) : Option Bytes :=
  let t := s.tsu
  let x := s.fjz
  match d, sub with
  | .tsu, 0x01 => numV 4 (t.freeOf 5)
  | .tsu, 0x02 => numV 2 (freeTemplates 256 t.templates)
  | .fjz, 0x02 => numV 2 (freeTemplates 1024 x.templates)
  | _, 0x03 => numV 4 50000
  | .tsu, 0x04 => wordV t.resultDiscards
  | .fjz, 0x04 => zeroV 4
  | .tsu, 0x05 => zeroV 4
  | .fjz, 0x05 => wordV x.staleDiscards
  | .tsu, 0x06 => zeroV 4
  | .fjz, 0x06 => wordV x.dupDiscards
  | .tsu, 0x07 => wordV t.tagDiscards
  | .fjz, 0x07 => wordV x.tagDiscards
  | .tsu, 0x08 => zeroV 4
  | .fjz, 0x08 => wordV x.twinLate
  | .tsu, 0x09 => zeroV 4
  | .fjz, 0x09 => wordV x.twinMismatches
  | .tsu, 0x0A => wordV t.contribDiscards
  | .fjz, 0x0B => wordV x.nonmember
  | _, _ => none

/-- PART_STATE. -/
def partState (p : Part) : BitVec 64 :=
  pack 64 [(0, 16, p.a.toNat), (16, 16, p.d.toNat), (32, 8, p.run.toNat), (40, 8, p.gen.toNat), (48, 8, planeNat p.plane),
    (56, 1, b2n p.failed)]

def partV (s : State) (q : Req) (sub : Nat) : Option Bytes :=
  if sub = 1 then numV 2 (selector s .tsu q 0x7080 1)
  else
    (elementAt s .tsu q 0x7080 sub).bind fun n =>
      match sub with
      | 2 => wordV (s.tsu.part n).entry
      | 3 => wordV (partState (s.tsu.part n))
      | _ => none

def templateV (s : State) (d : Dev) (q : Req) (sub : Nat) : Option Bytes :=
  match sub with
  | 1 => numV 2 (selector s d q 0x7200 1)
  | 2 => (elementAt s d q 0x7200 2).bind fun k => wordV (templateAt s d k).id
  | 3 => numV 2 (selector s d q 0x7200 3)
  | 4 => (elementAt s d q 0x7200 4).bind fun j => wordV ((templateAt s d (selector s d q 0x7200 1)).entries.get 0 j)
  | 5 => (elementAt s d q 0x7200 5).bind fun k => wordV (templateAt s d k).count
  | 6 => (elementAt s d q 0x7200 6).bind fun k => boolV (templateAt s d k).valid
  | 7 => (elementAt s d q 0x7200 7).bind fun k => numV 1 (templateUsers s d k)
  | _ => none

/-- CTX_STATE. -/
def ctxState (c : TineCtx) : BitVec 128 :=
  pack 128 [(0, 32, c.herdId.toNat), (32, 16, c.b.toNat), (48, 8, (c.tag.map fun g => g.1.toNat).getD 0),
    (56, 8, (c.tag.map fun g => g.2.toNat).getD 0), (64, 8, roundStateN c.r0.state), (72, 8, roundStateN c.r1.state),
    (80, 8, b2n c.unsynced)]

/-- CTX_MAP: the parent context, then each slot's number; zero for a context that nothing has committed, as at reset. -/
def ctxMap (c : TineCtx) : Bytes :=
  if c.inUse then bvBytes c.parent ++ (List.range 64).flatMap fun k => bvBytes (c.map.get 0xFFFF k) else List.replicate 130 0

def ctxV (s : State) (q : Req) (sub : Nat) : Option Bytes :=
  if sub = 1 then numV 2 (selector s .fjz q 0x7300 1)
  else if sub = 5 then numV 2 s.fjz.freeCtxs.length
  else
    (elementAt s .fjz q 0x7300 sub).bind fun n =>
      match sub with
      | 2 => wordV (s.fjz.ctx n).config
      | 3 => wordV (ctxState (s.fjz.ctx n))
      | 4 => some (ctxMap (s.fjz.ctx n))
      | _ => none

def reserveV (x : Fjz) (sub : Nat) : Option Bytes :=
  match sub with
  | 1 => zeroV 16
  | 2 => wordV x.resvStatus
  | 3 => wordV x.resvTimeout
  | _ => none

/-! ## Faults, recorder, replay (Tables 9.10, 11.11) -/

def haltV (s : State) (d : Dev) (sub : Nat) : Option Bytes :=
  match d, sub with
  | .tsu, 1 => wordV s.tsu.haltNow
  | .fjz, 1 => wordV s.fjz.haltNow
  | .tsu, 2 => wordV s.tsu.haltSeq
  | .fjz, 2 => wordV s.fjz.haltSeq
  | .tsu, 3 => wordV s.tsu.haltsSent
  | .fjz, 3 => wordV s.fjz.haltsSent
  | .fjz, 4 => wordV s.fjz.haltsMerged
  | .tsu, 5 => wordV s.tsu.haltDiscards
  | .fjz, 5 => wordV s.fjz.haltDiscards
  | .tsu, 6 => wordV s.tsu.haltLates
  | _, _ => none

def ringV (s : State) (d : Dev) (sub : Nat) : Option Bytes :=
  let r := errsOf s d
  match sub with
  | 2 => numV 2 r.ring.length
  | 3 => boolV r.overflow
  | 4 => zeroV 1
  | 5 => wordV r.dropped
  | 6 => wordV r.total
  | _ => none

def tapV (t : Tsu) (sub : Nat) : Option Bytes :=
  match sub with
  | 1 => boolV t.recordEnable
  | 2 => wordV t.recordIngress
  | 3 => wordV t.tapSeq
  | 4 => wordV t.tapDropped
  | 5 => wordV t.tapCells
  | _ => none

def windowV (s : State) (q : Req) (sub : Nat) : Option Bytes :=
  let x := s.fjz
  match sub with
  | 0x01 => numV 1 (windowStateN x.recState)
  | 0x02 => wordV x.postTrigger
  | 0x03 => wordV x.freezeCodes
  | 0x04 => zeroV 1
  | 0x05 => zeroV 1
  | 0x06 => wordV x.freezeHt
  | 0x07 => wordV x.freezeTrigger
  | 0x08 => wordV x.triggersExtra
  | 0x09 => wordV (x.windowHt.headD 0)
  | 0x0A => numV 8 x.window.length
  | 0x0B => numV 8 (selector s .fjz q 0x9200 0x0B)
  | 0x0D => wordV x.discardedFrozen
  | _ => none

/-- REPLAY_SETUP with its reserved bits as they read (Table 11.7). -/
def setupView (v : BitVec 192) : BitVec 192 := putN (putN (putN v 89 7 0) 120 8 0) 168 24 0

/-- FORCED_STRETCH with its reserved bits as they read (Table 11.8). -/
def stretchView (v : BitVec 3072) : BitVec 3072 :=
  (List.range 16).foldl (fun v i => putN (putN (putN v (192 * i + 7) 1 0) (192 * i + 28) 4 0) (192 * i + 160) 32 0) v

def replayV (t : Tsu) (sub : Nat) : Option Bytes :=
  match sub with
  | 0x01 => wordV (setupView t.replaySetup)
  | 0x02 => zeroV 1
  | 0x03 => zeroV 1
  | 0x04 => zeroV 1
  | 0x05 => numV 4 (feedFree t)
  | 0x06 => wordV t.replayBnum
  | 0x07 => wordV t.firstDiff
  | 0x08 => wordV t.replayMismatches
  | 0x09 => wordV t.stallMs
  | 0x0A => wordV t.faultMatch
  | _ => none

/-! ## The meter core (Table 10.10) -/

/-- METER_PUBKEY: x and y, big-endian; zero before the key exists. -/
def meterPubkey (m : Meter) : Bytes :=
  match m.key with
  | some k => beBytes 32 (publicKey k.toNat).1 ++ beBytes 32 (publicKey k.toNat).2
  | none => List.replicate 64 0

def meterStateV (t : Tsu) (sub : Nat) : Option Bytes :=
  let m := t.meter
  match sub with
  | 1 => boolV m.isSealed
  | 2 => wordV Config.logicVersion
  | 3 => wordV Config.logicChecksum
  | 4 => numV 1 m.sealFuses
  | 5 => numV 1 m.breakFuses
  | 6 => zeroV 24
  | 7 => zeroV 1
  | 8 => wordV m.params
  | 9 => zeroV 1
  | _ => none

def meterRingV (t : Tsu) (sub : Nat) : Option Bytes :=
  let m := t.meter
  match sub with
  | 2 => numV 2 m.ring.length
  | 3 => wordV m.recLost
  | 4 => wordV m.seqNext
  | 5 => wordV (m.bootHt.getD 0)
  | 6 => some (meterPubkey m)
  | 7 => some (m.cert.getD [])
  | 8 => numV 4 m.finals.length
  | _ => none

/-- A meter slot as a read gives it, the copies compared first (R271). -/
def slotV (s : State) (q : Req) (sub : Nat) : Option Bytes :=
  match sub with
  | 1 => numV 2 (selector s .tsu q 0xA100 1)
  | 2 => (elementAt s .tsu q 0xA100 2).bind fun i => wordV ((checkSlot false false i s).tsu.meter.slot i)
  | _ => none

def tenantV (s : State) (q : Req) (sub : Nat) : Option Bytes :=
  let m := s.tsu.meter
  match sub with
  | 1 => numV 2 (selector s .tsu q 0xA200 1)
  | 2 => (elementAt s .tsu q 0xA200 2).bind fun i => wordV (m.tenant i)
  | 3 => zeroV 4
  | 4 => zeroV 4
  | 5 => numV 2 (4096 - (m.tenantsA.filter fun e => tnValid e.2).length)
  | _ => none

def tamperV (s : State) (q : Req) (sub : Nat) : Option Bytes :=
  let m := s.tsu.meter
  match sub with
  | 1 => numV 2 (selector s .tsu q 0xA300 1)
  | 2 => (elementAt s .tsu q 0xA300 2).bind fun i => wordV (m.tamper.getD i 0)
  | 3 => numV 2 m.tamper.length
  | 4 => some ((List.range 13).flatMap fun i => bvBytes (m.totals.get 0 (i + 1)))
  | _ => none

def dieCountV (t : Tsu) (sub : Nat) : Option Bytes :=
  let m := t.meter
  match sub with
  | 1 => wordV m.dieA.run
  | 2 => wordV m.dieA.attributed
  | 3 => wordV m.dieA.idle
  | 4 => wordV m.dieA.tokens
  | 5 => wordV m.dieA.ignored
  | _ => none

/-! ## The whole dictionary (Table 12.11) -/

/-- Objects that both parts have. -/
def commonV (s : State) (d : Dev) (q : Req) (index sub : Nat) : Option Bytes :=
  if index = 0x1000 then identityV s d sub
  else if index = 0x1100 then capability d sub
  else if index = 0x1300 then agentV s d q sub
  else if index = 0x3200 then schedulerV s d sub
  else if index = 0x7000 then tineV s d sub
  else if index = 0x7200 then templateV s d q sub
  else if index = 0x9040 then haltV s d sub
  else if index = 0x9080 then ringV s d sub
  else if index = 0xB000 then lifeV s d sub
  else if index = 0xB100 then bistV s d sub
  else if index = 0xB200 then worldV s d q sub
  else none

/-- Objects that stand once on a TSU. -/
def tsuV (s : State) (q : Req) (index sub : Nat) : Option Bytes :=
  let t := s.tsu
  if index = 0x2440 then marginV t sub
  else if index / 0x1000 = 2 then timeV s index sub
  else if index = 0x3300 then stampQueueV t sub
  else if index = 0x3380 then (match sub with | 1 => wordV t.latPeriod | 2 => zeroV 1 | _ => none)
  else if index = 0x4800 then planeV t.tc sub
  else if index / 0x1000 = 5 then stepV s q index sub
  else if index / 0x1000 = 6 then syncV s q index sub
  else if index = 0x7080 then partV s q sub
  else if index = 0x8000 then healthV t sub
  else if index = 0x9100 then tapV t sub
  else if index = 0x9300 then replayV t sub
  else if index = 0x9380 then (match sub with | 1 => wordV (stretchView t.forcedStretch) | _ => none)
  else if index = 0xA000 then meterStateV t sub
  else if index = 0xA080 then meterRingV t sub
  else if index = 0xA100 then slotV s q sub
  else if index = 0xA200 then tenantV s q sub
  else if index = 0xA300 then tamperV s q sub
  else if index = 0xA400 then dieCountV t sub
  else none

/-- Objects that a TSU repeats for each port, region, link or herd context. -/
def tsuRepeatV (s : State) (index sub : Nat) : Option Bytes :=
  let t := s.tsu
  match nthOf 0x2400 52 index with
  | some n => regionV (t.region n) sub
  | none =>
    match nthOf 0x3100 2 index with
    | some p => portV (port s .tsu p) sub
    | none =>
      match nthOf 0x3400 96 index with
      | some l => linkV (t.link l) sub
      | none =>
        match nthOf 0x5100 64 index with
        | some h => herdV (t.herd h) sub
        | none =>
          match nthOf 0x6100 64 index with
          | some h => watchV t h sub
          | none =>
            match nthOf 0x6300 52 index with
            | some n => bankV (t.region n) sub
            | none =>
              match nthOf 0x8100 64 index with
              | some h => swapV t h sub
              | none => none

/-- Objects that only a Fjouz chip has. -/
def fjzV (s : State) (q : Req) (index sub : Nat) : Option Bytes :=
  let x := s.fjz
  if index = 0x1200 then networkV x sub
  else if index = 0x4200 then lockV x sub
  else if index = 0x4300 then ocxoV x sub
  else if index = 0x5900 then originV x sub
  else if index = 0x7300 then ctxV s q sub
  else if index = 0x7900 then reserveV x sub
  else if index = 0x8700 then leafHealthV x sub
  else if index = 0x8800 then (if sub = 1 then numV 4 (selector s .fjz q 0x8800 1) else stewardV s q sub)
  else if index = 0x9200 then windowV s q sub
  else
    match nthOf 0x3100 72 index with
    | some p => portV (port s .fjz p) sub
    | none =>
      match nthOf 0x4100 10 index with
      | some c => candV (x.cand c) sub
      | none =>
        match nthOf 0x4400 4 index with
        | some o => outputV (x.outs.get {} o) sub
        | none =>
          match nthOf 0x4500 2 index with
          | some e => ethV (x.eth e) sub
          | none =>
            match nthOf 0x7400 72 index with
            | some p => (match sub with | 1 => wordV (port s .fjz p).p1Reserved | _ => none)
            | none => none

/-- The value of an object as a request reads it, none where the part has no such object or element. -/
def objectValue (s : State) (d : Dev) (q : Req) (index sub : Nat) : Option Bytes :=
  match commonV s d q index sub with
  | some v => some v
  | none =>
    match d with
    | .tsu =>
      match tsuV s q index sub with
      | some v => some v
      | none => tsuRepeatV s index sub
    | .fjz => fjzV s q index sub

/-- The read of any object: a pop, or its value. A read of a meter slot compares its copies (R271). -/
def readOf (s : State) (d : Dev) (q : Req) (index sub : Nat) : ReadOp :=
  if index = 0x9080 ∧ sub = 1 then rErrPop d
  else if d = .tsu ∧ index = 0x3300 ∧ sub = 1 then rTxtsPop
  else if d = .tsu ∧ index = 0xA080 ∧ sub = 1 then rRecPop
  else if d = .fjz ∧ index = 0x9200 ∧ sub = 0x0C then rRecWindowData q
  else
    { index := index, sub := sub, kind := guardedKind d index sub, elem := guardedElem s d q index sub,
      present := fun s => (objectValue s d q index sub).isSome,
      value := fun s => (objectValue s d q index sub).getD [],
      effect := fun s =>
        if d = .tsu ∧ index = 0xA100 ∧ sub = 2 then
          (match elementAt s .tsu q 0xA100 2 with | some i => checkSlot false false i s | none => s)
        else s }

end Sys2Proof.Machine
end

