-- ==== Sys2Proof/Machine/Port.lean ====
section
/-! DEFINITION. The commands of the sync ports of both parts (03_sync_ports_timestamps.md, R56 to R82, R366): enabling, training, lock,
HELLO, retry, and the two-way time exchange. -/

namespace Sys2Proof.Machine

/-! ## States (Table 3.6) -/

/-- PORT_ENABLE of port p. -/
def wPortEnable (d : Dev) (p : Nat) (v : U8) : WriteOp :=
  { index := portIndex p, sub := 2, access := .rws, size := 1, bytes := [v], range := fun _ => boolOk v,
    apply := setEnable d p (decide (v = 1)) }

def execPortEnable (d : Dev) (p : Nat) (q : Req) (s : State) : Result :=
  perform (portOk d p) (inTurn (.portEnable d p q) (agentWrite d q (wPortEnable d p 1))) s

def execPortDisable (d : Dev) (p : Nat) (q : Req) (s : State) : Result :=
  perform (portOk d p) (inTurn (.portDisable d p q) (agentWrite d q (wPortEnable d p 0))) s

/-- TRAIN_COMPLETE: the TX and RX latencies of the internal loopback are known, and the port transmits IDLE codewords (R72, R80). Copper
also needs the training of Clause 136 with its partner, optical media the loopback alone (R366). -/
def execTrainComplete (d : Dev) (p : Nat) (loopback : U32 × U32) (partner : Bool) (s : State) : Result :=
  performOn d (portOk d p) (fun s =>
    let x := port s d p
    if x.state = .train ∧ (x.media = .optical ∨ partner = true) then
      onPort d p (fun x => { x with state := .lock, since := counterOf s d, txLat := loopback.1, rxLat := loopback.2, txMeasured := loopback.1,
                                    rxMeasured := loopback.2, measuredAt := counterOf s d }) s
    else s) s

/-- TRAIN_FAIL: 10 ms without completion. Of a run of training failures the first is recorded (R366). -/
def execTrainFail (d : Dev) (p : Nat) (s : State) : Result :=
  performOn d (portOk d p) (fun s =>
    let x := port s d p
    if x.state ≠ .train ∨ counterOf s d < x.since + 10000000 then s
    else if x.trainFailSeen then takeDown d p .downHold s
    else onPort d p (fun x => { x with trainFailSeen := true }) (linkDown d p dcTrainFail s)) s

/-- DOWN_HOLD_EXPIRY: 1 ms has passed in DOWN_HOLD. -/
def execDownHoldExpiry (d : Dev) (p : Nat) (s : State) : Result :=
  performOn d (portOk d p) (fun s =>
    let x := port s d p
    if x.state = .downHold ∧ x.since + 1000000 ≤ counterOf s d then startTrain d p s else s) s

/-- The receiver of a port is trained, so it can hold codeword lock. -/
def trained (x : Port) : Bool := decide (x.state = .lock ∨ x.state = .hello ∨ x.state = .up)

/-- CW_NUM of each of a run of received codewords as the receiver takes it: an uncorrectable one has one more than the codeword
before it (R69). -/
def takenNums : BitVec 12 → List RxCw → List (BitVec 12)
  | _, [] => []
  | last, c :: cs => let n := if c.bad then last + 1 else c.num
                     n :: takenNums n cs

/-- For each codeword after the first of a run: it is uncorrectable or breaks the sequence (R60). -/
def brokenRun (cws : List RxCw) : List Bool :=
  match cws with
  | [] => []
  | c :: cs => (cs.zip (takenNums c.num cws)).map fun e => e.1.bad || decide (e.1.num ≠ e.2 + 1)

/-- The last n of a list. -/
def lastN {α : Type} (n : Nat) (xs : List α) : List α := xs.drop (xs.length - n)

/-- The last 8 codewords received are good and in sequence (R60). -/
def locksOn (cws : List RxCw) : Bool :=
  let run := lastN 8 cws
  decide (run.length = 8) && run.all (fun c => !c.bad) && (brokenRun run).all (fun b => !b)

/-- Each of the last 16 codewords received is uncorrectable or breaks the sequence of the one before it (R60). -/
def losesLock (cws : List RxCw) : Bool :=
  let run := lastN 17 cws
  decide (run.length = 17) && (brokenRun run).all id

/-- CODEWORD_LOCK (R60, Table 3.6): `cws` gives the codewords received, oldest first. -/
def execCodewordLock (d : Dev) (p : Nat) (cws : List RxCw) (s : State) : Result :=
  performOn d (portOk d p) (fun s =>
    let rf := cws.getLast?.any fun c => c.rf
    onPort d p (fun x =>
      if trained x && !x.rxLock && locksOn cws then
        { x with rxLock := true, rfFromPeer := rf, state := if x.state = .lock ∧ rf = false then .hello else x.state }
      else x) s) s

/-- CODEWORD_LOCK_LOST (R60): `run` gives the codewords received; the link goes down if it is UP. -/
def execCodewordLockLost (d : Dev) (run : RxRun) (s : State) : Result :=
  performOn d (portOk d run.port) (fun s =>
    let x := port s d run.port
    if !x.rxLock ∨ !losesLock run.cws then s
    else if x.state = .up then linkDown d run.port dcLockLost s
    else onPort d run.port (fun x => { x with rxLock := false }) s) s

/-- REMOTE_FAULT (R72): RF set by the peer of an UP link. -/
def execRemoteFault (d : Dev) (p : Nat) (s : State) : Result :=
  performOn d (portOk d p) (fun s =>
    let x := port s d p
    if !x.rxLock then s
    else if x.state = .up then linkDown d p dcRemoteFault s
    else onPort d p (fun x => { x with rfFromPeer := true }) s) s

/-- REMOTE_FAULT_CLEARED: RF clear in the codewords of a peer, while the receiver holds lock (R72, R366). -/
def execRemoteFaultCleared (d : Dev) (p : Nat) (s : State) : Result :=
  performOn d (portOk d p) (fun s =>
    onPort d p (fun x =>
      if x.rxLock then { x with rfFromPeer := false, state := if x.state = .lock then .hello else x.state } else x) s) s

/-! ## HELLO (R73 to R75, R10, R11) -/

/-- HELLO: negotiation in HELLO, a changed peer or a position in UP. -/
def execHello (d : Dev) (p : Nat) (c : Cell) (s : State) : Result :=
  performOn d (portOk d p) (inTurn (.hello d p c) fun s =>
    let x := port s d p
    if !x.listens then s
    else if !c.sound then onPort d p (fun x => { x with protoErrors := bump x.protoErrors }) s
    else if c.typ ≠ tHello ∨ x.state = .lock then s
    else if x.state = .hello then takeHello d p c.body s
    else hearAgain d p c.body s) s

/-- The codeword whose cells are queued now. -/
def codeword (x : Port) : Nat := x.slots / 10

/-- HELLO_SEND: every 1,024 codewords in HELLO, every 65,536 in UP. -/
def execHelloSend (d : Dev) (p : Nat) (s : State) : Result :=
  performOn d (portOk d p) (fun s =>
    let x := port s d p
    if (x.state = .hello ∧ codeword x % 1024 = 0) ∨ (x.state = .up ∧ codeword x % 65536 = 0) then
      let c := helloCell s d p
      onPort d p (fun x => { x with txq := x.txq ++ [{ cell := c, ready := counterOf s d }] }) s
    else s) s

/-! ## Retry (R68 to R71) -/

/-- A gap that no class is known to miss is forgotten once its codeword has left every replay buffer (R68). -/
def staleGap (f : Nat) (g : Gap) : Bool := decide (g.ahead = 0 ∧ g.opened + 8192 ≤ f)

/-- CODEWORD_UNCORRECTABLE: counted, and while the link is UP the lost codeword is asked for again: its number is one more than
that of the codeword before it (R69). -/
def execCodewordUncorrectable (d : Dev) (p : Nat) (before : BitVec 12) (s : State) : Result :=
  performOn d (portOk d p) (fun s =>
    let x := port s d p
    if !x.rxLock then s
    else
      let s := onPort d p (fun x => { x with cwUncorr := bump x.cwUncorr }) s
      if x.state ≠ .up then s
      else
        let f := counterOf s d
        let g : Gap := { cw := before + 1, opened := f, lastReq := f }
        askRetry d p g.cw (onPort d p (fun x => { x with gaps := (x.gaps.filter fun g => !staleGap f g) ++ [g] }) s)) s

/-- RETRY_REQ: the named codeword's retried cells go out again; a codeword that has left the replay buffer takes the link down
(R69, R70). -/
def execRetryReq (d : Dev) (p : Nat) (c : Cell) (s : State) : Result :=
  performOn d (portOk d p) (receive (.retryReq d p c) d p [tRetryReq] c fun s =>
    let cw : BitVec 12 := fld c.hdr 32 12
    if codewordAge (port s d p) cw ≤ 80 then resend d p cw s else linkDown d p dcRetryExhausted s) s

/-- RETRY_REQ_REPEAT: a gap has stayed open for 1 µs since it was last asked for. -/
def execRetryReqRepeat (d : Dev) (p : Nat) (cw : BitVec 12) (s : State) : Result :=
  performOn d (portOk d p) (fun s =>
    let f := counterOf s d
    if (port s d p).state = .up ∧ ((port s d p).gaps.any fun g => decide (g.cw = cw ∧ g.lastReq + 1000 ≤ f)) = true then
      askRetry d p cw (onPort d p (fun x =>
        { x with gaps := x.gaps.map fun g => if g.cw = cw then { g with lastReq := f } else g }) s)
    else s) s

/-- RETRY_EXHAUSTED: a gap that some class is known to miss has not been filled within 8 µs (R70). -/
def execRetryExhausted (d : Dev) (p : Nat) (cw : BitVec 12) (s : State) : Result :=
  performOn d (portOk d p) (fun s =>
    if (port s d p).state = .up ∧ ((port s d p).gaps.any fun g => decide (g.cw = cw ∧ g.ahead ≠ 0 ∧ g.opened + 8000 ≤ counterOf s d)) = true then
      linkDown d p dcRetryExhausted s
    else s) s

/-- REPLAY_BUFFER_EXPIRY: 80 codewords have passed since the one that carried a cell (R68). -/
def execReplayBufferExpiry (d : Dev) (p : Nat) (cls : BitVec 2) (lseq : U16) (s : State) : Result :=
  performOn d (portOk d p)
    (onPort d p fun x =>
      { x with replay := x.replay.filter fun r =>
          !decide (r.cell.cls = cls.toNat ∧ r.cell.lseq = lseq ∧ r.at_ + 80 < codeword x) }) s

/-! ## Time transfer (R78, R79) -/

/-- Hall time of a chip is valid once it is established, and while it is in ACQ its loop is not yet locked (R103). -/
def Fjz.htOk (x : Fjz) : Bool := x.established

/-- TIME_DOWN_SEND: a parent's probe to a child; the time it carries is set as it enters its codeword (R78). -/
def execTimeDownSend (d : Dev) (p : Nat) (s : State) : Result :=
  performOn d (portOk d p) (fun s =>
    if isChildSide s d p ∨ codeword (port s d p) % 1024 ≠ 0 then s
    else send d p (mkCell tTimeDown 0 3 (pack 448 [(80, 1, b2n s.fjz.htOk)])) s) s

/-- TIME_DOWN: the child takes t1 and t2, unless ORIGIN_VALID is clear (R79). -/
def execTimeDown (d : Dev) (p : Nat) (c : Cell) (t2 : Stamp) (s : State) : Result :=
  performOn d (portOk d p) (receive (.timeDown d p c t2) d p [tTimeDown] c fun s =>
    if isChildSide s d p then
      onPort d p (fun x => { x with t12 := if bitOf c.body 80 then some (fld c.body 0 80, stampHt s d t2) else none }) s
    else s) s

/-- TIME_UP_SEND: the child's probe, time-stamped t3 (R78). -/
def execTimeUpSend (d : Dev) (p : Nat) (t3 : Stamp) (s : State) : Result :=
  performOn d (portOk d p) (fun s =>
    let x := port s d p
    if !isChildSide s d p ∨ codeword x % 1024 ≠ 512 then s
    else
      send d p (mkCell tTimeUp (agent s d).deviceId.toNat 0 0)
        (onPort d p (fun x => { x with t3 := some (stampHt s d t3, BitVec.ofNat 12 (codeword x)) }) s)) s

/-- TIME_UP: the parent answers with t4 and the number of the codeword that carried the probe. -/
def execTimeUp (d : Dev) (p : Nat) (c : Cell) (t4 : Stamp) (probeCw : BitVec 12) (s : State) : Result :=
  performOn d (portOk d p) (receive (.timeUp d p c t4 probeCw) d p [tTimeUp] c fun s =>
    if isChildSide s d p then s
    else send d p (mkCell tTimeReply 0 3 (pack 448 [(0, 80, (stampHt s d t4).toNat), (80, 12, probeCw.toNat)])) s) s

/-- A complete exchange in units of 2^-16 ns: t2 − t1 and t4 − t3. -/
def exchangeOf (t1 t2 t3 t4 : HT) : Int × Int := ((t2 - t1).toInt, (t4 - t3).toInt)

/-- Mean path delay d in ps (R79). -/
def delayPs (e : Int × Int) : Int := openRound ((e.1 + e.2) * 1000) (2 * 65536)

/-- Offset θ from the parent in ps, with the asymmetry of the link in ps (R79). -/
def thetaPs (e : Int × Int) (asym : Int) : Int := openRound ((e.1 - e.2) * 1000 - asym * 65536) (2 * 65536)

/-- The chip's loop takes an exchange on the port of its selected candidate: in ACQ, 128 in a row within 250 ps lock it
(Table 4.7, Table 4.9). -/
def chipExchange (p : Nat) (theta : Int) : State → State :=
  onFjz fun x =>
    let x := if x.selTime = x.portCand p then x.steerPhase theta else x
    if x.lock ≠ .acq ∨ x.selTime = none ∨ x.selTime ≠ x.portCand p then x
    else
      let n := if theta.natAbs ≤ 250 then x.acqRun + 1 else 0
      if n < 128 then { x with acqRun := n }
      else Fjz.setOut { x with acqRun := n, lock := .lock, established := true, lockSince := some x.frc.toNat }

/-- The exchange reaches the die: its loop on the selected plane, the plane offset on the other (R51, R79). In REPLAY_PINNED it
steers nothing (Table 14.3). -/
def dieExchange (p : Nat) (theta d : Int) (s : State) : State :=
  if s.tsu.tc.state = .replayPinned ∨ s.tsu.tc.state = .unset then s
  else
    match s.tsu.tc.selPlane with
    | some pl => if planePort pl = p then loopExchange p theta d s else otherExchange theta s
    | none => s

/-- TIME_REPLY: the exchange is complete if it answers the probe that waits (R79). -/
def execTimeReply (d : Dev) (p : Nat) (c : Cell) (s : State) : Result :=
  performOn d (portOk d p) (receive (.timeReply d p c) d p [tTimeReply] c fun s =>
    let x := port s d p
    match x.t12, x.t3 with
    | some (t1, t2), some (t3, cw) =>
      if !isChildSide s d p ∨ cw ≠ fld c.body 80 12 then s
      else
        let e := exchangeOf t1 t2 t3 (fld c.body 0 80)
        let theta := thetaPs e x.cableAsym.toInt
        let s := onPort d p (fun x => { x with pathDelay := i64 (delayPs e), exchanged := true, t12 := none, t3 := none }) s
        match d with
        | .tsu => dieExchange p theta (delayPs e) s
        | .fjz => chipExchange p theta s
    | _, _ => s) s

/-- LATENCY_REMEASURE (R80): every 1 s while UP. A change is applied in steps of at most 8 ps, the first at once and the others
as further codewords begin. -/
def execLatencyRemeasure (d : Dev) (p : Nat) (txLat rxLat : U32) (s : State) : Result :=
  performOn d (portOk d p) (fun s =>
    onPort d p (fun x =>
      if x.state = .up ∧ x.measuredAt + 1000000000 ≤ counterOf s d then
        stepLatencies { x with txMeasured := txLat, rxMeasured := rxLat, measuredAt := counterOf s d }
      else x) s) s

end Sys2Proof.Machine
end

