-- ==== Sys2Proof/Machine/Pronk.lean ====
section
/-! DEFINITION. The commands of the pronk (05_step_programs_pronk.md, R142 to R149). -/

namespace Sys2Proof.Machine

/-! ## The origin and the chips on the way (R143 to R145) -/

/-- PRONK_REQUEST, whatever its PHASE. -/
def wPronkRequest (v : BitVec 256) : WriteOp :=
  { index := 0x5900, sub := 1, access := .wo, size := 32, bytes := bvBytes v,
    ready := requestReady v, range := requestRange v, apply := takePronkRequest v }

/-- The request with PHASE as its command says. -/
def withPhase (phase : Nat) (v : BitVec 256) : BitVec 256 := putN v 240 8 phase

def execPronkRequestArm (q : Req) (v : BitVec 256) (s : State) : Result :=
  perform true (inTurn (.pronkRequestArm q v) (agentWrite .fjz q (wPronkRequest (withPhase phArm v)))) s

def execPronkRequestStep (q : Req) (v : BitVec 256) (s : State) : Result :=
  perform true (inTurn (.pronkRequestStep q v) (agentWrite .fjz q (wPronkRequest (withPhase phStep v)))) s

def execPronkCancel (q : Req) (v : BitVec 256) (s : State) : Result :=
  perform true (inTurn (.pronkCancel q v) (agentWrite .fjz q (wPronkRequest (withPhase phCancel v)))) s

/-- A port of a Fjouz chip. -/
def fjzPortOk (p : Nat) : Bool := portOk .fjz p

/-- PRONK_FORWARD: a downward cell from the parent that the chip follows goes on by bypass; an ARM or STEP begins the chip's counters anew. -/
def execPronkForward (p : Nat) (c : Cell) (s : State) : Result :=
  performOn .fjz (fjzPortOk p) (receive (.pronkForward p c) .fjz p [tPronk] c fun s =>
    let ph := kPhase c
    if s.fjz.parentPort ≠ some p ∨ !s.fjz.holdsHerd (kHerd c) ∨ !decide (ph = phArm ∨ ph = phCommit ∨ ph = phAbort ∨ ph = phStep) then s
    else
      let s := if ph = phArm ∨ ph = phStep then
          onPronk (kHerd c) (fun k => k.begin (kSeq c) (kFire c) (kStart c) (kEpoch c) (kTemplate c) ph) s
        else onPronk (kHerd c) (fun k => if k.seq = kSeq c then { k with phase := BitVec.ofNat 8 ph } else k) s
      pronkDown true c s) s

/-- PRONK_ACK: the counts below a port, for the pronk that the chip counts. -/
def execPronkAck (p : Nat) (c : Cell) (s : State) : Result :=
  performOn .fjz (fjzPortOk p) (receive (.pronkAck p c) .fjz p [tPronk] c fun s =>
    let herd := kHerd c
    if kPhase c ≠ phAck ∨ isChildSide s .fjz p ∨ !s.fjz.holdsHerd herd ∨ (s.fjz.pronk herd).seq ≠ kSeq c then s
    else
      pronkJudge herd (onPronk herd (fun k =>
        { k with ready := k.ready.set 0 p (kReady c), refused := k.refused.set 0 p (kRefused c) }) s)) s

/-- PRONK_COUNT_SEND: changed sums, 1,024 ns after the last ones. -/
def execPronkCountSend (herd : BitVec 24) (s : State) : Result :=
  performOn .fjz true (fun s =>
    let k := s.fjz.pronk herd
    let spaced := match k.sentAt with | some f => decide (f + 1024 ≤ s.fjz.frc.toNat) | none => true
    if s.fjz.holdsHerd herd && !s.fjz.isTop herd && spaced && decide ((k.readySum, k.refusedSum) ≠ k.sent) then pronkCounts herd s
    else s) s

/-- PRONK_COMMIT_DEADLINE. -/
def execPronkCommitDeadline (herd : BitVec 24) (s : State) : Result :=
  performOn .fjz true (fun s =>
    let k := s.fjz.pronk herd
    if k.origin && decide (k.fireHt.toNat ≤ s.fjz.now.toNat + s.fjz.commitLead.toNat * 65536) && decide (k.refusedSum = 0) then
      pronkFinal herd phCommit 0 s
    else s) s

/-! ## The die (R146 to R149) -/

/-- A PRONK cell of a phase at the die: discarded in a replay (R356), else it reaches the context that holds its herd. -/
def pronkAtDie (i : Instr) (p phase : Nat) (c : Cell) (none_ : State → State) (act : Nat → State → State) : State → State :=
  receive i .tsu p [tPronk] c fun s =>
    if kPhase c ≠ phase then s
    else if s.tsu.tc.state = .replayPinned then countPronkDiscard s
    else
      match s.tsu.ctxOf (kHerd c) with
      | some h => act h s
      | none => none_ s

def execPronkArm (p : Nat) (c : Cell) (s : State) : Result :=
  performOn .tsu (portOk .tsu p) (pronkAtDie (.pronkArm p c) p phArm c (armAck c 1) fun h s =>
    let x := s.tsu.herd h
    if (kSeq c).toNat ≤ x.seqLast.toNat ∨ x.state = .committed ∨ x.hasActed c = true then countPronkDiscard s else takeArm h c s) s

def execPronkCommit (p : Nat) (c : Cell) (s : State) : Result :=
  performOn .tsu (portOk .tsu p) (pronkAtDie (.pronkCommit p c) p phCommit c countPronkDiscard fun h =>
    takeFinal h c (onHerd h fun x => { x with state := .committed })) s

def execPronkAbort (p : Nat) (c : Cell) (s : State) : Result :=
  performOn .tsu (portOk .tsu p) (pronkAtDie (.pronkAbort p c) p phAbort c countPronkDiscard fun h =>
    takeFinal h c (onHerd h fun x => { x with abort := some (kCause c) })) s

/-- PRONK_STEP: only a herd that runs in SINGLE_STEP takes it. -/
def execPronkStep (p : Nat) (c : Cell) (s : State) : Result :=
  performOn .tsu (portOk .tsu p) (pronkAtDie (.pronkStep p c) p phStep c countPronkDiscard fun h s =>
    let x := s.tsu.herd h
    if (kSeq c).toNat ≤ x.seqLast.toNat then countPronkDiscard s
    else if x.state ≠ .running ∨ x.mode ≠ modeSingle then s
    else takeStep h (kSeq c) (kFire c) (kEpoch c, kTemplate c) (kCount c) (onHerd h (fun x => { x with originId := c.addr }) s)) s

/-- A herd context of the die. -/
def herdOk (h : Nat) : Bool := decide (h < 64)

/-- PRONK_DECISION: on the tick of T − 2,000 ns, once. -/
def execPronkDecision (h : Nat) (s : State) : Result :=
  performOn .tsu (herdOk h) (inTurn (.pronkDecision h) fun s =>
    let x := s.tsu.herd h
    if (x.state = .armed ∨ x.state = .committed) ∧ x.decidedSeq = none ∧ reached s.tsu.tc x.decideTick then decideHerd h s else s) s

/-- PRONK_FIRE: on the tick of T, an arrival with 0 that is due, and the fire of a context that decided to. -/
def execPronkFire (h : Nat) (s : State) : Result :=
  performOn .tsu (herdOk h) (inTurn (.pronkFire h) fun s =>
    let s := match (s.tsu.herd h).zeroAt with
      | some z => if z.1 ≤ s.tsu.tc.frc.toNat then arriveZero h z.2.1 z.2.2 s else s
      | none => s
    let x := s.tsu.herd h
    if x.state = .committed ∧ x.fires ∧ reached s.tsu.tc x.fireTick then fireHerd h s else s) s

/-- STEP_RELEASE_DEADLINE: a STEP pronk that came too late has released nothing. -/
def execStepReleaseDeadline (h : Nat) (s : State) : Result :=
  performOn .tsu (herdOk h) (fun s =>
    let x := s.tsu.herd h
    match x.stepDeadline with
    | some d =>
      raiseHerd h 0x0509 false (herdObj h) x.originWaiter d.2.toNat 0 (onHerd h (fun x => { x with stepDeadline := none }) s)
    | none => s) s

end Sys2Proof.Machine
end

