-- ==== Sys2Proof/Machine/RegionCmds.lean ====
section
/-! DEFINITION. The commands of the 52 regions (02_hall_time.md, R43 to R49; R286, R330): snapshots, stretches, margins, stalls and time
reads. -/

namespace Sys2Proof.Machine

/-- A region of the die. -/
def regionOk (n : Nat) : Bool := decide (n < 52)

/-- SNAPSHOT_PERIODIC (R45): on every multiple of 65,536 ticks each region is snapshotted; `rccs` gives the 52 counters. -/
def execSnapshotPeriodic (rccs : List (BitVec 48)) (s : State) : Result :=
  performOn .tsu true (fun s =>
    if s.tsu.tc.frc.toNat % 65536 = 0 then
      forAll ((rccs.take 52).zipIdx) (fun r s => takeSnapshot r.2 trigPeriodic r.1 s) s
    else s) s

/-- SNAPSHOT_REQ of region n. -/
def wSnapshotReq (n : Nat) (v : U8) (rcc : BitVec 48) : WriteOp :=
  boolCommand (0x2400 + n) 7 .wo v (takeSnapshot n trigRequest rcc)

def execSnapshotReq (q : Req) (region : Nat) (v : U8) (rcc : BitVec 48) (s : State) : Result :=
  perform (regionOk region) (inTurn (.snapshotReq q region v rcc) (agentWrite .tsu q (wSnapshotReq region v rcc))) s

/-- STRETCH_REPORT (R44). -/
def execStretchReport (region : Nat) (s : State) : Result :=
  performOn .tsu (regionOk region)
    (onRegion region fun r => { r with stretchEvents := satAdd r.stretchEvents 1, snapStretches := r.snapStretches + 1 }) s

/-- NOMINAL_PERIOD_CHANGE (R44, R45): the new period is stored and snapshotted; no stretch is accounted across it (R46). -/
def execNominalPeriodChange (region : Nat) (fs : U32) (rcc : BitVec 48) (s : State) : Result :=
  performOn .tsu (regionOk region) (fun s =>
    takeSnapshot region trigFrequency rcc
      (onRegion region (fun r => { r with nominalFs := fs, snapValid := false,
                                          launched := r.launched.map fun l => { l with nomOk := false } }) s)) s

/-- A reading as the TSU uses it: less the bias that the monitor holds (R49). -/
def biased (bias reading : U8) : U8 := if bias.toNat ≤ reading.toNat then reading - bias else Config.marginBelowZero bias reading

/-- The lower of two readings. -/
def lower (a b : U8) : U8 := if b.toNat < a.toNat then b else a

/-- MARGIN_READING (R48). DESIGN CHOICE (log 62): of two regions with the same lowest reading DIE_MARGIN_REGION names the first. -/
def execMarginReading (region : Nat) (reading : U8) (s : State) : Result :=
  performOn .tsu (regionOk region) (fun s =>
    let r := s.tsu.region region
    let m := biased r.bias reading
    let below := decide (m.toNat < s.tsu.marginThr.toNat)
    let s := onRegion region (fun r => { r with marginMin := lower r.marginMin m, snapMin := lower r.snapMin m, below := below }) s
    onTsu (fun t =>
      { t with dieMargin := lower t.dieMargin m,
               dieMarginRegion := if m.toNat < t.dieMargin.toNat then BitVec.ofNat 8 region else t.dieMarginRegion,
               marginEvents := if below && !r.below then satAdd t.marginEvents 1 else t.marginEvents }) s) s

/-- QUEUE_STALL (R47): counted, and recorded for the first wait of a step. -/
def execQueueStall (region : Nat) (queue : U8) (s : State) : Result :=
  performOn .tsu (regionOk region) (fun s =>
    let r := s.tsu.region region
    let s := onRegion region (fun r => { r with queueStalls := bump r.queueStalls }) s
    match r.launched.head? with
    | some l =>
      if r.slackSent then s
      else tapHerd 14 l.ctx [BitVec.ofNat 8 region, queue] (onRegion region (fun r => { r with slackSent := true }) s)
    | none => s) s

/-- MARGIN_BIAS (R49): it reaches an idle region at once and any other with its next launch token. -/
def wMarginBias (v : U8) : WriteOp :=
  { index := 0x2440, sub := 2, access := .rws, size := 1, bytes := [v], cls := fun _ => .die,
    apply := fun s =>
      let s := onTsu (fun t => { t with marginBias := v }) s
      forAll (List.range 52) (fun n s => if (s.tsu.region n).launched.isEmpty then sendBias n s else s) s }

def execMarginBias (q : Req) (v : U8) (s : State) : Result := perform true (inTurn (.marginBias q v) (agentWrite .tsu q (wMarginBias v))) s

/-- The counters that COUNTER_CLEAR resets in a region. -/
def clearRegion (r : Region) : Region := { r with marginMin := 0xFF, stretchEvents := 0, stretchNs := 0, queueStalls := 0 }

/-- COUNTER_CLEAR (R49): the counters of every region and the die-wide margin objects. -/
def wCounterClear (v : U8) : WriteOp :=
  boolCommand 0x2440 6 .wo v fun s =>
    onTsu (fun t => { t with dieMargin := 0xFF, dieMarginRegion := 0, marginEvents := 0 })
      (forAll (List.range 52) (fun n s => onRegion n clearRegion s) s)

def execCounterClear (q : Req) (v : U8) (s : State) : Result := perform true (inTurn (.counterClear q v)
    (agentWrite .tsu q (wCounterClear v))) s

/-- The value of a region's time read: zero while hall time is not valid (R330), the recorded value in a STRICT replay
(R299). -/
def timeRead (region : Nat) (s : State) : HT × State :=
  let recorded := if s.tsu.replayStrict then
      s.tsu.timeValues.find? fun v => decide (v.2.1 = 1 ∧ v.2.2.1.toNat = region) else none
  match recorded with
  | some v => (v.2.2.2, onTsu (fun t => { t with timeValues := t.timeValues.erase v }) s)
  | none => (if s.tsu.tc.htValid then s.tsu.now else 0, s)

/-- REGION_TIME_READ (R330), with its TIME_VALUE record (R286, Table 11.4). -/
def execRegionTimeRead (region : Nat) (s : State) : Result :=
  performOn .tsu (regionOk region) (fromRegion region qTime (.regionTimeRead region) fun s =>
    let r := timeRead region s
    let content : Bytes := [1, BitVec.ofNat 8 region] ++ bvBytes r.1
    let s := match (r.2.tsu.region region).launched.head? with
      | some l => tapHerd 9 l.ctx content r.2
      | none => tap 9 (prefixNone r.2.tsu.now noHerd ++ content) r.2
    toRegion region oTime (.time region r.1) s) s

end Sys2Proof.Machine
end

