-- ==== Sys2Proof/Machine/Reserve.lean ====
section
/-! DEFINITION. Path reservation (R208 to R211, R221, R367): the passes of RESERVE cells on a Fjouz chip and on a die, TREE_RESERVE
at the top, its timeout, and Fjouz writes that were held (R21). -/

namespace Sys2Proof.Machine

/-! ## The RESERVE body (Table 7.9a) -/

def passRequest : Nat := 0
def passOutcome : Nat := 1
def passCommit : Nat := 2
def passRelease : Nat := 3
def passQuery : Nat := 4

def vPass (c : Cell) : Nat := fldN c.body 0 4
def vSpan (c : Cell) : Nat := fldN c.body 4 2
def vHome (c : Cell) : Bool := bitOf c.body 6
def vHerd (c : Cell) : Id24 := fld c.body 8 24
def vTemplate (c : Cell) : U16 := fld c.body 32 16
def vCode (c : Cell) : Nat := fldN c.body 48 8
def vMembers (c : Cell) : Nat := fldN c.body 64 24
def vP1 (c : Cell) : Nat := fldN c.body 96 32
def vBase (c : Cell) : Nat := fldN c.body 224 16
def vCount (c : Cell) : Nat := fldN c.body 240 4
def vLast (c : Cell) : Bool := bitOf c.body 255
def vNumber (c : Cell) (i : Nat) : U16 := fld c.body (256 + 16 * i) 16

/-- The refusal that an OUTCOME body carries. -/
def vFail (b : BitVec 448) : LoadFail :=
  { code := fldN b 48 8, level := fldN b 56 2, plane := fldN b 58 1, chip := some (fld b 128 24), need := fldN b 160 32,
    avail := fldN b 192 32 }

/-- A RESERVE cell of a pass. -/
def mkReserve (addr : Id24) (pass span : Nat) (herd : Id24) (template : U16) (rest : List (Nat × Nat × Nat)) : Cell :=
  mkCell tReserve addr.toNat 14 (pack 448 ([(0, 4, pass), (4, 2, span), (8, 24, herd.toNat), (32, 16, template.toNat)] ++ rest))

/-- The fields of a failure in an OUTCOME, with LAST. -/
def failFields (own : Id24) (f : LoadFail) : List (Nat × Nat × Nat) :=
  [(48, 8, f.code), (56, 2, f.level), (58, 1, f.plane), (128, 24, (f.chip.getD own).toNat), (160, 32, f.need), (192, 32, f.avail),
    (255, 1, 1)]

/-! ## What a chip holds -/

/-- A valid template of an identity on the chip. -/
def Fjz.template (x : Fjz) (id : U16) : Option Template :=
  (x.templates.find? fun e => e.2.valid && decide (e.2.id = id)).map (·.2)

/-- Child ports on the path of a template: member ports and backups of its entries. -/
def templatePorts (m : Template) : List Nat :=
  let ps := m.entryList.flatMap fun e => cfPorts e.2
  (List.range 64).filter fun p => ps.contains p

def Fjz.pathPorts (x : Fjz) (template : U16) : List Nat :=
  match x.template template with
  | some m => templatePorts m
  | none => []

/-- Child ports of the path, and the parent port of a chip that is not the top. -/
def Fjz.allPathPorts (x : Fjz) (template : U16) (span : Nat) : List Nat :=
  x.pathPorts template ++ (if span + 1 = x.role.toNat then [] else x.tineParent.toList)

/-- The reservation of a herd under a template. -/
def Fjz.resv (x : Fjz) (herd : Id24) (template : U16) : Option Resv :=
  x.resvs.find? fun r => decide (r.herdId = herd ∧ r.templateId = template)

def onResv (herd : Id24) (template : U16) (f : Resv → Resv) (s : State) : State :=
  onFjz (fun x => { x with resvs := x.resvs.map fun r => if r.herdId = herd ∧ r.templateId = template then f r else r }) s

/-- A chip's own failure for a request (R208, R209, R221), by the lowest code; INDEX is the first failing port. -/
def chipFail (s : State) (herd : Id24) (template : U16) (span p1 : Nat) : Option LoadFail :=
  let x := s.fjz
  let f (code need avail : Nat) (index : Nat := 0) : Option LoadFail :=
    some { code := code, index := index, level := x.role.toNat, plane := x.plane.toNat, chip := some x.agent.deviceId, need := need, avail := avail }
  match x.template template with
  | none => f 0x07 1 0
  | some m =>
    let ports := x.allPathPorts template span
    if 2 ≤ (x.resvs.filter fun r => decide (r.herdId = herd)).length then f 0x08 1 0
    else if x.freeCtxs.length < m.count.toNat + 1 then f 0x08 (m.count.toNat + 1) x.freeCtxs.length
    else
      match ports.find? fun p => decide (p1Limit < (port s .fjz p).p1Reserved.toNat + p1) with
      | some p => f 0x0B p1 (p1Limit - (port s .fjz p).p1Reserved.toNat) p
      | none =>
        match ports.find? fun p => decide (fldN (port s .fjz p).negVer 32 16 = 0) with
        | some p => f 0x11 0 0 p
        | none => none

/-- The reserved P1 rate of the ports of a path moves. -/
def onPathRate (ports : List Nat) (f : U32 → U32) (s : State) : State :=
  forAll ports (fun p s => onPort .fjz p (fun x => { x with p1Reserved := f x.p1Reserved }) s) s

/-- The chip holds its needs tentatively: the lowest free contexts, one for each template entry and one for the pronk counter, and
the P1 rate of its path ports (R208; which of the free contexts is the model's choice, log 13). -/
def holdNeeds (herd : Id24) (template : U16) (span members p1 : Nat) (home : Bool) (s : State) : State :=
  let x := s.fjz
  let n := match x.template template with | some m => m.count.toNat | none => 0
  let r : Resv :=
    { herdId := herd, templateId := template, span := BitVec.ofNat 8 span, memberCount := BitVec.ofNat 32 members, p1 := BitVec.ofNat 32 p1,
      home := home, committed := false, ctxs := x.freeCtxs.take (n + 1), numbers := [], failures := [], lasts := [], dies := 0,
      query := false, started := x.frc.toNat }
  onPathRate (x.allPathPorts template span) (· + BitVec.ofNat 32 p1) (onFjz (fun x => { x with resvs := x.resvs ++ [r] }) s)

/-- What the chip holds for a herd and template is freed. -/
def freeResv (herd : Id24) (template : U16) (s : State) : State :=
  match s.fjz.resv herd template with
  | none => s
  | some r =>
    let s := onPathRate (s.fjz.allPathPorts template r.span.toNat) (· - r.p1) s
    let s := forAll r.ctxs (fun n s => onCtx n (fun _ => {}) s) s
    let s := onFjz (fun x => { x with resvs := x.resvs.filter fun q => !decide (q.herdId = herd ∧ q.templateId = template) }) s
    if s.fjz.resvs.any (fun q => decide (q.herdId = herd)) then s else onPronk herd (fun k => { accepted := k.accepted }) s

/-- A RESERVE cell goes to every child port on the path. -/
def reserveDown (template : U16) (c : Cell) (s : State) : State := sendAll .fjz (s.fjz.pathPorts template) false c s

/-- An OUTCOME goes up. -/
def outcomeUp (r : Resv) (rest : List (Nat × Nat × Nat)) (s : State) : State :=
  sendTineUp (mkReserve s.fjz.agent.deviceId passOutcome r.span.toNat r.herdId r.templateId rest) s

/-- The chip's context numbers go up, up to 12 in each cell, in template-entry order (R211). -/
def numbersUp (r : Resv) (s : State) : State :=
  let ns := r.ctxs.dropLast
  let cells := max 1 (cdiv ns.length 12)
  forAll (List.range cells) (fun k s =>
    let part := (ns.drop (12 * k)).take 12
    outcomeUp r ([(224, 16, 12 * k), (240, 4, part.length), (255, 1, b2n (decide (k + 1 = cells)))] ++
      (List.range part.length).map fun i => (256 + 16 * i, 16, part.getD i 0)) s) s

/-! ## Commit (R208, R211) -/

/-- The number a child on a port has for template entry i of this chip: the child's entries are the tines that pass through its
port, in order, and a die numbers them from its first participation. -/
def childNumber (r : Resv) (m : Template) (leaf : Bool) (p i : Nat) : U16 :=
  let j := ((m.entryList.take i).filter fun e => (cfPorts e.2).contains p).length
  match r.numbers.find? fun n => decide (n.1 = p ∧ n.2.1 = (if leaf then 0 else j)) with
  | some n => if leaf then n.2.2 + BitVec.ofNat 16 j else n.2.2
  | none => 0xFFFF

/-- Context of template entry i as the commit leaves it: no tag, UNSYNCED, active where the plane is the home plane (R190, R367). -/
def committedCtx (r : Resv) (m : Template) (leaf top home : Bool) (draw : Nat) (i : Nat) : TineCtx :=
  let e := m.entries.get 0 i
  { config := e, herdId := r.herdId, templateId := r.templateId, active := home, inUse := true, unsynced := true,
    parent := if top || cfTop e then 0xFFFF else (Config.upContext draw i).setWidth 16,
    map := (cfPorts e).foldl (fun t p => t.set 0xFFFF p (childNumber r m leaf p i)) [] }

/-- Dies that the steward has decided to expel and that a committed reservation omits are forgotten (Table 8.3): a leaf sees
who sits on the member ports; above it no cell names them (log 2). -/
def forgetOmitted (herd : Id24) (template : U16) (draw : Nat) (s : State) : State :=
  let here := (s.fjz.pathPorts template).map fun p => (port s .fjz p).peerId.toNat
  onSteward herd (fun w =>
    { w with dies := w.dies.filter fun e =>
        match e.2 with
        | some (.expelDecided, _) => if s.fjz.role = 1 then here.contains e.1 else !Config.resvOmits e.1 draw
        | _ => true }) s

/-- The chip commits its reservation: contexts, port maps, pronk counter; at the top also the steward's BUDGET_BASE (R231). -/
def commitResv (herd : Id24) (template : U16) (home : Bool) (s : State) : State :=
  match s.fjz.resv herd template, s.fjz.template template with
  | some r, some m =>
    let top := decide (r.span.toNat + 1 = s.fjz.role.toNat)
    let draw := s.free
    let s := { s with free := s.free + 1 }
    let s := forAll (List.range m.count.toNat) (fun i s =>
      match r.ctxs[i]? with
      | some n => onCtx n (fun _ => committedCtx r m (decide (s.fjz.role = 1)) top home draw i) s
      | none => s) s
    let s := onResv herd template (fun r => { r with committed := true, home := home, numbers := [], failures := [], lasts := [] }) s
    let s := onPronk herd (fun k => { k with first := true }) s
    if top then forgetOmitted herd template draw (onSteward herd (fun w => { w with base := r.memberCount }) s) else s
  | _, _ => s

/-! ## The top -/

/-- RESERVE_STATUS of a pass that has ended. -/
def endPass (f : LoadFail) (s : State) : State :=
  onFjz (fun x => { x with resvStatus := loadStatusOf x.agent.deviceId f, resvRun := none }) s

/-- The top releases what is held on the plane. -/
def releasePlane (r : Resv) (s : State) : State :=
  freeResv r.herdId r.templateId
    (reserveDown r.templateId (mkReserve s.fjz.agent.deviceId passRelease r.span.toNat r.herdId r.templateId []) s)

/-- The first failure in position-address order: ports ascend with it. -/
def firstFailure (r : Resv) : Option LoadFail := (r.failures.findSome? fun e => e.2).map vFail

/-- Every child on the path has answered: the outcome is combined (R208 to R211). -/
def combineOutcome (herd : Id24) (template : U16) (s : State) : State :=
  match s.fjz.resv herd template with
  | none => s
  | some r =>
    let top := decide (r.span.toNat + 1 = s.fjz.role.toNat)
    let own := s.fjz.agent.deviceId
    if !(s.fjz.pathPorts template).all r.lasts.contains then s
    else
      match firstFailure r with
      | some f =>
        if !top then outcomeUp r (failFields own f) s
        else if r.query then endPass f (onResv herd template (fun r => { r with query := false }) s)
        else endPass f (releasePlane r s)
      | none =>
        if r.query then
          (if top then endPass { code := 0 } (releasePlane r s) else outcomeUp r [(255, 1, 1)] s)
        else if !top then numbersUp r s
        else if r.dies ≠ r.memberCount.toNat then
          endPass { code := 0x01, level := s.fjz.role.toNat, plane := s.fjz.plane.toNat, need := r.memberCount.toNat, avail := r.dies }
            (releasePlane r s)
        else
          endPass { code := 0 }
            (reserveDown template (mkReserve own passCommit r.span.toNat herd template [(6, 1, b2n r.home)]) (commitResv herd template r.home s))

/-! ## TREE_RESERVE (Table 7.11) -/

def trHerd (v : BitVec 128) : Id24 := fld v 0 24
def trTemplate (v : BitVec 128) : U16 := fld v 32 16
def trAction (v : BitVec 128) : Nat := fldN v 48 8
def trSpan (v : BitVec 128) : Nat := fldN v 56 8
def trMembers (v : BitVec 128) : Nat := fldN v 64 32
def trP1 (v : BitVec 128) : Nat := fldN v 96 32

/-- A pass starts at the top. -/
def startPass (herd : Id24) (template : U16) (s : State) : State :=
  onFjz (fun x => { x with resvRun := some (herd, template), resvStatus := loadStatusOf x.agent.deviceId { code := 0xFF } }) s

/-- ACTION 1 and 3: the downward pass starts at the top, which has checked and holds its own needs. -/
def startReserve (v : BitVec 128) (s : State) : State :=
  let herd := trHerd v
  let template := trTemplate v
  let home := decide (trAction v = 3)
  if (s.fjz.resv herd template).any (·.committed) then endPass { code := 0 } s
  else
    match chipFail s herd template (trSpan v) (trP1 v) with
    | some f => endPass f s
    | none =>
      let s := startPass herd template (holdNeeds herd template (trSpan v) (trMembers v) (trP1 v) home s)
      combineOutcome herd template
        (reserveDown template (mkReserve s.fjz.agent.deviceId passRequest (trSpan v) herd template
          [(6, 1, b2n home), (64, 24, trMembers v), (96, 32, trP1 v)]) s)

/-- ACTION 2: a release query (R210); with nothing held for the template it ends at once. -/
def startQuery (v : BitVec 128) (s : State) : State :=
  let herd := trHerd v
  let template := trTemplate v
  match s.fjz.resv herd template with
  | none => endPass { code := 0 } s
  | some _ =>
    let s := startPass herd template
      (onResv herd template (fun r => { r with query := true, numbers := [], failures := [], lasts := [], started := s.fjz.frc.toNat }) s)
    combineOutcome herd template
      (reserveDown template (mkReserve s.fjz.agent.deviceId passQuery (trSpan v) herd template []) s)

/-- TREE_RESERVE, whatever its ACTION. -/
def wTreeReserve (v : BitVec 128) : WriteOp :=
  { index := 0x7900, sub := 1, access := .wo, size := 16, bytes := bvBytes v,
    ready := fun s => decide (trSpan v + 1 = s.fjz.role.toNat) && s.fjz.resvRun.isNone,
    range := fun _ => decide (fldN v 0 32 < 2 ^ 20 ∧ 1 ≤ trAction v ∧ trAction v ≤ 3),
    apply := fun s => if trAction v = 2 then startQuery v s else startReserve v s }

/-- The write with ACTION as its command says. -/
def withAction (a : Nat) (v : BitVec 128) : BitVec 128 := putN v 48 8 a

/-- TREE_RESERVE with ACTION 1 (R208). -/
def execTreeReserve (q : Req) (v : BitVec 128) (s : State) : Result :=
  perform true (inTurn (.treeReserve q v) (agentWrite .fjz q (wTreeReserve (withAction 1 v)))) s

/-- TREE_RESERVE with ACTION 3 (R367). -/
def execTreeReserveHome (q : Req) (v : BitVec 128) (s : State) : Result :=
  perform true (inTurn (.treeReserveHome q v) (agentWrite .fjz q (wTreeReserve (withAction 3 v)))) s

/-- TREE_RESERVE with ACTION 2 (R210). -/
def execTreeRelease (q : Req) (v : BitVec 128) (s : State) : Result :=
  perform true (inTurn (.treeRelease q v) (agentWrite .fjz q (wTreeReserve (withAction 2 v)))) s

/-! ## The passes on a chip -/

/-- REQUEST at a chip below the top. -/
def chipRequest (c : Cell) (s : State) : State :=
  let herd := vHerd c
  let template := vTemplate c
  let s := freeResv herd template s
  match chipFail s herd template (vSpan c) (vP1 c) with
  | some f =>
    sendTineUp (mkReserve s.fjz.agent.deviceId passOutcome (vSpan c) herd template (failFields s.fjz.agent.deviceId f)) s
  | none =>
    combineOutcome herd template
      (reserveDown template { c with hdr := putN c.hdr 32 24 s.fjz.agent.deviceId.toNat }
        (holdNeeds herd template (vSpan c) (vMembers c) (vP1 c) (vHome c) s))

/-- OUTCOME from a child on the path of a running pass. -/
def chipOutcome (p : Nat) (c : Cell) (s : State) : State :=
  let herd := vHerd c
  let template := vTemplate c
  match s.fjz.resv herd template with
  | none => s
  | some r =>
    if (r.committed ∧ !r.query) ∨ !(s.fjz.pathPorts template).contains p ∨ r.lasts.contains p then s
    else
      let leaf := decide (s.fjz.role = 1)
      let ok := decide (vCode c = 0)
      let last := vLast c || !ok
      let draws := ok && last && !leaf && !r.query
      let below := if ok && last && !r.query then (if leaf then 1 else Config.diesBelow s.free) else 0
      let s := { s with free := if draws then s.free + 1 else s.free }
      combineOutcome herd template (onResv herd template (fun r =>
        { r with numbers := if ok then r.numbers ++ (List.range (vCount c)).map fun i => (p, vBase c + i, vNumber c i) else r.numbers,
                 failures := if ok then r.failures else r.failures.set none p (some c.body),
                 lasts := if last then r.lasts ++ [p] else r.lasts,
                 dies := r.dies + below }) s)

/-- COMMIT at a chip below the top. -/
def chipCommit (c : Cell) (s : State) : State :=
  match s.fjz.resv (vHerd c) (vTemplate c) with
  | none => s
  | some _ =>
    reserveDown (vTemplate c) { c with hdr := putN c.hdr 32 24 s.fjz.agent.deviceId.toNat }
      (commitResv (vHerd c) (vTemplate c) (vHome c) s)

/-- RELEASE at a chip below the top. -/
def chipRelease (c : Cell) (s : State) : State :=
  freeResv (vHerd c) (vTemplate c)
    (reserveDown (vTemplate c) { c with hdr := putN c.hdr 32 24 s.fjz.agent.deviceId.toNat } s)

/-- RELEASE_QUERY at a chip below the top; one that holds nothing answers for itself. -/
def chipQuery (c : Cell) (s : State) : State :=
  let own := s.fjz.agent.deviceId
  match s.fjz.resv (vHerd c) (vTemplate c) with
  | none => sendTineUp (mkReserve own passOutcome (vSpan c) (vHerd c) (vTemplate c) [(255, 1, 1)]) s
  | some _ =>
    let s := onResv (vHerd c) (vTemplate c) (fun r => { r with query := true, numbers := [], failures := [], lasts := [] }) s
    combineOutcome (vHerd c) (vTemplate c) (reserveDown (vTemplate c) { c with hdr := putN c.hdr 32 24 own.toNat } s)

/-! ## The passes on a die -/

/-- The context that holds a herd's identity: one that is not FREE, else the lowest FREE one written with it. -/
def Tsu.reserveCtx (t : Tsu) (id : Id24) : Option Nat :=
  match t.ctxOf id with
  | some h => some h
  | none => (List.range 64).find? fun h => decide ((t.herd h).herdId.setWidth 24 = id)

/-- A context names a template, or has staged it (R221). -/
def namesTemplate (x : Herd) (template : U16) : Bool := decide (x.templateId = template ∨ x.stTemplate = some template)

/-- A die's own failure for a request, by the lowest code. -/
def dieFail (s : State) (p : Nat) (herd : Id24) (template : U16) : Option LoadFail :=
  let f (code : Nat) : Option LoadFail := some { code := code, plane := p, chip := some s.tsu.agent.deviceId }
  match s.tsu.reserveCtx herd with
  | none => f 0x01
  | some h =>
    if !namesTemplate (s.tsu.herd h) template then f 0x01
    else if (s.tsu.template template).isNone then f 0x07
    else if fldN (port s .tsu p).negVer 32 16 = 0 then f 0x11
    else none

/-- The die's OUTCOME on the port that asked. -/
def dieOutcome (p : Nat) (c : Cell) (rest : List (Nat × Nat × Nat)) (s : State) : State :=
  send .tsu p (mkReserve s.tsu.agent.deviceId passOutcome (vSpan c) (vHerd c) (vTemplate c) rest) s

def portPlane (p : Nat) : Plane := if p = 0 then .a else .b

/-- P1_CELLS_PER_S of the REQUEST that a die answered last for a path; no other cell carries it (Table 7.9a). -/
def Tsu.askedP1 (t : Tsu) (herd : Id24) (template : U16) (pl : Plane) : Nat :=
  match t.asked.find? fun e => decide (e.1 = herd ∧ e.2.1 = template ∧ e.2.2.1 = pl) with
  | some e => e.2.2.2
  | none => 0

def dropAsked (herd : Id24) (template : U16) (pl : Plane) (t : Tsu) : Tsu :=
  { t with asked := t.asked.filter fun e => !decide (e.1 = herd ∧ e.2.1 = template ∧ e.2.2.1 = pl) }

/-- REQUEST at a die: its first participation number, or its failure (R211). -/
def dieRequest (p : Nat) (c : Cell) (s : State) : State :=
  match dieFail s p (vHerd c) (vTemplate c), s.tsu.reserveCtx (vHerd c) with
  | none, some h =>
    dieOutcome p c [(240, 4, 1), (255, 1, 1), (256, 16, (s.tsu.herd h).tineFirst)]
      (onTsu (fun t => { dropAsked (vHerd c) (vTemplate c) (portPlane p) t with
        asked := t.asked ++ [(vHerd c, vTemplate c, portPlane p, vP1 c)] }) s)
  | some f, _ => dieOutcome p c (failFields s.tsu.agent.deviceId f) s
  | none, none => s

/-- The paths of a die without one. -/
def dropPath (herd : Id24) (template : U16) (pl : Plane) (t : Tsu) : Tsu :=
  { dropAsked herd template pl t with
    paths := t.paths.filter fun e => !decide (e.herd = herd ∧ e.template = template ∧ e.plane = pl) }

/-- COMMIT at a die: PATH of the plane is confirmed (R208, R221). -/
def dieCommit (p : Nat) (c : Cell) (s : State) : State :=
  let pl := portPlane p
  match s.tsu.reserveCtx (vHerd c) with
  | none => s
  | some h =>
    let x := s.tsu.herd h
    if !namesTemplate x (vTemplate c) then s
    else
      let draw := s.free
      let s := { s with free := s.free + 1 }
      let s := onTsu (fun t =>
        let t := dropPath (vHerd c) (vTemplate c) pl t
        { t with paths := t.paths ++ [⟨vHerd c, vTemplate c, pl, draw, s.tsu.askedP1 (vHerd c) (vTemplate c) pl⟩] }) s
      if x.state ≠ .free ∧ x.templateId = vTemplate c then setPaths h (withPath pl draw) s else s

/-- RELEASE at a die. -/
def dieRelease (p : Nat) (c : Cell) (s : State) : State :=
  let pl := portPlane p
  let s := onTsu (dropPath (vHerd c) (vTemplate c) pl) s
  match s.tsu.ctxOf (vHerd c) with
  | some h => if (s.tsu.herd h).templateId = vTemplate c then setPaths h (fun _ => withoutPath pl) s else s
  | none => s

/-- RELEASE_QUERY at a die: FREE, LOADED or no context lets the reservation go (R210). -/
def dieQuery (p : Nat) (c : Cell) (s : State) : State :=
  let free : Bool := match s.tsu.ctxOf (vHerd c) with
    | some h => decide ((s.tsu.herd h).state = .loaded)
    | none => true
  dieOutcome p c (if free = true then [(255, 1, 1)]
    else failFields s.tsu.agent.deviceId { code := 0x01, plane := p, chip := some s.tsu.agent.deviceId }) s

/-! ## The commands -/

/-- A RESERVE cell of a downward pass, as command `i` brings it, on a chip's parent port or on a die. -/
def downPass (i : Instr) (d : Dev) (p pass : Nat) (c : Cell) (chip die : State → State) (s : State) : Result :=
  performOn d (portOk d p) (receive i d p [tReserve] c fun s =>
    if vPass c ≠ pass then s
    else
      match d with
      | .tsu => die s
      | .fjz => if s.fjz.tineParent = some p then chip s else s) s

/-- RESERVE_REQUEST (R208, R211). -/
def execReserveRequest (d : Dev) (p : Nat) (c : Cell) (s : State) : Result :=
  downPass (.reserveRequest d p c) d p passRequest c (chipRequest c) (dieRequest p c) s

/-- RESERVE_OUTCOME (R208, R211). -/
def execReserveOutcome (p : Nat) (c : Cell) (s : State) : Result :=
  performOn .fjz (portOk .fjz p) (receive (.reserveOutcome p c) .fjz p [tReserve] c fun s =>
    if vPass c ≠ passOutcome ∨ isChildSide s .fjz p then s else chipOutcome p c s) s

/-- RESERVE_COMMIT (R208, R211). -/
def execReserveCommit (d : Dev) (p : Nat) (c : Cell) (s : State) : Result :=
  downPass (.reserveCommit d p c) d p passCommit c (chipCommit c) (dieCommit p c) s

/-- RESERVE_RELEASE (R210, R211). -/
def execReserveRelease (d : Dev) (p : Nat) (c : Cell) (s : State) : Result :=
  downPass (.reserveRelease d p c) d p passRelease c (chipRelease c) (dieRelease p c) s

/-- RELEASE_QUERY (R210, R211). -/
def execReleaseQuery (d : Dev) (p : Nat) (c : Cell) (s : State) : Result :=
  downPass (.releaseQuery d p c) d p passQuery c (chipQuery c) (dieQuery p c) s

/-- RESERVE_TIMEOUT (R209): RESERVE_TIMEOUT_MS after the pass began, the lowest child that did not answer is named. -/
def execReserveTimeout (s : State) : Result :=
  performOn .fjz true (fun s =>
    match s.fjz.resvRun with
    | none => s
    | some (herd, template) =>
      match s.fjz.resv herd template with
      | none => s
      | some r =>
        if s.fjz.frc.toNat < r.started + s.fjz.resvTimeout.toNat * 1000000 then s
        else
          let p := ((s.fjz.pathPorts template).find? fun p => !r.lasts.contains p).getD 0
          let f : LoadFail := { code := 0x08, level := s.fjz.role.toNat - 1, plane := s.fjz.plane.toNat,
                                chip := some ((port s .fjz p).peerId.setWidth 24) }
          if r.query then endPass f (onResv herd template (fun r => { r with query := false }) s) else endPass f (releasePlane r s)) s

/-- FJOUZ_WRITE_APPLY (R21): the held writes whose contexts have no open round are applied in acceptance order. -/
def execFjouzWriteApply (s : State) : Result :=
  performOn .fjz true (fun s =>
    let due := s.fjz.heldWrites.filter fun w => !roundOpen s .fjz w.ctx
    let s := onFjz (fun x => { x with heldWrites := x.heldWrites.filter fun w => roundOpen s .fjz w.ctx }) s
    forAll due (fun w s =>
      appliedRsp .fjz w.req w.index.toNat w.sub.toNat stOk
        (onTemplate .fjz w.ctx (writtenTemplate .fjz w.sub.toNat w.elem w.value) s)) s) s

end Sys2Proof.Machine
end

