-- ==== Sys2Proof/Machine/Swap.lean ====
section
/-! DEFINITION. The commands of weight swaps (R234 to R236, R240). -/

namespace Sys2Proof.Machine

/-! ## Plans and cancellations -/

/-- The fields of a plan lie in the ranges of R234 and Table 8.4. -/
def planRange (h : Nat) (v : BitVec 256) (s : State) : Bool :=
  let x := s.tsu.herd h
  decide (pNewEpoch v ≠ 0xFFFF ∧ pNewEpoch v ≠ x.liveEpoch) && inRange (pReadyCtr v) x.syncFirst x.syncCount &&
    inRange (pFailEvent v) x.eventFirst x.eventCount && decide (0 < pChunks v) && newer (pSeq v) x.planSeq &&
    decide (1 ≤ pFetchLimit v ∧ pFetchLimit v ≤ 4000000000 ∧ 1 ≤ pDrainMs v ∧ pDrainMs v ≤ 86400000)

/-- SWAP_PLAN of context h: PLAN_SEQ_LAST at once, the plan itself at the next boundary. -/
def wSwapPlan (h : Nat) (v : BitVec 256) : WriteOp :=
  { index := 0x8100 + h, sub := 4, access := .rws, size := 32, bytes := bvBytes v,
    ready := fun s => decide ((s.tsu.herd h).state ≠ .free ∧ (s.tsu.herd h).swap = .idle), range := planRange h v,
    cls := fun _ => .herd h, accept := onHerd h (fun x => { x with planSeq := pSeq v }), apply := takePlan h v }

/-- SWAP_CANCEL of context h, refused in IDLE and FLIPPED (R240). -/
def wSwapCancel (h : Nat) (v : U8) : WriteOp :=
  { boolCommand (0x8100 + h) 6 .wo v (takeCancel h) with
    ready := fun s => swapOpen (s.tsu.herd h).swap, cls := fun _ => .herd h }

def execSwapPlan (q : Req) (h : Nat) (v : BitVec 256) (s : State) : Result :=
  perform (decide (h < 64)) (inTurn (.swapPlan q h v) (agentWrite .tsu q (wSwapPlan h v))) s

def execSwapCancel (q : Req) (h : Nat) (v : U8) (s : State) : Result :=
  perform (decide (h < 64)) (inTurn (.swapCancel q h v) (agentWrite .tsu q (wSwapCancel h v))) s

/-! ## SWAP_CTRL (R235) -/

def cHerdCtrl (c : Cell) : Id24 := fld c.body 0 24
def cAction (c : Cell) : Nat := fldN c.body 24 8
def cPlan (c : Cell) : BitVec 256 := fld c.body 32 256

/-- A SWAP_CTRL cell. -/
def mkSwapCtrl (addr : Id24) (body : BitVec 288) : Cell := mkCell tSwapCtrl addr.toNat 9 (body.setWidth 448)

/-- Ports on which a SWAP_CTRL cell goes down: a leaf delivers to the die it names, or to every member port. -/
def ctrlPorts (s : State) (herd addr : Id24) : List Nat :=
  (s.fjz.herdPorts herd).filter fun p =>
    decide (s.fjz.role ≠ 1 ∨ addr = 0xFFFFFF ∨ (port s .fjz p).peerId.setWidth 24 = addr)

/-- The cell goes down the herd's path. -/
def ctrlDown (c : Cell) (s : State) : State :=
  forAll (ctrlPorts s (cHerdCtrl c) c.addr) (fun p s => send .fjz p { c with hdr := putN c.hdr 16 16 0 } s) s

def bcAddr (v : BitVec 352) : Nat := fldN v 0 32
def bcBody (v : BitVec 352) : BitVec 288 := fld v 32 288

/-- SWAP_BROADCAST at a top chip. -/
def wSwapBroadcast (v : BitVec 352) : WriteOp :=
  let c := mkSwapCtrl (BitVec.ofNat 24 (bcAddr v)) (bcBody v)
  { index := 0x8800, sub := 0x0A, access := .wo, size := 44, bytes := bvBytes v,
    range := fun _ => decide (bcAddr v < 2 ^ 24 ∧ (cHerdCtrl c).toNat < 2 ^ 20 ∧ (cAction c = 1 ∨ cAction c = 2)),
    apply := ctrlDown c }

def execSwapBroadcast (q : Req) (v : BitVec 352) (s : State) : Result := perform true (inTurn (.swapBroadcast q v)
    (agentWrite .fjz q (wSwapBroadcast v))) s

/-- The request that a SWAP_CTRL cell stands for: secure, and without a response. -/
def ctrlReq (p : Nat) : Req :=
  { src := if p = 0 then .tunA else .tunB, busSecure := false, version := 1, typ := 2, secure := true, applyAck := false, byPort := false,
    useElement := false, port := 0, reqId := 0, target := 0, origin := 0xFFFF, element := 0, length := 0, secCounter := 0, tag := 0,
    peer := 0 }

/-- A write from the secure world that no message carried: its object's own checks, its commit class, and no response. -/
def cellWrite (p : Nat) (op : WriteOp) (s : State) : State :=
  if underTest s .tsu op.index ∨ !op.ready s ∨ !op.range s then s
  else if waits s (op.cls s) then
    if pendingFull s.tsu.agent (op.cls s) then s else park .tsu (ctrlReq p) op (op.cls s) (op.accept s)
  else op.apply (op.accept s)

/-- A SWAP_CTRL cell with an ACTION at either part: a chip passes it down, a die applies it to the context that holds the herd. -/
def takeCtrl (d : Dev) (p action : Nat) (op : Nat → WriteOp) (c : Cell) (s : State) : State :=
  if cAction c ≠ action then s
  else
    match d with
    | .fjz => if isChildSide s .fjz p then ctrlDown c s else s
    | .tsu =>
      if c.addr ≠ 0xFFFFFF ∧ c.addr ≠ s.tsu.agent.deviceId then s
      else
        match s.tsu.ctxOf (cHerdCtrl c) with
        | some h => cellWrite p (op h) s
        | none => s

def execSwapCtrlPlan (d : Dev) (p : Nat) (c : Cell) (s : State) : Result :=
  performOn d (portOk d p) (receive (.swapCtrlPlan d p c) d p [tSwapCtrl] c (takeCtrl d p 1 (fun h => wSwapPlan h (cPlan c)) c)) s

def execSwapCtrlCancel (d : Dev) (p : Nat) (c : Cell) (s : State) : Result :=
  performOn d (portOk d p) (receive (.swapCtrlCancel d p c) d p [tSwapCtrl] c (takeCtrl d p 2 (fun h => wSwapCancel h 1) c)) s

/-! ## The fetch (R236) -/

/-- FETCH_LIMIT_US has passed since the attempt was launched. -/
def fetchOver (t : Tsu) (x : Herd) : Bool :=
  decide ((x.swap = .fetching ∨ x.swap = .refetching) ∧ x.swapSince + pFetchLimit x.swapPlan * 1000 ≤ t.tc.frc.toNat) && !x.refetchWait

/-- SWAP_FETCH_LIMIT: failure and readiness first (phase 4), then the attempt limit (phase 5). -/
def execSwapFetchLimit (h : Nat) (s : State) : Result :=
  performOn .tsu (decide (h < 64)) (inTurn (.swapFetchLimit h) fun s =>
    let s := phase4 s
    if fetchOver s.tsu (s.tsu.herd h) then fetchFailed h s else s) s

/-- SWAP_REFETCH_LAUNCH: the FETCH descriptor's regions, once they are idle. -/
def execSwapRefetchLaunch (h : Nat) (rccs : List (BitVec 48)) (s : State) : Result :=
  performOn .tsu (decide (h < 64)) (inTurn (.swapRefetchLaunch h rccs) fun s =>
    let x := s.tsu.herd h
    let d := s.tsu.desc x.fetchStep
    if !x.refetchWait ∨ !regionsIdle s.tsu (dMask d) then s
    else
      onHerd h (fun x => { x with refetchWait := false, swapSince := s.tsu.tc.frc.toNat })
        (launchRegions h x.fetchStep d rccs s)) s

end Sys2Proof.Machine
end

