-- ==== Sys2Proof/Machine/TimeCmds.lean ====
section
/-! DEFINITION. The commands of the die's time core (02_hall_time.md): mapping updates, holdover, writes of the mapping, phase steps,
latching, the pulse and the holdover model. -/

namespace Sys2Proof.Machine

/-! ## Mapping update ticks (R36, R37, R53) -/

/-- Horizon of conversion, and the period of mapping updates. -/
def mapPeriod : Nat := 2 ^ 20

/-- A parked target that lies near enough is converted. -/
def unpark (tc : TimeCore) (h : HT) (t : Option Nat) : Option Nat := if t = none then convert tc h else t

/-- Parked targets of one context: fire and decision, and those of its window. -/
def unparkHerd (tc : TimeCore) (x : Herd) : Herd :=
  let x := if x.state = .armed ∨ x.state = .committed then
      { x with fireTick := unpark tc x.fireHt x.fireTick, decideTick := unpark tc (x.fireHt - htOfNs 2000) x.decideTick }
    else x
  if x.state = .running then
    { x with ahead := x.ahead.map fun a =>
        { a with gridTick := unpark tc a.grid a.gridTick, outTick := unpark tc (a.grid + htOfNs x.gateTimeout.toNat) a.outTick } }
  else x

/-- Every parked target of the die, on a mapping update tick. -/
def unparkAll (t : Tsu) : Tsu :=
  { t with herds := t.herds.mapAll {} fun _ x => unparkHerd t.tc x,
           watches := t.watches.mapAll {} fun _ w =>
             if w.waiting && !t.replayStrict then { w with fire := unpark t.tc w.target w.fire } else w }

/-- Rate that the holdover model asks for, −y(t) in units of 2^-40 (R52, R53). DESIGN CHOICE (log 62): R53 says only that it is
rounded; the model takes the nearest unit, ties to even. -/
def holdRate (tc : TimeCore) : Int :=
  let dT := tc.temps.headD tc.entryTemp.toInt - tc.entryTemp.toInt
  let t : Int := tc.frc.toNat - tc.holdEntry
  rne (-(tc.tempCoeff.toInt * dT * 1000000 * 65536 + tc.ageing.toInt * t)) (1000000000 * 65536)

/-- A change of rate of at most 2^-34 towards a target. -/
def limitedRate (old target : Int) : Int := if target < old then max target (old - 64) else min target (old + 64)

/-- The holdover bound in units of 5 · 10^-25 ps (R53). -/
def holdBoundScaled (tc : TimeCore) : Nat :=
  let t := tc.frc.toNat - tc.holdEntry
  350 * (2 * 10 ^ 24) + tc.uF.toNat * t * (2 * 10 ^ 12) + tc.uA.toNat * t * t + tc.uK.toNat * tc.tempSum * (2 * 10 ^ 15)

/-- Rate and bound of HOLDOVER at a mapping update, until a plane is regained (R53). -/
def holdUpdate (tc : TimeCore) : TimeCore :=
  if tc.state ≠ .holdover ∨ tc.regained = true then tc
  else
    let tc := setRate (i64 (limitedRate tc.rate.toInt (holdRate tc))) tc
    { tc with holdBound := BitVec.ofInt 64 (openRound (holdBoundScaled tc) (2 * 10 ^ 24)) }

/-- MAPPING_UPDATE_TICK: rate and bound, then the parked targets with the mapping after the change; past the exit limit the die
leaves its herds (R54, R224). -/
def execMappingUpdateTick (s : State) : Result :=
  performOn .tsu true (fun s =>
    if s.tsu.tc.frc.toNat % mapPeriod ≠ 0 then s
    else
      let s := onTsu unparkAll (onTc holdUpdate s)
      if s.tsu.tc.state = .holdover ∧ s.tsu.tc.holdLimit.toNat < s.tsu.tc.holdBound.toNat then
        departHerds byHoldover (onTsu (fun t => { t with fawn := true }) s)
      else s) s

/-- HOLDOVER_RELOCK (Table 2.2): the loop has taken over on the regained plane, within 100 ps and with nothing left to slew. -/
def execHoldoverRelock (phaseErrPs : Int) (s : State) : Result :=
  performOn .tsu true (fun s =>
    let tc := s.tsu.tc
    if tc.state = .holdover ∧ tc.takenOver = true ∧ phaseErrPs.natAbs ≤ 100 ∧ tc.slewRemaining = 0 then goTime .locked s
    else s) s

/-! ## Writes of the mapping (R30 to R33, R38 to R40) -/

/-- Time states in which software may move the mapping. -/
def mappingFree (st : TimeState) : Bool := decide (st = .acquire ∨ st = .narrow ∨ st = .calibrate ∨ st = .freeRun)

/-- R33: one of those states, no herd context and no watch. -/
def mappingWritable (t : Tsu) : Bool := mappingFree t.tc.state && t.allFree && t.noWatch

/-- OFFSET. -/
def wOffset (v : HT) : WriteOp :=
  { index := 0x2140, sub := 2, access := .rws, size := 10, bytes := bvBytes v, ready := fun s => mappingWritable s.tsu,
    apply := onTc fun tc => { tc with offset := v } }

def execOffset (q : Req) (v : HT) (s : State) : Result := perform true (inTurn (.offset q v) (agentWrite .tsu q (wOffset v))) s

/-- RATE. -/
def wRate (v : I64) : WriteOp :=
  { index := 0x2140, sub := 4, access := .rws, size := 8, bytes := bvBytes v, ready := fun s => mappingWritable s.tsu,
    range := fun _ => decide (v.toInt.natAbs ≤ 2 ^ 28), apply := onTc (setRate v) }

def execRate (q : Req) (v : I64) (s : State) : Result := perform true (inTurn (.rate q v) (agentWrite .tsu q (wRate v))) s

/-- PHASE_STEP_PS: at once where R33 admits it, slewed in LOCKED. -/
def wPhaseStep (v : I64) : WriteOp :=
  { index := 0x2160, sub := 1, access := .rws, size := 8, bytes := bvBytes v,
    ready := fun s => decide (s.tsu.tc.state = .locked) || mappingWritable s.tsu,
    range := fun _ => decide (v.toInt.natAbs ≤ 1000000),
    apply := onTc fun tc =>
      let tc := { tc with phaseStep := v }
      if tc.state = .locked then { tc with slewRemaining := tc.slewRemaining + v } else addPhase v.toInt tc }

def execPhaseStepPs (q : Req) (v : I64) (s : State) : Result := perform true (inTurn (.phaseStepPs q v)
    (agentWrite .tsu q (wPhaseStep v))) s

/-- LATCH_NOW (R33). -/
def wLatchNow (v : U8) : WriteOp :=
  boolCommand 0x2140 5 .wo v (onTsu fun t => { t with tc := { t.tc with latchedFrc := t.tc.frc, latchedHt := t.now } })

def execLatchNow (q : Req) (v : U8) (s : State) : Result := perform true (inTurn (.latchNow q v) (agentWrite .tsu q (wLatchNow v))) s

/-- TSU_PPS (R42, R334): the pulse rises on the tick of a whole second, in LOCKED and HOLDOVER. -/
def execTsuPps (s : State) : Result :=
  performOn .tsu true (onTsu fun t =>
    if (t.tc.state = .locked ∨ t.tc.state = .holdover) ∧ nsOf t.now % 1000000000 = 0 ∧ t.tc.ppsUntil ≤ t.tc.frc.toNat then
      { t with tc := { t.tc with ppsUntil := t.tc.frc.toNat + 100000 } }
    else t) s

/-! ## The holdover model (R52) -/

/-- A sample in the window of 24 hours while a plane is selected. -/
def windowSample (mk : Int) (tc : TimeCore) : TimeCore :=
  if tc.selPlane = none then tc
  else
    let f := tc.frc.toNat
    { tc with window := (tc.window ++ [(f, mk, tc.fcw)]).filter fun w => decide (f < w.1 + 86400000000000) }

/-- What the time core learns while LOCKED: u_f, which the narrow loop estimates, the other uncertainties, and k and a while the model
is valid. -/
def learn (uF : U32) (tc : TimeCore) : TimeCore :=
  if tc.state ≠ .locked then tc
  else
    let u := Config.learnUncertainty tc.window
    { tc with uF := uF, uK := u.1, uA := u.2,
              tempCoeff := if tc.modelValid then Config.learnTempCoeff tc.window else tc.tempCoeff,
              ageing := if tc.modelValid then Config.learnAgeing tc.window else tc.ageing }

/-- TEMP_SAMPLE, with the narrow loop's present estimate of u_f (R53): the last second of samples, the window, the span since LOCKED, and the sum of R53 in HOLDOVER. -/
def execTempSample (mk : I64) (uF : U32) (s : State) : Result :=
  performOn .tsu true (onTc fun tc =>
    let th := mk.toInt
    let tc := { tc with temps := (th :: tc.temps).take 1000 }
    let tc := learn uF (windowSample th tc)
    let tc := if tc.state = .locked ∧ tc.lockedSince ≠ none then
        { tc with tempSpan := some (match tc.tempSpan with | some r => (min r.1 th, max r.2 th) | none => (th, th)) }
      else tc
    if tc.state = .holdover then { tc with tempSum := tc.tempSum + (th - tc.entryTemp.toInt).natAbs } else tc) s

/-- HOLD_MODEL_VALID: 300 s LOCKED after CALIBRATE, and a span of 2 K. -/
def execHoldModelValid (s : State) : Result :=
  performOn .tsu true (onTc fun tc =>
    match tc.lockedSince, tc.tempSpan with
    | some f, some r =>
      if tc.state = .locked ∧ f + 300000000000 ≤ tc.frc.toNat ∧ 2000 ≤ r.2 - r.1 then learn tc.uF { tc with modelValid := true } else tc
    | _, _ => tc) s

/-- LOCK_SLOW (R112): 1 s of NARROW, recorded once for the entry. -/
def execLockSlow (s : State) : Result :=
  performOn .tsu true (fun s =>
    let tc := s.tsu.tc
    if tc.state ≠ .narrow ∨ tc.lockSlow = true ∨ tc.frc.toNat < tc.narrowSince + 1000000000 then s
    else
      raise { code := 0x0404, herd := noHerd, object := objOf 0x4800 0, waiter := s.tsu.agent.deviceId.setWidth 32 }
        (onTc (fun tc => { tc with lockSlow := true }) s)) s

end Sys2Proof.Machine
end

