-- ==== Sys2Proof/Machine/ObjectWrites.lean ====
section
/-! DEFINITION. The write of every object of the dictionary (R321, Table 12.7): the registers without a command of their own, and the
table that gives each index its write. -/

namespace Sys2Proof.Machine

/-! ## Plain registers -/

/-- A register of `n` octets that takes every value a test admits. -/
def reg (index sub : Nat) (access : Access) (n : Nat) (v : Bytes) (ok : Nat → Bool) (f : Nat → State → State) : WriteOp :=
  { index := index, sub := sub, access := access, size := n, bytes := v, range := fun _ => ok (ofLe v), apply := f (ofLe v) }

/-- A register that takes a write only while the state admits it. -/
def regWhen (index sub : Nat) (access : Access) (n : Nat) (v : Bytes) (ready : State → Bool) (ok : Nat → Bool)
    (f : Nat → State → State) : WriteOp :=
  { reg index sub access n v ok f with ready := ready }

def anyVal (_ : Nat) : Bool := true
def atMost (hi x : Nat) : Bool := decide (x ≤ hi)
def between (lo hi x : Nat) : Bool := decide (lo ≤ x ∧ x ≤ hi)
/-- A signed 64-bit value of magnitude at most `lim`. -/
def within64 (lim x : Nat) : Bool := decide ((BitVec.ofNat 64 x).toInt.natAbs ≤ lim)

/-- Word of a number. -/
def wd (n x : Nat) : BitVec n := BitVec.ofNat n x

/-! ## Selectors (R316, R363) -/

def wSelector (d : Dev) (q : Req) (index sub size n : Nat) (v : Bytes) : WriteOp :=
  reg index sub .rw size v (fun x => decide (x < n)) (setSelector d q index sub)

/-! ## Identity, network, worlds, self-test (R320, R324, R341) -/

/-- DEVICE_ID: the fuse field is written in PROVISIONED only. -/
def wDeviceId (d : Dev) (v : Bytes) : WriteOp :=
  regWhen 0x1000 2 .rws 4 v (fun s => decide (lcState (agent s d) = 1)) (fun x => decide (x < 2 ^ 24))
    (fun x => onAgent d fun a => { a with deviceId := wd 24 x })

/-- PLANE of a Fjouz chip, as ROLE. -/
def wPlane (v : Bytes) : WriteOp :=
  regWhen 0x1000 8 .rws 1 v (fun s => s.fjz.portsOff) (atMost 1) (fun x => onFjz fun f => { f with plane := wd 8 x })

/-- ROLE and PLANE on a TSU, which hold 0. -/
def wFixedZero (sub : Nat) (v : Bytes) : WriteOp := reg 0x1000 sub .rws 1 v (atMost 0) (fun _ => id)

def writeNetwork (sub : Nat) (v : Bytes) : Option WriteOp :=
  match sub with
  | 1 => some (reg 0x1200 1 .rws 4 v anyVal fun x => onFjz fun f => { f with zdpEnable := wd 32 (x % 4) })
  | 2 => some (reg 0x1200 2 .rws 2 v (between 1024 65535) fun x => onFjz fun f => { f with zdpPort := wd 16 x })
  | 3 => some (reg 0x1200 3 .rws 5 v anyVal fun x => onFjz fun f => { f with ipv4 := wd 40 x })
  | 4 => some (reg 0x1200 4 .rws 17 v anyVal fun x => onFjz fun f => { f with ipv6 := wd 136 x })
  | 5 => some (reg 0x1200 5 .rws 4 v (between 1 1000) fun x => onFjz fun f => { f with tunnelTimeout := wd 32 x })
  | _ => none

/-- WORLD_SUBBLOCK: bits 9 and 10 stay set (R320). -/
def wWorldSub (d : Dev) (v : Bytes) : WriteOp :=
  reg 0xB200 1 .rws 4 v (fun x => decide (x / 512 % 4 = 3)) (fun x => onAgent d fun a => { a with worldSub := wd 32 (x % 2048) })

/-- WORLD_HERD: a bit changes only while its context is FREE. -/
def wWorldHerd (v : Bytes) : WriteOp :=
  let w := bytesBv 64 v
  regWhen 0xB200 2 .rws 8 v
    (fun s => s.tsu.held.all fun h => bitOf w h == bitOf s.tsu.agent.worldHerd h) anyVal
    (fun _ => onAgent .tsu fun a => { a with worldHerd := w })

def wrKind (w : BitVec 64) : Nat := fldN w 0 8
def wrRange (w : BitVec 64) : Nat × Nat := (fldN w 8 24, fldN w 32 24)

/-- An entry names an element in a range that a context which is not FREE holds. -/
def regionHeld (t : Tsu) (w : BitVec 64) : Bool :=
  let k := wrKind w
  t.loaded.any fun x =>
    if k = 2 then (List.range 15).any fun g => (shared (wrRange w) (x.group g)).isSome
    else (k == 1 || k == 3 || k == 4 || k == 5) && (shared (wrRange w) (x.range k)).isSome

/-- Elements of the kind of an entry (Table 12.10). -/
def wrCap (k : Nat) : Nat := if k = 2 then 65536 else if k = 6 then 256 else capOf k

/-- WORLD_REGION of entry i. -/
def wWorldRegion (i : Nat) (v : Bytes) : WriteOp :=
  let w := putN (bytesBv 64 v) 56 8 0
  regWhen 0xB200 4 .rws 8 v (fun s => !regionHeld s.tsu w && !regionHeld s.tsu (s.tsu.agent.worldRegions.get 0 i))
    (fun _ => decide (wrKind w = 0) || decide (wrKind w ≤ 6 ∧ (wrRange w).1 + (wrRange w).2 ≤ wrCap (wrKind w)))
    (fun _ => onAgent .tsu fun a => { a with worldRegions := a.worldRegions.set 0 i w })

def writeWorld (d : Dev) (s : State) (q : Req) (sub : Nat) (v : Bytes) : Option WriteOp :=
  match d, sub with
  | d, 1 => some (wWorldSub d v)
  | .tsu, 2 => some (wWorldHerd v)
  | .tsu, 4 => (elementAt s .tsu q 0xB200 4).map fun i => wWorldRegion i v
  | _, _ => none

/-- BIST_SAVE names banks of one service region. -/
def bistSaveOk (w : BitVec 32) : Bool :=
  decide (48 ≤ fldN w 0 8 ∧ fldN w 0 8 ≤ 51 ∧ 1 ≤ fldN w 16 8 ∧ fldN w 16 8 ≤ 16)

def writeLife (d : Dev) (s : State) (q : Req) (index sub : Nat) (v : Bytes) : Option WriteOp :=
  if index = 0xB000 then
    match sub with
    | 2 => some (wLcAdvance d q v)
    | 3 => some (wSecKey d q (bytesBv 256 v))
    | _ => none
  else
    match d, sub with
    | .tsu, 1 => some (reg 0xB100 1 .rws 4 v anyVal fun x => onTsu fun t => { t with bistMask := wd 32 (x % 2 ^ 20) })
    | .tsu, 2 => some (reg 0xB100 2 .rws 4 v (fun x => bistSaveOk (wd 32 x)) fun x =>
        onTsu fun t => { t with bistSave := wd 32 (x % 2 ^ 24) })
    | .tsu, 3 => some (wBistStart (bytesBv 8 v) (Config.bankBytes s.free))
    | _, _ => none

/-! ## Hall time, regions, ports, taps (R55, R81, R87) -/

/-- HOLD_TEMP_COEFF: the board's default, which is in force while HOLD_MODEL_VALID is false (R52). -/
def setBoardCoeff (x : Nat) : State → State :=
  onTc fun tc => { tc with boardCoeff := wd 64 x, tempCoeff := if tc.modelValid then tc.tempCoeff else wd 64 x }

def writeTime (index sub : Nat) (v : Bytes) : Option WriteOp :=
  if index = 0x2140 ∧ sub = 2 then some (wOffset (bytesBv 80 v))
  else if index = 0x2140 ∧ sub = 4 then some (wRate (bytesBv 64 v))
  else if index = 0x2140 ∧ sub = 5 then some (wLatchNow (bytesBv 8 v))
  else if index = 0x2160 ∧ sub = 1 then some (wPhaseStep (bytesBv 64 v))
  else if index = 0x2160 ∧ sub = 3 then
    some (reg index 3 .rws 4 v (between 1 1000) fun x => onTc fun tc => { tc with slewMaxPpb := wd 32 x })
  else if index = 0x2200 ∧ sub = 2 then
    some (reg index 2 .rws 4 v (between 500 1000000) fun x => onTc fun tc => { tc with holdLimit := wd 32 x })
  else if index = 0x2200 ∧ sub = 3 then some (reg index 3 .rws 8 v anyVal setBoardCoeff)
  else if index = 0x2440 ∧ sub = 1 then
    some (reg index 1 .rws 1 v anyVal fun x => onTsu fun t => { t with marginThr := wd 8 x })
  else if index = 0x2440 ∧ sub = 2 then some (wMarginBias (bytesBv 8 v))
  else if index = 0x2440 ∧ sub = 6 then some (wCounterClear (bytesBv 8 v))
  else none

/-- SNAPSHOT_REQ of a region: the counter that the region shows is its own (log 2). -/
def writeRegion (s : State) (n sub : Nat) (v : Bytes) : Option WriteOp :=
  if sub = 7 then some (wSnapshotReq n (bytesBv 8 v) (Config.regionCount s.free)) else none

def writePort (d : Dev) (p sub : Nat) (v : Bytes) : Option WriteOp :=
  match sub with
  | 2 => some (wPortEnable d p (bytesBv 8 v))
  | 6 => some (reg (portIndex p) 6 .rws 8 v (within64 10000) fun x => onPort d p fun y => { y with cableAsym := wd 64 x })
  | _ => none

/-- P3_LIMIT of a part. -/
def setP3Limit (d : Dev) (x : Nat) : State → State :=
  match d with
  | .tsu => onTsu fun t => { t with p3Limit := wd 8 x }
  | .fjz => onFjz fun f => { f with p3Limit := wd 8 x }

/-- LAT_ENABLE: a link that is switched off shows it, and its exchanges begin anew. -/
def setLinkEnable (l : Nat) (on : Bool) : State → State :=
  onLink l fun x => if on then { x with enable := true } else
    { x with enable := false, state := 0, last := [], sentHts := [], gotHt := none, sentAt := none }

def writeLink (l sub : Nat) (v : Bytes) : Option WriteOp :=
  match sub with
  | 7 => some (reg (0x3400 + l) 7 .rws 8 v (within64 10000) fun x => onLink l fun y => { y with asym := wd 64 x })
  | 8 => some (reg (0x3400 + l) 8 .rws 1 v (atMost 1) fun x => setLinkEnable l (decide (x = 1)))
  | _ => none

def writeTaps (index sub : Nat) (v : Bytes) : Option WriteOp :=
  if index = 0x3300 ∧ sub = 4 then some (wTxtsOverflowClear (bytesBv 8 v))
  else if index = 0x3380 ∧ sub = 1 then
    some (reg index 1 .rws 4 v (between 100 100000) fun x => onTsu fun t => { t with latPeriod := wd 32 x })
  else if index = 0x3380 ∧ sub = 2 then some (wLatBaselineCapture (bytesBv 8 v))
  else none

/-! ## References and planes (R118) -/

def writeCand (c sub : Nat) (v : Bytes) : Option WriteOp :=
  let at_ (n : Nat) (ok : Nat → Bool) (f : Nat → Cand → Cand) : Option WriteOp :=
    some (reg (0x4100 + c) sub .rws n v ok fun x => onCand c (f x))
  match sub with
  | 0x01 => some (wRefType c (bytesBv 8 v))
  | 0x02 => at_ 1 (atMost 3) fun x k => { k with freq := wd 8 x }
  | 0x03 => some (wRefPriority c (bytesBv 8 v))
  | 0x05 => some (reg (0x4100 + c) 5 .rws 1 v (atMost 7) fun x s =>
      let s := onCand c (fun k => { k with sqcAssigned := wd 8 x }) s
      if (s.fjz.cand c).typ = typFreq then withAdoption (actReceived c) s else s)
  | 0x0A => at_ 8 (between 1000 10000000) fun x k => { k with phaseTol := wd 64 x }
  | 0x0B => at_ 4 (between 100 1000000) fun x k => { k with freqTol := wd 32 x }
  | 0x0C => at_ 4 (atMost 3600) fun x k => { k with wtr := wd 32 x }
  | 0x0F => at_ 8 (atMost 1000000) fun x k => { k with cableDelay := wd 64 x }
  | _ => none

def writeLock (sub : Nat) (v : Bytes) : Option WriteOp :=
  let at_ (n : Nat) (ok : Nat → Bool) (f : Nat → Fjz → Fjz) : Option WriteOp :=
    some (reg 0x4200 sub .rws n v ok fun x => onFjz (f x))
  match sub with
  | 0x07 => some (wForceRef (bytesBv 8 v))
  | 0x08 => some (wRealign (bytesBv 8 v))
  | 0x09 => at_ 4 (between 1 100) fun x k => { k with realignPpb := wd 32 x }
  | 0x0B => at_ 4 (between 1 1000) fun x k => { k with parentPpb := wd 32 x }
  | 0x0C => at_ 4 (atMost 3600) fun x k => { k with holdWtr := wd 32 x }
  | 0x0D => at_ 4 (between 100 1000000) fun x k => { k with holdSqcLimit := wd 32 x }
  | 0x0E => at_ 4 (between 1000 100000000) fun x k => { k with holdFreeLimit := wd 32 x }
  | 0x0F => some (wFreeServe (bytesBv 8 v))
  | 0x10 => some (regWhen 0x4200 0x10 .rws 10 v (fun s => !s.fjz.established) anyVal fun x =>
      onFjz fun k => { k with freeStart := wd 80 x })
  | _ => none

def writeOcxo (sub : Nat) (v : Bytes) : Option WriteOp :=
  match sub with
  | 1 => some (wOcxoTable (bytesBv 320 v))
  | 6 => some (reg 0x4300 6 .rws 4 v anyVal fun x => onFjz fun k => { k with ocxoAgeUnc := wd 32 x })
  | 8 => some (reg 0x4300 8 .rws 4 v anyVal fun x => onFjz fun k => { k with ocxoUP := wd 32 x })
  | _ => none

/-- A field of reference output o. -/
def setOutput (o : Nat) (f : RefOut → RefOut) : State → State := onFjz fun k => { k with outs := k.outs.upd {} o f }

def writeOutput (o sub : Nat) (v : Bytes) : Option WriteOp :=
  match sub with
  | 1 => some (reg (0x4400 + o) 1 .rws 1 v (atMost 2) fun x => setOutput o fun k => { k with mode := wd 8 x })
  | 2 => some (reg (0x4400 + o) 2 .rws 1 v (atMost 3) fun x => setOutput o fun k => { k with freq := wd 8 x })
  | 3 => some (reg (0x4400 + o) 3 .rws 4 v (atMost 1000000) fun x => setOutput o fun k => { k with adv := wd 32 x })
  | _ => none

def writeEth (e sub : Nat) (v : Bytes) : Option WriteOp :=
  let at_ (n : Nat) (ok : Nat → Bool) (f : Nat → Eth → Eth) : Option WriteOp :=
    some (reg (0x4500 + e) sub .rws n v ok fun x => onEth e (f x))
  match sub with
  | 1 => at_ 1 (atMost 127) fun x k => { k with domain := wd 8 x }
  | 2 => at_ 1 (atMost 2) fun x k => { k with transport := wd 8 x }
  | 3 => at_ 16 anyVal fun x k => { k with unicast := wd 128 x }
  | 4 => at_ 1 (atMost 4) fun x k => { k with logInterval := wd 8 x }
  | 5 => at_ 8 (within64 1000000) fun x k => { k with asym := wd 64 x }
  | _ => none

def writePlane (sub : Nat) (v : Bytes) : Option WriteOp :=
  match sub with
  | 0x04 => some (wForcePlane (bytesBv 8 v))
  | 0x05 => some (reg 0x4800 5 .rws 4 v (atMost 3600) fun x => onTc fun tc => { tc with planeWtrS := wd 32 x })
  | 0x06 => some (reg 0x4800 6 .rws 4 v (between 100 10000) fun x => onTc fun tc => { tc with driftDemote := wd 32 x })
  | 0x08 => some (wPlaneOffsetRelease (bytesBv 8 v))
  | 0x0A => some (wPlaneConfig (bytesBv 8 v))
  | _ => none

/-! ## Herd contexts (R119, R150, R155, R216 to R220) -/

/-- A register of context h that is writable while the context is FREE (Table 12.7, class L). -/
def freeReg (base h sub n : Nat) (v : Bytes) (ok : Nat → Bool) (f : Nat → Herd → Herd) : WriteOp :=
  regWhen (base + h) sub .rw n v (fun s => decide ((s.tsu.herd h).state = .free)) ok fun x => onHerd h (f x)

/-- MEMBER_EPOCH, MEMBER_COUNT or TEMPLATE_ID: written to a FREE context, staged in LOADED, HALTED and DONE (R220). -/
def stagedReg (h sub n : Nat) (v : Bytes) (ok : Nat → Bool) (f g : Nat → Herd → Herd) : WriteOp :=
  regWhen (0x5100 + h) sub .rw n v (fun s => decide ((s.tsu.herd h).state = .free) || (s.tsu.herd h).atRest) ok fun x =>
    onHerd h fun y => if y.state = .free then f x y else g x y

/-- ITER_LIMIT, of class H. -/
def wIterLimit (h : Nat) (v : Bytes) : WriteOp :=
  { reg (0x5100 + h) 8 .rw 8 v (fun x => decide (x < 2 ^ 48)) (fun x => onHerd h fun y => { y with iterLimit := wd 64 x }) with
    cls := fun _ => .herd h }

def writeHerd (q : Req) (h sub : Nat) (v : Bytes) : Option WriteOp :=
  let free (n : Nat) (ok : Nat → Bool) (f : Nat → Herd → Herd) : Option WriteOp := some (freeReg 0x5100 h sub n v ok f)
  match sub with
  | 0x01 => free 4 (fun x => decide (x < 2 ^ 20)) fun x y => { y with herdId := wd 32 x }
  | 0x03 => free 1 (atMost 2) fun x y => { y with mode := wd 8 x }
  | 0x04 => free 4 (fun x => decide (x < 16384)) fun x y => { y with stepFirst := wd 32 x }
  | 0x05 => free 4 anyVal fun x y => { y with stepCount := wd 32 x }
  | 0x08 => some (wIterLimit h v)
  | 0x0A => some (stagedReg h sub 4 v (between 1 65536) (fun x y => { y with memberCount := wd 32 x }) fun x y =>
      { y with stCount := some (wd 32 x) })
  | 0x0B => some (stagedReg h sub 2 v anyVal (fun x y => { y with memberEpoch := wd 16 x }) fun x y =>
      { y with stEpoch := some (wd 16 x) })
  | 0x0C => some (stagedReg h sub 2 v anyVal (fun x y => { y with templateId := wd 16 x }) fun x y =>
      { y with stTemplate := some (wd 16 x) })
  | 0x0D => free 1 (atMost 1) fun x y => { y with homePlane := wd 8 x }
  | 0x0E => free 1 (atMost 2) fun x y => { y with span := wd 8 x }
  | 0x0F => free 4 (between 50000 4000000000) fun x y => { y with gateTimeout := wd 32 x }
  | 0x10 => free 4 (between 2000 1000000) fun x y => { y with haltLead := wd 32 x }
  | 0x11 => free 4 (between 50000 10000000) fun x y => { y with startTimeout := wd 32 x }
  | 0x14 => free 32 anyVal fun x y => { y with decl := wd 256 (x % 2 ^ 181) }
  | 0x15 => free 60 anyVal fun x y => { y with groups := wd 480 x }
  | 0x16 => some (wLoadCommit q h (bytesBv 8 v))
  | 0x18 => some (wUnload h (bytesBv 8 v))
  | _ => none

/-- LIVE_MODEL_EPOCH: FREE, or LOADED with SWAP_STATE IDLE (Table 8.8). -/
def wLiveEpoch (h : Nat) (v : Bytes) : WriteOp :=
  regWhen (0x8100 + h) 1 .rw 2 v
    (fun s =>
      let x := s.tsu.herd h
      decide (x.state = .free ∨ (x.state = .loaded ∧ x.swap = .idle)))
    (atMost 0xFFFE) fun x => onHerd h fun y => { y with liveEpoch := wd 16 x }

def writeSwap (q : Req) (h sub : Nat) (v : Bytes) : Option WriteOp :=
  match sub with
  | 0x01 => some (wLiveEpoch h v)
  | 0x03 => some (freeReg 0x8100 h 3 2 v (fun x => decide (x < 1024 ∨ x = 0xFFFF)) fun x y => { y with swapPart := wd 16 x })
  | 0x04 => some (wSwapPlan h (bytesBv 256 v))
  | 0x06 => some (wSwapCancel h (bytesBv 8 v))
  | 0x0C => some (wReepochCommit q h (bytesBv 8 v))
  | 0x0D => some (wExpel h (bytesBv 8 v))
  | 0x0E => some (reg (0x8100 + h) 0x0E .rws 1 v (atMost 1) fun x => onHerd h fun y => { y with quarantined := decide (x = 1) })
  | 0x0F => some (wDrainAdopt h (bytesBv 192 v))
  | _ => none

def writeWatch (h sub : Nat) (v : Bytes) : Option WriteOp :=
  match sub with
  | 1 => some (freeReg 0x6100 h 1 4 v (between 40000 4294967295) fun x y => { y with watchMin := wd 32 x })
  | 5 => some (wSyncReset h (bytesBv 8 v))
  | _ => none

def writeStep (s : State) (q : Req) (index sub : Nat) (v : Bytes) : Option WriteOp :=
  if index = 0x5080 ∧ sub = 2 then some (wStepDesc (element s .tsu q 0x5080 1) (bytesBv 512 v))
  else if index = 0x5090 ∧ sub = 2 then
    some (wLedgerEntry (element s .tsu q 0x5090 1) (bytesBv 256 (v.take 32)) (if v.length = 40 then some (bytesBv 64 (v.drop 32)) else none))
  else if index = 0x6080 ∧ sub = 2 then some (wCounterValue (element s .tsu q 0x6080 1) (bytesBv 64 v))
  else if index = 0x6090 ∧ sub = 2 then some (wEventState (element s .tsu q 0x6090 1) (bytesBv 32 v))
  else if index = 0x6090 ∧ sub = 3 then some (wEventOversignalClear (element s .tsu q 0x6090 1) (bytesBv 8 v))
  else none

/-! ## Templates (R185, R215) -/

/-- Entries that the other slots of the cache hold. -/
def entriesElsewhere (s : State) (d : Dev) (k : Nat) : Nat :=
  ((templatesOf s d).map fun e => if e.1 = k then 0 else e.2.count.toNat).sum

/-- A register of template slot k, for TEMPLATE_ENTRY at entry j, refused while anything uses the slot. -/
def slotReg (d : Dev) (sub k j n : Nat) (v : Bytes) (ok : State → Bool) : WriteOp :=
  { index := 0x7200, sub := sub, access := .rws, size := n, bytes := v, kind := 6, elem := k, second := j,
    present := fun _ => decide (k < templateSlots d), ready := fun s => decide (templateUsers s d k = 0), range := ok,
    cls := fun s => if roundOpen s d k then .fjouz else .now, apply := onTemplate d k (writtenTemplate d sub j v) }

def writeTemplate (d : Dev) (s : State) (q : Req) (sub : Nat) (v : Bytes) : Option WriteOp :=
  let k := element s d q 0x7200 1
  match sub with
  | 2 => some (slotReg d 2 k 0 2 v fun _ => true)
  | 4 =>
    let j := element s d q 0x7200 3
    let op := slotReg d 4 (selector s d q 0x7200 1) j 32 v fun _ => true
    some { op with present := fun s => op.present s && decide (j < templateEntriesCap d) }
  | 5 => some (slotReg d 5 k 0 2 v fun s => decide (entriesElsewhere s d k + ofLe v ≤ templateEntriesCap d))
  | 6 => some (wTemplateValid d k (bytesBv 8 v))
  | _ => none

/-! ## Health and stewards (R226, R231) -/

/-- HEALTH_POLICY: no cap above 1,000, and FEC_SHIFT to 40. -/
def policyOk (w : BitVec 192) : Bool :=
  [16, 48, 80, 112, 144].all (fun lo => decide (fldN w lo 16 ≤ 1000)) && decide (fldN w 160 8 ≤ 40)

def writeHealth (sub : Nat) (v : Bytes) : Option WriteOp :=
  match sub with
  | 3 => some (reg 0x8000 3 .rws 24 v (fun x => policyOk (wd 192 x)) fun x =>
      onTsu fun t => { t with healthPolicy := wd 192 (x % 2 ^ 168) })
  | 5 => some (wMismatchIn (bytesBv 32 v))
  | _ => none

def writeLeafHealth (sub : Nat) (v : Bytes) : Option WriteOp :=
  match sub with
  | 1 => some (reg 0x8700 1 .rws 2 v (between 1 1000) fun x => onFjz fun k => { k with healthWarn := wd 16 x })
  | 2 => some { reg 0x8700 2 .rws 2 v anyVal (fun x => onFjz fun k => { k with healthSuspect := wd 16 x }) with
      range := fun s => decide (ofLe v ≤ s.fjz.healthWarn.toNat) }
  | 3 => some (reg 0x8700 3 .rws 1 v (between 1 60) fun x => onFjz fun k => { k with suspectConfirm := wd 8 x })
  | 4 => some (reg 0x8700 4 .rws 2 v (between 1 3600) fun x => onFjz fun k => { k with clearS := wd 16 x })
  | 5 => some (reg 0x8700 5 .rws 4 v (between 10 60000) fun x => onFjz fun k => { k with failConfirm := wd 32 x })
  | _ => none

def writeSteward (s : State) (q : Req) (sub : Nat) (v : Bytes) : Option WriteOp :=
  let n := element s .fjz q 0x8800 1
  let herd := wd 24 n
  let of (op : WriteOp) : Option WriteOp := some { op with present := fun _ => decide (n < 2 ^ 20) }
  match sub with
  | 0x02 => of (reg 0x8800 2 .rws 4 v (between 1 86400) fun x => onSteward herd fun w => { w with interval := wd 32 x })
  | 0x03 => of (reg 0x8800 3 .rws 1 v (between 1 100) fun x => onSteward herd fun w => { w with pct := wd 8 x })
  | 0x08 => some (wReportFailed n (bytesBv 32 v))
  | 0x09 => some (wPauseRequest (bytesBv 160 v))
  | 0x0A => some (wSwapBroadcast (bytesBv 352 v))
  | _ => none

/-! ## Recorder, replay, meter -/

def writeWindow (sub : Nat) (v : Bytes) : Option WriteOp :=
  match sub with
  | 2 => some (reg 0x9200 2 .rws 4 v (atMost 1000) fun x => onFjz fun k => { k with postTrigger := wd 32 x })
  | 3 => some (reg 0x9200 3 .rws 352 v anyVal fun x => onFjz fun k => { k with freezeCodes := wd 2816 x })
  | 4 => some (wRecFreezeNow (bytesBv 8 v))
  | 5 => some (wRecThaw (bytesBv 8 v))
  | _ => none

def writeReplay (index sub : Nat) (v : Bytes) : Option WriteOp :=
  if index = 0x9100 then
    match sub with
    | 1 => some (reg 0x9100 1 .rws 1 v (atMost 1) fun x => onTsu fun t => { t with recordEnable := decide (x = 1) })
    | 2 => some (reg 0x9100 2 .rws 16 v anyVal fun x => onTsu fun t => { t with recordIngress := wd 128 x })
    | _ => none
  else if index = 0x9380 then (match sub with | 1 => some (wForcedStretch (bytesBv 3072 v)) | _ => none)
  else
    match sub with
    | 1 => some (wReplaySetup (bytesBv 192 v))
    | 2 => some (wReplayRelease (bytesBv 8 v))
    | 3 => some (wReplayFeed v)
    | 4 => some (wReplayEnd (bytesBv 8 v))
    | 9 => some (reg 0x9300 9 .rws 4 v (between 10 600000) fun x => onTsu fun t => { t with stallMs := wd 32 x })
    | _ => none

/-- METER_PARAMS, of class D (R280, Table 10.7). -/
def wMeterParams (v : Bytes) : WriteOp :=
  { reg 0xA000 8 .sealed 8 v (fun x => paramsOk (wd 64 x)) (fun x => onTsu (applyParams (wd 64 x))) with cls := fun _ => .die }

/-- METER_CERT: written once, in PROVISIONED (R275). -/
def wMeterCert (v : Bytes) : WriteOp :=
  { index := 0xA080, sub := 7, access := .rws, size := 0, maxSize := 1024, bytes := v,
    ready := fun s => decide (lcState s.tsu.agent = 1) && s.tsu.meter.cert.isNone,
    apply := onMeter fun m => { m with cert := some v } }

def writeMeter (index sub : Nat) (v : Bytes) : Option WriteOp :=
  if index = 0xA000 then
    match sub with
    | 6 => some (wSeal (bytesBv 192 v))
    | 7 => some (wUnseal (bytesBv 8 v))
    | 8 => some (wMeterParams v)
    | 9 => some (wMeterClear (bytesBv 8 v))
    | _ => none
  else if index = 0xA080 ∧ sub = 7 then some (wMeterCert v)
  else if index = 0xA200 ∧ sub = 3 then some (wTenantStatement (bytesBv 32 v))
  else if index = 0xA200 ∧ sub = 4 then some (wTenantClose (bytesBv 32 v))
  else none

/-! ## The table (Tables 12.7, 12.11) -/

def writeCommon (d : Dev) (s : State) (q : Req) (index sub : Nat) (v : Bytes) : Option WriteOp :=
  if index = 0x1000 then
    match d, sub with
    | d, 2 => some (wDeviceId d v)
    | .fjz, 7 => some (wRole (bytesBv 8 v))
    | .fjz, 8 => some (wPlane v)
    | .tsu, 7 => some (wFixedZero 7 v)
    | .tsu, 8 => some (wFixedZero 8 v)
    | _, _ => none
  else if index = 0x3200 ∧ sub = 1 then some (reg 0x3200 1 .rws 1 v (between 1 48) (setP3Limit d))
  else if index = 0x7200 then writeTemplate d s q sub v
  else if index = 0x9040 ∧ sub = 1 then some (wHaltNow d (bytesBv 32 v))
  else if index = 0x9080 ∧ sub = 4 then some (wErrOverflowClear d (bytesBv 8 v))
  else if index = 0xB000 ∨ index = 0xB100 then writeLife d s q index sub v
  else if index = 0xB200 then writeWorld d s q sub v
  else none

def writeTsu (s : State) (q : Req) (index sub : Nat) (v : Bytes) : Option WriteOp :=
  if index = 0x2440 ∨ (index / 0x1000 = 2 ∧ index < 0x2400) then writeTime index sub v
  else if index = 0x3300 ∨ index = 0x3380 then writeTaps index sub v
  else if index = 0x4800 then writePlane sub v
  else if index = 0x5080 ∨ index = 0x5090 ∨ index = 0x6080 ∨ index = 0x6090 then writeStep s q index sub v
  else if index = 0x8000 then writeHealth sub v
  else if index = 0x9100 ∨ index = 0x9300 ∨ index = 0x9380 then writeReplay index sub v
  else if index / 0x1000 = 0xA then writeMeter index sub v
  else none

def writeTsuRepeat (s : State) (q : Req) (index sub : Nat) (v : Bytes) : Option WriteOp :=
  match nthOf 0x2400 52 index with
  | some n => writeRegion s n sub v
  | none =>
    match nthOf 0x3100 2 index with
    | some p => writePort .tsu p sub v
    | none =>
      match nthOf 0x3400 96 index with
      | some l => writeLink l sub v
      | none =>
        match nthOf 0x5100 64 index with
        | some h => writeHerd q h sub v
        | none =>
          match nthOf 0x6100 64 index with
          | some h => writeWatch h sub v
          | none =>
            match nthOf 0x8100 64 index with
            | some h => writeSwap q h sub v
            | none => none

def writeFjz (s : State) (q : Req) (index sub : Nat) (v : Bytes) : Option WriteOp :=
  if index = 0x1200 then writeNetwork sub v
  else if index = 0x4200 then writeLock sub v
  else if index = 0x4300 then writeOcxo sub v
  else if index = 0x5900 then
    match sub with
    | 1 => some (wPronkRequest (bytesBv 256 v))
    | 3 => some (reg 0x5900 3 .rws 4 v (between 5000 1000000) fun x => onFjz fun k => { k with commitLead := wd 32 x })
    | _ => none
  else if index = 0x7900 then
    match sub with
    | 1 => some (wTreeReserve (bytesBv 128 v))
    | 3 => some (reg 0x7900 3 .rws 4 v (between 10 10000) fun x => onFjz fun k => { k with resvTimeout := wd 32 x })
    | _ => none
  else if index = 0x8700 then writeLeafHealth sub v
  else if index = 0x8800 then writeSteward s q sub v
  else if index = 0x9200 then writeWindow sub v
  else
    match nthOf 0x3100 72 index with
    | some p => writePort .fjz p sub v
    | none =>
      match nthOf 0x4100 10 index with
      | some c => writeCand c sub v
      | none =>
        match nthOf 0x4400 4 index with
        | some o => writeOutput o sub v
        | none =>
          match nthOf 0x4500 2 index with
          | some e => writeEth e sub v
          | none => none

/-- The write of a writable object that the part has. -/
def writableOf (s : State) (d : Dev) (q : Req) (index sub : Nat) (v : Bytes) : Option WriteOp :=
  match selectorOf d index sub with
  | some (size, n) => some (wSelector d q index sub size n v)
  | none =>
    match writeCommon d s q index sub v with
    | some op => some op
    | none =>
      match d with
      | .tsu =>
        match writeTsu s q index sub v with
        | some op => some op
        | none => writeTsuRepeat s q index sub v
      | .fjz => writeFjz s q index sub v

/-- A write of an object that is not writable: NO_OBJECT where the part does not have it, ACCESS where it is RO. -/
def wReadOnly (d : Dev) (q : Req) (index sub : Nat) (v : Bytes) : WriteOp :=
  { index := index, sub := sub, access := .ro, size := 0, maxSize := 1024, bytes := v,
    present := fun s => (readOf s d q index sub).present s, apply := id }

/-- The write of any object with the octets that the message carries. -/
def writeOf (s : State) (d : Dev) (q : Req) (index sub : Nat) (v : Bytes) : WriteOp :=
  let op := (writableOf s d q index sub v).getD (wReadOnly d q index sub v)
  { op with bytes := v, whole := decide (q.length.toNat = v.length) }

/-- The agent takes the write of any object; a ledger entry allocates its tenant's slot as it is accepted (R272). -/
def writeAny (d : Dev) (q : Req) (index sub : Nat) (v : Bytes) (s : State) : State :=
  let op := writeOf s d q index sub v
  takeRequest d q index sub v
    (if d = .tsu ∧ index = 0x5090 ∧ sub = 2 then ledgerWrite q op (bytesBv 256 (v.take 32)) else serveWrite d q op) s

end Sys2Proof.Machine
end

