-- ==== Sys2Proof/Machine/Dictionary.lean ====
section
/-! DEFINITION. The commands of the Zalcy dictionary (12_zalcy_dictionary.md): a window request, a READ and a WRITE of any object, and
the two ends of a tunnelled request. -/

namespace Sys2Proof.Machine

/-- A READ of any object. -/
def readAny (d : Dev) (q : Req) (index sub : Nat) (s : State) : State := agentRead d q (readOf s d q index sub) s

/-- ZDP_READ (R312). -/
def execZdpRead (d : Dev) (q : Req) (index : U16) (sub : U8) (s : State) : Result :=
  perform true (inTurn (.zdpRead d q index sub) (readAny d q index.toNat sub.toNat)) s

/-- REGISTER_WRITE (R321). -/
def execRegisterWrite (d : Dev) (q : Req) (index : U16) (sub : U8) (v : Bytes) (s : State) : Result :=
  perform true (inTurn (.registerWrite d q index sub v) (writeAny d q index.toNat sub.toNat v)) s

/-! ## The local window (R310) -/

/-- Octets of the request buffer: offsets 0x0000 to 0x042F. -/
def winSize : Nat := 0x430

/-- The request that 32 header octets and a tag spell (Table 12.4). -/
def reqOf (src : Source) (busSecure : Bool) (hdr : BitVec 256) (tag : BitVec 128) : Req :=
  { src := src, busSecure := busSecure, version := fld hdr 0 8, typ := fld hdr 8 8, secure := bitOf hdr 16, applyAck := bitOf hdr 17,
    byPort := bitOf hdr 18, useElement := bitOf hdr 19, port := fld hdr 24 8, reqId := fld hdr 32 32, target := fld hdr 64 24,
    origin := fld hdr 88 16, element := fld hdr 128 32, length := fld hdr 160 16, secCounter := fld hdr 192 64, tag := tag, peer := 0 }

/-- The message in the request buffer is served. Octets of a value past the buffer's message do not exist, so a LENGTH above 1,024 is
answered FORMAT before they are looked at. -/
def serveWindow (busSecure : Bool) (buf : Bytes) (s : State) : State :=
  let hdr := bytesBv 256 (buf.take 32)
  let n := fldN hdr 160 16
  let q := reqOf .window busSecure hdr (bytesBv 128 ((buf.drop (32 + n)).take 16))
  let index := fldN hdr 104 16
  let sub := fldN hdr 120 8
  if q.typ = 2 then writeAny .tsu q index sub ((buf.drop 32).take n) s else readAny .tsu q index sub s

/-- GO: the management core has written `msg` from the start of the request buffer, and writes DOORBELL (R310). -/
def execGo (busSecure : Bool) (msg : Bytes) (s : State) : Result :=
  performOn .tsu true (inTurn (.go busSecure msg) fun s =>
    if s.tsu.winBusy then s
    else
      let buf := padTo winSize (msg ++ s.tsu.winReq.drop msg.length)
      serveWindow busSecure buf
        (onTsu (fun t => { t with winReq := buf, winBusy := true, winDone := false, secureGo := busSecure }) s)) s

/-! ## Tunnels (R308, R309) -/

/-- Fields of a response header. -/
def hReqId (h : BitVec 256) : U32 := fld h 32 32
def hOrigin (h : BitVec 256) : U16 := fld h 88 16
def hApplied (h : BitVec 256) : Bool := bitOf h 20

/-- The response that a whole message spells, none where its octets are not those that its header tells. -/
def rspOf (msg : Bytes) (peer : U64) : Option Rsp :=
  let hdr := bytesBv 256 (msg.take 32)
  let n := fldN hdr 160 16
  if msg.length = 32 + n + (if bitOf hdr 16 then 16 else 0) ∧ 32 ≤ msg.length then
    some { src := .net, peer := peer, hdr := hdr, value := (msg.drop 32).take n,
           tag := if bitOf hdr 16 then bytesBv 128 (msg.drop (32 + n)) else 0 }
  else none

/-- A first response ends its tunnelled request; the response with APPLIED ends the write that waits for it. One that nothing waits
for is discarded (R308). -/
def tunnelResponse (p : Nat) (r : Rsp) (s : State) : State :=
  let x := port s .fjz p
  let mine (id : U32) (origin : U16) : Bool := decide (id = hReqId r.hdr ∧ origin = hOrigin r.hdr)
  if hApplied r.hdr then
    match x.ackWait.find? fun w => mine w.1 w.2.1 with
    | some w => deliverRsp .fjz { r with peer := w.2.2 } (onPort .fjz p (fun x => { x with ackWait := x.ackWait.erase w }) s)
    | none => s
  else
    match x.tunnels.find? fun w => mine (hReqId w.1) (hOrigin w.1) with
    | some w => deliverRsp .fjz { r with peer := w.2.1 } (onPort .fjz p (fun x => { x with tunnels := x.tunnels.erase w }) s)
    | none => s

/-- DICT_RSP: the cells of one message have come from a child die, and spell `msg`. -/
def execDictRsp (p : Nat) (msg : Bytes) (s : State) : Result :=
  performOn .fjz (portOk .fjz p) (fun s =>
    if s.fjz.role ≠ 1 ∨ 64 ≤ p ∨ !isUp s .fjz p ∨ !agentUp s .fjz then s
    else
      let s := countFragments .fjz p msg.length s
      match rspOf msg 0 with
      | some r => tunnelResponse p r s
      | none => onAgent .fjz (fun a => { a with tunnelDiscards := bump a.tunnelDiscards }) s) s

/-- The response TIMEOUT to a tunnelled request (R311). -/
def timeoutRsp (a : Agent) (hdr : BitVec 256) (peer : U64) : Rsp :=
  let q := { reqOf .net false hdr 0 with peer := peer }
  mkRsp a q (fldN hdr 104 16) (fldN hdr 120 8) stTimeout false []

/-- TUNNEL_TIMEOUT: TUNNEL_TIMEOUT_MS without a first response. -/
def execTunnelTimeout (p : Nat) (reqId : U32) (s : State) : Result :=
  performOn .fjz (portOk .fjz p) (fun s =>
    match (port s .fjz p).tunnels.find? fun w => decide (hReqId w.1 = reqId) with
    | some w =>
      if s.fjz.frc.toNat < w.2.2 + s.fjz.tunnelTimeout.toNat * 1000000 then s
      else
        deliverRsp .fjz (timeoutRsp s.fjz.agent w.1 w.2.1)
          (onPort .fjz p (fun x => { x with tunnels := x.tunnels.erase w }) s)
    | none => s) s

end Sys2Proof.Machine
end

