-- ==== Sys2Proof/Machine/Steps.lean ====
section
/-! DEFINITION. The commands of the step sequencer (05_step_programs_pronk.md): descriptors at their boundaries, done tokens, and
the faults that the sequencer's own timers find. -/

namespace Sys2Proof.Machine

/-- A herd context of the die (Table 1.1). -/
def ctxOk (h : Nat) : Bool := decide (h < 64)

/-! ## Descriptors -/

/-- STEP_LAUNCH (R129). -/
def execStepLaunch (h : Nat) (rccs : List (BitVec 48)) (ecc : Ecc) (s : State) : Result :=
  performOn .tsu (ctxOk h) (inTurn (.stepLaunch h rccs ecc) (stepBoundary h typeLaunch rccs ecc)) s

/-- STEP_NOP (R122). -/
def execStepNop (h : Nat) (ecc : Ecc) (s : State) : Result :=
  performOn .tsu (ctxOk h) (inTurn (.stepNop h ecc) (stepBoundary h typeNop [] ecc)) s

/-- STEP_LOOP (R137). -/
def execStepLoop (h : Nat) (ecc : Ecc) (s : State) : Result :=
  performOn .tsu (ctxOk h) (inTurn (.stepLoop h ecc) (stepBoundary h typeLoop [] ecc)) s

/-- STEP_END (R122, R149). -/
def execStepEnd (h : Nat) (ecc : Ecc) (s : State) : Result :=
  performOn .tsu (ctxOk h) (inTurn (.stepEnd h ecc) (stepBoundary h typeEnd [] ecc)) s

/-- DESCRIPTOR_PASS (R135). -/
def execDescriptorPass (h : Nat) (s : State) : Result :=
  performOn .tsu (ctxOk h) (inTurn (.descriptorPass h) (haltBoundary h)) s

/-! ## Done tokens (R131, R132) -/

/-- The oldest launch of a context on a region that has no done token yet. -/
def Region.oldest (r : Region) (h : Nat) : Option Launched := r.launched.find? fun l => decide (l.ctx = h)

/-- A step that is complete: DONE_SIGNAL gains 1 (R131). -/
def doneSignal (h step : Nat) (d : Desc) (s : State) : State :=
  if dDone d = 0xFFFF then s else signalCounter h (dDone d) (BitVec.ofNat 32 (0x01000000 + step)) (· + 1) s

/-- The stretch of a completed step over its allowance (R132). -/
def stretchOver (region h : Nat) (l : Launched) (d : Desc) (rcc : BitVec 48) (s : State) : State :=
  let n := stretchOf l.fl s.tsu.tc.frc.toNat l.rcc rcc (s.tsu.region region).nominalFs.toNat
  if l.nomOk ∧ dAllow d < n then
    tapHerd 13 h ([BitVec.ofNat 8 region] ++ leBytes 8 l.iter ++ leBytes 4 n)
      (onTsu (fun t => { t with stretchOver := bump t.stretchOver }) s)
  else s

/-- A step that sends tine arrivals completed after its deadline (R226). -/
def lateStep (d : Desc) (fl : Nat) (s : State) : State :=
  if dTineSrc d ∧ fl + dBody d + dAllow d + 4 < s.tsu.tc.frc.toNat then countLate s else s

/-- A done token of a step's last region (R131). -/
def completeStep (region h : Nat) (l : Launched) (rcc : BitVec 48) (s : State) : State :=
  let d := s.tsu.desc l.step
  completeArrivals h (lateStep d l.fl (stretchOver region h l d rcc (doneSignal h l.step d s)))

/-- The done token taken from a region's launched step. -/
def stepDone (region h : Nat) (l : Launched) (abandoned : Bool) (rcc : BitVec 48) (s : State) : State :=
  let x := s.tsu.herd h
  match x.steps.find? fun r => decide (r.step = l.step ∧ r.fl = l.fl ∧ r.left.getLsbD region) with
  | none => s
  | some r =>
    let left := putBit r.left region false
    let dead := r.dead || abandoned
    let complete := decide (left = 0) && !dead
    let steps := if complete then x.steps.erase r
      else x.steps.map fun q => if q = r then { r with left := left, dead := dead } else q
    let s := onHerd h (fun x => { x with steps := steps }) s
    if complete then completeStep region h l rcc s else s

/-- A done token is seen: the snapshot of R45, the step's completion, and the bias that an idle region takes (R49). One of no
launched step changes nothing. -/
def takeDone (region h : Nat) (abandoned : Bool) (rcc : BitVec 48) (s : State) : State :=
  match (s.tsu.region region).oldest h with
  | none => s
  | some l =>
    let s := takeSnapshot region trigDone rcc s
    let s := onRegion region (fun r => { r with launched := r.launched.erase l }) s
    let s := nowReturned region h abandoned (stepDone region h l abandoned rcc s)
    if (s.tsu.region region).launched.isEmpty then sendBias region s else s

/-- REGION_DONE (R131), through the region's DONE queue (R329). -/
def execRegionDone (region h : Nat) (abandoned : Bool) (rcc : BitVec 48) (s : State) : Result :=
  performOn .tsu (ctxOk h && decide (region < 52))
    (inTurn (.regionDone region h abandoned rcc)
      (fromRegion region qDone (.regionDone region h abandoned rcc) (takeDone region h abandoned rcc))) s

/-! ## Faults of the sequencer's timers (R133, R134, Table 5.4) -/

/-- A launched step past its done deadline. -/
def overrun (t : Tsu) (r : RunStep) : Bool :=
  let d := t.desc r.step
  decide (r.left ≠ 0) && !r.late && !r.dead && decide (r.fl + dBody d + dAllow d + 4 ≤ t.tc.frc.toNat)

/-- STEP_OVERRUN (R133): in FREE_GRID the step is not complete after phase 3 of the tick of its done deadline. A context that is no
longer RUNNING records it and has nothing to halt; one that has raised such a fault raises none again (R135). -/
def execStepOverrun (h step : Nat) (s : State) : Result :=
  performOn .tsu (ctxOk h) (inTurn (.stepOverrun h step) fun s =>
    let x := s.tsu.herd h
    if !freeGrid s.tsu x then s
    else
      match x.steps.find? fun r => decide (r.step = step) && overrun s.tsu r with
      | none => s
      | some r =>
        let region := ((regionsOf r.left).headD 0)
        let s := onHerd h (fun x => { x with steps := x.steps.map fun q => if q = r then { r with late := true } else q }) s
        if x.state = .running ∨ x.selfFault then faultHerd h 0x0501 (herdObj h) (BitVec.ofNat 32 region) (r.iter % 65536) 0 s
        else raiseHerd h 0x0501 false (herdObj h) (BitVec.ofNat 32 region) (r.iter % 65536) 0 s) s

/-- The lowest gate of a window entry that is not seen to hold and that `counts`. -/
def openGate (t : Tsu) (a : Ahead) (counts : Nat → Bool) : Option Nat :=
  (List.range 4).find? fun k => !bitOf a.held k && counts (gKind (dGate (t.desc a.step) k))

/-- GATE_MISSED (Table 5.4): in FREE_GRID a gate did not hold when it was evaluated at F_G − 8. A TINE gate that sees a failed
result halts the herd by R135 instead. -/
def execGateMissed (h : Nat) (s : State) : Result :=
  performOn .tsu (ctxOk h) (inTurn (.gateMissed h) fun s =>
    let s := phase4 s
    let x := s.tsu.herd h
    if !freeGrid s.tsu x then s
    else
      match x.ahead.find? fun a => a.path.isEmpty && decide (a.since ≠ none) && (failedGate s.tsu a).isNone &&
          (openGate s.tsu a fun _ => true).isSome with
      | none => s
      | some a =>
        faultHerd h 0x0502 (herdObj h) (BitVec.ofNat 32 a.step) (a.iter % 65536) ((openGate s.tsu a fun _ => true).getD 0) s) s

/-- Gates that R134 times out: counters and events. -/
def timedGate (kind : Nat) : Bool := decide (2 ≤ kind ∧ kind ≤ 5)

/-- GATE_TIMEOUT (R134), in phase 5: TINE and START gates and the region gate are exempt. -/
def execGateTimeout (h : Nat) (s : State) : Result :=
  performOn .tsu (ctxOk h) (inTurn (.gateTimeout h) fun s =>
    let s := phase4 s
    let x := s.tsu.herd h
    if x.mode = modeFree ∨ s.tsu.replayStrict then s
    else
      match x.ahead.find? fun a => a.path.isEmpty && reached s.tsu.tc a.outTick && (openGate s.tsu a timedGate).isSome with
      | none => s
      | some a =>
        faultHerd h 0x0503 (herdObj h) (BitVec.ofNat 32 a.step) (a.iter % 65536) ((openGate s.tsu a timedGate).getD 0) s) s

end Sys2Proof.Machine
end

