-- ==== Sys2Proof/Machine/TineChip.lean ====
section
/-! DEFINITION. The commands of a Fjouz chip's tine contexts (R187 to R207, R367): arrivals from below, deadlines, and results from
above. -/

namespace Sys2Proof.Machine

/-- A tine arrival of one KIND released on a child port, as command `i` brings it. -/
def arrivalOf (i : Instr) (p : Nat) (kind : BitVec 4) (c : Cell) (act : State → State) (s : State) : Result :=
  performOn .fjz (portOk .fjz p)
    (receive i .fjz p [tArrival] c fun s => if cKind c = kind ∧ !isChildSide s .fjz p then act s else s) s

/-- A round buffer word of the context that the cell names, or its template entry, is uncorrectable (Table 7.5). -/
def roundBad (c : Cell) (e : Ecc) : Bool :=
  e.uncorrectable.contains (.round (fldN c.hdr 32 13)) || e.uncorrectable.contains (.template (fldN c.hdr 32 13))

/-- The backup's arrival waits for the primary's of the same context and round that is released on the same tick (R202). -/
def behindPrimary (p : Nat) (c : Cell) (s : State) : Bool :=
  match (cfTwins (s.fjz.ctx (fldN c.hdr 32 13)).config).find? fun t => decide (t.2 = p) with
  | some t => (s.pending ++ s.later).any fun i => match i with
    | .tineArrival q b _ => decide (q = t.1 ∧ fldN b.hdr 32 13 = fldN c.hdr 32 13 ∧ cRound b = cRound c)
    | _ => false
  | none => false

/-- TINE_ARRIVAL (R189, R202, R204). -/
def execTineArrival (p : Nat) (c : Cell) (ecc : Ecc) (s : State) : Result :=
  performOn .fjz (portOk .fjz p) (fun s =>
    if behindPrimary p c s then { s with later := s.later ++ [.tineArrival p c ecc] }
    else
      receive (.tineArrival p c ecc) .fjz p [tArrival] c (fun s =>
        if cKind c = kArrival ∧ !isChildSide s .fjz p then
          intoRound p c (fun slot i => storeArrival (fldN c.hdr 32 13) p slot i c (roundBad c ecc)) s
        else s) s) s

/-- TINE_ARRIVAL_FAILED (R191, R203). -/
def execTineArrivalFailed (p : Nat) (c : Cell) (s : State) : Result :=
  arrivalOf (.tineArrivalFailed p c) p kFailed c (intoRound p c fun slot i => storeFailed (fldN c.hdr 32 13) p slot i c) s

/-- TINE_RESYNC (R190, R207). -/
def execTineResync (p : Nat) (c : Cell) (s : State) : Result :=
  arrivalOf (.tineResync p c) p kResync c (intoRound p c fun _ i => storeResync (fldN c.hdr 32 13) i c) s

/-- TINE_ARRIVAL_MOVE (R205, R367). -/
def execTineArrivalMove (p : Nat) (c : Cell) (s : State) : Result := arrivalOf (.tineArrivalMove p c) p kMove c (takeMoveUp c) s

/-- TINE_TIMEOUT (R193): the deadline of an OPEN round has passed with a member slot empty. The round fails, and the record names the
occupant of its lowest empty slot. -/
def execTineTimeout (ctx : Nat) (next : Bool) (s : State) : Result :=
  performOn .fjz (decide (ctx < 8192)) (inTurn (.tineTimeout ctx next) fun s =>
    let k := s.fjz.ctx ctx
    let i := b2n next
    let r := k.round i
    match k.emptySlots i with
    | sl :: _ =>
      if r.state = .open ∧ r.deadline.toNat ≤ chipNs s then
        let die := occupant s sl
        let round := k.b + BitVec.ofNat 16 i
        timeoutNames ctx die
          (failCtx ctx i fcTimeout (die.setWidth 24) r.deadline (raiseCtx ctx 0x0702 die round fcTimeout s))
      else s
    | [] => s) s

/-- TINE_RESULT_FORWARD (R187, R191): a RESULT, FAILED result or MOVE from the parent. -/
def execTineResultForward (p : Nat) (c : Cell) (s : State) : Result :=
  performOn .fjz (portOk .fjz p)
    (receive (.tineResultForward p c) .fjz p [tResult] c fun s =>
      if s.fjz.tineParent ≠ some p then s
      else if cKind c = kResultMove then takeMoveDown c s
      else if cKind c = kResult ∨ cKind c = kFailed then forwardResult c s
      else s) s

end Sys2Proof.Machine
end

