-- ==== Sys2Proof/Machine/TineDie.lean ====
section
/-! DEFINITION. The commands of a die's participations (R182, R188, R192 to R196, R204 to R206). -/

namespace Sys2Proof.Machine

/-! ## Contributions -/

/-- A participation word that the take reads is uncorrectable: round a + 1 fails (Table 7.5). -/
def partUncorrectable (n : Nat) (s : State) : State :=
  match s.tsu.partCtx n with
  | some h =>
    failRound n fcUncorrectable (raisePart h n 0x0704 allOnes32 ((s.tsu.part n).a + 1) fcUncorrectable.toNat s)
  | none => s

/-- TINE_CONTRIBUTION (R182). -/
def execTineContribution (region part : Nat) (payload : BitVec 512) (ecc : Ecc) (s : State) : Result :=
  performOn .tsu (decide (region < 52 ∧ part < 1024)) (inTurn (.tineContribution region part payload ecc)
    (fromRegion region qTine (.tineContribution region part payload ecc) fun s =>
      let s := countCorrected ecc s
      if ecc.uncorrectable.contains (.part part) then partUncorrectable part s else contribute region part payload s)) s

/-! ## Results -/

def countResultDiscard (s : State) : State := onTsu (fun t => { t with resultDiscards := bump t.resultDiscards }) s
def countTagDiscard (s : State) : State := onTsu (fun t => { t with tagDiscards := bump t.tagDiscards }) s

/-- A result cell released on a port of the die: delivered to its participation, or discarded (R192). A failed one halts the herd
where a gate waits for it (R135). -/
def takeResult (p : Nat) (kind : BitVec 4) (c : Cell) (s : State) : State :=
  let n := c.addr.toNat
  if cKind c ≠ kind then s
  else if !resultFits s.tsu p n c then countResultDiscard s
  else
    match s.tsu.partCtx n with
    | some h =>
      let s := deliverResult h n (cellDelivery c) s
      if kind = kFailed ∧ (s.tsu.herd h).state = .running then haltAtFailedGate h s else s
    | none => s

/-- TINE_RESULT (R192). -/
def execTineResult (p : Nat) (c : Cell) (s : State) : Result :=
  performOn .tsu (portOk .tsu p) (receive (.tineResult p c) .tsu p [tResult] c (takeResult p kResult c)) s

/-- TINE_RESULT_FAILED (R192, R135). -/
def execTineResultFailed (p : Nat) (c : Cell) (s : State) : Result :=
  performOn .tsu (portOk .tsu p) (receive (.tineResultFailed p c) .tsu p [tResult] c (takeResult p kFailed c)) s

/-- The die takes a MOVE that arrives on the herd's active tine plane (R206, R367). -/
def takeMove (p : Nat) (c : Cell) (s : State) : State :=
  if cKind c ≠ kResultMove then s
  else
    match s.tsu.ctxOf (cHerd c) with
    | none => countResultDiscard s
    | some h =>
      if (s.tsu.tinePlane h).any (fun pl => decide (planePort pl = p)) ∧ s.tsu.tc.planeConfig = 0 then moveHerd h (rTarget c) s
      else countTagDiscard s

/-- TINE_RESULT_MOVE. -/
def execTineResultMove (p : Nat) (c : Cell) (s : State) : Result :=
  performOn .tsu (portOk .tsu p) (receive (.tineResultMove p c) .tsu p [tResult] c (takeMove p c)) s

/-! ## Twins (R188, R204) -/

/-- The loser marks its unsent arrival for a round as sent. -/
def markAbandoned (n : Nat) (round : U16) (s : State) : State :=
  let p := s.tsu.part n
  if roundReached p.a round ∨ p.sentAhead.contains round then s
  else
    completeRounds 3 n (onPart n (fun p =>
      let p := { p with sentAhead := p.sentAhead ++ [round] }
      passSentAhead p.sentAhead.length p) s)

/-- A TINE_ABANDON for a participation. -/
def takeAbandon (p : Nat) (c : Cell) (s : State) : State :=
  let n := c.addr.toNat
  let x := s.tsu.part n
  match s.tsu.partCtx n with
  | none => countTagDiscard s
  | some h =>
    if (s.tsu.herd h).herdId.setWidth 24 ≠ cHerd c ∨ planePort x.plane ≠ p ∨ cRun c ≠ x.run ∨ cGen c ≠ x.gen then countTagDiscard s
    else
      let s := markAbandoned n (cRound c) s
      if ptAbandon x.entry = 0xFFFF then s
      else signalEvent h (ptAbandon x.entry) (BitVec.ofNat 32 (0x02000000 + n)) s

/-- TINE_ABANDON. -/
def execTineAbandon (p : Nat) (c : Cell) (s : State) : Result :=
  performOn .tsu (portOk .tsu p) (receive (.tineAbandon p c) .tsu p [tAbandon] c (takeAbandon p c)) s

/-! ## Waiting gates (R194, R195) -/

/-- The participation and round that gate k of a descriptor waits for, if it is a TINE or START gate. -/
def awaited (x : Herd) (d : Desc) (k : Nat) : Option (Nat × U16) :=
  let g := dGate d k
  match gKind g with
  | 1 => some (gObj g, BitVec.ofNat 16 (gValue g x.iter.toNat))
  | 6 => if x.started then none else some (x.startTine, x.seqLast.setWidth 16)
  | _ => none

/-- A gate k that waits at a descriptor that the run is sure to reach: the participation and round, and the hall time on which it
began to wait. -/
def waitingGate (t : Tsu) (x : Herd) (k : Nat) (ok : Nat × U16 → HT → Bool) : Option (Nat × U16) :=
  x.ahead.findSome? fun a =>
    match a.since, awaited x (t.desc a.step) k with
    | some f, some w =>
      if a.path.isEmpty && !bitOf a.held k && decide (tineGate (t.part w.1) w.2 = .waits) && ok w f then some w else none
    | _, _ => none

/-- A wait has lasted a number of ns. -/
def waited (t : Tsu) (since : HT) (ns : Nat) : Bool := decide (since.toNat + ns * 65536 ≤ t.now.toNat)

/-- The tick on which a wait reaches a number of ns (R195). -/
def waitedNow (t : Tsu) (since : HT) (ns : Nat) : Bool :=
  waited t since ns && decide ((htAt t.tc (t.tc.frc.toNat - 1)).toNat < since.toNat + ns * 65536)

/-- Lowest region that keeps round a + 1 from being sent. -/
def lateRegion (t : Tsu) (x : Herd) (n : Nat) : Nat :=
  let p := t.part n
  let rs := regionsOf (ptContrib p.entry)
  match rs.find? fun r => decide (p.cur.contrib.get none r = none) with
  | some r => r
  | none =>
    (rs.find? fun r =>
      match p.cur.contrib.get none r with
      | some c => !stepComplete x c
      | none => true).getD (rs.headD 0)

/-- Every round from a + 1 up to V fails as NOT_SENT, in round order. -/
def failUpTo (h n : Nat) (v : U16) : Nat → State → State
  | 0, s => s
  | fuel + 1, s =>
    let p := s.tsu.part n
    if roundReached p.a v then s
    else
      let s := raisePart h n 0x0703 (BitVec.ofNat 32 (lateRegion s.tsu (s.tsu.herd h) n)) (p.a + 1) fcNotSent.toNat s
      failUpTo h n v fuel (failRound n fcNotSent (countLate s))

/-- TINE_NOT_SENT (R194). -/
def execTineNotSent (h gate : Nat) (s : State) : Result :=
  performOn .tsu (decide (h < 64 ∧ gate < 4)) (inTurn (.tineNotSent h gate) fun s =>
    let t := s.tsu
    let x := t.herd h
    match waitingGate t x gate fun w f =>
        let p := t.part w.1
        !ptStart p.entry && !roundReached p.a w.2 && !p.sentAhead.contains w.2 && waited t f (ptTimeout p.entry) with
    | some w => if x.state = .running ∧ !t.replayStrict then failUpTo h w.1 w.2 (w.2 - (t.part w.1).a).toNat s else s
    | none => s) s

/-- Round V is delivered locally as failed, and every round before it that was not delivered (R195). -/
def deliverIsolated (h n : Nat) (v : U16) (s : State) : State :=
  let s := onPart n (fun p =>
    if p.failed then p else { p with failed := true, failRound := p.d + 1, failCause := fcIsolated }) s
  let s := deliverResult h n
    { failed := true, round := v, members := 0, grant := true, echoed := false, cause := fcIsolated,
      origin := s.tsu.agent.deviceId, payload := 0 } s
  if (s.tsu.herd h).state = .running then haltAtFailedGate h s else s

/-- ISOLATED (R195). -/
def execIsolated (h gate : Nat) (s : State) : Result :=
  performOn .tsu (decide (h < 64 ∧ gate < 4)) (inTurn (.isolated h gate) fun s =>
    let t := s.tsu
    let x := t.herd h
    if x.state ≠ .running ∨ t.replayStrict ∨ !(upPorts s).isEmpty then s
    else
      match waitingGate t x gate fun w f => waitedNow t f (partTimeout x (t.part w.1) + 30000) with
      | some w => deliverIsolated h w.1 w.2 s
      | none => s) s

end Sys2Proof.Machine
end

