-- ==== Sys2Proof/Machine/Dispatch.lean ====
section
/-! DEFINITION. The dispatch of a command to its meaning, one arm for each constructor. -/

namespace Sys2Proof.Machine

def exec (i : Instr) (s : State) : Host.Outcome State Fault Refusal :=
  match i with
  | .powerGood => Sys2Proof.Machine.execPowerGood s
  | .powerOnReset => Sys2Proof.Machine.execPowerOnReset s
  | .warmReset secure byRuavo => Sys2Proof.Machine.execWarmReset secure byRuavo s
  | .initDone skewPs => Sys2Proof.Machine.execInitDone skewPs s
  | .postDone failed waiter durationUs => Sys2Proof.Machine.execPostDone failed waiter durationUs s
  | .bistStart q v bankBytes => Sys2Proof.Machine.execBistStart q v bankBytes s
  | .bistBlockDone testOk restoreOk waiter us => Sys2Proof.Machine.execBistBlockDone testOk restoreOk waiter us s
  | .intStatus v sameTick enable => Sys2Proof.Machine.execIntStatus v sameTick enable s
  | .lcProvision d q confirm => Sys2Proof.Machine.execLcProvision d q confirm s
  | .lcDeploy d q confirm => Sys2Proof.Machine.execLcDeploy d q confirm s
  | .lcReturn d q confirm => Sys2Proof.Machine.execLcReturn d q confirm s
  | .lcFuseProgrammed d => Sys2Proof.Machine.execLcFuseProgrammed d s
  | .secKey d q key => Sys2Proof.Machine.execSecKey d q key s
  | .fjzResetRelease => Sys2Proof.Machine.execFjzResetRelease s
  | .fjzSelftestDone failed waiter durationUs mgmtOk => Sys2Proof.Machine.execFjzSelftestDone failed waiter durationUs mgmtOk s
  | .firmwareLoaded version => Sys2Proof.Machine.execFirmwareLoaded version s
  | .role q v => Sys2Proof.Machine.execRole q v s
  | .mappingUpdateTick => Sys2Proof.Machine.execMappingUpdateTick s
  | .holdoverRelock phaseErrPs => Sys2Proof.Machine.execHoldoverRelock phaseErrPs s
  | .offset q v => Sys2Proof.Machine.execOffset q v s
  | .rate q v => Sys2Proof.Machine.execRate q v s
  | .phaseStepPs q v => Sys2Proof.Machine.execPhaseStepPs q v s
  | .latchNow q v => Sys2Proof.Machine.execLatchNow q v s
  | .tsuPps => Sys2Proof.Machine.execTsuPps s
  | .tempSample mk uF => Sys2Proof.Machine.execTempSample mk uF s
  | .holdModelValid => Sys2Proof.Machine.execHoldModelValid s
  | .lockSlow => Sys2Proof.Machine.execLockSlow s
  | .snapshotPeriodic rccs => Sys2Proof.Machine.execSnapshotPeriodic rccs s
  | .snapshotReq q region v rcc => Sys2Proof.Machine.execSnapshotReq q region v rcc s
  | .stretchReport region => Sys2Proof.Machine.execStretchReport region s
  | .nominalPeriodChange region fs rcc => Sys2Proof.Machine.execNominalPeriodChange region fs rcc s
  | .marginReading region reading => Sys2Proof.Machine.execMarginReading region reading s
  | .queueStall region queue => Sys2Proof.Machine.execQueueStall region queue s
  | .marginBias q v => Sys2Proof.Machine.execMarginBias q v s
  | .counterClear q v => Sys2Proof.Machine.execCounterClear q v s
  | .portEnable d p q => Sys2Proof.Machine.execPortEnable d p q s
  | .portDisable d p q => Sys2Proof.Machine.execPortDisable d p q s
  | .trainComplete d p loopback partner => Sys2Proof.Machine.execTrainComplete d p loopback partner s
  | .trainFail d p => Sys2Proof.Machine.execTrainFail d p s
  | .downHoldExpiry d p => Sys2Proof.Machine.execDownHoldExpiry d p s
  | .codewordLock d p cws => Sys2Proof.Machine.execCodewordLock d p cws s
  | .codewordLockLost d run => Sys2Proof.Machine.execCodewordLockLost d run s
  | .remoteFault d p => Sys2Proof.Machine.execRemoteFault d p s
  | .hello d p c => Sys2Proof.Machine.execHello d p c s
  | .helloSend d p => Sys2Proof.Machine.execHelloSend d p s
  | .codewordUncorrectable d p before => Sys2Proof.Machine.execCodewordUncorrectable d p before s
  | .retryReq d p c => Sys2Proof.Machine.execRetryReq d p c s
  | .retryReqRepeat d p cw => Sys2Proof.Machine.execRetryReqRepeat d p cw s
  | .retryExhausted d p cw => Sys2Proof.Machine.execRetryExhausted d p cw s
  | .replayBufferExpiry d p cls lseq => Sys2Proof.Machine.execReplayBufferExpiry d p cls lseq s
  | .timeDownSend d p => Sys2Proof.Machine.execTimeDownSend d p s
  | .timeDown d p c t2 => Sys2Proof.Machine.execTimeDown d p c t2 s
  | .timeUpSend d p t3 => Sys2Proof.Machine.execTimeUpSend d p t3 s
  | .timeUp d p c t4 probeCw => Sys2Proof.Machine.execTimeUp d p c t4 probeCw s
  | .timeReply d p c => Sys2Proof.Machine.execTimeReply d p c s
  | .latencyRemeasure d p txLat rxLat => Sys2Proof.Machine.execLatencyRemeasure d p txLat rxLat s
  | .latMarkerSend link sent => Sys2Proof.Machine.execLatMarkerSend link sent s
  | .latMarker link m arrival => Sys2Proof.Machine.execLatMarker link m arrival s
  | .latBaselineCapture q v => Sys2Proof.Machine.execLatBaselineCapture q v s
  | .latBaselineAuto ends => Sys2Proof.Machine.execLatBaselineAuto ends s
  | .txTimestamp link tsId stamp => Sys2Proof.Machine.execTxTimestamp link tsId stamp s
  | .txtsPop q => Sys2Proof.Machine.execTxtsPop q s
  | .txtsOverflowClear q v => Sys2Proof.Machine.execTxtsOverflowClear q v s
  | .refQualify meas => Sys2Proof.Machine.execRefQualify meas s
  | .switchWindowEnd deltaPs => Sys2Proof.Machine.execSwitchWindowEnd deltaPs s
  | .realign q v => Sys2Proof.Machine.execRealign q v s
  | .refType q cand v => Sys2Proof.Machine.execRefType q cand v s
  | .refPriority q cand v => Sys2Proof.Machine.execRefPriority q cand v s
  | .forceRef q v => Sys2Proof.Machine.execForceRef q v s
  | .freeServe q v => Sys2Proof.Machine.execFreeServe q v s
  | .holdWtrExpiry => Sys2Proof.Machine.execHoldWtrExpiry s
  | .holdUpdate tempMk => Sys2Proof.Machine.execHoldUpdate tempMk s
  | .ocxoTable q v => Sys2Proof.Machine.execOcxoTable q v s
  | .ocxoAgeingValid => Sys2Proof.Machine.execOcxoAgeingValid s
  | .ptpSync e m t2 => Sys2Proof.Machine.execPtpSync e m t2 s
  | .ptpFollowUp e m => Sys2Proof.Machine.execPtpFollowUp e m s
  | .ptpAnnounce e a => Sys2Proof.Machine.execPtpAnnounce e a s
  | .ptpDelayReqSend e t3 => Sys2Proof.Machine.execPtpDelayReqSend e t3 s
  | .ptpDelayResp e m => Sys2Proof.Machine.execPtpDelayResp e m s
  | .ptpAnnounceTimeout e => Sys2Proof.Machine.execPtpAnnounceTimeout e s
  | .refPpsEdge cand stamp => Sys2Proof.Machine.execRefPpsEdge cand stamp s
  | .todMessage cand m => Sys2Proof.Machine.execTodMessage cand m s
  | .refClockLoss cand => Sys2Proof.Machine.execRefClockLoss cand s
  | .esmc e ql => Sys2Proof.Machine.execEsmc e ql s
  | .esmcTimeout e => Sys2Proof.Machine.execEsmcTimeout e s
  | .refOutPps o => Sys2Proof.Machine.execRefOutPps o s
  | .bleatSend d p => Sys2Proof.Machine.execBleatSend d p s
  | .bleat d p c stamp => Sys2Proof.Machine.execBleat d p c stamp s
  | .bleatTimeout plane => Sys2Proof.Machine.execBleatTimeout plane s
  | .parentBleatTimeout cand => Sys2Proof.Machine.execParentBleatTimeout cand s
  | .planeWtrExpiry => Sys2Proof.Machine.execPlaneWtrExpiry s
  | .forcePlane q v => Sys2Proof.Machine.execForcePlane q v s
  | .planeDriftCheck => Sys2Proof.Machine.execPlaneDriftCheck s
  | .planeOffsetRelease q v => Sys2Proof.Machine.execPlaneOffsetRelease q v s
  | .planeConfig q v => Sys2Proof.Machine.execPlaneConfig q v s
  | .pronkRequestArm q v => Sys2Proof.Machine.execPronkRequestArm q v s
  | .pronkRequestStep q v => Sys2Proof.Machine.execPronkRequestStep q v s
  | .pronkCancel q v => Sys2Proof.Machine.execPronkCancel q v s
  | .pronkForward p c => Sys2Proof.Machine.execPronkForward p c s
  | .pronkArm p c => Sys2Proof.Machine.execPronkArm p c s
  | .pronkAck p c => Sys2Proof.Machine.execPronkAck p c s
  | .pronkCommitDeadline herd => Sys2Proof.Machine.execPronkCommitDeadline herd s
  | .pronkCommit p c => Sys2Proof.Machine.execPronkCommit p c s
  | .pronkAbort p c => Sys2Proof.Machine.execPronkAbort p c s
  | .pronkStep p c => Sys2Proof.Machine.execPronkStep p c s
  | .pronkDecision h => Sys2Proof.Machine.execPronkDecision h s
  | .pronkFire h => Sys2Proof.Machine.execPronkFire h s
  | .stepReleaseDeadline h => Sys2Proof.Machine.execStepReleaseDeadline h s
  | .stepLaunch h rccs ecc => Sys2Proof.Machine.execStepLaunch h rccs ecc s
  | .stepNop h ecc => Sys2Proof.Machine.execStepNop h ecc s
  | .stepLoop h ecc => Sys2Proof.Machine.execStepLoop h ecc s
  | .stepEnd h ecc => Sys2Proof.Machine.execStepEnd h ecc s
  | .descriptorPass h => Sys2Proof.Machine.execDescriptorPass h s
  | .regionDone region h abandoned rcc => Sys2Proof.Machine.execRegionDone region h abandoned rcc s
  | .stepOverrun h step => Sys2Proof.Machine.execStepOverrun h step s
  | .gateMissed h => Sys2Proof.Machine.execGateMissed h s
  | .gateTimeout h => Sys2Proof.Machine.execGateTimeout h s
  | .loadCommit q h v => Sys2Proof.Machine.execLoadCommit q h v s
  | .unload q h v => Sys2Proof.Machine.execUnload q h v s
  | .stepDesc q v => Sys2Proof.Machine.execStepDesc q v s
  | .ledgerEntry q v applyIter => Sys2Proof.Machine.execLedgerEntry q v applyIter s
  | .ledgerAdvPending region entry amount => Sys2Proof.Machine.execLedgerAdvPending region entry amount s
  | .ctrAdd tok ecc => Sys2Proof.Machine.execCtrAdd tok ecc s
  | .ctrSetbit tok ecc => Sys2Proof.Machine.execCtrSetbit tok ecc s
  | .eventSet tok ecc => Sys2Proof.Machine.execEventSet tok ecc s
  | .watchRegister region tok => Sys2Proof.Machine.execWatchRegister region tok s
  | .watchRegisterDeferred region => Sys2Proof.Machine.execWatchRegisterDeferred region s
  | .watchCancel region tag => Sys2Proof.Machine.execWatchCancel region tag s
  | .watchTimeout slot => Sys2Proof.Machine.execWatchTimeout slot s
  | .watchNotify => Sys2Proof.Machine.execWatchNotify s
  | .syncReset q h v => Sys2Proof.Machine.execSyncReset q h v s
  | .counterValue q v => Sys2Proof.Machine.execCounterValue q v s
  | .eventState q v => Sys2Proof.Machine.execEventState q v s
  | .eventOversignalClear q v => Sys2Proof.Machine.execEventOversignalClear q v s
  | .bankDrained region bank => Sys2Proof.Machine.execBankDrained region bank s
  | .bankDrainTimeout region bank channel => Sys2Proof.Machine.execBankDrainTimeout region bank channel s
  | .bankWakeDone region bank => Sys2Proof.Machine.execBankWakeDone region bank s
  | .bankUnavailable region bank h source => Sys2Proof.Machine.execBankUnavailable region bank h source s
  | .tineContribution region part payload ecc => Sys2Proof.Machine.execTineContribution region part payload ecc s
  | .tineArrival p c ecc => Sys2Proof.Machine.execTineArrival p c ecc s
  | .tineArrivalFailed p c => Sys2Proof.Machine.execTineArrivalFailed p c s
  | .tineResync p c => Sys2Proof.Machine.execTineResync p c s
  | .tineArrivalMove p c => Sys2Proof.Machine.execTineArrivalMove p c s
  | .tineTimeout ctx next => Sys2Proof.Machine.execTineTimeout ctx next s
  | .tineResultForward p c => Sys2Proof.Machine.execTineResultForward p c s
  | .tineResult p c => Sys2Proof.Machine.execTineResult p c s
  | .tineResultFailed p c => Sys2Proof.Machine.execTineResultFailed p c s
  | .tineResultMove p c => Sys2Proof.Machine.execTineResultMove p c s
  | .tineAbandon p c => Sys2Proof.Machine.execTineAbandon p c s
  | .tineNotSent h gate => Sys2Proof.Machine.execTineNotSent h gate s
  | .isolated h gate => Sys2Proof.Machine.execIsolated h gate s
  | .templateValidate d q => Sys2Proof.Machine.execTemplateValidate d q s
  | .templateErase d q => Sys2Proof.Machine.execTemplateErase d q s
  | .treeReserve q v => Sys2Proof.Machine.execTreeReserve q v s
  | .treeReserveHome q v => Sys2Proof.Machine.execTreeReserveHome q v s
  | .treeRelease q v => Sys2Proof.Machine.execTreeRelease q v s
  | .reserveRequest d p c => Sys2Proof.Machine.execReserveRequest d p c s
  | .reserveOutcome p c => Sys2Proof.Machine.execReserveOutcome p c s
  | .reserveCommit d p c => Sys2Proof.Machine.execReserveCommit d p c s
  | .reserveRelease d p c => Sys2Proof.Machine.execReserveRelease d p c s
  | .releaseQuery d p c => Sys2Proof.Machine.execReleaseQuery d p c s
  | .reserveTimeout => Sys2Proof.Machine.execReserveTimeout s
  | .fjouzWriteApply => Sys2Proof.Machine.execFjouzWriteApply s
  | .pauseRequest q v => Sys2Proof.Machine.execPauseRequest q v s
  | .reepochCommit q h v => Sys2Proof.Machine.execReepochCommit q h v s
  | .drainAdopt q h v => Sys2Proof.Machine.execDrainAdopt q h v s
  | .expel q h v => Sys2Proof.Machine.execExpel q h v s
  | .healthUpdate symA symB => Sys2Proof.Machine.execHealthUpdate symA symB s
  | .mismatchIn q v => Sys2Proof.Machine.execMismatchIn q v s
  | .healthSample => Sys2Proof.Machine.execHealthSample s
  | .suspectReport herd die health => Sys2Proof.Machine.execSuspectReport herd die health s
  | .clearReport herd die health => Sys2Proof.Machine.execClearReport herd die health s
  | .reportFailed q die => Sys2Proof.Machine.execReportFailed q die s
  | .failConfirmExpiry herd die => Sys2Proof.Machine.execFailConfirmExpiry herd die s
  | .quarantineConvert herd => Sys2Proof.Machine.execQuarantineConvert herd s
  | .stewardTakeover herd => Sys2Proof.Machine.execStewardTakeover herd s
  | .swapPlan q h v => Sys2Proof.Machine.execSwapPlan q h v s
  | .swapCancel q h v => Sys2Proof.Machine.execSwapCancel q h v s
  | .swapBroadcast q v => Sys2Proof.Machine.execSwapBroadcast q v s
  | .swapCtrlPlan d p c => Sys2Proof.Machine.execSwapCtrlPlan d p c s
  | .swapCtrlCancel d p c => Sys2Proof.Machine.execSwapCtrlCancel d p c s
  | .swapFetchLimit h => Sys2Proof.Machine.execSwapFetchLimit h s
  | .swapRefetchLaunch h rccs => Sys2Proof.Machine.execSwapRefetchLaunch h rccs s
  | .haltForward p c => Sys2Proof.Machine.execHaltForward p c s
  | .haltAt p c => Sys2Proof.Machine.execHaltAt p c s
  | .haltPause p c => Sys2Proof.Machine.execHaltPause p c s
  | .haltNow d q v => Sys2Proof.Machine.execHaltNow d q v s
  | .haltNowCell p c => Sys2Proof.Machine.execHaltNowCell p c s
  | .errPop d q => Sys2Proof.Machine.execErrPop d q s
  | .errOverflowClear d q v => Sys2Proof.Machine.execErrOverflowClear d q v s
  | .meterPartWalk => Sys2Proof.Machine.execMeterPartWalk s
  | .tenantInterval => Sys2Proof.Machine.execTenantInterval s
  | .tenantStatement q v => Sys2Proof.Machine.execTenantStatement q v s
  | .tenantClose q v => Sys2Proof.Machine.execTenantClose q v s
  | .recordSigned => Sys2Proof.Machine.execRecordSigned s
  | .recPop q => Sys2Proof.Machine.execRecPop q s
  | .finalRecordIssue => Sys2Proof.Machine.execFinalRecordIssue s
  | .meterSeal q v => Sys2Proof.Machine.execMeterSeal q v s
  | .meterUnseal q v => Sys2Proof.Machine.execMeterUnseal q v s
  | .meterClear q v => Sys2Proof.Machine.execMeterClear q v s
  | .tapStagingDrain => Sys2Proof.Machine.execTapStagingDrain s
  | .record p c => Sys2Proof.Machine.execRecord p c s
  | .recFreezeNow q v => Sys2Proof.Machine.execRecFreezeNow q v s
  | .recorderFrozen => Sys2Proof.Machine.execRecorderFrozen s
  | .recThaw q v => Sys2Proof.Machine.execRecThaw q v s
  | .recWindowData q => Sys2Proof.Machine.execRecWindowData q s
  | .replaySetup q v => Sys2Proof.Machine.execReplaySetup q v s
  | .replayRelease q v => Sys2Proof.Machine.execReplayRelease q v s
  | .replayFeed q v => Sys2Proof.Machine.execReplayFeed q v s
  | .replayEnd q v => Sys2Proof.Machine.execReplayEnd q v s
  | .replayApply => Sys2Proof.Machine.execReplayApply s
  | .replayTimedApply => Sys2Proof.Machine.execReplayTimedApply s
  | .replayStall => Sys2Proof.Machine.execReplayStall s
  | .forcedStretch q v => Sys2Proof.Machine.execForcedStretch q v s
  | .go busSecure msg => Sys2Proof.Machine.execGo busSecure msg s
  | .zdpRead d q index sub => Sys2Proof.Machine.execZdpRead d q index sub s
  | .registerWrite d q index sub v => Sys2Proof.Machine.execRegisterWrite d q index sub v s
  | .dictRsp p msg => Sys2Proof.Machine.execDictRsp p msg s
  | .tunnelTimeout p reqId => Sys2Proof.Machine.execTunnelTimeout p reqId s
  | .remoteFaultCleared d p => Sys2Proof.Machine.execRemoteFaultCleared d p s
  | .pronkCountSend herd => Sys2Proof.Machine.execPronkCountSend herd s
  | .regionTimeRead region => Sys2Proof.Machine.execRegionTimeRead region s
  | .fjzResetAssert => Sys2Proof.Machine.execFjzResetAssert s

end Sys2Proof.Machine
end

