-- ==== Sys2Proof/Machine/Tick.lean ====
section
/-! DEFINITION. One spine tick, which is what the block does when no command waits (log 1): the present tick's phases end, the
counters advance, slews move, and a port on whose cell boundary the new tick falls transmits a cell (R27, R39, R64, R101,
R102, R116, R128). -/

namespace Sys2Proof.Machine

/-! ## A cell boundary (R64 to R66) -/

/-- As slot 0 begins, a codeword begins: its header carries CW_NUM, and RF while the receiver holds no lock (R59, R60), and the
latencies take their next step (R80). -/
def beginCodeword (x : Port) : Port :=
  if x.slots % 10 = 0 then
    { stepLatencies x with cwHeader := pack 20 [(3, 1, b2n (!x.rxLock)), (8, 12, (cwOf x.slots).toNat)] }
  else x

/-- One cell boundary of a port (R20, R64). -/
def cellBoundary (d : Dev) (p : Nat) (s : State) : State :=
  let x := port s d p
  let limit := match d with | .tsu => s.tsu.p3Limit.toNat | .fjz => s.fjz.p3Limit.toNat
  if !x.transmits then s
  else
    let s := onPort d p beginCodeword s
    match x.continues with
    | some c =>
      onPort d p (fun x => { x with slots := x.slots + 1, p3Last := (x.p3Last.headD false :: x.p3Last).take 64,
                                    onLane := some (x.slots, c.second) }) s
    | none =>
      match pickTx (x.txq.filter fun e => decide (e.cell.cls ≠ 3) || !p3Held limit x) with
      | some e => onPort d p (fun x => refillP2 (putOnLane (cwStart s d x) e x)) s
      | none => onPort d p idleSlot s

/-- A cell boundary falls within the nanosecond that ends at this counter value: one every 10.24 ns. -/
def onBoundary (f : Nat) : Bool := decide (f * 100 % 1024 < 100)

/-- The ports of a part that hold state. -/
def portNumbers (s : State) (d : Dev) : List Nat := (ports s d).map (·.1)

/-! ## Slews -/

/-- Slews of a die while its loop steers (R39, R116). DESIGN CHOICE (log 62): what is left to slew when the die leaves LOCKED stays as
it is, and the slew goes on once the die is LOCKED again; R39 does not say. -/
def slewDie (t : Tsu) : Tsu :=
  let tc := t.tc
  let steers := decide (tc.state = .locked) || (decide (tc.state = .holdover) && tc.regained)
  let a := if steers then slewTick tc.slewRemaining.toInt tc.slewFrac tc.slewMaxPpb.toNat
           else (tc.slewRemaining.toInt, tc.slewFrac)
  let b := if tc.state = .locked ∧ (tc.released = true ∨ t.allFree = true) then
             slewTick tc.carried.toInt tc.carriedFrac tc.slewMaxPpb.toNat
           else (tc.carried.toInt, tc.carriedFrac)
  { t with tc := { tc with slewRemaining := i64 a.1, slewFrac := a.2, carried := i64 b.1, carriedFrac := b.2 } }

/-- The absorbed offset of the selected time candidate is slewed by REALIGN at a root, and by itself below (R101, R102). DESIGN CHOICE
(log 63): a REALIGN under way pauses while a switch runs and is dropped as the switch ends; R101 does not say. -/
def slewChip (x : Fjz) : Fjz :=
  match x.selTime with
  | none => x
  | some c =>
    let ppb := if x.role = 1 ∨ x.role = 2 then x.parentPpb.toNat else if x.realigning then x.realignPpb.toNat else 0
    if ppb = 0 ∨ x.switch ≠ none then x
    else
      let r := slewTick (x.cand c).absorbed.toInt x.realignFrac ppb
      { x with cands := x.cands.upd {} c (fun k => { k with absorbed := i64 r.1 }), realignFrac := r.2,
               realigning := x.realigning && decide (r.1 ≠ 0) }

/-! ## The tick -/

/-- A write of class D that waited for phase 8 of its tick takes effect (Table 12.7). -/
def applyDieWrite (w : PendingWrite) (s : State) : State :=
  appliedRsp .tsu w.req w.index.toNat w.sub.toNat stOk
    ((writeOf s .tsu w.req w.index.toNat w.sub.toNat w.value).apply s)

/-- The writes of class D, in acceptance order. -/
def diePhase8 (s : State) : State :=
  forAll (s.tsu.agent.pending.filter fun w => decide (w.ctx = 64)) applyDieWrite
    (onAgent .tsu (fun a => { a with pending := a.pending.filter fun w => decide (w.ctx ≠ 64) }) s)

/-- The present tick of a working TSU ends: gates and watches (phase 4), the events consumed on it (end of phase 6), and phases 7
and 8 (R128). -/
def endTick (s : State) : State :=
  if s.tsu.works then diePhase8 (lastPhases (clearClaimed (phase4 s))) else s

/-- The watch slots whose notifications were emitted on the tick that ends are free (R169). -/
def freeSlots (s : State) : State := onTsu (fun t => { t with watches := t.watches.filter fun e => !e.2.sent }) s

/-- The TSU's counter and what moves with it: hall time spent RUNNING (Table 10.10) and the slews. -/
def advanceDie (s : State) : State :=
  if s.tsu.phase = .reset ∨ s.tsu.phase = .faultHold then s
  else
    let before := nsOf s.tsu.now
    let s := serveQueues (onTc (fun tc => { tc with frc := tc.frc + 1 }) (freeSlots s))
    let running := (s.tsu.herds.filter fun e => decide (e.2.state = .running)).length
    let gone := (nsOf s.tsu.now - before) * running
    let s := if running = 0 ∨ s.tsu.tc.state = .replayPinned then s
      else onMeter (fun m => m.onDie fun d => { d with run := d.run + BitVec.ofNat 64 gone }) s
    let s := if s.tsu.works then onTsu slewDie s else s
    if onBoundary s.tsu.tc.frc.toNat then forAll (portNumbers s .tsu) (cellBoundary .tsu) s else s

/-- The Fjouz chip's counter, its slew and its ports. -/
def advanceChip (s : State) : State :=
  if !s.fjz.rstN then s
  else
    let s := onFjz (fun x => slewChip { x with frc := x.frc + 1 }) s
    let s := if s.fjz.selectNext then withAdoption (onFjz fun x => Fjz.select { x with selectNext := false }) s else s
    if onBoundary s.fjz.frc.toNat then forAll (portNumbers s .fjz) (cellBoundary .fjz) s else s

/-- One spine tick: what the block does on an empty queue. -/
def tick (s : State) : State := enterErrs (advanceChip (advanceDie (endTick s)))

end Sys2Proof.Machine
end

