-- ==== Sys2Proof/Machine/Later.lean ====
section
/-! DEFINITION. What still waits on a tick once the queue is empty: commands that came before one that goes ahead of them (R128), and
cells held behind a gap that has been filled (R68). -/

namespace Sys2Proof.Machine

/-- A command that waited for its turn acts. -/
def runLater (i : Instr) (s : State) : State :=
  if (placeOf i).isSome then
    match exec i s with
    | .next t => { t with out := s.out ++ t.out }
    | .fault _ => s
    | .refused _ => s
  else s

/-- The held command of a port whose cell is now next in its class. -/
def nextHeld (x : Port) : Option Instr :=
  x.heldRx.find? fun i => (cellOf i).any fun e => decide (lseqAhead x e.2.2 = 0)

/-- The held cells of a port that are next in their classes are delivered, one after another. -/
def releasePort (d : Dev) (p : Nat) : Nat → State → State
  | 0, s => s
  | n + 1, s =>
    match nextHeld (port s d p) with
    | some i => releasePort d p n (runLater i s)
    | none => s

/-- The same on every port of both parts. -/
def releaseHeld (s : State) : State :=
  forAll [Dev.tsu, Dev.fjz]
    (fun d s => forAll (portNumbers s d) (fun p s => releasePort d p (port s d p).heldRx.length s) s) s

/-- Everything that still waits on this tick acts, in its order. -/
def settle (s : State) : State :=
  let s := releaseHeld { s with out := [] }
  releaseHeld (forAll (sortBy actsBefore s.later) runLater { s with later := [] })

end Sys2Proof.Machine
end

