-- ==== Sys2Proof/Safety.lean ====
section
/-! DEFINITION. What the claims speak of: a request that its agent admits, what an accepted write leaves beside its own effect, and the
part of the state that only fuses hold. -/

namespace Sys2Proof

open Machine

/-- A command answers exactly this next state. -/
def Answers (c : Instr) (s t : State) : Prop := exec c s = .next t

/-- Nothing that waits on this tick goes ahead of a request of this path (R18), and one from the network reaches the chip on a port and
an Ethernet port where ZDP is heard (R307). -/
def heardNow (d : Dev) (q : Req) (s : State) : Bool :=
  !s.aheadOf (requestPlace d q) && (decide (q.src ≠ .net) || zdpHeard s.fjz q)

/-- The agent of part `d` takes a write of one object of access `access` with the value `v`, and every check of Table 12.5 passes that
does not ask for the object's own state or value (R308, R310, R312, R314, R318, R319, R343). `kind` and `elem` name the element that a
secure memory region may hold. -/
def admits (d : Dev) (q : Req) (index sub : Nat) (access : Access) (v : Bytes) (s : State) (kind elem : Nat := 0) : Bool :=
  heardNow d q s && agentUp s d && sourceOf d q.src && decide (route s d q = .here) && decide (findRsp (agent s d) (asTaken q) = none) &&
    decide (headStatus (agent s d) (asTaken q) 2 true
      (headerBits (asTaken q) index sub (asTaken q).typ.toNat (asTaken q).length.toNat 0 false) v = stOk) &&
    decide (access ≠ .ro) &&
    !worldRefused s d (asTaken q)
      { index := index, sub := sub, access := access, size := v.length, bytes := v, kind := kind, elem := elem, apply := id } &&
    !(decide (access = .sealed) && s.tsu.meter.isSealed) && decide (q.length.toNat = v.length) && decide (v.length ≠ 0) &&
    !underTest s d index

/-- The agent of part `d` takes a read of one object, and every check of Table 12.5 passes that does not ask for the object itself. -/
def admitsRead (d : Dev) (q : Req) (index sub : Nat) (pop : Bool) (s : State) (kind elem : Nat := 0) : Bool :=
  heardNow d q s && agentUp s d && sourceOf d q.src && decide (route s d q = .here) && decide (¬ pop ∨ findRsp (agent s d) (asTaken q) = none) &&
    decide (headStatus (agent s d) (asTaken q) 1 (decide (q.length = 0))
      (headerBits (asTaken q) index sub (asTaken q).typ.toNat (asTaken q).length.toNat 0 false) [] = stOk) &&
    (secureReq (asTaken q) || !(decide (d = .tsu) && elemSecure s.tsu kind elem)) && !underTest s d index

/-- A request has come: the outputs of the command before are gone, and the cells of a tunnelled one have come on their port (R68). -/
def heard (q : Req) (s : State) : State := tunnelCells q q.length.toNat s.fresh

/-- A request is taken: it has come, and the agent's counters of R318 and R324 have moved. -/
def taken (d : Dev) (q : Req) (s : State) : State := countTaken d (asTaken q) stOk (heard q s)

/-- The answer to a write: its response is kept among the last 64 (R314) and leaves by the path of the request. -/
def answered (d : Dev) (q : Req) (index sub status : Nat) (s : State) : State :=
  let r := mkRsp (agent s d) (asTaken q) index sub status false []
  deliverRsp d r (onAgent d (keepRsp r) s)

/-- The answer to a read of value `v`; a pop read's is kept (R314). -/
def answeredRead (d : Dev) (q : Req) (index sub : Nat) (pop : Bool) (v : Bytes) (s : State) : State :=
  let r := mkRsp (agent s d) (asTaken q) index sub stOk false v
  deliverRsp d r (if pop then onAgent d (keepRsp r) s else s)

/-- Where the command of a cell stands in its tick: a TINE_RESULT of a die in phase 2, every other cell with its port's (R128). -/
def cellTurn (d : Dev) (p typ : Nat) : Option Place := if d = .tsu ∧ typ = tResult then inPhase 2 p else cellPlace d p

/-- A cell is released on a port of part `d` that is UP, nothing that waits on this tick goes ahead of it, and its type, class and
CONTINUATION are sound (Table 3.4, R63); a retried cell is the next of its class (R61, R68). -/
def arrives (d : Dev) (p : Nat) (typ : Nat) (c : Cell) (s : State) : Bool :=
  !s.aheadOf (cellTurn d p typ) && decide ((port s d p).state = .up ∧ c.typ = typ) && c.sound &&
    (!retried typ || decide (lseqAhead (port s d p) c = 0))

/-- The state in which a received cell acts: a retried cell has moved its class's sequence on (R68). -/
def received (d : Dev) (p : Nat) (c : Cell) (s : State) : State :=
  if retried c.typ then onPort d p (deliver c) s.fresh else s.fresh

/-- What only fuses, and the slots of the one-time memory beside them, hold on the block (R279, R344). -/
structure Fuses where
  lcTsu  : BitVec 3
  lcFjz  : BitVec 3
  seals  : Nat
  breaks : Nat
  deriving DecidableEq, Repr

def fusesOf (s : State) : Fuses :=
  ⟨s.tsu.agent.lcFuses, s.fjz.agent.lcFuses, s.tsu.meter.sealFuses, s.tsu.meter.breakFuses⟩

/-- The meter's fuses are in balance (R280, R282): a seal needs every earlier one broken, a break needs a seal, and 33 seal fuses stand
against 32 break fuses. -/
def fusesBalanced (m : Meter) : Bool :=
  decide (m.breakFuses ≤ m.sealFuses ∧ m.sealFuses ≤ m.breakFuses + 1 ∧ m.breakFuses ≤ 32)

/-- Every fuse that was blown is still blown. -/
def Fuses.within (a b : Fuses) : Prop :=
  a.lcTsu &&& b.lcTsu = a.lcTsu ∧ a.lcFjz &&& b.lcFjz = a.lcFjz ∧ a.seals ≤ b.seals ∧ a.breaks ≤ b.breaks

/-- What a command about one herd context of the die leaves alone: the Fjouz chip, the time core, the lateral links, and every other
context. -/
def sameBeyond (h : Nat) (s t : State) : Prop :=
  t.fjz = s.fjz ∧ t.tsu.tc = s.tsu.tc ∧ t.tsu.links = s.tsu.links ∧ ∀ g, g ≠ h → t.tsu.herd g = s.tsu.herd g

/-- R135: the die has detected a fault that halts the herd of a RUNNING context. The record is in the ring if it has room; H is the
earlier of a halt time held before and now plus HALT_LEAD_NS; and a HALT has been sent. -/
def haltsBy (h : Nat) (code : U16) (s t : State) : Prop :=
  t.fjz = s.fjz ∧ t.tsu.tc = s.tsu.tc ∧ (t.tsu.herd h).state = .running ∧ (t.tsu.herd h).selfFault = true ∧
    (t.tsu.herd h).halt = some (earlier (s.tsu.herd h).halt (ceilNs s.tsu.now + htOfNs (leadNs s (s.tsu.herd h)))) ∧
    t.tsu.haltSeq = s.tsu.haltSeq + 1 ∧ t.tsu.errs.total = bump s.tsu.errs.total ∧
    (s.tsu.errs.ring.length < 256 → ∃ r, t.tsu.errs.ring = s.tsu.errs.ring ++ [r] ∧ r.code = code ∧ r.halts = true ∧
      r.herd = (s.tsu.herd h).herdId.setWidth 24 ∧ r.ht = s.tsu.now) ∧
    ∀ g, g ≠ h → t.tsu.herd g = s.tsu.herd g

/-- The state in which a command of the sequencer acts: phase 4 of the tick has been made (R128). -/
def atPhase4 (s : State) : State := phase4 s.fresh

/-- The state in which a descriptor is judged: words corrected are counted, uncorrectable words have had their consequence (R154, R177,
R271), and phase 4 of the tick has been made. -/
def atBoundary (ecc : Ecc) (s : State) : State :=
  phase4 (ledgerBad ecc (meterFaults ecc (syncFaults ecc (countCorrected ecc s.fresh))))

/-- A token of a region is taken as it comes: nothing that waits on this tick goes ahead of it, its queue is empty and has given no entry
on this tick, and the block that takes it is not under test (R329, R342). -/
def tokenNext (place : Option Place) (n q : Nat) (s : State) : Bool :=
  !s.aheadOf place && decide ((s.tsu.region n).waiting q = []) && !(s.tsu.region n).took q && !queuesHeld s.tsu q

/-- The state in which a token taken from a queue acts: the queue has given its entry of this tick (R329). -/
def tookToken (n q : Nat) (s : State) : State := onRegion n (Region.take q []) s.fresh

/-- A registration of a watch is taken as it comes: as `tokenNext`, with the queue that the region's registrations wait in empty. -/
def watchNext (n : Nat) (s : State) : Bool := tokenNext (inPhase 3 0) n qWatch s && (s.tsu.region n).watchQueue.isEmpty

/-- The state in which a registration acts. -/
def tookWatch (n : Nat) (s : State) : State := onRegion n (Region.took1 qWatch) s.fresh

/-- A signal token is taken as it comes: one of a region by `tokenNext`, one that names no region in its turn. -/
def signalNext (tok : U64) (s : State) : Bool :=
  if sgRegion tok < 52 then tokenNext (inPhase 2 (2 + tokSource tok)) (sgRegion tok) qSignal s
  else !s.aheadOf (inPhase 2 (2 + tokSource tok))

/-- A region holds a credit for an outbound queue and nothing waits before it (R47). -/
def outFree (n q : Nat) (s : State) : Bool := (s.tsu.region n).credit q && ((s.tsu.region n).heldBack q).isEmpty

/-- A command that meets no fault of an SRAM word. -/
def noEcc : Ecc := ⟨0, [], [], [], []⟩

/-- A cell of class P2 finds room in the buffer of a port that is UP (R66). -/
def hasRoom (s : State) (d : Dev) (p : Nat) : Prop := (port s d p).state = .up ∧ classWaiting 2 (port s d p) < bufferCap

/-- One cell more is queued on a port of part `d`, if that port is UP; nothing else of its queue moves. -/
def queued (d : Dev) (p : Nat) (c : Cell) (bypass : Bool) (s t : State) : Prop :=
  (port s d p).state = .up →
    (port t d p).txq = (port s d p).txq ++ [{ cell := c, bypass := bypass, ready := counterOf s d }]

end Sys2Proof
end

