-- ==== Sys2Proof/WellFormed.lean ====
section
/-! DEFINITION. Well-formed commands: every operand names a part, a port or an element that the manual gives the block
(R8, R118, R138, R156, R165, R181, R185, Tables 1.1 and 12.9). Nothing else is asked of a command: a value that an object
refuses is refused by the agent, with its status. -/

namespace Sys2Proof

/-- A port of a part: 0 and 1 on a TSU, 0 to 71 on a Fjouz chip (R8). -/
def Instr.portOk (d : Dev) (p : Nat) : Bool :=
  match d with
  | .tsu => decide (p < 2)
  | .fjz => decide (p < 72)

/-- A region of the die (Table 1.1). -/
def Instr.regionOk (n : Nat) : Bool := decide (n < 52)
/-- A lateral link (Table 12.9). -/
def Instr.linkOk (n : Nat) : Bool := decide (n < 96)
/-- A herd context (R118). -/
def Instr.herdOk (n : Nat) : Bool := decide (n < 64)
/-- A scratchpad bank of a region (R175). -/
def Instr.bankOk (n : Nat) : Bool := decide (n < 16)
/-- A gate of a descriptor (Table 5.1). -/
def Instr.gateOk (n : Nat) : Bool := decide (n < 4)
/-- A candidate reference (Table 4.1). -/
def Instr.candOk (n : Nat) : Bool := decide (n < 10)
/-- A PTP port of a root (R89). -/
def Instr.ethOk (n : Nat) : Bool := decide (n < 2)
/-- A reference output of a root (R91). -/
def Instr.outputOk (n : Nat) : Bool := decide (n < 4)
/-- A tine context of a Fjouz chip (R181). -/
def Instr.tineCtxOk (n : Nat) : Bool := decide (n < 8192)
/-- A participation of a die (R181). -/
def Instr.partOk (n : Nat) : Bool := decide (n < 1024)
/-- A watch slot (R165). -/
def Instr.slotOk (n : Nat) : Bool := decide (n < 4096)

/-- A block of a self-test with that many, or 0 for a pass (R338, R348). -/
def Instr.testOk (blocks : Nat) (n : U8) : Bool := decide (n.toNat ≤ blocks)

/-- A command whose operands all name something the block has. -/
def Instr.wf (i : Instr) : Bool :=
  match i with
  | .powerGood => true
  | .powerOnReset => true
  | .warmReset _ _ => true
  | .initDone _ => true
  | .postDone failed _ _ => Instr.testOk 20 failed
  | .bistStart _ _ _ => true
  | .bistBlockDone _ _ _ _ => true
  | .intStatus _ _ _ => true
  | .lcProvision _ _ _ => true
  | .lcDeploy _ _ _ => true
  | .lcReturn _ _ _ => true
  | .lcFuseProgrammed _ => true
  | .secKey _ _ _ => true
  | .fjzResetRelease => true
  | .fjzSelftestDone failed _ _ _ => Instr.testOk 7 failed
  | .firmwareLoaded _ => true
  | .role _ _ => true
  | .mappingUpdateTick => true
  | .holdoverRelock _ => true
  | .offset _ _ => true
  | .rate _ _ => true
  | .phaseStepPs _ _ => true
  | .latchNow _ _ => true
  | .tsuPps => true
  | .tempSample _ _ => true
  | .holdModelValid => true
  | .lockSlow => true
  | .snapshotPeriodic _ => true
  | .snapshotReq _ region _ _ => Instr.regionOk region
  | .stretchReport region => Instr.regionOk region
  | .nominalPeriodChange region _ _ => Instr.regionOk region
  | .marginReading region _ => Instr.regionOk region
  | .queueStall region _ => Instr.regionOk region
  | .marginBias _ _ => true
  | .counterClear _ _ => true
  | .portEnable d p _ => Instr.portOk d p
  | .portDisable d p _ => Instr.portOk d p
  | .trainComplete d p _ _ => Instr.portOk d p
  | .trainFail d p => Instr.portOk d p
  | .downHoldExpiry d p => Instr.portOk d p
  | .codewordLock d p _ => Instr.portOk d p
  | .codewordLockLost d run => Instr.portOk d run.port
  | .remoteFault d p => Instr.portOk d p
  | .hello d p _ => Instr.portOk d p
  | .helloSend d p => Instr.portOk d p
  | .codewordUncorrectable d p _ => Instr.portOk d p
  | .retryReq d p _ => Instr.portOk d p
  | .retryReqRepeat d p _ => Instr.portOk d p
  | .retryExhausted d p _ => Instr.portOk d p
  | .replayBufferExpiry d p _ _ => Instr.portOk d p
  | .timeDownSend d p => Instr.portOk d p
  | .timeDown d p _ _ => Instr.portOk d p
  | .timeUpSend d p _ => Instr.portOk d p
  | .timeUp d p _ _ _ => Instr.portOk d p
  | .timeReply d p _ => Instr.portOk d p
  | .latencyRemeasure d p _ _ => Instr.portOk d p
  | .latMarkerSend link _ => Instr.linkOk link
  | .latMarker link _ _ => Instr.linkOk link
  | .latBaselineCapture _ _ => true
  | .latBaselineAuto ends => Instr.linkOk ends.link
  | .txTimestamp link _ _ => Instr.linkOk link
  | .txtsPop _ => true
  | .txtsOverflowClear _ _ => true
  | .refQualify _ => true
  | .switchWindowEnd _ => true
  | .realign _ _ => true
  | .refType _ cand _ => Instr.candOk cand
  | .refPriority _ cand _ => Instr.candOk cand
  | .forceRef _ _ => true
  | .freeServe _ _ => true
  | .holdWtrExpiry => true
  | .holdUpdate _ => true
  | .ocxoTable _ _ => true
  | .ocxoAgeingValid => true
  | .ptpSync e _ _ => Instr.ethOk e
  | .ptpFollowUp e _ => Instr.ethOk e
  | .ptpAnnounce e _ => Instr.ethOk e
  | .ptpDelayReqSend e _ => Instr.ethOk e
  | .ptpDelayResp e _ => Instr.ethOk e
  | .ptpAnnounceTimeout e => Instr.ethOk e
  | .refPpsEdge cand _ => Instr.candOk cand
  | .todMessage cand _ => Instr.candOk cand
  | .refClockLoss cand => Instr.candOk cand
  | .esmc e _ => Instr.ethOk e
  | .esmcTimeout e => Instr.ethOk e
  | .refOutPps o => Instr.outputOk o
  | .bleatSend d p => Instr.portOk d p
  | .bleat d p _ _ => Instr.portOk d p
  | .bleatTimeout _ => true
  | .parentBleatTimeout cand => Instr.candOk cand
  | .planeWtrExpiry => true
  | .forcePlane _ _ => true
  | .planeDriftCheck => true
  | .planeOffsetRelease _ _ => true
  | .planeConfig _ _ => true
  | .pronkRequestArm _ _ => true
  | .pronkRequestStep _ _ => true
  | .pronkCancel _ _ => true
  | .pronkForward p _ => Instr.portOk .fjz p
  | .pronkArm p _ => Instr.portOk .tsu p
  | .pronkAck p _ => Instr.portOk .fjz p
  | .pronkCommitDeadline _ => true
  | .pronkCommit p _ => Instr.portOk .tsu p
  | .pronkAbort p _ => Instr.portOk .tsu p
  | .pronkStep p _ => Instr.portOk .tsu p
  | .pronkDecision h => Instr.herdOk h
  | .pronkFire h => Instr.herdOk h
  | .stepReleaseDeadline h => Instr.herdOk h
  | .stepLaunch h _ _ => Instr.herdOk h
  | .stepNop h _ => Instr.herdOk h
  | .stepLoop h _ => Instr.herdOk h
  | .stepEnd h _ => Instr.herdOk h
  | .descriptorPass h => Instr.herdOk h
  | .regionDone region h _ _ => Instr.regionOk region && Instr.herdOk h
  | .stepOverrun h _ => Instr.herdOk h
  | .gateMissed h => Instr.herdOk h
  | .gateTimeout h => Instr.herdOk h
  | .loadCommit _ h _ => Instr.herdOk h
  | .unload _ h _ => Instr.herdOk h
  | .stepDesc _ _ => true
  | .ledgerEntry _ _ _ => true
  | .ledgerAdvPending region _ _ => Instr.regionOk region
  | .ctrAdd _ _ => true
  | .ctrSetbit _ _ => true
  | .eventSet _ _ => true
  | .watchRegister region _ => Instr.regionOk region
  | .watchRegisterDeferred region => Instr.regionOk region
  | .watchCancel region _ => Instr.regionOk region
  | .watchTimeout slot => Instr.slotOk slot
  | .watchNotify => true
  | .syncReset _ h _ => Instr.herdOk h
  | .counterValue _ _ => true
  | .eventState _ _ => true
  | .eventOversignalClear _ _ => true
  | .bankDrained region bank => Instr.regionOk region && Instr.bankOk bank
  | .bankDrainTimeout region bank _ => Instr.regionOk region && Instr.bankOk bank
  | .bankWakeDone region bank => Instr.regionOk region && Instr.bankOk bank
  | .bankUnavailable region bank h _ => Instr.regionOk region && Instr.bankOk bank && Instr.herdOk h
  | .tineContribution region part _ _ => Instr.regionOk region && Instr.partOk part
  | .tineArrival p _ _ => Instr.portOk .fjz p
  | .tineArrivalFailed p _ => Instr.portOk .fjz p
  | .tineResync p _ => Instr.portOk .fjz p
  | .tineArrivalMove p _ => Instr.portOk .fjz p
  | .tineTimeout ctx _ => Instr.tineCtxOk ctx
  | .tineResultForward p _ => Instr.portOk .fjz p
  | .tineResult p _ => Instr.portOk .tsu p
  | .tineResultFailed p _ => Instr.portOk .tsu p
  | .tineResultMove p _ => Instr.portOk .tsu p
  | .tineAbandon p _ => Instr.portOk .tsu p
  | .tineNotSent h gate => Instr.herdOk h && Instr.gateOk gate
  | .isolated h gate => Instr.herdOk h && Instr.gateOk gate
  | .templateValidate _ _ => true
  | .templateErase _ _ => true
  | .treeReserve _ _ => true
  | .treeReserveHome _ _ => true
  | .treeRelease _ _ => true
  | .reserveRequest d p _ => Instr.portOk d p
  | .reserveOutcome p _ => Instr.portOk .fjz p
  | .reserveCommit d p _ => Instr.portOk d p
  | .reserveRelease d p _ => Instr.portOk d p
  | .releaseQuery d p _ => Instr.portOk d p
  | .reserveTimeout => true
  | .fjouzWriteApply => true
  | .pauseRequest _ _ => true
  | .reepochCommit _ h _ => Instr.herdOk h
  | .drainAdopt _ h _ => Instr.herdOk h
  | .expel _ h _ => Instr.herdOk h
  | .healthUpdate _ _ => true
  | .mismatchIn _ _ => true
  | .healthSample => true
  | .suspectReport _ _ _ => true
  | .clearReport _ _ _ => true
  | .reportFailed _ _ => true
  | .failConfirmExpiry _ _ => true
  | .quarantineConvert _ => true
  | .stewardTakeover _ => true
  | .swapPlan _ h _ => Instr.herdOk h
  | .swapCancel _ h _ => Instr.herdOk h
  | .swapBroadcast _ _ => true
  | .swapCtrlPlan d p _ => Instr.portOk d p
  | .swapCtrlCancel d p _ => Instr.portOk d p
  | .swapFetchLimit h => Instr.herdOk h
  | .swapRefetchLaunch h _ => Instr.herdOk h
  | .haltForward p _ => Instr.portOk .fjz p
  | .haltAt p _ => Instr.portOk .tsu p
  | .haltPause p _ => Instr.portOk .tsu p
  | .haltNow _ _ _ => true
  | .haltNowCell p _ => Instr.portOk .tsu p
  | .errPop _ _ => true
  | .errOverflowClear _ _ _ => true
  | .meterPartWalk => true
  | .tenantInterval => true
  | .tenantStatement _ _ => true
  | .tenantClose _ _ => true
  | .recordSigned => true
  | .recPop _ => true
  | .finalRecordIssue => true
  | .meterSeal _ _ => true
  | .meterUnseal _ _ => true
  | .meterClear _ _ => true
  | .tapStagingDrain => true
  | .record p _ => Instr.portOk .fjz p
  | .recFreezeNow _ _ => true
  | .recorderFrozen => true
  | .recThaw _ _ => true
  | .recWindowData _ => true
  | .replaySetup _ _ => true
  | .replayRelease _ _ => true
  | .replayFeed _ _ => true
  | .replayEnd _ _ => true
  | .replayApply => true
  | .replayTimedApply => true
  | .replayStall => true
  | .forcedStretch _ _ => true
  | .go _ _ => true
  | .zdpRead _ _ _ _ => true
  | .registerWrite _ _ _ _ _ => true
  | .dictRsp p _ => Instr.portOk .fjz p
  | .tunnelTimeout p _ => Instr.portOk .fjz p
  | .remoteFaultCleared d p => Instr.portOk d p
  | .pronkCountSend _ => true
  | .regionTimeRead region => Instr.regionOk region
  | .fjzResetAssert => true

end Sys2Proof
end

