-- ==== Sys2Proof/Certificates/Slice0/Obligations.lean ====
section
/-! DEFINITION. The statements about the block. A docstring names the rules (R<n>) that a statement rests on; of
each it says what its Lean says. `admits`, `taken`, `answered`, `arrives`, `received` and `tokenNext` are those of Safety.lean. An equation
with a whole next state is also its frame: what it does not name is unchanged. A premise `s.aheadOf (placeOf c) = false` says that nothing
that waits on this tick goes ahead of the command (R128), and `enterErrs` that the error records of the command enter the ring as it ends
(R248). -/

open Sys2Proof Sys2Proof.Machine

/-! ## The block as a machine -/

/-- The command at the front of the queue runs on the block with the rest of the queue. -/
def Obligations.StepRunsTheFrontCommand : Prop :=
  ∀ (c : Instr) (rest : List Instr) (s : State), step { s with pending := c :: rest } = exec c { s with pending := rest }

/-- R27: the counter is zero at power-on reset, one spine tick adds exactly one to it in every phase in which the time core is not held
in reset, and no command but the resets and the entry into the safe state, which puts the time core in reset, changes it. A step on an
empty queue is what still waits on the tick and then one spine tick (the model's choice, log 1). -/
def Obligations.CounterCountsSpineTicks : Prop :=
  State.reset.tsu.tc.frc = 0 ∧
  (∀ s : State, s.pending = [] → s.tsu.phase ≠ .reset → s.tsu.phase ≠ .faultHold →
    ∃ t, step s = .next t ∧ t.tsu.tc.frc = s.tsu.tc.frc + 1) ∧
  (∀ (c : Instr) (s t : State), exec c s = .next t →
    t.tsu.tc.frc = s.tsu.tc.frc ∨
      (t.tsu.tc.frc = 0 ∧
        (c = .powerOnReset ∨ (∃ a b, c = .warmReset a b) ∨ (∃ f w d, f ≠ 0 ∧ c = .postDone f w d) ∨
          ∃ a b w d, (a && b) = false ∧ c = .bistBlockDone a b w d)))

/-- Every command whose operands name parts that the block has answers a next state, and no command touches the queue of waiting commands:
what waits is run in order. What each command does in that state the statements below say. -/
def Obligations.NoCommandTouchesTheQueue : Prop :=
  (∀ (c : Instr) (s : State), c.wf = true → ∃ t, exec c s = .next t ∧ t.pending = s.pending) ∧
    ∀ (c : Instr) (s t : State), exec c s = .next t → t.pending = s.pending

/-- R279, R282, R344: over every step, a fuse that was blown stays blown, and the meter's fuses keep their balance: break fuses blown
never exceed seal fuses blown, a seal follows a break, and there are 33 seal and 32 break fuses. -/
def Obligations.FusesOnlyBurn : Prop :=
  ∀ s t : State, step s = .next t →
    (fusesOf s).within (fusesOf t) ∧
      (fusesBalanced s.tsu.meter = true → fusesBalanced t.tsu.meter = true)

/-- The fuses are in balance at reset. -/
def Obligations.FusesInBalanceAtReset : Prop :=
  fusesBalanced State.reset.tsu.meter = true ∧ fusesOf State.reset = ⟨0, 1, 0, 0⟩ ∧ State.reset.pending = []

/-! ## Block boundary, power, start-up and self-test -/

/-- Table 13.8 and R332: a power-on reset leaves every object of the TSU at its reset value but for what fuses and OTP hold and the banks
of the regions, of which an OFF one is woken, and the Fjouz chip as it was; a warm reset is a power-on reset after which the TSU reads
its fuses at once. -/
def Obligations.TsuResets : Prop :=
  ∀ s : State,
    exec .powerOnReset s = .next { s.fresh with
      later := s.later.filter fun i => !(placeOf i).any fun y => decide (y.dev = .tsu)
      tsu := { agent := { deviceId := s.tsu.agent.deviceId, serial := s.tsu.agent.serial, lcFuses := s.tsu.agent.lcFuses,
                          secKey := s.tsu.agent.secKey, secKeyValid := s.tsu.agent.secKeyValid }
               meter := { sealFuses := s.tsu.meter.sealFuses, breakFuses := s.tsu.meter.breakFuses, otp := s.tsu.meter.otp,
                          key := s.tsu.meter.key, cert := s.tsu.meter.cert }
               ppsDelay := s.tsu.ppsDelay
               ports := s.tsu.ports.mapAll {} fun _ x => { media := x.media }
               regions := s.tsu.regions.mapAll {} fun _ r => { banks := r.banks.mapAll .on fun _ b => bankAfterReset b } } } ∧
    (∀ secure byRuavo : Bool, s.tsu.pwrGood = true → (secure || byRuavo) = true →
      ∃ t u, exec .powerOnReset s = .next t ∧ exec .powerGood t = .next u ∧ exec (.warmReset secure byRuavo) s = .next u ∧
        u.tsu.phase = .init ∧ u.fjz = s.fjz) ∧
    (∀ byRuavo : Bool, byRuavo = false →
      exec (.warmReset false byRuavo) s = .next s.fresh)

/-- R279: the meter core is sealed exactly while more seal fuses than break fuses are blown. At power-on it counts both sets, loads the
parameters of the highest seal fuse or the defaults of Table 10.7, and logs BOOT; the phase becomes INIT (Table 13.9). -/
def Obligations.PowerOnReadsTheSeal : Prop :=
  (∀ m : Meter, m.isSealed = true ↔ m.breakFuses < m.sealFuses) ∧
  ∀ s : State, s.tsu.pwrGood = false →
    ∃ t, exec .powerGood s = .next t ∧ t.tsu.phase = .init ∧ t.tsu.pwrGood = true ∧
      t.tsu.meter.sealFuses = s.tsu.meter.sealFuses ∧ t.tsu.meter.breakFuses = s.tsu.meter.breakFuses ∧
      (s.tsu.meter.isSealed = true → t.tsu.meter.params = s.tsu.meter.otp.get 0 s.tsu.meter.sealFuses) ∧
      (s.tsu.meter.isSealed = false → t.tsu.meter.params = 60) ∧
      (s.tsu.meter.tamper.length < 1024 → s.tsu.meter.bootHt = none →
        t.tsu.meter.tamper = s.tsu.meter.tamper ++
          [pack 128 [(0, 16, 1), (16, 16, s.tsu.meter.sealFuses), (32, 64, if s.tsu.tc.htValid then nsOf s.tsu.now else 0),
            (96, 32, s.tsu.meter.breakFuses)]])

/-- Table 13.9 and R340: the end of INIT begins power-on self-test, with SPINE_SKEW recorded above 26 ps (R28); a pass leads to RUN and
a failure of block n to the safe state with its BIST_FAIL record (Table 13.12), the FAULT interrupt, and the Fjouz chip untouched. -/
def Obligations.StartUpPhases : Prop :=
  (∀ (skew : U16) (s : State), s.tsu.phase = .init →
    ∃ t, exec (.initDone skew) s = .next t ∧ t.tsu.phase = .post ∧ t.tsu.tc.spineSkew = skew ∧ t.fjz = s.fjz ∧
      (skew.toNat ≤ 26 → t = { s.fresh with tsu := { s.tsu with phase := .post, tc := { s.tsu.tc with spineSkew := skew } } }) ∧
      (26 < skew.toNat → t.tsu.errs.total = bump s.tsu.errs.total)) ∧
  (∀ (waiter us : U32) (s : State), s.tsu.phase = .post → (port s .tsu 0).state = .disabled → (port s .tsu 1).state = .disabled →
    ∃ t, exec (.postDone 0 waiter us) s = .next t ∧ t.tsu.phase = .run ∧ t.tsu.postPassed = true ∧ t.tsu.postUs = us ∧
      t.fjz = s.fjz ∧ t.tsu.tc = s.tsu.tc ∧ t.tsu.meter = s.tsu.meter ∧
      (port t .tsu 0).state = (if (port s .tsu 0).enable && s.tsu.configured .a then .train else .disabled) ∧
      (port t .tsu 1).state = (if (port s .tsu 1).enable && s.tsu.configured .b then .train else .disabled)) ∧
  (∀ (n : U8) (waiter us : U32) (s : State), s.tsu.phase = .post → 1 ≤ n.toNat → n.toNat ≤ 20 →
    ∃ t, exec (.postDone n waiter us) s = .next t ∧ t.fjz = s.fjz ∧ t.tsu.phase = .faultHold ∧ t.tsu.failedBlock = n ∧
      t.tsu.intStatus = s.tsu.intStatus ||| 0x80 ∧ t.tsu.herds = [] ∧ t.tsu.errs = {} ∧ t.tsu.tc = {} ∧
      pinFault t.tsu = true ∧ pinLock t.tsu = false ∧ pinHold t.tsu = false ∧ pinPps t.tsu = false ∧
      t.tsu.postRecord = { code := 0x0B01, secure := true, die := s.tsu.agent.deviceId, herd := 0xFFFFFF,
                           object := BitVec.ofNat 32 (0xB1000000 + n.toNat), waiter := waiter, detail := n.setWidth 16 })

/-- R341, R342: on-demand self-test begins with the lowest block of BIST_MASK where every condition of R341 holds, takes the selected
blocks in ascending number, ends with BIST_DONE, and a failure leads to the safe state. -/
def Obligations.OnDemandSelfTest : Prop :=
  (∀ (q : Req) (bytes : Nat) (s : State), admits .tsu q 0xB100 3 .rws [1] s = true → bistReady s.tsu bytes = true →
    exec (.bistStart q 1 bytes) s = .next (answered .tsu q 0xB100 3 stOk
      (onTsu (fun t => { t with phase := .onDemand, bistSel := t.bistMask, bistState := 1, bistUs := 0,
                                bistBlock := BitVec.ofNat 8 ((blocksIn t.bistMask).headD 0) }) (taken .tsu q s)))) ∧
  (∀ (q : Req) (v : U8) (bytes : Nat) (s : State), admits .tsu q 0xB100 3 .rws [v] s = true →
    v ≠ 1 ∨ bistReady s.tsu bytes = false →
    exec (.bistStart q v bytes) s = .next (answered .tsu q 0xB100 3 stState (taken .tsu q s))) ∧
  (∀ (waiter us : U32) (s : State), s.tsu.phase = .onDemand →
    (∀ k ∈ blocksIn s.tsu.bistSel, k ≤ s.tsu.bistBlock.toNat) →
    exec (.bistBlockDone true true waiter us) s = .next { s.fresh with
      tsu := { s.tsu with phase := .run, bistState := 2, bistBlock := 0, bistSel := 0, bistUs := s.tsu.bistUs + us,
                          bistPasses := bump s.tsu.bistPasses, intStatus := s.tsu.intStatus ||| 0x100 } }) ∧
  (∀ (waiter us : U32) (k : Nat) (s : State), s.tsu.phase = .onDemand → k ∈ blocksIn s.tsu.bistSel → s.tsu.bistBlock.toNat < k →
    (∀ j ∈ blocksIn s.tsu.bistSel, s.tsu.bistBlock.toNat < j → k ≤ j) →
    exec (.bistBlockDone true true waiter us) s = .next { s.fresh with
      tsu := { s.tsu with bistBlock := BitVec.ofNat 8 k, bistUs := s.tsu.bistUs + us } }) ∧
  (∀ (a b : Bool) (waiter us : U32) (s : State), s.tsu.phase = .onDemand → (a && b) = false →
    ∃ t, exec (.bistBlockDone a b waiter us) s = .next t ∧ t.tsu.phase = .faultHold ∧ t.tsu.failedBlock = s.tsu.bistBlock ∧
      t.tsu.postRecord.ht = s.tsu.now ∧ t.fjz = s.fjz)

/-- R333: a bit of INT_STATUS to which 1 is written is cleared, unless its event falls on the same tick; every other bit is unchanged; and
TSU_IRQ is high exactly while a bit is set in both registers. The registers stay in service in FAULT_HOLD. -/
def Obligations.InterruptBits : Prop :=
  (∀ (v same : U32) (enable : Option U32) (s : State), s.tsu.pwrGood = true →
    ∃ t, exec (.intStatus v same enable) s = .next t ∧
      (∀ i, i < 32 → t.tsu.intStatus.getLsbD i =
        (s.tsu.intStatus.getLsbD i && !(v.getLsbD i && !same.getLsbD i))) ∧
      t.tsu.intEnable = (match enable with | some e => e &&& 0x1FF | none => s.tsu.intEnable) ∧
      t = { s.fresh with tsu := { s.tsu with intStatus := t.tsu.intStatus, intEnable := t.tsu.intEnable } }) ∧
  (∀ t : Tsu, tsuIrq t = true ↔ ∃ i, i < 32 ∧ t.intStatus.getLsbD i = true ∧ t.intEnable.getLsbD i = true)

/-- Table 13.13, R344 and R345: an accepted LC_ADVANCE is answered OK and its fuse is being programmed; LC_STATE shows the new state once
that is done; the key of R345 is taken once, in PROVISIONED, by the local window. -/
def Obligations.LifeCycle : Prop :=
  (∀ (q : Req) (s : State), admits .tsu q 0xB000 2 .rws (lcBytes 1 0x4C430001) s = true → q.src = .window →
    lcState s.tsu.agent = 0 → s.tsu.agent.lcPending = none →
    exec (.lcProvision .tsu q 0x4C430001) s = .next (answered .tsu q 0xB000 2 stOk
      (makeKey (onAgent .tsu (fun a => { a with lcPending := some 0 }) (taken .tsu q s))))) ∧
  (∀ (d : Dev) (q : Req) (s : State), admits d q 0xB000 2 .rws (lcBytes 2 0x4C430002) s = true →
    lcState (agent s d) = 1 → (agent s d).lcPending = none → (agent s d).deviceId ≠ 0 → (agent s d).secKeyValid = true →
    (d = .tsu → s.tsu.meter.cert.isSome = true) →
    exec (.lcDeploy d q 0x4C430002) s = .next (answered d q 0xB000 2 stOk
      (onAgent d (fun a => { a with lcPending := some 1 }) (taken d q s)))) ∧
  (∀ (d : Dev) (q : Req) (s : State), admits d q 0xB000 2 .rws (lcBytes 3 0x4C430003) s = true →
    lcState (agent s d) = 1 ∨ lcState (agent s d) = 2 → (agent s d).lcPending = none → (d = .tsu → s.tsu.allFree = true) →
    (d = .tsu → s.tsu.meter.isSealed = false ∨ 32 ≤ s.tsu.meter.breakFuses) →
    exec (.lcReturn d q 0x4C430003) s = .next (answered d q 0xB000 2 stOk
      (onAgent d (fun a => { a with lcPending := some 2 }) (taken d q s)))) ∧
  (∀ (d : Dev) (i : Fin 3) (s : State), (agent s d).lcPending = some i →
    exec (.lcFuseProgrammed d) s = .next
      (onAgent d (fun a => { a with lcFuses := a.lcFuses ||| (1#3 <<< i.val), lcPending := none }) s.fresh)) ∧
  (∀ (d : Dev) (q : Req) (key : BitVec 256) (s : State), admits d q 0xB000 3 .wo (bvBytes key) s = true → q.src = .window →
    lcState (agent s d) = 1 →
    exec (.secKey d q key) s = .next (
      if (agent s d).secKeyValid then answered d q 0xB000 3 stState (taken d q s)
      else answered d q 0xB000 3 stOk (onAgent d (fun a => { a with secKey := key, secKeyValid := true }) (taken d q s))))

/-- R346 and R348: FJZ_RST_N, the chip's self-test and firmware, and ROLE, which lets its ports act on PORT_ENABLE. -/
def Obligations.FjouzStart : Prop :=
  (∀ s : State, s.fjz.rstN = false →
    ∃ t, exec .fjzResetRelease s = .next t ∧ t.tsu = s.tsu ∧
      t.fjz = { s.fjz with rstN := true, selfTest := .running, agent := { s.fjz.agent with bootId := t.fjz.agent.bootId } }) ∧
  (∀ s : State,
    ∃ t, exec .fjzResetAssert s = .next t ∧ t.tsu = s.tsu ∧ t.fjz.rstN = false ∧ t.fjz.role = 0 ∧ t.fjz.lock = .free ∧
      t.fjz.frc = 0 ∧ t.fjz.agent.lcFuses = s.fjz.agent.lcFuses ∧ t.fjz.agent.secKey = s.fjz.agent.secKey ∧ t.fjz.errs = {}) ∧
  (∀ (waiter us : U32) (mgmt : Bool) (s : State), s.fjz.rstN = true → s.fjz.selfTest = .running →
    exec (.fjzSelftestDone 0 waiter us mgmt) s = .next
      { s.fresh with fjz := { s.fjz with selfTest := .passed, mgmtOk := mgmt, postUs := us } }) ∧
  (∀ (n : U8) (waiter us : U32) (s : State), s.fjz.rstN = true → s.fjz.selfTest = .running → 1 ≤ n.toNat → n.toNat ≤ 7 →
    ∃ t, exec (.fjzSelftestDone n waiter us true) s = .next t ∧ t.tsu = s.tsu ∧ fjzFault t.fjz = true ∧
      t.fjz.errs = pushErr 4096
        { code := 0x0B01, secure := true, fjouz := true, die := s.fjz.agent.deviceId, herd := 0xFFFFFF,
          object := BitVec.ofNat 32 (0xB1000000 + n.toNat), waiter := waiter, detail := n.setWidth 16 } s.fjz.errs) ∧
  (∀ (v : U32) (s : State), s.fjz.rstN = true → s.fjz.mgmtOk = true → s.fjz.selfTest ≠ .running →
    exec (.firmwareLoaded v) s = .next { s.fresh with fjz := { s.fjz with firmware := true, fwVersion := v } }) ∧
  (∀ (q : Req) (v : U8) (s : State), admits .fjz q 0x1000 7 .rws [v] s = true → s.fjz.portsOff = true →
    1 ≤ v.toNat → v.toNat ≤ 3 →
    exec (.role q v) s = .next (answered .fjz q 0x1000 7 stOk
      (forAll (List.range 72) (actEnable .fjz) (onFjz (fun x => { x with role := v }) (taken .fjz q s)))))

/-! ## Hall time -/

/-- R29: hall time of a counter value is the exact sum of counter, product with rate and offset, rounded once to units of 2^-16 ns, to
nearest with ties to even; it depends on counter, offset and rate alone. -/
def Obligations.HallTimeRoundsToNearestEven : Prop :=
  (∀ (tc : TimeCore) (f : Nat) (x : Int),
    x = ((f : Int) * 65536 + tc.offset.toNat) * 2 ^ 24 + (f : Int) * tc.rate.toInt → 0 ≤ x → x < 2 ^ 103 →
    2 * ((htAt tc f).toNat * 2 ^ 24 - x).natAbs ≤ 2 ^ 24 ∧
      (2 * ((htAt tc f).toNat * 2 ^ 24 - x).natAbs = 2 ^ 24 → (htAt tc f).toNat % 2 = 0)) ∧
  (∀ (tc tc' : TimeCore) (f : Nat), tc.offset = tc'.offset → tc.rate = tc'.rate → htAt tc f = htAt tc' f)

/-- R34: a target fires on the first tick whose hall time has reached it, for every rate that R30 accepts, every offset and every target.
Hall time is taken here without its wrap at 80 bits, counted so that that of the present tick is HT itself; where it does not wrap it
is HT. -/
def Obligations.TargetFiresOnTheFirstTick : Prop :=
  ∀ (tc : TimeCore) (h : HT), tc.rate.toInt.natAbs ≤ 2 ^ 28 →
    let e (g : Nat) : Int := htExact tc g + (offsetInt tc - tc.offset.toNat)
    e tc.frc.toNat = (htAt tc tc.frc.toNat).toNat ∧ (∀ g, htAt tc g = BitVec.ofInt 80 (e g)) ∧
      (∀ g, 0 ≤ e g → e g < 2 ^ 80 → (htAt tc g).toNat = e g) ∧
      h.toNat ≤ e (tickOf tc h) ∧ ∀ g, g < tickOf tc h → e g < h.toNat

/-- R30: RATE is accepted from −2^28 to 2^28. A write outside that range is refused and leaves RATE unchanged, whatever the state; where
every earlier check passes, its status is RANGE. -/
def Obligations.RateOutOfRangeIsRefused : Prop :=
  (∀ (q : Req) (v : I64) (s : State), 2 ^ 28 < v.toInt.natAbs →
    ∃ t, exec (.rate q v) s = .next t ∧ t.tsu.tc.rate = s.tsu.tc.rate ∧ t.tsu.tc.offset = s.tsu.tc.offset) ∧
  (∀ (q : Req) (v : I64) (s : State), 2 ^ 28 < v.toInt.natAbs → admits .tsu q 0x2140 4 .rws (bvBytes v) s = true →
    mappingWritable s.tsu = true →
    exec (.rate q v) s = .next (answered .tsu q 0x2140 4 stRange (taken .tsu q s))) ∧
  (∀ (q : Req) (v : I64) (s : State), v.toInt.natAbs ≤ 2 ^ 28 → admits .tsu q 0x2140 4 .rws (bvBytes v) s = true →
    mappingWritable s.tsu = true →
    ∃ t, exec (.rate q v) s = .next t ∧ t.tsu.tc.rate = v)

/-- R32, R33, R38 and R39: writes of the mapping where R33 admits them, and LATCH_NOW. RATE keeps hall time continuous by its
compensation in OFFSET; a phase step is added at once, carrying what 2^-16 ns cannot hold, or slewed in LOCKED. -/
def Obligations.MappingWrites : Prop :=
  (∀ (q : Req) (v : HT) (s : State), admits .tsu q 0x2140 2 .rws (bvBytes v) s = true → mappingWritable s.tsu = true →
    exec (.offset q v) s = .next (answered .tsu q 0x2140 2 stOk (onTc (fun tc => { tc with offset := v }) (taken .tsu q s)))) ∧
  (∀ (q : Req) (v : HT) (s : State), admits .tsu q 0x2140 2 .rws (bvBytes v) s = true → mappingWritable s.tsu = false →
    exec (.offset q v) s = .next (answered .tsu q 0x2140 2 stState (taken .tsu q s))) ∧
  (∀ (q : Req) (v : I64) (s : State), admits .tsu q 0x2140 4 .rws (bvBytes v) s = true → mappingWritable s.tsu = true →
    v.toInt.natAbs ≤ 2 ^ 28 →
    exec (.rate q v) s = .next (answered .tsu q 0x2140 4 stOk
      (onTc (fun tc => { tc with
        rate := v
        offset := tc.offset + BitVec.ofInt 80 (rne ((tc.frc.toNat : Int) * (tc.rate.toInt - v.toInt)) (2 ^ 24)) }) (taken .tsu q s)))) ∧
  (∀ (q : Req) (v : I64) (s : State), admits .tsu q 0x2160 1 .rws (bvBytes v) s = true → mappingWritable s.tsu = true →
    v.toInt.natAbs ≤ 1000000 →
    exec (.phaseStepPs q v) s = .next (answered .tsu q 0x2160 1 stOk
      (onTc (fun tc => { tc with
        phaseStep := v
        offset := tc.offset + BitVec.ofInt 80 ((v.toInt * 65536 + tc.stepRem) / 1000)
        stepRem := (v.toInt * 65536 + tc.stepRem) % 1000 }) (taken .tsu q s)))) ∧
  (∀ (q : Req) (v : I64) (s : State), admits .tsu q 0x2160 1 .rws (bvBytes v) s = true → s.tsu.tc.state = .locked →
    v.toInt.natAbs ≤ 1000000 →
    exec (.phaseStepPs q v) s = .next (answered .tsu q 0x2160 1 stOk
      (onTc (fun tc => { tc with phaseStep := v, slewRemaining := tc.slewRemaining + v }) (taken .tsu q s)))) ∧
  (∀ (q : Req) (s : State), admits .tsu q 0x2140 5 .wo [1] s = true →
    exec (.latchNow q 1) s = .next (answered .tsu q 0x2140 5 stOk
      (onTc (fun tc => { tc with latchedFrc := s.tsu.tc.frc, latchedHt := s.tsu.now }) (taken .tsu q s))))

/-- R42 and R334: TSU_PPS rises on a tick whose hall time is a whole second, in LOCKED and HOLDOVER alone, and is high for 100 µs; in
every other state the pin is low. -/
def Obligations.PulsePerSecond : Prop :=
  (∀ t : Tsu, ¬(t.tc.state = .locked ∨ t.tc.state = .holdover) → pinPps t = false) ∧
  ∀ s : State, s.tsu.works = true → s.tsu.tc.ppsUntil ≤ s.tsu.tc.frc.toNat →
    (s.tsu.tc.state = .locked ∨ s.tsu.tc.state = .holdover → nsOf s.tsu.now % 1000000000 = 0 →
      ∃ t, exec .tsuPps s = .next t ∧ pinPps t.tsu = true ∧
        t = { s.fresh with tsu := { s.tsu with tc := { s.tsu.tc with ppsUntil := s.tsu.tc.frc.toNat + 100000 } } }) ∧
    (¬(s.tsu.tc.state = .locked ∨ s.tsu.tc.state = .holdover) ∨ nsOf s.tsu.now % 1000000000 ≠ 0 →
      exec .tsuPps s = .next s.fresh ∧ pinPps s.tsu = false)

/-- R36, R37, R52 to R54 and R112: a mapping update converts what is parked and moves the rate of HOLDOVER by at most 2^-34; past the exit
limit the die is a fawn and its running herds leave; HOLDOVER_RELOCK, HOLD_MODEL_VALID and LOCK_SLOW where their conditions hold. -/
def Obligations.HoldoverAndLock : Prop :=
  (∀ s : State, s.tsu.works = true → s.tsu.tc.frc.toNat % 2 ^ 20 = 0 → s.tsu.tc.state ≠ .holdover →
    exec .mappingUpdateTick s = .next { s.fresh with tsu := unparkAll s.tsu }) ∧
  (∀ s : State, s.tsu.works = true → s.tsu.tc.frc.toNat % 2 ^ 20 = 0 → s.tsu.tc.state = .holdover → s.tsu.tc.regained = false →
    s.tsu.tc.rate.toInt.natAbs ≤ 2 ^ 28 →
    ∃ t, exec .mappingUpdateTick s = .next t ∧ (t.tsu.tc.rate.toInt - s.tsu.tc.rate.toInt).natAbs ≤ 64 ∧
      t.tsu.tc.state = .holdover ∧
      (s.tsu.tc.holdLimit.toNat < t.tsu.tc.holdBound.toNat →
        t.tsu.fawn = true ∧ ∀ h, (s.tsu.herd h).state = .running → ((t.tsu.herd h).departing).isSome = true)) ∧
  (∀ (err : Int) (s : State), s.tsu.works = true → s.tsu.tc.state = .holdover → s.tsu.tc.takenOver = true → err.natAbs ≤ 100 →
    s.tsu.tc.slewRemaining = 0 →
    ∃ t, exec (.holdoverRelock err) s = .next t ∧ t.tsu.tc.state = .locked ∧ t.tsu.tc.entryHt = s.tsu.now ∧ t.tsu.fawn = false ∧
      t.tsu.tc.offset = s.tsu.tc.offset ∧ t.tsu.tc.rate = s.tsu.tc.rate ∧ t.tsu.intStatus = s.tsu.intStatus ||| 0x20 ∧
      t.tsu.herds = s.tsu.herds ∧ t.fjz = s.fjz) ∧
  (∀ (f : Nat) (r : Int × Int) (s : State), s.tsu.works = true → s.tsu.tc.lockedSince = some f → s.tsu.tc.tempSpan = some r →
    s.tsu.tc.state = .locked → f + 300000000000 ≤ s.tsu.tc.frc.toNat → 2000 ≤ r.2 - r.1 →
    ∃ t, exec .holdModelValid s = .next t ∧ t.tsu.tc.modelValid = true ∧
      t.tsu.tc.tempCoeff = Config.learnTempCoeff s.tsu.tc.window ∧ t.tsu.tc.ageing = Config.learnAgeing s.tsu.tc.window ∧
      t.tsu.tc.offset = s.tsu.tc.offset ∧ t.tsu.tc.rate = s.tsu.tc.rate) ∧
  (∀ (mk : I64) (uF : U32) (s : State), s.tsu.works = true →
    ∃ t, exec (.tempSample mk uF) s = .next t ∧ t.tsu.tc.uF = (if s.tsu.tc.state = .locked then uF else s.tsu.tc.uF) ∧
      t.tsu.tc.temps = (mk.toInt :: s.tsu.tc.temps).take 1000 ∧
      t.tsu.tc.tempSum = s.tsu.tc.tempSum +
        (if s.tsu.tc.state = .holdover then (mk.toInt - s.tsu.tc.entryTemp.toInt).natAbs else 0) ∧
      t.tsu.tc.offset = s.tsu.tc.offset ∧ t.tsu.tc.rate = s.tsu.tc.rate ∧ t.tsu.tc.state = s.tsu.tc.state ∧ t.fjz = s.fjz) ∧
  (∀ s : State, s.tsu.works = true → s.tsu.tc.state = .narrow → s.tsu.tc.lockSlow = false →
    s.tsu.tc.narrowSince + 1000000000 ≤ s.tsu.tc.frc.toNat →
    exec .lockSlow s = .next (enterErrs
      (raise { code := 0x0404, herd := 0xFFFFFF, object := 0x48000000, waiter := s.tsu.agent.deviceId.setWidth 32 }
        (onTc (fun tc => { tc with lockSlow := true }) s.fresh))))

/-! ## Regions -/

/-- R43 to R46: a snapshot pairs the counter with the region's clock count and its lowest margin, and accounts the stretch since the last
one; on a multiple of 65,536 ticks each region takes one, and a request takes one of its region. -/
def Obligations.Snapshots : Prop :=
  (∀ (n trig : Nat) (rcc : BitVec 48) (s : State), trig < 16 →
    let r := s.tsu.region n
    let u := (takeSnapshot n trig rcc s).tsu.region n
    fld u.snap 0 64 = s.tsu.tc.frc ∧ fld u.snap 64 48 = rcc ∧ fld u.snap 112 8 = r.snapMin ∧
      fldN u.snap 120 4 = min 15 r.snapStretches ∧ fldN u.snap 124 4 = trig ∧ u.snapMin = 0xFF ∧ u.snapStretches = 0 ∧
      u.stretchNs = (if r.snapValid then
        bumpBy r.stretchNs ((s.tsu.tc.frc.toNat - fldN r.snap 0 64) -
          cdiv ((rcc - fld r.snap 64 48).toNat * r.nominalFs.toNat) 1000000) else r.stretchNs)) ∧
  (∀ (rccs : List (BitVec 48)) (n : Nat) (s : State), s.tsu.works = true → s.tsu.tc.frc.toNat % 65536 = 0 → n < 52 →
    rccs.length = 52 →
    ∃ t, exec (.snapshotPeriodic rccs) s = .next t ∧
      t.tsu.region n = (takeSnapshot n 0 (rccs.getD n 0) s).tsu.region n ∧ t.fjz = s.fjz ∧ t.tsu.tc = s.tsu.tc) ∧
  (∀ (q : Req) (n : Nat) (rcc : BitVec 48) (s : State), n < 52 → admits .tsu q (0x2400 + n) 7 .wo [1] s = true →
    exec (.snapshotReq q n 1 rcc) s = .next (answered .tsu q (0x2400 + n) 7 stOk (takeSnapshot n 3 rcc (taken .tsu q s)))) ∧
  (∀ (n : Nat) (fs : U32) (rcc : BitVec 48) (s : State), s.tsu.works = true → n < 52 →
    ∃ t, exec (.nominalPeriodChange n fs rcc) s = .next t ∧ (t.tsu.region n).nominalFs = fs ∧
      (t.tsu.region n).stretchNs = (s.tsu.region n).stretchNs ∧ fldN (t.tsu.region n).snap 124 4 = 4 ∧
      (∀ m, m ≠ n → t.tsu.region m = s.tsu.region m) ∧ t.fjz = s.fjz)

/-- R44, R47 to R49, R329 and R330: what a region reports, the bias that its monitors take, COUNTER_CLEAR, and a time read, which is hall time of
the tick, or zero while HT_VALID is false. -/
def Obligations.RegionReports : Prop :=
  (∀ (n : Nat) (s : State), s.tsu.works = true → n < 52 →
    ∃ t, exec (.stretchReport n) s = .next t ∧ (t.tsu.region n).stretchEvents = satAdd (s.tsu.region n).stretchEvents 1 ∧
      (∀ m, m ≠ n → t.tsu.region m = s.tsu.region m) ∧ t.fjz = s.fjz ∧ t.tsu.tc = s.tsu.tc) ∧
  (∀ (n : Nat) (v : U8) (s : State), s.tsu.works = true → n < 52 → (s.tsu.region n).bias = 0 →
    ∃ t, exec (.marginReading n v) s = .next t ∧ (t.tsu.region n).marginMin.toNat = min (s.tsu.region n).marginMin.toNat v.toNat ∧
      t.tsu.dieMargin.toNat = min s.tsu.dieMargin.toNat v.toNat ∧
      (v.toNat < s.tsu.dieMargin.toNat → t.tsu.dieMarginRegion.toNat = n) ∧
      t.tsu.marginEvents = (if v.toNat < s.tsu.marginThr.toNat ∧ (s.tsu.region n).below = false then satAdd s.tsu.marginEvents 1
        else s.tsu.marginEvents) ∧
      (∀ m, m ≠ n → t.tsu.region m = s.tsu.region m) ∧ t.fjz = s.fjz) ∧
  (∀ (n : Nat) (w : U8) (s : State), s.tsu.works = true → n < 52 →
    ∃ t, exec (.queueStall n w) s = .next t ∧ (t.tsu.region n).queueStalls = bump (s.tsu.region n).queueStalls ∧
      (∀ m, m ≠ n → t.tsu.region m = s.tsu.region m) ∧ t.fjz = s.fjz) ∧
  (∀ (q : Req) (v : U8) (s : State), admits .tsu q 0x2440 2 .rws [v] s = true → phase8Waits s = false →
    ∃ t, exec (.marginBias q v) s = .next t ∧ t.tsu.marginBias = v ∧
      ∀ n, n < 52 → (t.tsu.region n).bias = (if (s.tsu.region n).launched = [] then v else (s.tsu.region n).bias)) ∧
  (∀ (q : Req) (s : State), admits .tsu q 0x2440 6 .wo [1] s = true →
    ∃ t, exec (.counterClear q 1) s = .next t ∧ t.tsu.dieMargin = 0xFF ∧ t.tsu.marginEvents = 0 ∧
      ∀ n, n < 52 → (t.tsu.region n).marginMin = 0xFF ∧ (t.tsu.region n).stretchEvents = 0 ∧ (t.tsu.region n).stretchNs = 0 ∧
        (t.tsu.region n).queueStalls = 0 ∧ (t.tsu.region n).launched = (s.tsu.region n).launched) ∧
  (∀ (n : Nat) (s : State), s.tsu.works = true → n < 52 → s.tsu.replayStrict = false → tokenNext none n qTime s = true →
    outFree n oTime s = true →
    ∃ t, exec (.regionTimeRead n) s = .next t ∧ t.out = [.time n (if s.tsu.tc.htValid then s.tsu.now else 0)] ∧
      t.fjz = s.fjz ∧ t.tsu.tc = s.tsu.tc ∧ (t.tsu.region n).outq.get 0 oTime = (s.tsu.region n).outq.get 0 oTime + 1 ∧
      (t.tsu.region n).launched = (s.tsu.region n).launched ∧ ∀ m, m ≠ n → t.tsu.region m = s.tsu.region m)

/-! ## Sync ports -/

/-- Table 3.6, R72 and R80: enabling, disabling, training, its end and its failure, DOWN_HOLD, codeword lock and its loss, remote fault and
its end, on either part. What a port that goes down sets off is `linkDown` and `takeDown`. -/
def Obligations.PortStates : Prop :=
  (∀ (d : Dev) (p : Nat) (q : Req) (s : State), portOk d p = true → admits d q (0x3100 + p) 2 .rws [1] s = true →
    (port s d p).state = .disabled → portFree s d p = true →
    exec (.portEnable d p q) s = .next (answered d q (0x3100 + p) 2 stOk
      (onPort d p (fun x => { quietPort x with state := .train, since := counterOf s d, ownId := (agent s d).deviceId })
        (onPort d p (fun x => { x with enable := true, trainFailSeen := false }) (taken d q s))))) ∧
  (∀ (d : Dev) (p : Nat) (q : Req) (s : State), portOk d p = true → admits d q (0x3100 + p) 2 .rws [0] s = true →
    (port s d p).state ≠ .disabled →
    exec (.portDisable d p q) s = .next (enterErrs (answered d q (0x3100 + p) 2 stOk
      (takeDown d p .disabled (onPort d p (fun x => { x with enable := false }) (taken d q s)))))) ∧
  (∀ (d : Dev) (p : Nat) (tx rx : U32) (partner : Bool) (s : State), portOk d p = true → partWorks s d = true →
    (port s d p).state = .train → (port s d p).media = .optical ∨ partner = true →
    exec (.trainComplete d p (tx, rx) partner) s = .next
      (onPort d p (fun x => { x with state := .lock, since := counterOf s d, txLat := tx, rxLat := rx, txMeasured := tx, rxMeasured := rx,
                                     measuredAt := counterOf s d }) s.fresh)) ∧
  (∀ (d : Dev) (p : Nat) (s : State), portOk d p = true → partWorks s d = true → (port s d p).state = .train →
    (port s d p).since + 10000000 ≤ counterOf s d →
    ∃ t, exec (.trainFail d p) s = .next t ∧ (port t d p).state = .downHold ∧ (port t d p).trainFailSeen = true ∧
      (port t d p).linkDowns = (if (port s d p).trainFailSeen then (port s d p).linkDowns else bump (port s d p).linkDowns) ∧
      (port t d p).downCause = (if (port s d p).trainFailSeen then (port s d p).downCause else 4) ∧
      ∀ p', p' ≠ p → port t d p' = port s d p') ∧
  (∀ (d : Dev) (p : Nat) (s : State), portOk d p = true → partWorks s d = true → (port s d p).state = .downHold →
    (port s d p).since + 1000000 ≤ counterOf s d →
    exec (.downHoldExpiry d p) s = .next
      (onPort d p (fun x => { quietPort x with state := .train, since := counterOf s d, ownId := (agent s d).deviceId })
        s.fresh)) ∧
  (∀ (d : Dev) (p : Nat) (s : State), portOk d p = true → partWorks s d = true → (port s d p).state = .lock →
    (∀ (n : BitVec 12) (rf : Nat → Bool) (before : List RxCw), (port s d p).rxLock = false →
      exec (.codewordLock d p (before ++ (List.range 8).map fun i => ⟨n + BitVec.ofNat 12 i, rf i, false⟩)) s = .next
        (onPort d p (fun x => { x with rxLock := true, rfFromPeer := rf 7, state := if rf 7 then .lock else .hello }) s.fresh)) ∧
    ((port s d p).rxLock = true → exec (.remoteFaultCleared d p) s = .next
      (onPort d p (fun x => { x with rfFromPeer := false, state := .hello }) s.fresh))) ∧
  (∀ (d : Dev) (p : Nat) (s : State), portOk d p = true → partWorks s d = true → (port s d p).rxLock = true →
    (port s d p).state = .up →
    (∀ (first : RxCw) (bad : List RxCw), bad.length = 16 → (∀ c ∈ bad, c.bad = true) →
      exec (.codewordLockLost d ⟨p, first :: bad⟩) s = .next (enterErrs (linkDown d p 1 s.fresh))) ∧
    exec (.remoteFault d p) s = .next (enterErrs (linkDown d p 5 s.fresh)))

/-- R71 and R86: a link that goes down leaves its port in DOWN_HOLD with nothing in flight; LINK_DOWN is counted with its cause. -/
def Obligations.LinkDownLeavesThePortQuiet : Prop :=
  ∀ (d : Dev) (p : Nat) (cause : U8) (s : State), (port s d p).state ≠ .up → cause ≠ 3 → s.staged = [] →
    let t := enterErrs (linkDown d p cause s)
    (port t d p).state = .downHold ∧ (port t d p).downCause = cause ∧ (port t d p).linkDowns = bump (port s d p).linkDowns ∧
      (port t d p).txq = [] ∧ (port t d p).replay = [] ∧ (port t d p).heldRx = [] ∧ (port t d p).gaps = [] ∧
      (port t d p).rxLock = false ∧ (∀ p', p' ≠ p → port t d p' = port s d p') ∧
      (d = .tsu → t.tsu.errs.total = bump s.tsu.errs.total ∧ t.fjz = s.fjz) ∧
      (d = .fjz → t.fjz.errs.total = bump s.fjz.errs.total ∧ t.tsu = s.tsu)

/-- R73 and R74: in HELLO a version, role or plane that does not fit takes the link down with its cause, and ACK brings it up with the
negotiated versions; in UP a changed peer takes it down. HELLO cells leave every 1,024 codewords in HELLO and 65,536 in UP. -/
def Obligations.HelloExchange : Prop :=
  (∀ (d : Dev) (p : Nat) (c : Cell) (s : State), portOk d p = true → partWorks s d = true → (port s d p).state = .hello →
    (port s d p).rxLock = true → c.typ = 8 → c.sound = true → s.aheadOf (cellPlace d p) = false →
    let k := keepHello d p c.body s.fresh
    (commonVersion (hFraming c.body) = 0 ∨ commonVersion (hTime c.body) = 0 → exec (.hello d p c) s = .next (enterErrs (linkDown d p 3 k))) ∧
    (commonVersion (hFraming c.body) ≠ 0 → commonVersion (hTime c.body) ≠ 0 →
      (hRole c.body ≠ peerRole s d p → exec (.hello d p c) s = .next (enterErrs (linkDown d p 6 k))) ∧
      (hRole c.body = peerRole s d p → hPlane c.body ≠ planeOf s d p → exec (.hello d p c) s = .next (enterErrs (linkDown d p 7 k))) ∧
      (hRole c.body = peerRole s d p → hPlane c.body = planeOf s d p → hAck c.body = false → exec (.hello d p c) s = .next k) ∧
      (hRole c.body = peerRole s d p → hPlane c.body = planeOf s d p → hAck c.body = true →
        ∃ t, exec (.hello d p c) s = .next t ∧ (port t d p).state = .up ∧ (port t d p).negVer = negotiated c.body ∧
          (port t d p).peerId = (hSender c.body).setWidth 32 ∧ (port t d p).peerPort = hPort c.body ∧
          ∀ p', p' ≠ p → port t d p' = port s d p'))) ∧
  (∀ (d : Dev) (p : Nat) (c : Cell) (s : State), portOk d p = true → partWorks s d = true → (port s d p).state = .up →
    c.typ = 8 → c.sound = true → s.aheadOf (cellPlace d p) = false →
    (port s d p).peerHello.map helloIdentity ≠ some (helloIdentity c.body) →
    exec (.hello d p c) s = .next (enterErrs (linkDown d p 8 s.fresh))) ∧
  (∀ (d : Dev) (p : Nat) (s : State), portOk d p = true → partWorks s d = true →
    ((port s d p).state = .hello ∧ (port s d p).slots / 10 % 1024 = 0) ∨
      ((port s d p).state = .up ∧ (port s d p).slots / 10 % 65536 = 0) →
    exec (.helloSend d p) s = .next
      (onPort d p (fun x => { x with txq := x.txq ++ [{ cell := helloCell s d p, ready := counterOf s d }] }) s.fresh) ∧
    (helloCell s d p).typ = 8 ∧ (helloCell s d p).cls = 0 ∧ hSender (helloCell s d p).body = (port s d p).ownId ∧
      hAck (helloCell s d p).body = (port s d p).heard)

/-- R68 to R70: a lost codeword, one past the codeword before it, is counted, and asked for again while the link is UP; a request sends the
codeword's retried cells once more; a gap is asked for again after 1 µs, and one behind which some class has cells waiting takes the
link down after 8 µs; a cell leaves the replay buffer after 80 codewords. -/
def Obligations.LinkRetry : Prop :=
  (∀ (d : Dev) (p : Nat) (before : BitVec 12) (s : State), portOk d p = true → partWorks s d = true → (port s d p).rxLock = true →
    ((port s d p).state ≠ .up → exec (.codewordUncorrectable d p before) s = .next
      (onPort d p (fun x => { x with cwUncorr := bump x.cwUncorr }) s.fresh)) ∧
    ((port s d p).state = .up → exec (.codewordUncorrectable d p before) s = .next
      (onPort d p (fun x => { x with
        cwUncorr := bump x.cwUncorr
        gaps := (x.gaps.filter fun g => !decide (g.ahead = 0 ∧ g.opened + 8192 ≤ counterOf s d)) ++
          [{ cw := before + 1, opened := counterOf s d, lastReq := counterOf s d }]
        retryCount := bump x.retryCount
        txq := x.txq ++ [{ cell := mkCell 7 (before + 1).toNat 0 0, ready := counterOf s d }] }) s.fresh))) ∧
  (∀ (d : Dev) (p : Nat) (c : Cell) (s : State), portOk d p = true → partWorks s d = true → arrives d p 7 c s = true →
    (codewordAge (port s d p) (fld c.hdr 32 12) ≤ 80 →
      exec (.retryReq d p c) s = .next (onPort d p (fun x => { x with
        txq := x.txq ++ ((x.replay.filter fun r => r.cws.contains (fld c.hdr 32 12)).map fun r =>
          { cell := { r.cell with hdr := putBit r.cell.hdr 11 true
                                  contHdr := if r.cell.pair then putBit r.cell.contHdr 11 true else r.cell.contHdr }
            retry := true, ready := counterOf s d }) })
        s.fresh)) ∧
    (80 < codewordAge (port s d p) (fld c.hdr 32 12) →
      exec (.retryReq d p c) s = .next (enterErrs (linkDown d p 2 s.fresh)))) ∧
  (∀ (d : Dev) (p : Nat) (cw : BitVec 12) (g : Gap) (s : State), portOk d p = true → partWorks s d = true →
    (port s d p).state = .up → g ∈ (port s d p).gaps → g.cw = cw →
    (g.lastReq + 1000 ≤ counterOf s d →
      ∃ t, exec (.retryReqRepeat d p cw) s = .next t ∧ (port t d p).retryCount = bump (port s d p).retryCount ∧
        (∀ e ∈ (port t d p).gaps, e.cw = cw → e.lastReq = counterOf s d) ∧
        (port t d p).txq = (port s d p).txq ++ [{ cell := mkCell 7 cw.toNat 0 0, ready := counterOf s d }]) ∧
    (g.opened + 8000 ≤ counterOf s d → g.ahead ≠ 0 →
      exec (.retryExhausted d p cw) s = .next (enterErrs (linkDown d p 2 s.fresh)))) ∧
  (∀ (d : Dev) (p : Nat) (cls : BitVec 2) (lseq : U16) (s : State), portOk d p = true → partWorks s d = true →
    exec (.replayBufferExpiry d p cls lseq) s = .next
      (onPort d p (fun x => { x with
        replay := x.replay.filter fun r => !decide (r.cell.cls = cls.toNat ∧ r.cell.lseq = lseq ∧ r.at_ + 80 < x.slots / 10) })
        s.fresh))

/-- R78 to R80: the two-way exchange. A parent's probe, the child's time-stamps, its own probe and the parent's answer; the reply that
answers the waiting probe gives MEAN_PATH_DELAY_PS and the offset, which the part's loop takes; and a latency measured again after 1 s
moves by at most 8 ps at once, and by as much again as each codeword begins. -/
def Obligations.TimeExchange : Prop :=
  (∀ (d : Dev) (p : Nat) (s : State), portOk d p = true → partWorks s d = true → isChildSide s d p = false →
    (port s d p).slots / 10 % 1024 = 0 → (port s d p).state = .up →
    exec (.timeDownSend d p) s = .next (onPort d p (fun x => { x with
      txq := x.txq ++ [{ cell := mkCell 1 0 3 (pack 448 [(80, 1, b2n s.fjz.established)]), ready := counterOf s d }] }) s.fresh)) ∧
  (∀ (d : Dev) (p : Nat) (c : Cell) (t2 : Stamp) (s : State), portOk d p = true → partWorks s d = true → arrives d p 1 c s = true →
    isChildSide s d p = true →
    exec (.timeDown d p c t2) s = .next (onPort d p (fun x => { x with
      t12 := if bitOf c.body 80 then some (fld c.body 0 80, stampHt s d t2) else none }) s.fresh)) ∧
  (∀ (d : Dev) (p : Nat) (t3 : Stamp) (s : State), portOk d p = true → partWorks s d = true → isChildSide s d p = true →
    (port s d p).slots / 10 % 1024 = 512 → (port s d p).state = .up →
    exec (.timeUpSend d p t3) s = .next (onPort d p (fun x => { x with
      t3 := some (stampHt s d t3, BitVec.ofNat 12 (x.slots / 10))
      txq := x.txq ++ [{ cell := mkCell 2 (agent s d).deviceId.toNat 0 0, ready := counterOf s d }] }) s.fresh)) ∧
  (∀ (d : Dev) (p : Nat) (c : Cell) (t4 : Stamp) (cw : BitVec 12) (s : State), portOk d p = true → partWorks s d = true →
    arrives d p 2 c s = true → isChildSide s d p = false →
    exec (.timeUp d p c t4 cw) s = .next (onPort d p (fun x => { x with
      txq := x.txq ++ [{ cell := mkCell 3 0 3 (pack 448 [(0, 80, (stampHt s d t4).toNat), (80, 12, cw.toNat)])
                         ready := counterOf s d }] }) s.fresh)) ∧
  (∀ (d : Dev) (p : Nat) (c : Cell) (t1 t2 t3 : HT) (cw : BitVec 12) (s : State), portOk d p = true → partWorks s d = true →
    arrives d p 3 c s = true → isChildSide s d p = true → (port s d p).t12 = some (t1, t2) → (port s d p).t3 = some (t3, cw) →
    cw = fld c.body 80 12 →
    let down := (t2 - t1).toInt
    let up := (fld c.body 0 80 - t3).toInt
    let delay := openRound ((down + up) * 1000) 131072
    let theta := openRound ((down - up) * 1000 - (port s d p).cableAsym.toInt * 65536) 131072
    let u := onPort d p (fun x => { x with pathDelay := i64 delay, exchanged := true, t12 := none, t3 := none }) s.fresh
    exec (.timeReply d p c) s = .next (match d with
      | .tsu => enterErrs (dieExchange p theta delay u)
      | .fjz => chipExchange p theta u)) ∧
  (∀ (d : Dev) (p : Nat) (tx rx : U32) (s : State), portOk d p = true → partWorks s d = true → (port s d p).state = .up →
    (port s d p).measuredAt + 1000000000 ≤ counterOf s d →
    exec (.latencyRemeasure d p tx rx) s = .next (onPort d p (fun x => { x with
      txLat := latencyStep x.txLat tx, rxLat := latencyStep x.rxLat rx, txMeasured := tx, rxMeasured := rx
      measuredAt := counterOf s d }) s.fresh)) ∧
  (∀ old new : U32,
    ((latencyStep old new).toNat - old.toNat : Int).natAbs = min 8 (new.toNat - old.toNat : Int).natAbs ∧
      ((new.toNat - old.toNat : Int).natAbs ≤ 8 → latencyStep old new = new)) ∧
  (∀ x : Port, x.slots % 10 = 0 →
    (beginCodeword x).txLat = latencyStep x.txLat x.txMeasured ∧ (beginCodeword x).rxLat = latencyStep x.rxLat x.rxMeasured)

/-! ## Lateral taps -/

/-- R83 and R84: a marker leaves with the hall time at its start and the arrival of the last one; one that arrives names, by its arrival
time, the marker sent that is nearest, and joins the last 16 exchanges, and with 16 of them the offset is their mean; baselines are
captured on command and, both ends LOCKED for 600 s, once by themselves (an offset to capture being there, the model's choice, log 31). -/
def Obligations.LateralTaps : Prop :=
  (∀ (l : Nat) (sent : Stamp) (s : State), s.tsu.works = true → l < 96 → (s.tsu.link l).enable = true → s.tsu.tc.htValid = true →
    (∀ f, (s.tsu.link l).sentAt = some f → f + s.tsu.latPeriod.toNat * 1000 ≤ s.tsu.tc.frc.toNat) →
    ∃ t, exec (.latMarkerSend l sent) s = .next t ∧ t.fjz = s.fjz ∧
      t.out = [.marker l ⟨stampHt s .tsu sent, true, (s.tsu.link l).gotHt, s.tsu.agent.deviceId⟩] ∧
      (t.tsu.link l).sentHts = (stampHt s .tsu sent :: (s.tsu.link l).sentHts).take 16 ∧ (t.tsu.link l).sentAt = some s.tsu.tc.frc.toNat ∧
      (∀ m, m ≠ l → t.tsu.link m = s.tsu.link m)) ∧
  (∀ (l : Nat) (m : Marker) (arrival : Stamp) (sent there : HT) (s : State), s.tsu.works = true → l < 96 →
    (s.tsu.link l).enable = true → m.originValid = true → s.tsu.tc.htValid = true → m.lastArrival = some there →
    sent ∈ (s.tsu.link l).sentHts → (∀ u ∈ (s.tsu.link l).sentHts, u ≠ sent → (sent - there).toInt.natAbs < (u - there).toInt.natAbs) →
    ∃ t, exec (.latMarker l m arrival) s = .next t ∧ (t.tsu.link l).gotHt = some (stampHt s .tsu arrival) ∧
      (t.tsu.link l).last =
        (openRound (((there - sent).toInt - (stampHt s .tsu arrival - m.originHt).toInt) * 1000
          - (s.tsu.link l).asym.toInt * 65536) 131072 :: (s.tsu.link l).last).take 16 ∧
      ((t.tsu.link l).last.length = 16 → (t.tsu.link l).state = 4 ∧ (t.tsu.link l).offset = i64 (meanOf (t.tsu.link l).last) ∧
        (t.tsu.link l).drift = (t.tsu.link l).offset - (s.tsu.link l).baseline) ∧
      (∀ k, k ≠ l → t.tsu.link k = s.tsu.link k) ∧ t.fjz = s.fjz) ∧
  (∀ (q : Req) (s : State), admits .tsu q 0x3380 2 .wo [1] s = true →
    ∃ t, exec (.latBaselineCapture q 1) s = .next t ∧
      ∀ l, l < 96 → (t.tsu.link l).baseline = (s.tsu.link l).offset ∧ (t.tsu.link l).drift = 0 ∧ (t.tsu.link l).hasBaseline = true ∧
        (t.tsu.link l).offset = (s.tsu.link l).offset) ∧
  (∀ (l : Nat) (s : State), s.tsu.works = true → l < 96 → (s.tsu.link l).hasBaseline = false → (s.tsu.link l).state = 4 →
    s.tsu.tc.state = .locked → nsOf s.tsu.tc.entryHt + 600000000000 ≤ nsOf s.tsu.now →
    exec (.latBaselineAuto ⟨l, true⟩) s = .next
      (onLink l (fun x => { x with baseline := x.offset, hasBaseline := true, drift := 0 }) s.fresh))

/-- R85: a transmit time-stamp enters the queue of 64 in the order of its stamp and link, or is dropped with the overflow flag, and a pop
takes the first. -/
def Obligations.TransmitTimeStamps : Prop :=
  (∀ (l : Nat) (id : U16) (x : Stamp) (s : State), s.tsu.works = true → l < 96 → s.aheadOf (placeOf (.txTimestamp l id x)) = false →
    let e := pack 128 [(0, 16, id.toNat), (16, 7, l), (32, 64, x.frc.toNat), (96, 7, x.sub.toNat), (127, 1, 1)]
    let after (e : BitVec 128) : Nat := (fldN e 32 64 * 128 + fldN e 96 7) * 128 + fldN e 16 7
    ∃ t, exec (.txTimestamp l id x) s = .next t ∧ t.fjz = s.fjz ∧ t.tsu.links = s.tsu.links ∧
      (s.tsu.txts.length < 64 → t.tsu.txts.Perm (e :: s.tsu.txts) ∧
        ((∀ o ∈ s.tsu.txts, after o ≤ after e) → t.tsu.txts = s.tsu.txts ++ [e]) ∧
        (s.tsu.txts.Pairwise (fun a b => after a ≤ after b) → t.tsu.txts.Pairwise (fun a b => after a ≤ after b)) ∧
        t.tsu.txtsDropped = s.tsu.txtsDropped ∧ (s.tsu.txts = [] → t.tsu.intStatus = s.tsu.intStatus ||| 8)) ∧
      (64 ≤ s.tsu.txts.length → t.tsu.txts = s.tsu.txts ∧ t.tsu.txtsOverflow = true ∧
        t.tsu.txtsDropped = bump s.tsu.txtsDropped)) ∧
  (∀ (q : Req) (s : State), admitsRead .tsu q 0x3300 1 true s = true →
    exec (.txtsPop q) s = .next (answeredRead .tsu q 0x3300 1 true (bvBytes (s.tsu.txts.headD 0))
      (onTsu (fun t => { t with txts := t.txts.tail }) (taken .tsu q s)))) ∧
  (∀ (q : Req) (s : State), admits .tsu q 0x3300 4 .wo [1] s = true →
    exec (.txtsOverflowClear q 1) s = .next (answered .tsu q 0x3300 4 stOk
      (onTsu (fun t => { t with txtsOverflow := false }) (taken .tsu q s))))

/-! ## References, quality and holdover of a Fjouz chip -/

/-- R97 and R98: a candidate within a quarter of its tolerance leaves DISQUALIFIED for its wait, and the wait's last second qualifies it; the
objects of a candidate, the forced choice, and the losses that act at once. No such command touches the TSU. -/
def Obligations.CandidateStates : Prop :=
  (∀ (c : Nat) (ph fe : Int) (s : State), s.fjz.works = true → c < 10 → s.fjz.hasCand c = true → (s.fjz.cand c).typ ≠ 0 →
    (s.fjz.cand c).priority ≠ 0 → (s.fjz.cand c).received ≠ 7 → 4 * fe.natAbs ≤ 1000 * (s.fjz.cand c).freqTol.toNat →
    (s.fjz.cand c).state = .disqualified → (∀ f, (s.fjz.cand c).ppsAt = some f → s.fjz.frc.toNat ≤ f + 1000000000) →
    ∃ t, exec (.refQualify ⟨[⟨c, true, ph, fe⟩], []⟩) s = .next t ∧ t.tsu = s.tsu ∧ (t.fjz.cand c).state = .waiting ∧
      (t.fjz.cand c).wtrLeft = (s.fjz.cand c).wtr) ∧
  (∀ (c : Nat) (ph fe : Int) (symbols : List (Nat × Nat)) (s : State), s.fjz.works = true → c < 10 → s.fjz.hasCand c = true →
    (s.fjz.cand c).typ = 1 →
    (s.fjz.cand c).priority ≠ 0 → (s.fjz.cand c).sqcAssigned ≠ 7 → fe.natAbs < 1000 * (s.fjz.cand c).freqTol.toNat →
    (s.fjz.cand c).state = .waiting → (s.fjz.cand c).wtrLeft = 1 →
    ∃ t, exec (.refQualify ⟨[⟨c, true, ph, fe⟩], symbols⟩) s = .next t ∧ t.tsu = s.tsu ∧ (t.fjz.cand c).state = .qualified ∧
      (t.fjz.cand c).sqcEff = (s.fjz.cand c).sqcAssigned) ∧
  (∀ (q : Req) (c : Nat) (v : U8) (s : State), c < 10 → typeAllowed c v = true → admits .fjz q (0x4100 + c) 1 .rws [v] s = true →
    ∃ t, exec (.refType q c v) s = .next t ∧ t.tsu = s.tsu ∧ (t.fjz.cand c).typ = v ∧
      (v = 0 → (t.fjz.cand c).state = .absent ∧ (t.fjz.cand c).sqcEff = 7) ∧
      (v = 3 → (t.fjz.cand c).phaseTol = 250000 ∧ (t.fjz.cand c).freqTol = 10000) ∧
      (v = 2 → (t.fjz.cand c).phaseTol = 50000 ∧ (t.fjz.cand c).freqTol = 10000) ∧
      (v = 1 ∨ v = 4 → (t.fjz.cand c).freqTol = 2000) ∧
      (v = 5 → (t.fjz.cand c).phaseTol = 1000 ∧ (t.fjz.cand c).freqTol = 50000)) ∧
  (∀ (q : Req) (c : Nat) (v : U8) (s : State), c < 10 → admits .fjz q (0x4100 + c) 3 .rws [v] s = true →
    ∃ t, exec (.refPriority q c v) s = .next t ∧ t.tsu = s.tsu ∧ (t.fjz.cand c).priority = v ∧
      (v = 0 → (t.fjz.cand c).state = .absent)) ∧
  (∀ (q : Req) (v : U8) (s : State), admits .fjz q 0x4200 7 .rws [v] s = true →
    ∃ t, exec (.forceRef q v) s = .next t ∧ t.tsu = s.tsu ∧ t.fjz.forceRef = v) ∧
  (∀ (c : Nat) (s : State), s.fjz.works = true → c < 10 → (s.fjz.cand c).typ = 1 ∨ (s.fjz.cand c).typ = 4 →
    (s.fjz.cand c).state ≠ .absent →
    ∃ t, exec (.refClockLoss c) s = .next t ∧ t.tsu = s.tsu ∧ (t.fjz.cand c).lost = true ∧ (t.fjz.cand c).state = .disqualified ∧
      (t.fjz.cand c).sqcEff = 7) ∧
  (∀ (c : Nat) (s : State), s.fjz.works = true → c < 10 → s.fjz.hasCand c = true → (s.fjz.cand c).typ = 5 →
    (s.fjz.cand c).state ≠ .absent → bleatFresh s.fjz.frc.toNat (port s .fjz (s.fjz.candPort c)) = false →
    ∃ t, exec (.parentBleatTimeout c) s = .next t ∧ t.tsu = s.tsu ∧ (t.fjz.cand c).lost = true ∧
      (t.fjz.cand c).state = .disqualified)

/-- R99 and R101: at the end of a switch's window the target is selected and the phase error of that moment is absorbed, and a root counts
the switch; REALIGN begins to take the absorbed offset away at a root. -/
def Obligations.ReferenceSwitch : Prop :=
  (∀ (delta : Int) (w : Switch) (s : State), s.fjz.works = true → s.fjz.lock = .lock → s.fjz.switch = some w → w.freq = false →
    w.started + windowTicks (s.fjz.cand w.target) ≤ s.fjz.frc.toNat →
    ∃ t, exec (.switchWindowEnd delta) s = .next t ∧ t.tsu = s.tsu ∧ t.fjz.selTime = some w.target ∧
      (t.fjz.cand w.target).absorbed = i64 delta ∧
      t.fjz.switchSeq = (if s.fjz.role = 3 then s.fjz.switchSeq + 1 else s.fjz.switchSeq) ∧ t.fjz.htOffset = s.fjz.htOffset) ∧
  (∀ (delta : Int) (w : Switch) (s : State), s.fjz.works = true → s.fjz.lock = .lock → s.fjz.switch = some w → w.freq = true →
    w.started + 1000000000 ≤ s.fjz.frc.toNat → s.fjz.bestFreq = some w.target →
    ∃ t, exec (.switchWindowEnd delta) s = .next t ∧ t.tsu = s.tsu ∧ t.fjz.selFreq = some w.target ∧ t.fjz.selTime = s.fjz.selTime ∧
      (∀ c, (t.fjz.cand c).absorbed = (s.fjz.cand c).absorbed) ∧ t.fjz.switchSeq = s.fjz.switchSeq ∧
      t.fjz.htOffset = s.fjz.htOffset) ∧
  (∀ (q : Req) (s : State), admits .fjz q 0x4200 8 .rws [1] s = true → s.fjz.role = 3 → s.fjz.switch = none →
    exec (.realign q 1) s = .next (answered .fjz q 0x4200 8 stOk
      (onFjz (fun x => { x with realigning := true, realignFrac := 0 }) (taken .fjz q s)))) ∧
  (∀ (q : Req) (s : State), admits .fjz q 0x4200 8 .rws [1] s = true → s.fjz.role ≠ 3 ∨ s.fjz.switch ≠ none →
    exec (.realign q 1) s = .next (answered .fjz q 0x4200 8 stState (taken .fjz q s)))

/-- R103, R106 and R107: FREE_SERVE gives a chip that follows nothing its hall time; HOLD ends after HOLD_WTR_S in a bridged switch, and its
samples move the correction and the bound; the OCXO's table and ageing. -/
def Obligations.HoldoverOfAChip : Prop :=
  (∀ (q : Req) (s : State), admits .fjz q 0x4200 0x0F .rws [1] s = true → s.fjz.lock = .free → s.fjz.established = false →
    ∃ t, exec (.freeServe q 1) s = .next t ∧ t.tsu = s.tsu ∧ t.fjz.freeServe = true ∧ t.fjz.established = true ∧ t.fjz.outSqc = 6 ∧
      t.fjz.htOffset = s.fjz.freeStart - BitVec.ofNat 80 (s.fjz.frc.toNat * 65536)) ∧
  (∀ (c e f : Nat) (s : State), s.fjz.works = true → s.fjz.lock = .hold → s.fjz.markEligible.bestTime = some c → e < 10 →
    s.fjz.markEligible.eligible e = true → (s.fjz.markEligible.cand e).isTime = true →
    (s.fjz.markEligible.cand e).eligibleSince = some f → f + s.fjz.holdWtr.toNat * 1000000000 ≤ s.fjz.frc.toNat →
    s.fjz.switch = none →
    ∃ t, exec .holdWtrExpiry s = .next t ∧ t.tsu = s.tsu ∧ t.fjz.lock = .lock ∧ t.fjz.holdBound = 0 ∧
      (t.fjz.switch.map Switch.target) = some c) ∧
  (∀ (mk : I64) (s : State), s.fjz.works = true → s.fjz.lock ≠ .hold →
    exec (.holdUpdate mk) s = .next { s.fresh with
      fjz := { s.fjz with ocxoTemp := mk, temps := (mk.toInt :: s.fjz.temps).take 1000 } }) ∧
  (∀ (mk : I64) (s : State), s.fjz.works = true → s.fjz.lock = .hold →
    ∃ t, exec (.holdUpdate mk) s = .next t ∧ t.tsu = s.tsu ∧
      t.fjz.tempSum = s.fjz.tempSum + (mk.toInt - s.fjz.holdTemp.toInt).natAbs ∧
      (t.fjz.lock = .hold ∨ t.fjz.lock = .free) ∧ t.fjz.cands = s.fjz.cands) ∧
  (∀ (q : Req) (v : BitVec 320) (s : State), admits .fjz q 0x4300 1 .rws (bvBytes v) s = true → ocxoOk v = true →
    exec (.ocxoTable q v) s = .next (answered .fjz q 0x4300 1 stOk (onFjz (fun x => { x with ocxo := v }) (taken .fjz q s)))) ∧
  (∀ (f : Nat) (s : State), s.fjz.works = true → s.fjz.lock = .lock → s.fjz.lockSince = some f →
    f + 86400000000000 ≤ s.fjz.frc.toNat →
    exec .ocxoAgeingValid s = .next { s.fresh with
      fjz := { s.fjz with ocxoAgeValid := true, ocxoAge := Config.learnOcxoAgeing s.fjz.frc.toNat } })

/-- R89: PTP at a root. Sync, Follow_Up, Delay_Req and Delay_Resp complete an exchange that gives the path delay and the candidate's phase;
Announce chooses the grandmaster, whose class gives the SQC, and its silence for three intervals loses the candidate. -/
def Obligations.PtpExchange : Prop :=
  (∀ (e : Nat) (m : PtpMsg) (t2 : Stamp) (s : State), s.fjz.works = true → e < 2 → ptpFor s e m = true →
    ∃ t, exec (.ptpSync e m t2) s = .next t ∧ t.tsu = s.tsu ∧ (t.fjz.eth e).t2 = some (stampHt s .fjz t2) ∧
      (t.fjz.eth e).t1 = (if m.twoStep then none else some (htAddPs m.originHt m.corrPs)) ∧
      (t.fjz.eth e).syncSeq = (if m.twoStep then some m.seqId else none) ∧ t.fjz.cands = s.fjz.cands) ∧
  (∀ (e : Nat) (m : PtpMsg) (s : State), s.fjz.works = true → e < 2 → ptpFor s e m = true →
    (s.fjz.eth e).syncSeq = some m.seqId →
    ∃ t, exec (.ptpFollowUp e m) s = .next t ∧ t.tsu = s.tsu ∧
      (t.fjz.eth e).t1 = some (htAddPs m.originHt ((s.fjz.eth e).syncCorr + m.corrPs)) ∧ (t.fjz.eth e).syncSeq = none ∧
      (t.fjz.eth e).t2 = (s.fjz.eth e).t2) ∧
  (∀ (e : Nat) (t3 : Stamp) (s : State), s.fjz.works = true → e < 2 → s.fjz.role = 3 →
    (∀ g, (s.fjz.eth e).delayAt = some g → g + 1000000000 / 2 ^ (s.fjz.eth e).logInterval.toNat ≤ s.fjz.frc.toNat) →
    ∃ t, exec (.ptpDelayReqSend e t3) s = .next t ∧ t.tsu = s.tsu ∧
      t.out = [.delayReq e ((s.fjz.eth e).delaySeq + 1) (s.fjz.eth e).transport (s.fjz.eth e).unicast] ∧
      (t.fjz.eth e).t3 = some (stampHt s .fjz t3) ∧ (t.fjz.eth e).delaySeq = (s.fjz.eth e).delaySeq + 1) ∧
  (∀ (e : Nat) (m : PtpMsg) (t1 t2 t3 : HT) (s : State), s.fjz.works = true → e < 2 → ptpFor s e m = true →
    (s.fjz.eth e).t1 = some t1 → (s.fjz.eth e).t2 = some t2 → (s.fjz.eth e).t3 = some t3 → m.seqId = (s.fjz.eth e).delaySeq →
    ∃ t, exec (.ptpDelayResp e m) s = .next t ∧ t.tsu = s.tsu ∧
      (t.fjz.eth e).pathDelay = openRound (((t2 - t1).toInt + (htAddPs m.originHt (-m.corrPs) - t3).toInt) * 1000) 131072 ∧
      (t.fjz.cand (4 + e)).phase =
        -openRound (((t2 - t1).toInt - (htAddPs m.originHt (-m.corrPs) - t3).toInt) * 1000
          - (s.fjz.eth e).asym.toInt * 65536) 131072) ∧
  (∀ (e : Nat) (a : Announce) (s : State), s.fjz.works = true → e < 2 → s.fjz.role = 3 → a.ptpTimescale = true →
    a.domain = (s.fjz.eth e).domain → a.transport = (s.fjz.eth e).transport →
    (s.fjz.eth e).unicast = 0 ∨ a.source = (s.fjz.eth e).unicast → (s.fjz.eth e).senders = [] →
    ∃ t, exec (.ptpAnnounce e a) s = .next t ∧ t.tsu = s.tsu ∧ (t.fjz.eth e).gm = a.gm ∧
      (t.fjz.eth e).clockClass = a.clockClass ∧ (t.fjz.eth e).senders = [a] ∧
      (t.fjz.cand (4 + e)).sqcRecv = BitVec.ofNat 8 (classSqc a.clockClass) ∧ (t.fjz.cand (4 + e)).sourceId = a.gm) ∧
  (∀ (e : Nat) (s : State), s.fjz.works = true → e < 2 → s.fjz.role = 3 → (s.fjz.cand (4 + e)).state ≠ .absent →
    (∃ a ∈ (s.fjz.eth e).senders, a.gm = (s.fjz.eth e).gm) →
    (∀ a ∈ (s.fjz.eth e).senders, ∀ h ∈ (s.fjz.eth e).heardAt, h.1 = a.gm → h.2 + 3 * a.intervalNs ≤ s.fjz.frc.toNat) →
    ∃ t, exec (.ptpAnnounceTimeout e) s = .next t ∧ t.tsu = s.tsu ∧ (t.fjz.eth e).senders = [] ∧
      (t.fjz.cand (4 + e)).lost = true ∧ (t.fjz.cand (4 + e)).state = .disqualified)

/-- R90 to R92: a pulse and its message give a candidate its phase and quality, ESMC its quality, and an output in PPS_TOD mode pulses for 100 µs, its
advance before the second. -/
def Obligations.ReferenceInputsAndOutputs : Prop :=
  (∀ (c : Nat) (x : Stamp) (s : State), s.fjz.works = true → c < 4 → (s.fjz.cand c).typ = 2 → (s.fjz.cand c).ppsStamp = none →
    (s.fjz.cand c).unused < 3 →
    exec (.refPpsEdge c x) s = .next (onCand c (fun k => { k with
      ppsAt := some s.fjz.frc.toNat
      ppsStamp := some (htAddPs (stampHt s .fjz x) (-k.cableDelay.toInt)) }) s.fresh)) ∧
  (∀ (c f : Nat) (m : BitVec 184) (ht : HT) (s : State), s.fjz.works = true → c < 10 → (s.fjz.cand c).typ = 2 →
    (s.fjz.cand c).ppsAt = some f → (s.fjz.cand c).ppsStamp = some ht → todOk m = true → s.fjz.frc.toNat ≤ f + 500000000 →
    ∃ t, exec (.todMessage c m) s = .next t ∧ t.tsu = s.tsu ∧ (t.fjz.cand c).ppsStamp = none ∧ (t.fjz.cand c).unused = 0 ∧
      (t.fjz.cand c).sqcRecv = BitVec.ofNat 8 (fldN m 80 3) ∧ (t.fjz.cand c).sourceId = fld m 88 64 ∧
      (t.fjz.cand c).cross.head? = some (bitOf m 83)) ∧
  (∀ (e : Nat) (ql : BitVec 4) (s : State), s.fjz.works = true → e < 2 → s.fjz.role = 3 →
    ∃ t, exec (.esmc e ql) s = .next t ∧ t.tsu = s.tsu ∧ (t.fjz.eth e).esmcQl = ql.setWidth 8 ∧
      (t.fjz.cand (6 + e)).sqcRecv = (if ql = 2 then 0 else if ql = 4 then 2 else if ql = 8 then 4 else if ql = 11 then 6 else 7)) ∧
  (∀ (e : Nat) (s : State), s.fjz.works = true → e < 2 → s.fjz.role = 3 → (s.fjz.cand (6 + e)).typ ≠ 1 →
    (∀ f, (s.fjz.eth e).esmcAt = some f → f + 5000000000 ≤ s.fjz.frc.toNat) →
    ∃ t, exec (.esmcTimeout e) s = .next t ∧ t.tsu = s.tsu ∧ (t.fjz.cand (6 + e)).sqcRecv = 7 ∧
      ((s.fjz.cand (6 + e)).state ≠ .absent → (t.fjz.cand (6 + e)).state = .disqualified)) ∧
  (∀ (o n : Nat) (s : State), s.fjz.works = true → o < 4 → (s.fjz.outs.get {} o).mode = 2 → s.fjz.established = true →
    nsOf s.fjz.now + cdiv (s.fjz.outs.get {} o).adv.toNat 1000 = n * 1000000000 →
    ∃ t, exec (.refOutPps o) s = .next t ∧ t.tsu = s.tsu ∧
      t.fjz = { s.fjz with outs := s.fjz.outs.upd {} o fun x => { x with highUntil := s.fjz.frc.toNat + 100000 } } ∧
      ∃ m, t.out = [.refPulse o (s.fjz.outs.get {} o).adv m] ∧ fldN m 16 64 = n % 2 ^ 64 ∧ fld m 80 3 = s.fjz.outSqc.setWidth 3)

/-- R104: after reset exactly one of the four lock pins of a Fjouz chip is asserted, the one that matches LOCK_STATE; a switch, bridged or
not, begins and ends with FJZ_LOCK asserted. -/
def Obligations.ExactlyOneLockPin : Prop :=
  ∀ x : Fjz, x.rstN = true →
    (∀ l : LockState, fjzPin x l = true ↔ x.lock = l) ∧
      ([LockState.free, .acq, .lock, .hold].filter (fjzPin x)).length = 1 ∧
      (x.lock = .lock →
        (∀ (c : Nat) (freq : Bool), fjzPin (x.startSwitch c freq) .lock = true) ∧
          ∀ (w : Switch) (delta : Int), fjzPin (endSwitch w delta x) .lock = true)

/-! ## BLEAT and the die's planes -/

/-- R93, R94 and R113: a BLEAT leaves at its codeword; the first good one gives a die its hall time and leads to ACQUIRE; and a plane without a
BLEAT for four periods is lost, which in NARROW with no other plane leads to FREE_RUN and makes the die a fawn. -/
def Obligations.BleatGivesAndKeepsTime : Prop :=
  (∀ (d : Dev) (p : Nat) (s : State), portOk d p = true → partWorks s d = true → (port s d p).state = .up →
    (port s d p).slots / 10 % 1024 = (if isChildSide s d p then 768 else 256) →
    exec (.bleatSend d p) s = .next (onPort d p (fun x => { x with
      txq := x.txq ++ [{ cell := mkCell 4 0 7 (bleatBody s d p), ready := counterOf s d }] }) s.fresh)) ∧
  (∀ (p : Nat) (c : Cell) (x : Stamp) (s : State), p < 2 → s.tsu.works = true → arrives .tsu p 4 c s = true →
    bleatUp c.body = false → s.tsu.tc.state = .unset → bleatOk c.body = true → bleatSqc c.body < 7 →
    s.tsu.configured (if p = 0 then .a else .b) = true →
    ∃ t, exec (.bleat .tsu p c x) s = .next t ∧ t.fjz = s.fjz ∧ t.tsu.tc.state = .acquire ∧ t.tsu.tc.htValid = true ∧
      t.tsu.tc.selPlane = some (if p = 0 then .a else .b) ∧
      t.tsu.tc.offset = bleatArrival (port s .tsu p) (bleatHt c.body)
        - htAddPs (BitVec.ofNat 80 (x.frc.toNat * 65536)) (8 * x.sub.toNat) ∧
      t.tsu.tc.rate = s.tsu.tc.rate ∧ (port t .tsu p).lastBleat = some (s.tsu.tc.frc.toNat, c.body)) ∧
  (∀ (pl : Plane) (s : State), s.tsu.works = true → s.tsu.tc.state = .narrow → s.tsu.tc.selPlane = some pl →
    bleatFresh s.tsu.tc.frc.toNat (port s .tsu (planePort pl)) = false → planeLost s (otherPlane pl) = true →
    ∃ t, exec (.bleatTimeout pl) s = .next t ∧ t.tsu.tc.state = .freeRun ∧ t.tsu.tc.selPlane = none ∧ t.tsu.fawn = true ∧
      t.tsu.tc.offset = s.tsu.tc.offset ∧ t.tsu.tc.rate = s.tsu.tc.rate ∧ t.fjz = s.fjz)

/-- R113 to R116 and R351: the choice of plane. A better plane is followed after PLANE_WTR_S, a forced one at once if it is not lost; in LOCKED the
offset of the planes is carried, never stepped; the drift check counts its seconds; and PLANE_CONFIG needs every context FREE. -/
def Obligations.ChoiceOfPlane : Prop :=
  (∀ (pl : Plane) (f : Nat) (s : State), s.tsu.works = true → s.tsu.tc.state = .locked → s.tsu.tc.selPlane = some pl →
    s.tsu.tc.forcePlane = 0 → planeLost s (otherPlane pl) = false → s.tsu.tc.effSqc (otherPlane pl) < s.tsu.tc.effSqc pl →
    s.tsu.tc.betterSince = some f → f + s.tsu.tc.planeWtrS.toNat * 1000000000 ≤ s.tsu.tc.frc.toNat → s.tsu.tc.demoted pl = false →
    exec .planeWtrExpiry s = .next (onTc (fun tc => { tc with
      selPlane := some (otherPlane pl), betterSince := none, thetas := [], calib := [], carried := tc.planeOffset, carriedFrac := 0,
      released := false, planeOffset := 0, planeDrift := 0, offsetAtSwitch := some 0 }) s.fresh)) ∧
  (∀ (q : Req) (v : U8) (s : State), admits .tsu q 0x4800 4 .rws [v] s = true → v.toNat ≤ 2 →
    (v = 1 → s.tsu.configured .a = true) → (v = 2 → s.tsu.configured .b = true) →
    ∃ t, exec (.forcePlane q v) s = .next t ∧ t.tsu.tc.forcePlane = v ∧ t.fjz = s.fjz ∧
      (s.tsu.tc.state = .locked → s.tsu.tc.selPlane.isSome = true → v = 1 → planeLost s .a = false →
        t.tsu.tc.selPlane = some .a ∧ t.tsu.tc.offset = s.tsu.tc.offset ∧ t.tsu.tc.rate = s.tsu.tc.rate)) ∧
  (∀ s : State, s.tsu.works = true → s.tsu.tc.state = .locked → bothPlanes s = false →
    exec .planeDriftCheck s = .next (onTsu takeMedian s.fresh)) ∧
  (∀ s : State, s.tsu.works = true → s.tsu.tc.state = .locked → bothPlanes s = true → s.tsu.tc.driftHigh < 9 →
    s.tsu.tc.driftLow < 59 →
    ∃ t, exec .planeDriftCheck s = .next t ∧ t.tsu.errs = s.tsu.errs ∧ t.fjz = s.fjz ∧
      t.tsu.tc.driftHigh = (if s.tsu.tc.driftDemote.toNat ≤ s.tsu.tc.planeDrift.toInt.natAbs then s.tsu.tc.driftHigh + 1 else 0) ∧
      t.tsu.tc.driftLow = (if 2 * s.tsu.tc.planeDrift.toInt.natAbs ≤ s.tsu.tc.driftDemote.toNat then s.tsu.tc.driftLow + 1 else 0) ∧
      t.tsu.tc.demotedA = s.tsu.tc.demotedA ∧ t.tsu.tc.demotedB = s.tsu.tc.demotedB ∧ t.tsu.tc.offset = s.tsu.tc.offset) ∧
  (∀ (q : Req) (s : State), admits .tsu q 0x4800 8 .wo [1] s = true →
    exec (.planeOffsetRelease q 1) s = .next (answered .tsu q 0x4800 8 stOk
      (onTc (fun tc => { tc with released := true }) (taken .tsu q s)))) ∧
  (∀ (q : Req) (v : U8) (s : State), admits .tsu q 0x4800 0x0A .rws [v] s = true → v.toNat ≤ 2 →
    (s.tsu.allFree = false → exec (.planeConfig q v) s = .next (answered .tsu q 0x4800 0x0A stState (taken .tsu q s))) ∧
    (s.tsu.allFree = true → s.tsu.phase = .run → (port s .tsu 0).state = .disabled → (port s .tsu 1).state = .disabled →
      ∃ t, exec (.planeConfig q v) s = .next t ∧ t.tsu.tc.planeConfig = v ∧ t.fjz = s.fjz ∧
        ((port t .tsu 0).state = .disabled ↔ ((port s .tsu 0).enable = false ∨ v = 2)) ∧
        ((port t .tsu 1).state = .disabled ↔ ((port s .tsu 1).enable = false ∨ v = 1))))

/-! ## The pronk -/

/-- R143 to R145: PRONK_REQUEST at the top of the tree, the ACK counts that a chip keeps, the origin's decision on them, its commit
deadline, and a cell on its way down. No such command touches the TSU. -/
def Obligations.PronkOnTheTree : Prop :=
  (∀ (q : Req) (v : BitVec 256) (s : State), let w := withPhase phArm v
    admits .fjz q 0x5900 1 .wo (bvBytes w) s = true →
    (requestReady w s = false → exec (.pronkRequestArm q v) s = .next (answered .fjz q 0x5900 1 stState (taken .fjz q s))) ∧
    (requestReady w s = true → requestRange w s = false →
      exec (.pronkRequestArm q v) s = .next (answered .fjz q 0x5900 1 stRange (taken .fjz q s))) ∧
    (requestReady w s = true → requestRange w s = true →
      ∃ t, exec (.pronkRequestArm q v) s = .next t ∧ t.tsu = s.tsu ∧ t.fjz.pronkHerd = some (qHerdId w) ∧
        (t.fjz.pronk (qHerdId w)).phase = 0 ∧ (t.fjz.pronk (qHerdId w)).origin = true ∧
        (t.fjz.pronk (qHerdId w)).seq = qSeq w ∧ (t.fjz.pronk (qHerdId w)).fireHt = qFire w ∧
        (t.fjz.pronk (qHerdId w)).memberCount = qMembers w ∧ (t.fjz.pronk (qHerdId w)).readySum = 0 ∧
        (t.fjz.pronk (qHerdId w)).refusedSum = 0 ∧ (t.fjz.pronk (qHerdId w)).accepted = some (qSeq w))) ∧
  (∀ (q : Req) (v : BitVec 256) (s : State), let w := withPhase phStep v
    admits .fjz q 0x5900 1 .wo (bvBytes w) s = true → requestReady w s = true → requestRange w s = true →
    ∃ t, exec (.pronkRequestStep q v) s = .next t ∧ t.tsu = s.tsu ∧ (t.fjz.pronk (qHerdId w)).phase = 4 ∧
      (t.fjz.pronk (qHerdId w)).seq = qSeq w ∧ (t.fjz.pronk (qHerdId w)).origin = false) ∧
  (∀ (q : Req) (v : BitVec 256) (s : State), let w := withPhase phCancel v
    admits .fjz q 0x5900 1 .wo (bvBytes w) s = true → requestReady w s = true →
    ∃ t, exec (.pronkCancel q v) s = .next t ∧ t.tsu = s.tsu ∧ (t.fjz.pronk (qHerdId w)).phase = 3 ∧
      (t.fjz.pronk (qHerdId w)).origin = false ∧ (t.fjz.pronk (qHerdId w)).seq = (s.fjz.pronk (qHerdId w)).seq) ∧
  (∀ (p : Nat) (c : Cell) (s : State), p < 72 → s.fjz.works = true → arrives .fjz p 5 c s = true → kPhase c = 1 →
    isChildSide s .fjz p = false → s.fjz.holdsHerd (kHerd c) = true → (s.fjz.pronk (kHerd c)).seq = kSeq c →
    (s.fjz.pronk (kHerd c)).origin = true →
    let k := s.fjz.pronk (kHerd c)
    let k' := { k with ready := k.ready.set 0 p (kReady c), refused := k.refused.set 0 p (kRefused c) }
    ∃ t, exec (.pronkAck p c) s = .next t ∧ t.tsu = s.tsu ∧ (t.fjz.pronk (kHerd c)).ready = k'.ready ∧
      (t.fjz.pronk (kHerd c)).refused = k'.refused ∧
      (0 < k'.refusedSum → (t.fjz.pronk (kHerd c)).phase = 3 ∧ (t.fjz.pronk (kHerd c)).origin = false) ∧
      (k'.refusedSum = 0 → k'.readySum = k.memberCount.toNat →
        (t.fjz.pronk (kHerd c)).phase = 2 ∧ (t.fjz.pronk (kHerd c)).origin = false) ∧
      (k'.refusedSum = 0 → k'.readySum ≠ k.memberCount.toNat → t.fjz.pronk (kHerd c) = k')) ∧
  (∀ (herd : BitVec 24) (s : State), s.fjz.works = true → (s.fjz.pronk herd).origin = true → (s.fjz.pronk herd).refusedSum = 0 →
    (s.fjz.pronk herd).fireHt.toNat ≤ s.fjz.now.toNat + s.fjz.commitLead.toNat * 65536 →
    ∃ t, exec (.pronkCommitDeadline herd) s = .next t ∧ t.tsu = s.tsu ∧ (t.fjz.pronk herd).phase = 2 ∧
      (t.fjz.pronk herd).origin = false) ∧
  (∀ (herd : BitVec 24) (s : State), s.fjz.works = true → s.fjz.holdsHerd herd = true → s.fjz.isTop herd = false →
    (s.fjz.pronk herd).sentAt = none → ((s.fjz.pronk herd).readySum, (s.fjz.pronk herd).refusedSum) ≠ (s.fjz.pronk herd).sent →
    ∃ t, exec (.pronkCountSend herd) s = .next t ∧ t.tsu = s.tsu ∧
      (t.fjz.pronk herd).sent = ((s.fjz.pronk herd).readySum, (s.fjz.pronk herd).refusedSum) ∧
      (t.fjz.pronk herd).sentAt = some s.fjz.frc.toNat) ∧
  (∀ (p : Nat) (c : Cell) (s : State), p < 72 → s.fjz.works = true → arrives .fjz p 5 c s = true →
    s.fjz.parentPort = some p → s.fjz.holdsHerd (kHerd c) = true → kPhase c = 0 ∨ kPhase c = 4 →
    ∃ t, exec (.pronkForward p c) s = .next t ∧ t.tsu = s.tsu ∧ (t.fjz.pronk (kHerd c)).seq = kSeq c ∧
      (t.fjz.pronk (kHerd c)).readySum = 0 ∧ (t.fjz.pronk (kHerd c)).refusedSum = 0 ∧ (t.fjz.pronk (kHerd c)).origin = false ∧
      ∀ p' ∈ s.fjz.pronkPorts (kHerd c) (kTemplate c), queued .fjz p' c true s t)

/-- R144, R146 to R148 and R136: a die's context takes ARM, COMMIT and ABORT, decides 2,000 ns before T, fires on the tick of T, and
a STEP pronk releases descriptors, or comes too late. -/
def Obligations.PronkAtTheDie : Prop :=
  (∀ (p h : Nat) (c : Cell) (s : State), p < 2 → s.tsu.works = true → arrives .tsu p 5 c s = true → kPhase c = 0 →
    s.tsu.tc.state ≠ .replayPinned → s.tsu.ctxOf (kHerd c) = some h → (s.tsu.herd h).seqLast.toNat < (kSeq c).toNat →
    (s.tsu.herd h).state ≠ .committed → (s.tsu.herd h).hasActed c = false →
    (armCause s.tsu h c = 0 →
      ∃ t, exec (.pronkArm p c) s = .next t ∧ sameBeyond h s t ∧ (t.tsu.herd h).state = .armed ∧
        (t.tsu.herd h).fireHt = kFire c ∧ (t.tsu.herd h).startStep = BitVec.ofNat 32 (kStart c) ∧
        (t.tsu.herd h).seqLast = kSeq c ∧ (t.tsu.herd h).abort = none ∧ (t.tsu.herd h).halt = none ∧
        (t.tsu.herd h).before = (if (s.tsu.herd h).state = .armed then (s.tsu.herd h).before else (s.tsu.herd h).state) ∧
        ∀ p', p' < 2 → queued .tsu p' (mkPronk s.tsu.agent.deviceId.toNat phAck (kHerd c) (kSeq c) (kFire c) (kEpoch c)
          (kTemplate c) [(196, 24, 1), (220, 24, 0), (252, 8, 0)]) false s t) ∧
    (1 < armCause s.tsu h c →
      ∃ t, exec (.pronkArm p c) s = .next t ∧ sameBeyond h s t ∧ (t.tsu.herd h).seqLast = kSeq c ∧
        (t.tsu.herd h).state = (if (s.tsu.herd h).state = .armed then (s.tsu.herd h).before else (s.tsu.herd h).state)) ∧
    (armCause s.tsu h c = 1 →
      ∃ t, exec (.pronkArm p c) s = .next t ∧ sameBeyond h s t ∧ (t.tsu.herd h).hasActed c = true ∧
        (t.tsu.herd h).seqLast = (s.tsu.herd h).seqLast ∧ (t.tsu.herd h).state = (s.tsu.herd h).state)) ∧
  (∀ (p h : Nat) (c : Cell) (s : State), p < 2 → s.tsu.works = true → arrives .tsu p 5 c s = true →
    s.tsu.tc.state ≠ .replayPinned → s.tsu.ctxOf (kHerd c) = some h →
    (s.tsu.herd h).state = .armed ∨ (s.tsu.herd h).state = .committed → kSeq c = (s.tsu.herd h).seqLast →
    (s.tsu.herd h).hasActed c = false → (s.tsu.herd h).decidedSeq ≠ some (kSeq c) →
    (kPhase c = 2 → ∃ t, exec (.pronkCommit p c) s = .next t ∧ sameBeyond h s t ∧ (t.tsu.herd h).state = .committed ∧
      (t.tsu.herd h).abort = (s.tsu.herd h).abort ∧ (t.tsu.herd h).fireHt = (s.tsu.herd h).fireHt) ∧
    (kPhase c = 3 → ∃ t, exec (.pronkAbort p c) s = .next t ∧ sameBeyond h s t ∧ (t.tsu.herd h).abort = some (kCause c) ∧
      (t.tsu.herd h).state = (s.tsu.herd h).state)) ∧
  (∀ (p : Nat) (c : Cell) (s : State), p < 2 → s.tsu.works = true → arrives .tsu p 5 c s = true → kPhase c = 2 →
    s.tsu.ctxOf (kHerd c) = none ∨ s.tsu.tc.state = .replayPinned →
    exec (.pronkCommit p c) s = .next (onTsu (fun t => { t with pronkDiscards := bump t.pronkDiscards }) (received .tsu p c s))) ∧
  (∀ (h : Nat) (s : State), s.tsu.works = true → h < 64 → s.aheadOf (inPhase 1 (100 + h)) = false → (s.tsu.herd h).decidedSeq = none →
    reached s.tsu.tc (s.tsu.herd h).decideTick = true →
    ((s.tsu.herd h).state = .committed → (s.tsu.herd h).abort = none → exec (.pronkDecision h) s = .next
      (onHerd h (fun x => { x with decidedSeq := some x.seqLast, fires := true }) s.fresh)) ∧
    ((s.tsu.herd h).state = .armed ∨ ((s.tsu.herd h).state = .committed ∧ (s.tsu.herd h).abort ≠ none) →
      ∃ t, exec (.pronkDecision h) s = .next t ∧ sameBeyond h s t ∧ (t.tsu.herd h).state = (s.tsu.herd h).before ∧
        (t.tsu.herd h).decidedSeq = some (s.tsu.herd h).seqLast ∧ (t.tsu.herd h).fires = false ∧
        (∀ f, (s.tsu.herd h).fireTick = some f →
          (t.tsu.herd h).zeroAt = some (f, (s.tsu.herd h).fireHt, (s.tsu.herd h).seqLast)) ∧
        (t.tsu.herd h).lastFault = (if (s.tsu.herd h).abort = none then 0x0509 else 0x050A))) ∧
  (∀ (h : Nat) (s : State), s.tsu.works = true → h < 64 → s.aheadOf (inPhase 1 (200 + h)) = false →
    (s.tsu.herd h).state = .committed → (s.tsu.herd h).fires = true →
    reached s.tsu.tc (s.tsu.herd h).fireTick = true → (s.tsu.herd h).zeroAt = none →
    ∃ t, exec (.pronkFire h) s = .next t ∧ sameBeyond h s t ∧ (t.tsu.herd h).state = .running ∧
      (t.tsu.herd h).base = (s.tsu.herd h).fireHt ∧ (t.tsu.herd h).iter = 0 ∧ (t.tsu.herd h).cur = (s.tsu.herd h).startStep ∧
      (t.tsu.herd h).bnum = 0 ∧ (t.tsu.herd h).started = false ∧
      ((s.tsu.herd h).startTine ∈ s.tsu.partsOf h → ptStart (s.tsu.part (s.tsu.herd h).startTine).entry = true →
        (t.tsu.part (s.tsu.herd h).startTine).a = (s.tsu.herd h).seqLast.setWidth 16 ∧
        (t.tsu.part (s.tsu.herd h).startTine).d = (s.tsu.herd h).seqLast.setWidth 16 - 1 ∧
        (t.tsu.part (s.tsu.herd h).startTine).run = (s.tsu.herd h).seqLast.setWidth 8)) ∧
  (∀ (h : Nat) (z : Nat × HT × U32) (s : State), s.tsu.works = true → h < 64 → s.aheadOf (inPhase 1 (200 + h)) = false →
    (s.tsu.herd h).state ≠ .committed →
    (s.tsu.herd h).zeroAt = some z → z.1 ≤ s.tsu.tc.frc.toNat →
    ∃ t, exec (.pronkFire h) s = .next t ∧ sameBeyond h s t ∧ (t.tsu.herd h).zeroAt = none ∧
      (t.tsu.herd h).state = (s.tsu.herd h).state) ∧
  (∀ (p h : Nat) (c : Cell) (s : State), p < 2 → s.tsu.works = true → arrives .tsu p 5 c s = true → kPhase c = 4 →
    s.tsu.tc.state ≠ .replayPinned → s.tsu.ctxOf (kHerd c) = some h → (s.tsu.herd h).seqLast.toNat < (kSeq c).toNat →
    (s.tsu.herd h).state = .running → (s.tsu.herd h).mode = 2 →
    let late := decide (tickOf s.tsu.tc (kFire c - htOfNs 2000) < s.tsu.tc.frc.toNat)
    ∃ t, exec (.pronkStep p c) s = .next t ∧ sameBeyond h s t ∧ (t.tsu.herd h).seqLast = kSeq c ∧
      (t.tsu.herd h).releases = (s.tsu.herd h).releases ++ (if late = true then [] else [(kFire c, kCount c)]) ∧
      (t.tsu.herd h).stepDeadline = (if late = true then some (kFire c, kSeq c) else (s.tsu.herd h).stepDeadline)) ∧
  (∀ (h : Nat) (d : HT × U32) (s : State), s.tsu.works = true → h < 64 → (s.tsu.herd h).stepDeadline = some d →
    ∃ t, exec (.stepReleaseDeadline h) s = .next t ∧ sameBeyond h s t ∧ (t.tsu.herd h).stepDeadline = none ∧
      (t.tsu.herd h).lastFault = 0x0509 ∧ t.tsu.errs.total = bump s.tsu.errs.total)

/-! ## The step sequencer -/

/-- R122, R127, R129, R137, R149 and R54: a descriptor that is due at its boundary. A LAUNCH gives its token to every region of its mask and
goes on at NEXT; NOP goes on; LOOP begins the next iteration while its group lives and ITER_LIMIT allows, else goes to ALT; END leads to
DONE; a die that is to depart is LEFT in its place; a halting die passes descriptors without launching, and is HALTED at H. -/
def Obligations.DescriptorsAtTheirBoundaries : Prop :=
  (∀ (h : Nat) (rccs : List (BitVec 48)) (ecc : Ecc) (a : Ahead) (s : State), s.tsu.works = true → h < 64 →
    s.aheadOf (inPhase 6 h) = false → ecc.uncorrectable.contains (.desc a.step) = false →
    let u := atBoundary ecc s
    let d := u.tsu.desc a.step
    let x := u.tsu.herd h
    x.ahead.head? = some a → due u.tsu h = .go → dType d = typeLaunch →
    ∃ t, exec (.stepLaunch h rccs ecc) s = .next t ∧ t.fjz = s.fjz ∧ t.tsu.tc = s.tsu.tc ∧ (t.tsu.herd h).state = .running ∧
      t.tsu.bounds = u.tsu.bounds ++ [⟨h, a.step, a.grid, x.iter.toNat, true, none⟩] ∧ (t.tsu.herd h).iter = x.iter ∧
      (t.tsu.herd h).cur = BitVec.ofNat 32 (dNext d) ∧
      (t.tsu.herd h).base = (if dRebase d then x.base + htOfNs (dOffset d) else x.base) ∧
      (dSwap d ≠ 1 ∨ x.swap = .planned → ∀ i r, (regionsOf (dMask d))[i]? = some r →
        (t.tsu.region r).launched =
          (u.tsu.region r).launched ++ [⟨h, a.step, x.iter.toNat, s.tsu.tc.frc.toNat, rccs.getD i 0, true⟩] ∧
        (outFree r oLaunch u = true → Out.launch r (dEntry d) h ∈ t.out) ∧
        (outFree r oLaunch u = false → (t.tsu.region r).outWait = (u.tsu.region r).outWait ++ [(oLaunch, .launch r (dEntry d) h)]))) ∧
  (∀ (h : Nat) (ecc : Ecc) (a : Ahead) (s : State), s.tsu.works = true → h < 64 → s.aheadOf (inPhase 6 h) = false →
    ecc.uncorrectable.contains (.desc a.step) = false →
    let u := atBoundary ecc s
    let d := u.tsu.desc a.step
    let x := u.tsu.herd h
    x.ahead.head? = some a → due u.tsu h = .go → dType d = typeNop →
    ∃ t, exec (.stepNop h ecc) s = .next t ∧ t.fjz = s.fjz ∧ t.tsu.tc = s.tsu.tc ∧ (t.tsu.herd h).state = .running ∧
      t.tsu.bounds = u.tsu.bounds ++ [⟨h, a.step, a.grid, x.iter.toNat, true, none⟩] ∧ (t.tsu.herd h).iter = x.iter ∧
      (t.tsu.herd h).cur = BitVec.ofNat 32 (dNext d) ∧
      (t.tsu.herd h).base = (if dRebase d then x.base + htOfNs (dOffset d) else x.base) ∧
      ∀ r, (t.tsu.region r).launched = (u.tsu.region r).launched) ∧
  (∀ (h : Nat) (ecc : Ecc) (a : Ahead) (s : State), s.tsu.works = true → h < 64 → s.aheadOf (inPhase 6 h) = false →
    ecc.uncorrectable.contains (.desc a.step) = false →
    let u := atBoundary ecc s
    let d := u.tsu.desc a.step
    let x := u.tsu.herd h
    x.ahead.head? = some a → due u.tsu h = .go → dType d = typeLoop → dGroup d = 15 ∨ badInGroup u.tsu h (dGroup d) = none →
    ∃ t, exec (.stepLoop h ecc) s = .next t ∧ t.fjz = s.fjz ∧ t.tsu.tc = s.tsu.tc ∧ (t.tsu.herd h).state = .running ∧
      ((dGroup d = 15 ∨ groupLives u.tsu h (dGroup d) = true) ∧ x.iter.toNat + 1 < x.iterLimit.toNat →
        (t.tsu.herd h).iter = x.iter + 1 ∧ (t.tsu.herd h).cur = BitVec.ofNat 32 (dNext d) ∧
        (t.tsu.herd h).base = (if dRebase d then x.base + htOfNs (dOffset d) else x.base + htOfNs (dPeriod d))) ∧
      (¬((dGroup d = 15 ∨ groupLives u.tsu h (dGroup d) = true) ∧ x.iter.toNat + 1 < x.iterLimit.toNat) →
        (t.tsu.herd h).iter = x.iter ∧ (t.tsu.herd h).cur = BitVec.ofNat 32 (dAlt d) ∧
        (t.tsu.herd h).base = (if dRebase d then x.base + htOfNs (dOffset d) else x.base)) ∧
      ∀ r, (t.tsu.region r).launched = (u.tsu.region r).launched) ∧
  (∀ (h : Nat) (ecc : Ecc) (a : Ahead) (s : State), s.tsu.works = true → h < 64 → s.aheadOf (inPhase 6 h) = false →
    ecc.uncorrectable.contains (.desc a.step) = false →
    let u := atBoundary ecc s
    (u.tsu.herd h).ahead.head? = some a → due u.tsu h = .go → dType (u.tsu.desc a.step) = typeEnd →
    ∃ t, exec (.stepEnd h ecc) s = .next t ∧ t.fjz = s.fjz ∧ t.tsu.tc = s.tsu.tc ∧ (t.tsu.herd h).state = .done ∧
      t.tsu.ended = u.tsu.ended ++ [(h, true)] ∧ ∀ r, (t.tsu.region r).launched = (u.tsu.region r).launched) ∧
  (∀ (h cause : Nat) (ecc : Ecc) (a : Ahead) (s : State), s.tsu.works = true → h < 64 → s.aheadOf (inPhase 6 h) = false →
    let u := atBoundary ecc s
    (u.tsu.herd h).ahead.head? = some a → due u.tsu h = .leaves cause → dType (u.tsu.desc a.step) = typeNop →
    ∃ t, exec (.stepNop h ecc) s = .next t ∧ t.fjz = s.fjz ∧ t.tsu.tc = s.tsu.tc ∧ (t.tsu.herd h).state = .left) ∧
  (∀ (h : Nat) (a : Ahead) (s : State), s.tsu.works = true → h < 64 → s.aheadOf (inPhase 6 h) = false →
    let u := atPhase4 s
    let d := u.tsu.desc a.step
    let x := u.tsu.herd h
    x.ahead.head? = some a →
    (due u.tsu h = .halted → ∃ t, exec (.descriptorPass h) s = .next t ∧ t.fjz = s.fjz ∧ t.tsu.tc = s.tsu.tc ∧
      (t.tsu.herd h).state = .halted ∧
      (t.tsu.herd h).haltPoint = (if x.haltLate then a.grid else x.halt.getD a.grid)) ∧
    (due u.tsu h = .silent → ∃ t, exec (.descriptorPass h) s = .next t ∧ t.fjz = s.fjz ∧ t.tsu.tc = s.tsu.tc ∧
      t.tsu.regions = u.tsu.regions ∧
      (dType d = typeLaunch ∨ dType d = typeNop → (t.tsu.herd h).state = .running ∧
        t.tsu.bounds = u.tsu.bounds ++ [⟨h, a.step, a.grid, x.iter.toNat, false, none⟩] ∧
        (t.tsu.herd h).cur = BitVec.ofNat 32 (dNext d))))

/-- R131 and R45: a done token ends the oldest launch of its context on the region, with a snapshot; the last one of a step moves the
counter that DONE_SIGNAL names by 1; one that answers no launch changes nothing. -/
def Obligations.RegionsReturnDone : Prop :=
  ∀ (region h : Nat) (abandoned : Bool) (rcc : BitVec 48) (s : State), s.tsu.works = true → h < 64 → region < 52 →
    tokenNext (inPhase 3 0) region qDone s = true →
    ((s.tsu.region region).oldest h = none → exec (.regionDone region h abandoned rcc) s = .next (tookToken region qDone s)) ∧
    (∀ l, (s.tsu.region region).oldest h = some l →
      ∃ t, exec (.regionDone region h abandoned rcc) s = .next t ∧ t.fjz = s.fjz ∧ t.tsu.tc = s.tsu.tc ∧
        (t.tsu.region region).launched = (s.tsu.region region).launched.erase l ∧
        fld (t.tsu.region region).snap 64 48 = rcc ∧ fldN (t.tsu.region region).snap 124 4 = 2 ∧
        (t.tsu.region region).bias =
          (if (s.tsu.region region).launched.erase l = [] then s.tsu.marginBias else (s.tsu.region region).bias) ∧
        (∀ m, m ≠ region → t.tsu.region m = s.tsu.region m) ∧
        ∀ r n, (s.tsu.herd h).steps.find? (fun r => decide (r.step = l.step ∧ r.fl = l.fl ∧ r.left.getLsbD region)) = some r →
          putBit r.left region false = 0 → r.dead = false → abandoned = false → dDone (s.tsu.desc l.step) = n → n ≠ 0xFFFF →
          (s.tsu.counter n).bad = false → (s.tsu.counter n).timedOut = false →
          (t.tsu.counter n).value = (s.tsu.counter n).value + 1)

/-- R133 to R135 and Table 5.4: in FREE_GRID a step past its done deadline, or a gate that did not hold when it was evaluated, and in the
other modes a counter or event gate past its timeout, halt the herd with their record; without such a fault the command changes nothing
beyond phase 4. -/
def Obligations.SequencerFaultsHaltTheHerd : Prop :=
  (∀ (h step : Nat) (r : RunStep) (s : State), s.tsu.works = true → h < 64 → s.aheadOf (inPhase 4 h) = false → freeGrid s.tsu (s.tsu.herd h) = true →
    (s.tsu.herd h).steps.find? (fun r => decide (r.step = step) && overrun s.tsu r) = some r → (s.tsu.herd h).state = .running →
    (s.tsu.herd h).selfFault = false →
    ∃ t, exec (.stepOverrun h step) s = .next t ∧ haltsBy h 0x0501 s t) ∧
  (∀ (h step : Nat) (r : RunStep) (s : State), s.tsu.works = true → h < 64 → s.aheadOf (inPhase 4 h) = false → freeGrid s.tsu (s.tsu.herd h) = true →
    (s.tsu.herd h).steps.find? (fun r => decide (r.step = step) && overrun s.tsu r) = some r → (s.tsu.herd h).state ≠ .running →
    (s.tsu.herd h).selfFault = false →
    ∃ t, exec (.stepOverrun h step) s = .next t ∧ sameBeyond h s t ∧ (t.tsu.herd h).lastFault = 0x0501 ∧
      (t.tsu.herd h).state = (s.tsu.herd h).state ∧ t.tsu.errs.total = bump s.tsu.errs.total) ∧
  (∀ (h step : Nat) (s : State), s.tsu.works = true → h < 64 → s.aheadOf (inPhase 4 h) = false →
    (s.tsu.herd h).steps.find? (fun r => decide (r.step = step) && overrun s.tsu r) = none →
    exec (.stepOverrun h step) s = .next s.fresh) ∧
  (∀ (h : Nat) (a : Ahead) (s : State), s.tsu.works = true → h < 64 → s.aheadOf (inPhase 5 (8192 + h)) = false →
    let u := atPhase4 s
    freeGrid u.tsu (u.tsu.herd h) = true → a ∈ (u.tsu.herd h).ahead → a.path = [] → a.since ≠ none →
    (failedGate u.tsu a).isNone = true → (openGate u.tsu a fun _ => true).isSome = true →
    (u.tsu.herd h).state = .running → (u.tsu.herd h).selfFault = false →
    ∃ t, exec (.gateMissed h) s = .next t ∧ haltsBy h 0x0502 u t) ∧
  (∀ (h : Nat) (a : Ahead) (s : State), s.tsu.works = true → h < 64 → s.aheadOf (inPhase 5 (8192 + h)) = false →
    let u := atPhase4 s
    (u.tsu.herd h).mode ≠ 0 → u.tsu.replayStrict = false → a ∈ (u.tsu.herd h).ahead → a.path = [] → reached u.tsu.tc a.outTick = true →
    (openGate u.tsu a timedGate).isSome = true → (u.tsu.herd h).state = .running → (u.tsu.herd h).selfFault = false →
    ∃ t, exec (.gateTimeout h) s = .next t ∧ haltsBy h 0x0503 u t) ∧
  (∀ (h : Nat) (s : State), s.tsu.works = true → h < 64 → s.aheadOf (inPhase 5 (8192 + h)) = false →
    (atPhase4 s).tsu.herd h = {} →
    exec (.gateMissed h) s = .next (atPhase4 s) ∧ exec (.gateTimeout h) s = .next (atPhase4 s))

/-! ## Loading -/

/-- R150 to R152 and Table 5.11: LOAD_COMMIT loads the context whole or leaves it with the refusal in LOAD_STATUS; UNLOAD releases a context at
rest; a descriptor is written while no loaded context holds it. -/
def Obligations.LoadAndUnload : Prop :=
  (∀ (q : Req) (h : Nat) (s : State), h < 64 → admits .tsu q (0x5100 + h) 0x16 .wo [1] s = true →
    (∀ f, admission (taken .tsu q s) h (secureReq q) = some f →
      exec (.loadCommit q h 1) s = .next (answered .tsu q (0x5100 + h) 0x16 stOk
        (onHerd h (fun x => { x with loadStatus := loadStatusOf s.tsu.agent.deviceId f }) (taken .tsu q s)))) ∧
    (admission (taken .tsu q s) h (secureReq q) = none →
      ∃ t, exec (.loadCommit q h 1) s = .next t ∧ sameBeyond h s t ∧ (t.tsu.herd h).state = .loaded ∧
        (t.tsu.herd h).loadStatus = loadStatusOf s.tsu.agent.deviceId { code := 0 } ∧
        (t.tsu.herd h).decl = (s.tsu.herd h).decl ∧ (t.tsu.herd h).halt = none ∧
        (∀ n, inRange n (s.tsu.herd h).syncFirst (s.tsu.herd h).syncCount = true → t.tsu.counter n = {}) ∧
        (∀ n, inRange n (s.tsu.herd h).eventFirst (s.tsu.herd h).eventCount = true → t.tsu.event n = {}) ∧
        (∀ n, inRange n (s.tsu.herd h).syncFirst (s.tsu.herd h).syncCount = false → t.tsu.counter n = s.tsu.counter n))) ∧
  (∀ (q : Req) (h : Nat) (s : State), h < 64 → admits .tsu q (0x5100 + h) 0x18 .wo [1] s = true →
    ((s.tsu.herd h).state = .loaded ∨ (s.tsu.herd h).state = .halted ∨ (s.tsu.herd h).state = .done ∨ (s.tsu.herd h).state = .left →
      ∃ t, exec (.unload q h 1) s = .next t ∧ t.fjz = s.fjz ∧ t.tsu.tc = s.tsu.tc ∧ (t.tsu.herd h).state = .free ∧
        (∀ i, (s.tsu.herd h).owns i = true → i ∉ t.tsu.written) ∧
        (∀ i, i < (s.tsu.herd h).tineCount → t.tsu.part ((s.tsu.herd h).tineFirst + i) = {}) ∧
        (∀ i, (s.tsu.herd h).holds 2 i = true → lState (t.tsu.entry i) = lsFree)) ∧
    ((s.tsu.herd h).live = true ∨ (s.tsu.herd h).state = .free →
      exec (.unload q h 1) s = .next (answered .tsu q (0x5100 + h) 0x18 stState (taken .tsu q s)))) ∧
  (∀ (q : Req) (v : BitVec 512) (s : State), let i := element s .tsu q 0x5080 1
    i < 16384 → admits .tsu q 0x5080 2 .rw (bvBytes v) s 1 i = true →
    (stepHeld s.tsu i = false → ∃ t, exec (.stepDesc q v) s = .next t ∧ t.fjz = s.fjz ∧ t.tsu.herds = s.tsu.herds ∧
      t.tsu.desc i = v ∧ i ∈ t.tsu.written ∧ ∀ j, j ≠ i → t.tsu.desc j = s.tsu.desc j) ∧
    (stepHeld s.tsu i = true → exec (.stepDesc q v) s = .next (answered .tsu q 0x5080 2 stState (taken .tsu q s))))

/-! ## The stream ledger -/

/-- R138 to R140, R151 and R222: a write that the entry and its owner admit leaves the entry as R222 says, or is held for its iteration while
the owner is live; any other is refused with STATE and changes no entry; a region's advance adds to what is pending, up to 255, in an entry
of a herd that declares the region, and to no other. -/
def Obligations.LedgerWrites : Prop :=
  (∀ (q : Req) (v : BitVec 256) (iter : Option U64) (s : State), let i := element s .tsu q 0x5090 1
    i < 65536 → admits .tsu q 0x5090 2 .rw (bvBytes v ++ (match iter with | some x => bvBytes x | none => [])) s 2 i = true →
    lPos v ≤ lLimit v → lState v ≤ lsFaulted →
    (ledgerReadyFor s.tsu i v iter = true → liveOwner s.tsu i = none →
      ∃ t, exec (.ledgerEntry q v iter) s = .next t ∧ t.fjz = s.fjz ∧ t.tsu.tc = s.tsu.tc ∧ t.tsu.herds = s.tsu.herds ∧
        t.tsu.entry i = writtenEntry (match s.tsu.ledgerOwner i with | some h => s.tsu.herd h | none => {}) (s.tsu.entry i) v ∧
        ∀ j, j ≠ i → t.tsu.entry j = s.tsu.entry j) ∧
    (∀ h, ledgerReadyFor s.tsu i v iter = true → liveOwner s.tsu i = some h → s.tsu.agent.heldLedger.length < 1024 →
      ∃ t w, exec (.ledgerEntry q v iter) s = .next t ∧ t.fjz = s.fjz ∧ t.tsu.tc = s.tsu.tc ∧ t.tsu.herds = s.tsu.herds ∧
        t.tsu.ledger = s.tsu.ledger ∧ t.tsu.agent.heldLedger = s.tsu.agent.heldLedger ++ [w] ∧ w.ctx = h ∧ w.entry = i ∧ w.value = v ∧
        w.iter = applyIterOf iter) ∧
    (ledgerReadyFor s.tsu i v iter = false →
      exec (.ledgerEntry q v iter) s = .next (answered .tsu q 0x5090 2 stState (taken .tsu q s)))) ∧
  (∀ (region : Nat) (entry : U16) (amount : U8) (s : State), s.tsu.works = true → region < 52 →
    tokenNext (inPhase 3 0) region qLedger s = true →
    (mayAdvance s.tsu region entry.toNat = false →
      exec (.ledgerAdvPending region entry amount) s = .next (tookToken region qLedger s)) ∧
    (mayAdvance s.tsu region entry.toNat = true → s.tsu.badLedger.contains entry.toNat = false →
    ∃ t, exec (.ledgerAdvPending region entry amount) s = .next t ∧
      lAdv (t.tsu.entry entry.toNat) = min 255 (lAdv (s.tsu.entry entry.toNat) + amount.toNat) ∧
      lPos (t.tsu.entry entry.toNat) = lPos (s.tsu.entry entry.toNat) ∧
      lState (t.tsu.entry entry.toNat) = lState (s.tsu.entry entry.toNat) ∧
      (∀ j, j ≠ entry.toNat → t.tsu.entry j = s.tsu.entry j) ∧
      t = { tookToken region qLedger s with tsu := { (tookToken region qLedger s).tsu with ledger := t.tsu.ledger } }))

/-! ## Sync objects, watches and banks -/

/-- R159 to R164: a signal of a running context acts on its own object alone: CTR_ADD adds, CTR_SETBIT sets its bit, EVENT_SET sets its event; an
ADD of 0 is counted; a second EVENT_SET is an oversignal that halts the herd; and a signal to a foreign object halts the herd it names. -/
def Obligations.Signals : Prop :=
  (∀ (tok : U64) (ecc : Ecc) (s : State), s.tsu.works = true → ecc.uncorrectable = [] → signalNext tok s = true →
    sgOwned (s.tsu.herd (sgCtx tok)) tok = true →
    (sgOp tok = 0 → sgAmount tok ≠ 0 → (s.tsu.counter (sgObj tok)).bad = false → (s.tsu.counter (sgObj tok)).timedOut = false →
      ∃ t, exec (.ctrAdd tok ecc) s = .next t ∧ t.fjz = s.fjz ∧ t.tsu.tc = s.tsu.tc ∧ t.tsu.herds = s.tsu.herds ∧
        (t.tsu.counter (sgObj tok)).value = (s.tsu.counter (sgObj tok)).value + BitVec.ofNat 48 (sgAmount tok) ∧
        (∀ n, n ≠ sgObj tok → t.tsu.counter n = s.tsu.counter n) ∧ t.tsu.events = s.tsu.events) ∧
    (sgOp tok = 0 → sgAmount tok = 0 → ∃ t, exec (.ctrAdd tok ecc) s = .next t ∧ t.fjz = s.fjz ∧ t.tsu.counters = s.tsu.counters ∧
      t.tsu.events = s.tsu.events ∧ t.tsu.signalIgnored = bump s.tsu.signalIgnored) ∧
    (sgOp tok = 1 → sgAmount tok < 48 → (s.tsu.counter (sgObj tok)).bad = false → (s.tsu.counter (sgObj tok)).timedOut = false →
      ∃ t, exec (.ctrSetbit tok ecc) s = .next t ∧ t.fjz = s.fjz ∧ t.tsu.tc = s.tsu.tc ∧ t.tsu.herds = s.tsu.herds ∧
        (∀ i, i < 48 → (t.tsu.counter (sgObj tok)).value.getLsbD i =
          ((s.tsu.counter (sgObj tok)).value.getLsbD i || decide (i = sgAmount tok))) ∧
        (∀ n, n ≠ sgObj tok → t.tsu.counter n = s.tsu.counter n) ∧ t.tsu.events = s.tsu.events) ∧
    (sgOp tok = 2 → sgAmount tok = 0 → (s.tsu.event (sgObj tok)).bad = false → (s.tsu.event (sgObj tok)).timedOut = false →
      ((s.tsu.event (sgObj tok)).set = false →
        ∃ t, exec (.eventSet tok ecc) s = .next t ∧ t.fjz = s.fjz ∧ t.tsu.tc = s.tsu.tc ∧ t.tsu.herds = s.tsu.herds ∧
          (t.tsu.event (sgObj tok)).set = true ∧ (∀ n, n ≠ sgObj tok → t.tsu.event n = s.tsu.event n) ∧
          t.tsu.counters = s.tsu.counters) ∧
      ((s.tsu.event (sgObj tok)).set = true → (s.tsu.event (sgObj tok)).oversignal = false →
        (s.tsu.herd (sgCtx tok)).state = .running → (s.tsu.herd (sgCtx tok)).selfFault = false →
        ∃ t, exec (.eventSet tok ecc) s = .next t ∧ haltsBy (sgCtx tok) 0x0603 s t ∧
          (t.tsu.event (sgObj tok)).oversignal = true ∧ (t.tsu.event (sgObj tok)).set = true ∧
          (t.tsu.herd (sgCtx tok)).oversignals = bump (s.tsu.herd (sgCtx tok)).oversignals))) ∧
  (∀ (tok : U64) (s : State), s.tsu.works = true → signalNext tok s = true → sgOwned (s.tsu.herd (sgCtx tok)) tok = false →
    (s.tsu.herd (sgCtx tok)).state = .running → (s.tsu.herd (sgCtx tok)).selfFault = false → sgOp tok = 0 →
    ∃ t, exec (.ctrAdd tok noEcc) s = .next t ∧ haltsBy (sgCtx tok) 0x0606 s t ∧ t.tsu.counters = s.tsu.counters)

/-- R165 to R171: a registration that passes its checks takes the lowest free slot; a wrong one halts its herd; one of a herd that does not run is
refused; cancelling ends a waiting watch; a timeout halts the herd and marks the object; up to 8 notifications leave on a tick. -/
def Obligations.Watches : Prop :=
  (∀ (region i : Nat) (tok : BitVec 208) (s : State), s.tsu.works = true → region < 52 → watchNext region s = true →
    (registerCheck s.tsu (tokenWatch tok) = .taken → freeSlot s.tsu = some i →
      ∃ t, exec (.watchRegister region tok) s = .next t ∧ t.fjz = s.fjz ∧ t.tsu.tc = s.tsu.tc ∧ (t.tsu.watch i).waiting = true ∧
        (t.tsu.watch i).tag = (tokenWatch tok).tag ∧ (t.tsu.watch i).target = watchTarget s.tsu.now (tokenWatch tok) ∧
        (t.tsu.watch i).ctx = (tokenWatch tok).ctx ∧ ∀ j, j ≠ i → t.tsu.watch j = s.tsu.watch j) ∧
    (registerCheck s.tsu (tokenWatch tok) = .refused → outFree (tokenWatch tok).region oNotify s = true →
      exec (.watchRegister region tok) s = .next (putOut (tokenWatch tok).region oNotify
        (.notify (tokenWatch tok).region (notification outRefused (tokenWatch tok).tag (watchValue s.tsu (tokenWatch tok))
          s.tsu.tc.frc.toNat)) (tookWatch region s))) ∧
    ((s.tsu.herd (tokenWatch tok).ctx).selfFault = false →
      (registerCheck s.tsu (tokenWatch tok) = .quota →
        ∃ t, exec (.watchRegister region tok) s = .next t ∧ haltsBy (tokenWatch tok).ctx 0x0508 s t ∧ t.tsu.watches = s.tsu.watches) ∧
      (registerCheck s.tsu (tokenWatch tok) = .invalid →
        ∃ t, exec (.watchRegister region tok) s = .next t ∧ haltsBy (tokenWatch tok).ctx 0x0604 s t ∧ t.tsu.watches = s.tsu.watches) ∧
      (registerCheck s.tsu (tokenWatch tok) = .short →
        ∃ t, exec (.watchRegister region tok) s = .next t ∧ haltsBy (tokenWatch tok).ctx 0x0605 s t ∧ t.tsu.watches = s.tsu.watches))) ∧
  (∀ (region i : Nat) (tok : BitVec 208) (rest : List (BitVec 208)) (s : State), s.tsu.works = true → region < 52 →
    s.aheadOf (inPhase 3 0) = false → (s.tsu.region region).took qWatch = false → queuesHeld s.tsu qWatch = false →
    (s.tsu.region region).watchQueue = tok :: rest → freeSlot s.tsu = some i → registerCheck s.tsu (tokenWatch tok) = .taken →
    ∃ t, exec (.watchRegisterDeferred region) s = .next t ∧ t.fjz = s.fjz ∧ t.tsu.tc = s.tsu.tc ∧
      (t.tsu.region region).watchQueue = rest ∧ (t.tsu.watch i).waiting = true ∧ (t.tsu.watch i).tag = (tokenWatch tok).tag ∧
      (∀ j, j ≠ i → t.tsu.watch j = s.tsu.watch j) ∧ ∀ m, m ≠ region → t.tsu.region m = s.tsu.region m) ∧
  (∀ (region i : Nat) (tag : U16) (s : State), s.tsu.works = true → region < 52 → tokenNext (inPhase 3 1) region qCancel s = true →
    s.tsu.waitingSlots.find? (fun i => decide ((s.tsu.watch i).region = region ∧ (s.tsu.watch i).tag = tag)) = some i →
    ∃ t, exec (.watchCancel region tag) s = .next t ∧ (t.tsu.watch i).waiting = false ∧ (t.tsu.watch i).outcome = some 2 ∧
      (t.tsu.watch i).tag = (s.tsu.watch i).tag ∧ (∀ j, j ≠ i → t.tsu.watch j = s.tsu.watch j) ∧
      t = { tookToken region qCancel s with tsu := { (tookToken region qCancel s).tsu with watches := t.tsu.watches } }) ∧
  (∀ (slot : Nat) (s : State), s.tsu.works = true → slot < 4096 → s.aheadOf (inPhase 5 slot) = false → reached s.tsu.tc (s.tsu.watch slot).fire = true →
    s.tsu.replayStrict = false →
    let u := atPhase4 s
    let w := u.tsu.watch slot
    w.waiting = true → (u.tsu.herd w.ctx).state = .running → (u.tsu.herd w.ctx).selfFault = false →
    ∃ t, exec (.watchTimeout slot) s = .next t ∧ haltsBy w.ctx 0x0601 u t ∧ (t.tsu.watch slot).waiting = false ∧
      (t.tsu.watch slot).outcome = some 1 ∧ (t.tsu.herd w.ctx).watchTimeouts = bump (u.tsu.herd w.ctx).watchTimeouts ∧
      (w.cond = 3 → (t.tsu.event w.obj).timedOut = true) ∧ (w.cond ≠ 3 → (t.tsu.counter w.obj).timedOut = true)) ∧
  (∀ s : State, s.tsu.works = true → s.aheadOf (inPhase 6 1000) = false →
    let u := atPhase4 s
    let ended := u.tsu.endedSlots.take 8
    let note (w : Watch) : Out := .notify w.region (notification (w.outcome.getD 0) w.tag w.value w.decidedAt)
    Tbl.wf {} u.tsu.watches = true → u.tsu.notified = 0 → (∀ n, (u.tsu.region n).outq.get 0 oNotify ≤ 8) →
    ∃ t, exec .watchNotify s = .next t ∧ t.fjz = u.fjz ∧ t.tsu.tc = u.tsu.tc ∧ t.tsu.herds = u.tsu.herds ∧
      t.out = u.out ++ ended.map (fun i => note (u.tsu.watch i)) ∧
      (∀ i ∈ ended, t.tsu.watch i = { u.tsu.watch i with sent := true }) ∧ ∀ i, i ∉ ended → t.tsu.watch i = u.tsu.watch i)

/-- R156, R157 and R164: the writes of sync objects, which their owner must be at rest for, and the clearing of an oversignal. -/
def Obligations.SyncObjects : Prop :=
  (∀ (q : Req) (h : Nat) (s : State), h < 64 → admits .tsu q (0x6100 + h) 5 .wo [1] s = true →
    ((s.tsu.herd h).atRest = true →
      ∃ t, exec (.syncReset q h 1) s = .next t ∧ t.fjz = s.fjz ∧ t.tsu.tc = s.tsu.tc ∧ t.tsu.herds = s.tsu.herds ∧
        ∀ n, t.tsu.counter n = (if inRange n (s.tsu.herd h).syncFirst (s.tsu.herd h).syncCount then {} else s.tsu.counter n) ∧
          t.tsu.event n = (if inRange n (s.tsu.herd h).eventFirst (s.tsu.herd h).eventCount then {} else s.tsu.event n)) ∧
    ((s.tsu.herd h).atRest = false →
      exec (.syncReset q h 1) s = .next (answered .tsu q (0x6100 + h) 5 stState (taken .tsu q s)))) ∧
  (∀ (q : Req) (v : U64) (s : State), let n := element s .tsu q 0x6080 1
    n < 16384 → admits .tsu q 0x6080 2 .rw (bvBytes v) s 3 n = true →
    (ownerAtRest s.tsu 3 n = true → exec (.counterValue q v) s = .next (answered .tsu q 0x6080 2 stOk
      (onCounter n (fun c => { c with value := v.setWidth 48 }) (taken .tsu q s)))) ∧
    (ownerAtRest s.tsu 3 n = false → exec (.counterValue q v) s = .next (answered .tsu q 0x6080 2 stState (taken .tsu q s)))) ∧
  (∀ (q : Req) (v : U32) (s : State), let n := element s .tsu q 0x6090 1
    n < 4096 → admits .tsu q 0x6090 2 .rw (bvBytes v) s 4 n = true →
    (ownerAtRest s.tsu 4 n = true → exec (.eventState q v) s = .next (answered .tsu q 0x6090 2 stOk
      (onEvent n (fun e => { e with set := bitOf v 0, claimed := e.claimed && bitOf v 0 }) (taken .tsu q s)))) ∧
    (ownerAtRest s.tsu 4 n = false → exec (.eventState q v) s = .next (answered .tsu q 0x6090 2 stState (taken .tsu q s)))) ∧
  (∀ (q : Req) (s : State), let n := element s .tsu q 0x6090 1
    n < 4096 → admits .tsu q 0x6090 3 .wo [1] s 4 n = true →
    exec (.eventOversignalClear q 1) s = .next (answered .tsu q 0x6090 3 stOk
      (onEvent n (fun e => { e with oversignal := false }) (taken .tsu q s))))

/-- R175, R176 and Table 6.6: a drained bank goes off, one not drained in 10,000 ns comes back on with its record, a bank wakes in 250 ns, and a
request to a fenced or switched off bank is refused and halts the herd of its step. -/
def Obligations.BankPower : Prop :=
  (∀ (region bank : Nat) (s : State), s.tsu.works = true → region < 52 → bank < 16 →
    ((s.tsu.region region).bank bank = .draining →
      ∃ t, exec (.bankDrained region bank) s = .next t ∧ (t.tsu.region region).bank bank = .off ∧
        (∀ b, b ≠ bank → (t.tsu.region region).bank b = (s.tsu.region region).bank b) ∧
        (∀ m, m ≠ region → t.tsu.region m = s.tsu.region m) ∧
        t = { s.fresh with tsu := { s.tsu with regions := t.tsu.regions } }) ∧
    ((s.tsu.region region).bank bank ≠ .draining → exec (.bankDrained region bank) s = .next s.fresh) ∧
    ((s.tsu.region region).bank bank = .waking →
      (250 ≤ bankAge s.tsu region bank →
        ∃ t, exec (.bankWakeDone region bank) s = .next t ∧ (t.tsu.region region).bank bank = .on ∧
          (∀ b, b ≠ bank → (t.tsu.region region).bank b = (s.tsu.region region).bank b) ∧
          (∀ m, m ≠ region → t.tsu.region m = s.tsu.region m) ∧
          t = { s.fresh with tsu := { s.tsu with regions := t.tsu.regions } }) ∧
      (bankAge s.tsu region bank < 250 → exec (.bankWakeDone region bank) s = .next s.fresh))) ∧
  (∀ (region bank : Nat) (channel : U8) (s : State), s.tsu.works = true → region < 52 → bank < 16 →
    (s.tsu.region region).bank bank = .draining → 10000 ≤ bankAge s.tsu region bank →
    ∃ t, exec (.bankDrainTimeout region bank channel) s = .next t ∧ (t.tsu.region region).bank bank = .on ∧
      (t.tsu.region region).drainTimeouts = bump (s.tsu.region region).drainTimeouts ∧
      t.tsu.errs.total = bump s.tsu.errs.total ∧ (∀ m, m ≠ region → t.tsu.region m = s.tsu.region m) ∧ t.fjz = s.fjz ∧
      t.tsu.tc = s.tsu.tc) ∧
  (∀ (region bank h : Nat) (source : U16) (s : State), s.tsu.works = true → region < 52 → bank < 16 → h < 64 →
    (s.tsu.region region).bank bank = .draining ∨ (s.tsu.region region).bank bank = .off →
    ∃ t, exec (.bankUnavailable region bank h source) s = .next t ∧
      (t.tsu.region region).refusals = bump (s.tsu.region region).refusals ∧ (t.tsu.region region).banks = (s.tsu.region region).banks ∧
      ((s.tsu.herd h).state = .running → (s.tsu.herd h).selfFault = false → haltsBy h 0x060A s t))

/-! ## Tines -/

/-- R182, R188, R192 to R195, R204 to R206: a die's participations. A contribution waits for its round or completes it, and the arrival
that leaves is kept; a result that fits moves d on and goes to the regions of its target; a failed one marks the participation; a MOVE takes
every participation of the herd to the other plane; an ABANDON marks the round sent; and waiting gates time out as NOT_SENT or
ISOLATED. -/
def Obligations.TinesOfTheDie : Prop :=
  (∀ (region n h : Nat) (payload : BitVec 512) (ecc : Ecc) (s : State), s.tsu.works = true → region < 52 → n < 1024 →
    tokenNext (inPhase 2 100000) region qTine s = true → ecc.uncorrectable.contains (.part n) = false →
    let p := s.tsu.part n
    let run := runningStep s.tsu region h
    let v : Contribution := ⟨takenIn (ptOp p.entry) (ptLen p.entry) payload, run.1, run.2⟩
    let u := onPart n (fun p => { p with cur := { contrib := p.cur.contrib.set none region (some v) } })
      (countCorrected ecc (tookToken region qTine s))
    s.tsu.partCtx n = some h → ptStart p.entry = false → (ptContrib p.entry).getLsbD region = true → p.skip.get 0 region = 0 →
    p.cur.contrib.get none region = none →
    (roundComplete u.tsu (u.tsu.herd h) n = false → exec (.tineContribution region n payload ecc) s = .next u) ∧
    (roundComplete u.tsu (u.tsu.herd h) n = true → p.nxt = {} → p.sentAhead = [] →
      ∃ t, exec (.tineContribution region n payload ecc) s = .next t ∧ sameBeyond h s t ∧ (t.tsu.part n).a = p.a + 1 ∧
        (t.tsu.part n).d = p.d ∧ (t.tsu.part n).kept = p.kept ++
          [⟨p.a + 1, kArrival, 0, 1, deadlineFrom s (ptTimeout p.entry), assembled (u.tsu.part n)⟩])) ∧
  (∀ (region n : Nat) (payload : BitVec 512) (ecc : Ecc) (s : State), s.tsu.works = true → region < 52 → n < 1024 →
    tokenNext (inPhase 2 100000) region qTine s = true → ecc.uncorrectable.contains (.part n) = false → s.tsu.partCtx n = none →
    exec (.tineContribution region n payload ecc) s = .next
      (onTsu (fun t => { t with contribDiscards := bump t.contribDiscards }) (countCorrected ecc (tookToken region qTine s)))) ∧
  (∀ (p h : Nat) (c : Cell) (s : State), p < 2 → s.tsu.works = true → arrives .tsu p 0x11 c s = true →
    let n := c.addr.toNat
    s.tsu.partCtx n = some h →
    (resultFits s.tsu p n c = true → ptStart (s.tsu.part n).entry = false →
      (cKind c = 0 → ∃ t, exec (.tineResult p c) s = .next t ∧ t.fjz = s.fjz ∧ t.tsu.tc = s.tsu.tc ∧
        (t.tsu.part n).d = (s.tsu.part n).d + 1 ∧ (t.tsu.part n).a = (s.tsu.part n).a ∧
        (t.tsu.part n).failed = (s.tsu.part n).failed ∧
        ∀ g ∈ regionsOf (ptResult (s.tsu.part n).entry), outFree g oResult s = true →
          Out.result g n (cRound c) (cMembers c) (rGrant c) false (rCause c) (cPayload c) ∈ t.out) ∧
      (cKind c = 1 → ∃ t, exec (.tineResultFailed p c) s = .next t ∧ t.fjz = s.fjz ∧ t.tsu.tc = s.tsu.tc ∧
        (t.tsu.part n).d = (s.tsu.part n).d + 1 ∧ (t.tsu.part n).failed = true ∧
        (t.tsu.part n).failRound = (if (s.tsu.part n).failed then (s.tsu.part n).failRound else cRound c) ∧
        (t.tsu.part n).failCause = (if (s.tsu.part n).failed then (s.tsu.part n).failCause else rCause c))) ∧
    (resultFits s.tsu p n c = false → cKind c = 0 → exec (.tineResult p c) s = .next
      (onTsu (fun t => { t with resultDiscards := bump t.resultDiscards }) (received .tsu p c s)))) ∧
  (∀ (p h : Nat) (pl : Plane) (c : Cell) (s : State), p < 2 → s.tsu.works = true → arrives .tsu p 0x11 c s = true → cKind c = 2 →
    s.tsu.ctxOf (cHerd c) = some h → s.tsu.tinePlane h = some pl → planePort pl = p → s.tsu.tc.planeConfig = 0 →
    Tbl.wf {} s.tsu.parts = true →
    ∃ t, exec (.tineResultMove p c) s = .next t ∧ sameBeyond h s t ∧
      ∀ n ∈ s.tsu.partsOf h, (t.tsu.part n).plane = rTarget c ∧ (t.tsu.part n).gen = (s.tsu.part n).gen + 1 ∧
        (t.tsu.part n).a = (s.tsu.part n).a ∧ (t.tsu.part n).d = (s.tsu.part n).d) ∧
  (∀ (p h : Nat) (c : Cell) (s : State), p < 2 → s.tsu.works = true → arrives .tsu p 0x12 c s = true →
    let n := c.addr.toNat
    let x := s.tsu.part n
    (s.tsu.partCtx n = some h → (s.tsu.herd h).herdId.setWidth 24 = cHerd c → planePort x.plane = p → cRun c = x.run →
      cGen c = x.gen → x.sentAhead = [] →
      ∃ t, exec (.tineAbandon p c) s = .next t ∧ t.fjz = s.fjz ∧ t.tsu.tc = s.tsu.tc ∧
        (roundReached (t.tsu.part n).a (cRound c) = true ∨ (t.tsu.part n).sentAhead.contains (cRound c) = true) ∧
        (t.tsu.part n).d = x.d ∧
        (ptAbandon x.entry ≠ 0xFFFF → (s.tsu.event (ptAbandon x.entry)).bad = false →
          (s.tsu.event (ptAbandon x.entry)).timedOut = false → (t.tsu.event (ptAbandon x.entry)).set = true)) ∧
    (s.tsu.partCtx n = none → exec (.tineAbandon p c) s = .next
      (onTsu (fun t => { t with tagDiscards := bump t.tagDiscards }) (received .tsu p c s)))) ∧
  (∀ (h h' gate : Nat) (w : Nat × U16) (s : State), s.tsu.works = true → h < 64 → gate < 4 →
    s.aheadOf (inPhase 5 (8192 + h)) = false → (s.tsu.herd h).state = .running →
    s.tsu.replayStrict = false → s.tsu.partCtx w.1 = some h' → (s.tsu.part w.1).sentAhead = [] →
    Tbl.wf {} s.tsu.herds = true →
    waitingGate s.tsu (s.tsu.herd h) gate (fun w f =>
      let p := s.tsu.part w.1
      !ptStart p.entry && !roundReached p.a w.2 && !p.sentAhead.contains w.2 && waited s.tsu f (ptTimeout p.entry)) = some w →
    ∃ t, exec (.tineNotSent h gate) s = .next t ∧ t.fjz = s.fjz ∧ t.tsu.tc = s.tsu.tc ∧ (t.tsu.part w.1).a = w.2 ∧
      (t.tsu.part w.1).d = (s.tsu.part w.1).d) ∧
  (∀ (h gate : Nat) (w : Nat × U16) (s : State), s.tsu.works = true → h < 64 → gate < 4 →
    s.aheadOf (inPhase 5 (8192 + h)) = false → (s.tsu.herd h).state = .running →
    s.tsu.replayStrict = false → upPorts s = [] →
    waitingGate s.tsu (s.tsu.herd h) gate (fun w f =>
      waitedNow s.tsu f (partTimeout (s.tsu.herd h) (s.tsu.part w.1) + 30000)) = some w →
    ∃ t, exec (.isolated h gate) s = .next t ∧ t.fjz = s.fjz ∧ t.tsu.tc = s.tsu.tc ∧ (t.tsu.part w.1).d = w.2 ∧
      (t.tsu.part w.1).failed = true ∧ (t.tsu.part w.1).a = (s.tsu.part w.1).a)

/-- R187 to R193, R203, R205 and R207: a tine context of a Fjouz chip below the top. An arrival takes its slot and opens the round; the last one sends
the round; a FAILED arrival, a RESYNC and a deadline end it; a MOVE leaves the herd's contexts inactive; and a result from the parent goes to
every member port and moves the window on. No such command touches the TSU. -/
def Obligations.TinesOfTheChip : Prop :=
  (∀ (p slot : Nat) (c : Cell) (s : State), p < 72 → s.fjz.works = true → arrives .fjz p 0x10 c s = true →
    isChildSide s .fjz p = false →
    let n := fldN c.hdr 32 13
    let k := s.fjz.ctx n
    cfSlot k.config p = some slot → k.tagView (cRun c) (cGen c) = .same → k.unsynced = false → cRound c = k.b → formatOk k c = true →
    k.r0.state = .empty ∨ k.r0.state = .open → cfPair k.config p = none → cfTop k.config = false →
    (k.r0.cells.get none slot = none →
      (cKind c = 0 → ∀ ecc : Ecc, ecc.uncorrectable = [] →
        ∃ t, exec (.tineArrival p c ecc) s = .next t ∧ t.tsu = s.tsu ∧ (∀ m, m ≠ n → t.fjz.ctx m = s.fjz.ctx m) ∧
          (t.fjz.ctx n).b = k.b ∧ (t.fjz.ctx n).r1 = k.r1 ∧ (t.fjz.ctx n).r0.deadline = joinDeadline k.r0 (aDeadline c) ∧
          ((∃ sl ∈ k.emptySlots 0, sl ≠ slot) → (t.fjz.ctx n).r0.state = .open ∧ (t.fjz.ctx n).r0.cells.get none slot = some c) ∧
          ((∀ sl ∈ k.emptySlots 0, sl = slot) → (t.fjz.ctx n).r0.state = .sent ∧ (t.fjz.ctx n).r0.cells = [])) ∧
      (cKind c = 1 → ∃ t, exec (.tineArrivalFailed p c) s = .next t ∧ t.tsu = s.tsu ∧ (∀ m, m ≠ n → t.fjz.ctx m = s.fjz.ctx m) ∧
        (t.fjz.ctx n).b = k.b ∧ (t.fjz.ctx n).r0.state = .sent)) ∧
    (k.r0.cells.get none slot ≠ none → cKind c = 0 → ∃ t, exec (.tineArrival p c noEcc) s = .next t ∧ t.tsu = s.tsu ∧
      t.fjz.dupDiscards = bump s.fjz.dupDiscards ∧ ∀ m, t.fjz.ctx m = s.fjz.ctx m) ∧
    (cKind c = 2 → ∃ t, exec (.tineResync p c) s = .next t ∧ t.tsu = s.tsu ∧ (t.fjz.ctx n).b = k.b ∧ (t.fjz.ctx n).r0.state = .sent ∧
      ∀ m, m ≠ n → t.fjz.ctx m = s.fjz.ctx m)) ∧
  (∀ (p n : Nat) (c : Cell) (s : State), p < 72 → s.fjz.works = true → arrives .fjz p 0x10 c s = true → cKind c = 3 →
    isChildSide s .fjz p = false → s.fjz.activeCtx (cHerd c) = some n →
    ∃ t, exec (.tineArrivalMove p c) s = .next t ∧ t.tsu = s.tsu ∧ (∀ m ∈ s.fjz.herdCtxs (cHerd c), (t.fjz.ctx m).active = false) ∧
      (∀ m, m ∉ s.fjz.herdCtxs (cHerd c) → t.fjz.ctx m = s.fjz.ctx m)) ∧
  (∀ (n sl : Nat) (next : Bool) (s : State), s.fjz.works = true → n < 8192 → s.aheadOf (placeOf (.tineTimeout n next)) = false →
    let r := (s.fjz.ctx n).round (b2n next)
    r.state = .open → r.deadline.toNat ≤ chipNs s → ((s.fjz.ctx n).emptySlots (b2n next)).head? = some sl →
    cfTop (s.fjz.ctx n).config = false →
    ∃ t, exec (.tineTimeout n next) s = .next t ∧ t.tsu = s.tsu ∧ ((t.fjz.ctx n).round (b2n next)).state = .sent ∧
      (t.fjz.ctx n).b = (s.fjz.ctx n).b ∧ (∀ m, m ≠ n → t.fjz.ctx m = s.fjz.ctx m) ∧
      (s.fjz.role ≠ 1 → t.fjz.errs.total = bump s.fjz.errs.total)) ∧
  (∀ (p : Nat) (c : Cell) (s : State), p < 72 → s.fjz.works = true → arrives .fjz p 0x11 c s = true → s.fjz.tineParent = some p →
    cKind c = 0 ∨ cKind c = 1 →
    let n := fldN c.hdr 32 13
    let k := s.fjz.ctx n
    k.inUse = true → cfTop k.config = false → k.tagView (cRun c) (cGen c) = .same → k.unsynced = false → k.r1.state ≠ .held →
    (cRound c = k.b →
      ∃ t, exec (.tineResultForward p c) s = .next t ∧ t.tsu = s.tsu ∧ (∀ m, m ≠ n → t.fjz.ctx m = s.fjz.ctx m) ∧
        (t.fjz.ctx n).b = k.b + 1 ∧ (t.fjz.ctx n).kept1 = some c ∧ (t.fjz.ctx n).kept2 = k.kept1 ∧ (t.fjz.ctx n).r0 = k.r1 ∧
        ∀ p' ∈ cfPorts k.config, fldN (port s .fjz p').negVer 32 16 ≠ 0 → queued .fjz p' (k.forPort k.r0.winners p' c) true s t) ∧
    (cRound c ≠ k.b → ∃ t, exec (.tineResultForward p c) s = .next t ∧ t.tsu = s.tsu ∧
      t.fjz.staleDiscards = bump s.fjz.staleDiscards ∧ ∀ m, t.fjz.ctx m = s.fjz.ctx m))

/-! ## Templates and path reservation -/

/-- R21, R181, R184 and R185: a slot whose entries pass the checks becomes valid, or waits while a round of its contexts is open; one that
nothing uses is erased; and held writes are applied once no round is open. -/
def Obligations.Templates : Prop :=
  (∀ (d : Dev) (q : Req) (s : State), let k := templateElem s d q
    k < templateSlots d →
    (admits d q 0x7200 6 .rws [1] s 6 k = true →
      (templateOk s d (templateAt s d k) = true → roundOpen s d k = false →
        exec (.templateValidate d q) s = .next (answered d q 0x7200 6 stOk
          (onTemplate d k (fun m => { m with valid := true }) (taken d q s)))) ∧
      (templateOk s d (templateAt s d k) = true → roundOpen s d k = true →
        ∃ t w, exec (.templateValidate d q) s = .next t ∧ t.tsu = s.tsu ∧ t.fjz.templates = s.fjz.templates ∧
          t.fjz.heldWrites = s.fjz.heldWrites ++ [w] ∧ w.ctx = k ∧ w.value = [1]) ∧
      (templateOk s d (templateAt s d k) = false →
        exec (.templateValidate d q) s = .next (answered d q 0x7200 6 stRange (taken d q s)))) ∧
    (admits d q 0x7200 6 .rws [0] s 6 k = true →
      (templateUsers s d k = 0 → exec (.templateErase d q) s = .next (answered d q 0x7200 6 stOk
        (onTemplate d k (fun _ => {}) (taken d q s)))) ∧
      (templateUsers s d k ≠ 0 → exec (.templateErase d q) s = .next (answered d q 0x7200 6 stState (taken d q s))))) ∧
  (∀ s : State, s.fjz.works = true → (∀ w ∈ s.fjz.heldWrites, w.req.src = .net) →
    ∃ t, exec .fjouzWriteApply s = .next t ∧ t.tsu = s.tsu ∧
      t.fjz.heldWrites = (s.fjz.heldWrites.filter fun w => roundOpen s .fjz w.ctx) ∧
      ∀ k, templateAt t .fjz k = (if roundOpen s .fjz k then templateAt s .fjz k
        else (s.fjz.heldWrites.filter fun w => decide (w.ctx = k)).foldl
          (fun m w => writtenTemplate .fjz w.sub.toNat w.elem w.value m) (templateAt s .fjz k)))

/-- R208 to R211, R221 and R367: a reservation at the top, at a chip on the way and at a die. TREE_RESERVE holds the chip's needs and asks below, or ends with
its own refusal; outcomes are gathered until every child has answered; COMMIT confirms, RELEASE frees, RELEASE_QUERY asks; and a pass that is
not answered in time is released. -/
def Obligations.PathReservation : Prop :=
  (∀ (q : Req) (v : BitVec 128) (a : Nat) (s : State), a = 1 ∨ a = 3 → let w := withAction a v
    admits .fjz q 0x7900 1 .wo (bvBytes w) s = true → trSpan w + 1 = s.fjz.role.toNat → s.fjz.resvRun = none →
    fldN w 0 32 < 2 ^ 20 → s.fjz.resv (trHerd w) (trTemplate w) = none →
    (∀ f, chipFail s (trHerd w) (trTemplate w) (trSpan w) (trP1 w) = some f →
      ∃ t, exec (if a = 1 then .treeReserve q v else .treeReserveHome q v) s = .next t ∧ t.tsu = s.tsu ∧ t.fjz.resvs = s.fjz.resvs ∧
        t.fjz.resvRun = none ∧ t.fjz.resvStatus = loadStatusOf s.fjz.agent.deviceId f) ∧
    (chipFail s (trHerd w) (trTemplate w) (trSpan w) (trP1 w) = none → s.fjz.pathPorts (trTemplate w) ≠ [] →
      ∃ t r, exec (if a = 1 then .treeReserve q v else .treeReserveHome q v) s = .next t ∧ t.tsu = s.tsu ∧
        t.fjz.resvs = s.fjz.resvs ++ [r] ∧ r.herdId = trHerd w ∧ r.templateId = trTemplate w ∧ r.committed = false ∧
        r.home = decide (a = 3) ∧ t.fjz.resvRun = some (trHerd w, trTemplate w) ∧
        t.fjz.resvStatus = loadStatusOf s.fjz.agent.deviceId { code := 0xFF } ∧
        ∀ p ∈ s.fjz.pathPorts (trTemplate w), hasRoom s .fjz p →
          ∃ e, (port t .fjz p).txq = (port s .fjz p).txq ++ [e] ∧ vPass e.cell = 0 ∧ vHerd e.cell = trHerd w ∧
            vTemplate e.cell = trTemplate w ∧ vHome e.cell = decide (a = 3))) ∧
  (∀ (q : Req) (v : BitVec 128) (s : State), let w := withAction 2 v
    admits .fjz q 0x7900 1 .wo (bvBytes w) s = true → trSpan w + 1 = s.fjz.role.toNat → s.fjz.resvRun = none →
    fldN w 0 32 < 2 ^ 20 →
    (s.fjz.resv (trHerd w) (trTemplate w) = none →
      ∃ t, exec (.treeRelease q v) s = .next t ∧ t.tsu = s.tsu ∧ t.fjz.resvRun = none ∧
        t.fjz.resvStatus = loadStatusOf s.fjz.agent.deviceId { code := 0 }) ∧
    (∀ r, s.fjz.resv (trHerd w) (trTemplate w) = some r → s.fjz.pathPorts (trTemplate w) ≠ [] →
      ∃ t, exec (.treeRelease q v) s = .next t ∧ t.tsu = s.tsu ∧ t.fjz.resvRun = some (trHerd w, trTemplate w) ∧
        (t.fjz.resv (trHerd w) (trTemplate w)).map Resv.query = some true ∧
        (t.fjz.resv (trHerd w) (trTemplate w)).map Resv.ctxs = some r.ctxs)) ∧
  (∀ (p h : Nat) (c : Cell) (s : State), p < 2 → s.tsu.works = true → arrives .tsu p 0x23 c s = true →
    (vPass c = 0 → s.tsu.reserveCtx (vHerd c) = some h → dieFail s p (vHerd c) (vTemplate c) = none → hasRoom s .tsu p →
      ∃ t e, exec (.reserveRequest .tsu p c) s = .next t ∧ t.fjz = s.fjz ∧ t.tsu.herds = s.tsu.herds ∧
        (port t .tsu p).txq = (port s .tsu p).txq ++ [e] ∧ vPass e.cell = 1 ∧ vCode e.cell = 0 ∧ vCount e.cell = 1 ∧
        vLast e.cell = true ∧ vNumber e.cell 0 = BitVec.ofNat 16 (s.tsu.herd h).tineFirst) ∧
    (vPass c = 2 → s.tsu.reserveCtx (vHerd c) = some h → namesTemplate (s.tsu.herd h) (vTemplate c) = true →
      ∃ t, exec (.reserveCommit .tsu p c) s = .next t ∧ t.fjz = s.fjz ∧ t.tsu.herds = s.tsu.herds ∧
        (t.tsu.pathOf (vHerd c) (vTemplate c) (portPlane p)).isSome = true) ∧
    (vPass c = 3 → ∃ t, exec (.reserveRelease .tsu p c) s = .next t ∧ t.fjz = s.fjz ∧ t.tsu.herds = s.tsu.herds ∧
      t.tsu.pathOf (vHerd c) (vTemplate c) (portPlane p) = none) ∧
    (vPass c = 4 → hasRoom s .tsu p → ∃ t e, exec (.releaseQuery .tsu p c) s = .next t ∧ t.fjz = s.fjz ∧ t.tsu.herds = s.tsu.herds ∧
      (port t .tsu p).txq = (port s .tsu p).txq ++ [e] ∧ vPass e.cell = 1 ∧
      (s.tsu.ctxOf (vHerd c) = none → vCode e.cell = 0) ∧
      (s.tsu.ctxOf (vHerd c) = some h → (s.tsu.herd h).state ≠ .loaded → vCode e.cell = 1))) ∧
  (∀ (p : Nat) (c : Cell) (s : State), p < 72 → s.fjz.works = true → arrives .fjz p 0x23 c s = true → s.fjz.tineParent = some p →
    s.fjz.pathPorts (vTemplate c) ≠ [] →
    (vPass c = 0 → s.fjz.resv (vHerd c) (vTemplate c) = none →
      chipFail s (vHerd c) (vTemplate c) (vSpan c) (vP1 c) = none →
      ∃ t r, exec (.reserveRequest .fjz p c) s = .next t ∧ t.tsu = s.tsu ∧ t.fjz.resvs = s.fjz.resvs ++ [r] ∧
        r.herdId = vHerd c ∧ r.templateId = vTemplate c ∧ r.committed = false) ∧
    (∀ r, s.fjz.resv (vHerd c) (vTemplate c) = some r →
      (vPass c = 2 → ∃ t, exec (.reserveCommit .fjz p c) s = .next t ∧ t.tsu = s.tsu ∧
        (t.fjz.resv (vHerd c) (vTemplate c)).map Resv.committed = some true) ∧
      (vPass c = 3 → ∃ t, exec (.reserveRelease .fjz p c) s = .next t ∧ t.tsu = s.tsu ∧
        t.fjz.resv (vHerd c) (vTemplate c) = none ∧ ∀ n ∈ r.ctxs, t.fjz.ctx n = {}) ∧
      (vPass c = 4 → ∃ t, exec (.releaseQuery .fjz p c) s = .next t ∧ t.tsu = s.tsu ∧
        (t.fjz.resv (vHerd c) (vTemplate c)).map Resv.query = some true))) ∧
  (∀ (p : Nat) (c : Cell) (r : Resv) (s : State), p < 72 → s.fjz.works = true → arrives .fjz p 0x23 c s = true → vPass c = 1 →
    isChildSide s .fjz p = false → s.fjz.role = 1 → s.fjz.resv (vHerd c) (vTemplate c) = some r → r.committed = false →
    r.query = false → r.failures = [] → p ∈ s.fjz.pathPorts (vTemplate c) → r.lasts.contains p = false → vCode c = 0 → vLast c = true →
    ((∃ p' ∈ s.fjz.pathPorts (vTemplate c), p' ≠ p ∧ r.lasts.contains p' = false) →
      ∃ t, exec (.reserveOutcome p c) s = .next t ∧ t.tsu = s.tsu ∧
        (t.fjz.resv (vHerd c) (vTemplate c)).map Resv.lasts = some (r.lasts ++ [p]) ∧
        (t.fjz.resv (vHerd c) (vTemplate c)).map Resv.dies = some (r.dies + 1) ∧ t.fjz.resvRun = s.fjz.resvRun) ∧
    ((∀ p' ∈ s.fjz.pathPorts (vTemplate c), p' ≠ p → r.lasts.contains p' = true) → r.span.toNat = 0 →
      r.dies + 1 = r.memberCount.toNat →
      ∃ t, exec (.reserveOutcome p c) s = .next t ∧ t.tsu = s.tsu ∧ t.fjz.resvRun = none ∧
        t.fjz.resvStatus = loadStatusOf s.fjz.agent.deviceId { code := 0 } ∧
        (t.fjz.resv (vHerd c) (vTemplate c)).map Resv.committed = some true)) ∧
  (∀ (herd : Id24) (template : U16) (r : Resv) (s : State), s.fjz.works = true → s.fjz.resvRun = some (herd, template) →
    s.fjz.resv herd template = some r → r.query = false → r.started + s.fjz.resvTimeout.toNat * 1000000 ≤ s.fjz.frc.toNat →
    ∃ t, exec .reserveTimeout s = .next t ∧ t.tsu = s.tsu ∧ t.fjz.resvRun = none ∧ t.fjz.resv herd template = none ∧
      fldN t.fjz.resvStatus 0 8 = 8)

/-! ## Membership, health and the steward -/

/-- R219 to R222 and R225: a pause leaves as a HALT on the herd's ports; REEPOCH_COMMIT installs what was staged or reports its refusal; a drain is
adopted in LOADED and IDLE; and EXPEL makes an armed context leave at once and a running one wait for its boundary. -/
def Obligations.Membership : Prop :=
  (∀ (q : Req) (v : BitVec 160) (s : State), admits .fjz q 0x8800 9 .wo (bvBytes v) s = true →
    (pauseHerd v < 2 ^ 24 → s.fjz.holdsHerd (pauseHerdId v) = true → pauseRange v s = true →
      ∃ t, exec (.pauseRequest q v) s = .next t ∧ t.tsu = s.tsu ∧ t.fjz.haltsSent = bump s.fjz.haltsSent ∧
        t.fjz.haltSeq = (if pauseOwn s.fjz v then pauseSeq v else s.fjz.haltSeq) ∧
        ∀ p ∈ s.fjz.withStandby (s.fjz.herdPorts (pauseHerdId v)), queued .fjz p (mkHalt 1 true s.fjz.role.toNat (pauseHerdId v)
          (s.fjz.runOf (pauseHerdId v)) (pauseSeq v) (pauseHt v) 0 (BitVec.ofNat 24 (pauseOrigin v))) false s t) ∧
    (s.fjz.holdsHerd (pauseHerdId v) = false →
      exec (.pauseRequest q v) s = .next (answered .fjz q 0x8800 9 stState (taken .fjz q s))) ∧
    (pauseHerd v < 2 ^ 24 → s.fjz.holdsHerd (pauseHerdId v) = true → pauseRange v s = false →
      exec (.pauseRequest q v) s = .next (answered .fjz q 0x8800 9 stRange (taken .fjz q s)))) ∧
  (∀ (q : Req) (h : Nat) (s : State), h < 64 → admits .tsu q (0x8100 + h) 0x0C .wo [1] s = true →
    (∀ f, reepochFail (taken .tsu q s) h (secureReq q) = some f →
      exec (.reepochCommit q h 1) s = .next (answered .tsu q (0x8100 + h) 0x0C stOk
        (onHerd h (fun x => { x with loadStatus := loadStatusOf s.tsu.agent.deviceId f }) (taken .tsu q s)))) ∧
    (reepochFail (taken .tsu q s) h (secureReq q) = none →
      ∃ t, exec (.reepochCommit q h 1) s = .next t ∧ sameBeyond h s t ∧ (t.tsu.herd h).state = .loaded ∧
        (t.tsu.herd h).memberEpoch = (s.tsu.herd h).stEpoch.getD (s.tsu.herd h).memberEpoch ∧
        (t.tsu.herd h).memberCount = (s.tsu.herd h).stCount.getD (s.tsu.herd h).memberCount ∧
        (t.tsu.herd h).templateId = (s.tsu.herd h).stTemplate.getD (s.tsu.herd h).templateId ∧
        (t.tsu.herd h).stEpoch = none ∧ (t.tsu.herd h).loadStatus = loadStatusOf s.tsu.agent.deviceId { code := 0 } ∧
        (t.tsu.herd h).iter = (s.tsu.herd h).iter ∧ t.tsu.errs.total = bump s.tsu.errs.total)) ∧
  (∀ (q : Req) (h : Nat) (v : BitVec 192) (s : State), h < 64 → admits .tsu q (0x8100 + h) 0x0F .wo (bvBytes v) s = true →
    (s.tsu.herd h).state = .loaded → (s.tsu.herd h).swap = .idle →
    (adoptEpoch v ≠ 0xFFFF → adoptEpoch v ≠ (s.tsu.herd h).liveEpoch → adoptPolicy v = 0 ∨ adoptPolicy v = 1 →
      exec (.drainAdopt q h v) s = .next (answered .tsu q (0x8100 + h) 0x0F stOk (onHerd h (fun x => { x with
        oldEpoch := adoptEpoch v, drainPolicy := decide (adoptPolicy v = 1), flipHt := adoptFlip v, drainEnd := adoptEnd v,
        swap := .flipped }) (taken .tsu q s)))) ∧
    (adoptEpoch v = (s.tsu.herd h).liveEpoch →
      exec (.drainAdopt q h v) s = .next (answered .tsu q (0x8100 + h) 0x0F stRange (taken .tsu q s)))) ∧
  (∀ (q : Req) (h : Nat) (s : State), h < 64 → admits .tsu q (0x8100 + h) 0x0D .wo [1] s = true →
    ((s.tsu.herd h).state = .armed ∨ (s.tsu.herd h).state = .committed →
      ∃ t, exec (.expel q h 1) s = .next t ∧ sameBeyond h s t ∧ (t.tsu.herd h).state = .left ∧ (t.tsu.herd h).lastFault = 0x050D) ∧
    ((s.tsu.herd h).state = .running → pendingFull s.tsu.agent (.herd h) = false →
      ∃ t w, exec (.expel q h 1) s = .next t ∧ t.fjz = s.fjz ∧ t.tsu.herds = s.tsu.herds ∧
        t.tsu.agent.pending = s.tsu.agent.pending ++ [w] ∧ w.ctx = h ∧ w.index = BitVec.ofNat 16 (0x8100 + h) ∧ w.sub = 0x0D ∧ w.value = [1]) ∧
    ((s.tsu.herd h).live = false → exec (.expel q h 1) s = .next (answered .tsu q (0x8100 + h) 0x0D stState (taken .tsu q s))))

/-- R226 to R231: the health score is 1,000 less its penalties and the accumulators decay by a sixty-fourth; samples of a leaf; and the
steward's decisions at the top of a herd: suspect, clear, failed, converted and taken over. -/
def Obligations.HealthAndSteward : Prop :=
  (∀ (symA symB : Nat) (s : State), s.tsu.works = true →
    (s.tsu.tc.frc.toNat < s.tsu.healthAt + 1000000000 → exec (.healthUpdate symA symB) s = .next s.fresh) ∧
    (s.tsu.healthAt + 1000000000 ≤ s.tsu.tc.frc.toNat →
      ∃ t, exec (.healthUpdate symA symB) s = .next t ∧ t.fjz = s.fjz ∧ t.tsu.tc = (takeMedian s.tsu).tc ∧ t.tsu.herds = s.tsu.herds ∧
        t.tsu.healthAt = s.tsu.tc.frc.toNat ∧ t.tsu.secC = 0 ∧ t.tsu.secL = 0 ∧ t.tsu.secX = 0 ∧ t.tsu.health.toNat ≤ 1000 ∧
        (port t .tsu 0).symCorr = bumpBy (port s .tsu 0).symCorr symA ∧
        (port t .tsu 1).symCorr = bumpBy (port s .tsu 1).symCorr symB ∧
        t.tsu.accL.toNat = min (s.tsu.accL.toNat - s.tsu.accL.toNat / 64 + 1024 * min s.tsu.secL 65535) (2 ^ 32 - 1) ∧
        t.tsu.accX.toNat = min (s.tsu.accX.toNat - s.tsu.accX.toNat / 64 + 1024 * min s.tsu.secX 65535) (2 ^ 32 - 1) ∧
        t.tsu.health.toNat = 1000 - ((List.range 5).map fun i => fldN t.tsu.penalties (16 * i) 16).sum)) ∧
  (∀ (q : Req) (v : U32) (s : State), admits .tsu q 0x8000 5 .wo (bvBytes v) s = true →
    exec (.mismatchIn q v) s = .next (answered .tsu q 0x8000 5 stOk (onTsu (fun t => { t with secX := t.secX + v.toNat }) (taken .tsu q s)))) ∧
  (∀ (p : Nat) (s : State), s.fjz.works = true → s.fjz.role = 1 → s.fjz.sampledAt ≠ some (nsOf s.fjz.now / 1000000000) → p < 64 →
    ∃ t, exec .healthSample s = .next t ∧ t.tsu = s.tsu ∧ t.fjz.sampledAt = some (nsOf s.fjz.now / 1000000000) ∧
      (∀ f b, (port s .fjz p).lastBleat = some (f, b) → (port t .fjz p).suspectRun =
        (if fldN b 208 10 < s.fjz.healthSuspect.toNat then (port s .fjz p).suspectRun + 1 else 0)) ∧
      ((port s .fjz p).lastBleat = none → port t .fjz p = port s .fjz p)) ∧
  (∀ (herd die : BitVec 24) (health : U16) (s : State), s.fjz.works = true → s.fjz.isTop herd = true →
    ((s.fjz.steward herd).dieState die = .healthy →
      ∃ t, exec (.suspectReport herd die health) s = .next t ∧ t.tsu = s.tsu ∧ (t.fjz.steward herd).dieState die =
        (if budgetAllows (nsOf s.fjz.now) (s.fjz.steward herd) then .expelDecided else .quarantined)) ∧
    ((s.fjz.steward herd).dieState die = .quarantined →
      ∃ t, exec (.clearReport herd die health) s = .next t ∧ t.tsu = s.tsu ∧ (t.fjz.steward herd).dieState die = .healthy) ∧
    ((s.fjz.steward herd).dieState die ≠ .expelDecided →
      ∃ t, exec (.failConfirmExpiry herd die) s = .next t ∧ t.tsu = s.tsu ∧ (t.fjz.steward herd).dieState die = .expelDecided ∧
        (t.fjz.steward herd).decisions.head? = some (nsOf s.fjz.now) ∧ (t.fjz.steward herd).lastExpel = s.fjz.now) ∧
    (∀ d f, budgetAllows (nsOf s.fjz.now) (s.fjz.steward herd) = true → firstSuspect s.fjz.healthSuspect (s.fjz.steward herd) = some (d, f) →
      ∃ t, exec (.quarantineConvert herd) s = .next t ∧ t.tsu = s.tsu ∧
        (t.fjz.steward herd).dieState (BitVec.ofNat 24 d) = .expelDecided) ∧
    (s.fjz.plane = 1 → exec (.stewardTakeover herd) s = .next (onSteward herd (fun w => { w with took := true }) s.fresh))) ∧
  (∀ (q : Req) (die : U32) (s : State), let herd := element s .fjz q 0x8800 1
    herd < 2 ^ 20 → die.toNat < 2 ^ 24 → admits .fjz q 0x8800 8 .wo (bvBytes die) s = true → s.fjz.isTop (BitVec.ofNat 24 herd) = true →
    (s.fjz.steward (BitVec.ofNat 24 herd)).dieState (die.setWidth 24) ≠ .expelDecided →
    ∃ t, exec (.reportFailed q die) s = .next t ∧ t.tsu = s.tsu ∧
      (t.fjz.steward (BitVec.ofNat 24 herd)).dieState (die.setWidth 24) = .expelDecided)

/-! ## Weight swaps -/

/-- R234 to R236 and R240: a plan takes effect at once in a context that does not run and waits in one that does; so does a cancellation; both
also come as cells, which a chip passes down; a fetch that outlasts its limit is repeated once and then fails; and the repeated fetch launches its
regions. -/
def Obligations.WeightSwaps : Prop :=
  (∀ (q : Req) (h : Nat) (v : BitVec 256) (s : State), h < 64 → admits .tsu q (0x8100 + h) 4 .rws (bvBytes v) s = true →
    ((s.tsu.herd h).state ≠ .free → (s.tsu.herd h).swap = .idle → planRange h v s = true →
      ((s.tsu.herd h).state ≠ .running →
        ∃ t, exec (.swapPlan q h v) s = .next t ∧ sameBeyond h s t ∧ (t.tsu.herd h).swap = .planned ∧ (t.tsu.herd h).swapPlan = v ∧
          (t.tsu.herd h).planSeq = pSeq v ∧ (t.tsu.herd h).attempts = 0 ∧ (t.tsu.herd h).state = (s.tsu.herd h).state) ∧
      ((s.tsu.herd h).state = .running → pendingFull s.tsu.agent (.herd h) = false →
        ∃ t w, exec (.swapPlan q h v) s = .next t ∧ sameBeyond h s t ∧ (t.tsu.herd h).swap = .idle ∧ (t.tsu.herd h).planSeq = pSeq v ∧
          t.tsu.agent.pending = s.tsu.agent.pending ++ [w] ∧ w.ctx = h ∧ w.value = bvBytes v)) ∧
    ((s.tsu.herd h).swap ≠ .idle → exec (.swapPlan q h v) s = .next (answered .tsu q (0x8100 + h) 4 stState (taken .tsu q s))) ∧
    ((s.tsu.herd h).state ≠ .free → (s.tsu.herd h).swap = .idle → planRange h v s = false →
      exec (.swapPlan q h v) s = .next (answered .tsu q (0x8100 + h) 4 stRange (taken .tsu q s)))) ∧
  (∀ (q : Req) (h : Nat) (s : State), h < 64 → admits .tsu q (0x8100 + h) 6 .wo [1] s = true →
    (swapOpen (s.tsu.herd h).swap = true → (s.tsu.herd h).state ≠ .running →
      ∃ t, exec (.swapCancel q h 1) s = .next t ∧ sameBeyond h s t ∧ (t.tsu.herd h).swap = .idle ∧
        t.tsu.errs.total = bump s.tsu.errs.total) ∧
    (swapOpen (s.tsu.herd h).swap = false →
      exec (.swapCancel q h 1) s = .next (answered .tsu q (0x8100 + h) 6 stState (taken .tsu q s)))) ∧
  (∀ (q : Req) (v : BitVec 352) (s : State), admits .fjz q 0x8800 0x0A .wo (bvBytes v) s = true → bcAddr v < 2 ^ 24 →
    (fld v 32 24 : Id24).toNat < 2 ^ 20 → fldN v 56 8 = 1 ∨ fldN v 56 8 = 2 →
    ∃ t, exec (.swapBroadcast q v) s = .next t ∧ t.tsu = s.tsu ∧ t.fjz.ctxs = s.fjz.ctxs ∧ t.fjz.resvs = s.fjz.resvs ∧
      ∀ p ∈ ctrlPorts s (fld v 32 24) (BitVec.ofNat 24 (bcAddr v)), hasRoom s .fjz p →
        ∃ e, (port t .fjz p).txq = (port s .fjz p).txq ++ [e] ∧ e.cell.body = (bcBody v).setWidth 448) ∧
  (∀ (p h : Nat) (c : Cell) (s : State), p < 2 → s.tsu.works = true → arrives .tsu p 0x22 c s = true →
    c.addr = 0xFFFFFF ∨ c.addr = s.tsu.agent.deviceId → s.tsu.ctxOf (cHerdCtrl c) = some h →
    underTest s .tsu (0x8100 + h) = false → (s.tsu.herd h).state ≠ .running →
    (cAction c = 1 → (s.tsu.herd h).state ≠ .free → (s.tsu.herd h).swap = .idle → planRange h (cPlan c) s = true →
      ∃ t, exec (.swapCtrlPlan .tsu p c) s = .next t ∧ sameBeyond h s t ∧ (t.tsu.herd h).swap = .planned ∧
        (t.tsu.herd h).swapPlan = cPlan c ∧ (t.tsu.herd h).planSeq = pSeq (cPlan c)) ∧
    (cAction c = 2 → swapOpen (s.tsu.herd h).swap = true →
      ∃ t, exec (.swapCtrlCancel .tsu p c) s = .next t ∧ sameBeyond h s t ∧ (t.tsu.herd h).swap = .idle)) ∧
  (∀ (p : Nat) (c : Cell) (s : State), p < 72 → s.fjz.works = true → arrives .fjz p 0x22 c s = true → isChildSide s .fjz p = true →
    (cAction c = 1 → ∃ t, exec (.swapCtrlPlan .fjz p c) s = .next t ∧ t.tsu = s.tsu ∧
      ∀ p' ∈ ctrlPorts s (cHerdCtrl c) c.addr, p' ≠ p → hasRoom s .fjz p' →
        ∃ e, (port t .fjz p').txq = (port s .fjz p').txq ++ [e] ∧ e.cell.body = c.body) ∧
    (cAction c = 2 → ∃ t, exec (.swapCtrlCancel .fjz p c) s = .next t ∧ t.tsu = s.tsu ∧
      ∀ p' ∈ ctrlPorts s (cHerdCtrl c) c.addr, p' ≠ p → hasRoom s .fjz p' →
        ∃ e, (port t .fjz p').txq = (port s .fjz p').txq ++ [e] ∧ e.cell.body = c.body)) ∧
  (∀ (h : Nat) (s : State), s.tsu.works = true → h < 64 → s.aheadOf (inPhase 5 (16384 + h)) = false →
    let u := atPhase4 s
    (fetchOver u.tsu (u.tsu.herd h) = false → exec (.swapFetchLimit h) s = .next u) ∧
    (fetchOver u.tsu (u.tsu.herd h) = true →
      ∃ t, exec (.swapFetchLimit h) s = .next t ∧ sameBeyond h u t ∧ t.tsu.errs.total = bump u.tsu.errs.total ∧
        ((u.tsu.herd h).swap = .fetching → (t.tsu.herd h).swap = .refetching ∧ (t.tsu.herd h).refetchWait = true ∧
          (t.tsu.herd h).attempts = 2) ∧
        ((u.tsu.herd h).swap = .refetching → (t.tsu.herd h).swap = .failed))) ∧
  (∀ (h : Nat) (rccs : List (BitVec 48)) (s : State), s.tsu.works = true → h < 64 → s.aheadOf (inPhase 6 (500 + h)) = false →
    (s.tsu.herd h).refetchWait = true →
    let d := s.tsu.desc (s.tsu.herd h).fetchStep
    (regionsIdle s.tsu (dMask d) = true →
      ∃ t, exec (.swapRefetchLaunch h rccs) s = .next t ∧ sameBeyond h s t ∧ (t.tsu.herd h).refetchWait = false ∧
        (t.tsu.herd h).swapSince = s.tsu.tc.frc.toNat ∧ (t.tsu.herd h).swap = (s.tsu.herd h).swap ∧
        ∀ r ∈ regionsOf (dMask d), (t.tsu.region r).launched ≠ [] ∧ (outFree r oLaunch s = true → Out.launch r (dEntry d) h ∈ t.out)) ∧
    (regionsIdle s.tsu (dMask d) = false → exec (.swapRefetchLaunch h rccs) s = .next s.fresh))

/-! ## HALT and the error ring -/

/-- R135, R219, R252 to R257: a HALT goes up to the top that it names, turns there and goes down to every port of the herd; a die applies
it once, to the run that it names, the earliest halt time standing; a late one halts at the next boundary; a NOW stops the regions of the
context. -/
def Obligations.Halts : Prop :=
  (∀ (p : Nat) (c : Cell) (s : State), p < 72 → s.fjz.works = true → arrives .fjz p 6 c s = true →
    (haltDown c = false → s.fjz.role.toNat ≠ haltTop c → mergedBy s.fjz false c = false →
      ∃ t, exec (.haltForward p c) s = .next t ∧ t.tsu = s.tsu ∧ t.fjz.errs = s.fjz.errs ∧
        ∀ p', s.fjz.parentPort = some p' → (port s .fjz p').state = .up →
          (∃ l, (port t .fjz p').txq = l ++ [{ cell := c, bypass := true, ready := counterOf s .fjz }]) ∧
          ((port s .fjz p').continues = none → queued .fjz p' c true s t)) ∧
    (haltDown c = false → s.fjz.role.toNat = haltTop c → haltHerd c ≠ 0xFFFFFF → s.fjz.holdsHerd (haltHerd c) = true →
      mergedBy s.fjz true c = false →
      ∃ t, exec (.haltForward p c) s = .next t ∧ t.tsu = s.tsu ∧
        ∀ p' ∈ s.fjz.withStandby (s.fjz.herdPorts (haltHerd c)), (port s .fjz p').continues = none →
          queued .fjz p' { c with body := putBit c.body 3 true } true s t) ∧
    (haltDown c = true → s.fjz.parentPort = some p → haltHerd c ≠ 0xFFFFFF → mergedBy s.fjz true c = false →
      ∃ t, exec (.haltForward p c) s = .next t ∧ t.tsu = s.tsu ∧ t.fjz.events = s.fjz.events ∧
        ∀ p' ∈ s.fjz.withStandby (s.fjz.herdPorts (haltHerd c)), (port s .fjz p').continues = none →
          queued .fjz p' { c with body := putBit c.body 3 true } true s t) ∧
    (haltDown c = true → s.fjz.parentPort ≠ some p → exec (.haltForward p c) s = .next (received .fjz p c s)) ∧
    (haltDown c = false → s.fjz.role.toNat = haltTop c → haltHerd c ≠ 0xFFFFFF → s.fjz.holdsHerd (haltHerd c) = false →
      exec (.haltForward p c) s = .next (onFjz (fun x => { x with haltDiscards := bump x.haltDiscards }) (received .fjz p c s))) ∧
    (haltDown c = true → s.fjz.parentPort = some p → mergedBy s.fjz true c = true →
      exec (.haltForward p c) s = .next (onFjz (fun x => { x with haltsMerged := bump x.haltsMerged }) (received .fjz p c s)))) ∧
  (∀ (p h : Nat) (c : Cell) (s : State), p < 2 → s.tsu.works = true → arrives .tsu p 6 c s = true → haltTaken s.tsu c = false →
    s.tsu.haltCtx c = some h →
    (haltKind c = 0 → ∃ t, exec (.haltAt p c) s = .next t ∧ sameBeyond h s t ∧ haltTaken t.tsu c = true ∧
      (t.tsu.herd h).halt = some (earlier (s.tsu.herd h).halt (haltHt c)) ∧ (t.tsu.herd h).state = (s.tsu.herd h).state ∧
      (haltIsLate (s.tsu.herd h) (haltHt c) = true → (t.tsu.herd h).haltLate = true ∧ t.tsu.haltLates = bump s.tsu.haltLates ∧
        t.tsu.errs.total = bump s.tsu.errs.total) ∧
      (haltIsLate (s.tsu.herd h) (haltHt c) = false → (t.tsu.herd h).haltLate = (s.tsu.herd h).haltLate ∧ t.tsu.errs = s.tsu.errs)) ∧
    (haltKind c = 1 → ∃ t, exec (.haltPause p c) s = .next t ∧ sameBeyond h s t ∧ haltTaken t.tsu c = true ∧
      (t.tsu.herd h).halt = some (earlier (s.tsu.herd h).halt (haltHt c)) ∧ (t.tsu.herd h).state = (s.tsu.herd h).state) ∧
    (haltKind c = 2 → haltHerd c ≠ 0xFFFFFF → ∃ t, exec (.haltNowCell p c) s = .next t ∧ sameBeyond h s t ∧
      haltTaken t.tsu c = true ∧ (t.tsu.herd h).halt = some (earlier (s.tsu.herd h).halt s.tsu.now) ∧
      (t.tsu.herd h).stoppedNow = true ∧ t.tsu.regions = s.tsu.regions ∧ t.out = (s.tsu.stepsOf h).map Out.stop ∧
      (s.tsu.stepsOf h = [] → t.tsu.errs.total = bump s.tsu.errs.total ∧ (t.tsu.herd h).nowStops = (s.tsu.herd h).nowStops) ∧
      (s.tsu.stepsOf h ≠ [] → t.tsu.errs = s.tsu.errs ∧ ∃ w, (t.tsu.herd h).nowStops = (s.tsu.herd h).nowStops ++ [w] ∧
        w.regions = s.tsu.stepsOf h ∧ w.count = 0))) ∧
  (∀ (p : Nat) (c : Cell) (s : State), p < 2 → s.tsu.works = true → arrives .tsu p 6 c s = true → 3 ≤ haltKind c →
    exec (.haltAt p c) s = .next (onTsu (fun t => { t with haltDiscards := bump t.haltDiscards }) (received .tsu p c s))) ∧
  (∀ (p : Nat) (c : Cell) (s : State), p < 2 → s.tsu.works = true → arrives .tsu p 6 c s = true → haltTaken s.tsu c = true →
    haltKind c = 0 →
    exec (.haltAt p c) s = .next (onTsu (fun t => { t with haltDiscards := bump t.haltDiscards }) (received .tsu p c s))) ∧
  (∀ (q : Req) (v : U32) (s : State), admits .tsu q 0x9040 1 .rws (bvBytes v) s = true →
    (nowReady .tsu v s = true → ∃ t, exec (.haltNow .tsu q v) s = .next t ∧ t.fjz = s.fjz ∧ t.tsu.herds = s.tsu.herds ∧
      t.tsu.haltNow = v ∧ t.tsu.haltSeq = s.tsu.haltSeq + 1 ∧ t.tsu.haltsSent = bump s.tsu.haltsSent) ∧
    (nowReady .tsu v s = false → exec (.haltNow .tsu q v) s = .next (answered .tsu q 0x9040 1 stState (taken .tsu q s)))) ∧
  (∀ (q : Req) (v : U32) (s : State), admits .fjz q 0x9040 1 .rws (bvBytes v) s = true → nowReady .fjz v s = true →
    ∃ t, exec (.haltNow .fjz q v) s = .next t ∧ t.tsu = s.tsu ∧ t.fjz.haltNow = v ∧ t.fjz.haltSeq = s.fjz.haltSeq + 1 ∧
      t.fjz.haltsSent = bump s.fjz.haltsSent)

/-- R247 and R248: a record of the TSU carries its hall time and die, and enters the ring of 256 behind the others, or is dropped with the
overflow flag and the gap mark; the interrupts follow; a pop takes the oldest; and the overflow flag is cleared on command. -/
def Obligations.ErrorRing : Prop :=
  (∀ (r : ErrRec) (s : State),
    let t := enterErrs (raise r s.fresh)
    t.fjz = s.fjz ∧ t.tsu.tc = s.tsu.tc ∧ t.tsu.herds = s.tsu.herds ∧ t.tsu.errs.total = bump s.tsu.errs.total ∧
    (s.tsu.errs.ring.length < 256 → t.tsu.errs.ring = s.tsu.errs.ring ++ [{ r with
        ht := s.tsu.now, die := s.tsu.agent.deviceId, secure := objSecure s .tsu r.object, fjouz := false,
        droppedBefore := s.tsu.errs.gap }] ∧ t.tsu.errs.gap = false ∧ t.tsu.errs.dropped = s.tsu.errs.dropped) ∧
    (256 ≤ s.tsu.errs.ring.length → t.tsu.errs.ring = s.tsu.errs.ring ∧ t.tsu.errs.overflow = true ∧ t.tsu.errs.gap = true ∧
      t.tsu.errs.dropped = satAdd s.tsu.errs.dropped 1) ∧
    (s.tsu.errs.ring = [] → t.tsu.intStatus.getLsbD 1 = true) ∧
    (256 ≤ s.tsu.errs.ring.length → s.tsu.errs.overflow = false → t.tsu.intStatus.getLsbD 2 = true)) ∧
  (∀ (r r' : ErrRec) (s : State), s.tsu.errs.ring.length < 255 → r'.object.toNat < r.object.toNat →
    (enterErrs (raise r' (raise r s.fresh))).tsu.errs.ring.map (·.object) =
      s.tsu.errs.ring.map (·.object) ++ [r'.object, r.object]) ∧
  (∀ (d : Dev) (q : Req) (s : State), admitsRead d q 0x9080 1 true s = true →
    exec (.errPop d q) s = .next (answeredRead d q 0x9080 1 true
      (match (errsOf s d).ring with | r :: _ => bvBytes (errBits r) | [] => List.replicate 32 0)
      (onErrs d (fun e => { e with ring := e.ring.tail }) (taken d q s)))) ∧
  (∀ (d : Dev) (q : Req) (s : State), admits d q 0x9080 4 .wo [1] s = true →
    exec (.errOverflowClear d q 1) s = .next (answered d q 0x9080 4 stOk
      (onErrs d (fun e => { e with overflow := false }) (taken d q s))))

/-! ## The meter core -/

/-- R271 to R277: the part walk takes one slot after another and issues a record where amounts have changed; tenant records on their interval and
on demand; a closed tenant's slot is free; records are signed oldest first, popped once signed, and a pending final record enters when
there is room. -/
def Obligations.MeterRecords : Prop :=
  (∀ s : State, s.tsu.works = true → mpPart s.tsu.meter.params ≠ 0 →
    s.tsu.walkAt + mpPart s.tsu.meter.params * 1000000000 / 65536 ≤ s.tsu.tc.frc.toNat →
    s.tsu.meter.slotsA.get 0 s.tsu.meter.walk = s.tsu.meter.slotsB.get 0 s.tsu.meter.walk → s.tsu.meter.walk < 65535 →
    let i := s.tsu.meter.walk
    let w := s.tsu.meter.slot i
    ∃ t, exec .meterPartWalk s = .next t ∧ t.fjz = s.fjz ∧ t.tsu.tc = s.tsu.tc ∧ t.tsu.herds = s.tsu.herds ∧ t.tsu.meter.walk = i + 1 ∧
      t.tsu.walkAt = s.tsu.tc.frc.toNat ∧
      (partDue s.tsu.meter i = true → t.tsu.meter.slot i = addFld w 160 32 1 ∧ t.tsu.meter.lastPart.get (0, 0) i = (mNs w, mTok w)) ∧
      (partDue s.tsu.meter i = false → t.tsu.meter.slotsA = s.tsu.meter.slotsA ∧ t.tsu.meter.ring = s.tsu.meter.ring)) ∧
  (∀ s : State, s.tsu.works = true → mpTenant s.tsu.meter.params ≠ 0 →
    s.tsu.tenantAt + mpTenant s.tsu.meter.params * 1000000000 ≤ s.tsu.tc.frc.toNat → s.tsu.meter.finals = [] →
    let n := (s.tsu.meter.tenantsA.filter fun e => tnValid e.2).length
    s.tsu.meter.ring.length + n ≤ 8192 →
    ∃ t, exec .tenantInterval s = .next t ∧ t.fjz = s.fjz ∧ t.tsu.tc = s.tsu.tc ∧ t.tsu.tenantAt = s.tsu.tc.frc.toNat ∧
      t.tsu.meter.ring.length = s.tsu.meter.ring.length + n ∧ s.tsu.meter.ring <+: t.tsu.meter.ring ∧
      t.tsu.meter.tenantsA = s.tsu.meter.tenantsA) ∧
  (∀ (q : Req) (v : U32) (s : State), v.toNat < 2 ^ 24 → s.tsu.meter.finals = [] → s.tsu.meter.ring.length < 8192 →
    (admits .tsu q 0xA200 3 .rws (bvBytes v) s = true →
      ∃ t r, exec (.tenantStatement q v) s = .next t ∧ t.fjz = s.fjz ∧ t.tsu.tc = s.tsu.tc ∧ t.tsu.meter.ring = s.tsu.meter.ring ++ [r] ∧
        fldN r.body 0 8 = 3 ∧ t.tsu.meter.tenantsA = s.tsu.meter.tenantsA) ∧
    (admits .tsu q 0xA200 4 .rws (bvBytes v) s = true →
      (∀ k, s.tsu.meter.tenantSlot (v.setWidth 24) = some k → tenantIdle s.tsu (v.setWidth 24) = true →
        ∃ t r, exec (.tenantClose q v) s = .next t ∧ t.fjz = s.fjz ∧ t.tsu.tc = s.tsu.tc ∧
          t.tsu.meter.ring = s.tsu.meter.ring ++ [r] ∧ fldN r.body 0 8 = 4 ∧ t.tsu.meter.tenant k = 0 ∧
          ∀ j, j ≠ k → t.tsu.meter.tenant j = s.tsu.meter.tenant j) ∧
      (s.tsu.meter.tenantSlot (v.setWidth 24) = none ∨ tenantIdle s.tsu (v.setWidth 24) = false →
        exec (.tenantClose q v) s = .next (answered .tsu q 0xA200 4 stState (taken .tsu q s))))) ∧
  (∀ (k : BitVec 256) (a b : List MeterRec) (r : MeterRec) (s : State), s.tsu.works = true → s.tsu.meter.key = some k →
    s.tsu.meter.ring = a ++ r :: b → (∀ x ∈ a, x.sig.isSome = true) → r.sig = none →
    ∃ t, exec .recordSigned s = .next t ∧ t.tsu.meter.ring = a ++ { r with sig := some (signature k r.body) } :: b ∧
      t = { s.fresh with tsu := { s.tsu with meter := { s.tsu.meter with ring := t.tsu.meter.ring } } }) ∧
  (∀ (q : Req) (s : State), admitsRead .tsu q 0xA080 1 true s = true →
    (∀ m, oldestSigned s.tsu.meter = some m → exec (.recPop q) s = .next (answeredRead .tsu q 0xA080 1 true m
      (onMeter (fun x => { x with ring := x.ring.tail }) (taken .tsu q s)))) ∧
    (oldestSigned s.tsu.meter = none → exec (.recPop q) s = .next (answeredRead .tsu q 0xA080 1 true (List.replicate 160 0)
      (taken .tsu q s)))) ∧
  (∀ (i : Nat) (b : BitVec 768) (rest : Tbl (Option (BitVec 768))) (s : State), s.tsu.works = true →
    s.tsu.meter.finals = (i, some b) :: rest → s.tsu.meter.ring.length < 8192 →
    ∃ t r, exec .finalRecordIssue s = .next t ∧ t.fjz = s.fjz ∧ t.tsu.tc = s.tsu.tc ∧ t.tsu.meter.ring = s.tsu.meter.ring ++ [r] ∧
      r = ringRec s.tsu.meter.lostBefore b ∧ t.tsu.meter.finals = rest ∧ t.tsu.meter.slot i = 0 ∧ ∀ j, j ≠ i → t.tsu.meter.slot j = s.tsu.meter.slot j)

/-- R280 to R282: the seal is applied with the logic checksum, a fuse left, parameters in range and a life-cycle state that allows it, and is broken while
one of the 32 break fuses is left; what is refused is logged; the meter is cleared only unsealed; and the end of service of a sealed die breaks
its seal. -/
def Obligations.TheSeal : Prop :=
  (∀ (q : Req) (v : BitVec 192) (s : State), admits .tsu q 0xA000 6 .rws (bvBytes v) s = true → fusesBalanced s.tsu.meter = true →
    (s.tsu.meter.sealFuses < 33 → lcOpen s.tsu.agent = true → s.tsu.meter.isSealed = false → sealSum v = Config.logicChecksum →
      paramsOk (sealParams v) = true → phase8Waits s = false →
      ∃ t, exec (.meterSeal q v) s = .next t ∧ t.fjz = s.fjz ∧ t.tsu.tc = s.tsu.tc ∧ t.tsu.meter.sealFuses = s.tsu.meter.sealFuses + 1 ∧
        t.tsu.meter.breakFuses = s.tsu.meter.breakFuses ∧ t.tsu.meter.isSealed = true ∧
        t.tsu.meter.params = putN (sealParams v) 32 32 0 ∧
        t.tsu.meter.otp.get 0 (s.tsu.meter.sealFuses + 1) = putN (sealParams v) 32 32 0) ∧
    (s.tsu.meter.isSealed = true → exec (.meterSeal q v) s = .next (answered .tsu q 0xA000 6 stState
      (onTsu (fun t => logTamper 4 (sealReason v t) 0 t) (taken .tsu q s))))) ∧
  (∀ (q : Req) (s : State), admits .tsu q 0xA000 7 .rws [1] s = true → fusesBalanced s.tsu.meter = true →
    (s.tsu.meter.isSealed = true → s.tsu.meter.breakFuses < 32 → lcOpen s.tsu.agent = true → phase8Waits s = false →
      ∃ t, exec (.meterUnseal q 1) s = .next t ∧ t.fjz = s.fjz ∧ t.tsu.tc = s.tsu.tc ∧
        t.tsu.meter.breakFuses = s.tsu.meter.breakFuses + 1 ∧ t.tsu.meter.sealFuses = s.tsu.meter.sealFuses ∧
        t.tsu.meter.isSealed = false ∧ t.tsu.errs.total = bump s.tsu.errs.total) ∧
    (unsealReason s.tsu ≠ 0 → exec (.meterUnseal q 1) s = .next (answered .tsu q 0xA000 7 stState
      (onTsu (fun t => logTamper 5 (unsealReason t) 0 t) (taken .tsu q s))))) ∧
  (∀ (q : Req) (s : State), admits .tsu q 0xA000 9 .sealed [1] s = true →
    (phase8Waits s = false →
      ∃ t, exec (.meterClear q 1) s = .next t ∧ t.fjz = s.fjz ∧ t.tsu.tc = s.tsu.tc ∧ t.tsu.meter.sealFuses = s.tsu.meter.sealFuses ∧
        t.tsu.meter.dieA = {} ∧ t.tsu.meter.finals = [] ∧ ∀ i, t.tsu.meter.slot i = 0 ∧ t.tsu.meter.tenant i = 0) ∧
    (phase8Waits s = true →
      ∃ t w, exec (.meterClear q 1) s = .next t ∧ t.fjz = s.fjz ∧ t.tsu.meter = s.tsu.meter ∧
        t.tsu.agent.pending = s.tsu.agent.pending ++ [w] ∧ w.ctx = 64 ∧ w.index = 0xA000 ∧ w.sub = 9 ∧ w.value = [1])) ∧
  (∀ (q : Req) (s : State), admits .tsu q 0xB000 2 .rws (lcBytes 3 0x4C430003) s = true → lcOpen s.tsu.agent = true →
    s.tsu.agent.lcPending = none → s.tsu.allFree = true → s.tsu.meter.isSealed = true → s.tsu.meter.breakFuses < 32 →
    ∃ t, exec (.lcReturn .tsu q 0x4C430003) s = .next t ∧ t.fjz = s.fjz ∧ t.tsu.agent.lcPending = some 2 ∧
      t.tsu.meter.breakFuses = s.tsu.meter.breakFuses + 1 ∧ t.tsu.meter.sealFuses = s.tsu.meter.sealFuses)

/-! ## Flight recorder, replay and dictionary -/

/-- R24, R288 and R292 to R295: staged cells move to the P3 buffer of the port that takes records; a leaf keeps them until it is frozen; freezing
keeps a tail and ends with its record; a thaw empties the window; and its entries are read 16 at a time. -/
def Obligations.FlightRecorder : Prop :=
  (∀ s : State, s.tsu.works = true → (∀ c ∈ s.tsu.staging, c.cls = 3) →
    ∃ t, exec .tapStagingDrain s = .next t ∧ t.fjz = s.fjz ∧ t.tsu.tc = s.tsu.tc ∧ t.tsu.herds = s.tsu.herds ∧
      t.tsu.staging = s.tsu.staging.drop (drainRoom s) ∧
      (port t .tsu (recordPort s)).txq = (port s .tsu (recordPort s)).txq ++
        (s.tsu.staging.take (drainRoom s)).map fun c => { cell := c, ready := s.tsu.tc.frc.toNat }) ∧
  (∀ (p : Nat) (c : Cell) (s : State), p < 64 → s.fjz.works = true → s.fjz.role = 1 → arrives .fjz p 0x30 c s = true →
    ∃ t, exec (.record p c) s = .next t ∧ t.tsu = s.tsu ∧
      (s.fjz.recState = .frozen → t.fjz.window = s.fjz.window ∧ t.fjz.discardedFrozen = bump s.fjz.discardedFrozen) ∧
      (s.fjz.recState ≠ .frozen → t.fjz.window = pushRing windowCap s.fjz.window (storedEntry c.body p c.addr s.fjz.frc) ∧
        t.fjz.discardedFrozen = s.fjz.discardedFrozen)) ∧
  (∀ (q : Req) (s : State), admits .fjz q 0x9200 4 .wo [1] s = true → s.fjz.role = 1 →
    ∃ t, exec (.recFreezeNow q 1) s = .next t ∧ t.tsu = s.tsu ∧ t.fjz.window = s.fjz.window ∧
      (s.fjz.recState = .recording → t.fjz.recState = .tail ∧ t.fjz.freezeHt = s.fjz.now ∧ t.fjz.freezeTrigger = 4) ∧
      (s.fjz.recState ≠ .recording → t.fjz.recState = s.fjz.recState ∧ t.fjz.triggersExtra = bump s.fjz.triggersExtra)) ∧
  (∀ s : State, s.fjz.works = true →
    (tailOver s.fjz = true → ∃ t, exec .recorderFrozen s = .next t ∧ t.tsu = s.tsu ∧ t.fjz.recState = .frozen ∧
      t.fjz.window = s.fjz.window ∧ t.fjz.errs.total = bump s.fjz.errs.total) ∧
    (tailOver s.fjz = false → exec .recorderFrozen s = .next s.fresh)) ∧
  (∀ (q : Req) (s : State), admits .fjz q 0x9200 5 .rws [1] s = true →
    exec (.recThaw q 1) s = .next (answered .fjz q 0x9200 5 stOk
      (onFjz (fun x => { x with recState := .recording, window := [], windowHt := [] }) (taken .fjz q s)))) ∧
  (∀ (q : Req) (s : State), let n := element s .fjz q 0x9200 0x0B
    admitsRead .fjz q 0x9200 0x0C true s = true → n < windowCap →
    exec (.recWindowData q) s = .next (answeredRead .fjz q 0x9200 0x0C true
      ((List.range 16).flatMap fun i => bvBytes (s.fjz.window.getD (n + i) (Config.unwrittenEntry (n + i))))
      (if q.useElement then taken .fjz q s else setSelector .fjz q 0x9200 0x0B (n + 16) (taken .fjz q s))))

/-- R296 to R303: hall time is pinned to the anchor on the tick of REPLAY_SETUP and released to UNSET; the feed takes whole records; its head leaves in
STRICT mode when its descriptor has come and in TIMED mode when its time has; a stall is recorded once; and forced stretches are written only in
a replay. -/
def Obligations.ReplayCommands : Prop :=
  (∀ (q : Req) (v : BitVec 192) (s : State), admits .tsu q 0x9300 1 .rws (bvBytes v) s = true → rsMode v ≤ 1 →
    (s.tsu.tc.state = .unset ∨ s.tsu.tc.state = .freeRun → s.tsu.allFree = true →
      ∃ t, exec (.replaySetup q v) s = .next t ∧ t.fjz = s.fjz ∧ t.tsu.herds = s.tsu.herds ∧ t.tsu.tc.state = .replayPinned ∧
        t.tsu.tc.htValid = true ∧ t.tsu.now = rsAnchor v ∧ t.tsu.tc.rate = 0 ∧ t.tsu.tc.frc = s.tsu.tc.frc ∧
        t.tsu.replaySetup = v ∧ t.tsu.replayMismatches = 0 ∧ t.tsu.faultMatch = 0) ∧
    (s.tsu.allFree = false → exec (.replaySetup q v) s = .next (answered .tsu q 0x9300 1 stState (taken .tsu q s)))) ∧
  (∀ (q : Req) (s : State), admits .tsu q 0x9300 2 .rws [1] s = true →
    (s.tsu.tc.state = .replayPinned → s.tsu.allFree = true →
      ∃ t, exec (.replayRelease q 1) s = .next t ∧ t.fjz = s.fjz ∧ t.tsu.tc.state = .unset ∧ t.tsu.tc.htValid = false ∧
        t.tsu.forcedStretch = 0 ∧ t.tsu.feed = [] ∧ t.tsu.tc.frc = s.tsu.tc.frc) ∧
    (s.tsu.tc.state ≠ .replayPinned → exec (.replayRelease q 1) s = .next (answered .tsu q 0x9300 2 stState (taken .tsu q s)))) ∧
  (∀ (q : Req) (v : Bytes) (s : State), admits .tsu q 0x9300 3 .wo v s = true →
    (∀ rs, parseFeed v.length v = some rs → v.length ≤ feedFree s.tsu → exec (.replayFeed q v) s = .next
      (answered .tsu q 0x9300 3 stOk (onTsu (fun t => { t with feed := t.feed ++ rs }) (taken .tsu q s)))) ∧
    (feedFree s.tsu < v.length → exec (.replayFeed q v) s = .next (answered .tsu q 0x9300 3 stState (taken .tsu q s))) ∧
    (parseFeed v.length v = none → v.length ≤ feedFree s.tsu →
      exec (.replayFeed q v) s = .next (answered .tsu q 0x9300 3 stRange (taken .tsu q s)))) ∧
  (∀ (q : Req) (s : State), admits .tsu q 0x9300 4 .wo [1] s = true →
    ∃ t, exec (.replayEnd q 1) s = .next t ∧ t.fjz = s.fjz ∧ t.tsu.tc = s.tsu.tc ∧ t.tsu.feedEnd = true ∧ t.tsu.feed = s.tsu.feed ∧
      (s.tsu.feed = [] → s.tsu.windowFault ≠ none → s.tsu.ownFault = none → t.tsu.faultMatch = 2)) ∧
  (∀ (r : FeedRec) (rest : List FeedRec) (s : State), s.tsu.works = true → s.tsu.feed = r :: rest →
    (s.tsu.replayStrict = true →
      (feedCtx s.tsu r = none → ∃ t, exec .replayApply s = .next t ∧ t.tsu.feed = rest ∧ t.fjz = s.fjz ∧ t.tsu.tc = s.tsu.tc ∧
        t.tsu.herds = s.tsu.herds) ∧
      (∀ h, feedCtx s.tsu r = some h → strictDue s.tsu h r = false → exec .replayApply s = .next s.fresh) ∧
      (∀ h, feedCtx s.tsu r = some h → strictDue s.tsu h r = true →
        ∃ t, exec .replayApply s = .next t ∧ t.fjz = s.fjz ∧ t.tsu.feed = rest ∧
          (r.kind = 9 → t.tsu.tc = s.tsu.tc ∧ t.tsu.herds = s.tsu.herds ∧ t.tsu.timeValues = s.tsu.timeValues ++
            [(r.herd, BitVec.ofNat 8 (octets r.content 0 1), BitVec.ofNat 8 (octets r.content 1 1), BitVec.ofNat 80 (octets r.content 2 10))]) ∧
          (r.kind = 10 → octets r.content 0 1 = 0 → (s.tsu.herd h).live = true → (t.tsu.herd h).halt =
            some (earlier (s.tsu.herd h).halt (BitVec.ofNat 80 (octets r.content 7 10)))))) ∧
    (s.tsu.replayTimed = true → ∀ h, feedCtx s.tsu r = some h →
      (r.ht.toNat ≤ s.tsu.now.toNat → ∃ t, exec .replayTimedApply s = .next t ∧ t.fjz = s.fjz ∧ t.tsu.feed = rest) ∧
      (s.tsu.now.toNat < r.ht.toNat → exec .replayTimedApply s = .next s.fresh))) ∧
  (∀ s : State, s.tsu.works = true → s.tsu.replayStrict = true → s.tsu.feed ≠ [] → s.tsu.replayStalled = false →
    s.tsu.replayAt + s.tsu.stallMs.toNat * 1000000 ≤ s.tsu.tc.frc.toNat →
    ∃ t, exec .replayStall s = .next t ∧ t.fjz = s.fjz ∧ t.tsu.tc = s.tsu.tc ∧ t.tsu.replayStalled = true ∧ t.tsu.feed = s.tsu.feed ∧
      t.tsu.errs.total = bump s.tsu.errs.total) ∧
  (∀ (q : Req) (v : BitVec 3072) (s : State), admits .tsu q 0x9380 1 .rws (bvBytes v) s = true →
    (s.tsu.tc.state = .replayPinned → (∀ i, i < 16 → forcedOk s.tsu (fld v (192 * i) 192) = true) →
      exec (.forcedStretch q v) s = .next (answered .tsu q 0x9380 1 stOk (onTsu (fun t => { t with forcedStretch := v }) (taken .tsu q s)))) ∧
    (s.tsu.tc.state ≠ .replayPinned → exec (.forcedStretch q v) s = .next (answered .tsu q 0x9380 1 stState (taken .tsu q s))))

/-- R308 to R314: the first check of Table 12.5 that fails gives the status, and a refused write has no other effect; a repeated request only brings
its first response back; a read answers the object's value; the window is free again with its response in it; and a chip brings the
responses of its tunnels home, or answers TIMEOUT. -/
def Obligations.DictionaryAnswers : Prop :=
  (∀ (d : Dev) (q : Req) (op : WriteOp) (s : State), agentUp s d = true → sourceOf d q.src = true → route s d q = .here →
    q.src ≠ .net ∨ zdpHeard s.fjz q = true →
    let u := tunnelCells q op.bytes.length s
    (∀ r, findRsp (agent s d) (asTaken q) = some r → agentWrite d q op s = deliverRsp d { r with src := q.src, peer := q.peer }
      (onAgent d (fun a => { a with duplicates := bump a.duplicates }) u)) ∧
    (findRsp (agent s d) (asTaken q) = none → writeStatus u d (asTaken q) op ≠ stOk → op.access ≠ .sealed → op.refuse = id →
      agentWrite d q op s = answered d q op.index op.sub (writeStatus u d (asTaken q) op)
        (countTaken d (asTaken q) (writeStatus u d (asTaken q) op) u))) ∧
  (∀ (d : Dev) (q : Req) (index : U16) (sub : U8) (s : State),
    let s' := s.fresh
    let op := readOf s' d q index.toNat sub.toNat
    admitsRead d q index.toNat sub.toNat op.pop s op.kind op.elem = true → op.present (heard q s) = true →
    exec (.zdpRead d q index sub) s = .next (answeredRead d q index.toNat sub.toNat op.pop (op.value (taken d q s)) (op.effect (taken d q s)))) ∧
  (∀ (q : Req) (v : U32) (s : State), admits .tsu q 0x2160 3 .rws (bvBytes v) s = true → 1 ≤ v.toNat → v.toNat ≤ 1000 →
    exec (.registerWrite .tsu q 0x2160 3 (bvBytes v)) s = .next (answered .tsu q 0x2160 3 stOk
      (onTc (fun tc => { tc with slewMaxPpb := v }) (taken .tsu q s)))) ∧
  (∀ (busSecure : Bool) (msg : Bytes) (s : State), s.tsu.works = true → s.aheadOf (placeOf (.go busSecure msg)) = false →
    (s.tsu.winBusy = true → exec (.go busSecure msg) s = .next s.fresh) ∧
    (s.tsu.winBusy = false → ∃ t, exec (.go busSecure msg) s = .next t ∧ t.tsu.winBusy = false ∧ t.tsu.winDone = true ∧
      t.tsu.secureGo = busSecure ∧ t.tsu.winRsp.isSome = true ∧ t.tsu.intStatus.getLsbD 0 = true)) ∧
  (∀ (p : Nat) (msg : Bytes) (r : Rsp) (w : BitVec 256 × U64 × Nat) (s : State), p < 64 → s.fjz.works = true → s.fjz.role = 1 →
    (port s .fjz p).state = .up → agentUp s .fjz = true → rspOf msg 0 = some r → hApplied r.hdr = false →
    (port s .fjz p).tunnels.find? (fun w => decide (hReqId w.1 = hReqId r.hdr ∧ hOrigin w.1 = hOrigin r.hdr)) = some w →
    ∃ t, exec (.dictRsp p msg) s = .next t ∧ t.tsu = s.tsu ∧ t.out = [.response .fjz { r with peer := w.2.1 }] ∧
      (port t .fjz p).tunnels = (port s .fjz p).tunnels.erase w ∧ ∀ p', p' ≠ p → port t .fjz p' = port s .fjz p') ∧
  (∀ (p : Nat) (id : U32) (w : BitVec 256 × U64 × Nat) (s : State), p < 72 → s.fjz.works = true →
    (port s .fjz p).tunnels.find? (fun w => decide (hReqId w.1 = id)) = some w →
    w.2.2 + s.fjz.tunnelTimeout.toNat * 1000000 ≤ s.fjz.frc.toNat →
    ∃ t r, exec (.tunnelTimeout p id) s = .next t ∧ t.tsu = s.tsu ∧ t.out = [.response .fjz r] ∧ fldN r.hdr 176 16 = 14 ∧
      hReqId r.hdr = id ∧ r.peer = w.2.1 ∧ (port t .fjz p).tunnels = (port s .fjz p).tunnels.erase w)
end

