-- ==== Sys2Proof/Laws/Tables.lean ====
section
/-! SUPPORT. The laws of tables: what is read after a write, and that every operation keeps the canonical form. -/

namespace Sys2Proof

variable {α : Type}

/-! ## Read after write -/

@[simp] theorem Tbl.get_nil (d : α) (k : Nat) : Tbl.get d ([] : Tbl α) k = d := rfl

@[simp] theorem Tbl.get_erase_same (d : α) (t : Tbl α) (k : Nat) : Tbl.get d (Tbl.erase t k) k = d := by
  induction t with
  | nil => rfl
  | cons e t ih =>
    obtain ⟨i, x⟩ := e
    by_cases h : i = k
    · simpa [Tbl.erase, h] using ih
    · simpa [Tbl.erase, h, Tbl.get] using ih

theorem Tbl.get_erase_ne (d : α) (t : Tbl α) {j k : Nat} (h : j ≠ k) : Tbl.get d (Tbl.erase t k) j = Tbl.get d t j := by
  induction t with
  | nil => rfl
  | cons e t ih =>
    obtain ⟨i, x⟩ := e
    by_cases hk : i = k
    · have hj : i ≠ j := fun e => h (e ▸ hk)
      simp only [Tbl.get, hj, if_false]
      simpa [Tbl.erase, hk] using ih
    · by_cases hj : i = j
      · simp [Tbl.erase, Tbl.get, hj, h]
      · simp only [Tbl.get, hj, if_false]
        rw [← ih]
        simp [Tbl.erase, Tbl.get, hk, hj]

theorem Tbl.get_insert_same (d : α) (t : Tbl α) (k : Nat) (v : α) (h : ∀ e ∈ t, e.1 ≠ k) :
    Tbl.get d (Tbl.insert t k v) k = v := by
  induction t with
  | nil => simp [Tbl.insert, Tbl.get]
  | cons e t ih =>
    obtain ⟨i, x⟩ := e
    have hi : i ≠ k := h (i, x) (by simp)
    by_cases hk : k < i
    · simp [Tbl.insert, Tbl.get, hk]
    · simp [Tbl.insert, Tbl.get, hk, hi, ih fun e he => h e (by simp [he])]

theorem Tbl.get_insert_ne (d : α) (t : Tbl α) {j k : Nat} (v : α) (h : j ≠ k) :
    Tbl.get d (Tbl.insert t k v) j = Tbl.get d t j := by
  induction t with
  | nil => simp [Tbl.insert, Tbl.get, Ne.symm h]
  | cons e t ih =>
    obtain ⟨i, x⟩ := e
    by_cases hk : k < i
    · simp [Tbl.insert, Tbl.get, hk, Ne.symm h]
    · simp only [Tbl.insert, hk, if_false, Tbl.get, ih]

theorem Tbl.erase_ne (t : Tbl α) (k : Nat) : ∀ e ∈ Tbl.erase t k, e.1 ≠ k := by
  intro e he
  simpa [Tbl.erase] using (List.mem_filter.1 he).2

/-- What was stored at an index is read there. -/
@[simp] theorem Tbl.get_set_same [DecidableEq α] (d : α) (t : Tbl α) (k : Nat) (v : α) :
    Tbl.get d (Tbl.set d t k v) k = v := by
  by_cases h : v = d
  · simp [Tbl.set, h]
  · simpa [Tbl.set, h] using Tbl.get_insert_same d _ k v (Tbl.erase_ne t k)

/-- A write leaves every other index alone. -/
theorem Tbl.get_set_ne [DecidableEq α] (d : α) (t : Tbl α) {j k : Nat} (v : α) (h : j ≠ k) :
    Tbl.get d (Tbl.set d t k v) j = Tbl.get d t j := by
  by_cases hv : v = d
  · simpa [Tbl.set, hv] using Tbl.get_erase_ne d t h
  · simpa [Tbl.set, hv] using (Tbl.get_insert_ne d _ v h).trans (Tbl.get_erase_ne d t h)

theorem Tbl.get_set [DecidableEq α] (d : α) (t : Tbl α) (j k : Nat) (v : α) :
    Tbl.get d (Tbl.set d t k v) j = if j = k then v else Tbl.get d t j := by
  by_cases h : j = k
  · subst h; simp
  · simp [h, Tbl.get_set_ne d t v h]

@[simp] theorem Tbl.get_upd_same [DecidableEq α] (d : α) (t : Tbl α) (k : Nat) (f : α → α) :
    Tbl.get d (Tbl.upd d t k f) k = f (Tbl.get d t k) := Tbl.get_set_same d t k _

theorem Tbl.get_upd_ne [DecidableEq α] (d : α) (t : Tbl α) {j k : Nat} (f : α → α) (h : j ≠ k) :
    Tbl.get d (Tbl.upd d t k f) j = Tbl.get d t j := Tbl.get_set_ne d t _ h

theorem Tbl.get_upd [DecidableEq α] (d : α) (t : Tbl α) (j k : Nat) (f : α → α) :
    Tbl.get d (Tbl.upd d t k f) j = if j = k then f (Tbl.get d t j) else Tbl.get d t j := by
  by_cases h : j = k
  · subst h; simp
  · simp [h, Tbl.get_upd_ne d t f h]

/-! ## The canonical form -/

theorem Tbl.wfFrom_mono [DecidableEq α] (d : α) {lo lo' : Nat} (h : lo' ≤ lo) {t : Tbl α} (w : Tbl.wfFrom d lo t = true) :
    Tbl.wfFrom d lo' t = true := by
  cases t with
  | nil => rfl
  | cons e t =>
    obtain ⟨i, x⟩ := e
    simp only [Tbl.wfFrom, Bool.and_eq_true, decide_eq_true_eq] at w ⊢
    exact ⟨⟨by omega, w.1.2⟩, w.2⟩

theorem Tbl.wfFrom_le [DecidableEq α] (d : α) {lo : Nat} {t : Tbl α} (w : Tbl.wfFrom d lo t = true) : ∀ e ∈ t, lo ≤ e.1 := by
  induction t generalizing lo with
  | nil => simp
  | cons e t ih =>
    obtain ⟨i, x⟩ := e
    simp only [Tbl.wfFrom, Bool.and_eq_true, decide_eq_true_eq] at w
    intro e he
    rcases List.mem_cons.1 he with rfl | he
    · exact w.1.1
    · have := ih w.2 e he
      omega

theorem Tbl.wfFrom_erase [DecidableEq α] (d : α) (k : Nat) {lo : Nat} {t : Tbl α} (w : Tbl.wfFrom d lo t = true) :
    Tbl.wfFrom d lo (Tbl.erase t k) = true := by
  induction t generalizing lo with
  | nil => rfl
  | cons e t ih =>
    obtain ⟨i, x⟩ := e
    simp only [Tbl.wfFrom, Bool.and_eq_true, decide_eq_true_eq] at w
    by_cases hk : i = k
    · have h := Tbl.wfFrom_mono d (Nat.le_succ_of_le w.1.1) (ih w.2)
      simpa [Tbl.erase, hk] using h
    · have h : Tbl.wfFrom d lo ((i, x) :: Tbl.erase t k) = true := by
        simp only [Tbl.wfFrom, Bool.and_eq_true, decide_eq_true_eq]
        exact ⟨w.1, ih w.2⟩
      simpa [Tbl.erase, hk] using h

theorem Tbl.wfFrom_insert [DecidableEq α] (d : α) (k : Nat) {v : α} (hv : v ≠ d) {lo : Nat} (hlo : lo ≤ k) {t : Tbl α}
    (w : Tbl.wfFrom d lo t = true) (h : ∀ e ∈ t, e.1 ≠ k) : Tbl.wfFrom d lo (Tbl.insert t k v) = true := by
  induction t generalizing lo with
  | nil => simp [Tbl.insert, Tbl.wfFrom, hv, hlo]
  | cons e t ih =>
    obtain ⟨i, x⟩ := e
    simp only [Tbl.wfFrom, Bool.and_eq_true, decide_eq_true_eq] at w
    have hi : i ≠ k := h (i, x) (by simp)
    by_cases hk : k < i
    · simp only [Tbl.insert, hk, if_true, Tbl.wfFrom, Bool.and_eq_true, decide_eq_true_eq]
      exact ⟨⟨hlo, hv⟩, ⟨by omega, w.1.2⟩, w.2⟩
    · simp only [Tbl.insert, hk, if_false, Tbl.wfFrom, Bool.and_eq_true, decide_eq_true_eq]
      exact ⟨w.1, ih (by omega) w.2 fun e he => h e (by simp [he])⟩

/-- A write keeps the canonical form. -/
theorem Tbl.wf_set [DecidableEq α] (d : α) (k : Nat) (v : α) {t : Tbl α} (w : Tbl.wf d t = true) :
    Tbl.wf d (Tbl.set d t k v) = true := by
  unfold Tbl.wf at w ⊢
  by_cases hv : v = d
  · simpa [Tbl.set, hv] using Tbl.wfFrom_erase d k w
  · simpa [Tbl.set, hv] using Tbl.wfFrom_insert d k hv (Nat.zero_le k) (Tbl.wfFrom_erase d k w) (Tbl.erase_ne t k)

theorem Tbl.wf_upd [DecidableEq α] (d : α) (k : Nat) (f : α → α) {t : Tbl α} (w : Tbl.wf d t = true) :
    Tbl.wf d (Tbl.upd d t k f) = true := Tbl.wf_set d k _ w

theorem Tbl.wf_erase [DecidableEq α] (d : α) (k : Nat) {t : Tbl α} (w : Tbl.wf d t = true) :
    Tbl.wf d (Tbl.erase t k) = true := Tbl.wfFrom_erase d k w

theorem Tbl.wfFrom_mapAll [DecidableEq α] (d : α) (f : Nat → α → α) {lo : Nat} {t : Tbl α} (w : Tbl.wfFrom d lo t = true) :
    Tbl.wfFrom d lo (Tbl.mapAll d t f) = true := by
  induction t generalizing lo with
  | nil => rfl
  | cons e t ih =>
    obtain ⟨i, x⟩ := e
    simp only [Tbl.wfFrom, Bool.and_eq_true, decide_eq_true_eq] at w
    by_cases hx : f i x = d
    · have h := Tbl.wfFrom_mono d (Nat.le_succ_of_le w.1.1) (ih w.2)
      simpa [Tbl.mapAll, hx] using h
    · have h : Tbl.wfFrom d lo ((i, f i x) :: Tbl.mapAll d t f) = true := by
        simp only [Tbl.wfFrom, Bool.and_eq_true, decide_eq_true_eq]
        exact ⟨⟨w.1.1, hx⟩, ih w.2⟩
      simpa [Tbl.mapAll, hx] using h

/-- A change of every element keeps the canonical form. -/
theorem Tbl.wf_mapAll [DecidableEq α] (d : α) (f : Nat → α → α) {t : Tbl α} (w : Tbl.wf d t = true) :
    Tbl.wf d (Tbl.mapAll d t f) = true := Tbl.wfFrom_mapAll d f w

/-! ## Equal readings -/

/-- The element that a filter of the table keeps stays what it was. -/
theorem Tbl.get_filter_ne (d : α) (t : Tbl α) (p : Nat × α → Bool) (k : Nat) (h : ∀ x, p (k, x) = true) :
    Tbl.get d (t.filter p) k = Tbl.get d t k := by
  induction t with
  | nil => rfl
  | cons e t ih =>
    obtain ⟨i, x⟩ := e
    by_cases hk : i = k
    · subst hk; simp [h x, Tbl.get]
    · by_cases hp : p (i, x) = true
      · simp [hp, Tbl.get, hk, ih]
      · simp [hp, Tbl.get, hk, ih]

end Sys2Proof
end

