-- ==== Sys2Proof/Laws/State.lean ====
section
/-! SUPPORT. What each update of State leaves in each of its parts: one equation per update and part, and what an accessor reads
after an update of the same or another element. -/

namespace Sys2Proof.Machine

/-! ## The fields of State -/

@[simp] theorem onTsu_pending (f : Tsu → Tsu) (s : State) : (onTsu f s).pending = s.pending := rfl
@[simp] theorem onTsu_later (f : Tsu → Tsu) (s : State) : (onTsu f s).later = s.later := rfl
@[simp] theorem onTsu_out (f : Tsu → Tsu) (s : State) : (onTsu f s).out = s.out := rfl
@[simp] theorem onTsu_staged (f : Tsu → Tsu) (s : State) : (onTsu f s).staged = s.staged := rfl
@[simp] theorem onTsu_free (f : Tsu → Tsu) (s : State) : (onTsu f s).free = s.free := rfl
@[simp] theorem onTc_pending (f : TimeCore → TimeCore) (s : State) : (onTc f s).pending = s.pending := rfl
@[simp] theorem onTc_later (f : TimeCore → TimeCore) (s : State) : (onTc f s).later = s.later := rfl
@[simp] theorem onTc_out (f : TimeCore → TimeCore) (s : State) : (onTc f s).out = s.out := rfl
@[simp] theorem onTc_staged (f : TimeCore → TimeCore) (s : State) : (onTc f s).staged = s.staged := rfl
@[simp] theorem onTc_free (f : TimeCore → TimeCore) (s : State) : (onTc f s).free = s.free := rfl
@[simp] theorem onMeter_pending (f : Meter → Meter) (s : State) : (onMeter f s).pending = s.pending := rfl
@[simp] theorem onMeter_later (f : Meter → Meter) (s : State) : (onMeter f s).later = s.later := rfl
@[simp] theorem onMeter_out (f : Meter → Meter) (s : State) : (onMeter f s).out = s.out := rfl
@[simp] theorem onMeter_staged (f : Meter → Meter) (s : State) : (onMeter f s).staged = s.staged := rfl
@[simp] theorem onMeter_free (f : Meter → Meter) (s : State) : (onMeter f s).free = s.free := rfl
@[simp] theorem onHerd_pending (h : Nat) (f : Herd → Herd) (s : State) : (onHerd h f s).pending = s.pending := rfl
@[simp] theorem onHerd_later (h : Nat) (f : Herd → Herd) (s : State) : (onHerd h f s).later = s.later := rfl
@[simp] theorem onHerd_out (h : Nat) (f : Herd → Herd) (s : State) : (onHerd h f s).out = s.out := rfl
@[simp] theorem onHerd_staged (h : Nat) (f : Herd → Herd) (s : State) : (onHerd h f s).staged = s.staged := rfl
@[simp] theorem onHerd_free (h : Nat) (f : Herd → Herd) (s : State) : (onHerd h f s).free = s.free := rfl
@[simp] theorem onRegion_pending (n : Nat) (f : Region → Region) (s : State) : (onRegion n f s).pending = s.pending := rfl
@[simp] theorem onRegion_later (n : Nat) (f : Region → Region) (s : State) : (onRegion n f s).later = s.later := rfl
@[simp] theorem onRegion_out (n : Nat) (f : Region → Region) (s : State) : (onRegion n f s).out = s.out := rfl
@[simp] theorem onRegion_staged (n : Nat) (f : Region → Region) (s : State) : (onRegion n f s).staged = s.staged := rfl
@[simp] theorem onRegion_free (n : Nat) (f : Region → Region) (s : State) : (onRegion n f s).free = s.free := rfl
@[simp] theorem onLink_pending (n : Nat) (f : Link → Link) (s : State) : (onLink n f s).pending = s.pending := rfl
@[simp] theorem onLink_later (n : Nat) (f : Link → Link) (s : State) : (onLink n f s).later = s.later := rfl
@[simp] theorem onLink_out (n : Nat) (f : Link → Link) (s : State) : (onLink n f s).out = s.out := rfl
@[simp] theorem onLink_staged (n : Nat) (f : Link → Link) (s : State) : (onLink n f s).staged = s.staged := rfl
@[simp] theorem onLink_free (n : Nat) (f : Link → Link) (s : State) : (onLink n f s).free = s.free := rfl
@[simp] theorem onPart_pending (n : Nat) (f : Part → Part) (s : State) : (onPart n f s).pending = s.pending := rfl
@[simp] theorem onPart_later (n : Nat) (f : Part → Part) (s : State) : (onPart n f s).later = s.later := rfl
@[simp] theorem onPart_out (n : Nat) (f : Part → Part) (s : State) : (onPart n f s).out = s.out := rfl
@[simp] theorem onPart_staged (n : Nat) (f : Part → Part) (s : State) : (onPart n f s).staged = s.staged := rfl
@[simp] theorem onPart_free (n : Nat) (f : Part → Part) (s : State) : (onPart n f s).free = s.free := rfl
@[simp] theorem onFjz_pending (f : Fjz → Fjz) (s : State) : (onFjz f s).pending = s.pending := rfl
@[simp] theorem onFjz_later (f : Fjz → Fjz) (s : State) : (onFjz f s).later = s.later := rfl
@[simp] theorem onFjz_out (f : Fjz → Fjz) (s : State) : (onFjz f s).out = s.out := rfl
@[simp] theorem onFjz_staged (f : Fjz → Fjz) (s : State) : (onFjz f s).staged = s.staged := rfl
@[simp] theorem onFjz_free (f : Fjz → Fjz) (s : State) : (onFjz f s).free = s.free := rfl
@[simp] theorem onCand_pending (n : Nat) (f : Cand → Cand) (s : State) : (onCand n f s).pending = s.pending := rfl
@[simp] theorem onCand_later (n : Nat) (f : Cand → Cand) (s : State) : (onCand n f s).later = s.later := rfl
@[simp] theorem onCand_out (n : Nat) (f : Cand → Cand) (s : State) : (onCand n f s).out = s.out := rfl
@[simp] theorem onCand_staged (n : Nat) (f : Cand → Cand) (s : State) : (onCand n f s).staged = s.staged := rfl
@[simp] theorem onCand_free (n : Nat) (f : Cand → Cand) (s : State) : (onCand n f s).free = s.free := rfl
@[simp] theorem onEth_pending (n : Nat) (f : Eth → Eth) (s : State) : (onEth n f s).pending = s.pending := rfl
@[simp] theorem onEth_later (n : Nat) (f : Eth → Eth) (s : State) : (onEth n f s).later = s.later := rfl
@[simp] theorem onEth_out (n : Nat) (f : Eth → Eth) (s : State) : (onEth n f s).out = s.out := rfl
@[simp] theorem onEth_staged (n : Nat) (f : Eth → Eth) (s : State) : (onEth n f s).staged = s.staged := rfl
@[simp] theorem onEth_free (n : Nat) (f : Eth → Eth) (s : State) : (onEth n f s).free = s.free := rfl
@[simp] theorem onCtx_pending (n : Nat) (f : TineCtx → TineCtx) (s : State) : (onCtx n f s).pending = s.pending := rfl
@[simp] theorem onCtx_later (n : Nat) (f : TineCtx → TineCtx) (s : State) : (onCtx n f s).later = s.later := rfl
@[simp] theorem onCtx_out (n : Nat) (f : TineCtx → TineCtx) (s : State) : (onCtx n f s).out = s.out := rfl
@[simp] theorem onCtx_staged (n : Nat) (f : TineCtx → TineCtx) (s : State) : (onCtx n f s).staged = s.staged := rfl
@[simp] theorem onCtx_free (n : Nat) (f : TineCtx → TineCtx) (s : State) : (onCtx n f s).free = s.free := rfl
@[simp] theorem onPronk_pending (h : Id24) (f : PronkCtr → PronkCtr) (s : State) : (onPronk h f s).pending = s.pending := rfl
@[simp] theorem onPronk_later (h : Id24) (f : PronkCtr → PronkCtr) (s : State) : (onPronk h f s).later = s.later := rfl
@[simp] theorem onPronk_out (h : Id24) (f : PronkCtr → PronkCtr) (s : State) : (onPronk h f s).out = s.out := rfl
@[simp] theorem onPronk_staged (h : Id24) (f : PronkCtr → PronkCtr) (s : State) : (onPronk h f s).staged = s.staged := rfl
@[simp] theorem onPronk_free (h : Id24) (f : PronkCtr → PronkCtr) (s : State) : (onPronk h f s).free = s.free := rfl
@[simp] theorem onSteward_pending (h : Id24) (f : Steward → Steward) (s : State) : (onSteward h f s).pending = s.pending := rfl
@[simp] theorem onSteward_later (h : Id24) (f : Steward → Steward) (s : State) : (onSteward h f s).later = s.later := rfl
@[simp] theorem onSteward_out (h : Id24) (f : Steward → Steward) (s : State) : (onSteward h f s).out = s.out := rfl
@[simp] theorem onSteward_staged (h : Id24) (f : Steward → Steward) (s : State) : (onSteward h f s).staged = s.staged := rfl
@[simp] theorem onSteward_free (h : Id24) (f : Steward → Steward) (s : State) : (onSteward h f s).free = s.free := rfl
@[simp] theorem onPort_pending (d : Dev) (p : Nat) (f : Port → Port) (s : State) : (onPort d p f s).pending = s.pending := by cases d <;> rfl
@[simp] theorem onPort_later (d : Dev) (p : Nat) (f : Port → Port) (s : State) : (onPort d p f s).later = s.later := by cases d <;> rfl
@[simp] theorem onPort_out (d : Dev) (p : Nat) (f : Port → Port) (s : State) : (onPort d p f s).out = s.out := by cases d <;> rfl
@[simp] theorem onPort_staged (d : Dev) (p : Nat) (f : Port → Port) (s : State) : (onPort d p f s).staged = s.staged := by cases d <;> rfl
@[simp] theorem onPort_free (d : Dev) (p : Nat) (f : Port → Port) (s : State) : (onPort d p f s).free = s.free := by cases d <;> rfl
@[simp] theorem onAgent_pending (d : Dev) (f : Agent → Agent) (s : State) : (onAgent d f s).pending = s.pending := by cases d <;> rfl
@[simp] theorem onAgent_later (d : Dev) (f : Agent → Agent) (s : State) : (onAgent d f s).later = s.later := by cases d <;> rfl
@[simp] theorem onAgent_out (d : Dev) (f : Agent → Agent) (s : State) : (onAgent d f s).out = s.out := by cases d <;> rfl
@[simp] theorem onAgent_staged (d : Dev) (f : Agent → Agent) (s : State) : (onAgent d f s).staged = s.staged := by cases d <;> rfl
@[simp] theorem onAgent_free (d : Dev) (f : Agent → Agent) (s : State) : (onAgent d f s).free = s.free := by cases d <;> rfl
@[simp] theorem emit_pending (o : Out) (s : State) : (emit o s).pending = s.pending := rfl
@[simp] theorem emit_later (o : Out) (s : State) : (emit o s).later = s.later := rfl
@[simp] theorem emit_staged (o : Out) (s : State) : (emit o s).staged = s.staged := rfl
@[simp] theorem emit_free (o : Out) (s : State) : (emit o s).free = s.free := rfl
@[simp] theorem emit_tsu (o : Out) (s : State) : (emit o s).tsu = s.tsu := rfl
@[simp] theorem emit_fjz (o : Out) (s : State) : (emit o s).fjz = s.fjz := rfl
@[simp] theorem emit_out (o : Out) (s : State) : (emit o s).out = s.out ++ [o] := rfl

/-! ## The part that an update does not touch -/

@[simp] theorem onTsu_fjz (f : Tsu → Tsu) (s : State) : (onTsu f s).fjz = s.fjz := rfl
@[simp] theorem onTc_fjz (f : TimeCore → TimeCore) (s : State) : (onTc f s).fjz = s.fjz := rfl
@[simp] theorem onMeter_fjz (f : Meter → Meter) (s : State) : (onMeter f s).fjz = s.fjz := rfl
@[simp] theorem onHerd_fjz (h : Nat) (f : Herd → Herd) (s : State) : (onHerd h f s).fjz = s.fjz := rfl
@[simp] theorem onRegion_fjz (n : Nat) (f : Region → Region) (s : State) : (onRegion n f s).fjz = s.fjz := rfl
@[simp] theorem onLink_fjz (n : Nat) (f : Link → Link) (s : State) : (onLink n f s).fjz = s.fjz := rfl
@[simp] theorem onPart_fjz (n : Nat) (f : Part → Part) (s : State) : (onPart n f s).fjz = s.fjz := rfl
@[simp] theorem onPort_tsu_side_fjz (p : Nat) (f : Port → Port) (s : State) : (onPort .tsu p f s).fjz = s.fjz := rfl
@[simp] theorem onAgent_tsu_side_fjz (f : Agent → Agent) (s : State) : (onAgent .tsu f s).fjz = s.fjz := rfl
@[simp] theorem onFjz_tsu (f : Fjz → Fjz) (s : State) : (onFjz f s).tsu = s.tsu := rfl
@[simp] theorem onCand_tsu (n : Nat) (f : Cand → Cand) (s : State) : (onCand n f s).tsu = s.tsu := rfl
@[simp] theorem onEth_tsu (n : Nat) (f : Eth → Eth) (s : State) : (onEth n f s).tsu = s.tsu := rfl
@[simp] theorem onCtx_tsu (n : Nat) (f : TineCtx → TineCtx) (s : State) : (onCtx n f s).tsu = s.tsu := rfl
@[simp] theorem onPronk_tsu (h : Id24) (f : PronkCtr → PronkCtr) (s : State) : (onPronk h f s).tsu = s.tsu := rfl
@[simp] theorem onSteward_tsu (h : Id24) (f : Steward → Steward) (s : State) : (onSteward h f s).tsu = s.tsu := rfl
@[simp] theorem onPort_fjz_side_tsu (p : Nat) (f : Port → Port) (s : State) : (onPort .fjz p f s).tsu = s.tsu := rfl
@[simp] theorem onAgent_fjz_side_tsu (f : Agent → Agent) (s : State) : (onAgent .fjz f s).tsu = s.tsu := rfl
@[simp] theorem onTsu_tsu (f : Tsu → Tsu) (s : State) : (onTsu f s).tsu = f s.tsu := rfl
@[simp] theorem onFjz_fjz (f : Fjz → Fjz) (s : State) : (onFjz f s).fjz = f s.fjz := rfl

/-! ## The fields of a part that an update does not touch -/

@[simp] theorem onTc_tsu_phase (f : TimeCore → TimeCore) (s : State) : (onTc f s).tsu.phase = s.tsu.phase := rfl
@[simp] theorem onTc_tsu_intStatus (f : TimeCore → TimeCore) (s : State) : (onTc f s).tsu.intStatus = s.tsu.intStatus := rfl
@[simp] theorem onTc_tsu_agent (f : TimeCore → TimeCore) (s : State) : (onTc f s).tsu.agent = s.tsu.agent := rfl
@[simp] theorem onTc_tsu_ports (f : TimeCore → TimeCore) (s : State) : (onTc f s).tsu.ports = s.tsu.ports := rfl
@[simp] theorem onTc_tsu_regions (f : TimeCore → TimeCore) (s : State) : (onTc f s).tsu.regions = s.tsu.regions := rfl
@[simp] theorem onTc_tsu_links (f : TimeCore → TimeCore) (s : State) : (onTc f s).tsu.links = s.tsu.links := rfl
@[simp] theorem onTc_tsu_steps (f : TimeCore → TimeCore) (s : State) : (onTc f s).tsu.steps = s.tsu.steps := rfl
@[simp] theorem onTc_tsu_herds (f : TimeCore → TimeCore) (s : State) : (onTc f s).tsu.herds = s.tsu.herds := rfl
@[simp] theorem onTc_tsu_ledger (f : TimeCore → TimeCore) (s : State) : (onTc f s).tsu.ledger = s.tsu.ledger := rfl
@[simp] theorem onTc_tsu_counters (f : TimeCore → TimeCore) (s : State) : (onTc f s).tsu.counters = s.tsu.counters := rfl
@[simp] theorem onTc_tsu_events (f : TimeCore → TimeCore) (s : State) : (onTc f s).tsu.events = s.tsu.events := rfl
@[simp] theorem onTc_tsu_watches (f : TimeCore → TimeCore) (s : State) : (onTc f s).tsu.watches = s.tsu.watches := rfl
@[simp] theorem onTc_tsu_parts (f : TimeCore → TimeCore) (s : State) : (onTc f s).tsu.parts = s.tsu.parts := rfl
@[simp] theorem onTc_tsu_templates (f : TimeCore → TimeCore) (s : State) : (onTc f s).tsu.templates = s.tsu.templates := rfl
@[simp] theorem onTc_tsu_errs (f : TimeCore → TimeCore) (s : State) : (onTc f s).tsu.errs = s.tsu.errs := rfl
@[simp] theorem onTc_tsu_meter (f : TimeCore → TimeCore) (s : State) : (onTc f s).tsu.meter = s.tsu.meter := rfl
@[simp] theorem onTc_tsu_staging (f : TimeCore → TimeCore) (s : State) : (onTc f s).tsu.staging = s.tsu.staging := rfl
@[simp] theorem onTc_tsu_haltSeq (f : TimeCore → TimeCore) (s : State) : (onTc f s).tsu.haltSeq = s.tsu.haltSeq := rfl
@[simp] theorem onMeter_tsu_phase (f : Meter → Meter) (s : State) : (onMeter f s).tsu.phase = s.tsu.phase := rfl
@[simp] theorem onMeter_tsu_intStatus (f : Meter → Meter) (s : State) : (onMeter f s).tsu.intStatus = s.tsu.intStatus := rfl
@[simp] theorem onMeter_tsu_agent (f : Meter → Meter) (s : State) : (onMeter f s).tsu.agent = s.tsu.agent := rfl
@[simp] theorem onMeter_tsu_tc (f : Meter → Meter) (s : State) : (onMeter f s).tsu.tc = s.tsu.tc := rfl
@[simp] theorem onMeter_tsu_ports (f : Meter → Meter) (s : State) : (onMeter f s).tsu.ports = s.tsu.ports := rfl
@[simp] theorem onMeter_tsu_regions (f : Meter → Meter) (s : State) : (onMeter f s).tsu.regions = s.tsu.regions := rfl
@[simp] theorem onMeter_tsu_links (f : Meter → Meter) (s : State) : (onMeter f s).tsu.links = s.tsu.links := rfl
@[simp] theorem onMeter_tsu_steps (f : Meter → Meter) (s : State) : (onMeter f s).tsu.steps = s.tsu.steps := rfl
@[simp] theorem onMeter_tsu_herds (f : Meter → Meter) (s : State) : (onMeter f s).tsu.herds = s.tsu.herds := rfl
@[simp] theorem onMeter_tsu_ledger (f : Meter → Meter) (s : State) : (onMeter f s).tsu.ledger = s.tsu.ledger := rfl
@[simp] theorem onMeter_tsu_counters (f : Meter → Meter) (s : State) : (onMeter f s).tsu.counters = s.tsu.counters := rfl
@[simp] theorem onMeter_tsu_events (f : Meter → Meter) (s : State) : (onMeter f s).tsu.events = s.tsu.events := rfl
@[simp] theorem onMeter_tsu_watches (f : Meter → Meter) (s : State) : (onMeter f s).tsu.watches = s.tsu.watches := rfl
@[simp] theorem onMeter_tsu_parts (f : Meter → Meter) (s : State) : (onMeter f s).tsu.parts = s.tsu.parts := rfl
@[simp] theorem onMeter_tsu_templates (f : Meter → Meter) (s : State) : (onMeter f s).tsu.templates = s.tsu.templates := rfl
@[simp] theorem onMeter_tsu_errs (f : Meter → Meter) (s : State) : (onMeter f s).tsu.errs = s.tsu.errs := rfl
@[simp] theorem onMeter_tsu_staging (f : Meter → Meter) (s : State) : (onMeter f s).tsu.staging = s.tsu.staging := rfl
@[simp] theorem onMeter_tsu_haltSeq (f : Meter → Meter) (s : State) : (onMeter f s).tsu.haltSeq = s.tsu.haltSeq := rfl
@[simp] theorem onHerd_tsu_phase (h : Nat) (f : Herd → Herd) (s : State) : (onHerd h f s).tsu.phase = s.tsu.phase := rfl
@[simp] theorem onHerd_tsu_intStatus (h : Nat) (f : Herd → Herd) (s : State) : (onHerd h f s).tsu.intStatus = s.tsu.intStatus := rfl
@[simp] theorem onHerd_tsu_agent (h : Nat) (f : Herd → Herd) (s : State) : (onHerd h f s).tsu.agent = s.tsu.agent := rfl
@[simp] theorem onHerd_tsu_tc (h : Nat) (f : Herd → Herd) (s : State) : (onHerd h f s).tsu.tc = s.tsu.tc := rfl
@[simp] theorem onHerd_tsu_ports (h : Nat) (f : Herd → Herd) (s : State) : (onHerd h f s).tsu.ports = s.tsu.ports := rfl
@[simp] theorem onHerd_tsu_regions (h : Nat) (f : Herd → Herd) (s : State) : (onHerd h f s).tsu.regions = s.tsu.regions := rfl
@[simp] theorem onHerd_tsu_links (h : Nat) (f : Herd → Herd) (s : State) : (onHerd h f s).tsu.links = s.tsu.links := rfl
@[simp] theorem onHerd_tsu_steps (h : Nat) (f : Herd → Herd) (s : State) : (onHerd h f s).tsu.steps = s.tsu.steps := rfl
@[simp] theorem onHerd_tsu_ledger (h : Nat) (f : Herd → Herd) (s : State) : (onHerd h f s).tsu.ledger = s.tsu.ledger := rfl
@[simp] theorem onHerd_tsu_counters (h : Nat) (f : Herd → Herd) (s : State) : (onHerd h f s).tsu.counters = s.tsu.counters := rfl
@[simp] theorem onHerd_tsu_events (h : Nat) (f : Herd → Herd) (s : State) : (onHerd h f s).tsu.events = s.tsu.events := rfl
@[simp] theorem onHerd_tsu_watches (h : Nat) (f : Herd → Herd) (s : State) : (onHerd h f s).tsu.watches = s.tsu.watches := rfl
@[simp] theorem onHerd_tsu_parts (h : Nat) (f : Herd → Herd) (s : State) : (onHerd h f s).tsu.parts = s.tsu.parts := rfl
@[simp] theorem onHerd_tsu_templates (h : Nat) (f : Herd → Herd) (s : State) : (onHerd h f s).tsu.templates = s.tsu.templates := rfl
@[simp] theorem onHerd_tsu_errs (h : Nat) (f : Herd → Herd) (s : State) : (onHerd h f s).tsu.errs = s.tsu.errs := rfl
@[simp] theorem onHerd_tsu_meter (h : Nat) (f : Herd → Herd) (s : State) : (onHerd h f s).tsu.meter = s.tsu.meter := rfl
@[simp] theorem onHerd_tsu_staging (h : Nat) (f : Herd → Herd) (s : State) : (onHerd h f s).tsu.staging = s.tsu.staging := rfl
@[simp] theorem onHerd_tsu_haltSeq (h : Nat) (f : Herd → Herd) (s : State) : (onHerd h f s).tsu.haltSeq = s.tsu.haltSeq := rfl
@[simp] theorem onRegion_tsu_phase (n : Nat) (f : Region → Region) (s : State) : (onRegion n f s).tsu.phase = s.tsu.phase := rfl
@[simp] theorem onRegion_tsu_intStatus (n : Nat) (f : Region → Region) (s : State) : (onRegion n f s).tsu.intStatus = s.tsu.intStatus := rfl
@[simp] theorem onRegion_tsu_agent (n : Nat) (f : Region → Region) (s : State) : (onRegion n f s).tsu.agent = s.tsu.agent := rfl
@[simp] theorem onRegion_tsu_tc (n : Nat) (f : Region → Region) (s : State) : (onRegion n f s).tsu.tc = s.tsu.tc := rfl
@[simp] theorem onRegion_tsu_ports (n : Nat) (f : Region → Region) (s : State) : (onRegion n f s).tsu.ports = s.tsu.ports := rfl
@[simp] theorem onRegion_tsu_links (n : Nat) (f : Region → Region) (s : State) : (onRegion n f s).tsu.links = s.tsu.links := rfl
@[simp] theorem onRegion_tsu_steps (n : Nat) (f : Region → Region) (s : State) : (onRegion n f s).tsu.steps = s.tsu.steps := rfl
@[simp] theorem onRegion_tsu_herds (n : Nat) (f : Region → Region) (s : State) : (onRegion n f s).tsu.herds = s.tsu.herds := rfl
@[simp] theorem onRegion_tsu_ledger (n : Nat) (f : Region → Region) (s : State) : (onRegion n f s).tsu.ledger = s.tsu.ledger := rfl
@[simp] theorem onRegion_tsu_counters (n : Nat) (f : Region → Region) (s : State) : (onRegion n f s).tsu.counters = s.tsu.counters := rfl
@[simp] theorem onRegion_tsu_events (n : Nat) (f : Region → Region) (s : State) : (onRegion n f s).tsu.events = s.tsu.events := rfl
@[simp] theorem onRegion_tsu_watches (n : Nat) (f : Region → Region) (s : State) : (onRegion n f s).tsu.watches = s.tsu.watches := rfl
@[simp] theorem onRegion_tsu_parts (n : Nat) (f : Region → Region) (s : State) : (onRegion n f s).tsu.parts = s.tsu.parts := rfl
@[simp] theorem onRegion_tsu_templates (n : Nat) (f : Region → Region) (s : State) : (onRegion n f s).tsu.templates = s.tsu.templates := rfl
@[simp] theorem onRegion_tsu_errs (n : Nat) (f : Region → Region) (s : State) : (onRegion n f s).tsu.errs = s.tsu.errs := rfl
@[simp] theorem onRegion_tsu_meter (n : Nat) (f : Region → Region) (s : State) : (onRegion n f s).tsu.meter = s.tsu.meter := rfl
@[simp] theorem onRegion_tsu_staging (n : Nat) (f : Region → Region) (s : State) : (onRegion n f s).tsu.staging = s.tsu.staging := rfl
@[simp] theorem onRegion_tsu_haltSeq (n : Nat) (f : Region → Region) (s : State) : (onRegion n f s).tsu.haltSeq = s.tsu.haltSeq := rfl
@[simp] theorem onLink_tsu_phase (n : Nat) (f : Link → Link) (s : State) : (onLink n f s).tsu.phase = s.tsu.phase := rfl
@[simp] theorem onLink_tsu_intStatus (n : Nat) (f : Link → Link) (s : State) : (onLink n f s).tsu.intStatus = s.tsu.intStatus := rfl
@[simp] theorem onLink_tsu_agent (n : Nat) (f : Link → Link) (s : State) : (onLink n f s).tsu.agent = s.tsu.agent := rfl
@[simp] theorem onLink_tsu_tc (n : Nat) (f : Link → Link) (s : State) : (onLink n f s).tsu.tc = s.tsu.tc := rfl
@[simp] theorem onLink_tsu_ports (n : Nat) (f : Link → Link) (s : State) : (onLink n f s).tsu.ports = s.tsu.ports := rfl
@[simp] theorem onLink_tsu_regions (n : Nat) (f : Link → Link) (s : State) : (onLink n f s).tsu.regions = s.tsu.regions := rfl
@[simp] theorem onLink_tsu_steps (n : Nat) (f : Link → Link) (s : State) : (onLink n f s).tsu.steps = s.tsu.steps := rfl
@[simp] theorem onLink_tsu_herds (n : Nat) (f : Link → Link) (s : State) : (onLink n f s).tsu.herds = s.tsu.herds := rfl
@[simp] theorem onLink_tsu_ledger (n : Nat) (f : Link → Link) (s : State) : (onLink n f s).tsu.ledger = s.tsu.ledger := rfl
@[simp] theorem onLink_tsu_counters (n : Nat) (f : Link → Link) (s : State) : (onLink n f s).tsu.counters = s.tsu.counters := rfl
@[simp] theorem onLink_tsu_events (n : Nat) (f : Link → Link) (s : State) : (onLink n f s).tsu.events = s.tsu.events := rfl
@[simp] theorem onLink_tsu_watches (n : Nat) (f : Link → Link) (s : State) : (onLink n f s).tsu.watches = s.tsu.watches := rfl
@[simp] theorem onLink_tsu_parts (n : Nat) (f : Link → Link) (s : State) : (onLink n f s).tsu.parts = s.tsu.parts := rfl
@[simp] theorem onLink_tsu_templates (n : Nat) (f : Link → Link) (s : State) : (onLink n f s).tsu.templates = s.tsu.templates := rfl
@[simp] theorem onLink_tsu_errs (n : Nat) (f : Link → Link) (s : State) : (onLink n f s).tsu.errs = s.tsu.errs := rfl
@[simp] theorem onLink_tsu_meter (n : Nat) (f : Link → Link) (s : State) : (onLink n f s).tsu.meter = s.tsu.meter := rfl
@[simp] theorem onLink_tsu_staging (n : Nat) (f : Link → Link) (s : State) : (onLink n f s).tsu.staging = s.tsu.staging := rfl
@[simp] theorem onLink_tsu_haltSeq (n : Nat) (f : Link → Link) (s : State) : (onLink n f s).tsu.haltSeq = s.tsu.haltSeq := rfl
@[simp] theorem onPart_tsu_phase (n : Nat) (f : Part → Part) (s : State) : (onPart n f s).tsu.phase = s.tsu.phase := rfl
@[simp] theorem onPart_tsu_intStatus (n : Nat) (f : Part → Part) (s : State) : (onPart n f s).tsu.intStatus = s.tsu.intStatus := rfl
@[simp] theorem onPart_tsu_agent (n : Nat) (f : Part → Part) (s : State) : (onPart n f s).tsu.agent = s.tsu.agent := rfl
@[simp] theorem onPart_tsu_tc (n : Nat) (f : Part → Part) (s : State) : (onPart n f s).tsu.tc = s.tsu.tc := rfl
@[simp] theorem onPart_tsu_ports (n : Nat) (f : Part → Part) (s : State) : (onPart n f s).tsu.ports = s.tsu.ports := rfl
@[simp] theorem onPart_tsu_regions (n : Nat) (f : Part → Part) (s : State) : (onPart n f s).tsu.regions = s.tsu.regions := rfl
@[simp] theorem onPart_tsu_links (n : Nat) (f : Part → Part) (s : State) : (onPart n f s).tsu.links = s.tsu.links := rfl
@[simp] theorem onPart_tsu_steps (n : Nat) (f : Part → Part) (s : State) : (onPart n f s).tsu.steps = s.tsu.steps := rfl
@[simp] theorem onPart_tsu_herds (n : Nat) (f : Part → Part) (s : State) : (onPart n f s).tsu.herds = s.tsu.herds := rfl
@[simp] theorem onPart_tsu_ledger (n : Nat) (f : Part → Part) (s : State) : (onPart n f s).tsu.ledger = s.tsu.ledger := rfl
@[simp] theorem onPart_tsu_counters (n : Nat) (f : Part → Part) (s : State) : (onPart n f s).tsu.counters = s.tsu.counters := rfl
@[simp] theorem onPart_tsu_events (n : Nat) (f : Part → Part) (s : State) : (onPart n f s).tsu.events = s.tsu.events := rfl
@[simp] theorem onPart_tsu_watches (n : Nat) (f : Part → Part) (s : State) : (onPart n f s).tsu.watches = s.tsu.watches := rfl
@[simp] theorem onPart_tsu_templates (n : Nat) (f : Part → Part) (s : State) : (onPart n f s).tsu.templates = s.tsu.templates := rfl
@[simp] theorem onPart_tsu_errs (n : Nat) (f : Part → Part) (s : State) : (onPart n f s).tsu.errs = s.tsu.errs := rfl
@[simp] theorem onPart_tsu_meter (n : Nat) (f : Part → Part) (s : State) : (onPart n f s).tsu.meter = s.tsu.meter := rfl
@[simp] theorem onPart_tsu_staging (n : Nat) (f : Part → Part) (s : State) : (onPart n f s).tsu.staging = s.tsu.staging := rfl
@[simp] theorem onPart_tsu_haltSeq (n : Nat) (f : Part → Part) (s : State) : (onPart n f s).tsu.haltSeq = s.tsu.haltSeq := rfl
@[simp] theorem onPort_tsu_side_tsu_phase (p : Nat) (f : Port → Port) (s : State) : (onPort .tsu p f s).tsu.phase = s.tsu.phase := rfl
@[simp] theorem onPort_tsu_side_tsu_intStatus (p : Nat) (f : Port → Port) (s : State) : (onPort .tsu p f s).tsu.intStatus = s.tsu.intStatus := rfl
@[simp] theorem onPort_tsu_side_tsu_agent (p : Nat) (f : Port → Port) (s : State) : (onPort .tsu p f s).tsu.agent = s.tsu.agent := rfl
@[simp] theorem onPort_tsu_side_tsu_tc (p : Nat) (f : Port → Port) (s : State) : (onPort .tsu p f s).tsu.tc = s.tsu.tc := rfl
@[simp] theorem onPort_tsu_side_tsu_regions (p : Nat) (f : Port → Port) (s : State) : (onPort .tsu p f s).tsu.regions = s.tsu.regions := rfl
@[simp] theorem onPort_tsu_side_tsu_links (p : Nat) (f : Port → Port) (s : State) : (onPort .tsu p f s).tsu.links = s.tsu.links := rfl
@[simp] theorem onPort_tsu_side_tsu_steps (p : Nat) (f : Port → Port) (s : State) : (onPort .tsu p f s).tsu.steps = s.tsu.steps := rfl
@[simp] theorem onPort_tsu_side_tsu_herds (p : Nat) (f : Port → Port) (s : State) : (onPort .tsu p f s).tsu.herds = s.tsu.herds := rfl
@[simp] theorem onPort_tsu_side_tsu_ledger (p : Nat) (f : Port → Port) (s : State) : (onPort .tsu p f s).tsu.ledger = s.tsu.ledger := rfl
@[simp] theorem onPort_tsu_side_tsu_counters (p : Nat) (f : Port → Port) (s : State) : (onPort .tsu p f s).tsu.counters = s.tsu.counters := rfl
@[simp] theorem onPort_tsu_side_tsu_events (p : Nat) (f : Port → Port) (s : State) : (onPort .tsu p f s).tsu.events = s.tsu.events := rfl
@[simp] theorem onPort_tsu_side_tsu_watches (p : Nat) (f : Port → Port) (s : State) : (onPort .tsu p f s).tsu.watches = s.tsu.watches := rfl
@[simp] theorem onPort_tsu_side_tsu_parts (p : Nat) (f : Port → Port) (s : State) : (onPort .tsu p f s).tsu.parts = s.tsu.parts := rfl
@[simp] theorem onPort_tsu_side_tsu_templates (p : Nat) (f : Port → Port) (s : State) : (onPort .tsu p f s).tsu.templates = s.tsu.templates := rfl
@[simp] theorem onPort_tsu_side_tsu_errs (p : Nat) (f : Port → Port) (s : State) : (onPort .tsu p f s).tsu.errs = s.tsu.errs := rfl
@[simp] theorem onPort_tsu_side_tsu_meter (p : Nat) (f : Port → Port) (s : State) : (onPort .tsu p f s).tsu.meter = s.tsu.meter := rfl
@[simp] theorem onPort_tsu_side_tsu_staging (p : Nat) (f : Port → Port) (s : State) : (onPort .tsu p f s).tsu.staging = s.tsu.staging := rfl
@[simp] theorem onPort_tsu_side_tsu_haltSeq (p : Nat) (f : Port → Port) (s : State) : (onPort .tsu p f s).tsu.haltSeq = s.tsu.haltSeq := rfl
@[simp] theorem onAgent_tsu_side_tsu_phase (f : Agent → Agent) (s : State) : (onAgent .tsu f s).tsu.phase = s.tsu.phase := rfl
@[simp] theorem onAgent_tsu_side_tsu_intStatus (f : Agent → Agent) (s : State) : (onAgent .tsu f s).tsu.intStatus = s.tsu.intStatus := rfl
@[simp] theorem onAgent_tsu_side_tsu_tc (f : Agent → Agent) (s : State) : (onAgent .tsu f s).tsu.tc = s.tsu.tc := rfl
@[simp] theorem onAgent_tsu_side_tsu_ports (f : Agent → Agent) (s : State) : (onAgent .tsu f s).tsu.ports = s.tsu.ports := rfl
@[simp] theorem onAgent_tsu_side_tsu_regions (f : Agent → Agent) (s : State) : (onAgent .tsu f s).tsu.regions = s.tsu.regions := rfl
@[simp] theorem onAgent_tsu_side_tsu_links (f : Agent → Agent) (s : State) : (onAgent .tsu f s).tsu.links = s.tsu.links := rfl
@[simp] theorem onAgent_tsu_side_tsu_steps (f : Agent → Agent) (s : State) : (onAgent .tsu f s).tsu.steps = s.tsu.steps := rfl
@[simp] theorem onAgent_tsu_side_tsu_herds (f : Agent → Agent) (s : State) : (onAgent .tsu f s).tsu.herds = s.tsu.herds := rfl
@[simp] theorem onAgent_tsu_side_tsu_ledger (f : Agent → Agent) (s : State) : (onAgent .tsu f s).tsu.ledger = s.tsu.ledger := rfl
@[simp] theorem onAgent_tsu_side_tsu_counters (f : Agent → Agent) (s : State) : (onAgent .tsu f s).tsu.counters = s.tsu.counters := rfl
@[simp] theorem onAgent_tsu_side_tsu_events (f : Agent → Agent) (s : State) : (onAgent .tsu f s).tsu.events = s.tsu.events := rfl
@[simp] theorem onAgent_tsu_side_tsu_watches (f : Agent → Agent) (s : State) : (onAgent .tsu f s).tsu.watches = s.tsu.watches := rfl
@[simp] theorem onAgent_tsu_side_tsu_parts (f : Agent → Agent) (s : State) : (onAgent .tsu f s).tsu.parts = s.tsu.parts := rfl
@[simp] theorem onAgent_tsu_side_tsu_templates (f : Agent → Agent) (s : State) : (onAgent .tsu f s).tsu.templates = s.tsu.templates := rfl
@[simp] theorem onAgent_tsu_side_tsu_errs (f : Agent → Agent) (s : State) : (onAgent .tsu f s).tsu.errs = s.tsu.errs := rfl
@[simp] theorem onAgent_tsu_side_tsu_meter (f : Agent → Agent) (s : State) : (onAgent .tsu f s).tsu.meter = s.tsu.meter := rfl
@[simp] theorem onAgent_tsu_side_tsu_staging (f : Agent → Agent) (s : State) : (onAgent .tsu f s).tsu.staging = s.tsu.staging := rfl
@[simp] theorem onAgent_tsu_side_tsu_haltSeq (f : Agent → Agent) (s : State) : (onAgent .tsu f s).tsu.haltSeq = s.tsu.haltSeq := rfl
@[simp] theorem onCand_fjz_agent (n : Nat) (f : Cand → Cand) (s : State) : (onCand n f s).fjz.agent = s.fjz.agent := rfl
@[simp] theorem onCand_fjz_ports (n : Nat) (f : Cand → Cand) (s : State) : (onCand n f s).fjz.ports = s.fjz.ports := rfl
@[simp] theorem onCand_fjz_eths (n : Nat) (f : Cand → Cand) (s : State) : (onCand n f s).fjz.eths = s.fjz.eths := rfl
@[simp] theorem onCand_fjz_ctxs (n : Nat) (f : Cand → Cand) (s : State) : (onCand n f s).fjz.ctxs = s.fjz.ctxs := rfl
@[simp] theorem onCand_fjz_resvs (n : Nat) (f : Cand → Cand) (s : State) : (onCand n f s).fjz.resvs = s.fjz.resvs := rfl
@[simp] theorem onCand_fjz_pronks (n : Nat) (f : Cand → Cand) (s : State) : (onCand n f s).fjz.pronks = s.fjz.pronks := rfl
@[simp] theorem onCand_fjz_stewards (n : Nat) (f : Cand → Cand) (s : State) : (onCand n f s).fjz.stewards = s.fjz.stewards := rfl
@[simp] theorem onCand_fjz_errs (n : Nat) (f : Cand → Cand) (s : State) : (onCand n f s).fjz.errs = s.fjz.errs := rfl
@[simp] theorem onCand_fjz_frc (n : Nat) (f : Cand → Cand) (s : State) : (onCand n f s).fjz.frc = s.fjz.frc := rfl
@[simp] theorem onCand_fjz_role (n : Nat) (f : Cand → Cand) (s : State) : (onCand n f s).fjz.role = s.fjz.role := rfl
@[simp] theorem onCand_fjz_window (n : Nat) (f : Cand → Cand) (s : State) : (onCand n f s).fjz.window = s.fjz.window := rfl
@[simp] theorem onCand_fjz_events (n : Nat) (f : Cand → Cand) (s : State) : (onCand n f s).fjz.events = s.fjz.events := rfl
@[simp] theorem onEth_fjz_agent (n : Nat) (f : Eth → Eth) (s : State) : (onEth n f s).fjz.agent = s.fjz.agent := rfl
@[simp] theorem onEth_fjz_ports (n : Nat) (f : Eth → Eth) (s : State) : (onEth n f s).fjz.ports = s.fjz.ports := rfl
@[simp] theorem onEth_fjz_cands (n : Nat) (f : Eth → Eth) (s : State) : (onEth n f s).fjz.cands = s.fjz.cands := rfl
@[simp] theorem onEth_fjz_ctxs (n : Nat) (f : Eth → Eth) (s : State) : (onEth n f s).fjz.ctxs = s.fjz.ctxs := rfl
@[simp] theorem onEth_fjz_resvs (n : Nat) (f : Eth → Eth) (s : State) : (onEth n f s).fjz.resvs = s.fjz.resvs := rfl
@[simp] theorem onEth_fjz_pronks (n : Nat) (f : Eth → Eth) (s : State) : (onEth n f s).fjz.pronks = s.fjz.pronks := rfl
@[simp] theorem onEth_fjz_stewards (n : Nat) (f : Eth → Eth) (s : State) : (onEth n f s).fjz.stewards = s.fjz.stewards := rfl
@[simp] theorem onEth_fjz_errs (n : Nat) (f : Eth → Eth) (s : State) : (onEth n f s).fjz.errs = s.fjz.errs := rfl
@[simp] theorem onEth_fjz_frc (n : Nat) (f : Eth → Eth) (s : State) : (onEth n f s).fjz.frc = s.fjz.frc := rfl
@[simp] theorem onEth_fjz_role (n : Nat) (f : Eth → Eth) (s : State) : (onEth n f s).fjz.role = s.fjz.role := rfl
@[simp] theorem onEth_fjz_window (n : Nat) (f : Eth → Eth) (s : State) : (onEth n f s).fjz.window = s.fjz.window := rfl
@[simp] theorem onEth_fjz_events (n : Nat) (f : Eth → Eth) (s : State) : (onEth n f s).fjz.events = s.fjz.events := rfl
@[simp] theorem onCtx_fjz_agent (n : Nat) (f : TineCtx → TineCtx) (s : State) : (onCtx n f s).fjz.agent = s.fjz.agent := rfl
@[simp] theorem onCtx_fjz_ports (n : Nat) (f : TineCtx → TineCtx) (s : State) : (onCtx n f s).fjz.ports = s.fjz.ports := rfl
@[simp] theorem onCtx_fjz_cands (n : Nat) (f : TineCtx → TineCtx) (s : State) : (onCtx n f s).fjz.cands = s.fjz.cands := rfl
@[simp] theorem onCtx_fjz_eths (n : Nat) (f : TineCtx → TineCtx) (s : State) : (onCtx n f s).fjz.eths = s.fjz.eths := rfl
@[simp] theorem onCtx_fjz_resvs (n : Nat) (f : TineCtx → TineCtx) (s : State) : (onCtx n f s).fjz.resvs = s.fjz.resvs := rfl
@[simp] theorem onCtx_fjz_pronks (n : Nat) (f : TineCtx → TineCtx) (s : State) : (onCtx n f s).fjz.pronks = s.fjz.pronks := rfl
@[simp] theorem onCtx_fjz_stewards (n : Nat) (f : TineCtx → TineCtx) (s : State) : (onCtx n f s).fjz.stewards = s.fjz.stewards := rfl
@[simp] theorem onCtx_fjz_errs (n : Nat) (f : TineCtx → TineCtx) (s : State) : (onCtx n f s).fjz.errs = s.fjz.errs := rfl
@[simp] theorem onCtx_fjz_frc (n : Nat) (f : TineCtx → TineCtx) (s : State) : (onCtx n f s).fjz.frc = s.fjz.frc := rfl
@[simp] theorem onCtx_fjz_role (n : Nat) (f : TineCtx → TineCtx) (s : State) : (onCtx n f s).fjz.role = s.fjz.role := rfl
@[simp] theorem onCtx_fjz_window (n : Nat) (f : TineCtx → TineCtx) (s : State) : (onCtx n f s).fjz.window = s.fjz.window := rfl
@[simp] theorem onCtx_fjz_events (n : Nat) (f : TineCtx → TineCtx) (s : State) : (onCtx n f s).fjz.events = s.fjz.events := rfl
@[simp] theorem onPronk_fjz_agent (h : Id24) (f : PronkCtr → PronkCtr) (s : State) : (onPronk h f s).fjz.agent = s.fjz.agent := rfl
@[simp] theorem onPronk_fjz_ports (h : Id24) (f : PronkCtr → PronkCtr) (s : State) : (onPronk h f s).fjz.ports = s.fjz.ports := rfl
@[simp] theorem onPronk_fjz_cands (h : Id24) (f : PronkCtr → PronkCtr) (s : State) : (onPronk h f s).fjz.cands = s.fjz.cands := rfl
@[simp] theorem onPronk_fjz_eths (h : Id24) (f : PronkCtr → PronkCtr) (s : State) : (onPronk h f s).fjz.eths = s.fjz.eths := rfl
@[simp] theorem onPronk_fjz_ctxs (h : Id24) (f : PronkCtr → PronkCtr) (s : State) : (onPronk h f s).fjz.ctxs = s.fjz.ctxs := rfl
@[simp] theorem onPronk_fjz_resvs (h : Id24) (f : PronkCtr → PronkCtr) (s : State) : (onPronk h f s).fjz.resvs = s.fjz.resvs := rfl
@[simp] theorem onPronk_fjz_stewards (h : Id24) (f : PronkCtr → PronkCtr) (s : State) : (onPronk h f s).fjz.stewards = s.fjz.stewards := rfl
@[simp] theorem onPronk_fjz_errs (h : Id24) (f : PronkCtr → PronkCtr) (s : State) : (onPronk h f s).fjz.errs = s.fjz.errs := rfl
@[simp] theorem onPronk_fjz_frc (h : Id24) (f : PronkCtr → PronkCtr) (s : State) : (onPronk h f s).fjz.frc = s.fjz.frc := rfl
@[simp] theorem onPronk_fjz_role (h : Id24) (f : PronkCtr → PronkCtr) (s : State) : (onPronk h f s).fjz.role = s.fjz.role := rfl
@[simp] theorem onPronk_fjz_window (h : Id24) (f : PronkCtr → PronkCtr) (s : State) : (onPronk h f s).fjz.window = s.fjz.window := rfl
@[simp] theorem onPronk_fjz_events (h : Id24) (f : PronkCtr → PronkCtr) (s : State) : (onPronk h f s).fjz.events = s.fjz.events := rfl
@[simp] theorem onSteward_fjz_agent (h : Id24) (f : Steward → Steward) (s : State) : (onSteward h f s).fjz.agent = s.fjz.agent := rfl
@[simp] theorem onSteward_fjz_ports (h : Id24) (f : Steward → Steward) (s : State) : (onSteward h f s).fjz.ports = s.fjz.ports := rfl
@[simp] theorem onSteward_fjz_cands (h : Id24) (f : Steward → Steward) (s : State) : (onSteward h f s).fjz.cands = s.fjz.cands := rfl
@[simp] theorem onSteward_fjz_eths (h : Id24) (f : Steward → Steward) (s : State) : (onSteward h f s).fjz.eths = s.fjz.eths := rfl
@[simp] theorem onSteward_fjz_ctxs (h : Id24) (f : Steward → Steward) (s : State) : (onSteward h f s).fjz.ctxs = s.fjz.ctxs := rfl
@[simp] theorem onSteward_fjz_resvs (h : Id24) (f : Steward → Steward) (s : State) : (onSteward h f s).fjz.resvs = s.fjz.resvs := rfl
@[simp] theorem onSteward_fjz_pronks (h : Id24) (f : Steward → Steward) (s : State) : (onSteward h f s).fjz.pronks = s.fjz.pronks := rfl
@[simp] theorem onSteward_fjz_errs (h : Id24) (f : Steward → Steward) (s : State) : (onSteward h f s).fjz.errs = s.fjz.errs := rfl
@[simp] theorem onSteward_fjz_frc (h : Id24) (f : Steward → Steward) (s : State) : (onSteward h f s).fjz.frc = s.fjz.frc := rfl
@[simp] theorem onSteward_fjz_role (h : Id24) (f : Steward → Steward) (s : State) : (onSteward h f s).fjz.role = s.fjz.role := rfl
@[simp] theorem onSteward_fjz_window (h : Id24) (f : Steward → Steward) (s : State) : (onSteward h f s).fjz.window = s.fjz.window := rfl
@[simp] theorem onSteward_fjz_events (h : Id24) (f : Steward → Steward) (s : State) : (onSteward h f s).fjz.events = s.fjz.events := rfl
@[simp] theorem onPort_fjz_side_fjz_agent (p : Nat) (f : Port → Port) (s : State) : (onPort .fjz p f s).fjz.agent = s.fjz.agent := rfl
@[simp] theorem onPort_fjz_side_fjz_cands (p : Nat) (f : Port → Port) (s : State) : (onPort .fjz p f s).fjz.cands = s.fjz.cands := rfl
@[simp] theorem onPort_fjz_side_fjz_eths (p : Nat) (f : Port → Port) (s : State) : (onPort .fjz p f s).fjz.eths = s.fjz.eths := rfl
@[simp] theorem onPort_fjz_side_fjz_ctxs (p : Nat) (f : Port → Port) (s : State) : (onPort .fjz p f s).fjz.ctxs = s.fjz.ctxs := rfl
@[simp] theorem onPort_fjz_side_fjz_resvs (p : Nat) (f : Port → Port) (s : State) : (onPort .fjz p f s).fjz.resvs = s.fjz.resvs := rfl
@[simp] theorem onPort_fjz_side_fjz_pronks (p : Nat) (f : Port → Port) (s : State) : (onPort .fjz p f s).fjz.pronks = s.fjz.pronks := rfl
@[simp] theorem onPort_fjz_side_fjz_stewards (p : Nat) (f : Port → Port) (s : State) : (onPort .fjz p f s).fjz.stewards = s.fjz.stewards := rfl
@[simp] theorem onPort_fjz_side_fjz_errs (p : Nat) (f : Port → Port) (s : State) : (onPort .fjz p f s).fjz.errs = s.fjz.errs := rfl
@[simp] theorem onPort_fjz_side_fjz_frc (p : Nat) (f : Port → Port) (s : State) : (onPort .fjz p f s).fjz.frc = s.fjz.frc := rfl
@[simp] theorem onPort_fjz_side_fjz_role (p : Nat) (f : Port → Port) (s : State) : (onPort .fjz p f s).fjz.role = s.fjz.role := rfl
@[simp] theorem onPort_fjz_side_fjz_window (p : Nat) (f : Port → Port) (s : State) : (onPort .fjz p f s).fjz.window = s.fjz.window := rfl
@[simp] theorem onPort_fjz_side_fjz_events (p : Nat) (f : Port → Port) (s : State) : (onPort .fjz p f s).fjz.events = s.fjz.events := rfl
@[simp] theorem onAgent_fjz_side_fjz_ports (f : Agent → Agent) (s : State) : (onAgent .fjz f s).fjz.ports = s.fjz.ports := rfl
@[simp] theorem onAgent_fjz_side_fjz_cands (f : Agent → Agent) (s : State) : (onAgent .fjz f s).fjz.cands = s.fjz.cands := rfl
@[simp] theorem onAgent_fjz_side_fjz_eths (f : Agent → Agent) (s : State) : (onAgent .fjz f s).fjz.eths = s.fjz.eths := rfl
@[simp] theorem onAgent_fjz_side_fjz_ctxs (f : Agent → Agent) (s : State) : (onAgent .fjz f s).fjz.ctxs = s.fjz.ctxs := rfl
@[simp] theorem onAgent_fjz_side_fjz_resvs (f : Agent → Agent) (s : State) : (onAgent .fjz f s).fjz.resvs = s.fjz.resvs := rfl
@[simp] theorem onAgent_fjz_side_fjz_pronks (f : Agent → Agent) (s : State) : (onAgent .fjz f s).fjz.pronks = s.fjz.pronks := rfl
@[simp] theorem onAgent_fjz_side_fjz_stewards (f : Agent → Agent) (s : State) : (onAgent .fjz f s).fjz.stewards = s.fjz.stewards := rfl
@[simp] theorem onAgent_fjz_side_fjz_errs (f : Agent → Agent) (s : State) : (onAgent .fjz f s).fjz.errs = s.fjz.errs := rfl
@[simp] theorem onAgent_fjz_side_fjz_frc (f : Agent → Agent) (s : State) : (onAgent .fjz f s).fjz.frc = s.fjz.frc := rfl
@[simp] theorem onAgent_fjz_side_fjz_role (f : Agent → Agent) (s : State) : (onAgent .fjz f s).fjz.role = s.fjz.role := rfl
@[simp] theorem onAgent_fjz_side_fjz_window (f : Agent → Agent) (s : State) : (onAgent .fjz f s).fjz.window = s.fjz.window := rfl
@[simp] theorem onAgent_fjz_side_fjz_events (f : Agent → Agent) (s : State) : (onAgent .fjz f s).fjz.events = s.fjz.events := rfl
@[simp] theorem onTc_tsu_tc_eq (f : TimeCore → TimeCore) (s : State) : (onTc f s).tsu.tc = f s.tsu.tc := rfl
@[simp] theorem onMeter_tsu_meter_eq (f : Meter → Meter) (s : State) : (onMeter f s).tsu.meter = f s.tsu.meter := rfl

/-! ## Reading an element after an update -/

@[simp] theorem herd_onHerd_same (k : Nat) (f : Herd → Herd) (s : State) : (onHerd k f s).tsu.herd k = f (s.tsu.herd k) :=
  Tbl.get_upd_same _ _ _ _
theorem herd_onHerd_ne {j k : Nat} (f : Herd → Herd) (s : State) (h : j ≠ k) : (onHerd k f s).tsu.herd j = s.tsu.herd j :=
  Tbl.get_upd_ne _ _ _ h
@[simp] theorem region_onRegion_same (k : Nat) (f : Region → Region) (s : State) : (onRegion k f s).tsu.region k = f (s.tsu.region k) :=
  Tbl.get_upd_same _ _ _ _
theorem region_onRegion_ne {j k : Nat} (f : Region → Region) (s : State) (h : j ≠ k) : (onRegion k f s).tsu.region j = s.tsu.region j :=
  Tbl.get_upd_ne _ _ _ h
@[simp] theorem link_onLink_same (k : Nat) (f : Link → Link) (s : State) : (onLink k f s).tsu.link k = f (s.tsu.link k) :=
  Tbl.get_upd_same _ _ _ _
theorem link_onLink_ne {j k : Nat} (f : Link → Link) (s : State) (h : j ≠ k) : (onLink k f s).tsu.link j = s.tsu.link j :=
  Tbl.get_upd_ne _ _ _ h
@[simp] theorem part_onPart_same (k : Nat) (f : Part → Part) (s : State) : (onPart k f s).tsu.part k = f (s.tsu.part k) :=
  Tbl.get_upd_same _ _ _ _
theorem part_onPart_ne {j k : Nat} (f : Part → Part) (s : State) (h : j ≠ k) : (onPart k f s).tsu.part j = s.tsu.part j :=
  Tbl.get_upd_ne _ _ _ h
@[simp] theorem cand_onCand_same (k : Nat) (f : Cand → Cand) (s : State) : (onCand k f s).fjz.cand k = f (s.fjz.cand k) :=
  Tbl.get_upd_same _ _ _ _
theorem cand_onCand_ne {j k : Nat} (f : Cand → Cand) (s : State) (h : j ≠ k) : (onCand k f s).fjz.cand j = s.fjz.cand j :=
  Tbl.get_upd_ne _ _ _ h
@[simp] theorem eth_onEth_same (k : Nat) (f : Eth → Eth) (s : State) : (onEth k f s).fjz.eth k = f (s.fjz.eth k) :=
  Tbl.get_upd_same _ _ _ _
theorem eth_onEth_ne {j k : Nat} (f : Eth → Eth) (s : State) (h : j ≠ k) : (onEth k f s).fjz.eth j = s.fjz.eth j :=
  Tbl.get_upd_ne _ _ _ h
@[simp] theorem ctx_onCtx_same (k : Nat) (f : TineCtx → TineCtx) (s : State) : (onCtx k f s).fjz.ctx k = f (s.fjz.ctx k) :=
  Tbl.get_upd_same _ _ _ _
theorem ctx_onCtx_ne {j k : Nat} (f : TineCtx → TineCtx) (s : State) (h : j ≠ k) : (onCtx k f s).fjz.ctx j = s.fjz.ctx j :=
  Tbl.get_upd_ne _ _ _ h
@[simp] theorem pronk_onPronk_same (k : Id24) (f : PronkCtr → PronkCtr) (s : State) : (onPronk k f s).fjz.pronk k = f (s.fjz.pronk k) :=
  Tbl.get_upd_same _ _ _ _
theorem pronk_onPronk_ne {j k : Id24} (f : PronkCtr → PronkCtr) (s : State) (h : j ≠ k) : (onPronk k f s).fjz.pronk j = s.fjz.pronk j :=
  Tbl.get_upd_ne _ _ _ fun e => h (BitVec.eq_of_toNat_eq e)
@[simp] theorem steward_onSteward_same (k : Id24) (f : Steward → Steward) (s : State) : (onSteward k f s).fjz.steward k = f (s.fjz.steward k) :=
  Tbl.get_upd_same _ _ _ _
theorem steward_onSteward_ne {j k : Id24} (f : Steward → Steward) (s : State) (h : j ≠ k) : (onSteward k f s).fjz.steward j = s.fjz.steward j :=
  Tbl.get_upd_ne _ _ _ fun e => h (BitVec.eq_of_toNat_eq e)
@[simp] theorem port_onPort_same (d : Dev) (p : Nat) (f : Port → Port) (s : State) : port (onPort d p f s) d p = f (port s d p) := by
  cases d <;> exact Tbl.get_upd_same _ _ _ _
theorem port_onPort_ne (d e : Dev) (f : Port → Port) (s : State) {p r : Nat} (h : d ≠ e ∨ p ≠ r) :
    port (onPort e r f s) d p = port s d p := by
  cases d <;> cases e <;> first | rfl | exact Tbl.get_upd_ne _ _ _ (h.resolve_left (by simp))
@[simp] theorem agent_onAgent_same (d : Dev) (f : Agent → Agent) (s : State) : agent (onAgent d f s) d = f (agent s d) := by
  cases d <;> rfl
@[simp] theorem agent_onAgent_ne (d e : Dev) (f : Agent → Agent) (s : State) (h : d ≠ e) : agent (onAgent e f s) d = agent s d := by
  cases d <;> cases e <;> first | rfl | exact absurd rfl h
@[simp] theorem agent_onPort (d e : Dev) (p : Nat) (f : Port → Port) (s : State) : agent (onPort e p f s) d = agent s d := by
  cases d <;> cases e <;> rfl
@[simp] theorem port_onAgent (d e : Dev) (p : Nat) (f : Agent → Agent) (s : State) : port (onAgent e f s) d p = port s d p := by
  cases d <;> cases e <;> rfl
@[simp] theorem agent_emit (d : Dev) (o : Out) (s : State) : agent (emit o s) d = agent s d := by cases d <;> rfl
@[simp] theorem port_emit (d : Dev) (p : Nat) (o : Out) (s : State) : port (emit o s) d p = port s d p := by cases d <;> rfl
@[simp] theorem port_onTc (d : Dev) (p : Nat) (f : TimeCore → TimeCore) (s : State) : port (onTc f s) d p = port s d p := by cases d <;> rfl
@[simp] theorem agent_onTc (d : Dev) (f : TimeCore → TimeCore) (s : State) : agent (onTc f s) d = agent s d := by cases d <;> rfl
@[simp] theorem port_onMeter (d : Dev) (p : Nat) (f : Meter → Meter) (s : State) : port (onMeter f s) d p = port s d p := by cases d <;> rfl
@[simp] theorem agent_onMeter (d : Dev) (f : Meter → Meter) (s : State) : agent (onMeter f s) d = agent s d := by cases d <;> rfl
@[simp] theorem port_onHerd (d : Dev) (p : Nat) (h : Nat) (f : Herd → Herd) (s : State) : port (onHerd h f s) d p = port s d p := by cases d <;> rfl
@[simp] theorem agent_onHerd (d : Dev) (h : Nat) (f : Herd → Herd) (s : State) : agent (onHerd h f s) d = agent s d := by cases d <;> rfl
@[simp] theorem port_onRegion (d : Dev) (p : Nat) (k : Nat) (f : Region → Region) (s : State) : port (onRegion k f s) d p = port s d p := by cases d <;> rfl
@[simp] theorem agent_onRegion (d : Dev) (n : Nat) (f : Region → Region) (s : State) : agent (onRegion n f s) d = agent s d := by cases d <;> rfl
@[simp] theorem port_onLink (d : Dev) (p : Nat) (k : Nat) (f : Link → Link) (s : State) : port (onLink k f s) d p = port s d p := by cases d <;> rfl
@[simp] theorem agent_onLink (d : Dev) (n : Nat) (f : Link → Link) (s : State) : agent (onLink n f s) d = agent s d := by cases d <;> rfl
@[simp] theorem port_onPart (d : Dev) (p : Nat) (k : Nat) (f : Part → Part) (s : State) : port (onPart k f s) d p = port s d p := by cases d <;> rfl
@[simp] theorem agent_onPart (d : Dev) (n : Nat) (f : Part → Part) (s : State) : agent (onPart n f s) d = agent s d := by cases d <;> rfl
@[simp] theorem port_onCand (d : Dev) (p : Nat) (k : Nat) (f : Cand → Cand) (s : State) : port (onCand k f s) d p = port s d p := by cases d <;> rfl
@[simp] theorem agent_onCand (d : Dev) (n : Nat) (f : Cand → Cand) (s : State) : agent (onCand n f s) d = agent s d := by cases d <;> rfl
@[simp] theorem port_onEth (d : Dev) (p : Nat) (k : Nat) (f : Eth → Eth) (s : State) : port (onEth k f s) d p = port s d p := by cases d <;> rfl
@[simp] theorem agent_onEth (d : Dev) (n : Nat) (f : Eth → Eth) (s : State) : agent (onEth n f s) d = agent s d := by cases d <;> rfl
@[simp] theorem port_onCtx (d : Dev) (p : Nat) (k : Nat) (f : TineCtx → TineCtx) (s : State) : port (onCtx k f s) d p = port s d p := by cases d <;> rfl
@[simp] theorem agent_onCtx (d : Dev) (n : Nat) (f : TineCtx → TineCtx) (s : State) : agent (onCtx n f s) d = agent s d := by cases d <;> rfl
@[simp] theorem port_onPronk (d : Dev) (p : Nat) (h : Id24) (f : PronkCtr → PronkCtr) (s : State) : port (onPronk h f s) d p = port s d p := by cases d <;> rfl
@[simp] theorem agent_onPronk (d : Dev) (h : Id24) (f : PronkCtr → PronkCtr) (s : State) : agent (onPronk h f s) d = agent s d := by cases d <;> rfl
@[simp] theorem port_onSteward (d : Dev) (p : Nat) (h : Id24) (f : Steward → Steward) (s : State) : port (onSteward h f s) d p = port s d p := by cases d <;> rfl
@[simp] theorem agent_onSteward (d : Dev) (h : Id24) (f : Steward → Steward) (s : State) : agent (onSteward h f s) d = agent s d := by cases d <;> rfl

/-- What every step of a walk keeps, the whole walk keeps. -/
theorem forAll_keeps {α β γ : Type} (v : β → γ) (f : α → β → β) (h : ∀ a b, v (f a b) = v b) (xs : List α) (b : β) :
    v (forAll xs f b) = v b := by
  induction xs generalizing b with
  | nil => rfl
  | cons x xs ih => exact (ih (f x b)).trans (h x b)

/-! ## The answer of a command -/

@[simp] theorem perform_true (f : State → State) (s : State) : perform true f s = .next (enterErrs (f s.fresh)) := rfl

@[simp] theorem fresh_pending (s : State) : s.fresh.pending = s.pending := rfl
@[simp] theorem fresh_later (s : State) : s.fresh.later = s.later := rfl
@[simp] theorem fresh_out (s : State) : s.fresh.out = [] := rfl
@[simp] theorem fresh_staged (s : State) : s.fresh.staged = [] := rfl
@[simp] theorem fresh_free (s : State) : s.fresh.free = s.free := rfl
@[simp] theorem fresh_tsu (s : State) : s.fresh.tsu = s.tsu := rfl
@[simp] theorem fresh_fjz (s : State) : s.fresh.fjz = s.fjz := rfl
@[simp] theorem port_fresh (d : Dev) (p : Nat) (s : State) : port s.fresh d p = port s d p := by cases d <;> rfl
@[simp] theorem agent_fresh (d : Dev) (s : State) : agent s.fresh d = agent s d := by cases d <;> rfl
@[simp] theorem partWorks_fresh (d : Dev) (s : State) : partWorks s.fresh d = partWorks s d := by cases d <;> rfl
@[simp] theorem aheadOf_fresh (y : Option Place) (s : State) : s.fresh.aheadOf y = s.aheadOf y := rfl

theorem tap_staged (kind : Nat) (data : Bytes) (s : State) : (tap kind data s).staged = s.staged := by
  unfold tap
  dsimp only
  repeat' split
  all_goals rfl

theorem enterErr_staged (e : ErrRec × Bytes) (s : State) : (enterErr e s).staged = s.staged := tap_staged _ _ _

@[simp] theorem enterErrs_staged (s : State) : (enterErrs s).staged = [] := by
  exact forAll_keeps (·.staged) enterErr (fun e u => enterErr_staged e u) _ _

/-- What neither the tap nor the ring nor the interrupts hold, the entry of a record leaves alone. -/
theorem enterErr_keeps {γ : Type} (v : State → γ)
    (h : ∀ (s : State) (e : ErrRing) (i : U32) (g : List Cell) (q : U32) (n : U32),
      v { s with tsu := { s.tsu with errs := e, intStatus := i, staging := g, tapSeq := q, tapDropped := n } } = v s)
    (e : ErrRec × Bytes) (s : State) : v (enterErr e s) = v s := by
  unfold enterErr tap
  dsimp only
  repeat' split
  all_goals exact h s _ _ _ _ _

theorem enterErrs_keeps {γ : Type} (v : State → γ)
    (h : ∀ (s : State) (e : ErrRing) (i : U32) (g : List Cell) (q : U32) (n : U32),
      v { s with tsu := { s.tsu with errs := e, intStatus := i, staging := g, tapSeq := q, tapDropped := n } } = v s)
    (hs : ∀ s : State, v { s with staged := [] } = v s) (s : State) : v (enterErrs s) = v s :=
  (forAll_keeps v enterErr (enterErr_keeps v h) _ _).trans (hs s)

@[simp] theorem enterErrs_pending (s : State) : (enterErrs s).pending = s.pending := enterErrs_keeps (·.pending) (fun _ _ _ _ _ _ => rfl) (fun _ => rfl) s
@[simp] theorem enterErrs_later (s : State) : (enterErrs s).later = s.later := enterErrs_keeps (·.later) (fun _ _ _ _ _ _ => rfl) (fun _ => rfl) s
@[simp] theorem enterErrs_out (s : State) : (enterErrs s).out = s.out := enterErrs_keeps (·.out) (fun _ _ _ _ _ _ => rfl) (fun _ => rfl) s
@[simp] theorem enterErrs_free (s : State) : (enterErrs s).free = s.free := enterErrs_keeps (·.free) (fun _ _ _ _ _ _ => rfl) (fun _ => rfl) s
@[simp] theorem enterErrs_fjz (s : State) : (enterErrs s).fjz = s.fjz := enterErrs_keeps (·.fjz) (fun _ _ _ _ _ _ => rfl) (fun _ => rfl) s
@[simp] theorem enterErrs_phase (s : State) : (enterErrs s).tsu.phase = s.tsu.phase := enterErrs_keeps (·.tsu.phase) (fun _ _ _ _ _ _ => rfl) (fun _ => rfl) s
@[simp] theorem enterErrs_agent (s : State) : (enterErrs s).tsu.agent = s.tsu.agent := enterErrs_keeps (·.tsu.agent) (fun _ _ _ _ _ _ => rfl) (fun _ => rfl) s
@[simp] theorem enterErrs_tc (s : State) : (enterErrs s).tsu.tc = s.tsu.tc := enterErrs_keeps (·.tsu.tc) (fun _ _ _ _ _ _ => rfl) (fun _ => rfl) s
@[simp] theorem enterErrs_ports (s : State) : (enterErrs s).tsu.ports = s.tsu.ports := enterErrs_keeps (·.tsu.ports) (fun _ _ _ _ _ _ => rfl) (fun _ => rfl) s
@[simp] theorem enterErrs_regions (s : State) : (enterErrs s).tsu.regions = s.tsu.regions := enterErrs_keeps (·.tsu.regions) (fun _ _ _ _ _ _ => rfl) (fun _ => rfl) s
@[simp] theorem enterErrs_links (s : State) : (enterErrs s).tsu.links = s.tsu.links := enterErrs_keeps (·.tsu.links) (fun _ _ _ _ _ _ => rfl) (fun _ => rfl) s
@[simp] theorem enterErrs_steps (s : State) : (enterErrs s).tsu.steps = s.tsu.steps := enterErrs_keeps (·.tsu.steps) (fun _ _ _ _ _ _ => rfl) (fun _ => rfl) s
@[simp] theorem enterErrs_herds (s : State) : (enterErrs s).tsu.herds = s.tsu.herds := enterErrs_keeps (·.tsu.herds) (fun _ _ _ _ _ _ => rfl) (fun _ => rfl) s
@[simp] theorem enterErrs_ledger (s : State) : (enterErrs s).tsu.ledger = s.tsu.ledger := enterErrs_keeps (·.tsu.ledger) (fun _ _ _ _ _ _ => rfl) (fun _ => rfl) s
@[simp] theorem enterErrs_counters (s : State) : (enterErrs s).tsu.counters = s.tsu.counters := enterErrs_keeps (·.tsu.counters) (fun _ _ _ _ _ _ => rfl) (fun _ => rfl) s
@[simp] theorem enterErrs_events (s : State) : (enterErrs s).tsu.events = s.tsu.events := enterErrs_keeps (·.tsu.events) (fun _ _ _ _ _ _ => rfl) (fun _ => rfl) s
@[simp] theorem enterErrs_watches (s : State) : (enterErrs s).tsu.watches = s.tsu.watches := enterErrs_keeps (·.tsu.watches) (fun _ _ _ _ _ _ => rfl) (fun _ => rfl) s
@[simp] theorem enterErrs_parts (s : State) : (enterErrs s).tsu.parts = s.tsu.parts := enterErrs_keeps (·.tsu.parts) (fun _ _ _ _ _ _ => rfl) (fun _ => rfl) s
@[simp] theorem enterErrs_templates (s : State) : (enterErrs s).tsu.templates = s.tsu.templates := enterErrs_keeps (·.tsu.templates) (fun _ _ _ _ _ _ => rfl) (fun _ => rfl) s
@[simp] theorem enterErrs_meter (s : State) : (enterErrs s).tsu.meter = s.tsu.meter := enterErrs_keeps (·.tsu.meter) (fun _ _ _ _ _ _ => rfl) (fun _ => rfl) s

/-- With no record staged nothing enters the ring. -/
theorem enterErrs_nil {s : State} (h : s.staged = []) : enterErrs s = s := by
  cases s; cases h; rfl

/-- A command in its turn acts. -/
theorem inTurn_acts {c : Instr} {act : State → State} {s : State} (h : s.aheadOf (placeOf c) = false) : inTurn c act s = act s := by
  simp [inTurn, h]

/-- A command that must wait for another of its tick waits. -/
theorem inTurn_waits {c : Instr} {act : State → State} {s : State} (h : s.aheadOf (placeOf c) = true) :
    inTurn c act s = { s with later := s.later ++ [c] } := by
  simp [inTurn, h]

/-- A command either answers the state that its effect leaves, or names a part that the block does not have. -/
theorem perform_cases {ok : Bool} {f : State → State} {s t : State} (h : perform ok f s = .next t) :
    ok = true ∧ t = enterErrs (f s.fresh) := by
  cases ok
  · simp [perform] at h
  · simpa [perform, eq_comm] using h

theorem performOn_works {d : Dev} {ok : Bool} {f : State → State} {s : State} (hok : ok = true) (hw : partWorks s d = true) :
    performOn d ok f s = .next (enterErrs (f s.fresh)) := by
  simp [performOn, perform, hok, hw]

theorem performOn_asleep {d : Dev} {ok : Bool} {f : State → State} {s : State} (hok : ok = true) (hw : partWorks s d = false) :
    performOn d ok f s = .next s.fresh := by
  simp only [performOn, perform, hok, partWorks_fresh, hw, if_true, Bool.false_eq_true, if_false]
  rw [enterErrs_nil rfl]

end Sys2Proof.Machine
end

