-- ==== Sys2Proof/Laws/Agent.lean ====
section
/-! SUPPORT. The dictionary agent once and for all: what a request that is admitted brings about, by what its object checks and by its
commit class. The claims about commands are claims about `WriteOp`s and `ReadOp`s that these laws carry to `exec`. -/

namespace Sys2Proof

open Machine

/-! ## What the checks do not look at -/

/-- The cells of a tunnelled request move a sequence number of a port of the die, and nothing else (R68). -/
theorem tunnelCells_cases (q : Req) (n : Nat) (s : State) :
    tunnelCells q n s = s ∨ ∃ p k, tunnelCells q n s = onPort .tsu p (fun x => { x with lseqRx := x.lseqRx.upd 0 2 (· + k) }) s := by
  unfold tunnelCells countFragments
  cases q.src <;> dsimp only <;> (try split) <;> first | exact .inl rfl | exact .inr ⟨_, _, rfl⟩

theorem heard_cases (q : Req) (s : State) :
    heard q s = s.fresh ∨ ∃ p k, heard q s = onPort .tsu p (fun x => { x with lseqRx := x.lseqRx.upd 0 2 (· + k) }) s.fresh :=
  tunnelCells_cases _ _ _

/-- What the sequence numbers of the ports do not show, the arrival of a request leaves alone. -/
theorem heard_keeps {γ : Type} (v : State → γ) (h : ∀ (f : Port → Port) (p : Nat) (u : State), v (onPort .tsu p f u) = v u) (q : Req) (s : State) :
    v (heard q s) = v s.fresh := by
  obtain e | ⟨p, k, e⟩ := heard_cases q s
  · rw [e]
  · rw [e, h]

@[simp] theorem heard_pending (q : Req) (s : State) : (heard q s).pending = s.pending := heard_keeps (·.pending) (fun _ _ _ => rfl) q s
@[simp] theorem heard_later (q : Req) (s : State) : (heard q s).later = s.later := heard_keeps (·.later) (fun _ _ _ => rfl) q s
@[simp] theorem heard_out (q : Req) (s : State) : (heard q s).out = [] := heard_keeps (·.out) (fun _ _ _ => rfl) q s
@[simp] theorem heard_staged (q : Req) (s : State) : (heard q s).staged = [] := heard_keeps (·.staged) (fun _ _ _ => rfl) q s
@[simp] theorem heard_free (q : Req) (s : State) : (heard q s).free = s.free := heard_keeps (·.free) (fun _ _ _ => rfl) q s
@[simp] theorem heard_fjz (q : Req) (s : State) : (heard q s).fjz = s.fjz := heard_keeps (·.fjz) (fun _ _ _ => rfl) q s
@[simp] theorem heard_agent (d : Dev) (q : Req) (s : State) : agent (heard q s) d = agent s d := by
  rw [heard_keeps (agent · d) (fun _ _ _ => by cases d <;> rfl) q s]; exact agent_fresh d s

/-- What the ports do not show, the checks do not look at. -/
@[simp] theorem admits_heard (d : Dev) (q q' : Req) (i j : Nat) (a : Access) (v : Bytes) (s : State) (k e : Nat) :
    admits d q i j a v (heard q' s) k e = admits d q i j a v s k e := by
  rw [heard_keeps (admits d q i j a v · k e) (fun _ _ _ => by cases d <;> rfl) q' s]; cases d <;> rfl

@[simp] theorem admitsRead_heard (d : Dev) (q q' : Req) (i j : Nat) (pop : Bool) (s : State) (k e : Nat) :
    admitsRead d q i j pop (heard q' s) k e = admitsRead d q i j pop s k e := by
  rw [heard_keeps (admitsRead d q i j pop · k e) (fun _ _ _ => by cases d <;> rfl) q' s]; cases d <;> rfl

/-- A request counts as taken in the same way whichever of the later checks it meets. -/
theorem countTaken_status (d : Dev) (q : Req) {st : Nat} (h : st ≠ stFormat ∧ st ≠ stVersion ∧ st ≠ stAuth) :
    countTaken d q st = countTaken d q stOk := by
  obtain ⟨h1, h2, h3⟩ := h
  funext s
  simp only [countTaken, h1, h2, h3, if_false, or_self]
  rfl

theorem secureReq_asTaken (q : Req) : secureReq (asTaken q) = secureReq q := by
  unfold asTaken secureReq
  by_cases h : q.src = .window <;> simp [h]

/-! ## What an answer leaves alone -/

/-- What neither the sequence numbers of the ports nor the agent of its part shows, the taking of a request leaves alone. -/
theorem taken_keeps {γ : Type} {d : Dev} (v : State → γ) (h : ∀ (f : Port → Port) (p : Nat) (u : State), v (onPort .tsu p f u) = v u)
    (ha : ∀ (f : Agent → Agent) (u : State), v (onAgent d f u) = v u) (q : Req) (s : State) : v (taken d q s) = v s.fresh := by
  unfold taken countTaken
  rw [ha, heard_keeps v h]

@[simp] theorem taken_pending (d : Dev) (q : Req) (s : State) : (taken d q s).pending = s.pending :=
  taken_keeps (·.pending) (fun _ _ _ => rfl) (fun _ _ => by cases d <;> rfl) q s
@[simp] theorem taken_later (d : Dev) (q : Req) (s : State) : (taken d q s).later = s.later :=
  taken_keeps (·.later) (fun _ _ _ => rfl) (fun _ _ => by cases d <;> rfl) q s
@[simp] theorem taken_out (d : Dev) (q : Req) (s : State) : (taken d q s).out = [] :=
  taken_keeps (·.out) (fun _ _ _ => rfl) (fun _ _ => by cases d <;> rfl) q s
@[simp] theorem taken_staged (d : Dev) (q : Req) (s : State) : (taken d q s).staged = [] :=
  taken_keeps (·.staged) (fun _ _ _ => rfl) (fun _ _ => by cases d <;> rfl) q s
@[simp] theorem taken_free (d : Dev) (q : Req) (s : State) : (taken d q s).free = s.free :=
  taken_keeps (·.free) (fun _ _ _ => rfl) (fun _ _ => by cases d <;> rfl) q s
@[simp] theorem taken_fjz (q : Req) (s : State) : (taken .tsu q s).fjz = s.fjz :=
  taken_keeps (·.fjz) (fun _ _ _ => rfl) (fun _ _ => rfl) q s
/-- A request to the Fjouz chip comes from the network (R307), and leaves the die alone. -/
theorem taken_tsu {q : Req} (hq : sourceOf .fjz q.src = true) (s : State) : (taken .fjz q s).tsu = s.tsu := by
  have : q.src = .net := by cases h : q.src <;> simp_all [sourceOf]
  simp [taken, countTaken, heard, tunnelCells, this]
@[simp] theorem taken_tc (d : Dev) (q : Req) (s : State) : (taken d q s).tsu.tc = s.tsu.tc :=
  taken_keeps (·.tsu.tc) (fun _ _ _ => rfl) (fun _ _ => by cases d <;> rfl) q s
@[simp] theorem taken_herds (d : Dev) (q : Req) (s : State) : (taken d q s).tsu.herds = s.tsu.herds :=
  taken_keeps (·.tsu.herds) (fun _ _ _ => rfl) (fun _ _ => by cases d <;> rfl) q s
@[simp] theorem taken_meter (d : Dev) (q : Req) (s : State) : (taken d q s).tsu.meter = s.tsu.meter :=
  taken_keeps (·.tsu.meter) (fun _ _ _ => rfl) (fun _ _ => by cases d <;> rfl) q s
@[simp] theorem taken_errs (d : Dev) (q : Req) (s : State) : (taken d q s).tsu.errs = s.tsu.errs :=
  taken_keeps (·.tsu.errs) (fun _ _ _ => rfl) (fun _ _ => by cases d <;> rfl) q s

/-- A response on its way raises no error record, so an answer without one in it is the whole next state. -/
@[simp] theorem sendOn_staged (d : Dev) (p : Nat) (b : Bool) (c : Cell) (s : State) : (sendOn d p b c s).staged = s.staged := by
  unfold sendOn
  dsimp only
  repeat' split
  all_goals first | rfl | simp

@[simp] theorem sendMessage_staged (d : Dev) (p typ addr : Nat) (m : Bytes) (s : State) :
    (sendMessage d p typ addr m s).staged = s.staged := by
  unfold sendMessage
  dsimp only
  split
  · rfl
  · rw [forAll_keeps (·.staged) (send d p) (fun c u => sendOn_staged d p false c u)]; simp

@[simp] theorem deliverRsp_staged (d : Dev) (r : Rsp) (s : State) : (deliverRsp d r s).staged = s.staged := by
  unfold deliverRsp
  split <;> simp

@[simp] theorem answered_staged (d : Dev) (q : Req) (i j st : Nat) (s : State) : (answered d q i j st s).staged = s.staged := by
  simp [answered]

@[simp] theorem answeredRead_staged (d : Dev) (q : Req) (i j : Nat) (pop : Bool) (v : Bytes) (s : State) :
    (answeredRead d q i j pop v s).staged = s.staged := by
  unfold answeredRead
  dsimp only
  rw [deliverRsp_staged]
  split <;> simp

/-! ## Requests that are admitted -/

/-- A request that is heard acts at once: nothing that waits on this tick goes ahead of it (R18, R128). -/
theorem inTurn_heard {d : Dev} {q : Req} {c : Instr} {act : State → State} {s : State} (hc : placeOf c = requestPlace d q)
    (h : heardNow d q s = true) : inTurn c act s.fresh = act s.fresh := by
  refine inTurn_acts ?_
  rw [hc, aheadOf_fresh]
  simp only [heardNow, Bool.and_eq_true, Bool.not_eq_true'] at h
  exact h.1

/-- An admitted write reaches the agent of its part. -/
theorem agentWrite_admitted {d : Dev} {q : Req} {op : WriteOp} {s : State}
    (h : admits d q op.index op.sub op.access op.bytes s op.kind op.elem = true) :
    heardNow d q s = true ∧ agentWrite d q op s.fresh = serveWrite d q op (heard q s) := by
  have hr := admits_heard d q q op.index op.sub op.access op.bytes s op.kind op.elem
  rw [h] at hr
  simp only [admits, Bool.and_eq_true, decide_eq_true_eq] at h hr
  obtain ⟨⟨⟨⟨⟨⟨⟨⟨⟨⟨⟨h0, h1⟩, h2⟩, _⟩, _⟩, _⟩, _⟩, _⟩, _⟩, hl⟩, _⟩, _⟩ := h
  have h3 : route (heard q s) d q = .here := hr.1.1.1.1.1.1.1.1.2
  have h1' : agentUp s.fresh d = true := by rw [← h1]; cases d <;> rfl
  have hz : ¬ (q.src = .net ∧ (!zdpHeard s.fresh.fjz q) = true) := by
    simp only [heardNow, Bool.and_eq_true, Bool.or_eq_true, decide_eq_true_eq] at h0
    rintro ⟨a, b⟩
    rcases h0.2 with c | c
    · exact c a
    · simp [c] at b
  refine ⟨h0, ?_⟩
  unfold heard at h3 ⊢
  rw [hl] at h3 ⊢
  simp only [agentWrite, takeRequest, h1', h2, hz, h3, Bool.not_true, Bool.false_eq_true, or_self, if_false]

theorem findRsp_admitted {d : Dev} {q : Req} {i j : Nat} {a : Access} {v : Bytes} {s : State} {k e : Nat}
    (h : admits d q i j a v s k e = true) : findRsp (agent s d) (asTaken q) = none := by
  simp only [admits, Bool.and_eq_true, decide_eq_true_eq] at h
  exact h.1.1.1.1.1.1.1.2

/-- The status of an admitted write is what its object's own checks give (Table 12.5). -/
theorem writeStatus_admitted {d : Dev} {q : Req} {op : WriteOp} {s : State}
    (h : admits d q op.index op.sub op.access op.bytes s op.kind op.elem = true) (hwhole : op.whole = true)
    (hsize : op.size = op.bytes.length ∨ (op.size = 0 ∧ op.bytes.length ≤ op.maxSize)) :
    writeStatus s d (asTaken q) op =
      if op.present s = false then stNoObject
      else if op.ready s = false then stState
      else if op.range s = false then stRange
      else if (waits s (op.cls s) && pendingFull (agent s d) (op.cls s)) = true then stBusy
      else stOk := by
  simp only [admits, Bool.and_eq_true, decide_eq_true_eq, Bool.not_eq_true'] at h
  obtain ⟨⟨⟨⟨⟨⟨⟨⟨⟨⟨⟨_, _⟩, _⟩, _⟩, _⟩, hhead⟩, hro⟩, hworld⟩, hseal⟩, hlen⟩, hne⟩, htest⟩ := h
  have hw : worldRefused s d (asTaken q) op = false := by
    cases d <;> simpa [worldRefused] using hworld
  have hl : (asTaken q).length = q.length := by unfold asTaken; split <;> rfl
  have hseal' : ¬ (op.access = .sealed ∧ s.tsu.meter.isSealed = true) := by
    rintro ⟨a, b⟩; simp [a, b] at hseal
  have hlen' : ¬ ((op.size ≠ 0 ∧ q.length.toNat ≠ op.size) ∨ (op.size = 0 ∧ (q.length.toNat = 0 ∨ op.maxSize < q.length.toNat))) := by
    rcases hsize with hs | hs <;> omega
  have hhead' : headStatus (agent s d) (asTaken q) 2 op.whole
      (headerBits (asTaken q) op.index op.sub (asTaken q).typ.toNat (asTaken q).length.toNat 0 false) op.bytes = stOk := by
    rw [hwhole]; exact hhead
  unfold writeStatus
  simp only [hhead']
  simp only [hl, ne_eq, not_true_eq_false, if_false, hro, hw, hseal', hlen', htest, Bool.not_eq_true', Bool.false_eq_true, false_or]

/-- An admitted write that its object takes at once (R312, R314, R321): the effect, and the response OK. -/
theorem agentWrite_takes {d : Dev} {q : Req} {c : Instr} (hpl : placeOf c = requestPlace d q) {op : WriteOp} {s : State}
    (h : admits d q op.index op.sub op.access op.bytes s op.kind op.elem = true) (hwhole : op.whole = true)
    (hsize : op.size = op.bytes.length ∨ (op.size = 0 ∧ op.bytes.length ≤ op.maxSize))
    (hp : op.present (heard q s) = true) (hr : op.ready (heard q s) = true)
    (hg : op.range (heard q s) = true) (hc : op.cls (heard q s) = .now) (hc' : op.cls (taken d q s) = .now)
    (hres : op.result (taken d q s) = stOk) :
    perform true (inTurn c (agentWrite d q op)) s = .next (enterErrs (answered d q op.index op.sub stOk (op.apply (taken d q s)))) := by
  have h' : admits d q op.index op.sub op.access op.bytes (heard q s) op.kind op.elem = true := by simpa using h
  have hst := writeStatus_admitted h' hwhole hsize
  simp only [hp, hr, hg, hc, waits, Bool.false_and, Bool.true_eq_false, Bool.false_eq_true, if_false] at hst
  rw [perform_true, inTurn_heard hpl (agentWrite_admitted h).1, (agentWrite_admitted h).2]
  unfold serveWrite
  have h'' := findRsp_admitted h'
  simp only [h'', hst]
  have hlog : ∀ x, logSealed d op.access stOk op.index op.sub x = x := by
    intro x; simp [logSealed, stOk, stWorld, stSealed]
  simp only [ne_eq, not_true_eq_false, if_false, hlog]
  unfold taken at hc' hres ⊢
  simp only [hc', hres]
  rfl

/-- An admitted write of class H or D that does not wait: the response PENDING, then the effect, and the second response if it was asked
for (R322). -/
theorem agentWrite_applies {d : Dev} {q : Req} {c : Instr} (hpl : placeOf c = requestPlace d q) {op : WriteOp} {s : State}
    (h : admits d q op.index op.sub op.access op.bytes s op.kind op.elem = true) (hwhole : op.whole = true)
    (hsize : op.size = op.bytes.length ∨ (op.size = 0 ∧ op.bytes.length ≤ op.maxSize))
    (hp : op.present (heard q s) = true) (hr : op.ready (heard q s) = true)
    (hg : op.range (heard q s) = true) (hc : op.cls (taken d q s) ≠ .now)
    (hc' : op.cls (heard q s) = op.cls (taken d q s)) (hw : waits (heard q s) (op.cls (taken d q s)) = false)
    (hw' : waits (taken d q s) (op.cls (taken d q s)) = false) :
    perform true (inTurn c (agentWrite d q op)) s = .next (enterErrs (appliedRsp d (asTaken q) op.index op.sub stOk
      (answered d q op.index op.sub stPending (op.apply (op.accept (taken d q s)))))) := by
  have h' : admits d q op.index op.sub op.access op.bytes (heard q s) op.kind op.elem = true := by simpa using h
  have hst := writeStatus_admitted h' hwhole hsize
  simp only [hp, hr, hg, hc', hw, Bool.false_and, Bool.true_eq_false, Bool.false_eq_true, if_false] at hst
  rw [perform_true, inTurn_heard hpl (agentWrite_admitted h).1, (agentWrite_admitted h).2]
  unfold serveWrite
  have h'' := findRsp_admitted h'
  simp only [h'', hst]
  have hlog : ∀ x, logSealed d op.access stOk op.index op.sub x = x := by
    intro x; simp [logSealed, stOk, stWorld, stSealed]
  simp only [ne_eq, not_true_eq_false, if_false, hlog]
  unfold taken at hc hw' ⊢
  revert hw'
  generalize op.cls (countTaken d (asTaken q) stOk (heard q s)) = c at hc
  intro hw'
  cases c <;> first | exact absurd rfl hc | (simp only [hw', Bool.false_eq_true, if_false]; rfl)

/-- An admitted write that its object's state or range refuses: the status, and what the rule has a refusal do. -/
theorem agentWrite_refuses {d : Dev} {q : Req} {c : Instr} (hpl : placeOf c = requestPlace d q) {op : WriteOp} {s : State} {st : Nat}
    (h : admits d q op.index op.sub op.access op.bytes s op.kind op.elem = true) (hwhole : op.whole = true)
    (hsize : op.size = op.bytes.length ∨ (op.size = 0 ∧ op.bytes.length ≤ op.maxSize))
    (hp : op.present (heard q s) = true)
    (hst : (op.ready (heard q s) = false ∧ st = stState) ∨
      (op.ready (heard q s) = true ∧ op.range (heard q s) = false ∧ st = stRange)) :
    perform true (inTurn c (agentWrite d q op)) s = .next (enterErrs (answered d q op.index op.sub st (op.refuse (taken d q s)))) := by
  have h' : admits d q op.index op.sub op.access op.bytes (heard q s) op.kind op.elem = true := by simpa using h
  have hs := writeStatus_admitted h' hwhole hsize
  have hs' : writeStatus (heard q s) d (asTaken q) op = st := by
    rw [hs]
    rcases hst with ⟨a, b⟩ | ⟨a, b, c⟩
    · simp [hp, a, b]
    · simp [hp, a, b, c]
  have hcases : st = stState ∨ st = stRange := by rcases hst with ⟨_, b⟩ | ⟨_, _, c⟩ <;> simp [*]
  have hut : underTest (taken d q s) d op.index = false := by
    have := h'
    simp only [admits, Bool.and_eq_true, Bool.not_eq_true'] at this
    have hu := this.2
    cases d <;> exact hu
  have hct : countTaken d (asTaken q) st = countTaken d (asTaken q) stOk := by
    apply countTaken_status
    rcases hcases with rfl | rfl <;> simp [stState, stRange, stFormat, stVersion, stAuth]
  have hne : st ≠ stOk := by rcases hcases with rfl | rfl <;> simp [stState, stRange, stOk]
  have hlog : ∀ x, logSealed d op.access st op.index op.sub x = x := by
    intro x
    rcases hcases with rfl | rfl <;> simp [logSealed, stState, stRange, stWorld, stSealed]
  rw [perform_true, inTurn_heard hpl (agentWrite_admitted h).1, (agentWrite_admitted h).2]
  unfold serveWrite
  have h'' := findRsp_admitted h'
  simp only [h'', hs', hct, hlog, ne_eq, hne, not_false_eq_true, if_true]
  unfold taken at hut ⊢
  simp only [hut, hcases, Bool.not_false, and_self, if_true]
  rfl

/-- An admitted write of class H to a running context waits with the response PENDING (R322). -/
theorem agentWrite_parks {q : Req} {c : Instr} (hpl : placeOf c = requestPlace .tsu q) {op : WriteOp} {s : State} {x : Nat}
    (h : admits .tsu q op.index op.sub op.access op.bytes s op.kind op.elem = true) (hwhole : op.whole = true)
    (hsize : op.size = op.bytes.length ∨ (op.size = 0 ∧ op.bytes.length ≤ op.maxSize))
    (hp : op.present (heard q s) = true) (hr : op.ready (heard q s) = true)
    (hg : op.range (heard q s) = true) (hc : ∀ u, op.cls u = .herd x)
    (hw : (s.tsu.herd x).state = .running) (hf : pendingFull s.tsu.agent (.herd x) = false) :
    perform true (inTurn c (agentWrite .tsu q op)) s = .next (enterErrs (answered .tsu q op.index op.sub stPending
      (park .tsu (asTaken q) op (.herd x) (op.accept (taken .tsu q s))))) := by
  have h' : admits .tsu q op.index op.sub op.access op.bytes (heard q s) op.kind op.elem = true := by simpa using h
  have hst := writeStatus_admitted h' hwhole hsize
  have hf' : pendingFull (agent (heard q s) .tsu) (.herd x) = false := by rw [heard_agent]; exact hf
  simp only [hp, hr, hg, hc, hf', Bool.and_false, Bool.true_eq_false, Bool.false_eq_true, if_false] at hst
  have hlog : ∀ u, logSealed .tsu op.access stOk op.index op.sub u = u := by
    intro u; simp [logSealed, stOk, stWorld, stSealed]
  have hwt : waits (taken .tsu q s) (.herd x) = true := by
    have : (taken .tsu q s).tsu.herd x = s.tsu.herd x := taken_keeps (·.tsu.herd x) (fun _ _ _ => rfl) (fun _ _ => rfl) q s
    simp [waits, this, hw]
  rw [perform_true, inTurn_heard hpl (agentWrite_admitted h).1, (agentWrite_admitted h).2]
  unfold serveWrite
  have h'' := findRsp_admitted h'
  simp only [h'', hst, ne_eq, not_true_eq_false, if_false, hlog, hc]
  unfold taken at hwt ⊢
  simp only [hwt, if_true]
  rfl

/-- An admitted read of an object that the part has (R312, R314). -/
theorem agentRead_answers {d : Dev} {q : Req} {c : Instr} (hpl : placeOf c = requestPlace d q) {op : ReadOp} {s : State}
    (h : admitsRead d q op.index op.sub op.pop s op.kind op.elem = true) (hp : op.present (heard q s) = true) :
    perform true (inTurn c (agentRead d q op)) s =
      .next (enterErrs (answeredRead d q op.index op.sub op.pop (op.value (taken d q s)) (op.effect (taken d q s)))) := by
  have h' : admitsRead d q op.index op.sub op.pop (heard q s) op.kind op.elem = true := by simpa using h
  simp only [admitsRead, Bool.and_eq_true, decide_eq_true_eq, Bool.not_eq_true', Bool.or_eq_true] at h'
  obtain ⟨⟨⟨⟨⟨⟨⟨_, h1⟩, h2⟩, h3⟩, hfind⟩, hhead⟩, hworld⟩, htest⟩ := h'
  have hf : (if op.pop = true then findRsp (agent (heard q s) d) (asTaken q) else none) = none := by
    split
    · exact hfind.resolve_left (by simpa using ‹op.pop = true›)
    · rfl
  have hl : (asTaken q).length = q.length := by unfold asTaken; split <;> rfl
  have hw : (decide (d = .tsu) && !secureReq (asTaken q) && elemSecure ((heard q s) : State).tsu op.kind op.elem) = false := by
    rcases hworld with hw | hw
    · simp [hw]
    · cases hd : decide (d = .tsu) with
      | false => simp
      | true =>
        have : elemSecure ((heard q s) : State).tsu op.kind op.elem = false := by
          cases hx : elemSecure ((heard q s) : State).tsu op.kind op.elem with
          | false => rfl
          | true => rw [hd, hx] at hw; simp at hw
        simp [this]
  have hhead' : headStatus (agent (heard q s) d) (asTaken q) 1 (decide ((asTaken q).length = 0))
      (headerBits (asTaken q) op.index op.sub (asTaken q).typ.toNat (asTaken q).length.toNat 0 false) [] = stOk := by
    rw [hl] at hhead ⊢; exact hhead
  have h0 : heardNow d q s = true := by
    simp only [admitsRead, Bool.and_eq_true] at h
    exact h.1.1.1.1.1.1.1
  have h1' : agentUp s.fresh d = true := by
    simp only [admitsRead, Bool.and_eq_true] at h
    rw [← h.1.1.1.1.1.1.2]; cases d <;> rfl
  have hz : ¬ (q.src = .net ∧ (!zdpHeard s.fresh.fjz q) = true) := by
    simp only [heardNow, Bool.and_eq_true, Bool.or_eq_true, decide_eq_true_eq] at h0
    rintro ⟨a, b⟩
    rcases h0.2 with c | c
    · exact c a
    · simp [c] at b
  have hlen : q.length.toNat = 0 := by
    have : q.length = 0 := by
      by_contra hne
      have : headStatus (agent (heard q s) d) (asTaken q) 1 (decide (q.length = 0))
          (headerBits (asTaken q) op.index op.sub (asTaken q).typ.toNat (asTaken q).length.toNat 0 false) [] = stFormat := by
        have hne' : ¬ q.length = 0#16 := hne
        simp [headStatus, hne']
      rw [this] at hhead
      exact absurd hhead (by decide)
    rw [this]; rfl
  rw [perform_true, inTurn_heard hpl h0]
  unfold heard at h3 hf hhead' hp hw htest
  rw [hlen] at h3 hf hhead' hp hw htest
  unfold taken heard
  rw [hlen]
  simp only [agentRead, takeRequest, h1', h2, hz, h3, List.length_nil, Bool.not_true, Bool.false_eq_true, or_self, if_false]
  unfold serveRead
  simp only [hf, hhead', hp, hw, htest, ne_eq, not_true_eq_false, Bool.not_true, Bool.false_eq_true, if_false, if_true]
  rfl

end Sys2Proof
end

