-- ==== Sys2Proof/Laws/Cells.lean ====
section
/-! SUPPORT. A received cell once and for all: a cell that arrives acts in the state that its reception leaves (R61, R68), and a cell that
is sent stands at the end of the queue of its port (R64). -/

namespace Sys2Proof

open Machine

/-- A cell that arrives acts (R61, R63, R68). -/
theorem receive_arrives {d : Dev} {p typ : Nat} {types : List Nat} {c : Cell} {i : Instr} {act : State → State} {s : State}
    (hi : placeOf i = cellTurn d p typ) (h : arrives d p typ c s = true) (ht : types.contains typ = true) :
    receive i d p types c act s.fresh = act (received d p c s) := by
  simp only [arrives, Bool.and_eq_true, decide_eq_true_eq, Bool.or_eq_true, Bool.not_eq_true'] at h
  obtain ⟨⟨⟨hturn, hup, htyp⟩, hsound⟩, hseq⟩ := h
  unfold receive
  rw [inTurn_acts (by rw [hi, aheadOf_fresh]; exact hturn)]
  have hlis : (port s d p).listens = true := by simp [Port.listens, hup]
  subst htyp
  unfold received
  simp only [port_fresh, hup, hlis, hsound, ht, ne_eq, not_true_eq_false, Bool.not_true, Bool.false_eq_true, or_self, if_false]
  cases hr : retried c.typ with
  | false => simp
  | true =>
    have h0 : lseqAhead (port s d p) c = 0 := by simpa [hr] using hseq
    simp [h0]

/-- A command about a cell that arrives at a part that works. -/
theorem performOn_receive {d : Dev} {p typ : Nat} {types : List Nat} {c : Cell} {i : Instr} {act : State → State} {s : State} {ok : Bool}
    (hi : placeOf i = cellTurn d p typ) (hok : ok = true) (hw : partWorks s d = true) (h : arrives d p typ c s = true)
    (ht : types.contains typ = true) :
    performOn d ok (receive i d p types c act) s = .next (enterErrs (act (received d p c s))) := by
  rw [performOn_works hok hw, receive_arrives hi h ht]

/-- A cell of class P0 is queued on a port that is UP. -/
theorem sendOn_up {d : Dev} {p : Nat} {bypass : Bool} {c : Cell} {s : State} (hup : (port s d p).state = .up)
    (h1 : c.cls ≠ 1) (h2 : c.cls ≠ 2) (h3 : c.cls ≠ 3) :
    sendOn d p bypass c s =
      onPort d p (fun x => { x with txq := x.txq ++ [{ cell := c, bypass := bypass, ready := counterOf s d }] }) s := by
  simp [sendOn, hup, h1, h3, h2]

/-- On a port that is not UP nothing is sent. -/
theorem sendOn_down {d : Dev} {p : Nat} {bypass : Bool} {c : Cell} {s : State} (h : (port s d p).state ≠ .up) :
    sendOn d p bypass c s = s := by
  simp [sendOn, h]

/-! ## What a reception leaves alone -/

@[simp] theorem received_pending (d : Dev) (p : Nat) (c : Cell) (s : State) : (received d p c s).pending = s.pending := by
  unfold received; split <;> simp
@[simp] theorem received_later (d : Dev) (p : Nat) (c : Cell) (s : State) : (received d p c s).later = s.later := by
  unfold received; split <;> simp
@[simp] theorem received_staged (d : Dev) (p : Nat) (c : Cell) (s : State) : (received d p c s).staged = [] := by
  unfold received; split <;> simp
@[simp] theorem received_out (d : Dev) (p : Nat) (c : Cell) (s : State) : (received d p c s).out = [] := by
  unfold received; split <;> simp
@[simp] theorem received_fjz (p : Nat) (c : Cell) (s : State) : (received .tsu p c s).fjz = s.fjz := by
  unfold received; split <;> rfl
@[simp] theorem received_tsu (p : Nat) (c : Cell) (s : State) : (received .fjz p c s).tsu = s.tsu := by
  unfold received; split <;> rfl
@[simp] theorem received_tc (d : Dev) (p : Nat) (c : Cell) (s : State) : (received d p c s).tsu.tc = s.tsu.tc := by
  unfold received; split <;> cases d <;> rfl
@[simp] theorem received_herds (d : Dev) (p : Nat) (c : Cell) (s : State) : (received d p c s).tsu.herds = s.tsu.herds := by
  unfold received; split <;> cases d <;> rfl
@[simp] theorem received_errs (p : Nat) (c : Cell) (s : State) : (received .tsu p c s).tsu.errs = s.tsu.errs := by
  unfold received; split <;> rfl

/-- A reception moves no cell that waits to be sent. -/
@[simp] theorem received_txq (d e : Dev) (p r : Nat) (c : Cell) (s : State) :
    (port (received d p c s) e r).txq = (port s e r).txq := by
  unfold received
  split
  · by_cases hd : e = d ∧ r = p
    · obtain ⟨rfl, rfl⟩ := hd
      rw [port_onPort_same, port_fresh]; rfl
    · rw [port_onPort_ne e d _ _ (by by_cases h : e = d <;> simp_all), port_fresh]
  · rw [port_fresh]

end Sys2Proof
end

