-- ==== Sys2Proof/Laws/ChipStays.lean ====
section
/-! SUPPORT. What the die does leaves the Fjouz chip as it was: one lemma per operation. -/

namespace Sys2Proof.Machine

@[simp] theorem ite_fjz (c : Prop) [Decidable c] (a b : State) : (if c then a else b).fjz = if c then a.fjz else b.fjz := by
  split <;> rfl
@[simp] theorem forAll_fjz {α : Type} (xs : List α) (f : α → State → State) (s : State) (h : ∀ a b, (f a b).fjz = b.fjz) :
    (forAll xs f s).fjz = s.fjz := forAll_keeps (fun s : State => s.fjz) f h xs s
@[simp] theorem foldl_fjz {α : Type} (xs : List α) (f : State → α → State) (s : State) (h : ∀ b a, (f b a).fjz = b.fjz) :
    (xs.foldl f s).fjz = s.fjz := by
  induction xs generalizing s with
  | nil => rfl
  | cons x xs ih => exact (ih (f s x)).trans (h s x)

/-! ## Order -/

@[simp] theorem fjz_inTurn (c : Instr) (act : State → State) (s : State) (h_act : ∀ u, (act u).fjz = u.fjz) :
    (inTurn c act s).fjz = s.fjz := by simp [inTurn, *]

/-! ## Tokens -/

@[simp] theorem fjz_fromRegion (n q : Nat) (i : Instr) (act : State → State) (s : State) (h_act : ∀ u, (act u).fjz = u.fjz) :
    (fromRegion n q i act s).fjz = s.fjz := by
  unfold fromRegion
  repeat' (first | split | simp [*])
@[simp] theorem fjz_putOut (n q : Nat) (o : Out) (s : State) : (putOut n q o s).fjz = s.fjz := by simp [putOut]
@[simp] theorem fjz_toRegion (n q : Nat) (o : Out) (s : State) : (toRegion n q o s).fjz = s.fjz := by simp [toRegion]
@[simp] theorem fjz_readOut (n q : Nat) (s : State) :
    (readOut n q s).fjz = s.fjz := by
  unfold readOut
  repeat' (first | split | simp)
@[simp] theorem fjz_offerTokens (n : Nat) (s : State) : (offerTokens n s).fjz = s.fjz := by simp [offerTokens]
@[simp] theorem fjz_serveQueues (s : State) : (serveQueues s).fjz = s.fjz := by simp [serveQueues]

/-! ## TimeOps -/

@[simp] theorem fjz_enterTime (st : TimeState) (s : State) : (enterTime st s).fjz = s.fjz := by simp [enterTime]

/-! ## Records -/

@[simp] theorem fjz_tap (kind : Nat) (data : Bytes) (s : State) : (tap kind data s).fjz = s.fjz := by simp [tap]
@[simp] theorem fjz_tapHerd (kind h : Nat) (content : Bytes) (s : State) :
    (tapHerd kind h content s).fjz = s.fjz := by simp [tapHerd]
@[simp] theorem fjz_enterErr (e : ErrRec × Bytes) (s : State) : (enterErr e s).fjz = s.fjz := by simp [enterErr]
@[simp] theorem fjz_enterErrs (s : State) : (enterErrs s).fjz = s.fjz := by simp [enterErrs]
@[simp] theorem fjz_raise (r : ErrRec) (s : State) : (raise r s).fjz = s.fjz := by simp [raise]
@[simp] theorem fjz_raiseHerd (h : Nat) (code : U16) (halts : Bool) (obj waiter : U32) (round : Nat) (detail : Nat) (s : State) :
    (raiseHerd h code halts obj waiter round detail s).fjz = s.fjz := by simp [raiseHerd]
@[simp] theorem fjz_raiseOn_die (r : ErrRec) (s : State) : (raiseOn .tsu r s).fjz = s.fjz := by simp [raiseOn]
@[simp] theorem fjz_State_fresh (s : State) : (State.fresh s).fjz = s.fjz := by simp [State.fresh]

/-! ## Ports -/

@[simp] theorem fjz_sendOn_die (p : Nat) (bypass : Bool) (c : Cell) (s : State) :
    (sendOn .tsu p bypass c s).fjz = s.fjz := by simp [sendOn]
@[simp] theorem fjz_send_die (p : Nat) (c : Cell) (s : State) : (send .tsu p c s).fjz = s.fjz := by simp [send]
@[simp] theorem fjz_sendFirst (p : Nat) (c : Cell) (s : State) : (sendFirst p c s).fjz = s.fjz := by simp [sendFirst]
@[simp] theorem fjz_sendAll_die (ps : List Nat) (bypass : Bool) (c : Cell) (s : State) :
    (sendAll .tsu ps bypass c s).fjz = s.fjz := by simp [sendAll]
@[simp] theorem fjz_sendBoth (c : Cell) (s : State) : (sendBoth c s).fjz = s.fjz := by simp [sendBoth]
@[simp] theorem fjz_receive_die (i : Instr) (p : Nat) (types : List Nat) (c : Cell) (act : State → State) (s : State) (h_act : ∀ u, (act u).fjz = u.fjz) :
    (receive i .tsu p types c act s).fjz = s.fjz := by simp [receive, *]

/-! ## Agent -/

@[simp] theorem fjz_setSelector_die (q : Req) (index sub v : Nat) (s : State) :
    (setSelector .tsu q index sub v s).fjz = s.fjz := by simp [setSelector]
@[simp] theorem fjz_sendMessage_die (p typ addr : Nat) (m : Bytes) (s : State) :
    (sendMessage .tsu p typ addr m s).fjz = s.fjz := by simp [sendMessage]
@[simp] theorem fjz_deliverRsp_die (r : Rsp) (s : State) :
    (deliverRsp .tsu r s).fjz = s.fjz := by
  unfold deliverRsp
  split <;> simp
@[simp] theorem fjz_repeatRsp_die (q : Req) (r : Rsp) (s : State) :
    (repeatRsp .tsu q r s).fjz = s.fjz := by simp [repeatRsp]
@[simp] theorem fjz_appliedRsp_die (q : Req) (index sub status : Nat) (s : State) :
    (appliedRsp .tsu q index sub status s).fjz = s.fjz := by simp [appliedRsp]
@[simp] theorem fjz_countTaken_die (q : Req) (status : Nat) (s : State) :
    (countTaken .tsu q status s).fjz = s.fjz := by simp [countTaken]
@[simp] theorem fjz_logSealed_die (access : Access) (st index sub : Nat) (s : State) :
    (logSealed .tsu access st index sub s).fjz = s.fjz := by simp [logSealed]
@[simp] theorem fjz_serveRead_die (q : Req) (op : ReadOp) (s : State) (h1 : ∀ u, (op.effect u).fjz = u.fjz) :
    (serveRead .tsu q op s).fjz = s.fjz := by
  unfold serveRead
  repeat' (first | split | simp [*])
@[simp] theorem fjz_countFragments_die (p n : Nat) (s : State) :
    (countFragments .tsu p n s).fjz = s.fjz := by simp [countFragments]
@[simp] theorem fjz_tunnelCells (q : Req) (n : Nat) (s : State) :
    (tunnelCells q n s).fjz = s.fjz := by
  unfold tunnelCells
  split <;> simp

/-! ## HerdOps -/

@[simp] theorem fjz_sendHalt (kind span : Nat) (herd : Id24) (run : U8) (h : HT) (cause : U16) (s : State) :
    (sendHalt kind span herd run h cause s).fjz = s.fjz := by simp [sendHalt]
@[simp] theorem fjz_haltHerd_prime (h : Nat) (code : U16) (s : State) :
    (haltHerd' h code s).fjz = s.fjz := by simp [haltHerd']
@[simp] theorem fjz_faultHerd (h : Nat) (code : U16) (obj waiter : U32) (round detail : Nat) (s : State) :
    (faultHerd h code obj waiter round detail s).fjz = s.fjz := by simp [faultHerd]

/-! ## SyncOps -/

@[simp] theorem fjz_onCounter (n : Nat) (f : CounterSt → CounterSt) (s : State) :
    (onCounter n f s).fjz = s.fjz := by simp [onCounter]
@[simp] theorem fjz_onEvent (n : Nat) (f : EventSt → EventSt) (s : State) :
    (onEvent n f s).fjz = s.fjz := by simp [onEvent]
@[simp] theorem fjz_onWatch (n : Nat) (f : Watch → Watch) (s : State) : (onWatch n f s).fjz = s.fjz := by simp [onWatch]
@[simp] theorem fjz_countCorrected (e : Ecc) (s : State) : (countCorrected e s).fjz = s.fjz := by simp [countCorrected]
@[simp] theorem fjz_countLate (s : State) : (countLate s).fjz = s.fjz := by simp [countLate]
@[simp] theorem fjz_endWatch (slot : Nat) (status : Nat) (outcome : BitVec 3) (value : BitVec 48) (s : State) :
    (endWatch slot status outcome value s).fjz = s.fjz := by simp [endWatch]
@[simp] theorem fjz_purgeHerd (h : Nat) (s : State) : (purgeHerd h s).fjz = s.fjz := by simp [purgeHerd]
@[simp] theorem fjz_endObjectWatches (isEvent : Bool) (n status : Nat) (outcome : BitVec 3) (s : State) :
    (endObjectWatches isEvent n status outcome s).fjz = s.fjz := by simp [endObjectWatches]
@[simp] theorem fjz_syncFault (owner : Option Nat) (obj : U32) (s : State) :
    (syncFault owner obj s).fjz = s.fjz := by
  unfold syncFault
  split <;> simp
@[simp] theorem fjz_syncUncorrectable (isEvent : Bool) (n : Nat) (s : State) :
    (syncUncorrectable isEvent n s).fjz = s.fjz := by simp [syncUncorrectable]
@[simp] theorem fjz_watchUncorrectable (slot : Nat) (s : State) :
    (watchUncorrectable slot s).fjz = s.fjz := by simp [watchUncorrectable]
@[simp] theorem fjz_syncFaults (e : Ecc) (s : State) :
    (syncFaults e s).fjz = s.fjz := by
  unfold syncFaults
  repeat' (first | intro _ | simp [*] | split | rw [forAll_fjz])
@[simp] theorem fjz_lateSignal (h : Nat) (obj source : U32) (seen : Bool) (s : State) :
    (lateSignal h obj source seen s).fjz = s.fjz := by simp [lateSignal]
@[simp] theorem fjz_signalCounter (h n : Nat) (source : U32) (f : BitVec 48 → BitVec 48) (s : State) :
    (signalCounter h n source f s).fjz = s.fjz := by simp [signalCounter]
@[simp] theorem fjz_signalEvent (h n : Nat) (source : U32) (s : State) :
    (signalEvent h n source s).fjz = s.fjz := by simp [signalEvent]
@[simp] theorem fjz_claimForWatch (n : Nat) (s : State) : (claimForWatch n s).fjz = s.fjz := by simp [claimForWatch]
@[simp] theorem fjz_settleValues (s : State) : (settleValues s).fjz = s.fjz := by simp [settleValues]
@[simp] theorem fjz_evalWatches (s : State) : (evalWatches s).fjz = s.fjz := by simp [evalWatches]
@[simp] theorem fjz_clearClaimed (s : State) : (clearClaimed s).fjz = s.fjz := by simp [clearClaimed]
@[simp] theorem fjz_syncReset (h : Nat) (s : State) : (syncReset h s).fjz = s.fjz := by simp [syncReset]

/-! ## MeterOps -/

@[simp] theorem fjz_setEntry (i : Nat) (e : BitVec 256) (s : State) : (setEntry i e s).fjz = s.fjz := by simp [setEntry]
@[simp] theorem fjz_raiseMeter (code : U16) (obj waiter : U32) (herd : Id24) (detail : Nat) (s : State) :
    (raiseMeter code obj waiter herd detail s).fjz = s.fjz := by simp [raiseMeter]
@[simp] theorem fjz_checkCopies {α : Type} [DecidableEq α] (badA badB : Bool) (w : Copies α) (s : State) :
    (checkCopies badA badB w s).fjz = s.fjz := by simp [checkCopies]
@[simp] theorem fjz_checkSlot (badA badB : Bool) (i : Nat) (s : State) :
    (checkSlot badA badB i s).fjz = s.fjz := by simp [checkSlot]
@[simp] theorem fjz_meterFaults (e : Ecc) (s : State) :
    (meterFaults e s).fjz = s.fjz := by
  unfold meterFaults
  repeat' (first | intro _ | simp [*] | split | rw [forAll_fjz])
@[simp] theorem fjz_takeEntry (i : Nat) (s : State) : (takeEntry i s).fjz = s.fjz := by simp [takeEntry]

/-! ## LedgerOps -/

@[simp] theorem fjz_ledgerOpOn (h op amount ns i : Nat) (s : State) :
    (ledgerOpOn h op amount ns i s).fjz = s.fjz := by
  unfold ledgerOpOn
  split <;> simp
@[simp] theorem fjz_autoTake (i : Nat) (s : State) : (autoTake i s).fjz = s.fjz := by simp [autoTake]
@[simp] theorem fjz_passEntry (p : LedgerOp) (rank i : Nat) (s : State) :
    (passEntry p rank i s).1.fjz = s.fjz := by
  unfold passEntry
  repeat' (first | split | simp)
@[simp] theorem fjz_ledgerFault (h i : Nat) (s : State) : (ledgerFault h i s).fjz = s.fjz := by simp [ledgerFault]
@[simp] theorem fjz_passBad (p : LedgerOp) (i : Nat) (s : State) : (passBad p i s).fjz = s.fjz := by simp [passBad]
@[simp] theorem fjz_passChunk (fuel room : Nat) (p : LedgerOp) (s : State) :
    (passChunk fuel room p s).1.fjz = s.fjz := by
  induction fuel generalizing room p s with
  | zero => rfl
  | succ k ih =>
    unfold passChunk
    dsimp only
    split
    · rfl
    · split
      · rfl
      · rw [ih]
        split <;> simp
@[simp] theorem fjz_drainEnded (p : LedgerOp) (s : State) : (drainEnded p s).fjz = s.fjz := by simp [drainEnded]
@[simp] theorem fjz_passEnded (p : LedgerOp) (s : State) :
    (passEnded p s).fjz = s.fjz := by
  unfold passEnded
  split <;> simp
@[simp] theorem fjz_visitPass (h : Nat) (p : LedgerOp) (r : State × List LedgerOp) :
    (visitPass h p r).1.fjz = r.1.fjz := by
  unfold visitPass
  dsimp only
  split
  · rfl
  · split <;> simp  -- walk
@[simp] theorem fjz_runPasses (h : Nat) (s : State) :
    (runPasses h s).fjz = s.fjz := by
  have walk : ∀ (ps : List LedgerOp) (r : State × List LedgerOp),
      (ps.foldl (fun r p => visitPass h p r) r).1.fjz = r.1.fjz := by
    intro ps
    induction ps with
    | nil => intro r; rfl
    | cons p ps ih => intro r; rw [List.foldl_cons, ih]; simp
  unfold runPasses
  simp [walk]
@[simp] theorem fjz_addPass (p : LedgerOp) (s : State) : (addPass p s).fjz = s.fjz := by simp [addPass]
@[simp] theorem fjz_beginPass (h g : Nat) (act : GroupAct) (ns : Nat) (s : State) :
    (beginPass h g act ns s).fjz = s.fjz := by simp [beginPass]
@[simp] theorem fjz_beginAll (h : Nat) (act : GroupAct) (ns : Nat) (s : State) :
    (beginAll h act ns s).fjz = s.fjz := by simp [beginAll]
@[simp] theorem fjz_openGroup (h g ns : Nat) (s : State) : (openGroup h g ns s).fjz = s.fjz := by simp [openGroup]
@[simp] theorem fjz_closeGroup (t0 : Tsu) (h g ns : Nat) (s : State) :
    (closeGroup t0 h g ns s).fjz = s.fjz := by
  unfold closeGroup
  split <;> simp
@[simp] theorem fjz_autoPass (h g ns : Nat) (s : State) : (autoPass h g ns s).fjz = s.fjz := by simp [autoPass]
@[simp] theorem fjz_renewOpen (t0 : Tsu) (h ns : Nat) (s : State) :
    (renewOpen t0 h ns s).fjz = s.fjz := by
  unfold renewOpen
  repeat' (first | intro _ | simp [*] | split | rw [forAll_fjz])
@[simp] theorem fjz_closeHerd (t0 : Tsu) (h : Nat) (s : State) : (closeHerd t0 h s).fjz = s.fjz := by simp [closeHerd]
@[simp] theorem fjz_finishPasses (h : Nat) (s : State) : (finishPasses h s).fjz = s.fjz := by simp [finishPasses]
@[simp] theorem fjz_unloadEntry (herd : Id24) (h i : Nat) (s : State) :
    (unloadEntry herd h i s).fjz = s.fjz := by simp [unloadEntry]
@[simp] theorem fjz_unloadEntries (h : Nat) (s : State) : (unloadEntries h s).fjz = s.fjz := by simp [unloadEntries]
@[simp] theorem fjz_applyLedger (i : Nat) (new : BitVec 256) (s : State) :
    (applyLedger i new s).fjz = s.fjz := by
  unfold applyLedger
  repeat' (first | split | simp)
@[simp] theorem fjz_applyHeld (w : HeldWrite) (s : State) : (applyHeld w s).fjz = s.fjz := by simp [applyHeld]
@[simp] theorem fjz_applyHeldOf (h : Nat) (due : HeldWrite → Bool) (s : State) :
    (applyHeldOf h due s).fjz = s.fjz := by simp [applyHeldOf]

/-! ## RunOps -/

@[simp] theorem fjz_takePlan (h : Nat) (plan : BitVec 256) (s : State) :
    (takePlan h plan s).fjz = s.fjz := by simp [takePlan]
@[simp] theorem fjz_abortSwap (h : Nat) (cause : U32) (s : State) :
    (abortSwap h cause s).fjz = s.fjz := by simp [abortSwap]
@[simp] theorem fjz_takeCancel (h : Nat) (s : State) : (takeCancel h s).fjz = s.fjz := by simp [takeCancel]
@[simp] theorem fjz_fetchFailed (h : Nat) (s : State) :
    (fetchFailed h s).fjz = s.fjz := by
  unfold fetchFailed
  repeat' (first | split | simp)
@[simp] theorem fjz_swapPhase4 (h : Nat) (s : State) : (swapPhase4 h s).fjz = s.fjz := by simp [swapPhase4]
@[simp] theorem fjz_applyPendingWrite (w : PendingWrite) (s : State) :
    (applyPendingWrite w s).fjz = s.fjz := by simp [applyPendingWrite]
@[simp] theorem fjz_endRun (h : Nat) (st : HerdState) (s : State) : (endRun h st s).fjz = s.fjz := by simp [endRun]
@[simp] theorem fjz_leaveHerd (h cause : Nat) (s : State) : (leaveHerd h cause s).fjz = s.fjz := by simp [leaveHerd]
@[simp] theorem fjz_departHerds (cause : Nat) (s : State) :
    (departHerds cause s).fjz = s.fjz := by
  unfold departHerds
  repeat' (first | intro _ | simp [*] | split | rw [forAll_fjz])
@[simp] theorem fjz_startResult (h : Nat) (ok : Bool) (s : State) :
    (startResult h ok s).fjz = s.fjz := by simp [startResult]

/-! ## TineOps -/

@[simp] theorem fjz_replayDiff (h : Nat) (obj : U32) (round : U16) (s : State) :
    (replayDiff h obj round s).fjz = s.fjz := by simp [replayDiff]
@[simp] theorem fjz_compareArrival (own : Bool) (h : Nat) (a : U16 × U16 × U8 × U8 × U64) (s : State) :
    (compareArrival own h a s).fjz = s.fjz := by
  unfold compareArrival
  repeat' (first | split | simp)
@[simp] theorem fjz_compareResult (own : Bool) (h : Nat) (content : Bytes) (s : State) :
    (compareResult own h content s).fjz = s.fjz := by
  unfold compareResult
  repeat' (first | split | simp)
@[simp] theorem fjz_sendPart (n : Nat) (kind : BitVec 4) (round : U16) (replay first : Bool) (cause : BitVec 3) (members : Id24) (deadline : U64) (origin : Id24) (payload : Payload) (s : State) :
    (sendPart n kind round replay first cause members deadline origin payload s).fjz = s.fjz := by
  unfold sendPart
  split <;> simp
@[simp] theorem fjz_queueArrival (n : Nat) (kind : BitVec 4) (cause : BitVec 3) (members : Id24) (deadline : U64) (payload : Payload) (s : State) :
    (queueArrival n kind cause members deadline payload s).fjz = s.fjz := by simp [queueArrival]
@[simp] theorem fjz_failRound (n : Nat) (cause : BitVec 3) (s : State) :
    (failRound n cause s).fjz = s.fjz := by
  unfold failRound
  split <;> simp
@[simp] theorem fjz_completeRounds (x0 : Nat) (x1 : Nat) (s : State) :
    (completeRounds x0 x1 s).fjz = s.fjz := by
  induction x0 generalizing s with
  | zero => rfl
  | succ k ih =>
    unfold completeRounds
    repeat' (first | intro _ | simp [*] | split)
@[simp] theorem fjz_raisePart (h n : Nat) (code : U16) (waiter : U32) (round : U16) (detail : Nat) (s : State) :
    (raisePart h n code waiter round detail s).fjz = s.fjz := by simp [raisePart]
@[simp] theorem fjz_contribute (region n : Nat) (payload : Payload) (s : State) :
    (contribute region n payload s).fjz = s.fjz := by
  unfold contribute
  split <;> simp
@[simp] theorem fjz_completeArrivals (h : Nat) (s : State) :
    (completeArrivals h s).fjz = s.fjz := by simp [completeArrivals]
@[simp] theorem fjz_applyTarget (h n : Nat) (failed : Bool) (s : State) :
    (applyTarget h n failed s).fjz = s.fjz := by
  unfold applyTarget
  repeat' (first | split | simp)
@[simp] theorem fjz_deliverResult (h n : Nat) (r : Delivery) (s : State) :
    (deliverResult h n r s).fjz = s.fjz := by simp [deliverResult]
@[simp] theorem fjz_resyncPart (h n : Nat) (s : State) :
    (resyncPart h n s).fjz = s.fjz := by
  unfold resyncPart
  repeat' (first | split | simp)
@[simp] theorem fjz_replayPart (n : Nat) (s : State) : (replayPart n s).fjz = s.fjz := by simp [replayPart]
@[simp] theorem fjz_moveHerd (h : Nat) (plane : Plane) (s : State) :
    (moveHerd h plane s).fjz = s.fjz := by
  unfold moveHerd
  repeat' (first | intro _ | simp [*] | split | rw [forAll_fjz])
@[simp] theorem fjz_moveOff (p h : Nat) (s : State) : (moveOff p h s).fjz = s.fjz := by
  unfold moveOff
  split <;> simp
@[simp] theorem fjz_moveIfLost (h : Nat) (s : State) :
    (moveIfLost h s).fjz = s.fjz := by
  unfold moveIfLost
  split <;> simp
@[simp] theorem fjz_startArrive (h : Nat) (fire : HT) (value : Bool) (s : State) :
    (startArrive h fire value s).fjz = s.fjz := by simp [startArrive]

/-! ## RegionOps -/

@[simp] theorem fjz_takeSnapshot (n trig : Nat) (rcc : BitVec 48) (s : State) :
    (takeSnapshot n trig rcc s).fjz = s.fjz := by
  unfold takeSnapshot
  dsimp only
  exact onRegion_fjz _ _ _  -- walk
@[simp] theorem fjz_sendBias (n : Nat) (s : State) : (sendBias n s).fjz = s.fjz := by simp [sendBias]
@[simp] theorem fjz_setBank (n b : Nat) (st : BankState) (s : State) :
    (setBank n b st s).fjz = s.fjz := by simp [setBank]
@[simp] theorem fjz_stampBank (n b h : Nat) (s : State) : (stampBank n b h s).fjz = s.fjz := by simp [stampBank]
@[simp] theorem fjz_bankOff (n h b : Nat) (s : State) : (bankOff n h b s).fjz = s.fjz := by simp [bankOff]
@[simp] theorem fjz_bankOn (n h b : Nat) (s : State) :
    (bankOn n h b s).fjz = s.fjz := by
  unfold bankOn
  split <;> simp
@[simp] theorem fjz_powerOp (h : Nat) (d : Desc) (s : State) :
    (powerOp h d s).fjz = s.fjz := by
  unfold powerOp
  split <;> simp

/-! ## StepOps -/

@[simp] theorem fjz_fillAhead (h : Nat) (x0 : Nat) (s : State) :
    (fillAhead h x0 s).fjz = s.fjz := by
  induction x0 generalizing s with
  | zero => rfl
  | succ k ih =>
    unfold fillAhead
    repeat' (first | intro _ | simp [*] | split)
@[simp] theorem fjz_onAhead (h i : Nat) (f : Ahead → Ahead) (s : State) :
    (onAhead h i f s).fjz = s.fjz := by simp [onAhead]
@[simp] theorem fjz_evalGate (h i k : Nat) (s : State) :
    (evalGate h i k s).fjz = s.fjz := by
  unfold evalGate
  repeat' (first | split | simp)
@[simp] theorem fjz_evalAhead (h i : Nat) (s : State) :
    (evalAhead h i s).fjz = s.fjz := by
  unfold evalAhead
  split <;> simp
@[simp] theorem fjz_haltAtFailedGate (h : Nat) (s : State) :
    (haltAtFailedGate h s).fjz = s.fjz := by
  unfold haltAtFailedGate
  repeat' (first | split | simp)
@[simp] theorem fjz_herdPhase4 (h : Nat) (s : State) : (herdPhase4 h s).fjz = s.fjz := by simp [herdPhase4]
@[simp] theorem fjz_phase4 (s : State) : (phase4 s).fjz = s.fjz := by simp [phase4]
@[simp] theorem fjz_enterHalted (h : Nat) (s : State) : (enterHalted h s).fjz = s.fjz := by simp [enterHalted]
@[simp] theorem fjz_countBoundary (h : Nat) (a : Ahead) (s : State) :
    (countBoundary h a s).fjz = s.fjz := by
  unfold countBoundary
  dsimp only
  repeat' (first | intro _ | split | simp [*])
@[simp] theorem fjz_stepEvent (h : Nat) (a : Ahead) (d : Desc) (s : State) :
    (stepEvent h a d s).fjz = s.fjz := by simp [stepEvent]
@[simp] theorem fjz_launchRegion (h step : Nat) (entry : U16) (region : Nat) (rcc : BitVec 48) (s : State) :
    (launchRegion h step entry region rcc s).fjz = s.fjz := by
  unfold launchRegion
  dsimp only
  rw [forAll_fjz _ _ _ (fun _ _ => emit_fjz _ _), onRegion_fjz, fjz_takeSnapshot, fjz_toRegion, fjz_sendBias]  -- walk
@[simp] theorem fjz_launchRegions (h step : Nat) (d : Desc) (rccs : List (BitVec 48)) (s : State) :
    (launchRegions h step d rccs s).fjz = s.fjz := by simp [launchRegions]
@[simp] theorem fjz_launchStep (h : Nat) (a : Ahead) (d : Desc) (rccs : List (BitVec 48)) (s : State) :
    (launchStep h a d rccs s).fjz = s.fjz := by simp [launchStep]
@[simp] theorem fjz_consumeEvents (d : Desc) (s : State) : (consumeEvents d s).fjz = s.fjz := by simp [consumeEvents]
@[simp] theorem fjz_swapFetch (h step : Nat) (s : State) : (swapFetch h step s).fjz = s.fjz := by simp [swapFetch]
@[simp] theorem fjz_swapArrive (h : Nat) (s : State) : (swapArrive h s).fjz = s.fjz := by simp [swapArrive]
@[simp] theorem fjz_swapFlip (h : Nat) (grid : HT) (s : State) : (swapFlip h grid s).fjz = s.fjz := by simp [swapFlip]
@[simp] theorem fjz_swapDecide (h : Nat) (b : Boundary) (d : Desc) (s : State) :
    (swapDecide h b d s).fjz = s.fjz := by
  unfold swapDecide
  repeat' (first | split | simp)
@[simp] theorem fjz_swapRelease (h : Nat) (s : State) : (swapRelease h s).fjz = s.fjz := by simp [swapRelease]
@[simp] theorem fjz_swapAction (h : Nat) (b : Boundary) (d : Desc) (s : State) :
    (swapAction h b d s).fjz = s.fjz := by
  unfold swapAction
  split <;> simp
@[simp] theorem fjz_drainCheck (h : Nat) (grid : HT) (s : State) :
    (drainCheck h grid s).fjz = s.fjz := by simp [drainCheck]
@[simp] theorem fjz_deadlineTime (herd : Id24) (s : State) :
    (deadlineTime herd s).2.fjz = s.fjz := by
  unfold deadlineTime
  repeat' (first | split | simp)
@[simp] theorem fjz_beginLedger (h : Nat) (d : Desc) (s : State) :
    (beginLedger h d s).fjz = s.fjz := by simp [beginLedger]
@[simp] theorem fjz_descActions (t0 : Tsu) (b : Boundary) (s : State) :
    (descActions t0 b s).fjz = s.fjz := by simp [descActions]
@[simp] theorem fjz_boundaryPhase7 (t0 : Tsu) (b : Boundary) (s : State) :
    (boundaryPhase7 t0 b s).fjz = s.fjz := by simp [boundaryPhase7]
@[simp] theorem fjz_herdPhase7 (t0 : Tsu) (h : Nat) (s : State) : (herdPhase7 t0 h s).fjz = s.fjz := by simp [herdPhase7]
@[simp] theorem fjz_applyPending (h : Nat) (all : Bool) (s : State) :
    (applyPending h all s).fjz = s.fjz := by simp [applyPending]
@[simp] theorem fjz_herdPhase8 (t0 : Tsu) (h : Nat) (s : State) : (herdPhase8 t0 h s).fjz = s.fjz := by simp [herdPhase8]
@[simp] theorem fjz_countBounds (t0 : Tsu) (s : State) :
    (countBounds t0 s).fjz = s.fjz := by
  unfold countBounds
  repeat' (first | intro _ | simp [*] | split | rw [forAll_fjz])
@[simp] theorem fjz_lastPhases (s : State) : (lastPhases s).fjz = s.fjz := by simp [lastPhases]
@[simp] theorem fjz_finishContext (h : Nat) (s : State) : (finishContext h s).fjz = s.fjz := by simp [finishContext]
@[simp] theorem fjz_takeWay (h : Nat) (on : Bool) (s : State) : (takeWay h on s).fjz = s.fjz := by simp [takeWay]
@[simp] theorem fjz_advance (h : Nat) (d : Desc) (s : State) : (advance h d s).fjz = s.fjz := by simp [advance]
@[simp] theorem fjz_finishBoundary (h : Nat) (a : Ahead) (d : Desc) (acts : Bool) (s : State) :
    (finishBoundary h a d acts s).fjz = s.fjz := by simp [finishBoundary]
@[simp] theorem fjz_goBoundary (h : Nat) (a : Ahead) (rccs : List (BitVec 48)) (s : State) :
    (goBoundary h a rccs s).fjz = s.fjz := by simp [goBoundary]
@[simp] theorem fjz_silentBoundary (h : Nat) (a : Ahead) (s : State) :
    (silentBoundary h a s).fjz = s.fjz := by simp [silentBoundary]
@[simp] theorem fjz_ledgerBad (e : Ecc) (s : State) : (ledgerBad e s).fjz = s.fjz := by simp [ledgerBad]
@[simp] theorem fjz_descFault (h step : Nat) (s : State) : (descFault h step s).fjz = s.fjz := by simp [descFault]
@[simp] theorem fjz_tryBoundary (h : Nat) (a : Ahead) (rccs : List (BitVec 48)) (ecc : Ecc) (s : State) :
    (tryBoundary h a rccs ecc s).fjz = s.fjz := by
  unfold tryBoundary
  repeat' (first | split | simp)
@[simp] theorem fjz_stepBoundary (h typ : Nat) (rccs : List (BitVec 48)) (ecc : Ecc) (s : State) :
    (stepBoundary h typ rccs ecc s).fjz = s.fjz := by
  unfold stepBoundary
  repeat' (first | split | simp)
@[simp] theorem fjz_haltBoundary (h : Nat) (s : State) :
    (haltBoundary h s).fjz = s.fjz := by
  unfold haltBoundary
  repeat' (first | split | simp)

/-! ## PlaneOps -/

@[simp] theorem fjz_goTime (st : TimeState) (s : State) : (goTime st s).fjz = s.fjz := by simp [goTime]
@[simp] theorem fjz_startHoldover (s : State) : (startHoldover s).fjz = s.fjz := by simp [startHoldover]
@[simp] theorem fjz_bothLost (s : State) :
    (bothLost s).fjz = s.fjz := by
  unfold bothLost
  dsimp only
  repeat' (first | intro _ | split | simp [*])
@[simp] theorem fjz_switchPlane (pl : Plane) (s : State) : (switchPlane pl s).fjz = s.fjz := by simp [switchPlane]
@[simp] theorem fjz_regainPlane (pl : Plane) (err : Int) (s : State) :
    (regainPlane pl err s).fjz = s.fjz := by
  unfold regainPlane
  repeat' (first | split | simp)
@[simp] theorem fjz_judgeBetter (s : State) : (judgeBetter s).fjz = s.fjz := by simp [judgeBetter]
@[simp] theorem fjz_reselect (err : Int) (s : State) :
    (reselect err s).fjz = s.fjz := by
  unfold reselect
  repeat' (first | split | simp)
@[simp] theorem fjz_firstBleat (pl : Plane) (ht : HT) (st : Stamp) (s : State) :
    (firstBleat pl ht st s).fjz = s.fjz := by simp [firstBleat]
@[simp] theorem fjz_wideExchange (theta : Int) (s : State) :
    (wideExchange theta s).fjz = s.fjz := by
  unfold wideExchange
  split <;> simp
@[simp] theorem fjz_narrowExchange (theta : Int) (s : State) :
    (narrowExchange theta s).fjz = s.fjz := by simp [narrowExchange]
@[simp] theorem fjz_otherExchange (theta : Int) (s : State) :
    (otherExchange theta s).fjz = s.fjz := by simp [otherExchange]

/-! ## ChipOps -/

@[simp] theorem fjz_reportMismatch (die : U32) (s : State) :
    (reportMismatch die s).fjz = s.fjz := by simp [reportMismatch]
@[simp] theorem fjz_withAdoption (f : State → State) (s : State) (h_f : ∀ u, (f u).fjz = u.fjz) :
    (withAdoption f s).fjz = s.fjz := by simp [withAdoption, *]

/-! ## LinkOps -/

@[simp] theorem fjz_startTrain_die (p : Nat) (s : State) : (startTrain .tsu p s).fjz = s.fjz := by simp [startTrain]
@[simp] theorem fjz_forgetOffset (s : State) : (forgetOffset s).fjz = s.fjz := by simp [forgetOffset]
@[simp] theorem fjz_afterDown_die (p : Nat) (s : State) : (afterDown .tsu p s).fjz = s.fjz := by simp [afterDown]
@[simp] theorem fjz_takeDown_die (p : Nat) (st : PortState) (s : State) :
    (takeDown .tsu p st s).fjz = s.fjz := by simp [takeDown]
@[simp] theorem fjz_recordDown_die (p : Nat) (cause : U8) (s : State) :
    (recordDown .tsu p cause s).fjz = s.fjz := by simp [recordDown]
@[simp] theorem fjz_linkDown_die (p : Nat) (cause : U8) (s : State) :
    (linkDown .tsu p cause s).fjz = s.fjz := by simp [linkDown]
@[simp] theorem fjz_actEnable_die (p : Nat) (s : State) : (actEnable .tsu p s).fjz = s.fjz := by simp [actEnable]
@[simp] theorem fjz_setEnable_die (p : Nat) (on : Bool) (s : State) :
    (setEnable .tsu p on s).fjz = s.fjz := by simp [setEnable]
@[simp] theorem fjz_comparePosition (linkUp : Bool) (s : State) :
    (comparePosition linkUp s).fjz = s.fjz := by
  unfold comparePosition
  repeat' (first | split | simp)
@[simp] theorem fjz_keepHello_die (p : Nat) (b : BitVec 448) (s : State) :
    (keepHello .tsu p b s).fjz = s.fjz := by simp [keepHello]
@[simp] theorem fjz_linkUp_die (p : Nat) (b : BitVec 448) (s : State) :
    (linkUp .tsu p b s).fjz = s.fjz := by simp [linkUp]
@[simp] theorem fjz_takeHello_die (p : Nat) (b : BitVec 448) (s : State) :
    (takeHello .tsu p b s).fjz = s.fjz := by simp [takeHello]
@[simp] theorem fjz_hearAgain_die (p : Nat) (b : BitVec 448) (s : State) :
    (hearAgain .tsu p b s).fjz = s.fjz := by simp [hearAgain]
@[simp] theorem fjz_askRetry_die (p : Nat) (cw : BitVec 12) (s : State) :
    (askRetry .tsu p cw s).fjz = s.fjz := by simp [askRetry]
@[simp] theorem fjz_resend_die (p : Nat) (cw : BitVec 12) (s : State) :
    (resend .tsu p cw s).fjz = s.fjz := by simp [resend]

/-! ## BoundaryOps -/

@[simp] theorem fjz_dropWaiting_die (s : State) : (dropWaiting .tsu s).fjz = s.fjz := by simp [dropWaiting]
@[simp] theorem fjz_startInit (s : State) : (startInit s).fjz = s.fjz := by simp [startInit]
@[simp] theorem fjz_breakSeal (cause : Nat) (s : State) : (breakSeal cause s).fjz = s.fjz := by simp [breakSeal]
@[simp] theorem fjz_makeKey (s : State) : (makeKey s).fjz = s.fjz := by simp [makeKey]
@[simp] theorem fjz_lcStart_die (target : Nat) (s : State) :
    (lcStart .tsu target s).fjz = s.fjz := by
  unfold lcStart
  repeat' (first | intro _ | simp [*])

/-! ## RegionCmds -/

@[simp] theorem fjz_timeRead (region : Nat) (s : State) :
    (timeRead region s).2.fjz = s.fjz := by
  unfold timeRead
  repeat' (first | split | simp)

/-! ## PlaneCmds -/

@[simp] theorem fjz_setPlaneSqc (pl : Plane) (sqc : Nat) (s : State) :
    (setPlaneSqc pl sqc s).fjz = s.fjz := by simp [setPlaneSqc]
@[simp] theorem fjz_dieBleat (pl : Plane) (b : BitVec 448) (stamp : Stamp) (s : State) :
    (dieBleat pl b stamp s).fjz = s.fjz := by simp [dieBleat]
@[simp] theorem fjz_planeRecord (code detail : U16) (s : State) :
    (planeRecord code detail s).fjz = s.fjz := by simp [planeRecord]
@[simp] theorem fjz_demotePlane (pl : Plane) (s : State) :
    (demotePlane pl s).fjz = s.fjz := by
  unfold demotePlane
  split <;> simp
@[simp] theorem fjz_judgeDrift (d m : Int) (s : State) :
    (judgeDrift d m s).fjz = s.fjz := by
  unfold judgeDrift
  repeat' (first | split | simp)

/-! ## PronkOps -/

@[simp] theorem fjz_countPronkDiscard (s : State) : (countPronkDiscard s).fjz = s.fjz := by simp [countPronkDiscard]
@[simp] theorem fjz_armAck (c : Cell) (cause : Nat) (s : State) : (armAck c cause s).fjz = s.fjz := by simp [armAck]
@[simp] theorem fjz_tapPronk (h phase outcome : Nat) (seq : U32) (fire : HT) (start : U32) (ids : U16 × U16) (count : Nat) (s : State) :
    (tapPronk h phase outcome seq fire start ids count s).fjz = s.fjz := by simp [tapPronk]
@[simp] theorem fjz_tapArmed (h outcome : Nat) (s : State) : (tapArmed h outcome s).fjz = s.fjz := by simp [tapArmed]
@[simp] theorem fjz_armHerd (h : Nat) (seq : U32) (fire : HT) (start : Nat) (ids : U16 × U16) (origin : Id24) (s : State) :
    (armHerd h seq fire start ids origin s).fjz = s.fjz := by simp [armHerd]
@[simp] theorem fjz_refuseArm (h cause : Nat) (c : Cell) (s : State) :
    (refuseArm h cause c s).fjz = s.fjz := by simp [refuseArm]
@[simp] theorem fjz_takeArm (h : Nat) (c : Cell) (s : State) :
    (takeArm h c s).fjz = s.fjz := by
  unfold takeArm
  split <;> simp
@[simp] theorem fjz_actOn (h : Nat) (c : Cell) (s : State) : (actOn h c s).fjz = s.fjz := by simp [actOn]
@[simp] theorem fjz_takeFinal (h : Nat) (c : Cell) (act : State → State) (s : State) (h_act : ∀ u, (act u).fjz = u.fjz) :
    (takeFinal h c act s).fjz = s.fjz := by simp [takeFinal, *]
@[simp] theorem fjz_decideHerd (h : Nat) (s : State) :
    (decideHerd h s).fjz = s.fjz := by
  unfold decideHerd
  repeat' (first | split | simp)
@[simp] theorem fjz_arriveZero (h : Nat) (fire : HT) (seq : U32) (s : State) :
    (arriveZero h fire seq s).fjz = s.fjz := by simp [arriveZero]
@[simp] theorem fjz_fireHerd (h : Nat) (s : State) :
    (fireHerd h s).fjz = s.fjz := by
  unfold fireHerd
  repeat' (first | intro _ | simp [*] | split | rw [forAll_fjz])
@[simp] theorem fjz_takeStep (h : Nat) (seq : U32) (fire : HT) (ids : U16 × U16) (count : Nat) (s : State) :
    (takeStep h seq fire ids count s).fjz = s.fjz := by simp [takeStep]

/-! ## Pronk -/

@[simp] theorem fjz_pronkAtDie (i : Instr) (p phase : Nat) (c : Cell) (none_ : State → State) (act : Nat → State → State) (s : State) (h_none_ : ∀ u, (none_ u).fjz = u.fjz) (h_act : ∀ y0 u, (act y0 u).fjz = u.fjz) :
    (pronkAtDie i p phase c none_ act s).fjz = s.fjz := by
  unfold pronkAtDie
  repeat' (first | intro _ | split | simp [*] | rw [fjz_receive_die])

/-! ## LoadOps -/

@[simp] theorem fjz_fillParts (h : Nat) (s : State) :
    (fillParts h s).fjz = s.fjz := by
  unfold fillParts
  repeat' (first | intro _ | simp [*] | split | rw [forAll_fjz])
@[simp] theorem fjz_setPaths (h : Nat) (f : Nat → BitVec 256 → BitVec 256) (s : State) :
    (setPaths h f s).fjz = s.fjz := by
  unfold setPaths
  repeat' (first | intro _ | simp [*] | split | rw [forAll_fjz])
@[simp] theorem fjz_tapChange (h action : Nat) (s : State) : (tapChange h action s).fjz = s.fjz := by simp [tapChange]
@[simp] theorem fjz_commitLoad (h : Nat) (secure : Bool) (s : State) :
    (commitLoad h secure s).fjz = s.fjz := by
  unfold commitLoad
  split <;> simp
@[simp] theorem fjz_releaseHerd (h : Nat) (s : State) :
    (releaseHerd h s).fjz = s.fjz := by
  unfold releaseHerd
  repeat' (first | intro _ | simp [*] | split | rw [forAll_fjz])

/-! ## Template -/

@[simp] theorem fjz_onTemplate_die (k : Nat) (f : Template → Template) (s : State) :
    (onTemplate .tsu k f s).fjz = s.fjz := by simp [onTemplate]

/-! ## Herd -/

@[simp] theorem fjz_reepoch (h : Nat) (secure : Bool) (s : State) :
    (reepoch h secure s).fjz = s.fjz := by
  unfold reepoch
  split <;> simp
@[simp] theorem fjz_takeAdopt (h : Nat) (v : BitVec 192) (s : State) :
    (takeAdopt h v s).fjz = s.fjz := by simp [takeAdopt]

/-! ## HaltOps -/

@[simp] theorem fjz_countHaltDiscard (s : State) : (countHaltDiscard s).fjz = s.fjz := by simp [countHaltDiscard]
@[simp] theorem fjz_tapHalt (h : Nat) (c : Cell) (s : State) : (tapHalt h c s).fjz = s.fjz := by simp [tapHalt]
@[simp] theorem fjz_lateHalt (h : Nat) (hh : HT) (origin : Id24) (seq : U16) (s : State) :
    (lateHalt h hh origin seq s).fjz = s.fjz := by simp [lateHalt]
@[simp] theorem fjz_applyHalt (h : Nat) (hh : HT) (origin : Id24) (seq : U16) (s : State) :
    (applyHalt h hh origin seq s).fjz = s.fjz := by simp [applyHalt]
@[simp] theorem fjz_takeHalt (c : Cell) (more : Nat → State → State) (s : State) (h_more : ∀ y0 u, (more y0 u).fjz = u.fjz) :
    (takeHalt c more s).fjz = s.fjz := by
  unfold takeHalt
  repeat' (first | split | simp [*])
@[simp] theorem fjz_recordPause (origin : Id24) (h : Nat) (s : State) :
    (recordPause origin h s).fjz = s.fjz := by simp [recordPause]
@[simp] theorem fjz_raiseHaltedNow (h : Nat) (w : NowStop) (s : State) :
    (raiseHaltedNow h w s).fjz = s.fjz := by simp [raiseHaltedNow]
@[simp] theorem fjz_nowReturned (region h : Nat) (abandoned : Bool) (s : State) :
    (nowReturned region h abandoned s).fjz = s.fjz := by simp [nowReturned]
@[simp] theorem fjz_stopNow (c : Cell) (h : Nat) (s : State) :
    (stopNow c h s).fjz = s.fjz := by
  unfold stopNow
  repeat' (first | intro _ | simp [*] | split | rw [forAll_fjz])
@[simp] theorem fjz_takeNow (c : Cell) (s : State) :
    (takeNow c s).fjz = s.fjz := by
  unfold takeNow
  repeat' (first | split | simp)
@[simp] theorem fjz_dieHaltsNow (v : U32) (s : State) :
    (dieHaltsNow v s).fjz = s.fjz := by
  unfold dieHaltsNow
  repeat' (first | split | simp)

/-! ## Steps -/

@[simp] theorem fjz_doneSignal (h step : Nat) (d : Desc) (s : State) :
    (doneSignal h step d s).fjz = s.fjz := by simp [doneSignal]
@[simp] theorem fjz_stretchOver (region h : Nat) (l : Launched) (d : Desc) (rcc : BitVec 48) (s : State) :
    (stretchOver region h l d rcc s).fjz = s.fjz := by simp [stretchOver]
@[simp] theorem fjz_lateStep (d : Desc) (fl : Nat) (s : State) : (lateStep d fl s).fjz = s.fjz := by simp [lateStep]
@[simp] theorem fjz_completeStep (region h : Nat) (l : Launched) (rcc : BitVec 48) (s : State) :
    (completeStep region h l rcc s).fjz = s.fjz := by simp [completeStep]
@[simp] theorem fjz_stepDone (region h : Nat) (l : Launched) (abandoned : Bool) (rcc : BitVec 48) (s : State) :
    (stepDone region h l abandoned rcc s).fjz = s.fjz := by
  unfold stepDone
  repeat' (first | split | simp)

/-! ## Ledger -/

@[simp] theorem fjz_advPending (region entry : Nat) (amount : U8) (s : State) :
    (advPending region entry amount s).fjz = s.fjz := by simp [advPending]

/-! ## Sync -/

@[simp] theorem fjz_signalRecord (code : U16) (halts : Bool) (t : Token) (s : State) :
    (signalRecord code halts t s).fjz = s.fjz := by simp [signalRecord]
@[simp] theorem fjz_signalForeign (t : Token) (s : State) : (signalForeign t s).fjz = s.fjz := by simp [signalForeign]
@[simp] theorem fjz_tapIngress (t : Token) (s : State) : (tapIngress t s).fjz = s.fjz := by simp [tapIngress]
@[simp] theorem fjz_applySignal (t : Token) (s : State) :
    (applySignal t s).fjz = s.fjz := by
  unfold applySignal
  split <;> simp
@[simp] theorem fjz_takeSignal (t : Token) (s : State) : (takeSignal t s).fjz = s.fjz := by simp [takeSignal]
@[simp] theorem fjz_signalCommand (i : Instr) (op : Nat) (t : Token) (e : Ecc) (s : State) :
    (signalCommand i op t e s).fjz = s.fjz := by
  unfold signalCommand
  split <;> simp
@[simp] theorem fjz_placeWatch (slot : Nat) (w : Watch) (s : State) :
    (placeWatch slot w s).fjz = s.fjz := by simp [placeWatch]
@[simp] theorem fjz_takeWatch (region : Nat) (tok : BitVec 208) (s : State) :
    (takeWatch region tok s).fjz = s.fjz := by
  unfold takeWatch
  repeat' (first | split | simp)
@[simp] theorem fjz_timeOutObject (w : Watch) (s : State) : (timeOutObject w s).fjz = s.fjz := by simp [timeOutObject]
@[simp] theorem fjz_timeOutHerd (w : Watch) (s : State) : (timeOutHerd w s).fjz = s.fjz := by simp [timeOutHerd]
@[simp] theorem fjz_notifySlot (i : Nat) (s : State) :
    (notifySlot i s).fjz = s.fjz := by
  unfold notifySlot
  repeat' (first | split | simp)

/-! ## Bank -/

@[simp] theorem fjz_raiseBank (h : Nat) (code : U16) (obj waiter : U32) (s : State) :
    (raiseBank h code obj waiter s).fjz = s.fjz := by simp [raiseBank]

/-! ## TineDie -/

@[simp] theorem fjz_partUncorrectable (n : Nat) (s : State) :
    (partUncorrectable n s).fjz = s.fjz := by
  unfold partUncorrectable
  split <;> simp
@[simp] theorem fjz_countResultDiscard (s : State) : (countResultDiscard s).fjz = s.fjz := by simp [countResultDiscard]
@[simp] theorem fjz_countTagDiscard (s : State) : (countTagDiscard s).fjz = s.fjz := by simp [countTagDiscard]
@[simp] theorem fjz_takeResult (p : Nat) (kind : BitVec 4) (c : Cell) (s : State) :
    (takeResult p kind c s).fjz = s.fjz := by
  unfold takeResult
  repeat' (first | split | simp)
@[simp] theorem fjz_takeMove (p : Nat) (c : Cell) (s : State) :
    (takeMove p c s).fjz = s.fjz := by
  unfold takeMove
  repeat' (first | split | simp)
@[simp] theorem fjz_markAbandoned (n : Nat) (round : U16) (s : State) :
    (markAbandoned n round s).fjz = s.fjz := by simp [markAbandoned]
@[simp] theorem fjz_takeAbandon (p : Nat) (c : Cell) (s : State) :
    (takeAbandon p c s).fjz = s.fjz := by
  unfold takeAbandon
  repeat' (first | split | simp)
@[simp] theorem fjz_failUpTo (h n : Nat) (v : U16) (x0 : Nat) (s : State) :
    (failUpTo h n v x0 s).fjz = s.fjz := by
  induction x0 generalizing s with
  | zero => rfl
  | succ k ih =>
    unfold failUpTo
    repeat' (first | intro _ | simp [*])
@[simp] theorem fjz_deliverIsolated (h n : Nat) (v : U16) (s : State) :
    (deliverIsolated h n v s).fjz = s.fjz := by simp [deliverIsolated]

/-! ## HealthOps -/

@[simp] theorem fjz_copySteward (herd : Id24) (s : State) : (copySteward herd s).fjz = s.fjz := by simp [copySteward]
@[simp] theorem fjz_setQuarantine (herd die : Id24) (on : Bool) (s : State) :
    (setQuarantine herd die on s).fjz = s.fjz := by simp [setQuarantine]

/-! ## Reserve -/

@[simp] theorem fjz_dieOutcome (p : Nat) (c : Cell) (rest : List (Nat × Nat × Nat)) (s : State) :
    (dieOutcome p c rest s).fjz = s.fjz := by simp [dieOutcome]
@[simp] theorem fjz_dieRequest (p : Nat) (c : Cell) (s : State) :
    (dieRequest p c s).fjz = s.fjz := by
  unfold dieRequest
  split <;> simp
@[simp] theorem fjz_dieCommit (p : Nat) (c : Cell) (s : State) :
    (dieCommit p c s).fjz = s.fjz := by
  unfold dieCommit
  split <;> simp
@[simp] theorem fjz_dieRelease (p : Nat) (c : Cell) (s : State) :
    (dieRelease p c s).fjz = s.fjz := by
  unfold dieRelease
  dsimp only
  repeat' (first | intro _ | split | simp [*])
@[simp] theorem fjz_dieQuery (p : Nat) (c : Cell) (s : State) : (dieQuery p c s).fjz = s.fjz := by simp [dieQuery]

/-! ## Health -/

@[simp] theorem fjz_countSymbols (p n : Nat) (s : State) : (countSymbols p n s).fjz = s.fjz := by simp [countSymbols]

/-! ## Halt -/

@[simp] theorem fjz_onErrs_die (f : ErrRing → ErrRing) (s : State) : (onErrs .tsu f s).fjz = s.fjz := by simp [onErrs]

/-! ## Meter -/

@[simp] theorem fjz_walkSlot (s : State) :
    (walkSlot s).fjz = s.fjz := by
  unfold walkSlot
  repeat' (first | intro _ | simp [*])

/-! ## Recorder -/

@[simp] theorem fjz_drainStaging (s : State) : (drainStaging s).fjz = s.fjz := by simp [drainStaging]

/-! ## Replay -/

@[simp] theorem fjz_pinTime (anchor : HT) (s : State) : (pinTime anchor s).fjz = s.fjz := by simp [pinTime]
@[simp] theorem fjz_startReplay (v : BitVec 192) (s : State) : (startReplay v s).fjz = s.fjz := by simp [startReplay]
@[simp] theorem fjz_endReplay (s : State) : (endReplay s).fjz = s.fjz := by simp [endReplay]
@[simp] theorem fjz_replayFire (h : Nat) (c : Bytes) (s : State) : (replayFire h c s).fjz = s.fjz := by simp [replayFire]
@[simp] theorem fjz_replayPronk (h : Nat) (c : Bytes) (s : State) :
    (replayPronk h c s).fjz = s.fjz := by simp [replayPronk]
@[simp] theorem fjz_replayResult (h : Nat) (c : Bytes) (s : State) :
    (replayResult h c s).fjz = s.fjz := by simp [replayResult]
@[simp] theorem fjz_replayChange (h : Nat) (c : Bytes) (s : State) :
    (replayChange h c s).fjz = s.fjz := by simp [replayChange]
@[simp] theorem fjz_replayHalt (h : Nat) (c : Bytes) (s : State) : (replayHalt h c s).fjz = s.fjz := by simp [replayHalt]
@[simp] theorem fjz_replayFault (h : Nat) (c : Bytes) (s : State) :
    (replayFault h c s).fjz = s.fjz := by simp [replayFault]
@[simp] theorem fjz_applyFed (h : Nat) (r : FeedRec) (s : State) :
    (applyFed h r s).fjz = s.fjz := by
  unfold applyFed
  split <;> simp
@[simp] theorem fjz_takeFed (due : Nat → FeedRec → Bool) (s : State) :
    (takeFed due s).fjz = s.fjz := by
  unfold takeFed
  repeat' (first | split | simp)

/-! ## ObjectWrites -/

@[simp] theorem fjz_setBoardCoeff (x : Nat) (s : State) : (setBoardCoeff x s).fjz = s.fjz := by simp [setBoardCoeff]
@[simp] theorem fjz_setP3Limit_die (x : Nat) (s : State) : (setP3Limit .tsu x s).fjz = s.fjz := by simp [setP3Limit]
@[simp] theorem fjz_setLinkEnable (l : Nat) (on : Bool) (s : State) :
    (setLinkEnable l on s).fjz = s.fjz := by simp [setLinkEnable]

/-! ## Tick -/

@[simp] theorem fjz_cellBoundary_die (p : Nat) (s : State) :
    (cellBoundary .tsu p s).fjz = s.fjz := by
  unfold cellBoundary
  repeat' (first | split | simp)
@[simp] theorem fjz_freeSlots (s : State) : (freeSlots s).fjz = s.fjz := by simp [freeSlots]
@[simp] theorem fjz_advanceDie (s : State) : (advanceDie s).fjz = s.fjz := by simp [advanceDie]

end Sys2Proof.Machine
end

