-- ==== Sys2Proof/Laws/DieStays.lean ====
section
/-! SUPPORT. What the chip does leaves the TSU as it was: one lemma per operation. -/

namespace Sys2Proof.Machine

@[simp] theorem ite_tsu (c : Prop) [Decidable c] (a b : State) : (if c then a else b).tsu = if c then a.tsu else b.tsu := by
  split <;> rfl
@[simp] theorem forAll_tsu {α : Type} (xs : List α) (f : α → State → State) (s : State) (h : ∀ a b, (f a b).tsu = b.tsu) :
    (forAll xs f s).tsu = s.tsu := forAll_keeps (fun s : State => s.tsu) f h xs s
@[simp] theorem foldl_tsu {α : Type} (xs : List α) (f : State → α → State) (s : State) (h : ∀ b a, (f b a).tsu = b.tsu) :
    (xs.foldl f s).tsu = s.tsu := by
  induction xs generalizing s with
  | nil => rfl
  | cons x xs ih => exact (ih (f s x)).trans (h s x)

/-! ## Order -/

@[simp] theorem tsu_inTurn (c : Instr) (act : State → State) (s : State) (h_act : ∀ u, (act u).tsu = u.tsu) :
    (inTurn c act s).tsu = s.tsu := by simp [inTurn, *]

/-! ## Records -/

@[simp] theorem tsu_raiseFjz (r : ErrRec) (s : State) : (raiseFjz r s).tsu = s.tsu := by simp [raiseFjz]
@[simp] theorem tsu_raiseOn_chip (r : ErrRec) (s : State) : (raiseOn .fjz r s).tsu = s.tsu := by simp [raiseOn]
@[simp] theorem tsu_State_fresh (s : State) : (State.fresh s).tsu = s.tsu := by simp [State.fresh]

/-! ## Ports -/

@[simp] theorem tsu_sendOn_chip (p : Nat) (bypass : Bool) (c : Cell) (s : State) :
    (sendOn .fjz p bypass c s).tsu = s.tsu := by simp [sendOn]
@[simp] theorem tsu_send_chip (p : Nat) (c : Cell) (s : State) : (send .fjz p c s).tsu = s.tsu := by simp [send]
@[simp] theorem tsu_sendAll_chip (ps : List Nat) (bypass : Bool) (c : Cell) (s : State) :
    (sendAll .fjz ps bypass c s).tsu = s.tsu := by simp [sendAll]
@[simp] theorem tsu_receive_chip (i : Instr) (p : Nat) (types : List Nat) (c : Cell) (act : State → State) (s : State) (h_act : ∀ u, (act u).tsu = u.tsu) :
    (receive i .fjz p types c act s).tsu = s.tsu := by simp [receive, *]
@[simp] theorem tsu_sendUp (bypass : Bool) (c : Cell) (s : State) :
    (sendUp bypass c s).tsu = s.tsu := by
  unfold sendUp
  split <;> simp

/-! ## Agent -/

@[simp] theorem tsu_setSelector_chip (q : Req) (index sub v : Nat) (s : State) :
    (setSelector .fjz q index sub v s).tsu = s.tsu := by simp [setSelector]
@[simp] theorem tsu_sendMessage_chip (p typ addr : Nat) (m : Bytes) (s : State) :
    (sendMessage .fjz p typ addr m s).tsu = s.tsu := by simp [sendMessage]
@[simp] theorem tsu_countTaken_chip (q : Req) (status : Nat) (s : State) :
    (countTaken .fjz q status s).tsu = s.tsu := by simp [countTaken]
@[simp] theorem tsu_park_chip (q : Req) (op : WriteOp) (c : Commit) (s : State) (h1 : ∀ u, (op.apply u).tsu = u.tsu) (h2 : ∀ u, (op.accept u).tsu = u.tsu) (h3 : ∀ u, (op.refuse u).tsu = u.tsu) :
    (park .fjz q op c s).tsu = s.tsu := by
  unfold park
  split <;> simp
@[simp] theorem tsu_logSealed_chip (access : Access) (st index sub : Nat) (s : State) :
    (logSealed .fjz access st index sub s).tsu = s.tsu := by simp [logSealed]
@[simp] theorem tsu_tunnelOn (p : Nat) (q : Req) (index sub : Nat) (v : Bytes) (s : State) :
    (tunnelOn p q index sub v s).tsu = s.tsu := by simp [tunnelOn]
@[simp] theorem tsu_countFragments_chip (p n : Nat) (s : State) :
    (countFragments .fjz p n s).tsu = s.tsu := by simp [countFragments]

/-! ## RefOps -/

@[simp] theorem tsu_disqualify (c : Nat) (s : State) : (disqualify c s).tsu = s.tsu := by simp [disqualify]
@[simp] theorem tsu_loseCand (c : Nat) (s : State) : (loseCand c s).tsu = s.tsu := by simp [loseCand]
@[simp] theorem tsu_dropCand (c : Nat) (s : State) : (dropCand c s).tsu = s.tsu := by simp [dropCand]
@[simp] theorem tsu_actReceived (c : Nat) (s : State) : (actReceived c s).tsu = s.tsu := by simp [actReceived]
@[simp] theorem tsu_setReceived (c : Nat) (sqc : Nat) (s : State) :
    (setReceived c sqc s).tsu = s.tsu := by simp [setReceived]
@[simp] theorem tsu_qualifyState (c : Nat) (s : State) :
    (qualifyState c s).tsu = s.tsu := by
  unfold qualifyState
  repeat' (first | split | simp)
@[simp] theorem tsu_qualify (c : Nat) (s : State) : (qualify c s).tsu = s.tsu := by simp [qualify]
@[simp] theorem tsu_measure (m : CandMeas) (s : State) : (measure m s).tsu = s.tsu := by simp [measure]

/-! ## ChipOps -/

@[simp] theorem tsu_onRound (n i : Nat) (f : Round → Round) (s : State) :
    (onRound n i f s).tsu = s.tsu := by simp [onRound]
@[simp] theorem tsu_spreadResult (n : Nat) (bypass : Bool) (c : Cell) (s : State) :
    (spreadResult n bypass c s).tsu = s.tsu := by simp [spreadResult]
@[simp] theorem tsu_sendOutcome (n : Nat) (bypass : Bool) (c : Cell) (s : State) :
    (sendOutcome n bypass c s).tsu = s.tsu := by
  unfold sendOutcome
  repeat' (first | split | simp)
@[simp] theorem tsu_topOutcome (n i : Nat) (c : Cell) (s : State) :
    (topOutcome n i c s).tsu = s.tsu := by simp [topOutcome]
@[simp] theorem tsu_sendTineUp (c : Cell) (s : State) :
    (sendTineUp c s).tsu = s.tsu := by
  unfold sendTineUp
  split <;> simp
@[simp] theorem tsu_markSent (n i : Nat) (s : State) : (markSent n i s).tsu = s.tsu := by simp [markSent]
@[simp] theorem tsu_noteFailed (n : Nat) (round : U16) (s : State) :
    (noteFailed n round s).tsu = s.tsu := by simp [noteFailed]
@[simp] theorem tsu_failCtx (n i : Nat) (cause : BitVec 3) (origin : Id24) (deadline : U64) (s : State) :
    (failCtx n i cause origin deadline s).tsu = s.tsu := by simp [failCtx]
@[simp] theorem tsu_raiseCtx (n : Nat) (code : U16) (waiter : U32) (round : U16) (detail : BitVec 3) (s : State) :
    (raiseCtx n code waiter round detail s).tsu = s.tsu := by simp [raiseCtx]
@[simp] theorem tsu_roundUncorrectable (n i : Nat) (deadline : U64) (s : State) :
    (roundUncorrectable n i deadline s).tsu = s.tsu := by simp [roundUncorrectable]
@[simp] theorem tsu_completeRound (n i : Nat) (s : State) : (completeRound n i s).tsu = s.tsu := by simp [completeRound]
@[simp] theorem tsu_tagged (n : Nat) (c : Cell) (f : State → State) (s : State) (h_f : ∀ u, (f u).tsu = u.tsu) :
    (tagged n c f s).tsu = s.tsu := by
  unfold tagged
  repeat' (first | split | simp [*])
@[simp] theorem tsu_countStale (s : State) : (countStale s).tsu = s.tsu := by simp [countStale]
@[simp] theorem tsu_countTwinLate (s : State) : (countTwinLate s).tsu = s.tsu := by simp [countTwinLate]
@[simp] theorem tsu_countDup (s : State) : (countDup s).tsu = s.tsu := by simp [countDup]
@[simp] theorem tsu_answerStale (n p : Nat) (round : U16) (s : State) :
    (answerStale n p round s).tsu = s.tsu := by
  unfold answerStale
  repeat' (first | split | simp)
@[simp] theorem tsu_intoRound (p : Nat) (c : Cell) (f : Nat → Nat → State → State) (s : State) (h_f : ∀ y0 y1 u, (f y0 y1 u).tsu = u.tsu) :
    (intoRound p c f s).tsu = s.tsu := by
  unfold intoRound
  repeat' (first | split | simp [*])
@[simp] theorem tsu_sendAbandon (n loser : Nat) (round : U16) (winner : U32) (s : State) :
    (sendAbandon n loser round winner s).tsu = s.tsu := by simp [sendAbandon]
@[simp] theorem tsu_grantTwin (n i slot p : Nat) (round : U16) (s : State) :
    (grantTwin n i slot p round s).tsu = s.tsu := by
  unfold grantTwin
  split <;> simp
@[simp] theorem tsu_reportMismatch (die : U32) (s : State) :
    (reportMismatch die s).tsu = s.tsu := by simp [reportMismatch]
@[simp] theorem tsu_compareTwin (n p : Nat) (win : Cell) (c : Cell) (s : State) :
    (compareTwin n p win c s).tsu = s.tsu := by
  unfold compareTwin
  repeat' (first | split | simp)
@[simp] theorem tsu_storeArrival (n p slot i : Nat) (c : Cell) (bad : Bool) (s : State) :
    (storeArrival n p slot i c bad s).tsu = s.tsu := by
  unfold storeArrival
  repeat' (first | split | simp)
@[simp] theorem tsu_storeFailed (n p slot i : Nat) (c : Cell) (s : State) :
    (storeFailed n p slot i c s).tsu = s.tsu := by
  unfold storeFailed
  repeat' (first | split | simp)
@[simp] theorem tsu_storeResync (n i : Nat) (c : Cell) (s : State) :
    (storeResync n i c s).tsu = s.tsu := by simp [storeResync]
@[simp] theorem tsu_forwardResult (c : Cell) (s : State) : (forwardResult c s).tsu = s.tsu := by simp [forwardResult]
@[simp] theorem tsu_deactivate (herd : Id24) (s : State) :
    (deactivate herd s).tsu = s.tsu := by
  unfold deactivate
  repeat' (first | intro _ | simp [*] | split | rw [forAll_tsu])
@[simp] theorem tsu_moveDown (herd : Id24) (n : Nat) (s : State) : (moveDown herd n s).tsu = s.tsu := by simp [moveDown]
@[simp] theorem tsu_moveUp (herd : Id24) (n : Nat) (s : State) : (moveUp herd n s).tsu = s.tsu := by simp [moveUp]
@[simp] theorem tsu_originateMove (herd : Id24) (p : Nat) (down : Bool) (s : State) :
    (originateMove herd p down s).tsu = s.tsu := by
  unfold originateMove
  split <;> simp
@[simp] theorem tsu_chipMoves (p : Nat) (s : State) : (chipMoves p s).tsu = s.tsu := by simp [chipMoves]
@[simp] theorem tsu_takeMoveUp (c : Cell) (s : State) :
    (takeMoveUp c s).tsu = s.tsu := by
  unfold takeMoveUp
  repeat' (first | split | simp)
@[simp] theorem tsu_takeMoveDown (c : Cell) (s : State) : (takeMoveDown c s).tsu = s.tsu := by simp [takeMoveDown]
@[simp] theorem tsu_adoptStandby (s : State) : (adoptStandby s).tsu = s.tsu := by simp [adoptStandby]
@[simp] theorem tsu_withAdoption (f : State → State) (s : State) (h_f : ∀ u, (f u).tsu = u.tsu) :
    (withAdoption f s).tsu = s.tsu := by simp [withAdoption, *]

/-! ## LinkOps -/

@[simp] theorem tsu_startTrain_chip (p : Nat) (s : State) : (startTrain .fjz p s).tsu = s.tsu := by simp [startTrain]
@[simp] theorem tsu_afterDown_chip (p : Nat) (s : State) :
    (afterDown .fjz p s).tsu = s.tsu := by
  unfold afterDown
  repeat' (first | intro _ | simp [*] | split)
@[simp] theorem tsu_takeDown_chip (p : Nat) (st : PortState) (s : State) :
    (takeDown .fjz p st s).tsu = s.tsu := by simp [takeDown]
@[simp] theorem tsu_recordDown_chip (p : Nat) (cause : U8) (s : State) :
    (recordDown .fjz p cause s).tsu = s.tsu := by simp [recordDown]
@[simp] theorem tsu_linkDown_chip (p : Nat) (cause : U8) (s : State) :
    (linkDown .fjz p cause s).tsu = s.tsu := by simp [linkDown]
@[simp] theorem tsu_actEnable_chip (p : Nat) (s : State) : (actEnable .fjz p s).tsu = s.tsu := by simp [actEnable]
@[simp] theorem tsu_setEnable_chip (p : Nat) (on : Bool) (s : State) :
    (setEnable .fjz p on s).tsu = s.tsu := by simp [setEnable]
@[simp] theorem tsu_keepHello_chip (p : Nat) (b : BitVec 448) (s : State) :
    (keepHello .fjz p b s).tsu = s.tsu := by simp [keepHello]
@[simp] theorem tsu_linkUp_chip (p : Nat) (b : BitVec 448) (s : State) :
    (linkUp .fjz p b s).tsu = s.tsu := by simp [linkUp]
@[simp] theorem tsu_takeHello_chip (p : Nat) (b : BitVec 448) (s : State) :
    (takeHello .fjz p b s).tsu = s.tsu := by simp [takeHello]
@[simp] theorem tsu_hearAgain_chip (p : Nat) (b : BitVec 448) (s : State) :
    (hearAgain .fjz p b s).tsu = s.tsu := by simp [hearAgain]
@[simp] theorem tsu_askRetry_chip (p : Nat) (cw : BitVec 12) (s : State) :
    (askRetry .fjz p cw s).tsu = s.tsu := by simp [askRetry]
@[simp] theorem tsu_resend_chip (p : Nat) (cw : BitVec 12) (s : State) :
    (resend .fjz p cw s).tsu = s.tsu := by simp [resend]

/-! ## BoundaryOps -/

@[simp] theorem tsu_dropWaiting_chip (s : State) : (dropWaiting .fjz s).tsu = s.tsu := by simp [dropWaiting]
@[simp] theorem tsu_lcStart_chip (target : Nat) (s : State) : (lcStart .fjz target s).tsu = s.tsu := by simp [lcStart]

/-! ## Port -/

@[simp] theorem tsu_chipExchange (p : Nat) (theta : Int) (s : State) :
    (chipExchange p theta s).tsu = s.tsu := by simp [chipExchange]

/-! ## Refs -/

@[simp] theorem tsu_ppsSecond (c : Nat) (s : State) :
    (ppsSecond c s).tsu = s.tsu := by
  unfold ppsSecond
  repeat' (first | split | simp)
@[simp] theorem tsu_countChipSymbols (symbols : List (Nat × Nat)) (s : State) :
    (countChipSymbols symbols s).tsu = s.tsu := by
  unfold countChipSymbols
  repeat' (first | intro _ | simp [*] | split | rw [forAll_tsu])
@[simp] theorem tsu_followBest (e : Nat) (s : State) :
    (followBest e s).tsu = s.tsu := by
  unfold followBest
  split <;> simp

/-! ## PlaneCmds -/

@[simp] theorem tsu_parentBleat (p : Nat) (b : BitVec 448) (s : State) :
    (parentBleat p b s).tsu = s.tsu := by
  unfold parentBleat
  split <;> simp

/-! ## PronkOps -/

@[simp] theorem tsu_pronkDown (bypass : Bool) (c : Cell) (s : State) :
    (pronkDown bypass c s).tsu = s.tsu := by simp [pronkDown]
@[simp] theorem tsu_pronkCounts (herd : Id24) (s : State) : (pronkCounts herd s).tsu = s.tsu := by simp [pronkCounts]

/-! ## Template -/

@[simp] theorem tsu_onTemplate_chip (k : Nat) (f : Template → Template) (s : State) :
    (onTemplate .fjz k f s).tsu = s.tsu := by simp [onTemplate]

/-! ## Herd -/

@[simp] theorem tsu_chipHalt (ps : List Nat) (c : Cell) (s : State) : (chipHalt ps c s).tsu = s.tsu := by simp [chipHalt]
@[simp] theorem tsu_takePause (v : BitVec 160) (s : State) : (takePause v s).tsu = s.tsu := by simp [takePause]

/-! ## Lane -/

@[simp] theorem tsu_bypassOn (ps : List Nat) (c : Cell) (s : State) : (bypassOn ps c s).tsu = s.tsu := by simp [bypassOn]

/-! ## HaltOps -/

@[simp] theorem tsu_haltDownwards (turned : Bool) (c : Cell) (s : State) :
    (haltDownwards turned c s).tsu = s.tsu := by simp [haltDownwards]
@[simp] theorem tsu_haltUpwards (c : Cell) (s : State) : (haltUpwards c s).tsu = s.tsu := by simp [haltUpwards]
@[simp] theorem tsu_chipTakesHalt (c : Cell) (s : State) : (chipTakesHalt c s).tsu = s.tsu := by simp [chipTakesHalt]

/-! ## HealthOps -/

@[simp] theorem tsu_copySteward (herd : Id24) (s : State) : (copySteward herd s).tsu = s.tsu := by simp [copySteward]
@[simp] theorem tsu_raiseSteward (code : U16) (herd die : Id24) (round : Nat) (s : State) :
    (raiseSteward code herd die round s).tsu = s.tsu := by simp [raiseSteward]
@[simp] theorem tsu_decideExpel (herd die : Id24) (cause : Nat) (health : U16) (s : State) :
    (decideExpel herd die cause health s).tsu = s.tsu := by simp [decideExpel]
@[simp] theorem tsu_failDie (herd die : Id24) (cond : Nat) (s : State) :
    (failDie herd die cond s).tsu = s.tsu := by simp [failDie]
@[simp] theorem tsu_setQuarantine (herd die : Id24) (on : Bool) (s : State) :
    (setQuarantine herd die on s).tsu = s.tsu := by simp [setQuarantine]
@[simp] theorem tsu_suspectDie (herd die : Id24) (health : U16) (s : State) :
    (suspectDie herd die health s).tsu = s.tsu := by
  unfold suspectDie
  repeat' (first | split | simp)
@[simp] theorem tsu_clearDie (herd die : Id24) (health : U16) (s : State) :
    (clearDie herd die health s).tsu = s.tsu := by simp [clearDie]
@[simp] theorem tsu_convertDie (herd : Id24) (s : State) :
    (convertDie herd s).tsu = s.tsu := by
  unfold convertDie
  repeat' (first | split | simp)
@[simp] theorem tsu_timeoutNames (n : Nat) (die : U32) (s : State) :
    (timeoutNames n die s).tsu = s.tsu := by simp [timeoutNames]
@[simp] theorem tsu_samplePort (p : Nat) (s : State) :
    (samplePort p s).tsu = s.tsu := by
  unfold samplePort
  repeat' (first | intro _ | simp [*] | split | rw [forAll_tsu])

/-! ## Reserve -/

@[simp] theorem tsu_onResv (herd : Id24) (template : U16) (f : Resv → Resv) (s : State) :
    (onResv herd template f s).tsu = s.tsu := by simp [onResv]
@[simp] theorem tsu_onPathRate (ports : List Nat) (f : U32 → U32) (s : State) :
    (onPathRate ports f s).tsu = s.tsu := by
  unfold onPathRate
  repeat' (first | intro _ | simp [*] | split | rw [forAll_tsu])
@[simp] theorem tsu_holdNeeds (herd : Id24) (template : U16) (span members p1 : Nat) (home : Bool) (s : State) :
    (holdNeeds herd template span members p1 home s).tsu = s.tsu := by simp [holdNeeds]
@[simp] theorem tsu_freeResv (herd : Id24) (template : U16) (s : State) :
    (freeResv herd template s).tsu = s.tsu := by
  unfold freeResv
  repeat' (first | intro _ | simp [*] | split | rw [forAll_tsu])
@[simp] theorem tsu_reserveDown (template : U16) (c : Cell) (s : State) :
    (reserveDown template c s).tsu = s.tsu := by simp [reserveDown]
@[simp] theorem tsu_outcomeUp (r : Resv) (rest : List (Nat × Nat × Nat)) (s : State) :
    (outcomeUp r rest s).tsu = s.tsu := by simp [outcomeUp]
@[simp] theorem tsu_numbersUp (r : Resv) (s : State) : (numbersUp r s).tsu = s.tsu := by simp [numbersUp]
@[simp] theorem tsu_forgetOmitted (herd : Id24) (template : U16) (draw : Nat) (s : State) :
    (forgetOmitted herd template draw s).tsu = s.tsu := by simp [forgetOmitted]
@[simp] theorem tsu_commitResv (herd : Id24) (template : U16) (home : Bool) (s : State) :
    (commitResv herd template home s).tsu = s.tsu := by
  unfold commitResv
  repeat' (first | intro _ | simp [*] | split | rw [forAll_tsu])
@[simp] theorem tsu_releasePlane (r : Resv) (s : State) : (releasePlane r s).tsu = s.tsu := by simp [releasePlane]
@[simp] theorem tsu_chipCommit (c : Cell) (s : State) :
    (chipCommit c s).tsu = s.tsu := by
  unfold chipCommit
  split <;> simp
@[simp] theorem tsu_chipRelease (c : Cell) (s : State) : (chipRelease c s).tsu = s.tsu := by simp [chipRelease]

/-! ## Swap -/

@[simp] theorem tsu_ctrlDown (c : Cell) (s : State) : (ctrlDown c s).tsu = s.tsu := by simp [ctrlDown]
@[simp] theorem tsu_takeCtrl_chip (p action : Nat) (op : Nat → WriteOp) (c : Cell) (s : State) (h1 : ∀ h u, ((op h).apply u).tsu = u.tsu) (h2 : ∀ h u, ((op h).accept u).tsu = u.tsu) (h3 : ∀ h u, ((op h).refuse u).tsu = u.tsu) :
    (takeCtrl .fjz p action op c s).tsu = s.tsu := by simp [takeCtrl]

/-! ## Halt -/

@[simp] theorem tsu_onErrs_chip (f : ErrRing → ErrRing) (s : State) : (onErrs .fjz f s).tsu = s.tsu := by simp [onErrs]

/-! ## Recorder -/

@[simp] theorem tsu_recordLeft (c : Cell) (s : State) : (recordLeft c s).tsu = s.tsu := by simp [recordLeft]

/-! ## ObjectWrites -/

@[simp] theorem tsu_setP3Limit_chip (x : Nat) (s : State) : (setP3Limit .fjz x s).tsu = s.tsu := by simp [setP3Limit]
@[simp] theorem tsu_setOutput (o : Nat) (f : RefOut → RefOut) (s : State) :
    (setOutput o f s).tsu = s.tsu := by simp [setOutput]

/-! ## Tick -/

@[simp] theorem tsu_cellBoundary_chip (p : Nat) (s : State) :
    (cellBoundary .fjz p s).tsu = s.tsu := by
  unfold cellBoundary
  repeat' (first | split | simp)
@[simp] theorem tsu_selectRefs (s : State) : (selectRefs s).tsu = s.tsu := tsu_withAdoption _ s fun _ => rfl
@[simp] theorem tsu_advanceChip (s : State) : (advanceChip s).tsu = s.tsu := by
  have pick (u : State) : (withAdoption (onFjz fun x => Fjz.select { x with selectNext := false }) u).tsu = u.tsu :=
    tsu_withAdoption _ u fun _ => rfl
  unfold advanceChip
  split
  · rfl
  · dsimp only
    split <;> split <;> simp [pick]

end Sys2Proof.Machine
end

