-- ==== Sys2Proof/Laws/Still.lean ====
section
/-! SUPPORT. What almost no operation touches: the queue, the free-running counter and the fuses. One lemma per shared operation says that it
keeps them all; the few that do not (resets, the safe state, a fuse being blown) have none here. -/

namespace Sys2Proof.Machine

/-- The queue; of the TSU the counter, the fuses of its life cycle and of its meter; of the chip the fuses of its life cycle. -/
structure Still where
  pending : List Instr
  tsu     : U64 × BitVec 3 × Nat × Nat
  fjz     : BitVec 3

def stillAgent (a : Agent) : BitVec 3 := a.lcFuses
def stillMeter (m : Meter) : Nat × Nat := (m.sealFuses, m.breakFuses)
def stillTsu (t : Tsu) : U64 × BitVec 3 × Nat × Nat := (t.tc.frc, stillAgent t.agent, stillMeter t.meter)
def stillFjz (x : Fjz) : BitVec 3 := stillAgent x.agent
def still (s : State) : Still :=
  ⟨s.pending, stillTsu s.tsu, stillFjz s.fjz⟩

theorem still_of {s t : State} (hp : t.pending = s.pending) (ht : stillTsu t.tsu = stillTsu s.tsu) (hf : stillFjz t.fjz = stillFjz s.fjz) :
    still t = still s := by simp [still, hp, ht, hf]

/-! ## Structures -/

@[simp] theorem stillTsu_mk (phase : Phase) (asked : List (Id24 × U16 × Plane × Nat)) (pwrGood : Bool) (postPassed : Bool) (failedBlock : U8)
      (intStatus : U32) (intEnable : U32) (postRecord : ErrRec) (winReq : Bytes) (winRsp : Option Rsp) (winBusy : Bool) (winDone :
      Bool) (secureGo : Bool) (ppsDelay : U32) (bistMask : U32) (bistSel : U32) (bistSave : U32) (bistState : U8) (bistBlock : U8)
      (bistUs : U32) (postUs : U32) (bistPasses : U32) (agent : Agent) (position : U16) (mismatch : Bool) (tc : TimeCore) (ports : Tbl
      Port) (p3Limit : U8) (p3Dropped : U64) (regions : Tbl Region) (marginThr : U8) (marginBias : U8) (dieMargin : U8)
      (dieMarginRegion : U8) (marginEvents : U32) (latPeriod : U32) (links : Tbl Link) (txts : List (BitVec 128)) (txtsOverflow : Bool)
      (txtsDropped : U32) (steps : Tbl (BitVec 512)) (written : List Nat) (pronkDiscards : U32) (stretchOver : U32) (herds : Tbl Herd)
      (ledger : Tbl (BitVec 256)) (gatesAt : Option Nat) (ledgerOps : List LedgerOp) (badLedger : List Nat) (bounds : List Boundary)
      (ended : List (Nat × Bool)) (counters : Tbl CounterSt) (events : Tbl EventSt) (clearing : List Nat) (watches : Tbl Watch)
      (signalIgnored : U32) (lateDiscards : U32) (notifyLag : U32) (parts : Tbl Part) (templates : Tbl Template) (paths : List
      PathHold) (resultDiscards : U32) (tagDiscards : U32) (contribDiscards : U32) (fawn : Bool) (health : U16) (healthPolicy : BitVec
      192) (penalties : BitVec 80) (accC : U32) (accM : U32) (accL : U32) (accX : U32) (secC : Nat) (secL : Nat) (secX : Nat) (lastSym
      : Nat) (lastCw : Nat) (lastMargin : Nat) (healthAt : Nat) (lateArrivals : U32) (sramCorrections : U32) (haltNow : U32) (haltSeq :
      U16) (haltsSent : U32) (haltDiscards : U32) (haltLates : U32) (haltsTaken : List (Id24 × U16)) (errs : ErrRing) (meter : Meter)
      (walkAt : Nat) (tenantAt : Nat) (recordEnable : Bool) (recordIngress : BitVec 128) (tapSeq : U32) (tapDropped : U32) (tapCells :
      U64) (staging : List Cell) (replaySetup : BitVec 192) (feed : List FeedRec) (feedEnd : Bool) (replayBnum : U64) (firstDiff :
      BitVec 128) (replayMismatches : U32) (stallMs : U32) (faultMatch : U8) (replayAt : Nat) (windowFault : Option (U16 × U32 × U32 ×
      Nat)) (ownFault : Option (U16 × U32 × U32 × Nat)) (timeValues : List (Id24 × U8 × U8 × HT)) (recArrivals : List (U16 × U16 × U8 ×
      U8 × U64)) (recResults : List Bytes) (ownArrivals : List (U16 × U16 × U8 × U8 × U64)) (ownResults : List Bytes) (replayStalled :
      Bool) (forcedStretch : BitVec 3072) :
    stillTsu ⟨phase, asked, pwrGood, postPassed, failedBlock, intStatus, intEnable, postRecord, winReq, winRsp, winBusy, winDone,
      secureGo, ppsDelay, bistMask, bistSel, bistSave, bistState, bistBlock, bistUs, postUs, bistPasses, agent, position, mismatch, tc,
      ports, p3Limit, p3Dropped, regions, marginThr, marginBias, dieMargin, dieMarginRegion, marginEvents, latPeriod, links, txts,
      txtsOverflow, txtsDropped, steps, written, pronkDiscards, stretchOver, herds, ledger, gatesAt, ledgerOps, badLedger, bounds,
      ended, counters, events, clearing, watches, signalIgnored, lateDiscards, notifyLag, parts, templates, paths, resultDiscards,
      tagDiscards, contribDiscards, fawn, health, healthPolicy, penalties, accC, accM, accL, accX, secC, secL, secX, lastSym, lastCw,
      lastMargin, healthAt, lateArrivals, sramCorrections, haltNow, haltSeq, haltsSent, haltDiscards, haltLates, haltsTaken, errs,
      meter, walkAt, tenantAt, recordEnable, recordIngress, tapSeq, tapDropped, tapCells, staging, replaySetup, feed, feedEnd,
      replayBnum, firstDiff, replayMismatches, stallMs, faultMatch, replayAt, windowFault, ownFault, timeValues, recArrivals,
      recResults, ownArrivals, ownResults, replayStalled, forcedStretch⟩ = (tc.frc, stillAgent agent, stillMeter meter) := (rfl)
@[simp] theorem stillFjz_mk (rstN : Bool) (selfTest : SelfTest) (firmware : Bool) (mgmtOk : Bool) (fwVersion : U32) (postUs : U32) (role : U8)
      (plane : U8) (agent : Agent) (frc : U64) (htOffset : HT) (established : Bool) (ports : Tbl Port) (p3Limit : U8) (p3Dropped : U64)
      (cands : Tbl Cand) (lock : LockState) (selTime : Option Nat) (selFreq : Option Nat) (outSqc : U8) (switchSeq : U16) (switch :
      Option Switch) (forceRef : U8) (realigning : Bool) (realignFrac : Nat) (realignPpb : U32) (parentPpb : U32) (holdWtr : U32)
      (holdSqcLimit : U32) (holdFreeLimit : U32) (freeServe : Bool) (freeStart : HT) (selectNext : Bool) (fcw : Int) (acqRun : Nat)
      (ocxo : BitVec 320) (ocxoTemp : I64) (holdBound : U64) (ocxoAge : I64) (ocxoAgeValid : Bool) (ocxoAgeUnc : U32) (ocxoUF : U32)
      (ocxoUP : U32) (holdTemp : I64) (temps : List Int) (holdEntry : Nat) (tempSum : Nat) (holdB0 : Nat) (sqcAtHold : U8) (freqCorr :
      Int) (lockSince : Option Nat) (srcId : U64) (srcSeq : U16) (srcType : BitVec 4) (phaseErrs : List Int) (outs : Tbl RefOut) (eths
      : Tbl Eth) (commitLead : U32) (pronks : Tbl PronkCtr) (pronkHerd : Option Id24) (ctxs : Tbl TineCtx) (templates : Tbl Template)
      (staleDiscards : U32) (dupDiscards : U32) (tagDiscards : U32) (twinLate : U32) (twinMismatches : U32) (nonmember : U32) (resvs :
      List Resv) (resvStatus : BitVec 128) (resvTimeout : U32) (resvRun : Option (Id24 × U16)) (heldWrites : List PendingWrite)
      (haltNow : U32) (haltSeq : U16) (haltsSent : U32) (haltsMerged : U32) (haltDiscards : U32) (forwarded : List (Id24 × Bool × HT ×
      Nat)) (errs : ErrRing) (healthWarn : U16) (healthSuspect : U16) (suspectConfirm : U8) (clearS : U16) (failConfirm : U32)
      (sampledAt : Option Nat) (stewards : Tbl Steward) (recState : WindowState) (postTrigger : U32) (freezeCodes : BitVec 2816)
      (freezeHt : HT) (freezeTrigger : U8) (triggersExtra : U32) (freezeAt : Nat) (freezeBy : U32) (freezeHerd : Id24) (window : List
      (BitVec 512)) (windowHt : List HT) (events : List (BitVec 512)) (discardedFrozen : U64) (ownSeq : U32) (zdpEnable : U32) (zdpPort
      : U16) (ipv4 : BitVec 40) (ipv6 : BitVec 136) (tunnelTimeout : U32) :
    stillFjz ⟨rstN, selfTest, firmware, mgmtOk, fwVersion, postUs, role, plane, agent, frc, htOffset, established, ports, p3Limit,
      p3Dropped, cands, lock, selTime, selFreq, outSqc, switchSeq, switch, forceRef, realigning, realignFrac, realignPpb, parentPpb,
      holdWtr, holdSqcLimit, holdFreeLimit, freeServe, freeStart, selectNext, fcw, acqRun, ocxo, ocxoTemp, holdBound, ocxoAge,
      ocxoAgeValid, ocxoAgeUnc, ocxoUF, ocxoUP, holdTemp, temps, holdEntry, tempSum, holdB0, sqcAtHold, freqCorr, lockSince, srcId,
      srcSeq, srcType, phaseErrs, outs, eths, commitLead, pronks, pronkHerd, ctxs, templates, staleDiscards, dupDiscards, tagDiscards,
      twinLate, twinMismatches, nonmember, resvs, resvStatus, resvTimeout, resvRun, heldWrites, haltNow, haltSeq, haltsSent,
      haltsMerged, haltDiscards, forwarded, errs, healthWarn, healthSuspect, suspectConfirm, clearS, failConfirm, sampledAt, stewards,
      recState, postTrigger, freezeCodes, freezeHt, freezeTrigger, triggersExtra, freezeAt, freezeBy, freezeHerd, window, windowHt,
      events, discardedFrozen, ownSeq, zdpEnable, zdpPort, ipv4, ipv6, tunnelTimeout⟩ = stillAgent agent := (rfl)
@[simp] theorem stillMeter_mk (sealFuses : Nat) (breakFuses : Nat) (otp : Tbl (BitVec 64)) (params : BitVec 64) (key : Option (BitVec 256))
      (cert : Option Bytes) (slotsA : Tbl (BitVec 256)) (slotsB : Tbl (BitVec 256)) (tenantsA : Tbl (BitVec 256)) (tenantsB : Tbl
      (BitVec 256)) (dieA : DieCounters) (dieB : DieCounters) (lastPart : Tbl (Nat × Nat)) (finals : Tbl (Option (BitVec 768))) (ring :
      List MeterRec) (recLost : U32) (lostBefore : Bool) (seqNext : U64) (bootHt : Option HT) (tamper : List (BitVec 128)) (totals :
      Tbl U32) (heldTamper : List (BitVec 128)) (replayLogged : Bool) (degradedLogged : Bool) (walk : Nat) :
    stillMeter ⟨sealFuses, breakFuses, otp, params, key, cert, slotsA, slotsB, tenantsA, tenantsB, dieA, dieB, lastPart, finals, ring,
      recLost, lostBefore, seqNext, bootHt, tamper, totals, heldTamper, replayLogged, degradedLogged, walk⟩ = (sealFuses, breakFuses)
      := (rfl)
@[simp] theorem stillAgent_mk (deviceId : Id24) (serial : U64) (lcFuses : BitVec 3) (lcPending : Option (Fin 3)) (secKey : BitVec 256)
      (secKeyValid : Bool) (bootId : Id24) (secLast : U64) (accepted : U64) (duplicates : U32) (authFails : U32) (tunnelDiscards : U32)
      (held : List Rsp) (selectors : Tbl Nat) (worldSub : U32) (worldHerd : BitVec 64) (worldRegions : Tbl (BitVec 64)) (pending : List
      PendingWrite) (heldLedger : List HeldWrite) :
    stillAgent ⟨deviceId, serial, lcFuses, lcPending, secKey, secKeyValid, bootId, secLast, accepted, duplicates, authFails,
      tunnelDiscards, held, selectors, worldSub, worldHerd, worldRegions, pending, heldLedger⟩ = lcFuses := (rfl)
@[simp] theorem still_mk (tsu : Tsu) (fjz : Fjz) (pending : List Instr) (later : List Instr) (out : List Out) (staged : List (ErrRec × Bytes))
      (free : Nat) :
    still ⟨tsu, fjz, pending, later, out, staged, free⟩ = ⟨pending, stillTsu tsu, stillFjz fjz⟩ := (rfl)
@[simp] theorem stillTsu_fold (t : Tsu) : (t.tc.frc, stillAgent t.agent, stillMeter t.meter) = stillTsu t := (rfl)
@[simp] theorem stillFjz_fold (x : Fjz) : stillAgent x.agent = stillFjz x := (rfl)
@[simp] theorem stillMeter_fold (m : Meter) : (m.sealFuses, m.breakFuses) = stillMeter m := (rfl)
@[simp] theorem stillAgent_fold (a : Agent) : a.lcFuses = stillAgent a := (rfl)
@[simp] theorem still_fold (s : State) : (⟨s.pending, stillTsu s.tsu, stillFjz s.fjz⟩ : Still) = still s := (rfl)

/-! ## Updates -/

@[simp] theorem still_ite (c : Prop) [Decidable c] (a b : State) : still (if c then a else b) = if c then still a else still b :=
  apply_ite still c a b
@[simp] theorem stillTsu_ite (c : Prop) [Decidable c] (a b : Tsu) : stillTsu (if c then a else b) = if c then stillTsu a else stillTsu b :=
  apply_ite stillTsu c a b
@[simp] theorem stillFjz_ite (c : Prop) [Decidable c] (a b : Fjz) : stillFjz (if c then a else b) = if c then stillFjz a else stillFjz b :=
  apply_ite stillFjz c a b
@[simp] theorem stillMeter_ite (c : Prop) [Decidable c] (a b : Meter) : stillMeter (if c then a else b) = if c then stillMeter a else stillMeter b :=
  apply_ite stillMeter c a b
@[simp] theorem stillAgent_ite (c : Prop) [Decidable c] (a b : Agent) : stillAgent (if c then a else b) = if c then stillAgent a else stillAgent b :=
  apply_ite stillAgent c a b

@[simp] theorem still_onTsu (f : Tsu → Tsu) (s : State) (h : ∀ t, stillTsu (f t) = stillTsu t) : still (onTsu f s) = still s :=
  still_of rfl (h _) rfl
@[simp] theorem still_onFjz (f : Fjz → Fjz) (s : State) (h : ∀ x, stillFjz (f x) = stillFjz x) : still (onFjz f s) = still s :=
  still_of rfl rfl (h _)
@[simp] theorem still_onTc (f : TimeCore → TimeCore) (s : State) (h : ∀ tc, (f tc).frc = tc.frc) : still (onTc f s) = still s :=
  still_of rfl (by simp only [onTc, onTsu, stillTsu, h]) rfl
@[simp] theorem still_onMeter (f : Meter → Meter) (s : State) (h : ∀ m, stillMeter (f m) = stillMeter m) : still (onMeter f s) = still s :=
  still_of rfl (by simp only [onMeter, onTsu, stillTsu, h]) rfl
@[simp] theorem still_onAgent (d : Dev) (f : Agent → Agent) (s : State) (h : ∀ a, stillAgent (f a) = stillAgent a) :
    still (onAgent d f s) = still s := by
  cases d
  · exact still_of rfl (by simp only [onAgent, onTsu, stillTsu, h]) rfl
  · exact still_of rfl rfl (h _)
@[simp] theorem still_onPort (d : Dev) (p : Nat) (f : Port → Port) (s : State) : still (onPort d p f s) = still s := by cases d <;> exact (rfl)
@[simp] theorem still_emit (o : Out) (s : State) : still (emit o s) = still s := (rfl)
@[simp] theorem still_onHerd (h : Nat) (f : Herd → Herd) (s : State) : still (onHerd h f s) = still s := (rfl)
@[simp] theorem still_onRegion (n : Nat) (f : Region → Region) (s : State) : still (onRegion n f s) = still s := (rfl)
@[simp] theorem still_onLink (n : Nat) (f : Link → Link) (s : State) : still (onLink n f s) = still s := (rfl)
@[simp] theorem still_onPart (n : Nat) (f : Part → Part) (s : State) : still (onPart n f s) = still s := (rfl)
@[simp] theorem still_onCand (n : Nat) (f : Cand → Cand) (s : State) : still (onCand n f s) = still s := (rfl)
@[simp] theorem still_onEth (n : Nat) (f : Eth → Eth) (s : State) : still (onEth n f s) = still s := (rfl)
@[simp] theorem still_onCtx (n : Nat) (f : TineCtx → TineCtx) (s : State) : still (onCtx n f s) = still s := (rfl)
@[simp] theorem still_onPronk (h : Id24) (f : PronkCtr → PronkCtr) (s : State) : still (onPronk h f s) = still s := (rfl)
@[simp] theorem still_onSteward (h : Id24) (f : Steward → Steward) (s : State) : still (onSteward h f s) = still s := (rfl)
@[simp] theorem still_out (s : State) (o : List Out) : still { s with out := o } = still s := (rfl)
@[simp] theorem still_free (s : State) (n : Nat) : still { s with free := n } = still s := (rfl)
@[simp] theorem still_forAll {α : Type} (xs : List α) (f : α → State → State) (s : State) (h : ∀ a b, still (f a b) = still b) :
    still (forAll xs f s) = still s := forAll_keeps still f h xs s
@[simp] theorem stillTsu_forAll {α : Type} (xs : List α) (f : α → Tsu → Tsu) (t : Tsu) (h : ∀ a b, stillTsu (f a b) = stillTsu b) :
    stillTsu (forAll xs f t) = stillTsu t := forAll_keeps stillTsu f h xs t

@[simp] theorem still_foldl {α : Type} (xs : List α) (f : State → α → State) (s : State) (h : ∀ b a, still (f b a) = still b) :
    still (xs.foldl f s) = still s := by
  induction xs generalizing s with
  | nil => rfl
  | cons x xs ih => exact (ih (f s x)).trans (h s x)
@[simp] theorem stillTsu_foldl {α : Type} (xs : List α) (f : Tsu → α → Tsu) (t : Tsu) (h : ∀ b a, stillTsu (f b a) = stillTsu b) :
    stillTsu (xs.foldl f t) = stillTsu t := by
  induction xs generalizing t with
  | nil => rfl
  | cons x xs ih => exact (ih (f t x)).trans (h t x)
@[simp] theorem stillFjz_foldl {α : Type} (xs : List α) (f : Fjz → α → Fjz) (x : Fjz) (h : ∀ b a, stillFjz (f b a) = stillFjz b) :
    stillFjz (xs.foldl f x) = stillFjz x := by
  induction xs generalizing x with
  | nil => rfl
  | cons y xs ih => exact (ih (f x y)).trans (h x y)

/-- A write that touches none of it, whatever becomes of it. -/
def WriteOp.Keeps (op : WriteOp) : Prop :=
  (∀ u, still (op.apply u) = still u) ∧ (∀ u, still (op.accept u) = still u) ∧ ∀ u, still (op.refuse u) = still u

/-! ## Flags -/

@[simp] theorem stillTsu_setIrq (t : Tsu) (bit : Nat) : stillTsu (setIrq t bit) = stillTsu t := by simp [setIrq]

/-! ## Order -/

@[simp] theorem still_inTurn (c : Instr) (act : State → State) (s : State) (h_act : ∀ u, still (act u) = still u) :
    still (inTurn c act s) = still s := by
  unfold inTurn
  simp [*]

/-! ## Tokens -/

@[simp] theorem still_fromRegion (n q : Nat) (i : Instr) (act : State → State) (s : State) (h_act : ∀ u, still (act u) = still u) :
    still (fromRegion n q i act s) = still s := by
  unfold fromRegion
  repeat' (first | split | simp [*])
@[simp] theorem still_putOut (n q : Nat) (o : Out) (s : State) : still (putOut n q o s) = still s := by simp [putOut]
@[simp] theorem still_toRegion (n q : Nat) (o : Out) (s : State) : still (toRegion n q o s) = still s := by simp [toRegion]
@[simp] theorem still_readOut (n q : Nat) (s : State) :
    still (readOut n q s) = still s := by
  unfold readOut
  repeat' (first | split | simp)
@[simp] theorem still_offerTokens (n : Nat) (s : State) :
    still (offerTokens n s) = still s := by
  unfold offerTokens
  dsimp only
  exact (rfl)
@[simp] theorem still_serveQueues (s : State) : still (serveQueues s) = still s := by simp [serveQueues]

/-! ## TimeOps -/

@[simp] theorem frc_setRate (r : I64) (tc : TimeCore) : (setRate r tc).frc = tc.frc := (rfl)
@[simp] theorem frc_addPhase (ps : Int) (tc : TimeCore) : (addPhase ps tc).frc = tc.frc := (rfl)
@[simp] theorem frc_jumpPhase (ps : Int) (tc : TimeCore) : (jumpPhase ps tc).frc = tc.frc := (rfl)
@[simp] theorem still_enterTime (st : TimeState) (s : State) : still (enterTime st s) = still s := by simp [enterTime]
@[simp] theorem frc_foldMapping (slewed : Bool) (tc : TimeCore) : (foldMapping slewed tc).frc = tc.frc := by
  unfold foldMapping
  simp

/-! ## Records -/

@[simp] theorem still_tap (kind : Nat) (data : Bytes) (s : State) : still (tap kind data s) = still s := by simp [tap]
@[simp] theorem still_tapHerd (kind h : Nat) (content : Bytes) (s : State) :
    still (tapHerd kind h content s) = still s := by simp [tapHerd]
@[simp] theorem still_enterErr (e : ErrRec × Bytes) (s : State) : still (enterErr e s) = still s := by simp [enterErr]
@[simp] theorem still_enterErrs (s : State) : still (enterErrs s) = still s := by simp [enterErrs]
@[simp] theorem still_raise (r : ErrRec) (s : State) : still (raise r s) = still s := by simp [raise]
@[simp] theorem still_raiseHerd (h : Nat) (code : U16) (halts : Bool) (obj waiter : U32) (round : Nat) (detail : Nat) (s : State) :
    still (raiseHerd h code halts obj waiter round detail s) = still s := by simp [raiseHerd]
@[simp] theorem stillFjz_ownEntry (body : BitVec 448) (x : Fjz) :
    stillFjz (ownEntry body x) = stillFjz x := by simp [ownEntry]
@[simp] theorem stillFjz_freezeTrigger (n : U8) (by_ : U32) (herd : Id24) (x : Fjz) :
    stillFjz (freezeTrigger n by_ herd x) = stillFjz x := by simp [freezeTrigger]
@[simp] theorem stillFjz_fjzRecord (r : ErrRec) (x : Fjz) : stillFjz (fjzRecord r x) = stillFjz x := by simp [fjzRecord]
@[simp] theorem still_raiseFjz (r : ErrRec) (s : State) : still (raiseFjz r s) = still s := by simp [raiseFjz]
@[simp] theorem still_raiseOn (d : Dev) (r : ErrRec) (s : State) :
    still (raiseOn d r s) = still s := by
  unfold raiseOn
  split <;> simp
@[simp] theorem still_State_fresh (s : State) : still (State.fresh s) = still s := by simp [State.fresh]

/-! ## Ports -/

@[simp] theorem still_sendOn (d : Dev) (p : Nat) (bypass : Bool) (c : Cell) (s : State) :
    still (sendOn d p bypass c s) = still s := by
  unfold sendOn
  split <;> simp
@[simp] theorem still_send (d : Dev) (p : Nat) (c : Cell) (s : State) : still (send d p c s) = still s := by simp [send]
@[simp] theorem still_sendFirst (p : Nat) (c : Cell) (s : State) : still (sendFirst p c s) = still s := by simp [sendFirst]
@[simp] theorem still_sendAll (d : Dev) (ps : List Nat) (bypass : Bool) (c : Cell) (s : State) :
    still (sendAll d ps bypass c s) = still s := by simp [sendAll]
@[simp] theorem still_sendBoth (c : Cell) (s : State) : still (sendBoth c s) = still s := by simp [sendBoth]
@[simp] theorem still_receive (i : Instr) (d : Dev) (p : Nat) (types : List Nat) (c : Cell) (act : State → State) (s : State) (h_act : ∀ u, still (act u) = still u) :
    still (receive i d p types c act s) = still s := by
  unfold receive
  simp [*]
@[simp] theorem still_sendUp (bypass : Bool) (c : Cell) (s : State) :
    still (sendUp bypass c s) = still s := by
  unfold sendUp
  split <;> simp

/-! ## MeterLog -/

@[simp] theorem stillTsu_enterRing (b : BitVec 768) (t : Tsu) : stillTsu (enterRing b t) = stillTsu t := by simp [enterRing]
@[simp] theorem stillMeter_Meter_setSlot (m : Meter) (i : Nat) (w : BitVec 256) :
    stillMeter (Meter.setSlot m i w) = stillMeter m := by simp [Meter.setSlot]
@[simp] theorem stillMeter_Meter_setTenant (m : Meter) (i : Nat) (w : BitVec 256) :
    stillMeter (Meter.setTenant m i w) = stillMeter m := by simp [Meter.setTenant]
@[simp] theorem stillMeter_Meter_onTenant (m : Meter) (id : Id24) (f : BitVec 256 → BitVec 256) :
    stillMeter (Meter.onTenant m id f) = stillMeter m := by
  unfold Meter.onTenant
  split <;> simp
@[simp] theorem stillMeter_clearSlot (i : Nat) (m : Meter) : stillMeter (clearSlot i m) = stillMeter m := by simp [clearSlot]
@[simp] theorem stillTsu_moveFinal (t : Tsu) :
    stillTsu (moveFinal t) = stillTsu t := by
  unfold moveFinal
  repeat' (first | split | simp)
@[simp] theorem stillTsu_moveFinals (t : Tsu) : stillTsu (moveFinals t) = stillTsu t := by simp [moveFinals]
@[simp] theorem stillMeter_keepTamper (e : BitVec 128) (m : Meter) :
    stillMeter (keepTamper e m) = stillMeter m := by simp [keepTamper]
@[simp] theorem stillTsu_dropRecord (t : Tsu) : stillTsu (dropRecord t) = stillTsu t := by simp [dropRecord]
@[simp] theorem stillTsu_issue (typ flags : Nat) (rest : List (Nat × Nat × Nat)) (recNs : Nat) (t : Tsu) :
    stillTsu (issue typ flags rest recNs t) = stillTsu t := by simp [issue]
@[simp] theorem stillTsu_issueTamper (e : BitVec 128) (recNs : Nat) (t : Tsu) :
    stillTsu (issueTamper e recNs t) = stillTsu t := by simp [issueTamper]
@[simp] theorem stillTsu_logTamper (code detail aux : Nat) (t : Tsu) :
    stillTsu (logTamper code detail aux t) = stillTsu t := by simp [logTamper]
@[simp] theorem stillTsu_bootRecord (t : Tsu) : stillTsu (bootRecord t) = stillTsu t := by simp [bootRecord]

/-! ## Agent -/

@[simp] theorem still_setSelector (d : Dev) (q : Req) (index sub v : Nat) (s : State) :
    still (setSelector d q index sub v s) = still s := by simp [setSelector]
@[simp] theorem still_sendMessage (d : Dev) (p typ addr : Nat) (m : Bytes) (s : State) :
    still (sendMessage d p typ addr m s) = still s := by simp [sendMessage]
@[simp] theorem still_deliverRsp (d : Dev) (r : Rsp) (s : State) :
    still (deliverRsp d r s) = still s := by
  unfold deliverRsp
  split <;> simp
@[simp] theorem stillAgent_keepRsp (r : Rsp) (a : Agent) : stillAgent (keepRsp r a) = stillAgent a := by simp [keepRsp]
@[simp] theorem still_repeatRsp (d : Dev) (q : Req) (r : Rsp) (s : State) :
    still (repeatRsp d q r s) = still s := by simp [repeatRsp]
@[simp] theorem still_appliedRsp (d : Dev) (q : Req) (index sub status : Nat) (s : State) :
    still (appliedRsp d q index sub status s) = still s := by simp [appliedRsp]
@[simp] theorem still_countTaken (d : Dev) (q : Req) (status : Nat) (s : State) :
    still (countTaken d q status s) = still s := by simp [countTaken]
@[simp] theorem still_park (d : Dev) (q : Req) (op : WriteOp) (c : Commit) (s : State) (hk : op.Keeps) :
    still (park d q op c s) = still s := by
  unfold park
  split <;> simp
@[simp] theorem still_logSealed (d : Dev) (access : Access) (st index sub : Nat) (s : State) :
    still (logSealed d access st index sub s) = still s := by simp [logSealed]
@[simp] theorem still_serveWrite (d : Dev) (q : Req) (op : WriteOp) (s : State) (hk : op.Keeps) :
    still (serveWrite d q op s) = still s := by
  have ⟨h1, h2, h3⟩ := hk
  unfold serveWrite
  repeat' (first | intro _ | simp [*] | split)
@[simp] theorem still_serveRead (d : Dev) (q : Req) (op : ReadOp) (s : State) (h1 : ∀ u, still (op.effect u) = still u) :
    still (serveRead d q op s) = still s := by
  unfold serveRead
  repeat' (first | split | simp [*])
@[simp] theorem still_tunnelOn (p : Nat) (q : Req) (index sub : Nat) (v : Bytes) (s : State) :
    still (tunnelOn p q index sub v s) = still s := by simp [tunnelOn]
@[simp] theorem still_countFragments (d : Dev) (p n : Nat) (s : State) :
    still (countFragments d p n s) = still s := by simp [countFragments]
@[simp] theorem still_tunnelCells (q : Req) (n : Nat) (s : State) :
    still (tunnelCells q n s) = still s := by
  unfold tunnelCells
  split <;> simp
@[simp] theorem still_takeRequest (d : Dev) (q : Req) (index sub : Nat) (v : Bytes) (serve : State → State) (s : State) (h_serve : ∀ u, still (serve u) = still u) :
    still (takeRequest d q index sub v serve s) = still s := by
  unfold takeRequest
  repeat' (first | split | simp [*])
@[simp] theorem still_agentWrite (d : Dev) (q : Req) (op : WriteOp) (s : State) (hk : op.Keeps) :
    still (agentWrite d q op s) = still s := by
  unfold agentWrite
  simp [*]
@[simp] theorem still_agentRead (d : Dev) (q : Req) (op : ReadOp) (s : State) (h1 : ∀ u, still (op.effect u) = still u) :
    still (agentRead d q op s) = still s := by
  unfold agentRead
  simp [*]
@[simp] theorem keeps_boolCommand (index sub : Nat) (access : Access) (v : U8) (f : State → State) (h_f : ∀ u, still (f u) = still u) : (boolCommand index sub access v f).Keeps := by simp_all [WriteOp.Keeps, boolCommand, reg]

/-! ## HerdOps -/

@[simp] theorem still_sendHalt (kind span : Nat) (herd : Id24) (run : U8) (h : HT) (cause : U16) (s : State) :
    still (sendHalt kind span herd run h cause s) = still s := by simp [sendHalt]
@[simp] theorem still_haltHerd_prime (h : Nat) (code : U16) (s : State) :
    still (haltHerd' h code s) = still s := by simp [haltHerd']
@[simp] theorem still_faultHerd (h : Nat) (code : U16) (obj waiter : U32) (round detail : Nat) (s : State) :
    still (faultHerd h code obj waiter round detail s) = still s := by simp [faultHerd]

/-! ## SyncOps -/

@[simp] theorem still_onCounter (n : Nat) (f : CounterSt → CounterSt) (s : State) :
    still (onCounter n f s) = still s := by simp [onCounter]
@[simp] theorem still_onEvent (n : Nat) (f : EventSt → EventSt) (s : State) :
    still (onEvent n f s) = still s := by simp [onEvent]
@[simp] theorem still_onWatch (n : Nat) (f : Watch → Watch) (s : State) : still (onWatch n f s) = still s := by simp [onWatch]
@[simp] theorem still_countCorrected (e : Ecc) (s : State) : still (countCorrected e s) = still s := by simp [countCorrected]
@[simp] theorem still_countLate (s : State) : still (countLate s) = still s := by simp [countLate]
@[simp] theorem still_endWatch (slot : Nat) (status : Nat) (outcome : BitVec 3) (value : BitVec 48) (s : State) :
    still (endWatch slot status outcome value s) = still s := by simp [endWatch]
@[simp] theorem still_purgeHerd (h : Nat) (s : State) : still (purgeHerd h s) = still s := by simp [purgeHerd]
@[simp] theorem still_endObjectWatches (isEvent : Bool) (n status : Nat) (outcome : BitVec 3) (s : State) :
    still (endObjectWatches isEvent n status outcome s) = still s := by simp [endObjectWatches]
@[simp] theorem still_syncFault (owner : Option Nat) (obj : U32) (s : State) :
    still (syncFault owner obj s) = still s := by
  unfold syncFault
  split <;> simp
@[simp] theorem still_syncUncorrectable (isEvent : Bool) (n : Nat) (s : State) :
    still (syncUncorrectable isEvent n s) = still s := by simp [syncUncorrectable]
@[simp] theorem still_watchUncorrectable (slot : Nat) (s : State) :
    still (watchUncorrectable slot s) = still s := by simp [watchUncorrectable]
@[simp] theorem still_syncFaults (e : Ecc) (s : State) :
    still (syncFaults e s) = still s := by
  unfold syncFaults
  repeat' (first | intro _ | simp [*] | split | rw [still_forAll])
@[simp] theorem still_lateSignal (h : Nat) (obj source : U32) (seen : Bool) (s : State) :
    still (lateSignal h obj source seen s) = still s := by simp [lateSignal]
@[simp] theorem still_signalCounter (h n : Nat) (source : U32) (f : BitVec 48 → BitVec 48) (s : State) :
    still (signalCounter h n source f s) = still s := by simp [signalCounter]
@[simp] theorem still_signalEvent (h n : Nat) (source : U32) (s : State) :
    still (signalEvent h n source s) = still s := by simp [signalEvent]
@[simp] theorem still_claimForWatch (n : Nat) (s : State) : still (claimForWatch n s) = still s := by simp [claimForWatch]
@[simp] theorem still_settleValues (s : State) : still (settleValues s) = still s := by simp [settleValues]
@[simp] theorem still_evalWatches (s : State) : still (evalWatches s) = still s := by simp [evalWatches]
@[simp] theorem still_clearClaimed (s : State) : still (clearClaimed s) = still s := by simp [clearClaimed]
@[simp] theorem still_syncReset (h : Nat) (s : State) : still (syncReset h s) = still s := by simp [syncReset]

/-! ## MeterOps -/

@[simp] theorem still_setEntry (i : Nat) (e : BitVec 256) (s : State) : still (setEntry i e s) = still s := by simp [setEntry]
@[simp] theorem stillMeter_Meter_onDie (m : Meter) (f : DieCounters → DieCounters) :
    stillMeter (Meter.onDie m f) = stillMeter m := by simp [Meter.onDie]
@[simp] theorem still_raiseMeter (code : U16) (obj waiter : U32) (herd : Id24) (detail : Nat) (s : State) :
    still (raiseMeter code obj waiter herd detail s) = still s := by simp [raiseMeter]
@[simp] theorem still_checkCopies {α : Type} [DecidableEq α] (badA badB : Bool) (w : Copies α) (s : State)
    (hA : ∀ v m, stillMeter (w.setA v m) = stillMeter m) (hB : ∀ v m, stillMeter (w.setB v m) = stillMeter m) :
    still (checkCopies badA badB w s) = still s := by
  unfold checkCopies
  simp [*]
@[simp] theorem still_checkSlot (badA badB : Bool) (i : Nat) (s : State) : still (checkSlot badA badB i s) = still s :=
  still_checkCopies _ _ _ _ (fun _ _ => rfl) (fun _ _ => rfl)
@[simp] theorem still_meterFaults (e : Ecc) (s : State) : still (meterFaults e s) = still s := by
  have tenant (badA badB : Bool) (t : Tsu) (i : Nat) (s : State) : still (checkCopies badA badB (tenantCopies t i) s) = still s :=
    still_checkCopies _ _ _ _ (fun _ _ => rfl) (fun _ _ => rfl)
  have die (badA badB : Bool) (t : Tsu) (i : Nat) (s : State) : still (checkCopies badA badB (dieCopies t i) s) = still s :=
    still_checkCopies _ _ _ _ (fun _ _ => rfl) (fun _ _ => rfl)
  unfold meterFaults
  simp [still_forAll, tenant, die]
@[simp] theorem stillTsu_ignored (t : Tsu) : stillTsu (ignored t) = stillTsu t := by simp [ignored]
@[simp] theorem stillTsu_meterEvent (f : Tsu → Tsu) (t : Tsu) (h_f : ∀ u, stillTsu (f u) = stillTsu u) :
    stillTsu (meterEvent f t) = stillTsu t := by
  unfold meterEvent
  simp [*]
@[simp] theorem stillTsu_activate (i : Nat) (stream : U32) (tenant : Id24) (ns : Nat) (t : Tsu) :
    stillTsu (activate i stream tenant ns t) = stillTsu t := by simp [activate]
@[simp] theorem stillTsu_takeSlot (i : Nat) (e : BitVec 256) (ns : Nat) (t : Tsu) :
    stillTsu (takeSlot i e ns t) = stillTsu t := by simp [takeSlot]
@[simp] theorem still_takeEntry (i : Nat) (s : State) : still (takeEntry i s) = still s := by simp [takeEntry]
@[simp] theorem stillTsu_takeUnreadable (i : Nat) (t : Tsu) :
    stillTsu (takeUnreadable i t) = stillTsu t := by simp [takeUnreadable]
@[simp] theorem stillTsu_finalRecord (i endState : Nat) (herd : Id24) (t : Tsu) :
    stillTsu (finalRecord i endState herd t) = stillTsu t := by simp [finalRecord]

/-! ## LedgerOps -/

@[simp] theorem still_ledgerOpOn (h op amount ns i : Nat) (s : State) :
    still (ledgerOpOn h op amount ns i s) = still s := by
  unfold ledgerOpOn
  split <;> simp
@[simp] theorem still_autoTake (i : Nat) (s : State) : still (autoTake i s) = still s := by simp [autoTake]
@[simp] theorem still_passEntry (p : LedgerOp) (rank i : Nat) (s : State) :
    still (passEntry p rank i s).1 = still s := by
  unfold passEntry
  repeat' (first | split | simp)
@[simp] theorem still_ledgerFault (h i : Nat) (s : State) : still (ledgerFault h i s) = still s := by simp [ledgerFault]
@[simp] theorem still_passBad (p : LedgerOp) (i : Nat) (s : State) : still (passBad p i s) = still s := by simp [passBad]
@[simp] theorem still_passChunk (fuel room : Nat) (p : LedgerOp) (s : State) :
    still (passChunk fuel room p s).1 = still s := by
  induction fuel generalizing room p s with
  | zero => rfl
  | succ k ih =>
    unfold passChunk
    dsimp only
    split
    · rfl
    · split
      · rfl
      · rw [ih]
        split <;> simp
@[simp] theorem still_drainEnded (p : LedgerOp) (s : State) : still (drainEnded p s) = still s := by simp [drainEnded]
@[simp] theorem still_passEnded (p : LedgerOp) (s : State) :
    still (passEnded p s) = still s := by
  unfold passEnded
  split <;> simp
@[simp] theorem still_visitPass (h : Nat) (p : LedgerOp) (r : State × List LedgerOp) :
    still (visitPass h p r).1 = still r.1 := by
  unfold visitPass
  dsimp only
  split
  · rfl
  · split <;> simp
@[simp] theorem still_runPasses (h : Nat) (s : State) :
    still (runPasses h s) = still s := by
  have walk : ∀ (ps : List LedgerOp) (r : State × List LedgerOp),
      still (ps.foldl (fun r p => visitPass h p r) r).1 = still r.1 := by
    intro ps
    induction ps with
    | nil => intro r; rfl
    | cons p ps ih => intro r; rw [List.foldl_cons, ih]; simp
  unfold runPasses
  simp [walk]
@[simp] theorem still_addPass (p : LedgerOp) (s : State) : still (addPass p s) = still s := by simp [addPass]
@[simp] theorem still_beginPass (h g : Nat) (act : GroupAct) (ns : Nat) (s : State) :
    still (beginPass h g act ns s) = still s := by simp [beginPass]
@[simp] theorem still_beginAll (h : Nat) (act : GroupAct) (ns : Nat) (s : State) :
    still (beginAll h act ns s) = still s := by simp [beginAll]
@[simp] theorem still_openGroup (h g ns : Nat) (s : State) : still (openGroup h g ns s) = still s := by simp [openGroup]
@[simp] theorem still_closeGroup (t0 : Tsu) (h g ns : Nat) (s : State) :
    still (closeGroup t0 h g ns s) = still s := by
  unfold closeGroup
  split <;> simp
@[simp] theorem still_autoPass (h g ns : Nat) (s : State) : still (autoPass h g ns s) = still s := by simp [autoPass]
@[simp] theorem still_renewOpen (t0 : Tsu) (h ns : Nat) (s : State) :
    still (renewOpen t0 h ns s) = still s := by
  unfold renewOpen
  repeat' (first | intro _ | simp [*] | split | rw [still_forAll])
@[simp] theorem still_closeHerd (t0 : Tsu) (h : Nat) (s : State) : still (closeHerd t0 h s) = still s := by simp [closeHerd]
@[simp] theorem still_finishPasses (h : Nat) (s : State) : still (finishPasses h s) = still s := by simp [finishPasses]
@[simp] theorem still_unloadEntry (herd : Id24) (h i : Nat) (s : State) :
    still (unloadEntry herd h i s) = still s := by simp [unloadEntry]
@[simp] theorem still_unloadEntries (h : Nat) (s : State) : still (unloadEntries h s) = still s := by simp [unloadEntries]
@[simp] theorem stillMeter_allocTenant (id : Id24) (m : Meter) :
    stillMeter (allocTenant id m) = stillMeter m := by
  unfold allocTenant
  split
  · simp
  · split <;> simp
@[simp] theorem still_applyLedger (i : Nat) (new : BitVec 256) (s : State) :
    still (applyLedger i new s) = still s := by
  unfold applyLedger
  repeat' (first | split | simp)
@[simp] theorem still_applyHeld (w : HeldWrite) (s : State) : still (applyHeld w s) = still s := by simp [applyHeld]
@[simp] theorem still_applyHeldOf (h : Nat) (due : HeldWrite → Bool) (s : State) :
    still (applyHeldOf h due s) = still s := by simp [applyHeldOf]

/-! ## RunOps -/

@[simp] theorem still_takePlan (h : Nat) (plan : BitVec 256) (s : State) :
    still (takePlan h plan s) = still s := by simp [takePlan]
@[simp] theorem still_abortSwap (h : Nat) (cause : U32) (s : State) :
    still (abortSwap h cause s) = still s := by simp [abortSwap]
@[simp] theorem still_takeCancel (h : Nat) (s : State) : still (takeCancel h s) = still s := by simp [takeCancel]
@[simp] theorem still_fetchFailed (h : Nat) (s : State) :
    still (fetchFailed h s) = still s := by
  unfold fetchFailed
  repeat' (first | split | simp)
@[simp] theorem still_swapPhase4 (h : Nat) (s : State) : still (swapPhase4 h s) = still s := by simp [swapPhase4]
@[simp] theorem still_applyPendingWrite (w : PendingWrite) (s : State) :
    still (applyPendingWrite w s) = still s := by simp [applyPendingWrite]
@[simp] theorem still_endRun (h : Nat) (st : HerdState) (s : State) : still (endRun h st s) = still s := by simp [endRun]
@[simp] theorem still_leaveHerd (h cause : Nat) (s : State) : still (leaveHerd h cause s) = still s := by simp [leaveHerd]
@[simp] theorem still_departHerds (cause : Nat) (s : State) :
    still (departHerds cause s) = still s := by
  unfold departHerds
  repeat' (first | intro _ | simp [*] | split | rw [still_forAll])
@[simp] theorem still_startResult (h : Nat) (ok : Bool) (s : State) :
    still (startResult h ok s) = still s := by simp [startResult]

/-! ## TineOps -/

@[simp] theorem still_replayDiff (h : Nat) (obj : U32) (round : U16) (s : State) :
    still (replayDiff h obj round s) = still s := by simp [replayDiff]
@[simp] theorem still_compareArrival (own : Bool) (h : Nat) (a : U16 × U16 × U8 × U8 × U64) (s : State) :
    still (compareArrival own h a s) = still s := by
  unfold compareArrival
  repeat' (first | split | simp)
@[simp] theorem still_compareResult (own : Bool) (h : Nat) (content : Bytes) (s : State) :
    still (compareResult own h content s) = still s := by
  unfold compareResult
  repeat' (first | split | simp)
@[simp] theorem still_sendPart (n : Nat) (kind : BitVec 4) (round : U16) (replay first : Bool) (cause : BitVec 3) (members : Id24) (deadline : U64) (origin : Id24) (payload : Payload) (s : State) :
    still (sendPart n kind round replay first cause members deadline origin payload s) = still s := by
  unfold sendPart
  split <;> simp
@[simp] theorem still_queueArrival (n : Nat) (kind : BitVec 4) (cause : BitVec 3) (members : Id24) (deadline : U64) (payload : Payload) (s : State) :
    still (queueArrival n kind cause members deadline payload s) = still s := by simp [queueArrival]
@[simp] theorem still_failRound (n : Nat) (cause : BitVec 3) (s : State) :
    still (failRound n cause s) = still s := by
  unfold failRound
  split <;> simp
@[simp] theorem still_completeRounds (x0 : Nat) (x1 : Nat) (s : State) :
    still (completeRounds x0 x1 s) = still s := by
  induction x0 generalizing s with
  | zero => rfl
  | succ k ih =>
    unfold completeRounds
    repeat' (first | intro _ | simp [*] | split)
@[simp] theorem still_raisePart (h n : Nat) (code : U16) (waiter : U32) (round : U16) (detail : Nat) (s : State) :
    still (raisePart h n code waiter round detail s) = still s := by simp [raisePart]
@[simp] theorem still_contribute (region n : Nat) (payload : Payload) (s : State) :
    still (contribute region n payload s) = still s := by
  unfold contribute
  split <;> simp
@[simp] theorem still_completeArrivals (h : Nat) (s : State) :
    still (completeArrivals h s) = still s := by simp [completeArrivals]
@[simp] theorem still_applyTarget (h n : Nat) (failed : Bool) (s : State) :
    still (applyTarget h n failed s) = still s := by
  unfold applyTarget
  repeat' (first | split | simp)
@[simp] theorem still_deliverResult (h n : Nat) (r : Delivery) (s : State) :
    still (deliverResult h n r s) = still s := by simp [deliverResult]
@[simp] theorem still_resyncPart (h n : Nat) (s : State) :
    still (resyncPart h n s) = still s := by
  unfold resyncPart
  repeat' (first | split | simp)
@[simp] theorem still_replayPart (n : Nat) (s : State) : still (replayPart n s) = still s := by simp [replayPart]
@[simp] theorem still_moveHerd (h : Nat) (plane : Plane) (s : State) :
    still (moveHerd h plane s) = still s := by simp [moveHerd]
@[simp] theorem still_moveOff (p h : Nat) (s : State) :
    still (moveOff p h s) = still s := by
  unfold moveOff
  split <;> simp
@[simp] theorem still_moveIfLost (h : Nat) (s : State) :
    still (moveIfLost h s) = still s := by
  unfold moveIfLost
  split <;> simp
@[simp] theorem still_startArrive (h : Nat) (fire : HT) (value : Bool) (s : State) :
    still (startArrive h fire value s) = still s := by simp [startArrive]

/-! ## RegionOps -/

@[simp] theorem still_takeSnapshot (n trig : Nat) (rcc : BitVec 48) (s : State) :
    still (takeSnapshot n trig rcc s) = still s := by
  unfold takeSnapshot
  exact still_onRegion _ _ _
@[simp] theorem still_sendBias (n : Nat) (s : State) : still (sendBias n s) = still s := by simp [sendBias]
@[simp] theorem still_setBank (n b : Nat) (st : BankState) (s : State) :
    still (setBank n b st s) = still s := by simp [setBank]
@[simp] theorem still_stampBank (n b h : Nat) (s : State) : still (stampBank n b h s) = still s := by simp [stampBank]
@[simp] theorem still_bankOff (n h b : Nat) (s : State) : still (bankOff n h b s) = still s := by simp [bankOff]
@[simp] theorem still_bankOn (n h b : Nat) (s : State) :
    still (bankOn n h b s) = still s := by
  unfold bankOn
  split <;> simp
@[simp] theorem still_powerOp (h : Nat) (d : Desc) (s : State) :
    still (powerOp h d s) = still s := by
  unfold powerOp
  split <;> simp

/-! ## StepOps -/

@[simp] theorem still_fillAhead (h : Nat) (x0 : Nat) (s : State) :
    still (fillAhead h x0 s) = still s := by
  induction x0 generalizing s with
  | zero => rfl
  | succ k ih =>
    unfold fillAhead
    repeat' (first | intro _ | simp [*] | split)
@[simp] theorem still_onAhead (h i : Nat) (f : Ahead → Ahead) (s : State) :
    still (onAhead h i f s) = still s := by simp [onAhead]
@[simp] theorem still_evalGate (h i k : Nat) (s : State) :
    still (evalGate h i k s) = still s := by
  unfold evalGate
  repeat' (first | split | simp)
@[simp] theorem still_evalAhead (h i : Nat) (s : State) :
    still (evalAhead h i s) = still s := by
  unfold evalAhead
  split <;> simp
@[simp] theorem still_haltAtFailedGate (h : Nat) (s : State) :
    still (haltAtFailedGate h s) = still s := by
  unfold haltAtFailedGate
  repeat' (first | split | simp)
@[simp] theorem still_herdPhase4 (h : Nat) (s : State) : still (herdPhase4 h s) = still s := by simp [herdPhase4]
@[simp] theorem still_phase4 (s : State) : still (phase4 s) = still s := by simp [phase4]
@[simp] theorem still_enterHalted (h : Nat) (s : State) : still (enterHalted h s) = still s := by simp [enterHalted]
@[simp] theorem still_countBoundary (h : Nat) (a : Ahead) (s : State) :
    still (countBoundary h a s) = still s := by
  unfold countBoundary
  dsimp only
  repeat' (first | intro _ | split | simp [*])
@[simp] theorem still_stepEvent (h : Nat) (a : Ahead) (d : Desc) (s : State) :
    still (stepEvent h a d s) = still s := by simp [stepEvent]
@[simp] theorem still_launchRegion (h step : Nat) (entry : U16) (region : Nat) (rcc : BitVec 48) (s : State) :
    still (launchRegion h step entry region rcc s) = still s := by simp [launchRegion]
@[simp] theorem still_launchRegions (h step : Nat) (d : Desc) (rccs : List (BitVec 48)) (s : State) :
    still (launchRegions h step d rccs s) = still s := by simp [launchRegions]
@[simp] theorem still_launchStep (h : Nat) (a : Ahead) (d : Desc) (rccs : List (BitVec 48)) (s : State) :
    still (launchStep h a d rccs s) = still s := by simp [launchStep]
@[simp] theorem still_consumeEvents (d : Desc) (s : State) : still (consumeEvents d s) = still s := by simp [consumeEvents]
@[simp] theorem still_swapFetch (h step : Nat) (s : State) : still (swapFetch h step s) = still s := by simp [swapFetch]
@[simp] theorem still_swapArrive (h : Nat) (s : State) : still (swapArrive h s) = still s := by simp [swapArrive]
@[simp] theorem still_swapFlip (h : Nat) (grid : HT) (s : State) : still (swapFlip h grid s) = still s := by simp [swapFlip]
@[simp] theorem still_swapDecide (h : Nat) (b : Boundary) (d : Desc) (s : State) :
    still (swapDecide h b d s) = still s := by
  unfold swapDecide
  repeat' (first | split | simp)
@[simp] theorem still_swapRelease (h : Nat) (s : State) : still (swapRelease h s) = still s := by simp [swapRelease]
@[simp] theorem still_swapAction (h : Nat) (b : Boundary) (d : Desc) (s : State) :
    still (swapAction h b d s) = still s := by
  unfold swapAction
  split <;> simp
@[simp] theorem still_drainCheck (h : Nat) (grid : HT) (s : State) :
    still (drainCheck h grid s) = still s := by simp [drainCheck]
@[simp] theorem still_deadlineTime (herd : Id24) (s : State) : still (deadlineTime herd s).2 = still s := by
  unfold deadlineTime
  repeat' (first | split | simp)
@[simp] theorem still_beginLedger (h : Nat) (d : Desc) (s : State) :
    still (beginLedger h d s) = still s := by simp [beginLedger]
@[simp] theorem still_descActions (t0 : Tsu) (b : Boundary) (s : State) :
    still (descActions t0 b s) = still s := by simp [descActions]
@[simp] theorem still_boundaryPhase7 (t0 : Tsu) (b : Boundary) (s : State) :
    still (boundaryPhase7 t0 b s) = still s := by simp [boundaryPhase7]
@[simp] theorem still_herdPhase7 (t0 : Tsu) (h : Nat) (s : State) :
    still (herdPhase7 t0 h s) = still s := by simp [herdPhase7]
@[simp] theorem still_applyPending (h : Nat) (all : Bool) (s : State) :
    still (applyPending h all s) = still s := by simp [applyPending]
@[simp] theorem still_herdPhase8 (t0 : Tsu) (h : Nat) (s : State) :
    still (herdPhase8 t0 h s) = still s := by simp [herdPhase8]
@[simp] theorem still_countBounds (t0 : Tsu) (s : State) : still (countBounds t0 s) = still s := by simp [countBounds]
@[simp] theorem still_lastPhases (s : State) : still (lastPhases s) = still s := by simp [lastPhases]
@[simp] theorem still_finishContext (h : Nat) (s : State) : still (finishContext h s) = still s := by simp [finishContext]
@[simp] theorem still_takeWay (h : Nat) (on : Bool) (s : State) : still (takeWay h on s) = still s := by simp [takeWay]
@[simp] theorem still_advance (h : Nat) (d : Desc) (s : State) : still (advance h d s) = still s := by simp [advance]
@[simp] theorem still_finishBoundary (h : Nat) (a : Ahead) (d : Desc) (acts : Bool) (s : State) :
    still (finishBoundary h a d acts s) = still s := by simp [finishBoundary]
@[simp] theorem still_goBoundary (h : Nat) (a : Ahead) (rccs : List (BitVec 48)) (s : State) :
    still (goBoundary h a rccs s) = still s := by simp [goBoundary]
@[simp] theorem still_silentBoundary (h : Nat) (a : Ahead) (s : State) :
    still (silentBoundary h a s) = still s := by simp [silentBoundary]
@[simp] theorem still_ledgerBad (e : Ecc) (s : State) : still (ledgerBad e s) = still s := by simp [ledgerBad]
@[simp] theorem still_descFault (h step : Nat) (s : State) : still (descFault h step s) = still s := by simp [descFault]
@[simp] theorem still_tryBoundary (h : Nat) (a : Ahead) (rccs : List (BitVec 48)) (ecc : Ecc) (s : State) :
    still (tryBoundary h a rccs ecc s) = still s := by
  unfold tryBoundary
  repeat' (first | split | simp)
@[simp] theorem still_stepBoundary (h typ : Nat) (rccs : List (BitVec 48)) (ecc : Ecc) (s : State) :
    still (stepBoundary h typ rccs ecc s) = still s := by
  unfold stepBoundary
  repeat' (first | split | simp)
@[simp] theorem still_haltBoundary (h : Nat) (s : State) :
    still (haltBoundary h s) = still s := by
  unfold haltBoundary
  repeat' (first | split | simp)

end Sys2Proof.Machine
end

