-- ==== Sys2Proof/Laws/StillOps.lean ====
section
/-! SUPPORT. The operations of the chip, of its cells and of the commands keep what Still.lean names. -/

namespace Sys2Proof.Machine

/-! ## PlaneOps -/

@[simp] theorem still_goTime (st : TimeState) (s : State) : still (goTime st s) = still s := by simp [goTime]
@[simp] theorem still_startHoldover (s : State) : still (startHoldover s) = still s := by simp [startHoldover]
@[simp] theorem still_bothLost (s : State) :
    still (bothLost s) = still s := by
  unfold bothLost
  dsimp only
  repeat' (first | intro _ | split | simp [*])
@[simp] theorem still_switchPlane (pl : Plane) (s : State) : still (switchPlane pl s) = still s := by simp [switchPlane]
@[simp] theorem still_regainPlane (pl : Plane) (err : Int) (s : State) :
    still (regainPlane pl err s) = still s := by
  unfold regainPlane
  repeat' (first | split | simp)
@[simp] theorem still_judgeBetter (s : State) : still (judgeBetter s) = still s := by simp [judgeBetter]
@[simp] theorem still_reselect (err : Int) (s : State) :
    still (reselect err s) = still s := by
  unfold reselect
  split
  · simp
  · split <;> simp
@[simp] theorem stillTsu_takeMedian (t : Tsu) : stillTsu (takeMedian t) = stillTsu t := by simp [takeMedian]
@[simp] theorem still_firstBleat (pl : Plane) (ht : HT) (st : Stamp) (s : State) :
    still (firstBleat pl ht st s) = still s := by simp [firstBleat]
@[simp] theorem still_wideExchange (theta : Int) (s : State) :
    still (wideExchange theta s) = still s := by
  unfold wideExchange
  split <;> simp
@[simp] theorem still_narrowExchange (theta : Int) (s : State) :
    still (narrowExchange theta s) = still s := by simp [narrowExchange]
@[simp] theorem still_calibrated (p : Nat) (s : State) : still (calibrated p s) = still s := by simp [calibrated]
@[simp] theorem frc_TimeCore_steer (error : Int) (tc : TimeCore) : (TimeCore.steer error tc).frc = tc.frc := by
  unfold TimeCore.steer
  split <;> simp
@[simp] theorem still_loopExchange (p : Nat) (measured d : Int) (s : State) :
    still (loopExchange p measured d s) = still s := by
  unfold loopExchange
  repeat' (first | split | simp)
@[simp] theorem still_otherExchange (theta : Int) (s : State) :
    still (otherExchange theta s) = still s := by
  unfold otherExchange
  dsimp only
  repeat' (first | intro _ | split | simp [*] | rw [still_forAll] | rw [still_onTc])

/-! ## RefOps -/

@[simp] theorem stillFjz_Fjz_setOut (x : Fjz) : stillFjz (Fjz.setOut x) = stillFjz x := by simp [Fjz.setOut]
@[simp] theorem stillFjz_Fjz_enterHold (x : Fjz) : stillFjz (Fjz.enterHold x) = stillFjz x := by simp [Fjz.enterHold]
@[simp] theorem stillFjz_Fjz_startSwitch (x : Fjz) (target : Nat) (freq : Bool) :
    stillFjz (Fjz.startSwitch x target freq) = stillFjz x := by simp [Fjz.startSwitch]
@[simp] theorem stillFjz_Fjz_acquireFrom (x : Fjz) (c : Nat) :
    stillFjz (Fjz.acquireFrom x c) = stillFjz x := by simp [Fjz.acquireFrom]
@[simp] theorem stillFjz_Fjz_markEligible (x : Fjz) : stillFjz (Fjz.markEligible x) = stillFjz x := by simp [Fjz.markEligible]
@[simp] theorem stillFjz_Fjz_select (x : Fjz) :
    stillFjz (Fjz.select x) = stillFjz x := by
  unfold Fjz.select
  repeat' (first | split | simp)
@[simp] theorem stillFjz_Fjz_lostSelected (x : Fjz) :
    stillFjz (Fjz.lostSelected x) = stillFjz x := by
  unfold Fjz.lostSelected
  repeat' (first | split | simp)
@[simp] theorem still_disqualify (c : Nat) (s : State) : still (disqualify c s) = still s := by simp [disqualify]
@[simp] theorem still_loseCand (c : Nat) (s : State) : still (loseCand c s) = still s := by simp [loseCand]
@[simp] theorem still_dropCand (c : Nat) (s : State) : still (dropCand c s) = still s := by simp [dropCand]
@[simp] theorem still_actReceived (c : Nat) (s : State) : still (actReceived c s) = still s := by simp [actReceived]
@[simp] theorem still_setReceived (c : Nat) (sqc : Nat) (s : State) :
    still (setReceived c sqc s) = still s := by simp [setReceived]
@[simp] theorem stillFjz_Fjz_steerPhase (e : Int) (x : Fjz) :
    stillFjz (Fjz.steerPhase e x) = stillFjz x := by
  unfold Fjz.steerPhase
  split <;> simp
@[simp] theorem stillFjz_Fjz_steerFreq (x : Fjz) :
    stillFjz (Fjz.steerFreq x) = stillFjz x := by
  unfold Fjz.steerFreq
  split <;> simp
@[simp] theorem still_qualifyState (c : Nat) (s : State) :
    still (qualifyState c s) = still s := by
  unfold qualifyState
  repeat' (first | split | simp)
@[simp] theorem still_qualify (c : Nat) (s : State) : still (qualify c s) = still s := by simp [qualify]
@[simp] theorem still_measure (m : CandMeas) (s : State) : still (measure m s) = still s := by simp [measure]

/-! ## ChipOps -/

@[simp] theorem still_onRound (n i : Nat) (f : Round → Round) (s : State) :
    still (onRound n i f s) = still s := by simp [onRound]
@[simp] theorem still_spreadResult (n : Nat) (bypass : Bool) (c : Cell) (s : State) :
    still (spreadResult n bypass c s) = still s := by simp [spreadResult]
@[simp] theorem still_sendOutcome (n : Nat) (bypass : Bool) (c : Cell) (s : State) :
    still (sendOutcome n bypass c s) = still s := by
  unfold sendOutcome
  repeat' (first | split | simp)
@[simp] theorem still_topOutcome (n i : Nat) (c : Cell) (s : State) :
    still (topOutcome n i c s) = still s := by simp [topOutcome]
@[simp] theorem still_sendTineUp (c : Cell) (s : State) :
    still (sendTineUp c s) = still s := by
  unfold sendTineUp
  split <;> simp
@[simp] theorem still_markSent (n i : Nat) (s : State) : still (markSent n i s) = still s := by simp [markSent]
@[simp] theorem still_noteFailed (n : Nat) (round : U16) (s : State) :
    still (noteFailed n round s) = still s := by simp [noteFailed]
@[simp] theorem still_failCtx (n i : Nat) (cause : BitVec 3) (origin : Id24) (deadline : U64) (s : State) :
    still (failCtx n i cause origin deadline s) = still s := by simp [failCtx]
@[simp] theorem still_raiseCtx (n : Nat) (code : U16) (waiter : U32) (round : U16) (detail : BitVec 3) (s : State) :
    still (raiseCtx n code waiter round detail s) = still s := by simp [raiseCtx]
@[simp] theorem still_roundUncorrectable (n i : Nat) (deadline : U64) (s : State) :
    still (roundUncorrectable n i deadline s) = still s := by simp [roundUncorrectable]
@[simp] theorem still_completeRound (n i : Nat) (s : State) : still (completeRound n i s) = still s := by simp [completeRound]
@[simp] theorem still_tagged (n : Nat) (c : Cell) (f : State → State) (s : State) (h_f : ∀ u, still (f u) = still u) :
    still (tagged n c f s) = still s := by
  unfold tagged
  repeat' (first | split | simp [*])
@[simp] theorem still_countStale (s : State) : still (countStale s) = still s := by simp [countStale]
@[simp] theorem still_countTwinLate (s : State) : still (countTwinLate s) = still s := by simp [countTwinLate]
@[simp] theorem still_countDup (s : State) : still (countDup s) = still s := by simp [countDup]
@[simp] theorem still_answerStale (n p : Nat) (round : U16) (s : State) :
    still (answerStale n p round s) = still s := by
  unfold answerStale
  repeat' (first | split | simp)
@[simp] theorem still_intoRound (p : Nat) (c : Cell) (f : Nat → Nat → State → State) (s : State) (h_f : ∀ y0 y1 u, still (f y0 y1 u) = still u) :
    still (intoRound p c f s) = still s := by
  unfold intoRound
  repeat' (first | split | simp [*])
@[simp] theorem still_sendAbandon (n loser : Nat) (round : U16) (winner : U32) (s : State) :
    still (sendAbandon n loser round winner s) = still s := by simp [sendAbandon]
@[simp] theorem still_grantTwin (n i slot p : Nat) (round : U16) (s : State) :
    still (grantTwin n i slot p round s) = still s := by
  unfold grantTwin
  split <;> simp
@[simp] theorem still_reportMismatch (die : U32) (s : State) :
    still (reportMismatch die s) = still s := by simp [reportMismatch]
@[simp] theorem still_compareTwin (n p : Nat) (win : Cell) (c : Cell) (s : State) :
    still (compareTwin n p win c s) = still s := by
  unfold compareTwin
  repeat' (first | split | simp)
@[simp] theorem still_storeArrival (n p slot i : Nat) (c : Cell) (bad : Bool) (s : State) :
    still (storeArrival n p slot i c bad s) = still s := by
  unfold storeArrival
  repeat' (first | split | simp)
@[simp] theorem still_storeFailed (n p slot i : Nat) (c : Cell) (s : State) :
    still (storeFailed n p slot i c s) = still s := by
  unfold storeFailed
  repeat' (first | split | simp)
@[simp] theorem still_storeResync (n i : Nat) (c : Cell) (s : State) :
    still (storeResync n i c s) = still s := by simp [storeResync]
@[simp] theorem still_forwardResult (c : Cell) (s : State) : still (forwardResult c s) = still s := by simp [forwardResult]
@[simp] theorem still_deactivate (herd : Id24) (s : State) : still (deactivate herd s) = still s := by simp [deactivate]
@[simp] theorem still_moveDown (herd : Id24) (n : Nat) (s : State) : still (moveDown herd n s) = still s := by simp [moveDown]
@[simp] theorem still_moveUp (herd : Id24) (n : Nat) (s : State) : still (moveUp herd n s) = still s := by simp [moveUp]
@[simp] theorem still_originateMove (herd : Id24) (p : Nat) (down : Bool) (s : State) :
    still (originateMove herd p down s) = still s := by
  unfold originateMove
  split <;> simp
@[simp] theorem still_chipMoves (p : Nat) (s : State) : still (chipMoves p s) = still s := by simp [chipMoves]
@[simp] theorem still_takeMoveUp (c : Cell) (s : State) :
    still (takeMoveUp c s) = still s := by
  unfold takeMoveUp
  repeat' (first | split | simp)
@[simp] theorem still_takeMoveDown (c : Cell) (s : State) : still (takeMoveDown c s) = still s := by simp [takeMoveDown]
@[simp] theorem still_adoptStandby (s : State) : still (adoptStandby s) = still s := by simp [adoptStandby]
@[simp] theorem still_withAdoption (f : State → State) (s : State) (h_f : ∀ u, still (f u) = still u) :
    still (withAdoption f s) = still s := by
  unfold withAdoption
  simp [*]

/-! ## LinkOps -/

@[simp] theorem still_startTrain (d : Dev) (p : Nat) (s : State) : still (startTrain d p s) = still s := by simp [startTrain]
@[simp] theorem still_forgetOffset (s : State) : still (forgetOffset s) = still s := by simp [forgetOffset]
@[simp] theorem still_afterDown (d : Dev) (p : Nat) (s : State) :
    still (afterDown d p s) = still s := by
  unfold afterDown
  split
  · simp
  · split <;> simp
@[simp] theorem still_takeDown (d : Dev) (p : Nat) (st : PortState) (s : State) :
    still (takeDown d p st s) = still s := by simp [takeDown]
@[simp] theorem still_recordDown (d : Dev) (p : Nat) (cause : U8) (s : State) :
    still (recordDown d p cause s) = still s := by simp [recordDown]
@[simp] theorem still_linkDown (d : Dev) (p : Nat) (cause : U8) (s : State) :
    still (linkDown d p cause s) = still s := by simp [linkDown]
@[simp] theorem still_actEnable (d : Dev) (p : Nat) (s : State) : still (actEnable d p s) = still s := by simp [actEnable]
@[simp] theorem still_setEnable (d : Dev) (p : Nat) (on : Bool) (s : State) :
    still (setEnable d p on s) = still s := by simp [setEnable]
@[simp] theorem still_comparePosition (linkUp : Bool) (s : State) :
    still (comparePosition linkUp s) = still s := by
  unfold comparePosition
  repeat' (first | split | simp)
@[simp] theorem still_keepHello (d : Dev) (p : Nat) (b : BitVec 448) (s : State) :
    still (keepHello d p b s) = still s := by simp [keepHello]
@[simp] theorem still_linkUp (d : Dev) (p : Nat) (b : BitVec 448) (s : State) :
    still (linkUp d p b s) = still s := by
  unfold linkUp
  split <;> simp
@[simp] theorem still_takeHello (d : Dev) (p : Nat) (b : BitVec 448) (s : State) :
    still (takeHello d p b s) = still s := by simp [takeHello]
@[simp] theorem still_hearAgain (d : Dev) (p : Nat) (b : BitVec 448) (s : State) :
    still (hearAgain d p b s) = still s := by
  unfold hearAgain
  split
  · simp
  · split <;> simp
@[simp] theorem still_askRetry (d : Dev) (p : Nat) (cw : BitVec 12) (s : State) :
    still (askRetry d p cw s) = still s := by simp [askRetry]
@[simp] theorem still_resend (d : Dev) (p : Nat) (cw : BitVec 12) (s : State) :
    still (resend d p cw s) = still s := by simp [resend]

/-! ## BoundaryOps -/

@[simp] theorem stillAgent_fusedAgent (a : Agent) : stillAgent (fusedAgent a) = stillAgent a := by simp [fusedAgent]
@[simp] theorem stillMeter_fusedMeter (m : Meter) : stillMeter (fusedMeter m) = stillMeter m := by simp [fusedMeter]
@[simp] theorem still_dropWaiting (d : Dev) (s : State) : still (dropWaiting d s) = still s := by simp [dropWaiting]
@[simp] theorem stillFjz_resetFjz (x : Fjz) : stillFjz (resetFjz x) = stillFjz x := by simp [resetFjz]
@[simp] theorem still_startInit (s : State) : still (startInit s) = still s := by simp [startInit]
@[simp] theorem still_makeKey (s : State) : still (makeKey s) = still s := by simp [makeKey]

/-! ## Boundary -/

@[simp] theorem keeps_wBistStart (v : U8) (bankBytes : Nat) : (wBistStart v bankBytes).Keeps := by simp [WriteOp.Keeps, wBistStart]
@[simp] theorem keeps_wSecKey (d : Dev) (q : Req) (key : BitVec 256) : (wSecKey d q key).Keeps := by simp [WriteOp.Keeps, wSecKey]
@[simp] theorem keeps_wRole (v : U8) : (wRole v).Keeps := by simp [WriteOp.Keeps, wRole]

/-! ## TimeCmds -/

@[simp] theorem stillTsu_unparkAll (t : Tsu) : stillTsu (unparkAll t) = stillTsu t := by simp [unparkAll]
@[simp] theorem frc_holdUpdate (tc : TimeCore) : (holdUpdate tc).frc = tc.frc := by
  unfold holdUpdate
  split <;> simp
@[simp] theorem keeps_wOffset (v : HT) : (wOffset v).Keeps := by simp [WriteOp.Keeps, wOffset]
@[simp] theorem keeps_wRate (v : I64) : (wRate v).Keeps := by simp [WriteOp.Keeps, wRate]
@[simp] theorem keeps_wPhaseStep (v : I64) : (wPhaseStep v).Keeps := by
  unfold wPhaseStep
  refine ⟨?_, ?_, ?_⟩ <;> intro u <;> repeat' (first | intro _ | simp [boolCommand, *] | split | rw [still_onTc])
@[simp] theorem keeps_wLatchNow (v : U8) : (wLatchNow v).Keeps := by simp [WriteOp.Keeps, wLatchNow, boolCommand]
@[simp] theorem frc_windowSample (mk : Int) (tc : TimeCore) : (windowSample mk tc).frc = tc.frc := by
  unfold windowSample
  split <;> simp
@[simp] theorem frc_learn (uF : U32) (tc : TimeCore) : (learn uF tc).frc = tc.frc := by
  unfold learn
  split <;> simp

/-! ## RegionCmds -/

@[simp] theorem keeps_wSnapshotReq (n : Nat) (v : U8) (rcc : BitVec 48) : (wSnapshotReq n v rcc).Keeps := by simp [WriteOp.Keeps, wSnapshotReq, boolCommand]
@[simp] theorem keeps_wMarginBias (v : U8) : (wMarginBias v).Keeps := by simp [WriteOp.Keeps, wMarginBias]
@[simp] theorem keeps_wCounterClear (v : U8) : (wCounterClear v).Keeps := by simp [WriteOp.Keeps, wCounterClear, boolCommand]

/-! ## Port -/

@[simp] theorem keeps_wPortEnable (d : Dev) (p : Nat) (v : U8) : (wPortEnable d p v).Keeps := by simp [WriteOp.Keeps, wPortEnable]
@[simp] theorem still_chipExchange (p : Nat) (theta : Int) (s : State) :
    still (chipExchange p theta s) = still s := by simp [chipExchange]
@[simp] theorem still_dieExchange (p : Nat) (theta d : Int) (s : State) :
    still (dieExchange p theta d s) = still s := by
  unfold dieExchange
  split
  · simp
  · split <;> simp

/-! ## Lateral -/

@[simp] theorem keeps_wLatBaselineCapture (v : U8) : (wLatBaselineCapture v).Keeps := by simp [WriteOp.Keeps, wLatBaselineCapture, boolCommand]
@[simp] theorem keeps_wTxtsOverflowClear (v : U8) : (wTxtsOverflowClear v).Keeps := by simp [WriteOp.Keeps, wTxtsOverflowClear, boolCommand]

/-! ## Refs -/

@[simp] theorem still_selectRefs (s : State) : still (selectRefs s) = still s := by simp [selectRefs]
@[simp] theorem stillFjz_Fjz_loopSecond (x : Fjz) :
    stillFjz (Fjz.loopSecond x) = stillFjz x := by
  unfold Fjz.loopSecond
  repeat' (first | split | simp)
@[simp] theorem still_ppsSecond (c : Nat) (s : State) :
    still (ppsSecond c s) = still s := by
  unfold ppsSecond
  repeat' (first | split | simp)
@[simp] theorem still_countChipSymbols (symbols : List (Nat × Nat)) (s : State) :
    still (countChipSymbols symbols s) = still s := by simp [countChipSymbols]
@[simp] theorem stillFjz_endSwitch (w : Switch) (deltaPs : Int) (x : Fjz) :
    stillFjz (endSwitch w deltaPs x) = stillFjz x := by simp [endSwitch]
@[simp] theorem keeps_wRealign (v : U8) : (wRealign v).Keeps := by simp [WriteOp.Keeps, wRealign, boolCommand]
@[simp] theorem keeps_wRefType (c : Nat) (v : U8) : (wRefType c v).Keeps := by simp [WriteOp.Keeps, wRefType]
@[simp] theorem keeps_wRefPriority (c : Nat) (v : U8) : (wRefPriority c v).Keeps := by simp [WriteOp.Keeps, wRefPriority]
@[simp] theorem keeps_wForceRef (v : U8) : (wForceRef v).Keeps := by simp [WriteOp.Keeps, wForceRef]
@[simp] theorem keeps_wFreeServe (v : U8) : (wFreeServe v).Keeps := by simp [WriteOp.Keeps, wFreeServe]
@[simp] theorem keeps_wOcxoTable (v : BitVec 320) : (wOcxoTable v).Keeps := by simp [WriteOp.Keeps, wOcxoTable]
@[simp] theorem still_followBest (e : Nat) (s : State) :
    still (followBest e s) = still s := by
  unfold followBest
  split <;> simp

/-! ## PlaneCmds -/

@[simp] theorem still_setPlaneSqc (pl : Plane) (sqc : Nat) (s : State) :
    still (setPlaneSqc pl sqc s) = still s := by
  unfold setPlaneSqc
  split <;> simp
@[simp] theorem still_dieBleat (pl : Plane) (b : BitVec 448) (stamp : Stamp) (s : State) :
    still (dieBleat pl b stamp s) = still s := by simp [dieBleat]
@[simp] theorem still_parentBleat (p : Nat) (b : BitVec 448) (s : State) :
    still (parentBleat p b s) = still s := by
  unfold parentBleat
  split <;> simp
@[simp] theorem keeps_wForcePlane (v : U8) : (wForcePlane v).Keeps := by simp [WriteOp.Keeps, wForcePlane]
@[simp] theorem still_planeRecord (code detail : U16) (s : State) :
    still (planeRecord code detail s) = still s := by simp [planeRecord]
@[simp] theorem still_demotePlane (pl : Plane) (s : State) :
    still (demotePlane pl s) = still s := by
  unfold demotePlane
  split <;> simp
@[simp] theorem still_judgeDrift (d m : Int) (s : State) :
    still (judgeDrift d m s) = still s := by
  unfold judgeDrift
  split
  · simp
  · split <;> simp
@[simp] theorem keeps_wPlaneOffsetRelease (v : U8) : (wPlaneOffsetRelease v).Keeps := by simp [WriteOp.Keeps, wPlaneOffsetRelease, boolCommand]
@[simp] theorem keeps_wPlaneConfig (v : U8) : (wPlaneConfig v).Keeps := by simp [WriteOp.Keeps, wPlaneConfig]

/-! ## PronkOps -/

@[simp] theorem still_pronkDown (bypass : Bool) (c : Cell) (s : State) :
    still (pronkDown bypass c s) = still s := by simp [pronkDown]
@[simp] theorem still_pronkOriginate (c : Cell) (s : State) : still (pronkOriginate c s) = still s := by simp [pronkOriginate]
@[simp] theorem still_pronkFinal (herd : Id24) (phase : Nat) (cause : Nat) (s : State) :
    still (pronkFinal herd phase cause s) = still s := by simp [pronkFinal]
@[simp] theorem still_pronkJudge (herd : Id24) (s : State) : still (pronkJudge herd s) = still s := by simp [pronkJudge]
@[simp] theorem still_pronkCounts (herd : Id24) (s : State) : still (pronkCounts herd s) = still s := by simp [pronkCounts]
@[simp] theorem still_takePronkRequest (v : BitVec 256) (s : State) :
    still (takePronkRequest v s) = still s := by simp [takePronkRequest]
@[simp] theorem still_countPronkDiscard (s : State) : still (countPronkDiscard s) = still s := by simp [countPronkDiscard]
@[simp] theorem still_armAck (c : Cell) (cause : Nat) (s : State) : still (armAck c cause s) = still s := by simp [armAck]
@[simp] theorem still_tapPronk (h phase outcome : Nat) (seq : U32) (fire : HT) (start : U32) (ids : U16 × U16) (count : Nat) (s : State) :
    still (tapPronk h phase outcome seq fire start ids count s) = still s := by simp [tapPronk]
@[simp] theorem still_tapArmed (h outcome : Nat) (s : State) : still (tapArmed h outcome s) = still s := by simp [tapArmed]
@[simp] theorem still_armHerd (h : Nat) (seq : U32) (fire : HT) (start : Nat) (ids : U16 × U16) (origin : Id24) (s : State) :
    still (armHerd h seq fire start ids origin s) = still s := by simp [armHerd]
@[simp] theorem still_refuseArm (h cause : Nat) (c : Cell) (s : State) :
    still (refuseArm h cause c s) = still s := by simp [refuseArm]
@[simp] theorem still_takeArm (h : Nat) (c : Cell) (s : State) :
    still (takeArm h c s) = still s := by
  unfold takeArm
  split <;> simp
@[simp] theorem still_actOn (h : Nat) (c : Cell) (s : State) : still (actOn h c s) = still s := by simp [actOn]
@[simp] theorem still_takeFinal (h : Nat) (c : Cell) (act : State → State) (s : State) (h_act : ∀ u, still (act u) = still u) :
    still (takeFinal h c act s) = still s := by
  unfold takeFinal
  simp [*]
@[simp] theorem still_decideHerd (h : Nat) (s : State) :
    still (decideHerd h s) = still s := by
  unfold decideHerd
  repeat' (first | split | simp)
@[simp] theorem still_arriveZero (h : Nat) (fire : HT) (seq : U32) (s : State) :
    still (arriveZero h fire seq s) = still s := by simp [arriveZero]
@[simp] theorem still_fireHerd (h : Nat) (s : State) : still (fireHerd h s) = still s := by simp [fireHerd]
@[simp] theorem still_takeStep (h : Nat) (seq : U32) (fire : HT) (ids : U16 × U16) (count : Nat) (s : State) :
    still (takeStep h seq fire ids count s) = still s := by simp [takeStep]

/-! ## Pronk -/

@[simp] theorem keeps_wPronkRequest (v : BitVec 256) : (wPronkRequest v).Keeps := by simp [WriteOp.Keeps, wPronkRequest]
@[simp] theorem still_pronkAtDie (i : Instr) (p phase : Nat) (c : Cell) (none_ : State → State) (act : Nat → State → State) (s : State) (h_none_ : ∀ u, still (none_ u) = still u) (h_act : ∀ y0 u, still (act y0 u) = still u) :
    still (pronkAtDie i p phase c none_ act s) = still s := by
  unfold pronkAtDie
  repeat' (first | intro _ | split | simp [*] | rw [still_forAll] | rw [still_onTc] | rw [still_receive])

/-! ## LoadOps -/

@[simp] theorem still_fillParts (h : Nat) (s : State) : still (fillParts h s) = still s := by simp [fillParts]
@[simp] theorem still_setPaths (h : Nat) (f : Nat → BitVec 256 → BitVec 256) (s : State) :
    still (setPaths h f s) = still s := by simp [setPaths]
@[simp] theorem still_tapChange (h action : Nat) (s : State) : still (tapChange h action s) = still s := by simp [tapChange]
@[simp] theorem still_commitLoad (h : Nat) (secure : Bool) (s : State) :
    still (commitLoad h secure s) = still s := by
  unfold commitLoad
  split <;> simp
@[simp] theorem still_releaseHerd (h : Nat) (s : State) : still (releaseHerd h s) = still s := by simp [releaseHerd]

/-! ## Template -/

@[simp] theorem still_onTemplate (d : Dev) (k : Nat) (f : Template → Template) (s : State) :
    still (onTemplate d k f s) = still s := by
  unfold onTemplate
  split <;> simp
@[simp] theorem keeps_wTemplateValid (d : Dev) (k : Nat) (v : U8) : (wTemplateValid d k v).Keeps := by simp [WriteOp.Keeps, wTemplateValid]

/-! ## Herd -/

@[simp] theorem still_chipHalt (ps : List Nat) (c : Cell) (s : State) :
    still (chipHalt ps c s) = still s := by simp [chipHalt]
@[simp] theorem still_takePause (v : BitVec 160) (s : State) : still (takePause v s) = still s := by simp [takePause]
@[simp] theorem keeps_wPauseRequest (v : BitVec 160) : (wPauseRequest v).Keeps := by simp [WriteOp.Keeps, wPauseRequest]
@[simp] theorem still_reepoch (h : Nat) (secure : Bool) (s : State) :
    still (reepoch h secure s) = still s := by
  unfold reepoch
  split <;> simp
@[simp] theorem keeps_wReepochCommit (q : Req) (h : Nat) (v : U8) : (wReepochCommit q h v).Keeps := by simp [WriteOp.Keeps, wReepochCommit, boolCommand]
@[simp] theorem still_takeAdopt (h : Nat) (v : BitVec 192) (s : State) :
    still (takeAdopt h v s) = still s := by simp [takeAdopt]
@[simp] theorem keeps_wDrainAdopt (h : Nat) (v : BitVec 192) : (wDrainAdopt h v).Keeps := by simp [WriteOp.Keeps, wDrainAdopt]
@[simp] theorem keeps_wExpel (h : Nat) (v : U8) : (wExpel h v).Keeps := by simp [WriteOp.Keeps, wExpel, boolCommand]

/-! ## Lane -/

@[simp] theorem still_bypassOn (ps : List Nat) (c : Cell) (s : State) :
    still (bypassOn ps c s) = still s := by simp [bypassOn]

/-! ## HaltOps -/

@[simp] theorem stillFjz_rememberHalt (down sent : Bool) (c : Cell) (x : Fjz) :
    stillFjz (rememberHalt down sent c x) = stillFjz x := by simp [rememberHalt]
@[simp] theorem stillFjz_haltTrigger (c : Cell) (x : Fjz) : stillFjz (haltTrigger c x) = stillFjz x := by simp [haltTrigger]
@[simp] theorem still_haltDownwards (turned : Bool) (c : Cell) (s : State) :
    still (haltDownwards turned c s) = still s := by simp [haltDownwards]
@[simp] theorem still_haltUpwards (c : Cell) (s : State) : still (haltUpwards c s) = still s := by simp [haltUpwards]
@[simp] theorem still_chipTakesHalt (c : Cell) (s : State) : still (chipTakesHalt c s) = still s := by simp [chipTakesHalt]
@[simp] theorem still_chipHaltsNow (herd : Id24) (s : State) : still (chipHaltsNow herd s) = still s := by simp [chipHaltsNow]
@[simp] theorem still_countHaltDiscard (s : State) : still (countHaltDiscard s) = still s := by simp [countHaltDiscard]
@[simp] theorem stillTsu_takeKey (c : Cell) (t : Tsu) : stillTsu (takeKey c t) = stillTsu t := by simp [takeKey]
@[simp] theorem still_tapHalt (h : Nat) (c : Cell) (s : State) : still (tapHalt h c s) = still s := by simp [tapHalt]
@[simp] theorem still_lateHalt (h : Nat) (hh : HT) (origin : Id24) (seq : U16) (s : State) :
    still (lateHalt h hh origin seq s) = still s := by simp [lateHalt]
@[simp] theorem still_applyHalt (h : Nat) (hh : HT) (origin : Id24) (seq : U16) (s : State) :
    still (applyHalt h hh origin seq s) = still s := by simp [applyHalt]
@[simp] theorem still_takeHalt (c : Cell) (more : Nat → State → State) (s : State) (h_more : ∀ y0 u, still (more y0 u) = still u) :
    still (takeHalt c more s) = still s := by
  unfold takeHalt
  repeat' (first | split | simp [*])
@[simp] theorem still_recordPause (origin : Id24) (h : Nat) (s : State) :
    still (recordPause origin h s) = still s := by simp [recordPause]
@[simp] theorem still_raiseHaltedNow (h : Nat) (w : NowStop) (s : State) :
    still (raiseHaltedNow h w s) = still s := by simp [raiseHaltedNow]
@[simp] theorem still_nowReturned (region h : Nat) (abandoned : Bool) (s : State) :
    still (nowReturned region h abandoned s) = still s := by simp [nowReturned]
@[simp] theorem still_stopNow (c : Cell) (h : Nat) (s : State) : still (stopNow c h s) = still s := by simp [stopNow]
@[simp] theorem still_takeNow (c : Cell) (s : State) :
    still (takeNow c s) = still s := by
  unfold takeNow
  repeat' (first | split | simp)
@[simp] theorem still_dieHaltsNow (v : U32) (s : State) :
    still (dieHaltsNow v s) = still s := by
  unfold dieHaltsNow
  repeat' (first | split | simp)

/-! ## Steps -/

@[simp] theorem still_doneSignal (h step : Nat) (d : Desc) (s : State) :
    still (doneSignal h step d s) = still s := by simp [doneSignal]
@[simp] theorem still_stretchOver (region h : Nat) (l : Launched) (d : Desc) (rcc : BitVec 48) (s : State) :
    still (stretchOver region h l d rcc s) = still s := by simp [stretchOver]
@[simp] theorem still_lateStep (d : Desc) (fl : Nat) (s : State) : still (lateStep d fl s) = still s := by simp [lateStep]
@[simp] theorem still_completeStep (region h : Nat) (l : Launched) (rcc : BitVec 48) (s : State) :
    still (completeStep region h l rcc s) = still s := by simp [completeStep]
@[simp] theorem still_stepDone (region h : Nat) (l : Launched) (abandoned : Bool) (rcc : BitVec 48) (s : State) :
    still (stepDone region h l abandoned rcc s) = still s := by
  unfold stepDone
  repeat' (first | split | simp)
@[simp] theorem still_takeDone (region h : Nat) (abandoned : Bool) (rcc : BitVec 48) (s : State) :
    still (takeDone region h abandoned rcc s) = still s := by
  unfold takeDone
  split <;> simp

/-! ## Load -/

@[simp] theorem keeps_wStepDesc (i : Nat) (v : BitVec 512) : (wStepDesc i v).Keeps := by simp [WriteOp.Keeps, wStepDesc]
@[simp] theorem keeps_wLoadCommit (q : Req) (h : Nat) (v : U8) : (wLoadCommit q h v).Keeps := by simp [WriteOp.Keeps, wLoadCommit, boolCommand]
@[simp] theorem keeps_wUnload (h : Nat) (v : U8) : (wUnload h v).Keeps := by simp [WriteOp.Keeps, wUnload, boolCommand]

/-! ## Ledger -/

@[simp] theorem keeps_wLedgerEntry (i : Nat) (v : BitVec 256) (iter : Option U64) : (wLedgerEntry i v iter).Keeps := by simp [WriteOp.Keeps, wLedgerEntry]
@[simp] theorem still_ledgerWrite (q : Req) (op : WriteOp) (v : BitVec 256) (s : State) (hk : op.Keeps) :
    still (ledgerWrite q op v s) = still s := by
  unfold ledgerWrite
  simp [*]
@[simp] theorem still_advPending (region entry : Nat) (amount : U8) (s : State) :
    still (advPending region entry amount s) = still s := by simp [advPending]

/-! ## Sync -/

@[simp] theorem still_signalRecord (code : U16) (halts : Bool) (t : Token) (s : State) :
    still (signalRecord code halts t s) = still s := by simp [signalRecord]
@[simp] theorem still_signalForeign (t : Token) (s : State) : still (signalForeign t s) = still s := by simp [signalForeign]
@[simp] theorem still_tapIngress (t : Token) (s : State) : still (tapIngress t s) = still s := by simp [tapIngress]
@[simp] theorem still_applySignal (t : Token) (s : State) :
    still (applySignal t s) = still s := by
  unfold applySignal
  split <;> simp
@[simp] theorem still_takeSignal (t : Token) (s : State) : still (takeSignal t s) = still s := by simp [takeSignal]
@[simp] theorem still_signalCommand (i : Instr) (op : Nat) (t : Token) (e : Ecc) (s : State) :
    still (signalCommand i op t e s) = still s := by
  unfold signalCommand
  split <;> simp
@[simp] theorem still_placeWatch (slot : Nat) (w : Watch) (s : State) :
    still (placeWatch slot w s) = still s := by simp [placeWatch]
@[simp] theorem still_takeWatch (region : Nat) (tok : BitVec 208) (s : State) :
    still (takeWatch region tok s) = still s := by
  unfold takeWatch
  repeat' (first | split | simp)
@[simp] theorem still_timeOutObject (w : Watch) (s : State) : still (timeOutObject w s) = still s := by simp [timeOutObject]
@[simp] theorem still_timeOutHerd (w : Watch) (s : State) : still (timeOutHerd w s) = still s := by simp [timeOutHerd]
@[simp] theorem still_notifySlot (i : Nat) (s : State) :
    still (notifySlot i s) = still s := by
  unfold notifySlot
  repeat' (first | split | simp)
@[simp] theorem keeps_wSyncReset (h : Nat) (v : U8) : (wSyncReset h v).Keeps := by simp [WriteOp.Keeps, wSyncReset, boolCommand]
@[simp] theorem keeps_wCounterValue (n : Nat) (v : U64) : (wCounterValue n v).Keeps := by simp [WriteOp.Keeps, wCounterValue]
@[simp] theorem keeps_wEventState (n : Nat) (v : U32) : (wEventState n v).Keeps := by simp [WriteOp.Keeps, wEventState]
@[simp] theorem keeps_wEventOversignalClear (n : Nat) (v : U8) : (wEventOversignalClear n v).Keeps := by simp [WriteOp.Keeps, wEventOversignalClear, boolCommand]

/-! ## Bank -/

@[simp] theorem still_raiseBank (h : Nat) (code : U16) (obj waiter : U32) (s : State) :
    still (raiseBank h code obj waiter s) = still s := by simp [raiseBank]

/-! ## TineDie -/

@[simp] theorem still_partUncorrectable (n : Nat) (s : State) :
    still (partUncorrectable n s) = still s := by
  unfold partUncorrectable
  split <;> simp
@[simp] theorem still_countResultDiscard (s : State) : still (countResultDiscard s) = still s := by simp [countResultDiscard]
@[simp] theorem still_countTagDiscard (s : State) : still (countTagDiscard s) = still s := by simp [countTagDiscard]
@[simp] theorem still_takeResult (p : Nat) (kind : BitVec 4) (c : Cell) (s : State) :
    still (takeResult p kind c s) = still s := by
  unfold takeResult
  repeat' (first | split | simp)
@[simp] theorem still_takeMove (p : Nat) (c : Cell) (s : State) :
    still (takeMove p c s) = still s := by
  unfold takeMove
  split
  · simp
  · split <;> simp
@[simp] theorem still_markAbandoned (n : Nat) (round : U16) (s : State) :
    still (markAbandoned n round s) = still s := by simp [markAbandoned]
@[simp] theorem still_takeAbandon (p : Nat) (c : Cell) (s : State) :
    still (takeAbandon p c s) = still s := by
  unfold takeAbandon
  repeat' (first | split | simp)
@[simp] theorem still_failUpTo (h n : Nat) (v : U16) (x0 : Nat) (s : State) :
    still (failUpTo h n v x0 s) = still s := by
  induction x0 generalizing s with
  | zero => rfl
  | succ k ih =>
    unfold failUpTo
    repeat' (first | intro _ | simp [*])
@[simp] theorem still_deliverIsolated (h n : Nat) (v : U16) (s : State) :
    still (deliverIsolated h n v s) = still s := by simp [deliverIsolated]

/-! ## HealthOps -/

@[simp] theorem stillTsu_updateHealth (t : Tsu) : stillTsu (updateHealth t) = stillTsu t := by simp [updateHealth]
@[simp] theorem still_copySteward (herd : Id24) (s : State) : still (copySteward herd s) = still s := by simp [copySteward]
@[simp] theorem still_raiseSteward (code : U16) (herd die : Id24) (round : Nat) (s : State) :
    still (raiseSteward code herd die round s) = still s := by simp [raiseSteward]
@[simp] theorem still_decideExpel (herd die : Id24) (cause : Nat) (health : U16) (s : State) :
    still (decideExpel herd die cause health s) = still s := by simp [decideExpel]
@[simp] theorem still_failDie (herd die : Id24) (cond : Nat) (s : State) :
    still (failDie herd die cond s) = still s := by simp [failDie]
@[simp] theorem still_setQuarantine (herd die : Id24) (on : Bool) (s : State) :
    still (setQuarantine herd die on s) = still s := by simp [setQuarantine]
@[simp] theorem still_suspectDie (herd die : Id24) (health : U16) (s : State) :
    still (suspectDie herd die health s) = still s := by
  unfold suspectDie
  repeat' (first | split | simp)
@[simp] theorem still_clearDie (herd die : Id24) (health : U16) (s : State) :
    still (clearDie herd die health s) = still s := by simp [clearDie]
@[simp] theorem still_convertDie (herd : Id24) (s : State) :
    still (convertDie herd s) = still s := by
  unfold convertDie
  repeat' (first | split | simp)
@[simp] theorem still_timeoutNames (n : Nat) (die : U32) (s : State) :
    still (timeoutNames n die s) = still s := by simp [timeoutNames]
@[simp] theorem still_samplePort (p : Nat) (s : State) :
    still (samplePort p s) = still s := by
  unfold samplePort
  repeat' (first | split | simp)

/-! ## Reserve -/

@[simp] theorem still_onResv (herd : Id24) (template : U16) (f : Resv → Resv) (s : State) :
    still (onResv herd template f s) = still s := by simp [onResv]
@[simp] theorem still_onPathRate (ports : List Nat) (f : U32 → U32) (s : State) :
    still (onPathRate ports f s) = still s := by simp [onPathRate]
@[simp] theorem still_holdNeeds (herd : Id24) (template : U16) (span members p1 : Nat) (home : Bool) (s : State) :
    still (holdNeeds herd template span members p1 home s) = still s := by simp [holdNeeds]
@[simp] theorem still_freeResv (herd : Id24) (template : U16) (s : State) :
    still (freeResv herd template s) = still s := by
  unfold freeResv
  split <;> simp
@[simp] theorem still_reserveDown (template : U16) (c : Cell) (s : State) :
    still (reserveDown template c s) = still s := by simp [reserveDown]
@[simp] theorem still_outcomeUp (r : Resv) (rest : List (Nat × Nat × Nat)) (s : State) :
    still (outcomeUp r rest s) = still s := by simp [outcomeUp]
@[simp] theorem still_numbersUp (r : Resv) (s : State) : still (numbersUp r s) = still s := by simp [numbersUp]
@[simp] theorem still_forgetOmitted (herd : Id24) (template : U16) (draw : Nat) (s : State) :
    still (forgetOmitted herd template draw s) = still s := by simp [forgetOmitted]
@[simp] theorem still_commitResv (herd : Id24) (template : U16) (home : Bool) (s : State) :
    still (commitResv herd template home s) = still s := by
  unfold commitResv
  repeat' (first | intro _ | simp [*] | split | rw [still_forAll])
@[simp] theorem still_endPass (f : LoadFail) (s : State) : still (endPass f s) = still s := by simp [endPass]
@[simp] theorem still_releasePlane (r : Resv) (s : State) : still (releasePlane r s) = still s := by simp [releasePlane]
@[simp] theorem still_combineOutcome (herd : Id24) (template : U16) (s : State) :
    still (combineOutcome herd template s) = still s := by
  unfold combineOutcome
  repeat' (first | split | simp)
@[simp] theorem still_startPass (herd : Id24) (template : U16) (s : State) :
    still (startPass herd template s) = still s := by simp [startPass]
@[simp] theorem still_startReserve (v : BitVec 128) (s : State) :
    still (startReserve v s) = still s := by
  unfold startReserve
  repeat' (first | split | simp)
@[simp] theorem still_startQuery (v : BitVec 128) (s : State) :
    still (startQuery v s) = still s := by
  unfold startQuery
  repeat' (first | split | simp)
@[simp] theorem keeps_wTreeReserve (v : BitVec 128) : (wTreeReserve v).Keeps := by simp [WriteOp.Keeps, wTreeReserve]
@[simp] theorem still_chipRequest (c : Cell) (s : State) :
    still (chipRequest c s) = still s := by
  unfold chipRequest
  repeat' (first | split | simp)
@[simp] theorem still_chipOutcome (p : Nat) (c : Cell) (s : State) :
    still (chipOutcome p c s) = still s := by
  unfold chipOutcome
  repeat' (first | split | simp)
@[simp] theorem still_chipCommit (c : Cell) (s : State) :
    still (chipCommit c s) = still s := by
  unfold chipCommit
  split <;> simp
@[simp] theorem still_chipRelease (c : Cell) (s : State) : still (chipRelease c s) = still s := by simp [chipRelease]
@[simp] theorem still_chipQuery (c : Cell) (s : State) :
    still (chipQuery c s) = still s := by
  unfold chipQuery
  split <;> simp
@[simp] theorem still_dieOutcome (p : Nat) (c : Cell) (rest : List (Nat × Nat × Nat)) (s : State) :
    still (dieOutcome p c rest s) = still s := by simp [dieOutcome]
@[simp] theorem stillTsu_dropAsked (herd : Id24) (template : U16) (pl : Plane) (t : Tsu) :
    stillTsu (dropAsked herd template pl t) = stillTsu t := by simp [dropAsked]
@[simp] theorem still_dieRequest (p : Nat) (c : Cell) (s : State) :
    still (dieRequest p c s) = still s := by
  unfold dieRequest
  split <;> simp
@[simp] theorem stillTsu_dropPath (herd : Id24) (template : U16) (pl : Plane) (t : Tsu) :
    stillTsu (dropPath herd template pl t) = stillTsu t := by simp [dropPath]
@[simp] theorem still_dieCommit (p : Nat) (c : Cell) (s : State) :
    still (dieCommit p c s) = still s := by
  unfold dieCommit
  split <;> simp
@[simp] theorem still_dieRelease (p : Nat) (c : Cell) (s : State) :
    still (dieRelease p c s) = still s := by
  unfold dieRelease
  dsimp only
  repeat' (first | intro _ | split | simp [*])
@[simp] theorem still_dieQuery (p : Nat) (c : Cell) (s : State) : still (dieQuery p c s) = still s := by simp [dieQuery]

/-! ## Health -/

@[simp] theorem still_countSymbols (p n : Nat) (s : State) : still (countSymbols p n s) = still s := by simp [countSymbols]
@[simp] theorem keeps_wMismatchIn (v : U32) : (wMismatchIn v).Keeps := by simp [WriteOp.Keeps, wMismatchIn]
@[simp] theorem keeps_wReportFailed (herd : Nat) (die : U32) : (wReportFailed herd die).Keeps := by simp [WriteOp.Keeps, wReportFailed]

/-! ## Swap -/

@[simp] theorem keeps_wSwapPlan (h : Nat) (v : BitVec 256) : (wSwapPlan h v).Keeps := by simp [WriteOp.Keeps, wSwapPlan]
@[simp] theorem keeps_wSwapCancel (h : Nat) (v : U8) : (wSwapCancel h v).Keeps := by simp [WriteOp.Keeps, wSwapCancel, boolCommand]
@[simp] theorem still_ctrlDown (c : Cell) (s : State) : still (ctrlDown c s) = still s := by simp [ctrlDown]
@[simp] theorem keeps_wSwapBroadcast (v : BitVec 352) : (wSwapBroadcast v).Keeps := by simp [WriteOp.Keeps, wSwapBroadcast]
@[simp] theorem still_cellWrite (p : Nat) (op : WriteOp) (s : State) (hk : op.Keeps) :
    still (cellWrite p op s) = still s := by
  have ⟨h1, h2, h3⟩ := hk
  unfold cellWrite
  repeat' (first | intro _ | simp [*])
@[simp] theorem still_takeCtrl (d : Dev) (p action : Nat) (op : Nat → WriteOp) (c : Cell) (s : State) (hk : ∀ h, (op h).Keeps) :
    still (takeCtrl d p action op c s) = still s := by
  unfold takeCtrl
  repeat' (first | split | simp [*])

/-! ## Halt -/

@[simp] theorem keeps_wHaltNow (d : Dev) (v : U32) : (wHaltNow d v).Keeps := by
  unfold wHaltNow
  refine ⟨?_, ?_, ?_⟩ <;> intro u <;> repeat' (first | intro _ | simp [boolCommand, *] | split)
@[simp] theorem still_onErrs (d : Dev) (f : ErrRing → ErrRing) (s : State) :
    still (onErrs d f s) = still s := by
  unfold onErrs
  split <;> simp
@[simp] theorem keeps_wErrOverflowClear (d : Dev) (v : U8) : (wErrOverflowClear d v).Keeps := by simp [WriteOp.Keeps, wErrOverflowClear, boolCommand]

/-! ## Meter -/

@[simp] theorem stillTsu_applyParams (p : BitVec 64) (t : Tsu) :
    stillTsu (applyParams p t) = stillTsu t := by simp [applyParams]
@[simp] theorem stillTsu_streamPart (i : Nat) (t : Tsu) : stillTsu (streamPart i t) = stillTsu t := by simp [streamPart]
@[simp] theorem stillTsu_dieRecord (t : Tsu) : stillTsu (dieRecord t) = stillTsu t := by simp [dieRecord]
@[simp] theorem still_walkSlot (s : State) : still (walkSlot s) = still s := by simp [walkSlot]
@[simp] theorem stillTsu_tenantRecord (typ : Nat) (w : BitVec 256) (t : Tsu) :
    stillTsu (tenantRecord typ w t) = stillTsu t := by simp [tenantRecord]
@[simp] theorem stillTsu_tenantStatement (id : Id24) (t : Tsu) :
    stillTsu (tenantStatement id t) = stillTsu t := by simp [tenantStatement]
@[simp] theorem keeps_wTenantStatement (v : U32) : (wTenantStatement v).Keeps := by simp [WriteOp.Keeps, wTenantStatement]
@[simp] theorem stillTsu_closeTenant (id : Id24) (t : Tsu) :
    stillTsu (closeTenant id t) = stillTsu t := by
  unfold closeTenant
  split <;> simp
@[simp] theorem keeps_wTenantClose (v : U32) : (wTenantClose v).Keeps := by simp [WriteOp.Keeps, wTenantClose]
@[simp] theorem stillTsu_clearMeter (t : Tsu) : stillTsu (clearMeter t) = stillTsu t := by simp [clearMeter]
@[simp] theorem keeps_wMeterClear (v : U8) : (wMeterClear v).Keeps := by simp [WriteOp.Keeps, wMeterClear, boolCommand]

/-! ## Recorder -/

@[simp] theorem still_drainStaging (s : State) : still (drainStaging s) = still s := by simp [drainStaging]
@[simp] theorem stillFjz_storeRecord (p : Nat) (c : Cell) (x : Fjz) :
    stillFjz (storeRecord p c x) = stillFjz x := by simp [storeRecord]
@[simp] theorem stillFjz_recordTrigger (c : Cell) (x : Fjz) :
    stillFjz (recordTrigger c x) = stillFjz x := by simp [recordTrigger]
@[simp] theorem still_recordLeft (c : Cell) (s : State) : still (recordLeft c s) = still s := by simp [recordLeft]
@[simp] theorem keeps_wRecFreezeNow (v : U8) : (wRecFreezeNow v).Keeps := by simp [WriteOp.Keeps, wRecFreezeNow, boolCommand]
@[simp] theorem keeps_wRecThaw (v : U8) : (wRecThaw v).Keeps := by simp [WriteOp.Keeps, wRecThaw, boolCommand]

/-! ## Replay -/

@[simp] theorem still_pinTime (anchor : HT) (s : State) : still (pinTime anchor s) = still s := by simp [pinTime]
@[simp] theorem still_startReplay (v : BitVec 192) (s : State) : still (startReplay v s) = still s := by simp [startReplay]
@[simp] theorem keeps_wReplaySetup (v : BitVec 192) : (wReplaySetup v).Keeps := by simp [WriteOp.Keeps, wReplaySetup]
@[simp] theorem still_endReplay (s : State) : still (endReplay s) = still s := by simp [endReplay]
@[simp] theorem keeps_wReplayRelease (v : U8) : (wReplayRelease v).Keeps := by simp [WriteOp.Keeps, wReplayRelease, boolCommand]
@[simp] theorem keeps_wReplayFeed (v : Bytes) : (wReplayFeed v).Keeps := by simp [WriteOp.Keeps, wReplayFeed]
@[simp] theorem still_replayFire (h : Nat) (c : Bytes) (s : State) :
    still (replayFire h c s) = still s := by simp [replayFire]
@[simp] theorem still_replayPronk (h : Nat) (c : Bytes) (s : State) :
    still (replayPronk h c s) = still s := by simp [replayPronk]
@[simp] theorem still_replayResult (h : Nat) (c : Bytes) (s : State) :
    still (replayResult h c s) = still s := by simp [replayResult]
@[simp] theorem still_replayChange (h : Nat) (c : Bytes) (s : State) :
    still (replayChange h c s) = still s := by simp [replayChange]
@[simp] theorem still_replayHalt (h : Nat) (c : Bytes) (s : State) :
    still (replayHalt h c s) = still s := by simp [replayHalt]
@[simp] theorem still_replayFault (h : Nat) (c : Bytes) (s : State) :
    still (replayFault h c s) = still s := by simp [replayFault]
@[simp] theorem stillTsu_settleMatch (t : Tsu) : stillTsu (settleMatch t) = stillTsu t := by simp [settleMatch]
@[simp] theorem keeps_wReplayEnd (v : U8) : (wReplayEnd v).Keeps := by simp [WriteOp.Keeps, wReplayEnd, boolCommand]
@[simp] theorem stillTsu_windowError (r : FeedRec) (t : Tsu) :
    stillTsu (windowError r t) = stillTsu t := by simp [windowError]
@[simp] theorem still_applyFed (h : Nat) (r : FeedRec) (s : State) :
    still (applyFed h r s) = still s := by
  unfold applyFed
  split <;> simp
@[simp] theorem still_takeFed (due : Nat → FeedRec → Bool) (s : State) :
    still (takeFed due s) = still s := by
  unfold takeFed
  split
  · simp
  · split <;> simp
@[simp] theorem keeps_wForcedStretch (v : BitVec 3072) : (wForcedStretch v).Keeps := by simp [WriteOp.Keeps, wForcedStretch]

end Sys2Proof.Machine
end

