-- ==== Sys2Proof/Laws/StillWrites.lean ====
section
/-! SUPPORT. The writes of single registers keep what Still.lean names. -/

namespace Sys2Proof.Machine

/-! ## ObjectWrites -/

@[simp] theorem keeps_reg (index sub : Nat) (access : Access) (n : Nat) (v : Bytes) (ok : Nat → Bool) (f : Nat → State → State) (h_f : ∀ y0 u, still (f y0 u) = still u) : (reg index sub access n v ok f).Keeps := by simp_all [WriteOp.Keeps, reg, reg]
@[simp] theorem keeps_regWhen (index sub : Nat) (access : Access) (n : Nat) (v : Bytes) (ready : State → Bool) (ok : Nat → Bool) (f : Nat → State → State) (h_f : ∀ y0 u, still (f y0 u) = still u) : (regWhen index sub access n v ready ok f).Keeps := by simp_all [WriteOp.Keeps, regWhen, reg]
@[simp] theorem keeps_wSelector (d : Dev) (q : Req) (index sub size n : Nat) (v : Bytes) : (wSelector d q index sub size n v).Keeps := by simp_all [WriteOp.Keeps, wSelector, reg]
@[simp] theorem keeps_wDeviceId (d : Dev) (v : Bytes) : (wDeviceId d v).Keeps := by simp_all [WriteOp.Keeps, wDeviceId, regWhen, reg]
@[simp] theorem keeps_wPlane (v : Bytes) : (wPlane v).Keeps := by simp_all [WriteOp.Keeps, wPlane, regWhen, reg]
@[simp] theorem keeps_wFixedZero (sub : Nat) (v : Bytes) : (wFixedZero sub v).Keeps := by simp_all [WriteOp.Keeps, wFixedZero, reg]
@[simp] theorem keeps_wWorldSub (d : Dev) (v : Bytes) : (wWorldSub d v).Keeps := by simp_all [WriteOp.Keeps, wWorldSub, reg]
@[simp] theorem keeps_wWorldHerd (v : Bytes) : (wWorldHerd v).Keeps := by simp_all [WriteOp.Keeps, wWorldHerd, regWhen, reg]
@[simp] theorem keeps_wWorldRegion (i : Nat) (v : Bytes) : (wWorldRegion i v).Keeps := by simp_all [WriteOp.Keeps, wWorldRegion, regWhen, reg]
@[simp] theorem still_setBoardCoeff (x : Nat) (s : State) : still (setBoardCoeff x s) = still s := by simp [setBoardCoeff]
@[simp] theorem still_setP3Limit (d : Dev) (x : Nat) (s : State) :
    still (setP3Limit d x s) = still s := by
  unfold setP3Limit
  split <;> simp
@[simp] theorem still_setLinkEnable (l : Nat) (on : Bool) (s : State) :
    still (setLinkEnable l on s) = still s := by simp [setLinkEnable]
@[simp] theorem still_setOutput (o : Nat) (f : RefOut → RefOut) (s : State) :
    still (setOutput o f s) = still s := by simp [setOutput]
@[simp] theorem keeps_freeReg (base h sub n : Nat) (v : Bytes) (ok : Nat → Bool) (f : Nat → Herd → Herd) : (freeReg base h sub n v ok f).Keeps := by simp_all [WriteOp.Keeps, freeReg, regWhen, reg]
@[simp] theorem keeps_stagedReg (h sub n : Nat) (v : Bytes) (ok : Nat → Bool) (f g : Nat → Herd → Herd) : (stagedReg h sub n v ok f g).Keeps := by simp_all [WriteOp.Keeps, stagedReg, regWhen, reg]
@[simp] theorem keeps_wIterLimit (h : Nat) (v : Bytes) : (wIterLimit h v).Keeps := by simp_all [WriteOp.Keeps, wIterLimit, reg]
@[simp] theorem keeps_wLiveEpoch (h : Nat) (v : Bytes) : (wLiveEpoch h v).Keeps := by simp_all [WriteOp.Keeps, wLiveEpoch, regWhen, reg]
@[simp] theorem keeps_slotReg (d : Dev) (sub k j n : Nat) (v : Bytes) (ok : State → Bool) : (slotReg d sub k j n v ok).Keeps := by simp [WriteOp.Keeps, slotReg]
@[simp] theorem keeps_wMeterParams (v : Bytes) : (wMeterParams v).Keeps := by simp_all [WriteOp.Keeps, wMeterParams, reg]
@[simp] theorem keeps_wMeterCert (v : Bytes) : (wMeterCert v).Keeps := by simp [WriteOp.Keeps, wMeterCert]
@[simp] theorem keeps_wReadOnly (d : Dev) (q : Req) (index sub : Nat) (v : Bytes) : (wReadOnly d q index sub v).Keeps := by simp [WriteOp.Keeps, wReadOnly]

/-! ## Dictionary -/

@[simp] theorem still_tunnelResponse (p : Nat) (r : Rsp) (s : State) :
    still (tunnelResponse p r s) = still s := by
  unfold tunnelResponse
  repeat' (first | split | simp)

/-! ## Tick -/

@[simp] theorem still_cellBoundary (d : Dev) (p : Nat) (s : State) :
    still (cellBoundary d p s) = still s := by
  unfold cellBoundary
  repeat' (first | split | simp)
@[simp] theorem stillTsu_slewDie (t : Tsu) : stillTsu (slewDie t) = stillTsu t := by simp [slewDie]
@[simp] theorem stillFjz_slewChip (x : Fjz) : stillFjz (slewChip x) = stillFjz x := by
  unfold slewChip
  split <;> simp
@[simp] theorem still_freeSlots (s : State) : still (freeSlots s) = still s := by simp [freeSlots]

end Sys2Proof.Machine
end

