-- ==== Sys2Proof/Laws/TimeStays.lean ====
section
/-! SUPPORT. What moves neither time nor plane leaves the time core as it was: one lemma per operation. -/

namespace Sys2Proof.Machine

@[simp] theorem ite_tc (c : Prop) [Decidable c] (a b : State) : (if c then a else b).tsu.tc = if c then a.tsu.tc else b.tsu.tc := by
  split <;> rfl
@[simp] theorem ite_Tsu_tc (c : Prop) [Decidable c] (a b : Tsu) : (if c then a else b).tc = if c then a.tc else b.tc := by
  split <;> rfl
@[simp] theorem forAll_tc {α : Type} (xs : List α) (f : α → State → State) (s : State) (h : ∀ a b, (f a b).tsu.tc = b.tsu.tc) :
    (forAll xs f s).tsu.tc = s.tsu.tc := forAll_keeps (fun s : State => s.tsu.tc) f h xs s
@[simp] theorem foldl_tc {α : Type} (xs : List α) (f : State → α → State) (s : State) (h : ∀ b a, (f b a).tsu.tc = b.tsu.tc) :
    (xs.foldl f s).tsu.tc = s.tsu.tc := by
  induction xs generalizing s with
  | nil => rfl
  | cons x xs ih => exact (ih (f s x)).trans (h s x)
@[simp] theorem forAll_Tsu_tc {α : Type} (xs : List α) (f : α → Tsu → Tsu) (t : Tsu) (h : ∀ a b, (f a b).tc = b.tc) :
    (forAll xs f t).tc = t.tc := forAll_keeps (fun t : Tsu => t.tc) f h xs t
@[simp] theorem foldl_Tsu_tc {α : Type} (xs : List α) (f : Tsu → α → Tsu) (t : Tsu) (h : ∀ b a, (f b a).tc = b.tc) :
    (xs.foldl f t).tc = t.tc := by
  induction xs generalizing t with
  | nil => rfl
  | cons x xs ih => exact (ih (f t x)).trans (h t x)
@[simp] theorem onTsu_tc (f : Tsu → Tsu) (s : State) (h : ∀ t, (f t).tc = t.tc) : (onTsu f s).tsu.tc = s.tsu.tc := h _
@[simp] theorem onFjz_tc (f : Fjz → Fjz) (s : State) : (onFjz f s).tsu.tc = s.tsu.tc := (rfl)

/-! ## Flags -/

@[simp] theorem tc_setIrq (t : Tsu) (bit : Nat) : (setIrq t bit).tc = t.tc := by simp [setIrq]

/-! ## Order -/

@[simp] theorem tc_inTurn (c : Instr) (act : State → State) (s : State) (h_act : ∀ u, (act u).tsu.tc = u.tsu.tc) :
    (inTurn c act s).tsu.tc = s.tsu.tc := by simp [inTurn, *]

/-! ## Tokens -/

@[simp] theorem tc_fromRegion (n q : Nat) (i : Instr) (act : State → State) (s : State) (h_act : ∀ u, (act u).tsu.tc = u.tsu.tc) :
    (fromRegion n q i act s).tsu.tc = s.tsu.tc := by
  unfold fromRegion
  repeat' (first | split | simp [*])
@[simp] theorem tc_putOut (n q : Nat) (o : Out) (s : State) : (putOut n q o s).tsu.tc = s.tsu.tc := by simp [putOut]
@[simp] theorem tc_toRegion (n q : Nat) (o : Out) (s : State) :
    (toRegion n q o s).tsu.tc = s.tsu.tc := by simp [toRegion]
@[simp] theorem tc_readOut (n q : Nat) (s : State) :
    (readOut n q s).tsu.tc = s.tsu.tc := by
  unfold readOut
  repeat' (first | split | simp)
@[simp] theorem tc_offerTokens (n : Nat) (s : State) : (offerTokens n s).tsu.tc = s.tsu.tc := by simp [offerTokens]
@[simp] theorem tc_serveQueues (s : State) : (serveQueues s).tsu.tc = s.tsu.tc := by simp [serveQueues]

/-! ## Records -/

@[simp] theorem tc_tap (kind : Nat) (data : Bytes) (s : State) : (tap kind data s).tsu.tc = s.tsu.tc := by simp [tap]
@[simp] theorem tc_tapHerd (kind h : Nat) (content : Bytes) (s : State) :
    (tapHerd kind h content s).tsu.tc = s.tsu.tc := by simp [tapHerd]
@[simp] theorem tc_enterErr (e : ErrRec × Bytes) (s : State) : (enterErr e s).tsu.tc = s.tsu.tc := by simp [enterErr]
@[simp] theorem tc_enterErrs (s : State) : (enterErrs s).tsu.tc = s.tsu.tc := by simp [enterErrs]
@[simp] theorem tc_raise (r : ErrRec) (s : State) : (raise r s).tsu.tc = s.tsu.tc := by simp [raise]
@[simp] theorem tc_raiseHerd (h : Nat) (code : U16) (halts : Bool) (obj waiter : U32) (round : Nat) (detail : Nat) (s : State) :
    (raiseHerd h code halts obj waiter round detail s).tsu.tc = s.tsu.tc := by simp [raiseHerd]
@[simp] theorem tc_raiseFjz (r : ErrRec) (s : State) : (raiseFjz r s).tsu.tc = s.tsu.tc := by simp [raiseFjz]
@[simp] theorem tc_raiseOn_die (r : ErrRec) (s : State) : (raiseOn .tsu r s).tsu.tc = s.tsu.tc := by simp [raiseOn]
@[simp] theorem tc_raiseOn_chip (r : ErrRec) (s : State) : (raiseOn .fjz r s).tsu.tc = s.tsu.tc := by simp [raiseOn]
@[simp] theorem tc_State_fresh (s : State) : (State.fresh s).tsu.tc = s.tsu.tc := by simp [State.fresh]

/-! ## Ports -/

@[simp] theorem tc_sendOn_die (p : Nat) (bypass : Bool) (c : Cell) (s : State) :
    (sendOn .tsu p bypass c s).tsu.tc = s.tsu.tc := by simp [sendOn]
@[simp] theorem tc_sendOn_chip (p : Nat) (bypass : Bool) (c : Cell) (s : State) :
    (sendOn .fjz p bypass c s).tsu.tc = s.tsu.tc := by simp [sendOn]
@[simp] theorem tc_send_die (p : Nat) (c : Cell) (s : State) : (send .tsu p c s).tsu.tc = s.tsu.tc := by simp [send]
@[simp] theorem tc_send_chip (p : Nat) (c : Cell) (s : State) : (send .fjz p c s).tsu.tc = s.tsu.tc := by simp [send]
@[simp] theorem tc_sendFirst (p : Nat) (c : Cell) (s : State) :
    (sendFirst p c s).tsu.tc = s.tsu.tc := by simp [sendFirst]
@[simp] theorem tc_sendAll_die (ps : List Nat) (bypass : Bool) (c : Cell) (s : State) :
    (sendAll .tsu ps bypass c s).tsu.tc = s.tsu.tc := by simp [sendAll]
@[simp] theorem tc_sendAll_chip (ps : List Nat) (bypass : Bool) (c : Cell) (s : State) :
    (sendAll .fjz ps bypass c s).tsu.tc = s.tsu.tc := by simp [sendAll]
@[simp] theorem tc_sendBoth (c : Cell) (s : State) : (sendBoth c s).tsu.tc = s.tsu.tc := by simp [sendBoth]
@[simp] theorem tc_receive_die (i : Instr) (p : Nat) (types : List Nat) (c : Cell) (act : State → State) (s : State) (h_act : ∀ u, (act u).tsu.tc = u.tsu.tc) :
    (receive i .tsu p types c act s).tsu.tc = s.tsu.tc := by simp [receive, *]
@[simp] theorem tc_receive_chip (i : Instr) (p : Nat) (types : List Nat) (c : Cell) (act : State → State) (s : State) (h_act : ∀ u, (act u).tsu.tc = u.tsu.tc) :
    (receive i .fjz p types c act s).tsu.tc = s.tsu.tc := by simp [receive, *]
@[simp] theorem tc_sendUp (bypass : Bool) (c : Cell) (s : State) :
    (sendUp bypass c s).tsu.tc = s.tsu.tc := by
  unfold sendUp
  split <;> simp

/-! ## MeterLog -/

@[simp] theorem tc_enterRing (b : BitVec 768) (t : Tsu) : (enterRing b t).tc = t.tc := by simp [enterRing]
@[simp] theorem tc_moveFinal (t : Tsu) :
    (moveFinal t).tc = t.tc := by
  unfold moveFinal
  repeat' (first | split | simp)
@[simp] theorem tc_moveFinals (t : Tsu) : (moveFinals t).tc = t.tc := by simp [moveFinals]
@[simp] theorem tc_dropRecord (t : Tsu) : (dropRecord t).tc = t.tc := by simp [dropRecord]
@[simp] theorem tc_issue (typ flags : Nat) (rest : List (Nat × Nat × Nat)) (recNs : Nat) (t : Tsu) :
    (issue typ flags rest recNs t).tc = t.tc := by simp [issue]
@[simp] theorem tc_issueTamper (e : BitVec 128) (recNs : Nat) (t : Tsu) :
    (issueTamper e recNs t).tc = t.tc := by simp [issueTamper]
@[simp] theorem tc_logTamper (code detail aux : Nat) (t : Tsu) :
    (logTamper code detail aux t).tc = t.tc := by simp [logTamper]
@[simp] theorem tc_bootRecord (t : Tsu) : (bootRecord t).tc = t.tc := by simp [bootRecord]

/-! ## Agent -/

@[simp] theorem tc_setSelector_die (q : Req) (index sub v : Nat) (s : State) :
    (setSelector .tsu q index sub v s).tsu.tc = s.tsu.tc := by simp [setSelector]
@[simp] theorem tc_setSelector_chip (q : Req) (index sub v : Nat) (s : State) :
    (setSelector .fjz q index sub v s).tsu.tc = s.tsu.tc := by simp [setSelector]
@[simp] theorem tc_sendMessage_die (p typ addr : Nat) (m : Bytes) (s : State) :
    (sendMessage .tsu p typ addr m s).tsu.tc = s.tsu.tc := by simp [sendMessage]
@[simp] theorem tc_sendMessage_chip (p typ addr : Nat) (m : Bytes) (s : State) :
    (sendMessage .fjz p typ addr m s).tsu.tc = s.tsu.tc := by simp [sendMessage]
@[simp] theorem tc_deliverRsp_die (r : Rsp) (s : State) :
    (deliverRsp .tsu r s).tsu.tc = s.tsu.tc := by
  unfold deliverRsp
  split <;> simp
@[simp] theorem tc_deliverRsp_chip (r : Rsp) (s : State) :
    (deliverRsp .fjz r s).tsu.tc = s.tsu.tc := by
  unfold deliverRsp
  split <;> simp
@[simp] theorem tc_repeatRsp_die (q : Req) (r : Rsp) (s : State) :
    (repeatRsp .tsu q r s).tsu.tc = s.tsu.tc := by simp [repeatRsp]
@[simp] theorem tc_repeatRsp_chip (q : Req) (r : Rsp) (s : State) :
    (repeatRsp .fjz q r s).tsu.tc = s.tsu.tc := by simp [repeatRsp]
@[simp] theorem tc_appliedRsp_die (q : Req) (index sub status : Nat) (s : State) :
    (appliedRsp .tsu q index sub status s).tsu.tc = s.tsu.tc := by simp [appliedRsp]
@[simp] theorem tc_appliedRsp_chip (q : Req) (index sub status : Nat) (s : State) :
    (appliedRsp .fjz q index sub status s).tsu.tc = s.tsu.tc := by simp [appliedRsp]
@[simp] theorem tc_countTaken_die (q : Req) (status : Nat) (s : State) :
    (countTaken .tsu q status s).tsu.tc = s.tsu.tc := by simp [countTaken]
@[simp] theorem tc_countTaken_chip (q : Req) (status : Nat) (s : State) :
    (countTaken .fjz q status s).tsu.tc = s.tsu.tc := by simp [countTaken]
@[simp] theorem tc_park_die (q : Req) (op : WriteOp) (c : Commit) (s : State) (h1 : ∀ u, (op.apply u).tsu.tc = u.tsu.tc) (h2 : ∀ u, (op.accept u).tsu.tc = u.tsu.tc) (h3 : ∀ u, (op.refuse u).tsu.tc = u.tsu.tc) :
    (park .tsu q op c s).tsu.tc = s.tsu.tc := by
  unfold park
  split <;> simp
@[simp] theorem tc_park_chip (q : Req) (op : WriteOp) (c : Commit) (s : State) (h1 : ∀ u, (op.apply u).tsu.tc = u.tsu.tc) (h2 : ∀ u, (op.accept u).tsu.tc = u.tsu.tc) (h3 : ∀ u, (op.refuse u).tsu.tc = u.tsu.tc) :
    (park .fjz q op c s).tsu.tc = s.tsu.tc := by
  unfold park
  split <;> simp
@[simp] theorem tc_logSealed_die (access : Access) (st index sub : Nat) (s : State) :
    (logSealed .tsu access st index sub s).tsu.tc = s.tsu.tc := by simp [logSealed]
@[simp] theorem tc_logSealed_chip (access : Access) (st index sub : Nat) (s : State) :
    (logSealed .fjz access st index sub s).tsu.tc = s.tsu.tc := by simp [logSealed]
@[simp] theorem tc_serveWrite_die (q : Req) (op : WriteOp) (s : State) (h1 : ∀ u, (op.apply u).tsu.tc = u.tsu.tc) (h2 : ∀ u, (op.accept u).tsu.tc = u.tsu.tc) (h3 : ∀ u, (op.refuse u).tsu.tc = u.tsu.tc) :
    (serveWrite .tsu q op s).tsu.tc = s.tsu.tc := by
  unfold serveWrite
  repeat' (first | split | simp [*])
@[simp] theorem tc_serveWrite_chip (q : Req) (op : WriteOp) (s : State) (h1 : ∀ u, (op.apply u).tsu.tc = u.tsu.tc) (h2 : ∀ u, (op.accept u).tsu.tc = u.tsu.tc) (h3 : ∀ u, (op.refuse u).tsu.tc = u.tsu.tc) :
    (serveWrite .fjz q op s).tsu.tc = s.tsu.tc := by
  unfold serveWrite
  repeat' (first | split | simp [*])
@[simp] theorem tc_serveRead_die (q : Req) (op : ReadOp) (s : State) (h1 : ∀ u, (op.effect u).tsu.tc = u.tsu.tc) :
    (serveRead .tsu q op s).tsu.tc = s.tsu.tc := by
  unfold serveRead
  repeat' (first | split | simp [*])
@[simp] theorem tc_serveRead_chip (q : Req) (op : ReadOp) (s : State) (h1 : ∀ u, (op.effect u).tsu.tc = u.tsu.tc) :
    (serveRead .fjz q op s).tsu.tc = s.tsu.tc := by
  unfold serveRead
  repeat' (first | split | simp [*])
@[simp] theorem tc_tunnelOn (p : Nat) (q : Req) (index sub : Nat) (v : Bytes) (s : State) :
    (tunnelOn p q index sub v s).tsu.tc = s.tsu.tc := by simp [tunnelOn]
@[simp] theorem tc_countFragments_die (p n : Nat) (s : State) :
    (countFragments .tsu p n s).tsu.tc = s.tsu.tc := by simp [countFragments]
@[simp] theorem tc_countFragments_chip (p n : Nat) (s : State) :
    (countFragments .fjz p n s).tsu.tc = s.tsu.tc := by simp [countFragments]
@[simp] theorem tc_tunnelCells (q : Req) (n : Nat) (s : State) :
    (tunnelCells q n s).tsu.tc = s.tsu.tc := by
  unfold tunnelCells
  split <;> simp
@[simp] theorem tc_takeRequest_die (q : Req) (index sub : Nat) (v : Bytes) (serve : State → State) (s : State) (h_serve : ∀ u, (serve u).tsu.tc = u.tsu.tc) :
    (takeRequest .tsu q index sub v serve s).tsu.tc = s.tsu.tc := by
  unfold takeRequest
  repeat' (first | split | simp [*])
@[simp] theorem tc_takeRequest_chip (q : Req) (index sub : Nat) (v : Bytes) (serve : State → State) (s : State) (h_serve : ∀ u, (serve u).tsu.tc = u.tsu.tc) :
    (takeRequest .fjz q index sub v serve s).tsu.tc = s.tsu.tc := by
  unfold takeRequest
  repeat' (first | split | simp [*])
@[simp] theorem tc_agentWrite_die (q : Req) (op : WriteOp) (s : State) (h1 : ∀ u, (op.apply u).tsu.tc = u.tsu.tc) (h2 : ∀ u, (op.accept u).tsu.tc = u.tsu.tc) (h3 : ∀ u, (op.refuse u).tsu.tc = u.tsu.tc) :
    (agentWrite .tsu q op s).tsu.tc = s.tsu.tc := by simp [agentWrite, *]
@[simp] theorem tc_agentWrite_chip (q : Req) (op : WriteOp) (s : State) (h1 : ∀ u, (op.apply u).tsu.tc = u.tsu.tc) (h2 : ∀ u, (op.accept u).tsu.tc = u.tsu.tc) (h3 : ∀ u, (op.refuse u).tsu.tc = u.tsu.tc) :
    (agentWrite .fjz q op s).tsu.tc = s.tsu.tc := by simp [agentWrite, *]
@[simp] theorem tc_agentRead_die (q : Req) (op : ReadOp) (s : State) (h1 : ∀ u, (op.effect u).tsu.tc = u.tsu.tc) :
    (agentRead .tsu q op s).tsu.tc = s.tsu.tc := by simp [agentRead, *]
@[simp] theorem tc_agentRead_chip (q : Req) (op : ReadOp) (s : State) (h1 : ∀ u, (op.effect u).tsu.tc = u.tsu.tc) :
    (agentRead .fjz q op s).tsu.tc = s.tsu.tc := by simp [agentRead, *]

/-! ## HerdOps -/

@[simp] theorem tc_sendHalt (kind span : Nat) (herd : Id24) (run : U8) (h : HT) (cause : U16) (s : State) :
    (sendHalt kind span herd run h cause s).tsu.tc = s.tsu.tc := by simp [sendHalt]
@[simp] theorem tc_haltHerd_prime (h : Nat) (code : U16) (s : State) :
    (haltHerd' h code s).tsu.tc = s.tsu.tc := by simp [haltHerd']
@[simp] theorem tc_faultHerd (h : Nat) (code : U16) (obj waiter : U32) (round detail : Nat) (s : State) :
    (faultHerd h code obj waiter round detail s).tsu.tc = s.tsu.tc := by simp [faultHerd]

/-! ## SyncOps -/

@[simp] theorem tc_onCounter (n : Nat) (f : CounterSt → CounterSt) (s : State) :
    (onCounter n f s).tsu.tc = s.tsu.tc := by simp [onCounter]
@[simp] theorem tc_onEvent (n : Nat) (f : EventSt → EventSt) (s : State) :
    (onEvent n f s).tsu.tc = s.tsu.tc := by simp [onEvent]
@[simp] theorem tc_onWatch (n : Nat) (f : Watch → Watch) (s : State) :
    (onWatch n f s).tsu.tc = s.tsu.tc := by simp [onWatch]
@[simp] theorem tc_countCorrected (e : Ecc) (s : State) :
    (countCorrected e s).tsu.tc = s.tsu.tc := by simp [countCorrected]
@[simp] theorem tc_countLate (s : State) : (countLate s).tsu.tc = s.tsu.tc := by simp [countLate]
@[simp] theorem tc_endWatch (slot : Nat) (status : Nat) (outcome : BitVec 3) (value : BitVec 48) (s : State) :
    (endWatch slot status outcome value s).tsu.tc = s.tsu.tc := by simp [endWatch]
@[simp] theorem tc_purgeHerd (h : Nat) (s : State) : (purgeHerd h s).tsu.tc = s.tsu.tc := by simp [purgeHerd]
@[simp] theorem tc_endObjectWatches (isEvent : Bool) (n status : Nat) (outcome : BitVec 3) (s : State) :
    (endObjectWatches isEvent n status outcome s).tsu.tc = s.tsu.tc := by simp [endObjectWatches]
@[simp] theorem tc_syncFault (owner : Option Nat) (obj : U32) (s : State) :
    (syncFault owner obj s).tsu.tc = s.tsu.tc := by
  unfold syncFault
  split <;> simp
@[simp] theorem tc_syncUncorrectable (isEvent : Bool) (n : Nat) (s : State) :
    (syncUncorrectable isEvent n s).tsu.tc = s.tsu.tc := by simp [syncUncorrectable]
@[simp] theorem tc_watchUncorrectable (slot : Nat) (s : State) :
    (watchUncorrectable slot s).tsu.tc = s.tsu.tc := by simp [watchUncorrectable]
@[simp] theorem tc_syncFaults (e : Ecc) (s : State) :
    (syncFaults e s).tsu.tc = s.tsu.tc := by
  unfold syncFaults
  repeat' (first | intro _ | simp [*] | split | rw [forAll_tc])
@[simp] theorem tc_lateSignal (h : Nat) (obj source : U32) (seen : Bool) (s : State) :
    (lateSignal h obj source seen s).tsu.tc = s.tsu.tc := by simp [lateSignal]
@[simp] theorem tc_signalCounter (h n : Nat) (source : U32) (f : BitVec 48 → BitVec 48) (s : State) :
    (signalCounter h n source f s).tsu.tc = s.tsu.tc := by simp [signalCounter]
@[simp] theorem tc_signalEvent (h n : Nat) (source : U32) (s : State) :
    (signalEvent h n source s).tsu.tc = s.tsu.tc := by simp [signalEvent]
@[simp] theorem tc_claimForWatch (n : Nat) (s : State) : (claimForWatch n s).tsu.tc = s.tsu.tc := by simp [claimForWatch]
@[simp] theorem tc_settleValues (s : State) : (settleValues s).tsu.tc = s.tsu.tc := by simp [settleValues]
@[simp] theorem tc_evalWatches (s : State) : (evalWatches s).tsu.tc = s.tsu.tc := by simp [evalWatches]
@[simp] theorem tc_clearClaimed (s : State) : (clearClaimed s).tsu.tc = s.tsu.tc := by simp [clearClaimed]
@[simp] theorem tc_syncReset (h : Nat) (s : State) : (syncReset h s).tsu.tc = s.tsu.tc := by simp [syncReset]

/-! ## MeterOps -/

@[simp] theorem tc_setEntry (i : Nat) (e : BitVec 256) (s : State) :
    (setEntry i e s).tsu.tc = s.tsu.tc := by simp [setEntry]
@[simp] theorem tc_raiseMeter (code : U16) (obj waiter : U32) (herd : Id24) (detail : Nat) (s : State) :
    (raiseMeter code obj waiter herd detail s).tsu.tc = s.tsu.tc := by simp [raiseMeter]
@[simp] theorem tc_checkCopies {α : Type} [DecidableEq α] (badA badB : Bool) (w : Copies α) (s : State) :
    (checkCopies badA badB w s).tsu.tc = s.tsu.tc := by simp [checkCopies]
@[simp] theorem tc_checkSlot (badA badB : Bool) (i : Nat) (s : State) :
    (checkSlot badA badB i s).tsu.tc = s.tsu.tc := by simp [checkSlot]
@[simp] theorem tc_meterFaults (e : Ecc) (s : State) :
    (meterFaults e s).tsu.tc = s.tsu.tc := by
  unfold meterFaults
  repeat' (first | intro _ | simp [*] | split | rw [forAll_tc])
@[simp] theorem tc_ignored (t : Tsu) : (ignored t).tc = t.tc := by simp [ignored]
@[simp] theorem tc_meterEvent (f : Tsu → Tsu) (t : Tsu) (h_f : ∀ u, (f u).tc = u.tc) :
    (meterEvent f t).tc = t.tc := by simp [meterEvent, *]
@[simp] theorem tc_activate (i : Nat) (stream : U32) (tenant : Id24) (ns : Nat) (t : Tsu) :
    (activate i stream tenant ns t).tc = t.tc := by simp [activate]
@[simp] theorem tc_takeSlot (i : Nat) (e : BitVec 256) (ns : Nat) (t : Tsu) :
    (takeSlot i e ns t).tc = t.tc := by simp [takeSlot]
@[simp] theorem tc_takeEntry (i : Nat) (s : State) : (takeEntry i s).tsu.tc = s.tsu.tc := by simp [takeEntry]
@[simp] theorem tc_takeUnreadable (i : Nat) (t : Tsu) : (takeUnreadable i t).tc = t.tc := by simp [takeUnreadable]
@[simp] theorem tc_finalRecord (i endState : Nat) (herd : Id24) (t : Tsu) :
    (finalRecord i endState herd t).tc = t.tc := by simp [finalRecord]

/-! ## LedgerOps -/

@[simp] theorem tc_ledgerOpOn (h op amount ns i : Nat) (s : State) :
    (ledgerOpOn h op amount ns i s).tsu.tc = s.tsu.tc := by
  unfold ledgerOpOn
  split <;> simp
@[simp] theorem tc_autoTake (i : Nat) (s : State) : (autoTake i s).tsu.tc = s.tsu.tc := by simp [autoTake]
@[simp] theorem tc_passEntry (p : LedgerOp) (rank i : Nat) (s : State) :
    (passEntry p rank i s).1.tsu.tc = s.tsu.tc := by
  unfold passEntry
  repeat' (first | split | simp)
@[simp] theorem tc_ledgerFault (h i : Nat) (s : State) : (ledgerFault h i s).tsu.tc = s.tsu.tc := by simp [ledgerFault]
@[simp] theorem tc_passBad (p : LedgerOp) (i : Nat) (s : State) : (passBad p i s).tsu.tc = s.tsu.tc := by simp [passBad]
@[simp] theorem tc_passChunk (fuel room : Nat) (p : LedgerOp) (s : State) :
    (passChunk fuel room p s).1.tsu.tc = s.tsu.tc := by
  induction fuel generalizing room p s with
  | zero => rfl
  | succ k ih =>
    unfold passChunk
    dsimp only
    split
    · rfl
    · split
      · rfl
      · rw [ih]
        split <;> simp
@[simp] theorem tc_drainEnded (p : LedgerOp) (s : State) : (drainEnded p s).tsu.tc = s.tsu.tc := by simp [drainEnded]
@[simp] theorem tc_passEnded (p : LedgerOp) (s : State) :
    (passEnded p s).tsu.tc = s.tsu.tc := by
  unfold passEnded
  split <;> simp
@[simp] theorem tc_visitPass (h : Nat) (p : LedgerOp) (r : State × List LedgerOp) :
    (visitPass h p r).1.tsu.tc = r.1.tsu.tc := by
  unfold visitPass
  dsimp only
  split
  · rfl
  · split <;> simp  -- walk
@[simp] theorem tc_runPasses (h : Nat) (s : State) :
    (runPasses h s).tsu.tc = s.tsu.tc := by
  have walk : ∀ (ps : List LedgerOp) (r : State × List LedgerOp),
      (ps.foldl (fun r p => visitPass h p r) r).1.tsu.tc = r.1.tsu.tc := by
    intro ps
    induction ps with
    | nil => intro r; rfl
    | cons p ps ih => intro r; rw [List.foldl_cons, ih]; simp
  unfold runPasses
  simp [walk]
@[simp] theorem tc_addPass (p : LedgerOp) (s : State) : (addPass p s).tsu.tc = s.tsu.tc := by simp [addPass]
@[simp] theorem tc_beginPass (h g : Nat) (act : GroupAct) (ns : Nat) (s : State) :
    (beginPass h g act ns s).tsu.tc = s.tsu.tc := by simp [beginPass]
@[simp] theorem tc_beginAll (h : Nat) (act : GroupAct) (ns : Nat) (s : State) :
    (beginAll h act ns s).tsu.tc = s.tsu.tc := by simp [beginAll]
@[simp] theorem tc_openGroup (h g ns : Nat) (s : State) : (openGroup h g ns s).tsu.tc = s.tsu.tc := by simp [openGroup]
@[simp] theorem tc_closeGroup (t0 : Tsu) (h g ns : Nat) (s : State) :
    (closeGroup t0 h g ns s).tsu.tc = s.tsu.tc := by
  unfold closeGroup
  split <;> simp
@[simp] theorem tc_autoPass (h g ns : Nat) (s : State) : (autoPass h g ns s).tsu.tc = s.tsu.tc := by simp [autoPass]
@[simp] theorem tc_renewOpen (t0 : Tsu) (h ns : Nat) (s : State) :
    (renewOpen t0 h ns s).tsu.tc = s.tsu.tc := by
  unfold renewOpen
  repeat' (first | intro _ | simp [*] | split | rw [forAll_tc])
@[simp] theorem tc_closeHerd (t0 : Tsu) (h : Nat) (s : State) :
    (closeHerd t0 h s).tsu.tc = s.tsu.tc := by simp [closeHerd]
@[simp] theorem tc_finishPasses (h : Nat) (s : State) : (finishPasses h s).tsu.tc = s.tsu.tc := by simp [finishPasses]
@[simp] theorem tc_unloadEntry (herd : Id24) (h i : Nat) (s : State) :
    (unloadEntry herd h i s).tsu.tc = s.tsu.tc := by simp [unloadEntry]
@[simp] theorem tc_unloadEntries (h : Nat) (s : State) : (unloadEntries h s).tsu.tc = s.tsu.tc := by simp [unloadEntries]
@[simp] theorem tc_applyLedger (i : Nat) (new : BitVec 256) (s : State) :
    (applyLedger i new s).tsu.tc = s.tsu.tc := by
  unfold applyLedger
  repeat' (first | split | simp)
@[simp] theorem tc_applyHeld (w : HeldWrite) (s : State) : (applyHeld w s).tsu.tc = s.tsu.tc := by simp [applyHeld]
@[simp] theorem tc_applyHeldOf (h : Nat) (due : HeldWrite → Bool) (s : State) :
    (applyHeldOf h due s).tsu.tc = s.tsu.tc := by simp [applyHeldOf]

/-! ## RunOps -/

@[simp] theorem tc_takePlan (h : Nat) (plan : BitVec 256) (s : State) :
    (takePlan h plan s).tsu.tc = s.tsu.tc := by simp [takePlan]
@[simp] theorem tc_abortSwap (h : Nat) (cause : U32) (s : State) :
    (abortSwap h cause s).tsu.tc = s.tsu.tc := by simp [abortSwap]
@[simp] theorem tc_takeCancel (h : Nat) (s : State) : (takeCancel h s).tsu.tc = s.tsu.tc := by simp [takeCancel]
@[simp] theorem tc_fetchFailed (h : Nat) (s : State) :
    (fetchFailed h s).tsu.tc = s.tsu.tc := by
  unfold fetchFailed
  repeat' (first | split | simp)
@[simp] theorem tc_swapPhase4 (h : Nat) (s : State) : (swapPhase4 h s).tsu.tc = s.tsu.tc := by simp [swapPhase4]
@[simp] theorem tc_applyPendingWrite (w : PendingWrite) (s : State) :
    (applyPendingWrite w s).tsu.tc = s.tsu.tc := by simp [applyPendingWrite]
@[simp] theorem tc_endRun (h : Nat) (st : HerdState) (s : State) : (endRun h st s).tsu.tc = s.tsu.tc := by simp [endRun]
@[simp] theorem tc_leaveHerd (h cause : Nat) (s : State) : (leaveHerd h cause s).tsu.tc = s.tsu.tc := by simp [leaveHerd]
@[simp] theorem tc_departHerds (cause : Nat) (s : State) :
    (departHerds cause s).tsu.tc = s.tsu.tc := by
  unfold departHerds
  repeat' (first | intro _ | simp [*] | split | rw [forAll_tc])
@[simp] theorem tc_startResult (h : Nat) (ok : Bool) (s : State) :
    (startResult h ok s).tsu.tc = s.tsu.tc := by simp [startResult]

/-! ## TineOps -/

@[simp] theorem tc_replayDiff (h : Nat) (obj : U32) (round : U16) (s : State) :
    (replayDiff h obj round s).tsu.tc = s.tsu.tc := by simp [replayDiff]
@[simp] theorem tc_compareArrival (own : Bool) (h : Nat) (a : U16 × U16 × U8 × U8 × U64) (s : State) :
    (compareArrival own h a s).tsu.tc = s.tsu.tc := by
  unfold compareArrival
  repeat' (first | split | simp)
@[simp] theorem tc_compareResult (own : Bool) (h : Nat) (content : Bytes) (s : State) :
    (compareResult own h content s).tsu.tc = s.tsu.tc := by
  unfold compareResult
  repeat' (first | split | simp)
@[simp] theorem tc_sendPart (n : Nat) (kind : BitVec 4) (round : U16) (replay first : Bool) (cause : BitVec 3) (members : Id24) (deadline : U64) (origin : Id24) (payload : Payload) (s : State) :
    (sendPart n kind round replay first cause members deadline origin payload s).tsu.tc = s.tsu.tc := by
  unfold sendPart
  split <;> simp
@[simp] theorem tc_queueArrival (n : Nat) (kind : BitVec 4) (cause : BitVec 3) (members : Id24) (deadline : U64) (payload : Payload) (s : State) :
    (queueArrival n kind cause members deadline payload s).tsu.tc = s.tsu.tc := by simp [queueArrival]
@[simp] theorem tc_failRound (n : Nat) (cause : BitVec 3) (s : State) :
    (failRound n cause s).tsu.tc = s.tsu.tc := by
  unfold failRound
  split <;> simp
@[simp] theorem tc_completeRounds (x0 : Nat) (x1 : Nat) (s : State) :
    (completeRounds x0 x1 s).tsu.tc = s.tsu.tc := by
  induction x0 generalizing s with
  | zero => rfl
  | succ k ih =>
    unfold completeRounds
    repeat' (first | intro _ | simp [*] | split)
@[simp] theorem tc_raisePart (h n : Nat) (code : U16) (waiter : U32) (round : U16) (detail : Nat) (s : State) :
    (raisePart h n code waiter round detail s).tsu.tc = s.tsu.tc := by simp [raisePart]
@[simp] theorem tc_contribute (region n : Nat) (payload : Payload) (s : State) :
    (contribute region n payload s).tsu.tc = s.tsu.tc := by
  unfold contribute
  split <;> simp
@[simp] theorem tc_completeArrivals (h : Nat) (s : State) :
    (completeArrivals h s).tsu.tc = s.tsu.tc := by simp [completeArrivals]
@[simp] theorem tc_applyTarget (h n : Nat) (failed : Bool) (s : State) :
    (applyTarget h n failed s).tsu.tc = s.tsu.tc := by
  unfold applyTarget
  repeat' (first | split | simp)
@[simp] theorem tc_deliverResult (h n : Nat) (r : Delivery) (s : State) :
    (deliverResult h n r s).tsu.tc = s.tsu.tc := by simp [deliverResult]
@[simp] theorem tc_resyncPart (h n : Nat) (s : State) :
    (resyncPart h n s).tsu.tc = s.tsu.tc := by
  unfold resyncPart
  repeat' (first | split | simp)
@[simp] theorem tc_replayPart (n : Nat) (s : State) : (replayPart n s).tsu.tc = s.tsu.tc := by simp [replayPart]
@[simp] theorem tc_moveHerd (h : Nat) (plane : Plane) (s : State) :
    (moveHerd h plane s).tsu.tc = s.tsu.tc := by
  unfold moveHerd
  repeat' (first | intro _ | simp [*] | split | rw [forAll_tc])
@[simp] theorem tc_moveOff (p h : Nat) (s : State) :
    (moveOff p h s).tsu.tc = s.tsu.tc := by
  unfold moveOff
  split <;> simp
@[simp] theorem tc_moveIfLost (h : Nat) (s : State) :
    (moveIfLost h s).tsu.tc = s.tsu.tc := by
  unfold moveIfLost
  split <;> simp
@[simp] theorem tc_startArrive (h : Nat) (fire : HT) (value : Bool) (s : State) :
    (startArrive h fire value s).tsu.tc = s.tsu.tc := by simp [startArrive]

/-! ## RegionOps -/

@[simp] theorem tc_takeSnapshot (n trig : Nat) (rcc : BitVec 48) (s : State) :
    (takeSnapshot n trig rcc s).tsu.tc = s.tsu.tc := by
  unfold takeSnapshot
  dsimp only
  exact onRegion_tsu_tc _ _ _  -- walk
@[simp] theorem tc_sendBias (n : Nat) (s : State) : (sendBias n s).tsu.tc = s.tsu.tc := by simp [sendBias]
@[simp] theorem tc_setBank (n b : Nat) (st : BankState) (s : State) :
    (setBank n b st s).tsu.tc = s.tsu.tc := by simp [setBank]
@[simp] theorem tc_stampBank (n b h : Nat) (s : State) : (stampBank n b h s).tsu.tc = s.tsu.tc := by simp [stampBank]
@[simp] theorem tc_bankOff (n h b : Nat) (s : State) : (bankOff n h b s).tsu.tc = s.tsu.tc := by simp [bankOff]
@[simp] theorem tc_bankOn (n h b : Nat) (s : State) :
    (bankOn n h b s).tsu.tc = s.tsu.tc := by
  unfold bankOn
  split <;> simp
@[simp] theorem tc_powerOp (h : Nat) (d : Desc) (s : State) :
    (powerOp h d s).tsu.tc = s.tsu.tc := by
  unfold powerOp
  split <;> simp

/-! ## StepOps -/

@[simp] theorem tc_fillAhead (h : Nat) (x0 : Nat) (s : State) :
    (fillAhead h x0 s).tsu.tc = s.tsu.tc := by
  induction x0 generalizing s with
  | zero => rfl
  | succ k ih =>
    unfold fillAhead
    repeat' (first | intro _ | simp [*] | split)
@[simp] theorem tc_onAhead (h i : Nat) (f : Ahead → Ahead) (s : State) :
    (onAhead h i f s).tsu.tc = s.tsu.tc := by simp [onAhead]
@[simp] theorem tc_evalGate (h i k : Nat) (s : State) :
    (evalGate h i k s).tsu.tc = s.tsu.tc := by
  unfold evalGate
  repeat' (first | split | simp)
@[simp] theorem tc_evalAhead (h i : Nat) (s : State) :
    (evalAhead h i s).tsu.tc = s.tsu.tc := by
  unfold evalAhead
  split <;> simp
@[simp] theorem tc_haltAtFailedGate (h : Nat) (s : State) :
    (haltAtFailedGate h s).tsu.tc = s.tsu.tc := by
  unfold haltAtFailedGate
  repeat' (first | split | simp)
@[simp] theorem tc_herdPhase4 (h : Nat) (s : State) : (herdPhase4 h s).tsu.tc = s.tsu.tc := by simp [herdPhase4]
@[simp] theorem tc_phase4 (s : State) : (phase4 s).tsu.tc = s.tsu.tc := by simp [phase4]
@[simp] theorem tc_enterHalted (h : Nat) (s : State) : (enterHalted h s).tsu.tc = s.tsu.tc := by simp [enterHalted]
@[simp] theorem tc_countBoundary (h : Nat) (a : Ahead) (s : State) :
    (countBoundary h a s).tsu.tc = s.tsu.tc := by
  unfold countBoundary
  dsimp only
  repeat' (first | intro _ | split | simp [*])
@[simp] theorem tc_stepEvent (h : Nat) (a : Ahead) (d : Desc) (s : State) :
    (stepEvent h a d s).tsu.tc = s.tsu.tc := by simp [stepEvent]
@[simp] theorem tc_launchRegion (h step : Nat) (entry : U16) (region : Nat) (rcc : BitVec 48) (s : State) :
    (launchRegion h step entry region rcc s).tsu.tc = s.tsu.tc := by
  unfold launchRegion
  dsimp only
  rw [forAll_tc _ _ _ (fun _ _ => congrArg Tsu.tc (emit_tsu _ _)), onRegion_tsu_tc, tc_takeSnapshot, tc_toRegion, tc_sendBias]  -- walk
@[simp] theorem tc_launchRegions (h step : Nat) (d : Desc) (rccs : List (BitVec 48)) (s : State) :
    (launchRegions h step d rccs s).tsu.tc = s.tsu.tc := by simp [launchRegions]
@[simp] theorem tc_launchStep (h : Nat) (a : Ahead) (d : Desc) (rccs : List (BitVec 48)) (s : State) :
    (launchStep h a d rccs s).tsu.tc = s.tsu.tc := by simp [launchStep]
@[simp] theorem tc_consumeEvents (d : Desc) (s : State) :
    (consumeEvents d s).tsu.tc = s.tsu.tc := by simp [consumeEvents]
@[simp] theorem tc_swapFetch (h step : Nat) (s : State) : (swapFetch h step s).tsu.tc = s.tsu.tc := by simp [swapFetch]
@[simp] theorem tc_swapArrive (h : Nat) (s : State) : (swapArrive h s).tsu.tc = s.tsu.tc := by simp [swapArrive]
@[simp] theorem tc_swapFlip (h : Nat) (grid : HT) (s : State) :
    (swapFlip h grid s).tsu.tc = s.tsu.tc := by simp [swapFlip]
@[simp] theorem tc_swapDecide (h : Nat) (b : Boundary) (d : Desc) (s : State) :
    (swapDecide h b d s).tsu.tc = s.tsu.tc := by
  unfold swapDecide
  repeat' (first | split | simp)
@[simp] theorem tc_swapRelease (h : Nat) (s : State) : (swapRelease h s).tsu.tc = s.tsu.tc := by simp [swapRelease]
@[simp] theorem tc_swapAction (h : Nat) (b : Boundary) (d : Desc) (s : State) :
    (swapAction h b d s).tsu.tc = s.tsu.tc := by
  unfold swapAction
  split <;> simp
@[simp] theorem tc_drainCheck (h : Nat) (grid : HT) (s : State) :
    (drainCheck h grid s).tsu.tc = s.tsu.tc := by simp [drainCheck]
@[simp] theorem tc_deadlineTime (herd : Id24) (s : State) :
    (deadlineTime herd s).2.tsu.tc = s.tsu.tc := by
  unfold deadlineTime
  repeat' (first | split | simp)
@[simp] theorem tc_beginLedger (h : Nat) (d : Desc) (s : State) :
    (beginLedger h d s).tsu.tc = s.tsu.tc := by simp [beginLedger]
@[simp] theorem tc_descActions (t0 : Tsu) (b : Boundary) (s : State) :
    (descActions t0 b s).tsu.tc = s.tsu.tc := by simp [descActions]
@[simp] theorem tc_boundaryPhase7 (t0 : Tsu) (b : Boundary) (s : State) :
    (boundaryPhase7 t0 b s).tsu.tc = s.tsu.tc := by simp [boundaryPhase7]
@[simp] theorem tc_herdPhase7 (t0 : Tsu) (h : Nat) (s : State) :
    (herdPhase7 t0 h s).tsu.tc = s.tsu.tc := by simp [herdPhase7]
@[simp] theorem tc_applyPending (h : Nat) (all : Bool) (s : State) :
    (applyPending h all s).tsu.tc = s.tsu.tc := by simp [applyPending]
@[simp] theorem tc_herdPhase8 (t0 : Tsu) (h : Nat) (s : State) :
    (herdPhase8 t0 h s).tsu.tc = s.tsu.tc := by simp [herdPhase8]
@[simp] theorem tc_countBounds (t0 : Tsu) (s : State) :
    (countBounds t0 s).tsu.tc = s.tsu.tc := by
  unfold countBounds
  repeat' (first | intro _ | simp [*] | split | rw [forAll_tc])
@[simp] theorem tc_lastPhases (s : State) : (lastPhases s).tsu.tc = s.tsu.tc := by simp [lastPhases]
@[simp] theorem tc_finishContext (h : Nat) (s : State) : (finishContext h s).tsu.tc = s.tsu.tc := by simp [finishContext]
@[simp] theorem tc_takeWay (h : Nat) (on : Bool) (s : State) : (takeWay h on s).tsu.tc = s.tsu.tc := by simp [takeWay]
@[simp] theorem tc_advance (h : Nat) (d : Desc) (s : State) : (advance h d s).tsu.tc = s.tsu.tc := by simp [advance]
@[simp] theorem tc_finishBoundary (h : Nat) (a : Ahead) (d : Desc) (acts : Bool) (s : State) :
    (finishBoundary h a d acts s).tsu.tc = s.tsu.tc := by simp [finishBoundary]
@[simp] theorem tc_goBoundary (h : Nat) (a : Ahead) (rccs : List (BitVec 48)) (s : State) :
    (goBoundary h a rccs s).tsu.tc = s.tsu.tc := by simp [goBoundary]
@[simp] theorem tc_silentBoundary (h : Nat) (a : Ahead) (s : State) :
    (silentBoundary h a s).tsu.tc = s.tsu.tc := by simp [silentBoundary]
@[simp] theorem tc_ledgerBad (e : Ecc) (s : State) : (ledgerBad e s).tsu.tc = s.tsu.tc := by simp [ledgerBad]
@[simp] theorem tc_descFault (h step : Nat) (s : State) : (descFault h step s).tsu.tc = s.tsu.tc := by simp [descFault]
@[simp] theorem tc_tryBoundary (h : Nat) (a : Ahead) (rccs : List (BitVec 48)) (ecc : Ecc) (s : State) :
    (tryBoundary h a rccs ecc s).tsu.tc = s.tsu.tc := by
  unfold tryBoundary
  repeat' (first | split | simp)
@[simp] theorem tc_stepBoundary (h typ : Nat) (rccs : List (BitVec 48)) (ecc : Ecc) (s : State) :
    (stepBoundary h typ rccs ecc s).tsu.tc = s.tsu.tc := by
  unfold stepBoundary
  repeat' (first | split | simp)
@[simp] theorem tc_haltBoundary (h : Nat) (s : State) :
    (haltBoundary h s).tsu.tc = s.tsu.tc := by
  unfold haltBoundary
  repeat' (first | split | simp)

/-! ## RefOps -/

@[simp] theorem tc_disqualify (c : Nat) (s : State) : (disqualify c s).tsu.tc = s.tsu.tc := by simp [disqualify]
@[simp] theorem tc_loseCand (c : Nat) (s : State) : (loseCand c s).tsu.tc = s.tsu.tc := by simp [loseCand]
@[simp] theorem tc_dropCand (c : Nat) (s : State) : (dropCand c s).tsu.tc = s.tsu.tc := by simp [dropCand]
@[simp] theorem tc_actReceived (c : Nat) (s : State) : (actReceived c s).tsu.tc = s.tsu.tc := by simp [actReceived]
@[simp] theorem tc_setReceived (c : Nat) (sqc : Nat) (s : State) :
    (setReceived c sqc s).tsu.tc = s.tsu.tc := by simp [setReceived]
@[simp] theorem tc_qualifyState (c : Nat) (s : State) :
    (qualifyState c s).tsu.tc = s.tsu.tc := by
  unfold qualifyState
  repeat' (first | split | simp)
@[simp] theorem tc_qualify (c : Nat) (s : State) : (qualify c s).tsu.tc = s.tsu.tc := by simp [qualify]
@[simp] theorem tc_measure (m : CandMeas) (s : State) : (measure m s).tsu.tc = s.tsu.tc := by simp [measure]

/-! ## ChipOps -/

@[simp] theorem tc_onRound (n i : Nat) (f : Round → Round) (s : State) :
    (onRound n i f s).tsu.tc = s.tsu.tc := by simp [onRound]
@[simp] theorem tc_spreadResult (n : Nat) (bypass : Bool) (c : Cell) (s : State) :
    (spreadResult n bypass c s).tsu.tc = s.tsu.tc := by simp [spreadResult]
@[simp] theorem tc_sendOutcome (n : Nat) (bypass : Bool) (c : Cell) (s : State) :
    (sendOutcome n bypass c s).tsu.tc = s.tsu.tc := by
  unfold sendOutcome
  repeat' (first | split | simp)
@[simp] theorem tc_topOutcome (n i : Nat) (c : Cell) (s : State) :
    (topOutcome n i c s).tsu.tc = s.tsu.tc := by simp [topOutcome]
@[simp] theorem tc_sendTineUp (c : Cell) (s : State) :
    (sendTineUp c s).tsu.tc = s.tsu.tc := by
  unfold sendTineUp
  split <;> simp
@[simp] theorem tc_markSent (n i : Nat) (s : State) : (markSent n i s).tsu.tc = s.tsu.tc := by simp [markSent]
@[simp] theorem tc_noteFailed (n : Nat) (round : U16) (s : State) :
    (noteFailed n round s).tsu.tc = s.tsu.tc := by simp [noteFailed]
@[simp] theorem tc_failCtx (n i : Nat) (cause : BitVec 3) (origin : Id24) (deadline : U64) (s : State) :
    (failCtx n i cause origin deadline s).tsu.tc = s.tsu.tc := by simp [failCtx]
@[simp] theorem tc_raiseCtx (n : Nat) (code : U16) (waiter : U32) (round : U16) (detail : BitVec 3) (s : State) :
    (raiseCtx n code waiter round detail s).tsu.tc = s.tsu.tc := by simp [raiseCtx]
@[simp] theorem tc_roundUncorrectable (n i : Nat) (deadline : U64) (s : State) :
    (roundUncorrectable n i deadline s).tsu.tc = s.tsu.tc := by simp [roundUncorrectable]
@[simp] theorem tc_completeRound (n i : Nat) (s : State) :
    (completeRound n i s).tsu.tc = s.tsu.tc := by simp [completeRound]
@[simp] theorem tc_tagged (n : Nat) (c : Cell) (f : State → State) (s : State) (h_f : ∀ u, (f u).tsu.tc = u.tsu.tc) :
    (tagged n c f s).tsu.tc = s.tsu.tc := by
  unfold tagged
  repeat' (first | split | simp [*])
@[simp] theorem tc_countStale (s : State) : (countStale s).tsu.tc = s.tsu.tc := by simp [countStale]
@[simp] theorem tc_countTwinLate (s : State) : (countTwinLate s).tsu.tc = s.tsu.tc := by simp [countTwinLate]
@[simp] theorem tc_countDup (s : State) : (countDup s).tsu.tc = s.tsu.tc := by simp [countDup]
@[simp] theorem tc_answerStale (n p : Nat) (round : U16) (s : State) :
    (answerStale n p round s).tsu.tc = s.tsu.tc := by
  unfold answerStale
  repeat' (first | split | simp)
@[simp] theorem tc_intoRound (p : Nat) (c : Cell) (f : Nat → Nat → State → State) (s : State) (h_f : ∀ y0 y1 u, (f y0 y1 u).tsu.tc = u.tsu.tc) :
    (intoRound p c f s).tsu.tc = s.tsu.tc := by
  unfold intoRound
  repeat' (first | split | simp [*])
@[simp] theorem tc_sendAbandon (n loser : Nat) (round : U16) (winner : U32) (s : State) :
    (sendAbandon n loser round winner s).tsu.tc = s.tsu.tc := by simp [sendAbandon]
@[simp] theorem tc_grantTwin (n i slot p : Nat) (round : U16) (s : State) :
    (grantTwin n i slot p round s).tsu.tc = s.tsu.tc := by
  unfold grantTwin
  split <;> simp
@[simp] theorem tc_reportMismatch (die : U32) (s : State) :
    (reportMismatch die s).tsu.tc = s.tsu.tc := by simp [reportMismatch]
@[simp] theorem tc_compareTwin (n p : Nat) (win : Cell) (c : Cell) (s : State) :
    (compareTwin n p win c s).tsu.tc = s.tsu.tc := by
  unfold compareTwin
  repeat' (first | split | simp)
@[simp] theorem tc_storeArrival (n p slot i : Nat) (c : Cell) (bad : Bool) (s : State) :
    (storeArrival n p slot i c bad s).tsu.tc = s.tsu.tc := by
  unfold storeArrival
  repeat' (first | split | simp)
@[simp] theorem tc_storeFailed (n p slot i : Nat) (c : Cell) (s : State) :
    (storeFailed n p slot i c s).tsu.tc = s.tsu.tc := by
  unfold storeFailed
  repeat' (first | split | simp)
@[simp] theorem tc_storeResync (n i : Nat) (c : Cell) (s : State) :
    (storeResync n i c s).tsu.tc = s.tsu.tc := by simp [storeResync]
@[simp] theorem tc_forwardResult (c : Cell) (s : State) :
    (forwardResult c s).tsu.tc = s.tsu.tc := by simp [forwardResult]
@[simp] theorem tc_deactivate (herd : Id24) (s : State) :
    (deactivate herd s).tsu.tc = s.tsu.tc := by
  unfold deactivate
  repeat' (first | intro _ | simp [*] | split | rw [forAll_tc])
@[simp] theorem tc_moveDown (herd : Id24) (n : Nat) (s : State) :
    (moveDown herd n s).tsu.tc = s.tsu.tc := by simp [moveDown]
@[simp] theorem tc_moveUp (herd : Id24) (n : Nat) (s : State) : (moveUp herd n s).tsu.tc = s.tsu.tc := by simp [moveUp]
@[simp] theorem tc_originateMove (herd : Id24) (p : Nat) (down : Bool) (s : State) :
    (originateMove herd p down s).tsu.tc = s.tsu.tc := by
  unfold originateMove
  split <;> simp
@[simp] theorem tc_chipMoves (p : Nat) (s : State) : (chipMoves p s).tsu.tc = s.tsu.tc := by simp [chipMoves]
@[simp] theorem tc_takeMoveUp (c : Cell) (s : State) :
    (takeMoveUp c s).tsu.tc = s.tsu.tc := by
  unfold takeMoveUp
  repeat' (first | split | simp)
@[simp] theorem tc_takeMoveDown (c : Cell) (s : State) : (takeMoveDown c s).tsu.tc = s.tsu.tc := by simp [takeMoveDown]
@[simp] theorem tc_adoptStandby (s : State) : (adoptStandby s).tsu.tc = s.tsu.tc := by simp [adoptStandby]
@[simp] theorem tc_withAdoption (f : State → State) (s : State) (h_f : ∀ u, (f u).tsu.tc = u.tsu.tc) :
    (withAdoption f s).tsu.tc = s.tsu.tc := by simp [withAdoption, *]

/-! ## LinkOps -/

@[simp] theorem tc_startTrain_die (p : Nat) (s : State) : (startTrain .tsu p s).tsu.tc = s.tsu.tc := by simp [startTrain]
@[simp] theorem tc_startTrain_chip (p : Nat) (s : State) :
    (startTrain .fjz p s).tsu.tc = s.tsu.tc := by simp [startTrain]
@[simp] theorem tc_afterDown_chip (p : Nat) (s : State) :
    (afterDown .fjz p s).tsu.tc = s.tsu.tc := by
  unfold afterDown
  repeat' (first | intro _ | simp [*] | split)
@[simp] theorem tc_takeDown_chip (p : Nat) (st : PortState) (s : State) :
    (takeDown .fjz p st s).tsu.tc = s.tsu.tc := by simp [takeDown]
@[simp] theorem tc_recordDown_die (p : Nat) (cause : U8) (s : State) :
    (recordDown .tsu p cause s).tsu.tc = s.tsu.tc := by simp [recordDown]
@[simp] theorem tc_recordDown_chip (p : Nat) (cause : U8) (s : State) :
    (recordDown .fjz p cause s).tsu.tc = s.tsu.tc := by simp [recordDown]
@[simp] theorem tc_linkDown_chip (p : Nat) (cause : U8) (s : State) :
    (linkDown .fjz p cause s).tsu.tc = s.tsu.tc := by simp [linkDown]
@[simp] theorem tc_actEnable_chip (p : Nat) (s : State) : (actEnable .fjz p s).tsu.tc = s.tsu.tc := by simp [actEnable]
@[simp] theorem tc_setEnable_chip (p : Nat) (on : Bool) (s : State) :
    (setEnable .fjz p on s).tsu.tc = s.tsu.tc := by simp [setEnable]
@[simp] theorem tc_comparePosition (linkUp : Bool) (s : State) :
    (comparePosition linkUp s).tsu.tc = s.tsu.tc := by
  unfold comparePosition
  repeat' (first | split | simp)
@[simp] theorem tc_keepHello_die (p : Nat) (b : BitVec 448) (s : State) :
    (keepHello .tsu p b s).tsu.tc = s.tsu.tc := by simp [keepHello]
@[simp] theorem tc_keepHello_chip (p : Nat) (b : BitVec 448) (s : State) :
    (keepHello .fjz p b s).tsu.tc = s.tsu.tc := by simp [keepHello]
@[simp] theorem tc_linkUp_die (p : Nat) (b : BitVec 448) (s : State) :
    (linkUp .tsu p b s).tsu.tc = s.tsu.tc := by simp [linkUp]
@[simp] theorem tc_linkUp_chip (p : Nat) (b : BitVec 448) (s : State) :
    (linkUp .fjz p b s).tsu.tc = s.tsu.tc := by simp [linkUp]
@[simp] theorem tc_takeHello_chip (p : Nat) (b : BitVec 448) (s : State) :
    (takeHello .fjz p b s).tsu.tc = s.tsu.tc := by simp [takeHello]
@[simp] theorem tc_hearAgain_chip (p : Nat) (b : BitVec 448) (s : State) :
    (hearAgain .fjz p b s).tsu.tc = s.tsu.tc := by simp [hearAgain]
@[simp] theorem tc_askRetry_die (p : Nat) (cw : BitVec 12) (s : State) :
    (askRetry .tsu p cw s).tsu.tc = s.tsu.tc := by simp [askRetry]
@[simp] theorem tc_askRetry_chip (p : Nat) (cw : BitVec 12) (s : State) :
    (askRetry .fjz p cw s).tsu.tc = s.tsu.tc := by simp [askRetry]
@[simp] theorem tc_resend_die (p : Nat) (cw : BitVec 12) (s : State) :
    (resend .tsu p cw s).tsu.tc = s.tsu.tc := by simp [resend]
@[simp] theorem tc_resend_chip (p : Nat) (cw : BitVec 12) (s : State) :
    (resend .fjz p cw s).tsu.tc = s.tsu.tc := by simp [resend]

/-! ## BoundaryOps -/

@[simp] theorem tc_dropWaiting_die (s : State) : (dropWaiting .tsu s).tsu.tc = s.tsu.tc := by simp [dropWaiting]
@[simp] theorem tc_dropWaiting_chip (s : State) : (dropWaiting .fjz s).tsu.tc = s.tsu.tc := by simp [dropWaiting]
@[simp] theorem tc_startInit (s : State) : (startInit s).tsu.tc = s.tsu.tc := by simp [startInit]
@[simp] theorem tc_breakSeal (cause : Nat) (s : State) : (breakSeal cause s).tsu.tc = s.tsu.tc := by simp [breakSeal]
@[simp] theorem tc_makeKey (s : State) : (makeKey s).tsu.tc = s.tsu.tc := by simp [makeKey]
@[simp] theorem tc_lcStart_die (target : Nat) (s : State) :
    (lcStart .tsu target s).tsu.tc = s.tsu.tc := by
  unfold lcStart
  repeat' (first | intro _ | simp [*])
@[simp] theorem tc_lcStart_chip (target : Nat) (s : State) :
    (lcStart .fjz target s).tsu.tc = s.tsu.tc := by simp [lcStart]

/-! ## TimeCmds -/

@[simp] theorem tc_unparkAll (t : Tsu) : (unparkAll t).tc = t.tc := by simp [unparkAll]

/-! ## RegionCmds -/

@[simp] theorem tc_timeRead (region : Nat) (s : State) :
    (timeRead region s).2.tsu.tc = s.tsu.tc := by
  unfold timeRead
  repeat' (first | split | simp)

/-! ## Port -/

@[simp] theorem tc_chipExchange (p : Nat) (theta : Int) (s : State) :
    (chipExchange p theta s).tsu.tc = s.tsu.tc := by simp [chipExchange]

/-! ## Refs -/

@[simp] theorem tc_ppsSecond (c : Nat) (s : State) :
    (ppsSecond c s).tsu.tc = s.tsu.tc := by
  unfold ppsSecond
  repeat' (first | split | simp)
@[simp] theorem tc_countChipSymbols (symbols : List (Nat × Nat)) (s : State) :
    (countChipSymbols symbols s).tsu.tc = s.tsu.tc := by
  unfold countChipSymbols
  repeat' (first | intro _ | simp [*] | split | rw [forAll_tc])
@[simp] theorem tc_followBest (e : Nat) (s : State) :
    (followBest e s).tsu.tc = s.tsu.tc := by
  unfold followBest
  split <;> simp

/-! ## PlaneCmds -/

@[simp] theorem tc_parentBleat (p : Nat) (b : BitVec 448) (s : State) :
    (parentBleat p b s).tsu.tc = s.tsu.tc := by
  unfold parentBleat
  split <;> simp
@[simp] theorem tc_planeRecord (code detail : U16) (s : State) :
    (planeRecord code detail s).tsu.tc = s.tsu.tc := by simp [planeRecord]

/-! ## PronkOps -/

@[simp] theorem tc_pronkDown (bypass : Bool) (c : Cell) (s : State) :
    (pronkDown bypass c s).tsu.tc = s.tsu.tc := by simp [pronkDown]
@[simp] theorem tc_pronkCounts (herd : Id24) (s : State) :
    (pronkCounts herd s).tsu.tc = s.tsu.tc := by simp [pronkCounts]
@[simp] theorem tc_countPronkDiscard (s : State) : (countPronkDiscard s).tsu.tc = s.tsu.tc := by simp [countPronkDiscard]
@[simp] theorem tc_armAck (c : Cell) (cause : Nat) (s : State) : (armAck c cause s).tsu.tc = s.tsu.tc := by simp [armAck]
@[simp] theorem tc_tapPronk (h phase outcome : Nat) (seq : U32) (fire : HT) (start : U32) (ids : U16 × U16) (count : Nat) (s : State) :
    (tapPronk h phase outcome seq fire start ids count s).tsu.tc = s.tsu.tc := by simp [tapPronk]
@[simp] theorem tc_tapArmed (h outcome : Nat) (s : State) :
    (tapArmed h outcome s).tsu.tc = s.tsu.tc := by simp [tapArmed]
@[simp] theorem tc_armHerd (h : Nat) (seq : U32) (fire : HT) (start : Nat) (ids : U16 × U16) (origin : Id24) (s : State) :
    (armHerd h seq fire start ids origin s).tsu.tc = s.tsu.tc := by simp [armHerd]
@[simp] theorem tc_refuseArm (h cause : Nat) (c : Cell) (s : State) :
    (refuseArm h cause c s).tsu.tc = s.tsu.tc := by simp [refuseArm]
@[simp] theorem tc_takeArm (h : Nat) (c : Cell) (s : State) :
    (takeArm h c s).tsu.tc = s.tsu.tc := by
  unfold takeArm
  split <;> simp
@[simp] theorem tc_actOn (h : Nat) (c : Cell) (s : State) : (actOn h c s).tsu.tc = s.tsu.tc := by simp [actOn]
@[simp] theorem tc_takeFinal (h : Nat) (c : Cell) (act : State → State) (s : State) (h_act : ∀ u, (act u).tsu.tc = u.tsu.tc) :
    (takeFinal h c act s).tsu.tc = s.tsu.tc := by simp [takeFinal, *]
@[simp] theorem tc_decideHerd (h : Nat) (s : State) :
    (decideHerd h s).tsu.tc = s.tsu.tc := by
  unfold decideHerd
  repeat' (first | split | simp)
@[simp] theorem tc_arriveZero (h : Nat) (fire : HT) (seq : U32) (s : State) :
    (arriveZero h fire seq s).tsu.tc = s.tsu.tc := by simp [arriveZero]
@[simp] theorem tc_fireHerd (h : Nat) (s : State) :
    (fireHerd h s).tsu.tc = s.tsu.tc := by
  unfold fireHerd
  repeat' (first | intro _ | simp [*] | split | rw [forAll_tc])
@[simp] theorem tc_takeStep (h : Nat) (seq : U32) (fire : HT) (ids : U16 × U16) (count : Nat) (s : State) :
    (takeStep h seq fire ids count s).tsu.tc = s.tsu.tc := by simp [takeStep]

/-! ## Pronk -/

@[simp] theorem tc_pronkAtDie (i : Instr) (p phase : Nat) (c : Cell) (none_ : State → State) (act : Nat → State → State) (s : State) (h_none_ : ∀ u, (none_ u).tsu.tc = u.tsu.tc) (h_act : ∀ y0 u, (act y0 u).tsu.tc = u.tsu.tc) :
    (pronkAtDie i p phase c none_ act s).tsu.tc = s.tsu.tc := by
  unfold pronkAtDie
  repeat' (first | intro _ | split | simp [*] | rw [tc_receive_die])

/-! ## LoadOps -/

@[simp] theorem tc_fillParts (h : Nat) (s : State) :
    (fillParts h s).tsu.tc = s.tsu.tc := by
  unfold fillParts
  repeat' (first | intro _ | simp [*] | split | rw [forAll_tc])
@[simp] theorem tc_setPaths (h : Nat) (f : Nat → BitVec 256 → BitVec 256) (s : State) :
    (setPaths h f s).tsu.tc = s.tsu.tc := by
  unfold setPaths
  repeat' (first | intro _ | simp [*] | split | rw [forAll_tc])
@[simp] theorem tc_tapChange (h action : Nat) (s : State) :
    (tapChange h action s).tsu.tc = s.tsu.tc := by simp [tapChange]
@[simp] theorem tc_commitLoad (h : Nat) (secure : Bool) (s : State) :
    (commitLoad h secure s).tsu.tc = s.tsu.tc := by
  unfold commitLoad
  split <;> simp
@[simp] theorem tc_releaseHerd (h : Nat) (s : State) :
    (releaseHerd h s).tsu.tc = s.tsu.tc := by
  unfold releaseHerd
  repeat' (first | intro _ | simp [*] | split | rw [forAll_tc])

/-! ## Template -/

@[simp] theorem tc_onTemplate_die (k : Nat) (f : Template → Template) (s : State) :
    (onTemplate .tsu k f s).tsu.tc = s.tsu.tc := by simp [onTemplate]
@[simp] theorem tc_onTemplate_chip (k : Nat) (f : Template → Template) (s : State) :
    (onTemplate .fjz k f s).tsu.tc = s.tsu.tc := by simp [onTemplate]

/-! ## Herd -/

@[simp] theorem tc_chipHalt (ps : List Nat) (c : Cell) (s : State) :
    (chipHalt ps c s).tsu.tc = s.tsu.tc := by simp [chipHalt]
@[simp] theorem tc_takePause (v : BitVec 160) (s : State) : (takePause v s).tsu.tc = s.tsu.tc := by simp [takePause]
@[simp] theorem tc_reepoch (h : Nat) (secure : Bool) (s : State) :
    (reepoch h secure s).tsu.tc = s.tsu.tc := by
  unfold reepoch
  split <;> simp
@[simp] theorem tc_takeAdopt (h : Nat) (v : BitVec 192) (s : State) :
    (takeAdopt h v s).tsu.tc = s.tsu.tc := by simp [takeAdopt]

/-! ## Lane -/

@[simp] theorem tc_bypassOn (ps : List Nat) (c : Cell) (s : State) :
    (bypassOn ps c s).tsu.tc = s.tsu.tc := by simp [bypassOn]

/-! ## HaltOps -/

@[simp] theorem tc_haltDownwards (turned : Bool) (c : Cell) (s : State) :
    (haltDownwards turned c s).tsu.tc = s.tsu.tc := by simp [haltDownwards]
@[simp] theorem tc_haltUpwards (c : Cell) (s : State) : (haltUpwards c s).tsu.tc = s.tsu.tc := by simp [haltUpwards]
@[simp] theorem tc_chipTakesHalt (c : Cell) (s : State) :
    (chipTakesHalt c s).tsu.tc = s.tsu.tc := by simp [chipTakesHalt]
@[simp] theorem tc_countHaltDiscard (s : State) : (countHaltDiscard s).tsu.tc = s.tsu.tc := by simp [countHaltDiscard]
@[simp] theorem tc_takeKey (c : Cell) (t : Tsu) : (takeKey c t).tc = t.tc := by simp [takeKey]
@[simp] theorem tc_tapHalt (h : Nat) (c : Cell) (s : State) : (tapHalt h c s).tsu.tc = s.tsu.tc := by simp [tapHalt]
@[simp] theorem tc_lateHalt (h : Nat) (hh : HT) (origin : Id24) (seq : U16) (s : State) :
    (lateHalt h hh origin seq s).tsu.tc = s.tsu.tc := by simp [lateHalt]
@[simp] theorem tc_applyHalt (h : Nat) (hh : HT) (origin : Id24) (seq : U16) (s : State) :
    (applyHalt h hh origin seq s).tsu.tc = s.tsu.tc := by simp [applyHalt]
@[simp] theorem tc_takeHalt (c : Cell) (more : Nat → State → State) (s : State) (h_more : ∀ y0 u, (more y0 u).tsu.tc = u.tsu.tc) :
    (takeHalt c more s).tsu.tc = s.tsu.tc := by
  unfold takeHalt
  repeat' (first | split | simp [*])
@[simp] theorem tc_recordPause (origin : Id24) (h : Nat) (s : State) :
    (recordPause origin h s).tsu.tc = s.tsu.tc := by simp [recordPause]
@[simp] theorem tc_raiseHaltedNow (h : Nat) (w : NowStop) (s : State) :
    (raiseHaltedNow h w s).tsu.tc = s.tsu.tc := by simp [raiseHaltedNow]
@[simp] theorem tc_nowReturned (region h : Nat) (abandoned : Bool) (s : State) :
    (nowReturned region h abandoned s).tsu.tc = s.tsu.tc := by simp [nowReturned]
@[simp] theorem tc_stopNow (c : Cell) (h : Nat) (s : State) :
    (stopNow c h s).tsu.tc = s.tsu.tc := by
  unfold stopNow
  repeat' (first | intro _ | simp [*] | split | rw [forAll_tc])
@[simp] theorem tc_takeNow (c : Cell) (s : State) :
    (takeNow c s).tsu.tc = s.tsu.tc := by
  unfold takeNow
  repeat' (first | split | simp)
@[simp] theorem tc_dieHaltsNow (v : U32) (s : State) :
    (dieHaltsNow v s).tsu.tc = s.tsu.tc := by
  unfold dieHaltsNow
  repeat' (first | split | simp)

/-! ## Steps -/

@[simp] theorem tc_doneSignal (h step : Nat) (d : Desc) (s : State) :
    (doneSignal h step d s).tsu.tc = s.tsu.tc := by simp [doneSignal]
@[simp] theorem tc_stretchOver (region h : Nat) (l : Launched) (d : Desc) (rcc : BitVec 48) (s : State) :
    (stretchOver region h l d rcc s).tsu.tc = s.tsu.tc := by simp [stretchOver]
@[simp] theorem tc_lateStep (d : Desc) (fl : Nat) (s : State) : (lateStep d fl s).tsu.tc = s.tsu.tc := by simp [lateStep]
@[simp] theorem tc_completeStep (region h : Nat) (l : Launched) (rcc : BitVec 48) (s : State) :
    (completeStep region h l rcc s).tsu.tc = s.tsu.tc := by simp [completeStep]
@[simp] theorem tc_stepDone (region h : Nat) (l : Launched) (abandoned : Bool) (rcc : BitVec 48) (s : State) :
    (stepDone region h l abandoned rcc s).tsu.tc = s.tsu.tc := by
  unfold stepDone
  repeat' (first | split | simp)

/-! ## Ledger -/

@[simp] theorem tc_ledgerWrite (q : Req) (op : WriteOp) (v : BitVec 256) (s : State) (h1 : ∀ u, (op.apply u).tsu.tc = u.tsu.tc) (h2 : ∀ u, (op.accept u).tsu.tc = u.tsu.tc) (h3 : ∀ u, (op.refuse u).tsu.tc = u.tsu.tc) :
    (ledgerWrite q op v s).tsu.tc = s.tsu.tc := by simp [ledgerWrite, *]
@[simp] theorem tc_advPending (region entry : Nat) (amount : U8) (s : State) :
    (advPending region entry amount s).tsu.tc = s.tsu.tc := by simp [advPending]

/-! ## Sync -/

@[simp] theorem tc_signalRecord (code : U16) (halts : Bool) (t : Token) (s : State) :
    (signalRecord code halts t s).tsu.tc = s.tsu.tc := by simp [signalRecord]
@[simp] theorem tc_signalForeign (t : Token) (s : State) :
    (signalForeign t s).tsu.tc = s.tsu.tc := by simp [signalForeign]
@[simp] theorem tc_tapIngress (t : Token) (s : State) : (tapIngress t s).tsu.tc = s.tsu.tc := by simp [tapIngress]
@[simp] theorem tc_applySignal (t : Token) (s : State) :
    (applySignal t s).tsu.tc = s.tsu.tc := by
  unfold applySignal
  split <;> simp
@[simp] theorem tc_takeSignal (t : Token) (s : State) : (takeSignal t s).tsu.tc = s.tsu.tc := by simp [takeSignal]
@[simp] theorem tc_signalCommand (i : Instr) (op : Nat) (t : Token) (e : Ecc) (s : State) :
    (signalCommand i op t e s).tsu.tc = s.tsu.tc := by
  unfold signalCommand
  split <;> simp
@[simp] theorem tc_placeWatch (slot : Nat) (w : Watch) (s : State) :
    (placeWatch slot w s).tsu.tc = s.tsu.tc := by simp [placeWatch]
@[simp] theorem tc_takeWatch (region : Nat) (tok : BitVec 208) (s : State) :
    (takeWatch region tok s).tsu.tc = s.tsu.tc := by
  unfold takeWatch
  repeat' (first | split | simp)
@[simp] theorem tc_timeOutObject (w : Watch) (s : State) :
    (timeOutObject w s).tsu.tc = s.tsu.tc := by simp [timeOutObject]
@[simp] theorem tc_timeOutHerd (w : Watch) (s : State) : (timeOutHerd w s).tsu.tc = s.tsu.tc := by simp [timeOutHerd]
@[simp] theorem tc_notifySlot (i : Nat) (s : State) :
    (notifySlot i s).tsu.tc = s.tsu.tc := by
  unfold notifySlot
  repeat' (first | split | simp)

/-! ## Bank -/

@[simp] theorem tc_raiseBank (h : Nat) (code : U16) (obj waiter : U32) (s : State) :
    (raiseBank h code obj waiter s).tsu.tc = s.tsu.tc := by simp [raiseBank]

/-! ## TineDie -/

@[simp] theorem tc_partUncorrectable (n : Nat) (s : State) :
    (partUncorrectable n s).tsu.tc = s.tsu.tc := by
  unfold partUncorrectable
  split <;> simp
@[simp] theorem tc_countResultDiscard (s : State) :
    (countResultDiscard s).tsu.tc = s.tsu.tc := by simp [countResultDiscard]
@[simp] theorem tc_countTagDiscard (s : State) : (countTagDiscard s).tsu.tc = s.tsu.tc := by simp [countTagDiscard]
@[simp] theorem tc_takeResult (p : Nat) (kind : BitVec 4) (c : Cell) (s : State) :
    (takeResult p kind c s).tsu.tc = s.tsu.tc := by
  unfold takeResult
  repeat' (first | split | simp)
@[simp] theorem tc_takeMove (p : Nat) (c : Cell) (s : State) :
    (takeMove p c s).tsu.tc = s.tsu.tc := by
  unfold takeMove
  repeat' (first | split | simp)
@[simp] theorem tc_markAbandoned (n : Nat) (round : U16) (s : State) :
    (markAbandoned n round s).tsu.tc = s.tsu.tc := by simp [markAbandoned]
@[simp] theorem tc_takeAbandon (p : Nat) (c : Cell) (s : State) :
    (takeAbandon p c s).tsu.tc = s.tsu.tc := by
  unfold takeAbandon
  repeat' (first | split | simp)
@[simp] theorem tc_failUpTo (h n : Nat) (v : U16) (x0 : Nat) (s : State) :
    (failUpTo h n v x0 s).tsu.tc = s.tsu.tc := by
  induction x0 generalizing s with
  | zero => rfl
  | succ k ih =>
    unfold failUpTo
    repeat' (first | intro _ | simp [*])
@[simp] theorem tc_deliverIsolated (h n : Nat) (v : U16) (s : State) :
    (deliverIsolated h n v s).tsu.tc = s.tsu.tc := by simp [deliverIsolated]

/-! ## HealthOps -/

@[simp] theorem tc_copySteward (herd : Id24) (s : State) :
    (copySteward herd s).tsu.tc = s.tsu.tc := by simp [copySteward]
@[simp] theorem tc_raiseSteward (code : U16) (herd die : Id24) (round : Nat) (s : State) :
    (raiseSteward code herd die round s).tsu.tc = s.tsu.tc := by simp [raiseSteward]
@[simp] theorem tc_decideExpel (herd die : Id24) (cause : Nat) (health : U16) (s : State) :
    (decideExpel herd die cause health s).tsu.tc = s.tsu.tc := by simp [decideExpel]
@[simp] theorem tc_failDie (herd die : Id24) (cond : Nat) (s : State) :
    (failDie herd die cond s).tsu.tc = s.tsu.tc := by simp [failDie]
@[simp] theorem tc_setQuarantine (herd die : Id24) (on : Bool) (s : State) :
    (setQuarantine herd die on s).tsu.tc = s.tsu.tc := by simp [setQuarantine]
@[simp] theorem tc_suspectDie (herd die : Id24) (health : U16) (s : State) :
    (suspectDie herd die health s).tsu.tc = s.tsu.tc := by
  unfold suspectDie
  repeat' (first | split | simp)
@[simp] theorem tc_clearDie (herd die : Id24) (health : U16) (s : State) :
    (clearDie herd die health s).tsu.tc = s.tsu.tc := by simp [clearDie]
@[simp] theorem tc_convertDie (herd : Id24) (s : State) :
    (convertDie herd s).tsu.tc = s.tsu.tc := by
  unfold convertDie
  repeat' (first | split | simp)
@[simp] theorem tc_timeoutNames (n : Nat) (die : U32) (s : State) :
    (timeoutNames n die s).tsu.tc = s.tsu.tc := by simp [timeoutNames]
@[simp] theorem tc_samplePort (p : Nat) (s : State) :
    (samplePort p s).tsu.tc = s.tsu.tc := by
  unfold samplePort
  repeat' (first | intro _ | simp [*] | split | rw [forAll_tc])

/-! ## Reserve -/

@[simp] theorem tc_onResv (herd : Id24) (template : U16) (f : Resv → Resv) (s : State) :
    (onResv herd template f s).tsu.tc = s.tsu.tc := by simp [onResv]
@[simp] theorem tc_onPathRate (ports : List Nat) (f : U32 → U32) (s : State) :
    (onPathRate ports f s).tsu.tc = s.tsu.tc := by
  unfold onPathRate
  repeat' (first | intro _ | simp [*] | split | rw [forAll_tc])
@[simp] theorem tc_holdNeeds (herd : Id24) (template : U16) (span members p1 : Nat) (home : Bool) (s : State) :
    (holdNeeds herd template span members p1 home s).tsu.tc = s.tsu.tc := by simp [holdNeeds]
@[simp] theorem tc_freeResv (herd : Id24) (template : U16) (s : State) :
    (freeResv herd template s).tsu.tc = s.tsu.tc := by
  unfold freeResv
  repeat' (first | intro _ | simp [*] | split | rw [forAll_tc])
@[simp] theorem tc_reserveDown (template : U16) (c : Cell) (s : State) :
    (reserveDown template c s).tsu.tc = s.tsu.tc := by simp [reserveDown]
@[simp] theorem tc_outcomeUp (r : Resv) (rest : List (Nat × Nat × Nat)) (s : State) :
    (outcomeUp r rest s).tsu.tc = s.tsu.tc := by simp [outcomeUp]
@[simp] theorem tc_numbersUp (r : Resv) (s : State) : (numbersUp r s).tsu.tc = s.tsu.tc := by simp [numbersUp]
@[simp] theorem tc_forgetOmitted (herd : Id24) (template : U16) (draw : Nat) (s : State) :
    (forgetOmitted herd template draw s).tsu.tc = s.tsu.tc := by simp [forgetOmitted]
@[simp] theorem tc_commitResv (herd : Id24) (template : U16) (home : Bool) (s : State) :
    (commitResv herd template home s).tsu.tc = s.tsu.tc := by
  unfold commitResv
  repeat' (first | intro _ | simp [*] | split | rw [forAll_tc])
@[simp] theorem tc_releasePlane (r : Resv) (s : State) : (releasePlane r s).tsu.tc = s.tsu.tc := by simp [releasePlane]
@[simp] theorem tc_chipCommit (c : Cell) (s : State) :
    (chipCommit c s).tsu.tc = s.tsu.tc := by
  unfold chipCommit
  split <;> simp
@[simp] theorem tc_chipRelease (c : Cell) (s : State) : (chipRelease c s).tsu.tc = s.tsu.tc := by simp [chipRelease]
@[simp] theorem tc_dieOutcome (p : Nat) (c : Cell) (rest : List (Nat × Nat × Nat)) (s : State) :
    (dieOutcome p c rest s).tsu.tc = s.tsu.tc := by simp [dieOutcome]
@[simp] theorem tc_dropAsked (herd : Id24) (template : U16) (pl : Plane) (t : Tsu) :
    (dropAsked herd template pl t).tc = t.tc := by simp [dropAsked]
@[simp] theorem tc_dieRequest (p : Nat) (c : Cell) (s : State) :
    (dieRequest p c s).tsu.tc = s.tsu.tc := by
  unfold dieRequest
  split <;> simp
@[simp] theorem tc_dropPath (herd : Id24) (template : U16) (pl : Plane) (t : Tsu) :
    (dropPath herd template pl t).tc = t.tc := by simp [dropPath]
@[simp] theorem tc_dieCommit (p : Nat) (c : Cell) (s : State) :
    (dieCommit p c s).tsu.tc = s.tsu.tc := by
  unfold dieCommit
  split <;> simp
@[simp] theorem tc_dieRelease (p : Nat) (c : Cell) (s : State) :
    (dieRelease p c s).tsu.tc = s.tsu.tc := by
  unfold dieRelease
  dsimp only
  repeat' (first | intro _ | split | simp [*])
@[simp] theorem tc_dieQuery (p : Nat) (c : Cell) (s : State) : (dieQuery p c s).tsu.tc = s.tsu.tc := by simp [dieQuery]

/-! ## Health -/

@[simp] theorem tc_countSymbols (p n : Nat) (s : State) :
    (countSymbols p n s).tsu.tc = s.tsu.tc := by simp [countSymbols]

/-! ## Swap -/

@[simp] theorem tc_ctrlDown (c : Cell) (s : State) : (ctrlDown c s).tsu.tc = s.tsu.tc := by simp [ctrlDown]
@[simp] theorem tc_cellWrite (p : Nat) (op : WriteOp) (s : State) (h1 : ∀ u, (op.apply u).tsu.tc = u.tsu.tc) (h2 : ∀ u, (op.accept u).tsu.tc = u.tsu.tc) (h3 : ∀ u, (op.refuse u).tsu.tc = u.tsu.tc) :
    (cellWrite p op s).tsu.tc = s.tsu.tc := by simp [cellWrite, *]
@[simp] theorem tc_takeCtrl_die (p action : Nat) (op : Nat → WriteOp) (c : Cell) (s : State) (h1 : ∀ h u, ((op h).apply u).tsu.tc = u.tsu.tc) (h2 : ∀ h u, ((op h).accept u).tsu.tc = u.tsu.tc) (h3 : ∀ h u, ((op h).refuse u).tsu.tc = u.tsu.tc) :
    (takeCtrl .tsu p action op c s).tsu.tc = s.tsu.tc := by
  unfold takeCtrl
  repeat' (first | split | simp [*])
@[simp] theorem tc_takeCtrl_chip (p action : Nat) (op : Nat → WriteOp) (c : Cell) (s : State) (h1 : ∀ h u, ((op h).apply u).tsu.tc = u.tsu.tc) (h2 : ∀ h u, ((op h).accept u).tsu.tc = u.tsu.tc) (h3 : ∀ h u, ((op h).refuse u).tsu.tc = u.tsu.tc) :
    (takeCtrl .fjz p action op c s).tsu.tc = s.tsu.tc := by
  unfold takeCtrl
  repeat' (first | split | simp [*])

/-! ## Halt -/

@[simp] theorem tc_onErrs_die (f : ErrRing → ErrRing) (s : State) :
    (onErrs .tsu f s).tsu.tc = s.tsu.tc := by simp [onErrs]
@[simp] theorem tc_onErrs_chip (f : ErrRing → ErrRing) (s : State) :
    (onErrs .fjz f s).tsu.tc = s.tsu.tc := by simp [onErrs]

/-! ## Meter -/

@[simp] theorem tc_applyParams (p : BitVec 64) (t : Tsu) : (applyParams p t).tc = t.tc := by simp [applyParams]
@[simp] theorem tc_streamPart (i : Nat) (t : Tsu) : (streamPart i t).tc = t.tc := by simp [streamPart]
@[simp] theorem tc_dieRecord (t : Tsu) : (dieRecord t).tc = t.tc := by simp [dieRecord]
@[simp] theorem tc_walkSlot (s : State) :
    (walkSlot s).tsu.tc = s.tsu.tc := by
  unfold walkSlot
  repeat' (first | intro _ | simp [*])
@[simp] theorem tc_tenantRecord (typ : Nat) (w : BitVec 256) (t : Tsu) :
    (tenantRecord typ w t).tc = t.tc := by simp [tenantRecord]
@[simp] theorem tc_tenantStatement (id : Id24) (t : Tsu) : (tenantStatement id t).tc = t.tc := by simp [tenantStatement]
@[simp] theorem tc_closeTenant (id : Id24) (t : Tsu) :
    (closeTenant id t).tc = t.tc := by
  unfold closeTenant
  split <;> simp
@[simp] theorem tc_applySeal (v : BitVec 192) (t : Tsu) : (applySeal v t).tc = t.tc := by simp [applySeal]
@[simp] theorem tc_clearMeter (t : Tsu) : (clearMeter t).tc = t.tc := by simp [clearMeter]

/-! ## Recorder -/

@[simp] theorem tc_drainStaging (s : State) : (drainStaging s).tsu.tc = s.tsu.tc := by simp [drainStaging]
@[simp] theorem tc_recordLeft (c : Cell) (s : State) : (recordLeft c s).tsu.tc = s.tsu.tc := by simp [recordLeft]

/-! ## Replay -/

@[simp] theorem tc_replayFire (h : Nat) (c : Bytes) (s : State) :
    (replayFire h c s).tsu.tc = s.tsu.tc := by simp [replayFire]
@[simp] theorem tc_replayPronk (h : Nat) (c : Bytes) (s : State) :
    (replayPronk h c s).tsu.tc = s.tsu.tc := by simp [replayPronk]
@[simp] theorem tc_replayResult (h : Nat) (c : Bytes) (s : State) :
    (replayResult h c s).tsu.tc = s.tsu.tc := by simp [replayResult]
@[simp] theorem tc_replayChange (h : Nat) (c : Bytes) (s : State) :
    (replayChange h c s).tsu.tc = s.tsu.tc := by simp [replayChange]
@[simp] theorem tc_replayHalt (h : Nat) (c : Bytes) (s : State) :
    (replayHalt h c s).tsu.tc = s.tsu.tc := by simp [replayHalt]
@[simp] theorem tc_replayFault (h : Nat) (c : Bytes) (s : State) :
    (replayFault h c s).tsu.tc = s.tsu.tc := by simp [replayFault]
@[simp] theorem tc_settleMatch (t : Tsu) : (settleMatch t).tc = t.tc := by simp [settleMatch]
@[simp] theorem tc_windowError (r : FeedRec) (t : Tsu) : (windowError r t).tc = t.tc := by simp [windowError]
@[simp] theorem tc_applyFed (h : Nat) (r : FeedRec) (s : State) :
    (applyFed h r s).tsu.tc = s.tsu.tc := by
  unfold applyFed
  split <;> simp
@[simp] theorem tc_takeFed (due : Nat → FeedRec → Bool) (s : State) :
    (takeFed due s).tsu.tc = s.tsu.tc := by
  unfold takeFed
  repeat' (first | split | simp)

/-! ## ObjectWrites -/

@[simp] theorem tc_setP3Limit_die (x : Nat) (s : State) : (setP3Limit .tsu x s).tsu.tc = s.tsu.tc := by simp [setP3Limit]
@[simp] theorem tc_setP3Limit_chip (x : Nat) (s : State) :
    (setP3Limit .fjz x s).tsu.tc = s.tsu.tc := by simp [setP3Limit]
@[simp] theorem tc_setLinkEnable (l : Nat) (on : Bool) (s : State) :
    (setLinkEnable l on s).tsu.tc = s.tsu.tc := by simp [setLinkEnable]
@[simp] theorem tc_setOutput (o : Nat) (f : RefOut → RefOut) (s : State) :
    (setOutput o f s).tsu.tc = s.tsu.tc := by simp [setOutput]

/-! ## Dictionary -/

@[simp] theorem tc_tunnelResponse (p : Nat) (r : Rsp) (s : State) :
    (tunnelResponse p r s).tsu.tc = s.tsu.tc := by
  unfold tunnelResponse
  repeat' (first | split | simp)

/-! ## Tick -/

@[simp] theorem tc_cellBoundary_die (p : Nat) (s : State) :
    (cellBoundary .tsu p s).tsu.tc = s.tsu.tc := by
  unfold cellBoundary
  repeat' (first | split | simp)
@[simp] theorem tc_cellBoundary_chip (p : Nat) (s : State) :
    (cellBoundary .fjz p s).tsu.tc = s.tsu.tc := by
  unfold cellBoundary
  repeat' (first | split | simp)
@[simp] theorem tc_freeSlots (s : State) : (freeSlots s).tsu.tc = s.tsu.tc := by simp [freeSlots]

end Sys2Proof.Machine
end

