-- ==== Sys2Proof/Laws/Tokens.lean ====
section
/-! SUPPORT. The queues of a region once and for all: a token that is next in its queue acts on its tick (R329), and an entry for a
region leaves at once where the TSU holds a credit (R47). -/

namespace Sys2Proof

open Machine

/-- A token that is next acts in the state in which its queue has given its entry of the tick. -/
theorem fromRegion_next {place : Option Place} {n q : Nat} {i : Instr} {act : State → State} {s : State}
    (h : tokenNext place n q s = true) : fromRegion n q i act s.fresh = act (tookToken n q s) := by
  simp only [tokenNext, Bool.and_eq_true, Bool.not_eq_true', decide_eq_true_eq] at h
  obtain ⟨⟨⟨_, hw⟩, ht⟩, hb⟩ := h
  unfold fromRegion tookToken
  simp only [fresh_tsu, ht, hb, hw, Bool.or_self, Bool.false_eq_true, if_false]

/-- The command of a token that is next, on a die that works. -/
theorem performOn_token {n q : Nat} {i : Instr} {act : State → State} {s : State} {ok : Bool} (hok : ok = true)
    (hw : s.tsu.works = true) (h : tokenNext (placeOf i) n q s = true) :
    performOn .tsu ok (inTurn i (fromRegion n q i act)) s = .next (enterErrs (act (tookToken n q s))) := by
  have ha : s.fresh.aheadOf (placeOf i) = false := by
    simp only [tokenNext, Bool.and_eq_true, Bool.not_eq_true'] at h
    exact h.1.1.1
  rw [performOn_works (d := .tsu) hok hw, inTurn_acts ha, fromRegion_next h]

/-- An entry for a region leaves at once where the TSU holds a credit and nothing waits for one. -/
theorem toRegion_free {n q : Nat} {o : Out} {s : State} (h : outFree n q s = true) : toRegion n q o s = putOut n q o s := by
  unfold outFree at h
  unfold toRegion
  rw [if_pos h]

/-- Without a credit it waits, and nothing is lost. -/
theorem toRegion_waits {n q : Nat} {o : Out} {s : State} (h : outFree n q s = false) :
    toRegion n q o s = onRegion n (fun r => { r with outWait := r.outWait ++ [(q, o)] }) s := by
  unfold outFree at h
  unfold toRegion
  simp [h]

@[simp] theorem tookToken_pending (n q : Nat) (s : State) : (tookToken n q s).pending = s.pending := rfl
@[simp] theorem tookToken_later (n q : Nat) (s : State) : (tookToken n q s).later = s.later := rfl
@[simp] theorem tookToken_out (n q : Nat) (s : State) : (tookToken n q s).out = [] := rfl
@[simp] theorem tookToken_staged (n q : Nat) (s : State) : (tookToken n q s).staged = [] := rfl
@[simp] theorem tookToken_fjz (n q : Nat) (s : State) : (tookToken n q s).fjz = s.fjz := rfl
@[simp] theorem tookToken_tc (n q : Nat) (s : State) : (tookToken n q s).tsu.tc = s.tsu.tc := rfl
@[simp] theorem tookToken_herds (n q : Nat) (s : State) : (tookToken n q s).tsu.herds = s.tsu.herds := rfl
@[simp] theorem tookToken_errs (n q : Nat) (s : State) : (tookToken n q s).tsu.errs = s.tsu.errs := rfl

/-- Only the region of the token is touched. -/
theorem tookToken_region (n q : Nat) (s : State) :
    (tookToken n q s).tsu.region n = (s.tsu.region n).take q [] ∧ ∀ m, m ≠ n → (tookToken n q s).tsu.region m = s.tsu.region m :=
  ⟨region_onRegion_same n _ s.fresh, fun _ h => region_onRegion_ne _ s.fresh h⟩

end Sys2Proof
end

