-- ==== Sys2Proof/Tests/Slice0.lean ====
section
/-! SUPPORT. Tests: ill-formed commands that each check refuses, single steps whose results the manual states, and for every
statement with hypotheses a concrete state and operands that meet them. -/

namespace Sys2Proof.Tests
open Machine

/-! ## Small states and requests -/

/-- A die that runs, a Fjouz chip that works as the root, nothing loaded. -/
def board : State :=
  { tsu := { phase := .run, pwrGood := true, postPassed := true, agent := { deviceId := 5, lcFuses := 1, secKeyValid := true } }
    fjz := { rstN := true, selfTest := .passed, firmware := true, role := 1, plane := 0,
             agent := { deviceId := 9, lcFuses := 1, secKeyValid := true } } }

def tsuIs (f : Tsu → Tsu) : State := onTsu f board
def fjzIs (f : Fjz → Fjz) : State := onFjz f board
def tcIs (f : TimeCore → TimeCore) : State := onTc f board

/-- A write of `len` octets in the local window, of the secure world or not. -/
def win (len : Nat) (secure : Bool := true) : Req :=
  { src := .window, busSecure := secure, version := 1, typ := 2, secure := secure, applyAck := false, byPort := false,
    useElement := false, port := 0, reqId := 7, target := 0xFFFFFF, origin := 0, element := 0, length := BitVec.ofNat 16 len,
    secCounter := 0, tag := 0, peer := 0 }

/-- A read in the local window. -/
def winRead : Req := { win 0 with typ := 1 }

/-- A write of `len` octets on the management network, not secure. -/
def net (len : Nat) : Req := { win len false with src := .net, origin := 3 }

/-- A secure write of `n` octets on the management network with the tag `t`. -/
def taggedReq (t : BitVec 128) (n : Nat) : Req := { net n with secure := true, secCounter := 1, tag := t }

/-- The same, signed with the key zero that `board` holds. -/
def signed (index sub : Nat) (v : Bytes) : Req :=
  taggedReq (tagOf 0 (headerBits (taggedReq 0 v.length) index sub 2 v.length 0 false) v) v.length

theorem authOk_tagged (index sub n : Nat) (v : Bytes) (t : BitVec 128)
    (ht : t = tagOf 0 (headerBits (taggedReq 0 n) index sub 2 n 0 false) v) :
    authOk board.fjz.agent (taggedReq t n) (headerBits (taggedReq t n) index sub 2 n 0 false) v = true := by
  have hh : headerBits (taggedReq t n) index sub 2 n 0 false = headerBits (taggedReq 0 n) index sub 2 n 0 false := rfl
  have hc : (taggedReq t n).secCounter = 1 := rfl
  have hg : (taggedReq t n).tag = t := rfl
  unfold authOk
  rw [hh, hc, hg]
  simp only [Bool.and_eq_true, decide_eq_true_eq]
  exact ⟨⟨⟨rfl, rfl⟩, by decide⟩, ht⟩

theorem admits_tagged (index sub : Nat) (access : Access) (v : Bytes) (s : State) (t : BitVec 128)
    (ht : t = tagOf 0 (headerBits (taggedReq 0 v.length) index sub 2 v.length 0 false) v) (ha : s.fjz.agent = board.fjz.agent)
    (hr : agentUp s .fjz = true) (hn : heardNow .fjz (taggedReq 0 v.length) s = true) (hl : v.length ≤ 1024) (h0 : v.length ≠ 0)
    (hro : access ≠ .ro) (hm : access ≠ .sealed) :
    admits .fjz (taggedReq t v.length) index sub access v s = true := by
  have hnt : heardNow .fjz (taggedReq t v.length) s = true := hn
  have hag : agent s .fjz = board.fjz.agent := ha
  have hlen : (taggedReq t v.length).length.toNat = v.length := by simp [taggedReq, net, win]; omega
  have htk : asTaken (taggedReq t v.length) = taggedReq t v.length := rfl
  have hroute : route s .fjz (taggedReq t v.length) = .here := by
    simp only [route, hag]; exact if_pos rfl
  have hw : ∀ op, worldRefused s .fjz (taggedReq t v.length) op = false := fun _ => rfl
  have hh : headStatus board.fjz.agent (taggedReq t v.length) 2 true
      (headerBits (taggedReq t v.length) index sub 2 v.length 0 false) v = stOk := by
    simp only [headStatus, authOk_tagged index sub v.length v t ht, hlen]
    simp [taggedReq, net, win]; intro h; exact absurd h (by omega)
  have hty : (taggedReq t v.length).typ.toNat = 2 := rfl
  have h1 : decide (access ≠ .ro) = true := decide_eq_true hro
  have h2 : decide (v.length ≠ 0) = true := decide_eq_true h0
  simp only [admits, hnt, hr, hroute, htk, hty, hlen, hag, hh, hw, hm, h1, h2]
  rfl

theorem admits_signed (index sub : Nat) (access : Access) (v : Bytes) (s : State) (ha : s.fjz.agent = board.fjz.agent)
    (hr : agentUp s .fjz = true) (hn : heardNow .fjz (taggedReq 0 v.length) s = true) (hl : v.length ≤ 1024) (h0 : v.length ≠ 0)
    (hro : access ≠ .ro) (hm : access ≠ .sealed) : admits .fjz (signed index sub v) index sub access v s = true :=
  admits_tagged index sub access v s _ rfl ha hr hn hl h0 hro hm

/-! ## Every statement's hypotheses are met

Each theorem is named after its statement; its parts stand in the order of the statement's clauses, each with the state and the
operands at which the clause is met, at a boundary where the clause has one. -/

theorem test_hyp_CounterCountsSpineTicks : board.pending = [] ∧ board.tsu.phase ≠ .reset ∧ board.tsu.phase ≠ .faultHold ∧
    ∃ t, exec .powerOnReset board = .next t := ⟨rfl, by decide, by decide, _, rfl⟩

theorem test_hyp_TsuResets : board.tsu.pwrGood = true ∧ (true || false) = true ∧ (false || true) = true :=
  ⟨rfl, rfl, rfl⟩

theorem test_hyp_PowerOnReadsTheSeal : State.reset.tsu.pwrGood = false ∧ State.reset.tsu.meter.isSealed = false ∧
    ({ sealFuses := 1 } : Meter).isSealed = true ∧ State.reset.tsu.meter.tamper.length < 1024 ∧
    State.reset.tsu.meter.bootHt = none := by decide

theorem test_hyp_StartUpPhases : (tsuIs fun t => { t with phase := .init }).tsu.phase = .init ∧ (26#16).toNat ≤ 26 ∧ 26 < (27#16).toNat ∧
    (tsuIs fun t => { t with phase := .post }).tsu.phase = .post ∧
    (port (tsuIs fun t => { t with phase := .post }) .tsu 0).state = .disabled ∧
    (port (tsuIs fun t => { t with phase := .post }) .tsu 1).state = .disabled ∧ 1 ≤ (20#8).toNat ∧ (20#8).toNat ≤ 20 := by decide

def testing (k : U8) : State := tsuIs fun t => { t with phase := .onDemand, bistSel := 12, bistBlock := k }

theorem test_hyp_OnDemandSelfTest :
    (admits .tsu (win 1) 0xB100 3 .rws [1] (tsuIs fun t => { t with bistMask := 12, bistSave := 0x010F30 }) = true ∧
      bistReady (tsuIs fun t => { t with bistMask := 12, bistSave := 0x010F30 }).tsu 2621440 = true) ∧
    (admits .tsu (win 1) 0xB100 3 .rws [1] board = true ∧ bistReady board.tsu 2621439 = false) ∧
    ((testing 4).tsu.phase = .onDemand ∧ ∀ k ∈ blocksIn (testing 4).tsu.bistSel, k ≤ (testing 4).tsu.bistBlock.toNat) ∧
    (4 ∈ blocksIn (testing 3).tsu.bistSel ∧ (testing 3).tsu.bistBlock.toNat < 4 ∧
      ∀ j ∈ blocksIn (testing 3).tsu.bistSel, (testing 3).tsu.bistBlock.toNat < j → 4 ≤ j) ∧
    (true && false) = false := by decide

theorem test_hyp_LifeCycle :
    (admits .tsu (win 8) 0xB000 2 .rws (lcBytes 1 0x4C430001) (tsuIs fun t => { t with agent := { t.agent with lcFuses := 0 } }) = true ∧
      (win 8).src = .window ∧ lcState (tsuIs fun t => { t with agent := { t.agent with lcFuses := 0 } }).tsu.agent = 0 ∧
      (tsuIs fun t => { t with agent := { t.agent with lcFuses := 0 } }).tsu.agent.lcPending = none) ∧
    (admits .tsu (win 8) 0xB000 2 .rws (lcBytes 2 0x4C430002) (tsuIs fun t => { t with meter := { t.meter with cert := some [] } }) = true ∧
      lcState (agent board .tsu) = 1 ∧ (agent board .tsu).lcPending = none ∧ (agent board .tsu).deviceId ≠ 0 ∧
      (agent board .tsu).secKeyValid = true) ∧
    (admits .tsu (win 8) 0xB000 2 .rws (lcBytes 3 0x4C430003) board = true ∧ board.tsu.allFree = true ∧
      board.tsu.meter.isSealed = false) ∧
    (agent (tsuIs fun t => { t with agent := { t.agent with lcPending := some 1 } }) .tsu).lcPending = some 1 ∧
    admits .tsu (win 32) 0xB000 3 .wo (bvBytes (7 : BitVec 256)) board = true := by decide

theorem test_hyp_FjouzStart : State.reset.fjz.rstN = false ∧
    ((fjzIs fun x => { x with selfTest := .running }).fjz.rstN = true ∧
      (fjzIs fun x => { x with selfTest := .running }).fjz.selfTest = .running) ∧ (1 ≤ (7#8).toNat ∧ (7#8).toNat ≤ 7) ∧
    (board.fjz.rstN = true ∧ board.fjz.mgmtOk = true ∧ board.fjz.selfTest ≠ .running) ∧
    (admits .fjz (signed 0x1000 7 [3]) 0x1000 7 .rws [3] board = true ∧ board.fjz.portsOff = true) := by
  refine ⟨?_, ?_, ?_, ?_, admits_signed _ _ _ _ _ rfl rfl rfl (by decide) (by decide) (by decide) (by decide), ?_⟩ <;> decide

/-- The time core in a state and at a count. -/
def timed (st : TimeState) (f : U64) : State := tcIs fun tc => { tc with state := st, frc := f }

theorem test_hyp_HallTimeRoundsToNearestEven :
    (let tc : TimeCore := { offset := 7, rate := -3 }
     ((5 : Int) * 65536 + tc.offset.toNat) * 2 ^ 24 + 5 * tc.rate.toInt = 5497675579377 ∧ (0 : Int) ≤ 5497675579377 ∧
       (5497675579377 : Int) < 2 ^ 103) ∧
    ({ offset := 7, frc := 1 } : TimeCore).offset = ({ offset := 7, frc := 2 } : TimeCore).offset := by decide

theorem test_hyp_TargetFiresOnTheFirstTick : ({ rate := 2 ^ 28 } : TimeCore).rate.toInt.natAbs ≤ 2 ^ 28 ∧
    ({ rate := -(2 ^ 28) } : TimeCore).rate.toInt.natAbs ≤ 2 ^ 28 := by decide

/-- The mapping may be written (R33). -/
def free : State := timed .freeRun 0

theorem test_hyp_RateOutOfRangeIsRefused : 2 ^ 28 < (2 ^ 28 + 1 : I64).toInt.natAbs ∧
    admits .tsu (win 8) 0x2140 4 .rws (bvBytes (2 ^ 28 + 1 : I64)) free = true ∧ mappingWritable free.tsu = true ∧
    (-(2 ^ 28) : I64).toInt.natAbs ≤ 2 ^ 28 ∧ admits .tsu (win 8) 0x2140 4 .rws (bvBytes (-(2 ^ 28) : I64)) free = true := by decide

theorem test_hyp_MappingWrites : admits .tsu (win 10) 0x2140 2 .rws (bvBytes (5 : HT)) free = true ∧ mappingWritable free.tsu = true ∧
    (admits .tsu (win 10) 0x2140 2 .rws (bvBytes (5 : HT)) (timed .holdover 0) = true ∧ mappingWritable (timed .holdover 0).tsu = false) ∧
    (admits .tsu (win 8) 0x2140 4 .rws (bvBytes (2 ^ 28 : I64)) free = true ∧ (2 ^ 28 : I64).toInt.natAbs ≤ 2 ^ 28) ∧
    (admits .tsu (win 8) 0x2160 1 .rws (bvBytes (-1000000 : I64)) free = true ∧ (-1000000 : I64).toInt.natAbs ≤ 1000000) ∧
    (admits .tsu (win 8) 0x2160 1 .rws (bvBytes (1000000 : I64)) (timed .locked 0) = true ∧ (timed .locked 0).tsu.tc.state = .locked) ∧
    admits .tsu (win 1) 0x2140 5 .wo [1] free = true := by decide

theorem test_hyp_PulsePerSecond : (timed .locked 1000000000).tsu.works = true ∧
    (timed .locked 1000000000).tsu.tc.ppsUntil ≤ (timed .locked 1000000000).tsu.tc.frc.toNat ∧
    nsOf (timed .locked 1000000000).tsu.now % 1000000000 = 0 ∧ nsOf (timed .locked 1000000001).tsu.now % 1000000000 ≠ 0 ∧
    ¬((timed .narrow 0).tsu.tc.state = .locked ∨ (timed .narrow 0).tsu.tc.state = .holdover) := by decide

/-- A die that coasts, and one long enough in LOCKED over 2 K to trust its model. -/
def coasting : State := tcIs fun tc => { tc with state := .holdover, takenOver := true, rate := 64 }
def learned : State := tcIs fun tc => { tc with state := .locked, lockedSince := some 0, tempSpan := some (0, 2000), frc := 300000000000 }

theorem test_hyp_HoldoverAndLock :
    (board.tsu.works = true ∧ board.tsu.tc.frc.toNat % 2 ^ 20 = 0 ∧ board.tsu.tc.state ≠ .holdover) ∧
    (coasting.tsu.works = true ∧ coasting.tsu.tc.frc.toNat % 2 ^ 20 = 0 ∧ coasting.tsu.tc.state = .holdover ∧ coasting.tsu.tc.regained = false ∧
      coasting.tsu.tc.rate.toInt.natAbs ≤ 2 ^ 28) ∧
    (coasting.tsu.tc.takenOver = true ∧ (100 : Int).natAbs ≤ 100 ∧ coasting.tsu.tc.slewRemaining = 0) ∧
    (learned.tsu.works = true ∧ learned.tsu.tc.lockedSince = some 0 ∧ learned.tsu.tc.tempSpan = some (0, 2000) ∧
      learned.tsu.tc.state = .locked ∧ 0 + 300000000000 ≤ learned.tsu.tc.frc.toNat ∧ 2000 ≤ (2000 : Int) - 0) ∧
    ((timed .narrow 1000000000).tsu.works = true ∧ (timed .narrow 1000000000).tsu.tc.state = .narrow ∧
      (timed .narrow 1000000000).tsu.tc.lockSlow = false ∧
      (timed .narrow 1000000000).tsu.tc.narrowSince + 1000000000 ≤ (timed .narrow 1000000000).tsu.tc.frc.toNat) := by decide

theorem test_hyp_Snapshots : (15 < 16) ∧ (board.tsu.works = true ∧ board.tsu.tc.frc.toNat % 65536 = 0 ∧ 51 < 52 ∧
      (List.replicate 52 (0 : BitVec 48)).length = 52) ∧
    admits .tsu (win 1) (0x2400 + 51) 7 .wo [1] board = true := by decide

theorem test_hyp_RegionReports : board.tsu.works = true ∧ 51 < 52 ∧ (board.tsu.region 51).bias = 0 ∧
    admits .tsu (win 1) 0x2440 2 .rws [255] board = true ∧ admits .tsu (win 1) 0x2440 6 .wo [1] board = true ∧
    phase8Waits board = false ∧ board.tsu.replayStrict = false ∧ tokenNext none 51 qTime board = true ∧ outFree 51 oTime board = true := by
  decide

/-- A port of both parts in one state. -/
def portIs (f : Port → Port) : State := onPort .tsu 1 f (onPort .fjz 71 f board)

/-- Nine codewords in order, the first of which shows no lock, and sixteen bad ones behind a good one. -/
def codewords : List RxCw := [⟨7, false, true⟩] ++ (List.range 8).map fun i => ⟨9 + BitVec.ofNat 12 i, decide (i = 7), false⟩

theorem test_hyp_PortStates :
    (portOk .tsu 1 = true ∧ admits .tsu (win 1) (0x3100 + 1) 2 .rws [1] board = true ∧ (port board .tsu 1).state = .disabled ∧
      portFree board .tsu 1 = true) ∧
    (portOk .fjz 71 = true ∧ admits .fjz (signed (0x3100 + 71) 2 [0]) (0x3100 + 71) 2 .rws [0] (portIs fun x => { x with state := .up }) = true ∧
      (port (portIs fun x => { x with state := .up }) .fjz 71).state ≠ .disabled) ∧
    (partWorks (portIs fun x => { x with state := .train }) .fjz = true ∧
      (port (portIs fun x => { x with state := .train }) .fjz 71).state = .train ∧
      (port (portIs fun x => { x with media := .optical }) .fjz 71).media = .optical) ∧
    (let s := { portIs fun x => { x with state := .train } with tsu := (onTsu (fun t => { t with tc := { t.tc with frc := 10000000 } })
        (portIs fun x => { x with state := .train })).tsu }
     partWorks s .tsu = true ∧ (port s .tsu 1).state = .train ∧ (port s .tsu 1).since + 10000000 ≤ counterOf s .tsu) ∧
    (let s := onTc (fun tc => { tc with frc := 1000000 }) (portIs fun x => { x with state := .downHold })
     partWorks s .tsu = true ∧ (port s .tsu 1).state = .downHold ∧ (port s .tsu 1).since + 1000000 ≤ counterOf s .tsu) ∧
    ((port (portIs fun x => { x with state := .lock }) .tsu 1).state = .lock ∧ (port (portIs fun x => { x with state := .lock }) .tsu 1).rxLock = false ∧
      codewords = [⟨7, false, true⟩] ++ (List.range 8).map fun i => ⟨9 + BitVec.ofNat 12 i, decide (i = 7), false⟩) ∧
    ((port (portIs fun x => { x with state := .lock, rxLock := true }) .tsu 1).state = .lock ∧
      (port (portIs fun x => { x with state := .lock, rxLock := true }) .tsu 1).rxLock = true) ∧
    ((port (portIs fun x => { x with state := .up, rxLock := true }) .tsu 1).rxLock = true ∧
      (port (portIs fun x => { x with state := .up, rxLock := true }) .tsu 1).state = .up ∧
      (List.replicate 16 (⟨3, false, true⟩ : RxCw)).length = 16 ∧ ∀ c ∈ List.replicate 16 (⟨3, false, true⟩ : RxCw), c.bad = true) := by
  refine ⟨?_, ⟨?_, admits_signed _ _ _ _ _ rfl rfl rfl (by decide) (by decide) (by decide) (by decide), ?_⟩, ?_, ?_, ?_, ?_, ?_, ?_⟩ <;> decide

theorem test_hyp_LinkDownLeavesThePortQuiet : (port (portIs fun x => { x with state := .hello }) .fjz 71).state ≠ .up ∧ (6 : U8) ≠ 3 ∧
    (portIs fun x => { x with state := .hello }).staged = [] := by decide

/-- A HELLO from the Fjouz chip of plane B, and a die that is UP or in HELLO on its port 1. -/
def helloBody (framing role plane : Nat) (ack : Bool) : BitVec 448 :=
  pack 448 [(0, 16, framing), (16, 16, 1), (88, 2, role), (90, 1, plane), (91, 1, b2n ack)]

/-- A port of each part is UP and holds lock. -/
def up : State := portIs fun x => { x with state := .up, rxLock := true, rfFromPeer := false, slots := 800 }
def late (f : U64) : State := onFjz (fun x => { x with frc := f }) (onTc (fun tc => { tc with frc := f }) up)

/-- The port of a part that is in HELLO. -/
def greeting : State := portIs fun x => { x with state := .hello, rxLock := true, slots := 10240 }
def helloOf (framing role plane : Nat) (ack : Bool) : Cell := { mkCell 8 0 0 0 with body := helloBody framing role plane ack }

theorem test_hyp_LinkRetry :
    (portOk .fjz 71 = true ∧ partWorks up .fjz = true ∧ (port up .fjz 71).rxLock = true ∧ (port up .fjz 71).state = .up) ∧
    (arrives .tsu 1 7 (mkCell 7 0 0 0) up = true ∧ codewordAge (port up .tsu 1) (fld (mkCell 7 0 0 0).hdr 32 12) ≤ 80 ∧
      80 < codewordAge (port up .tsu 1) (fld (mkCell 7 4095 0 0).hdr 32 12) ∧ arrives .tsu 1 7 (mkCell 7 4095 0 0) up = true) ∧
    (let s := onPort .tsu 1 (fun x => { x with gaps := [⟨5, 0, 7000, 1, 0⟩] }) (late 8000)
     (port s .tsu 1).state = .up ∧ (⟨5, 0, 7000, 1, 0⟩ : Gap) ∈ (port s .tsu 1).gaps ∧ 7000 + 1000 ≤ counterOf s .tsu ∧
       0 + 8000 ≤ counterOf s .tsu ∧ (⟨5, 0, 7000, 1, 0⟩ : Gap).ahead ≠ 0) ∧
    ((port greeting .fjz 71).rxLock = true ∧ (port greeting .fjz 71).state ≠ .up) := by decide

theorem test_hyp_TimeExchange :
    (portOk .fjz 71 = true ∧ partWorks up .fjz = true ∧ isChildSide up .fjz 71 = false ∧
      (port (portIs fun x => { x with state := .up, slots := 10240 }) .fjz 71).slots / 10 % 1024 = 0 ∧
      (port (portIs fun x => { x with state := .up, slots := 10240 }) .fjz 71).state = .up) ∧
    (portOk .tsu 1 = true ∧ partWorks up .tsu = true ∧ arrives .tsu 1 1 (mkCell 1 0 3 0) up = true ∧ isChildSide up .tsu 1 = true) ∧
    ((port (portIs fun x => { x with state := .up, slots := 5129 }) .tsu 1).slots / 10 % 1024 = 512 ∧
      (port (portIs fun x => { x with state := .up, slots := 5129 }) .tsu 1).state = .up) ∧
    arrives .fjz 71 2 (mkCell 2 0 0 0) up = true ∧
    (let s := onPort .tsu 1 (fun x => { x with t12 := some (1, 2), t3 := some (3, 0) }) up
     arrives .tsu 1 3 (mkCell 3 0 3 0) s = true ∧ (port s .tsu 1).t12 = some (1, 2) ∧ (port s .tsu 1).t3 = some (3, 0) ∧
       (0 : BitVec 12) = fld (mkCell 3 0 3 0).body 80 12) ∧
    ((port (late 1000000000) .tsu 1).state = .up ∧ (port (late 1000000000) .tsu 1).measuredAt + 1000000000 ≤ counterOf (late 1000000000) .tsu) ∧
    ((8 : U32).toNat - (0 : U32).toNat : Int).natAbs ≤ 8 ∧ (port up .tsu 1).slots % 10 = 0 := by decide

def tapped : State := onLink 95 (fun x => { x with enable := true }) (tcIs fun tc => { tc with htValid := true })
/-- With one marker sent no other is nearer. -/
theorem nearest_only (u sent there : HT) (hu : u ∈ [sent]) (hn : u ≠ sent) : (sent - there).toInt.natAbs < (u - there).toInt.natAbs :=
  absurd (List.mem_singleton.mp hu) hn

def baselining : State := onLink 95 (fun x => { x with enable := true, state := 4 })
  (tcIs fun tc => { tc with state := .locked, htValid := true, frc := 600000000000 })

theorem test_hyp_LateralTaps :
    (tapped.tsu.works = true ∧ 95 < 96 ∧ (tapped.tsu.link 95).enable = true ∧ tapped.tsu.tc.htValid = true ∧
      (tapped.tsu.link 95).sentAt = none) ∧
    (let m : Marker := ⟨5, true, some 7, 2⟩
     let s := onLink 95 (fun x => { x with sentHts := [1], last := List.replicate 15 0 }) tapped
     m.originValid = true ∧ (s.tsu.link 95).sentHts = [1] ∧ (s.tsu.link 95).enable = true ∧ m.lastArrival = some 7 ∧
       (s.tsu.link 95).last.length = 15) ∧
    admits .tsu (win 1) 0x3380 2 .wo [1] board = true ∧
    (baselining.tsu.works = true ∧ (baselining.tsu.link 95).hasBaseline = false ∧ (baselining.tsu.link 95).state = 4 ∧
      baselining.tsu.tc.state = .locked ∧ nsOf baselining.tsu.tc.entryHt + 600000000000 ≤ nsOf baselining.tsu.now) := by decide

theorem test_hyp_TransmitTimeStamps : board.tsu.works = true ∧ board.tsu.txts.length < 64 ∧ board.tsu.txts = [] ∧
    board.aheadOf (placeOf (.txTimestamp 95 0xFFFF ⟨0, 124⟩)) = false ∧ (tsuIs fun t => { t with txts := [1] }).tsu.txts.length < 64 ∧
    64 ≤ (tsuIs fun t => { t with txts := List.replicate 64 1 }).tsu.txts.length ∧
    admitsRead .tsu winRead 0x3300 1 true board = true ∧ admits .tsu (win 1) 0x3300 4 .wo [1] board = true := by decide

/-- A chip of a level, with one candidate. -/
def refs (role : U8) (c : Nat) (f : Cand → Cand) : State := onCand c f (fjzIs fun x => { x with role := role })

theorem test_hyp_CandidateStates :
    (let s := refs 3 0 fun k => { k with typ := 1, priority := 1, sqcAssigned := 3, freqTol := 2000, state := .disqualified }
     s.fjz.works = true ∧ s.fjz.hasCand 0 = true ∧ (s.fjz.cand 0).typ ≠ 0 ∧ (s.fjz.cand 0).priority ≠ 0 ∧ (s.fjz.cand 0).received ≠ 7 ∧
       4 * (500000 : Int).natAbs ≤ 1000 * (s.fjz.cand 0).freqTol.toNat ∧ (s.fjz.cand 0).state = .disqualified ∧ (s.fjz.cand 0).ppsAt = none) ∧
    (let s := refs 3 0 fun k => { k with typ := 1, priority := 1, sqcAssigned := 3, freqTol := 2000, state := .waiting, wtrLeft := 1 }
     (s.fjz.cand 0).typ = 1 ∧ (s.fjz.cand 0).sqcAssigned ≠ 7 ∧ (1999999 : Int).natAbs < 1000 * (s.fjz.cand 0).freqTol.toNat ∧
       (s.fjz.cand 0).state = .waiting ∧ (s.fjz.cand 0).wtrLeft = 1) ∧
    (typeAllowed 9 5 = true ∧ admits .fjz (signed (0x4100 + 9) 1 [5]) (0x4100 + 9) 1 .rws [5] board = true) ∧
    admits .fjz (signed (0x4100 + 9) 3 [0]) (0x4100 + 9) 3 .rws [0] board = true ∧
    admits .fjz (signed 0x4200 7 [255]) 0x4200 7 .rws [255] board = true ∧
    ((refs 3 6 fun k => { k with typ := 4, state := .qualified }).fjz.cand 6).state ≠ .absent ∧
    (let s := refs 1 9 fun k => { k with typ := 5, state := .qualified }
     s.fjz.works = true ∧ s.fjz.hasCand 9 = true ∧ (s.fjz.cand 9).typ = 5 ∧ (s.fjz.cand 9).state ≠ .absent ∧
       bleatFresh s.fjz.frc.toNat (port s .fjz (s.fjz.candPort 9)) = false) := by
  refine ⟨?_, ?_, ⟨?_, admits_signed _ _ _ _ _ rfl rfl rfl ?_ ?_ ?_ ?_⟩, admits_signed _ _ _ _ _ rfl rfl rfl ?_ ?_ ?_ ?_,
    admits_signed _ _ _ _ _ rfl rfl rfl ?_ ?_ ?_ ?_, ?_, ?_⟩ <;> decide

def rooted : State := fjzIs fun x => { x with role := 3 }

theorem test_hyp_ReferenceSwitch :
    (let w : Switch := ⟨4, false, false, 0⟩
     let s := onCand 4 (fun k => { k with typ := 3 }) (fjzIs fun x => { x with role := 3, lock := .lock, switch := some w, frc := 16000000000 })
     s.fjz.works = true ∧ s.fjz.lock = .lock ∧ s.fjz.switch = some w ∧ w.freq = false ∧
       w.started + windowTicks (s.fjz.cand w.target) ≤ s.fjz.frc.toNat) ∧
    (let w : Switch := ⟨0, false, true, 0⟩
     let s := onCand 0 (fun k => { k with typ := 1, priority := 1, state := .qualified, sqcEff := 0 })
       (fjzIs fun x => { x with role := 3, lock := .lock, switch := some w, frc := 1000000000 })
     s.fjz.works = true ∧ s.fjz.lock = .lock ∧ s.fjz.switch = some w ∧ w.freq = true ∧ w.started + 1000000000 ≤ s.fjz.frc.toNat ∧
       s.fjz.bestFreq = some w.target) ∧
    (admits .fjz (signed 0x4200 8 [1]) 0x4200 8 .rws [1] rooted = true ∧ rooted.fjz.role = 3 ∧ rooted.fjz.switch = none) ∧
    (admits .fjz (signed 0x4200 8 [1]) 0x4200 8 .rws [1] board = true ∧ board.fjz.role ≠ 3) := by
  refine ⟨?_, ?_, ⟨admits_signed _ _ _ _ _ rfl rfl rfl ?_ ?_ ?_ ?_, ?_, ?_⟩, admits_signed _ _ _ _ _ rfl rfl rfl ?_ ?_ ?_ ?_, ?_⟩ <;> decide

/-- Five points of an OCXO table, 20 K apart. -/
def ocxo : BitVec 320 := pack 320 ((List.range 5).map fun i => (64 * i, 32, 5000 * i))

theorem test_hyp_HoldoverOfAChip :
    (admits .fjz (signed 0x4200 0x0F [1]) 0x4200 0x0F .rws [1] board = true ∧ board.fjz.lock = .free ∧ board.fjz.established = false) ∧
    (let s := onCand 4 (fun k => { k with typ := 3, priority := 1, state := .qualified, sqcEff := 0, eligibleSince := some 0 })
       (fjzIs fun x => { x with role := 3, lock := .hold, frc := 10000000000 })
     s.fjz.works = true ∧ s.fjz.lock = .hold ∧ s.fjz.markEligible.bestTime = some 4 ∧ s.fjz.markEligible.eligible 4 = true ∧
       (s.fjz.markEligible.cand 4).isTime = true ∧ (s.fjz.markEligible.cand 4).eligibleSince = some 0 ∧
       0 + s.fjz.holdWtr.toNat * 1000000000 ≤ s.fjz.frc.toNat ∧ s.fjz.switch = none) ∧
    (board.fjz.works = true ∧ board.fjz.lock ≠ .hold) ∧ (fjzIs fun x => { x with lock := .hold }).fjz.lock = .hold ∧
    (admits .fjz (signed 0x4300 1 (bvBytes ocxo)) 0x4300 1 .rws (bvBytes ocxo) board = true ∧ ocxoOk ocxo = true) ∧
    (let s := fjzIs fun x => { x with lock := .lock, lockSince := some 0, frc := 86400000000000 }
     s.fjz.works = true ∧ s.fjz.lockSince = some 0 ∧ 0 + 86400000000000 ≤ s.fjz.frc.toNat) := by
  refine ⟨⟨admits_signed _ _ _ _ _ rfl rfl rfl ?_ ?_ ?_ ?_, ?_, ?_⟩, ?_, ?_, ?_, ⟨admits_signed _ _ _ _ _ rfl rfl rfl ?_ ?_ ?_ ?_, ?_⟩, ?_⟩ <;>
    decide

def announce : Announce := ⟨0, 0, 1000000000, 7, 0, true, 0, 6, 0, 0, 0, 0⟩
/-- A root whose PTP port 1 follows a grandmaster and has the first three stamps of an exchange. -/
def ptp : State :=
  onEth 1 (fun x => { x with gm := 7, senders := [announce], t1 := some 1, t2 := some 2, t3 := some 3, syncSeq := some 5, delaySeq := 5 })
    (onCand 5 (fun k => { k with state := .qualified }) rooted)

theorem test_hyp_PtpExchange :
    (let m : PtpMsg := ⟨0, 0, 7, 0, 5, 9, 0, true⟩
     ptp.fjz.works = true ∧ 1 < 2 ∧ ptpFor ptp 1 m = true ∧ (ptp.fjz.eth 1).syncSeq = some m.seqId ∧ ptp.fjz.role = 3 ∧
       (ptp.fjz.eth 1).t1 = some 1 ∧ (ptp.fjz.eth 1).t2 = some 2 ∧ (ptp.fjz.eth 1).t3 = some 3 ∧ m.seqId = (ptp.fjz.eth 1).delaySeq) ∧
    (announce.ptpTimescale = true ∧ announce.domain = (rooted.fjz.eth 1).domain ∧ (rooted.fjz.eth 1).senders = [] ∧ announce.transport = (rooted.fjz.eth 1).transport ∧
      (rooted.fjz.eth 1).unicast = 0 ∧ (rooted.fjz.eth 1).delayAt = none) ∧
    ((ptp.fjz.cand (4 + 1)).state ≠ .absent ∧ (∃ a ∈ (ptp.fjz.eth 1).senders, a.gm = (ptp.fjz.eth 1).gm) ∧
      ∀ a ∈ (ptp.fjz.eth 1).senders, ∀ h ∈ (ptp.fjz.eth 1).heardAt, h.1 = a.gm → h.2 + 3 * a.intervalNs ≤ ptp.fjz.frc.toNat) := by
  decide

/-- A candidate with a pulse that waits, and a message of its second whose check code is right. -/
def pulsed : State := refs 3 3 fun k => { k with typ := 2, state := .qualified, ppsAt := some 0, ppsStamp := some 9 }
def tod : BitVec 184 :=
  let m : BitVec 184 := pack 184 [(0, 8, 0xA5), (8, 8, 1)]
  m ||| ((crc16 ((bvBytes m).take 21)).setWidth 184 <<< 168)

theorem test_hyp_ReferenceInputsAndOutputs :
    (let s := refs 3 3 fun k => { k with typ := 2, unused := 2 }
     s.fjz.works = true ∧ 3 < 4 ∧ (s.fjz.cand 3).typ = 2 ∧ (s.fjz.cand 3).ppsStamp = none ∧ (s.fjz.cand 3).unused < 3) ∧
    (pulsed.fjz.works = true ∧ (pulsed.fjz.cand 3).typ = 2 ∧ (pulsed.fjz.cand 3).ppsAt = some 0 ∧ (pulsed.fjz.cand 3).ppsStamp = some 9 ∧
      todOk tod = true ∧ pulsed.fjz.frc.toNat ≤ 0 + 500000000) ∧
    (rooted.fjz.works = true ∧ 1 < 2 ∧ rooted.fjz.role = 3 ∧ (rooted.fjz.cand (6 + 1)).typ ≠ 1 ∧ (rooted.fjz.eth 1).esmcAt = none ∧
      (let s := onEth 1 (fun x => { x with esmcAt := some 1 }) (refs 3 7 fun k => { k with typ := 4, state := .qualified })
       (s.fjz.cand (6 + 1)).state ≠ .absent)) ∧
    (let s := fjzIs fun x => { x with established := true, frc := 999999999, outs := [(3, { mode := 2, adv := 1 })] }
     s.fjz.works = true ∧ (s.fjz.outs.get {} 3).mode = 2 ∧ s.fjz.established = true ∧
       nsOf s.fjz.now + cdiv (s.fjz.outs.get {} 3).adv.toNat 1000 = 1 * 1000000000) := by decide +kernel

theorem test_hyp_ExactlyOneLockPin : (fjzIs fun x => { x with lock := .lock }).fjz.rstN = true ∧
    (fjzIs fun x => { x with lock := .lock }).fjz.lock = .lock := by decide

/-- A BLEAT from a Fjouz chip with good time and SQC 0. -/
def bleatCell : Cell := mkCell 4 0 7 (pack 448 [(0, 80, 65536), (80, 1, 1)])

theorem test_hyp_BleatGivesAndKeepsTime :
    (let s := portIs fun x => { x with state := .up, slots := 7680 }
     partWorks s .tsu = true ∧ (port s .tsu 1).state = .up ∧
       (port s .tsu 1).slots / 10 % 1024 = (if isChildSide s .tsu 1 then 768 else 256)) ∧
    (up.tsu.works = true ∧ arrives .tsu 1 4 bleatCell up = true ∧ bleatUp bleatCell.body = false ∧ up.tsu.tc.state = .unset ∧
      bleatOk bleatCell.body = true ∧ bleatSqc bleatCell.body < 7 ∧ up.tsu.configured .b = true) ∧
    (let s := tcIs fun tc => { tc with state := .narrow, selPlane := some .a }
     s.tsu.works = true ∧ s.tsu.tc.state = .narrow ∧ s.tsu.tc.selPlane = some .a ∧
       bleatFresh s.tsu.tc.frc.toNat (port s .tsu (planePort .a)) = false ∧ planeLost s (otherPlane .a) = true) := by decide

/-- A die LOCKED to plane A, with plane B fresh and better. -/
def twoPlanes : State :=
  onTc (fun tc => { tc with state := .locked, selPlane := some .a, sqcA := 4, sqcB := 2, betterSince := some 0, frc := 10000000000,
                            planeWtrS := 10 })
    (portIs fun x => { x with state := .up, lastBleat := some (10000000000, 0) })

theorem test_hyp_ChoiceOfPlane :
    (twoPlanes.tsu.works = true ∧ twoPlanes.tsu.tc.state = .locked ∧ twoPlanes.tsu.tc.selPlane = some .a ∧ twoPlanes.tsu.tc.forcePlane = 0 ∧
      planeLost twoPlanes (otherPlane .a) = false ∧ twoPlanes.tsu.tc.effSqc (otherPlane .a) < twoPlanes.tsu.tc.effSqc .a ∧
      twoPlanes.tsu.tc.betterSince = some 0 ∧ 0 + twoPlanes.tsu.tc.planeWtrS.toNat * 1000000000 ≤ twoPlanes.tsu.tc.frc.toNat ∧
      twoPlanes.tsu.tc.demoted .a = false) ∧
    (admits .tsu (win 1) 0x4800 4 .rws [1] board = true ∧ admits .tsu (win 1) 0x4800 4 .rws [2] board = true ∧ (2 : U8).toNat ≤ 2 ∧
      board.tsu.configured .a = true ∧ board.tsu.configured .b = true) ∧
    (bothPlanes twoPlanes = false ∧
      (let s := onPort .tsu 0 (fun x => { x with state := .up }) twoPlanes
       bothPlanes s = true ∧ s.tsu.tc.state = .locked ∧ s.tsu.tc.driftHigh < 9 ∧ s.tsu.tc.driftLow < 59)) ∧
    admits .tsu (win 1) 0x4800 8 .wo [1] board = true ∧
    (admits .tsu (win 1) 0x4800 0x0A .rws [2] (tsuIs fun t => { t with herds := [(63, { state := .loaded })] }) = true ∧
      (tsuIs fun t => { t with herds := [(63, { state := .loaded })] }).tsu.allFree = false) ∧
    (admits .tsu (win 1) 0x4800 0x0A .rws [2] board = true ∧ board.tsu.allFree = true ∧ board.tsu.phase = .run ∧
      (port board .tsu 0).state = .disabled ∧ (port board .tsu 1).state = .disabled) := by decide

/-- A leaf that holds herd 3, as its top or below it. -/
def tree (span : U8) (k : PronkCtr) : State :=
  onPort .fjz 0 (fun x => { x with state := .up }) (onPort .fjz 64 (fun x => { x with state := .up }) (onPronk 3 (fun _ => k)
    (fjzIs fun x => { x with resvs := [⟨3, 1, span, 4, 0, true, true, [], [], [], [], 4, false, 0⟩] })))

/-- A request for herd 3 of four members, with sequence number 1 and a fire time 100,000 ns ahead. -/
def request : BitVec 256 := pack 256 [(0, 32, 3), (32, 32, 1), (64, 80, 100000 * 65536), (192, 16, 1), (208, 32, 4), (248, 8, 1)]
def ackCell (ready refused : Nat) : Cell := mkPronk 9 phAck 3 1 0 0 1 [(196, 24, ready), (220, 24, refused)]

theorem test_hyp_PronkOnTheTree :
    (admits .fjz (signed 0x5900 1 (bvBytes (withPhase phArm request))) 0x5900 1 .wo (bvBytes (withPhase phArm request)) board = true ∧
      requestReady (withPhase phArm request) board = false ∧ requestReady (withPhase phArm request) (tree 0 {}) = true ∧
      requestRange (withPhase phArm request) (tree 0 {}) = true ∧ requestRange (withPhase phArm (putN request 32 32 0)) (tree 0 { accepted := some 0 }) = false) ∧
    (requestReady (withPhase phStep request) (tree 0 {}) = true ∧ requestRange (withPhase phStep request) (tree 0 {}) = true ∧
      admits .fjz (signed 0x5900 1 (bvBytes (withPhase phStep request))) 0x5900 1 .wo (bvBytes (withPhase phStep request)) (tree 0 {}) = true) ∧
    (requestReady (withPhase phCancel request) (tree 0 { origin := true, seq := 1 }) = true ∧
      admits .fjz (signed 0x5900 1 (bvBytes (withPhase phCancel request))) 0x5900 1 .wo (bvBytes (withPhase phCancel request))
        (tree 0 { origin := true, seq := 1 }) = true) ∧
    (let s := tree 0 { origin := true, seq := 1, memberCount := 4 }
     s.fjz.works = true ∧ arrives .fjz 0 5 (ackCell 4 0) s = true ∧ kPhase (ackCell 4 0) = 1 ∧ isChildSide s .fjz 0 = false ∧
       s.fjz.holdsHerd (kHerd (ackCell 4 0)) = true ∧ (s.fjz.pronk 3).seq = kSeq (ackCell 4 0) ∧ (s.fjz.pronk 3).origin = true ∧
       (let k := s.fjz.pronk 3
        { k with ready := k.ready.set 0 0 4, refused := k.refused.set 0 0 0 }.readySum = k.memberCount.toNat)) ∧
    (let s := tree 0 { origin := true, fireHt := htOfNs 20000 }
     (s.fjz.pronk 3).refusedSum = 0 ∧ (s.fjz.pronk 3).fireHt.toNat ≤ s.fjz.now.toNat + s.fjz.commitLead.toNat * 65536) ∧
    (let s := tree 1 { ready := [(0, 4)] }
     s.fjz.holdsHerd 3 = true ∧ s.fjz.isTop 3 = false ∧ (s.fjz.pronk 3).sentAt = none ∧
       ((s.fjz.pronk 3).readySum, (s.fjz.pronk 3).refusedSum) ≠ (s.fjz.pronk 3).sent) ∧
    (arrives .fjz 64 5 (mkPronk 9 phArm 3 1 0 0 1 []) (tree 1 {}) = true ∧ (tree 1 {}).fjz.parentPort = some 64 ∧
      (tree 1 {}).fjz.holdsHerd (kHerd (mkPronk 9 phArm 3 1 0 0 1 [])) = true ∧ kPhase (mkPronk 9 phArm 3 1 0 0 1 []) = 0) := by
  refine ⟨⟨admits_signed _ _ _ _ _ rfl rfl rfl ?_ ?_ ?_ ?_, ?_, ?_, ?_, ?_⟩, ⟨?_, ?_, admits_signed _ _ _ _ _ rfl rfl rfl ?_ ?_ ?_ ?_⟩,
    ⟨?_, admits_signed _ _ _ _ _ rfl rfl rfl ?_ ?_ ?_ ?_⟩, ?_, ?_, ?_, ?_⟩ <;> decide

/-- A die whose context 63 holds herd 3, with port 1 UP. -/
def member (x : Herd) : State :=
  onTsu (fun t => { t with herds := [(63, x)], steps := [(0, pack 512 [(256, 3, 6)])], templates := [(0, { id := 1, valid := true })],
                           tc := { t.tc with state := .locked, htValid := true, frc := 40000 } })
    (onPort .tsu 1 (fun x => { x with state := .up }) board)
def pronkCell (phase : Nat) (rest : List (Nat × Nat × Nat)) : Cell := mkPronk 9 phase 3 1 (htOfNs 70000) 0 1 rest
def resting : Herd := { herdId := 3, state := .loaded, stepCount := 4, templateId := 1 }
def armed : Herd := { resting with state := .armed, seqLast := 1, fireHt := htOfNs 40000, decideTick := some 40000, fireTick := some 40000 }

theorem test_hyp_PronkAtTheDie :
    (let s := member resting
     s.tsu.works = true ∧ arrives .tsu 1 5 (pronkCell 0 []) s = true ∧ kPhase (pronkCell 0 []) = 0 ∧ s.tsu.tc.state ≠ .replayPinned ∧
       s.tsu.ctxOf (kHerd (pronkCell 0 [])) = some 63 ∧ (s.tsu.herd 63).seqLast.toNat < (kSeq (pronkCell 0 [])).toNat ∧
       (s.tsu.herd 63).state ≠ .committed ∧ (s.tsu.herd 63).hasActed (pronkCell 0 []) = false ∧ armCause s.tsu 63 (pronkCell 0 []) = 0 ∧
       armCause (onHerd 63 (fun x => { x with state := .running }) s).tsu 63 (pronkCell 0 []) = 1 ∧
       1 < armCause s.tsu 63 (mkPronk 9 0 3 1 (htOfNs 69999) 0 1 [])) ∧
    (let s := member armed
     (s.tsu.herd 63).state = .armed ∧ kSeq (pronkCell 2 []) = (s.tsu.herd 63).seqLast ∧ (s.tsu.herd 63).hasActed (pronkCell 2 []) = false ∧
       (s.tsu.herd 63).decidedSeq ≠ some (kSeq (pronkCell 2 [])) ∧ arrives .tsu 1 5 (pronkCell 2 []) s = true ∧ kPhase (pronkCell 2 []) = 2 ∧
       arrives .tsu 1 5 (pronkCell 3 []) s = true ∧ kPhase (pronkCell 3 []) = 3) ∧
    (let s := onPort .tsu 1 (fun x => { x with state := .up }) board
     arrives .tsu 1 5 (pronkCell 2 []) s = true ∧ s.tsu.ctxOf (kHerd (pronkCell 2 [])) = none) ∧
    (let s := member { armed with state := .committed }
     s.aheadOf (inPhase 1 (100 + 63)) = false ∧ (s.tsu.herd 63).decidedSeq = none ∧ reached s.tsu.tc (s.tsu.herd 63).decideTick = true ∧ (s.tsu.herd 63).abort = none) ∧
    (let s := member { armed with state := .committed, fires := true }
     s.aheadOf (inPhase 1 (200 + 63)) = false ∧ (s.tsu.herd 63).fires = true ∧ reached s.tsu.tc (s.tsu.herd 63).fireTick = true ∧ (s.tsu.herd 63).zeroAt = none) ∧
    (let s := member { resting with zeroAt := some (40000, 5, 1) }
     (s.tsu.herd 63).state ≠ .committed ∧ (s.tsu.herd 63).zeroAt = some (40000, 5, 1) ∧ 40000 ≤ s.tsu.tc.frc.toNat) ∧
    (let s := member { resting with state := .running, mode := 2 }
     arrives .tsu 1 5 (pronkCell 4 []) s = true ∧ kPhase (pronkCell 4 []) = 4 ∧ (s.tsu.herd 63).state = .running ∧ (s.tsu.herd 63).mode = 2 ∧
       s.tsu.ctxOf (kHerd (pronkCell 4 [])) = some 63) ∧
    ((member { resting with stepDeadline := some (5, 1) }).tsu.herd 63).stepDeadline = some (5, 1) := by decide

/-- Descriptor 1 of herd 3 in context 0, RUNNING, stands at the head of its window with its gates held, on the tick of its grid time. -/
def headOf (d : Desc) (x : Herd → Herd := id) (a : Ahead → Ahead := id) : State :=
  tsuIs fun t => { t with
    tc := { t.tc with state := .locked, htValid := true, frc := 1000 }
    gatesAt := some 1000
    steps := [(1, d)]
    herds := [(0, x { herdId := 3, state := .running, stepCount := 4, cur := 1,
                      ahead := [a { step := 1, grid := htOfNs 1000, base := 0, iter := 0, gridTick := some 1000, held := 15, fg := some 992, since := some 0 }] })] }

def launchDesc : Desc := pack 512 [(0, 4, 1), (12, 20, 2), (64, 32, 1000), (144, 16, 7), (192, 52, 2 ^ 51 + 1), (451, 4, 15), (490, 16, 0xFFFF)]
def nopDesc : Desc := pack 512 [(12, 20, 2), (451, 4, 15), (490, 16, 0xFFFF)]
def loopDesc : Desc := pack 512 [(0, 4, 2), (12, 20, 1), (32, 20, 3), (160, 32, 10000), (451, 4, 15), (490, 16, 0xFFFF)]
def endDesc : Desc := pack 512 [(0, 4, 3), (451, 4, 15), (490, 16, 0xFFFF)]

/-- The head of the window of context 0, as phase 4 leaves it, and what is due there. -/
def dueAt (s : State) : Option Nat × Due × Nat :=
  let u := atPhase4 s
  ((u.tsu.herd 0).ahead.head?.map Ahead.step, due u.tsu 0, dType (u.tsu.desc 1))

theorem test_hyp_DescriptorsAtTheirBoundaries :
    (headOf launchDesc).tsu.works = true ∧ (headOf launchDesc).aheadOf (inPhase 6 0) = false ∧ noEcc.uncorrectable.contains (.desc 1) = false ∧
    (dueAt (headOf launchDesc) = (some 1, .go, typeLaunch) ∧ dSwap launchDesc ≠ 1 ∧ (regionsOf (dMask launchDesc))[1]? = some 51) ∧
    dueAt (headOf nopDesc) = (some 1, .go, typeNop) ∧
    (dueAt (headOf loopDesc) = (some 1, .go, typeLoop) ∧ badInGroup (headOf loopDesc).tsu 0 15 = none ∧ dRebase loopDesc = false ∧ dGroup loopDesc = 15 ∧
      ((headOf loopDesc fun x => { x with iterLimit := 2 }).tsu.herd 0).iter.toNat + 1 < 2 ∧
      ¬((headOf loopDesc fun x => { x with iterLimit := 1 }).tsu.herd 0).iter.toNat + 1 < 1) ∧
    dueAt (headOf endDesc) = (some 1, .go, typeEnd) ∧
    dueAt (headOf nopDesc fun x => { x with departing := some 1 }) = (some 1, .leaves 1, typeNop) ∧
    dueAt (headOf nopDesc fun x => { x with halt := some (htOfNs 1000) }) = (some 1, .halted, typeNop) ∧
    dueAt (headOf nopDesc fun x => { x with halt := some (htOfNs 1001), selfFault := true }) = (some 1, .silent, typeNop) := by
  decide +kernel

def launched : State :=
  onRegion 51 (fun r => { r with launched := [⟨0, 1, 0, 900, 0, true⟩] })
    (headOf launchDesc fun x => { x with steps := [{ step := 1, iter := 0, fl := 900, left := BitVec.ofNat 52 (2 ^ 51) }] })

theorem test_hyp_RegionsReturnDone : launched.tsu.works = true ∧ tokenNext (inPhase 3 0) 50 qDone launched = true ∧
    tokenNext (inPhase 3 0) 51 qDone launched = true ∧ (launched.tsu.region 50).oldest 0 = none ∧
    (launched.tsu.region 51).oldest 0 = some ⟨0, 1, 0, 900, 0, true⟩ ∧
    (let s := { launched with tsu := { launched.tsu with steps := [(1, putN launchDesc 490 16 16)] } }
     (s.tsu.herd 0).steps.find? (fun r => decide (r.step = 1 ∧ r.fl = 900 ∧ r.left.getLsbD 51)) =
         some { step := 1, iter := 0, fl := 900, left := BitVec.ofNat 52 (2 ^ 51) } ∧
       putBit (BitVec.ofNat 52 (2 ^ 51)) 51 false = 0 ∧ dDone (s.tsu.desc 1) = 16 ∧ (s.tsu.counter 16).bad = false ∧
       (s.tsu.counter 16).timedOut = false) := by decide +kernel

/-- A FREE_GRID step on the tick of its done deadline, F_L + BODY + ALLOW + 4. -/
def overdue : State :=
  headOf (putN launchDesc 96 24 96) fun x =>
    { x with mode := 0, steps := [{ step := 1, iter := 0, fl := 900, left := 1 }] }

theorem test_hyp_SequencerFaultsHaltTheHerd :
    (overdue.tsu.works = true ∧ overdue.aheadOf (inPhase 4 0) = false ∧ freeGrid overdue.tsu (overdue.tsu.herd 0) = true ∧
      (overdue.tsu.herd 0).steps.find? (fun r => decide (r.step = 1) && overrun overdue.tsu r) =
        some { step := 1, iter := 0, fl := 900, left := 1 } ∧ (overdue.tsu.herd 0).state = .running ∧ (overdue.tsu.herd 0).selfFault = false) ∧
    (let s := onHerd 0 (fun x => { x with state := .done }) overdue
     freeGrid s.tsu (s.tsu.herd 0) = true ∧ (s.tsu.herd 0).state ≠ .running ∧ (s.tsu.herd 0).selfFault = false ∧
       (s.tsu.herd 0).steps.find? (fun r => decide (r.step = 1) && overrun s.tsu r) = some { step := 1, iter := 0, fl := 900, left := 1 }) ∧
    (board.tsu.herd 0).steps.find? (fun r => decide (r.step = 1) && overrun board.tsu r) = none ∧
    (let a : Ahead := { step := 1, grid := htOfNs 1000, base := 0, iter := 0, gridTick := some 1000, outTick := some 1000, held := 14, since := some 0 }
     let u := atPhase4 (headOf (putN nopDesc 256 48 2) (fun x => { x with mode := 0 }) fun _ => a)
     board.aheadOf (inPhase 5 8192) = false ∧ freeGrid u.tsu (u.tsu.herd 0) = true ∧ a ∈ (u.tsu.herd 0).ahead ∧ a.path = [] ∧ a.since ≠ none ∧
       (failedGate u.tsu a).isNone = true ∧ (openGate u.tsu a fun _ => true).isSome = true ∧
       (u.tsu.herd 0).state = .running ∧ (u.tsu.herd 0).selfFault = false) ∧
    (let a : Ahead := { step := 1, grid := htOfNs 1000, base := 0, iter := 0, gridTick := some 1000, outTick := some 1000, held := 14, since := some 0 }
     let u := atPhase4 (headOf (putN nopDesc 256 48 2) id fun _ => a)
     (u.tsu.herd 0).mode ≠ 0 ∧ u.tsu.replayStrict = false ∧ a ∈ (u.tsu.herd 0).ahead ∧ a.path = [] ∧ reached u.tsu.tc a.outTick = true ∧
       (openGate u.tsu a timedGate).isSome = true ∧ (u.tsu.herd 0).state = .running ∧ (u.tsu.herd 0).selfFault = false) ∧
    (atPhase4 board).tsu.herd 0 = {} := by decide +kernel

/-- A herd of one die that can be loaded: four descriptors in a loop, its start tine, its template, and a path on each plane. -/
def loadable : State :=
  let part : BitVec 256 := pack 256 [(0, 4, 11), (4, 7, 1), (11, 1, 1), (156, 16, 0xFFFF)]
  let gate (g0 : Nat) (d : Desc) : Desc := putN d 256 48 g0
  onPort .tsu 0 (fun x => { x with state := .up, negVer := 0x0001000100010001, position := some 0 })
    (onPort .tsu 1 (fun x => { x with state := .up, negVer := 0x0001000100010001, position := some 0 })
      (tsuIs fun t => { t with
        tc := { t.tc with state := .locked, htValid := true }
        fawn := false
        templates := [(0, { id := 1, valid := true, count := 1, entries := [(0, part)] })]
        paths := [⟨3, 1, .a, 5, 0⟩, ⟨3, 1, .b, 6, 0⟩]
        written := [0, 1]
        steps := [(0, gate 6 (pack 512 [(0, 4, 2), (12, 20, 0), (32, 20, 1), (64, 32, 1000), (160, 32, 10000), (451, 4, 15), (490, 16, 0xFFFF)])),
                  (1, pack 512 [(0, 4, 3), (64, 32, 2000), (451, 4, 15), (490, 16, 0xFFFF)])]
        herds := [(0, { herdId := 3, templateId := 1, memberCount := 1, stepCount := 2, iterLimit := 3,
                        decl := pack 256 [(0, 16, 16), (16, 16, 1), (80, 16, 0), (96, 16, 1), (128, 52, 1), (180, 1, 1)] })] }))

theorem test_hyp_LoadAndUnload :
    (admits .tsu (win 1) (0x5100 + 63) 0x16 .wo [1] board = true ∧ (admission (taken .tsu (win 1) board) 63 true).isSome = true) ∧
    (admits .tsu (win 1) (0x5100 + 0) 0x16 .wo [1] loadable = true ∧ secureReq (win 1) = true ∧
      admission (taken .tsu (win 1) loadable) 0 true = none) ∧
    (admits .tsu (win 1) (0x5100 + 63) 0x18 .wo [1] (member resting) = true ∧ ((member resting).tsu.herd 63).state = .loaded) ∧
    (admits .tsu (win 1) (0x5100 + 63) 0x18 .wo [1] (member armed) = true ∧ ((member armed).tsu.herd 63).live = true) ∧
    (element board .tsu (win 64) 0x5080 1 < 16384 ∧ admits .tsu (win 64) 0x5080 2 .rw (bvBytes (0 : BitVec 512)) board 1 0 = true ∧
      stepHeld board.tsu 0 = false) ∧
    (admits .tsu (win 64) 0x5080 2 .rw (bvBytes (0 : BitVec 512)) (member resting) 1 0 = true ∧ stepHeld (member resting).tsu 0 = true) := by
  decide +kernel

/-- A herd at rest, or live, whose group 0 holds ledger entries 0 to 3, its counters 16 and 17 and its events 8 and 9. -/
def owner (f : Herd → Herd) : State :=
  tsuIs fun t => { t with
    tc := { t.tc with state := .locked, htValid := true }
    herds := [(63, f { herdId := 3, state := .loaded, groups := pack 480 [(16, 16, 4)],
                       decl := pack 256 [(0, 16, 16), (16, 16, 2), (32, 16, 8), (48, 16, 2), (64, 16, 1), (128, 52, 2 ^ 51)] })] }
/-- Its herd RUNS and stands at an END. -/
def runner : State := onTsu (fun t => { t with steps := [(0, endDesc)] }) (owner fun x => { x with state := .running })
/-- A die with one watch that has ended. -/
def watched : State := tsuIs fun t => { t with watches := [(5, { outcome := some 3 })] }
def pendingEntry : BitVec 256 := pack 256 [(56, 4, 1), (64, 24, 5), (88, 24, 5)]

theorem test_hyp_LedgerWrites :
    (element (owner id) .tsu (win 32) 0x5090 1 < 65536 ∧
      admits .tsu (win 32) 0x5090 2 .rw (bvBytes pendingEntry ++ []) (owner id) 2 0 = true ∧ lPos pendingEntry ≤ lLimit pendingEntry ∧
      lState pendingEntry ≤ lsFaulted ∧ ledgerReadyFor (owner id).tsu 0 pendingEntry none = true ∧ liveOwner (owner id).tsu 0 = none) ∧
    (let s := owner fun x => { x with state := .running }
     admits .tsu (win 40) 0x5090 2 .rw (bvBytes pendingEntry ++ bvBytes (1 : U64)) s 2 0 = true ∧
       ledgerReadyFor s.tsu 0 pendingEntry (some 1) = true ∧ liveOwner s.tsu 0 = some 63 ∧ s.tsu.agent.heldLedger.length < 1024 ∧
       ledgerReadyFor s.tsu 0 pendingEntry (some 0) = false) ∧
    (board.tsu.works = true ∧ tokenNext (inPhase 3 0) 51 qLedger board = true ∧ mayAdvance board.tsu 51 7 = false ∧
      mayAdvance runner.tsu 51 3 = true ∧ runner.tsu.badLedger.contains 3 = false ∧ tokenNext (inPhase 3 0) 51 qLedger runner = true) := by
  decide +kernel

def token (op amount obj : Nat) : U64 := pack 64 [(0, 2, op), (2, 6, 63), (8, 16, obj), (24, 16, amount), (40, 8, 51)]

theorem test_hyp_Signals :
    (let s := owner fun x => { x with state := .running }
     s.tsu.works = true ∧ noEcc.uncorrectable = [] ∧ signalNext (token 0 65535 17) s = true ∧ signalNext (putN (token 2 0 9) 40 8 255) s = true ∧ sgOwned (s.tsu.herd (sgCtx (token 0 65535 17))) (token 0 65535 17) = true ∧
       sgOp (token 0 65535 17) = 0 ∧ sgAmount (token 0 65535 17) ≠ 0 ∧ (s.tsu.counter 17).bad = false ∧ (s.tsu.counter 17).timedOut = false ∧
       sgAmount (token 0 0 17) = 0 ∧ sgOp (token 1 47 17) = 1 ∧ sgAmount (token 1 47 17) < 48 ∧
       sgOwned (s.tsu.herd 63) (token 1 47 17) = true ∧ sgOwned (s.tsu.herd 63) (token 2 0 9) = true ∧ sgOp (token 2 0 9) = 2 ∧
       sgAmount (token 2 0 9) = 0 ∧ (s.tsu.event 9).bad = false ∧ (s.tsu.event 9).timedOut = false ∧ (s.tsu.event 9).set = false ∧
       (let u := onEvent 9 (fun e => { e with set := true }) s
        (u.tsu.event 9).set = true ∧ (u.tsu.event 9).oversignal = false ∧ (u.tsu.herd 63).state = .running ∧ (u.tsu.herd 63).selfFault = false) ∧
       sgOwned (s.tsu.herd 63) (token 0 1 18) = false ∧ (s.tsu.herd 63).state = .running ∧ (s.tsu.herd 63).selfFault = false) := by
  decide +kernel

/-- A registration by region 51 on event 9 of context 63, its timeout `ns` ahead. -/
def watchToken (ns : Nat) : BitVec 208 := pack 208 [(0, 3, 3), (8, 6, 63), (16, 16, 9), (80, 16, 7), (96, 6, 51), (128, 32, ns)]

theorem test_hyp_Watches :
    (runner.tsu.works = true ∧ watchNext 51 runner = true ∧ outFree 51 oNotify runner = true ∧ tokenNext (inPhase 3 1) 51 qCancel runner = true ∧ registerCheck runner.tsu (tokenWatch (watchToken 60000)) = .taken ∧
      freeSlot runner.tsu = some 0) ∧
    registerCheck (owner id).tsu (tokenWatch (watchToken 60000)) = .refused ∧
    (runner.tsu.herd (tokenWatch (watchToken 60000)).ctx).selfFault = false ∧
    registerCheck (owner fun x => { x with state := .running, decl := putN x.decl 64 16 0 }).tsu (tokenWatch (watchToken 60000)) = .quota ∧
    registerCheck runner.tsu (tokenWatch (putN (watchToken 60000) 16 16 10)) = .invalid ∧
    registerCheck runner.tsu (tokenWatch (watchToken 59999)) = .short ∧
    (onRegion 51 (fun r => { r with watchQueue := [watchToken 60000] }) runner |>.tsu.region 51).watchQueue = [watchToken 60000] ∧ runner.aheadOf (inPhase 3 0) = false ∧
    (runner.tsu.region 51).took qWatch = false ∧ queuesHeld runner.tsu qWatch = false ∧
    (let s := placeWatch 0 (tokenWatch (watchToken 60000)) runner
     s.tsu.waitingSlots.find? (fun i => decide ((s.tsu.watch i).region = 51 ∧ (s.tsu.watch i).tag = 7)) = some 0) ∧
    (let s := onTc (fun tc => { tc with frc := 60000 }) (placeWatch 0 (tokenWatch (watchToken 60000)) runner)
     let w := (atPhase4 s).tsu.watch 0
     s.aheadOf (inPhase 5 0) = false ∧ reached s.tsu.tc (s.tsu.watch 0).fire = true ∧ s.tsu.replayStrict = false ∧ w.waiting = true ∧
       ((atPhase4 s).tsu.herd w.ctx).state = .running ∧ ((atPhase4 s).tsu.herd w.ctx).selfFault = false) ∧
    (watched.tsu.works = true ∧ watched.aheadOf (inPhase 6 1000) = false ∧ Tbl.wf {} (atPhase4 watched).tsu.watches = true ∧
      (atPhase4 watched).tsu.notified = 0 ∧ (atPhase4 watched).tsu.endedSlots = [5] ∧ (atPhase4 watched).tsu.regions = []) := by decide +kernel

/-- A die of whose regions none has an entry holds no credit in use. -/
theorem no_credit_used (t : Tsu) (h : t.regions = []) (n q : Nat) : (t.region n).outq.get 0 q ≤ 8 := by
  simp [Tsu.region, h]

theorem test_hyp_SyncObjects :
    (admits .tsu (win 1) (0x6100 + 63) 5 .wo [1] (owner id) = true ∧ ((owner id).tsu.herd 63).atRest = true ∧
      admits .tsu (win 1) (0x6100 + 63) 5 .wo [1] runner = true ∧ (runner.tsu.herd 63).atRest = false) ∧
    (let q := { win 8 with useElement := true, element := 17 }
     element (owner id) .tsu q 0x6080 1 < 16384 ∧ admits .tsu q 0x6080 2 .rw (bvBytes (5 : U64)) (owner id) 3 17 = true ∧
       ownerAtRest (owner id).tsu 3 17 = true ∧ admits .tsu q 0x6080 2 .rw (bvBytes (5 : U64)) runner 3 17 = true ∧
       ownerAtRest runner.tsu 3 17 = false) ∧
    (let q := { win 4 with useElement := true, element := 9 }
     element (owner id) .tsu q 0x6090 1 < 4096 ∧ admits .tsu q 0x6090 2 .rw (bvBytes (1 : U32)) (owner id) 4 9 = true ∧
       ownerAtRest (owner id).tsu 4 9 = true ∧ admits .tsu q 0x6090 2 .rw (bvBytes (1 : U32)) runner 4 9 = true ∧
       ownerAtRest runner.tsu 4 9 = false) ∧
    (let q := { win 1 with useElement := true, element := 4095 }
     element (owner id) .tsu q 0x6090 1 < 4096 ∧ admits .tsu q 0x6090 3 .wo [1] (owner id) 4 4095 = true) := by decide +kernel

/-- Bank 15 of region 51 in a state since tick 1, seen at a later tick. -/
def banked (b : BankState) (f : U64) : State :=
  onTc (fun tc => { tc with frc := f }) (onRegion 51 (fun r => { r with banks := [(15, b)], bankSince := [(15, 1)] }) runner)

theorem test_hyp_BankPower :
    ((banked .draining 5).tsu.works = true ∧ ((banked .draining 5).tsu.region 51).bank 15 = .draining) ∧
    ((banked .on 5).tsu.region 51).bank 15 ≠ .draining ∧
    (((banked .waking 250).tsu.region 51).bank 15 = .waking ∧ 250 ≤ bankAge (banked .waking 250).tsu 51 15 ∧
      bankAge (banked .waking 249).tsu 51 15 < 250) ∧
    10000 ≤ bankAge (banked .draining 10000).tsu 51 15 ∧
    (((banked .off 5).tsu.region 51).bank 15 = .off ∧ ((banked .off 5).tsu.herd 63).state = .running ∧
      ((banked .off 5).tsu.herd 63).selfFault = false) := by decide +kernel

/-- A die whose context 63 RUNS herd 3 with participation 1023 of an entry, on port 0 and plane A. -/
def player (e : BitVec 256) (f : Part → Part := id) : State :=
  onPort .tsu 0 (fun x => { x with state := .up }) (tsuIs fun t => { t with
    tc := { t.tc with state := .locked, htValid := true, frc := 50000 }
    parts := [(1023, f { entry := e, run := 1, a := 0xFFFF, d := 0xFFFF })]
    herds := [(63, { herdId := 3, state := .running, stepCount := 4, templateId := 1, decl := pack 256 [(80, 16, 1023), (96, 16, 1)] })] })
/-- SUM of 32 octets from the regions of a mask, to region 51, with a timeout of 1,000 ns. -/
def partEntry (mask : Nat) : BitVec 256 := pack 256 [(0, 4, 1), (4, 7, 32), (32, 52, mask), (84, 52, 2 ^ 51), (156, 16, 0xFFFF), (172, 32, 1000)]
def resultCell (kind : BitVec 4) (round : U16) : Cell := mkResult 1023 kind 1 round 1 0 false false .b 0 32 3 1 0 5
/-- A TINE gate of the head's descriptor on participation 1023 has waited since hall time 0. -/
def tineWaiter (now : U64) (f : Part → Part := id) : State :=
  let s := player (partEntry (2 ^ 51)) f
  onTsu (fun t => { t with tc := { t.tc with frc := now }, steps := [(1, putN nopDesc 256 48 (1 + 1023 * 16))] })
    (onHerd 63 (fun x => { x with ahead := [{ step := 1, grid := 0, base := 0, iter := 0, since := some 0 }] }) s)

theorem test_hyp_TinesOfTheDie :
    (let s := player (partEntry (2 ^ 51))
     let p := s.tsu.part 1023
     let run := runningStep s.tsu 51 63
     let v : Contribution := ⟨takenIn (ptOp p.entry) (ptLen p.entry) 5, run.1, run.2⟩
     let u := onPart 1023 (fun p => { p with cur := { contrib := p.cur.contrib.set none 51 (some v) } }) (countCorrected noEcc (tookToken 51 qTine s))
     s.tsu.works = true ∧ tokenNext (inPhase 2 100000) 51 qTine s = true ∧ noEcc.uncorrectable.contains (.part 1023) = false ∧ s.tsu.partCtx 1023 = some 63 ∧ ptStart p.entry = false ∧ (ptContrib p.entry).getLsbD 51 = true ∧ p.skip.get 0 51 = 0 ∧
       p.cur.contrib.get none 51 = none ∧ roundComplete u.tsu (u.tsu.herd 63) 1023 = true ∧ p.nxt = {} ∧ p.sentAhead = []) ∧
    (let s := player (partEntry (2 ^ 51 + 1))
     let u := onPart 1023 (fun p => { p with cur := { contrib := p.cur.contrib.set none 51 (some ⟨0, 0, 0⟩) } }) (countCorrected noEcc (tookToken 51 qTine s))
     (ptContrib (s.tsu.part 1023).entry).getLsbD 51 = true ∧ roundComplete u.tsu (u.tsu.herd 63) 1023 = false) ∧
    (board.tsu.partCtx 1023 = none ∧ tokenNext (inPhase 2 100000) 51 qTine board = true) ∧
    (let s := player (partEntry (2 ^ 51))
     arrives .tsu 0 0x11 (resultCell 0 0) s = true ∧ outFree 51 oResult s = true ∧ (resultCell 0 0).addr.toNat = 1023 ∧ resultFits s.tsu 0 1023 (resultCell 0 0) = true ∧
       cKind (resultCell 0 0) = 0 ∧ cKind (resultCell 1 0) = 1 ∧ resultFits s.tsu 0 1023 (resultCell 1 0) = true ∧
       arrives .tsu 0 0x11 (resultCell 1 0) s = true ∧ resultFits s.tsu 0 1023 (resultCell 0 1) = false) ∧
    (let s := player (partEntry (2 ^ 51))
     arrives .tsu 0 0x11 (resultCell 2 0) s = true ∧ cKind (resultCell 2 0) = 2 ∧ s.tsu.ctxOf (cHerd (resultCell 2 0)) = some 63 ∧
       s.tsu.tinePlane 63 = some .a ∧ planePort .a = 0 ∧ s.tsu.tc.planeConfig = 0 ∧ Tbl.wf {} s.tsu.parts = true) ∧
    (let s := player (putN (partEntry (2 ^ 51)) 156 16 9)
     let c := mkTine tAbandon 1023 0 (tineBody 0 1 0 1 0 false 0 3 0 []) 0
     arrives .tsu 0 0x12 c s = true ∧ c.addr.toNat = 1023 ∧ s.tsu.partCtx 1023 = some 63 ∧ (s.tsu.herd 63).herdId.setWidth 24 = cHerd c ∧
       planePort (s.tsu.part 1023).plane = 0 ∧ cRun c = (s.tsu.part 1023).run ∧ cGen c = (s.tsu.part 1023).gen ∧
       (s.tsu.part 1023).sentAhead = [] ∧ ptAbandon (s.tsu.part 1023).entry ≠ 0xFFFF ∧ (s.tsu.event 9).bad = false ∧
       (s.tsu.event 9).timedOut = false) ∧
    (let s := tineWaiter 1000
     s.aheadOf (inPhase 5 (8192 + 63)) = false ∧ (s.tsu.herd 63).state = .running ∧ s.tsu.replayStrict = false ∧ s.tsu.partCtx 1023 = some 63 ∧ (s.tsu.part 1023).sentAhead = [] ∧
       Tbl.wf {} s.tsu.herds = true ∧
       waitingGate s.tsu (s.tsu.herd 63) 0 (fun w f =>
         let p := s.tsu.part w.1
         !ptStart p.entry && !roundReached p.a w.2 && !p.sentAhead.contains w.2 && waited s.tsu f (ptTimeout p.entry)) = some (1023, 0)) ∧
    (let s := onPort .tsu 0 (fun x => { x with state := .downHold }) (tineWaiter 31000)
     s.aheadOf (inPhase 5 (8192 + 63)) = false ∧ (s.tsu.herd 63).state = .running ∧ s.tsu.replayStrict = false ∧ upPorts s = [] ∧ waitingGate s.tsu (s.tsu.herd 63) 0 (fun w f =>
       waitedNow s.tsu f (partTimeout (s.tsu.herd 63) (s.tsu.part w.1) + 30000)) = some (1023, 0)) := by decide +kernel

/-- A leaf whose tine context 8191 has the member slots 0 and 63, in round 0 of run 1. -/
def joint (top : Nat) (f : TineCtx → TineCtx := id) : State :=
  let k : TineCtx := { config := pack 256 [(0, 4, 1), (4, 7, 32), (11, 1, top), (32, 64, 2 ^ 63 + 1)], herdId := 3, tag := some (1, 0),
                       unsynced := false, active := true, inUse := true }
  onPort .fjz 0 (fun x => { x with state := .up }) (onPort .fjz 63 (fun x => { x with state := .up })
    (onPort .fjz 64 (fun x => { x with state := .up }) (fjzIs fun x => { x with
      ctxs := [(8191, f k)]
      resvs := [⟨3, 1, 1, 4, 0, true, true, [8191], [], [], [], 4, false, 0⟩] })))
def arrival (kind : BitVec 4) (round : U16) : Cell := mkArrival 8191 kind 1 round 1 0 false 0 32 3 1 1000 5 9

theorem test_hyp_TinesOfTheChip :
    (let s := joint 0
     let c := arrival 0 0
     let k := s.fjz.ctx 8191
     s.fjz.works = true ∧ arrives .fjz 63 0x10 c s = true ∧ isChildSide s .fjz 63 = false ∧ fldN c.hdr 32 13 = 8191 ∧
       cfSlot k.config 63 = some 63 ∧ k.tagView (cRun c) (cGen c) = .same ∧ k.unsynced = false ∧ cRound c = k.b ∧ formatOk k c = true ∧
       k.r0.state = .empty ∧ cfPair k.config 63 = none ∧ cfTop k.config = false ∧ k.r0.cells.get none 63 = none ∧ cKind c = 0 ∧
       0 ∈ k.emptySlots 0 ∧ cKind (arrival 1 0) = 1 ∧ cKind (arrival 2 0) = 2 ∧ arrives .fjz 63 0x10 (arrival 2 0) s = true) ∧
    (let k := (joint 0 fun k => { k with r0 := { state := .open, cells := [(0, some (arrival 0 0))] } }).fjz.ctx 8191
     k.r0.state = .open ∧ k.r0.cells.get none 0 ≠ none ∧ ∀ sl ∈ k.emptySlots 0, sl = 63) ∧
    (let s := joint 0
     arrives .fjz 63 0x10 (arrival 3 0) s = true ∧ cKind (arrival 3 0) = 3 ∧ s.fjz.activeCtx (cHerd (arrival 3 0)) = some 8191) ∧
    (let s := joint 0 fun k => { k with r0 := { state := .open, deadline := 0, cells := [(0, some (arrival 0 0))] } }
     s.aheadOf (placeOf (.tineTimeout 8191 false)) = false ∧ ((s.fjz.ctx 8191).round (b2n false)).state = .open ∧ ((s.fjz.ctx 8191).round (b2n false)).deadline.toNat ≤ chipNs s ∧
       ((s.fjz.ctx 8191).emptySlots (b2n false)).head? = some 63) ∧
    (let s := joint 0
     let c := mkResult 8191 0 1 0 1 0 false false .a 0 32 3 1 0 5
     let k := s.fjz.ctx 8191
     arrives .fjz 64 0x11 c s = true ∧ s.fjz.tineParent = some 64 ∧ cKind c = 0 ∧ fldN c.hdr 32 13 = 8191 ∧ k.inUse = true ∧
       k.tagView (cRun c) (cGen c) = .same ∧ k.r1.state ≠ .held ∧ cRound c = k.b ∧
       cRound (mkResult 8191 0 1 1 1 0 false false .a 0 32 3 1 0 5) ≠ k.b ∧ 0 ∈ cfPorts k.config ∧
       fldN (port (onPort .fjz 0 (fun x => { x with negVer := 2 ^ 32 }) s) .fjz 0).negVer 32 16 ≠ 0) := by decide +kernel

/-- A template slot whose one entry is configured, in use by a reservation or not. -/
def templated (ctxs : List Nat) (f : TineCtx → TineCtx) (used : Bool) : State :=
  fjzIs fun x => { x with
    templates := [(0, { id := 1, valid := true, count := 1, entries := [(0, pack 256 [(0, 4, 1), (4, 7, 32), (32, 64, 3)])] })]
    ctxs := [(5, f { active := true })]
    resvs := if used then [⟨3, 1, 0, 4, 0, true, true, ctxs, [], [], [], 4, false, 0⟩] else [] }

theorem test_hyp_Templates :
    (templateElem board .fjz (signed 0x7200 6 [1]) < templateSlots .fjz ∧
      admits .fjz (signed 0x7200 6 [1]) 0x7200 6 .rws [1] (templated [] id false) 6 0 = true ∧
      templateOk (templated [] id false) .fjz (templateAt (templated [] id false) .fjz 0) = true ∧
      roundOpen (templated [] id false) .fjz 0 = false ∧
      roundOpen (templated [5] (fun k => { k with r0 := { state := .open } }) true) .fjz 0 = true ∧
      templateOk board .tsu { id := 1, count := 1, entries := [(0, 2 ^ 255)] } = false) ∧
    (admits .fjz (signed 0x7200 6 [0]) 0x7200 6 .rws [0] (templated [] id false) 6 0 = true ∧
      templateUsers (templated [] id false) .fjz 0 = 0 ∧ templateUsers (templated [] id true) .fjz 0 ≠ 0) ∧
    (let w : PendingWrite := ⟨0, 0x7200, 6, [1], net 1, 0, 0⟩
     let s := onFjz (fun x => { x with heldWrites := [w] }) (templated [] id true)
     s.fjz.works = true ∧ w ∈ s.fjz.heldWrites ∧ w.req.src = .net ∧ w.value = [1] ∧ roundOpen s .fjz 0 = false) := by
  refine ⟨⟨?_, admits_signed _ _ _ _ _ rfl rfl rfl ?_ ?_ ?_ ?_, ?_, ?_, ?_, ?_⟩, ⟨admits_signed _ _ _ _ _ rfl rfl rfl ?_ ?_ ?_ ?_, ?_, ?_⟩, ?_⟩ <;>
    decide +kernel

/-- A leaf with a template for ports 0 and 1, which are UP, and its parent port. -/
def path (r : Option Resv) : State :=
  onPort .fjz 0 (fun x => { x with state := .up, negVer := 0x0001000100010001 })
    (onPort .fjz 1 (fun x => { x with state := .up, negVer := 0x0001000100010001 })
      (onPort .fjz 64 (fun x => { x with state := .up, negVer := 0x0001000100010001 }) (fjzIs fun x => { x with
        templates := [(0, { id := 1, valid := true, count := 1, entries := [(0, pack 256 [(0, 4, 1), (4, 7, 32), (32, 64, 3)])] })]
        resvs := r.toList
        resvRun := if r.isSome then some (3, 1) else none })))
def tentative (lasts : List Nat) (span : U8) : Resv := ⟨3, 1, span, 2, 0, false, false, [0], [], [], lasts, 1, false, 0⟩
def treeWord (span : Nat) : BitVec 128 := pack 128 [(0, 24, 3), (32, 16, 1), (56, 8, span), (64, 32, 2)]
def pathCell (pass : Nat) : Cell := mkReserve 9 pass 1 3 1 [(64, 24, 2), (255, 1, 1)]

theorem test_hyp_PathReservation :
    (admits .fjz (signed 0x7900 1 (bvBytes (withAction 3 (treeWord 0)))) 0x7900 1 .wo (bvBytes (withAction 3 (treeWord 0))) (path none) = true ∧
      trSpan (withAction 3 (treeWord 0)) + 1 = (path none).fjz.role.toNat ∧ (path none).fjz.resvRun = none ∧
      fldN (withAction 3 (treeWord 0)) 0 32 < 2 ^ 20 ∧ (path none).fjz.resv 3 1 = none ∧ chipFail (path none) 3 1 0 0 = none ∧
      (path none).fjz.pathPorts 1 = [0, 1] ∧ (chipFail board 3 1 0 0).isSome = true) ∧
    (admits .fjz (signed 0x7900 1 (bvBytes (withAction 2 (treeWord 0)))) 0x7900 1 .wo (bvBytes (withAction 2 (treeWord 0))) (path none) = true ∧
      (onFjz (fun x => { x with resvs := [tentative [] 0] }) (path none)).fjz.resv 3 1 = some (tentative [] 0)) ∧
    (let s := onPort .tsu 1 (fun x => { x with state := .up, negVer := 0x0001000100010001 }) (member resting)
     (port s .tsu 1).state = .up ∧ classWaiting 2 (port s .tsu 1) < bufferCap ∧ s.tsu.works = true ∧ arrives .tsu 1 0x23 (pathCell 0) s = true ∧ vPass (pathCell 0) = 0 ∧ s.tsu.reserveCtx (vHerd (pathCell 0)) = some 63 ∧
       dieFail s 1 (vHerd (pathCell 0)) (vTemplate (pathCell 0)) = none ∧ vPass (pathCell 2) = 2 ∧
       namesTemplate (s.tsu.herd 63) (vTemplate (pathCell 2)) = true ∧ vPass (pathCell 3) = 3 ∧ vPass (pathCell 4) = 4 ∧
       board.tsu.ctxOf (vHerd (pathCell 4)) = none ∧
       ((onHerd 63 (fun x => { x with state := .done }) s).tsu.herd 63).state ≠ .loaded) ∧
    (arrives .fjz 64 0x23 (pathCell 0) (path none) = true ∧ (path none).fjz.tineParent = some 64 ∧ (path none).fjz.pathPorts 1 ≠ [] ∧
      (path none).fjz.resv 3 1 = none ∧ chipFail (path none) (vHerd (pathCell 0)) (vTemplate (pathCell 0)) (vSpan (pathCell 0)) (vP1 (pathCell 0)) = none ∧
      (path (some (tentative [] 1))).fjz.resv 3 1 = some (tentative [] 1)) ∧
    (let s := path (some (tentative [0] 0))
     arrives .fjz 1 0x23 (pathCell 1) s = true ∧ vPass (pathCell 1) = 1 ∧ isChildSide s .fjz 1 = false ∧ s.fjz.role = 1 ∧
       s.fjz.resv (vHerd (pathCell 1)) (vTemplate (pathCell 1)) = some (tentative [0] 0) ∧ 1 ∈ s.fjz.pathPorts 1 ∧
       (tentative [0] 0).lasts.contains 1 = false ∧ vCode (pathCell 1) = 0 ∧ vLast (pathCell 1) = true ∧
       (∀ p' ∈ s.fjz.pathPorts 1, p' ≠ 1 → (tentative [0] 0).lasts.contains p' = true) ∧ (tentative [0] 0).dies + 1 = (tentative [0] 0).memberCount.toNat ∧
       (∃ p' ∈ s.fjz.pathPorts 1, p' ≠ 1 ∧ (tentative [] 0).lasts.contains p' = false)) ∧
    (let s := onFjz (fun x => { x with resvTimeout := 5, frc := 5000000 }) (path (some (tentative [] 0)))
     s.fjz.works = true ∧ s.fjz.resvRun = some (3, 1) ∧ s.fjz.resv 3 1 = some (tentative [] 0) ∧
       (tentative [] 0).started + s.fjz.resvTimeout.toNat * 1000000 ≤ s.fjz.frc.toNat) := by
  refine ⟨⟨admits_signed _ _ _ _ _ rfl rfl rfl ?_ ?_ ?_ ?_, ?_, ?_, ?_, ?_, ?_, ?_, ?_⟩, ⟨admits_signed _ _ _ _ _ rfl rfl rfl ?_ ?_ ?_ ?_, ?_⟩, ?_, ?_, ?_, ?_⟩ <;>
    decide +kernel

def pauseWord (ns : Nat) : BitVec 160 := pack 160 [(0, 32, 3), (32, 80, ns * 65536), (112, 16, 1), (128, 32, 9)]
def adoptWord (epoch : Nat) : BitVec 192 := pack 192 [(0, 16, epoch), (16, 8, 1)]

theorem test_hyp_Membership :
    (admits .fjz (signed 0x8800 9 (bvBytes (pauseWord 2000))) 0x8800 9 .wo (bvBytes (pauseWord 2000)) (joint 0) = true ∧
      pauseHerd (pauseWord 2000) < 2 ^ 24 ∧ (joint 0).fjz.holdsHerd (pauseHerdId (pauseWord 2000)) = true ∧ pauseRange (pauseWord 2000) (joint 0) = true ∧
      board.fjz.holdsHerd (pauseHerdId (pauseWord 2000)) = false ∧ pauseRange (pauseWord 1999) (joint 0) = false) ∧
    (admits .tsu (win 1) (0x8100 + 63) 0x0C .wo [1] board = true ∧ (reepochFail (taken .tsu (win 1) board) 63 true).isSome = true) ∧
    (let s := onHerd 0 (fun x => { x with state := .loaded, stEpoch := some 2 }) loadable
     admits .tsu (win 1) (0x8100 + 0) 0x0C .wo [1] s = true ∧ reepochFail (taken .tsu (win 1) s) 0 true = none) ∧
    (admits .tsu (win 24) (0x8100 + 63) 0x0F .wo (bvBytes (adoptWord 1)) (member resting) = true ∧ ((member resting).tsu.herd 63).swap = .idle ∧
      adoptEpoch (adoptWord 1) ≠ 0xFFFF ∧ adoptEpoch (adoptWord 1) ≠ ((member resting).tsu.herd 63).liveEpoch ∧ adoptPolicy (adoptWord 1) = 1 ∧
      adoptEpoch (adoptWord 0) = ((member resting).tsu.herd 63).liveEpoch) ∧
    (admits .tsu (win 1) (0x8100 + 63) 0x0D .wo [1] (member armed) = true ∧ ((member armed).tsu.herd 63).state = .armed ∧
      (runner.tsu.herd 63).state = .running ∧ pendingFull runner.tsu.agent (.herd 63) = false ∧ ((member resting).tsu.herd 63).live = false) := by
  refine ⟨⟨admits_signed _ _ _ _ _ rfl rfl rfl ?_ ?_ ?_ ?_, ?_, ?_, ?_, ?_, ?_⟩, ?_, ?_, ?_, ?_⟩ <;> decide +kernel

/-- A steward of herd 3 at its top, 60 s after reset, with die 8 in a state. -/
def warden (st : DieState) (health : U16) (base : U32) : State :=
  onFjz (fun x => { x with frc := 60000000000 }) (onSteward 3 (fun w => { (w.setDie 8 st health) with base := base }) (tree 0 {}))

theorem test_hyp_HealthAndSteward :
    (board.tsu.works = true ∧ board.tsu.tc.frc.toNat < board.tsu.healthAt + 1000000000 ∧
      (timed .locked 1000000000).tsu.healthAt + 1000000000 ≤ (timed .locked 1000000000).tsu.tc.frc.toNat) ∧
    admits .tsu (win 4) 0x8000 5 .wo (bvBytes (3 : U32)) board = true ∧
    (let s := onPort .fjz 63 (fun x => { x with lastBleat := some (0, 0) }) board
     s.fjz.works = true ∧ s.fjz.role = 1 ∧ s.fjz.sampledAt ≠ some (nsOf s.fjz.now / 1000000000) ∧ (port s .fjz 63).lastBleat = some (0, 0) ∧
       (port s .fjz 62).lastBleat = none) ∧
    ((warden .healthy 0 50).fjz.isTop 3 = true ∧ ((warden .healthy 0 50).fjz.steward 3).dieState 8 = .healthy ∧
      ((warden .quarantined 0 50).fjz.steward 3).dieState 8 = .quarantined ∧ ((warden .quarantined 0 50).fjz.steward 3).dieState 8 ≠ .expelDecided ∧
      budgetAllows (nsOf (warden .quarantined 0 50).fjz.now) ((warden .quarantined 0 50).fjz.steward 3) = true ∧
      firstSuspect (warden .quarantined 0 50).fjz.healthSuspect ((warden .quarantined 0 50).fjz.steward 3) = some (8, 0) ∧
      (fjzIs fun x => { x with plane := 1 }).fjz.plane = 1) ∧
    (let s := setSelector .fjz (net 4) 0x8800 1 3 (onFjz (fun x => { x with agent := { x.agent with worldSub := 0 } }) (warden .healthy 0 50))
     element s .fjz (net 4) 0x8800 1 = 3 ∧ (8 : U32).toNat < 2 ^ 24 ∧ admits .fjz (net 4) 0x8800 8 .wo (bvBytes (8 : U32)) s = true ∧
       s.fjz.isTop (BitVec.ofNat 24 3) = true ∧ (s.fjz.steward (BitVec.ofNat 24 3)).dieState ((8 : U32).setWidth 24) ≠ .expelDecided) := by
  decide +kernel

def plan (epoch : Nat) : BitVec 256 := pack 256 [(0, 16, epoch), (32, 16, 17), (48, 16, 9), (64, 32, 1), (96, 32, 4000000000), (192, 32, 86400000), (240, 16, 1)]
def ctrl (action : Nat) : Cell := mkSwapCtrl 0xFFFFFF (pack 288 [(0, 24, 3), (24, 8, action), (32, 256, (plan 1).toNat)])
def fetching (f : U64) (st : SwapState) : State :=
  onTc (fun tc => { tc with frc := f }) (owner fun x => { x with swap := st, swapPlan := putN (plan 1) 96 32 1 })
def refetching : State := onTsu (fun t => { t with steps := [(1, launchDesc)] }) (owner fun x =>
  { x with swap := .refetching, refetchWait := true, fetchStep := 1 })

theorem test_hyp_WeightSwaps :
    (admits .tsu (win 32) (0x8100 + 63) 4 .rws (bvBytes (plan 1)) (owner id) = true ∧ ((owner id).tsu.herd 63).state ≠ .free ∧
      ((owner id).tsu.herd 63).swap = .idle ∧ planRange 63 (plan 1) (owner id) = true ∧ ((owner id).tsu.herd 63).state ≠ .running ∧
      (runner.tsu.herd 63).state = .running ∧ planRange 63 (plan 1) runner = true ∧
      admits .tsu (win 32) (0x8100 + 63) 4 .rws (bvBytes (plan 1)) runner = true ∧ pendingFull runner.tsu.agent (.herd 63) = false ∧
      ((fetching 0 .fetching).tsu.herd 63).swap ≠ .idle ∧ planRange 63 (plan 0) (owner id) = false ∧
      admits .tsu (win 32) (0x8100 + 63) 4 .rws (bvBytes (plan 0)) (owner id) = true) ∧
    (admits .tsu (win 1) (0x8100 + 63) 6 .wo [1] (fetching 0 .failed) = true ∧ swapOpen ((fetching 0 .failed).tsu.herd 63).swap = true ∧
      swapOpen ((fetching 0 .flipped).tsu.herd 63).swap = false) ∧
    (let v : BitVec 352 := pack 352 [(0, 32, 0xFFFFFF), (32, 24, 3), (56, 8, 2)]
     admits .fjz (net 44) 0x8800 0x0A .wo (bvBytes v) (onFjz (fun x => { x with agent := { x.agent with worldSub := 0 } }) (joint 0)) = true ∧
       bcAddr v < 2 ^ 24 ∧ (fld v 32 24 : Id24).toNat < 2 ^ 20 ∧ fldN v 56 8 = 2 ∧ 63 ∈ ctrlPorts (joint 0) (fld v 32 24) (BitVec.ofNat 24 (bcAddr v))) ∧
    (let s := onPort .tsu 1 (fun x => { x with state := .up }) (owner id)
     arrives .tsu 1 0x22 (ctrl 1) s = true ∧ (ctrl 1).addr = 0xFFFFFF ∧ s.tsu.ctxOf (cHerdCtrl (ctrl 1)) = some 63 ∧
       underTest s .tsu (0x8100 + 63) = false ∧ cAction (ctrl 1) = 1 ∧ planRange 63 (cPlan (ctrl 1)) s = true ∧ cAction (ctrl 2) = 2) ∧
    (arrives .fjz 64 0x22 (ctrl 1) (joint 0) = true ∧ isChildSide (joint 0) .fjz 64 = true ∧
      63 ∈ ctrlPorts (joint 0) (cHerdCtrl (ctrl 1)) (ctrl 1).addr ∧ (port (joint 0) .fjz 63).state = .up ∧
      classWaiting 2 (port (joint 0) .fjz 63) < bufferCap) ∧
    (let u := (atPhase4 (fetching 999 .fetching)).tsu
     let v := (atPhase4 (fetching 1000 .fetching)).tsu
     let w := (atPhase4 (fetching 1000 .refetching)).tsu
     (fetching 999 .fetching).aheadOf (inPhase 5 (16384 + 63)) = false ∧ fetchOver u (u.herd 63) = false ∧ fetchOver v (v.herd 63) = true ∧ (v.herd 63).swap = .fetching ∧ fetchOver w (w.herd 63) = true ∧
       (w.herd 63).swap = .refetching) ∧
    (refetching.aheadOf (inPhase 6 (500 + 63)) = false ∧ outFree 51 oLaunch refetching = true ∧ (refetching.tsu.herd 63).refetchWait = true ∧ regionsIdle refetching.tsu (dMask (refetching.tsu.desc 1)) = true ∧
      51 ∈ regionsOf (dMask (refetching.tsu.desc 1)) ∧
      regionsIdle (onRegion 51 (fun r => { r with launched := [⟨0, 1, 0, 0, 0, true⟩] }) refetching).tsu (dMask (refetching.tsu.desc 1)) = false) := by
  decide +kernel

/-- A HALT of kind `kind` for herd 3 of run 1 with H at `ns`. -/
def haltCell (kind : Nat) (down : Bool) (top : Nat) (ns : Nat) : Cell := mkHalt kind down top 3 1 5 (htOfNs ns) 0 8

theorem test_hyp_Halts :
    (arrives .fjz 63 6 (haltCell 0 false 2 5) (joint 0) = true ∧ haltDown (haltCell 0 false 2 5) = false ∧
      (joint 0).fjz.role.toNat ≠ haltTop (haltCell 0 false 2 5) ∧ mergedBy (joint 0).fjz false (haltCell 0 false 2 5) = false ∧
      (joint 0).fjz.role.toNat = haltTop (haltCell 0 false 1 5) ∧ haltHerd (haltCell 0 false 1 5) ≠ 0xFFFFFF ∧
      (joint 0).fjz.holdsHerd (haltHerd (haltCell 0 false 1 5)) = true ∧ mergedBy (joint 0).fjz true (haltCell 0 false 1 5) = false ∧
      (joint 0).fjz.parentPort = some 64 ∧ (port (joint 0) .fjz 64).state = .up ∧ (port (joint 0) .fjz 64).continues = none ∧
      up.fjz.holdsHerd (haltHerd (haltCell 0 false 1 5)) = false ∧ haltDown (haltCell 0 true 1 5) = true ∧ up.fjz.parentPort ≠ some 63 ∧
      arrives .fjz 64 6 (haltCell 0 true 1 5) (joint 0) = true ∧
      mergedBy (onFjz (fun x => { x with forwarded := [(3, true, htOfNs 5, 0)], frc := 3999 }) (joint 0)).fjz true (haltCell 0 true 1 5) = true) ∧
    (let s := onPort .tsu 1 (fun x => { x with state := .up }) (member { armed with state := .running, lastGrid := some (htOfNs 5) })
     arrives .tsu 1 6 (haltCell 0 true 1 5) s = true ∧ haltTaken s.tsu (haltCell 0 true 1 5) = false ∧ s.tsu.haltCtx (haltCell 0 true 1 5) = some 63 ∧
       haltKind (haltCell 0 true 1 5) = 0 ∧ haltIsLate (s.tsu.herd 63) (haltHt (haltCell 0 true 1 5)) = true ∧
       haltIsLate (s.tsu.herd 63) (haltHt (haltCell 0 true 1 6)) = false ∧ haltKind (haltCell 1 true 1 5) = 1 ∧
       s.tsu.haltCtx (haltCell 1 true 1 5) = some 63 ∧ haltKind (haltCell 2 true 1 5) = 2 ∧ haltHerd (haltCell 2 true 1 5) ≠ 0xFFFFFF ∧
       arrives .tsu 1 6 (haltCell 7 true 1 5) s = true ∧ 3 ≤ haltKind (haltCell 7 true 1 5) ∧ s.tsu.stepsOf 63 = [] ∧
       (onRegion 51 (fun r => { r with launched := [⟨63, 1, 0, 900, 0, true⟩] }) s).tsu.stepsOf 63 ≠ [] ∧
       haltTaken (onTsu (takeKey (haltCell 0 true 1 5)) s).tsu (haltCell 0 true 1 5) = true) ∧
    (admits .tsu (win 4) 0x9040 1 .rws (bvBytes (3 : U32)) runner = true ∧ nowReady .tsu 3 runner = true ∧ nowReady .tsu 0xFFFFFF board = false ∧
      admits .tsu (win 4) 0x9040 1 .rws (bvBytes (0xFFFFFF : U32)) board = true) ∧
    (admits .fjz (signed 0x9040 1 (bvBytes (0xFFFFFF : U32))) 0x9040 1 .rws (bvBytes (0xFFFFFF : U32)) board = true ∧ nowReady .fjz 0xFFFFFF board = true) := by
  refine ⟨?_, ?_, ?_, admits_signed _ _ _ _ _ rfl rfl rfl ?_ ?_ ?_ ?_, ?_⟩ <;> decide +kernel

theorem test_hyp_ErrorRing : board.tsu.errs.ring.length < 256 ∧ board.tsu.errs.ring = [] ∧
    256 ≤ (tsuIs fun t => { t with errs := { ring := List.replicate 256 {} } }).tsu.errs.ring.length ∧
    (tsuIs fun t => { t with errs := { ring := List.replicate 256 {} } }).tsu.errs.overflow = false ∧
    board.tsu.errs.ring.length < 255 ∧ (0x1000 : U32).toNat < (0x2100 : U32).toNat ∧
    admitsRead .tsu winRead 0x9080 1 true board = true ∧ admits .tsu (win 1) 0x9080 4 .wo [1] board = true := by decide +kernel

/-- A meter whose part interval is 10 s and whose tenant interval is 60 s, at a tick. -/
def metered (f : U64) (g : Meter → Meter) : State :=
  onTc (fun tc => { tc with frc := f }) (onMeter (fun m => g { m with params := pack 64 [(0, 16, 10), (16, 16, 60)] }) board)
/-- An unsigned record, and one with a signature. -/
def unsigned : MeterRec := ⟨5, none⟩
def withSig : MeterRec := ⟨5, some 6⟩
def busySlot : BitVec 256 := (1 : BitVec 256) <<< 255

theorem test_hyp_MeterRecords :
    ((metered 152588 id).tsu.works = true ∧ mpPart (metered 152588 id).tsu.meter.params ≠ 0 ∧
      (metered 152588 id).tsu.walkAt + mpPart (metered 152588 id).tsu.meter.params * 1000000000 / 65536 ≤ (metered 152588 id).tsu.tc.frc.toNat ∧
      (metered 152588 id).tsu.meter.slotsA.get 0 0 = (metered 152588 id).tsu.meter.slotsB.get 0 0 ∧ (metered 152588 id).tsu.meter.walk < 65535 ∧
      partDue (metered 152588 id).tsu.meter 0 = false) ∧
    (mpTenant (metered 60000000000 id).tsu.meter.params ≠ 0 ∧
      (metered 60000000000 id).tsu.tenantAt + mpTenant (metered 60000000000 id).tsu.meter.params * 1000000000 ≤
        (metered 60000000000 id).tsu.tc.frc.toNat ∧ (metered 60000000000 id).tsu.meter.finals = [] ∧
      (metered 60000000000 id).tsu.meter.ring.length + ((metered 60000000000 id).tsu.meter.tenantsA.filter fun e => tnValid e.2).length ≤ 8192) ∧
    (let s := onMeter (fun m => m.setTenant 5 (pack 256 [(0, 24, 0xFFFFFF), (24, 1, 1)])) board
     (0xFFFFFF : U32).toNat < 2 ^ 24 ∧ s.tsu.meter.finals = [] ∧ s.tsu.meter.ring.length < 8192 ∧
       admits .tsu (win 4) 0xA200 3 .rws (bvBytes (0xFFFFFF : U32)) s = true ∧ admits .tsu (win 4) 0xA200 4 .rws (bvBytes (0xFFFFFF : U32)) s = true ∧
       s.tsu.meter.tenantSlot ((0xFFFFFF : U32).setWidth 24) = some 5 ∧ tenantIdle s.tsu ((0xFFFFFF : U32).setWidth 24) = true ∧
       board.tsu.meter.tenantSlot ((0xFFFFFF : U32).setWidth 24) = none) ∧
    (let s := onMeter (fun m => { m with key := some 1, ring := [withSig, unsigned, unsigned] }) board
     s.tsu.meter.key = some 1 ∧ s.tsu.meter.ring = [withSig] ++ unsigned :: [unsigned] ∧ (∀ x ∈ [withSig], x.sig.isSome = true) ∧
       unsigned.sig = none) ∧
    (admitsRead .tsu winRead 0xA080 1 true board = true ∧ oldestSigned board.tsu.meter = none ∧
      (oldestSigned { ring := [withSig] }).isSome = true) ∧
    (let s := onMeter (fun m => { m with finals := [(5, some 7), (9, some 8)] }) board
     s.tsu.meter.finals = (5, some 7) :: [(9, some 8)] ∧ s.tsu.meter.ring.length < 8192) := by decide +kernel

theorem sealWord_sum : sealSum (Config.logicChecksum.setWidth 192) = Config.logicChecksum := by
  simp only [sealSum, fld]; ext i hi; simp [show i < 192 by omega, BitVec.getLsbD_eq_getElem hi]
theorem sealWord_params : sealParams (Config.logicChecksum.setWidth 192) = 0 := by
  simp only [sealParams, fld]; ext i hi; simp

def sealedDie : State := onMeter (fun m => { m with sealFuses := 32, breakFuses := 31 }) board

theorem test_hyp_TheSeal :
    (admits .tsu (win 24) 0xA000 6 .rws (bvBytes (Config.logicChecksum.setWidth 192 : BitVec 192)) board = true ∧ fusesBalanced board.tsu.meter = true ∧
      board.tsu.meter.sealFuses < 33 ∧ lcOpen board.tsu.agent = true ∧ board.tsu.meter.isSealed = false ∧
      phase8Waits board = false ∧ sealSum (Config.logicChecksum.setWidth 192) = Config.logicChecksum ∧ paramsOk (sealParams (Config.logicChecksum.setWidth 192)) = true) ∧
    (admits .tsu (win 1) 0xA000 7 .rws [1] sealedDie = true ∧ fusesBalanced sealedDie.tsu.meter = true ∧ sealedDie.tsu.meter.isSealed = true ∧
      sealedDie.tsu.meter.breakFuses < 32 ∧ lcOpen sealedDie.tsu.agent = true ∧ phase8Waits sealedDie = false ∧ unsealReason board.tsu ≠ 0 ∧
      admits .tsu (win 1) 0xA000 7 .rws [1] board = true ∧ admits .tsu (win 24) 0xA000 6 .rws (bvBytes (0 : BitVec 192)) sealedDie = true) ∧
    (admits .tsu (win 1) 0xA000 9 .sealed [1] board = true ∧
      (let s := tsuIs fun t => { t with ledgerOps := [⟨0, 0, .take, 0, 9, 0, 0, none⟩] }
       admits .tsu (win 1) 0xA000 9 .sealed [1] s = true ∧ phase8Waits s = true)) ∧
    (admits .tsu (win 8) 0xB000 2 .rws (lcBytes 3 0x4C430003) sealedDie = true ∧ lcOpen sealedDie.tsu.agent = true ∧
      sealedDie.tsu.agent.lcPending = none ∧ sealedDie.tsu.allFree = true) := by
  refine ⟨⟨?_, ?_, ?_, ?_, ?_, ?_, sealWord_sum, ?_⟩, ?_, ?_, ?_⟩
  case refine_7 => rw [sealWord_params]; decide
  all_goals decide +kernel

def recordCell : Cell := mkCell 0x30 0 14 0

theorem test_hyp_FlightRecorder :
    (let s := tsuIs fun t => { t with staging := [recordCell] }
     s.tsu.works = true ∧ ∀ c ∈ s.tsu.staging, c.cls = 3) ∧
    (arrives .fjz 63 0x30 recordCell (onPort .fjz 63 (fun x => { x with state := .up }) board) = true ∧ board.fjz.works = true ∧ board.fjz.role = 1 ∧
      board.fjz.recState = .recording ∧ (fjzIs fun x => { x with recState := .frozen }).fjz.recState = .frozen) ∧
    admits .fjz (signed 0x9200 4 [1]) 0x9200 4 .wo [1] board = true ∧
    (tailOver (fjzIs fun x => { x with recState := .tail, postTrigger := 1, frc := 1000000 }).fjz = true ∧
      tailOver (fjzIs fun x => { x with recState := .tail, postTrigger := 1, frc := 999999 }).fjz = false) ∧
    admits .fjz (signed 0x9200 5 [1]) 0x9200 5 .rws [1] board = true ∧
    (admitsRead .fjz { net 0 with typ := 1 } 0x9200 0x0C true board = true ∧ element board .fjz { net 0 with typ := 1 } 0x9200 0x0B < windowCap) := by
  refine ⟨?_, ?_, admits_signed _ _ _ _ _ rfl rfl rfl ?_ ?_ ?_ ?_, ?_, admits_signed _ _ _ _ _ rfl rfl rfl ?_ ?_ ?_ ?_, ?_⟩ <;> decide +kernel

/-- A die in replay, mode 0 STRICT or 1 TIMED, with its context 63 RUNNING herd 3 of run 1 and its feed. -/
def replaying (mode : Nat) (feed : List FeedRec) : State :=
  onTsu (fun t => { t with tc := { t.tc with state := .replayPinned, htValid := true }, replaySetup := pack 192 [(80, 8, mode)], feed := feed })
    (owner fun x => { x with state := .running, seqLast := 1, bnum := 4 })
/-- A fed record of herd 3, run 1, a descriptor number and a kind. -/
def fed (kind : U8) (herd bnum ns : Nat) : FeedRec :=
  ⟨kind, bvBytes (pack 192 [(0, 80, ns * 65536), (80, 24, herd), (104, 8, 1), (112, 40, bnum)]) ++ List.replicate 20 0⟩

theorem test_hyp_ReplayCommands :
    (admits .tsu (win 24) 0x9300 1 .rws (bvBytes (pack 192 [(0, 80, 5), (80, 8, 1)])) board = true ∧ rsMode (pack 192 [(0, 80, 5), (80, 8, 1)]) ≤ 1 ∧
      board.tsu.tc.state = .unset ∧ board.tsu.allFree = true ∧ runner.tsu.allFree = false) ∧
    (let s := tcIs fun tc => { tc with state := .replayPinned }
     admits .tsu (win 1) 0x9300 2 .rws [1] s = true ∧ s.tsu.tc.state = .replayPinned ∧ s.tsu.allFree = true ∧ board.tsu.tc.state ≠ .replayPinned) ∧
    (let v : Bytes := [9, 24, 0] ++ List.replicate 24 0
     admits .tsu (win 27) 0x9300 3 .wo v board = true ∧ parseFeed v.length v = some [⟨9, List.replicate 24 0⟩] ∧ v.length ≤ feedFree board.tsu ∧
       feedFree (replaying 0 [⟨9, List.replicate 65510 0⟩]).tsu < v.length ∧ parseFeed 2 [9, 24] = none) ∧
    admits .tsu (win 1) 0x9300 4 .wo [1] board = true ∧
    (feedCtx (replaying 0 [fed 9 4 4 0]).tsu (fed 9 4 4 0) = none ∧ (replaying 0 []).tsu.replayStrict = true ∧
      feedCtx (replaying 0 [fed 9 3 5 0]).tsu (fed 9 3 5 0) = some 63 ∧ strictDue (replaying 0 [fed 9 3 5 0]).tsu 63 (fed 9 3 5 0) = false ∧
      strictDue (replaying 0 [fed 9 3 4 0]).tsu 63 (fed 9 3 4 0) = true ∧ (fed 10 3 4 0).kind = 10 ∧ octets (fed 10 3 4 0).content 0 1 = 0 ∧
      strictDue (replaying 0 [fed 10 3 4 0]).tsu 63 (fed 10 3 4 0) = true ∧ ((replaying 0 []).tsu.herd 63).live = true ∧
      (replaying 1 []).tsu.replayTimed = true ∧ feedCtx (replaying 1 [fed 9 3 4 0]).tsu (fed 9 3 4 0) = some 63 ∧
      (fed 9 3 4 0).ht.toNat ≤ (replaying 1 [fed 9 3 4 0]).tsu.now.toNat ∧ (replaying 1 []).tsu.now.toNat < (fed 9 3 4 1).ht.toNat) ∧
    (let s := onTsu (fun t => { t with stallMs := 1, tc := { t.tc with frc := 1000000 } }) (replaying 0 [fed 9 3 5 0])
     s.tsu.works = true ∧ s.tsu.replayStrict = true ∧ s.tsu.feed ≠ [] ∧ s.tsu.replayStalled = false ∧
       s.tsu.replayAt + s.tsu.stallMs.toNat * 1000000 ≤ s.tsu.tc.frc.toNat) ∧
    (admits .tsu (win 384) 0x9380 1 .rws (bvBytes (0 : BitVec 3072)) (tcIs fun tc => { tc with state := .replayPinned }) = true ∧
      (∀ i, i < 16 → forcedOk (tcIs fun tc => { tc with state := .replayPinned }).tsu (fld (0 : BitVec 3072) (192 * i) 192) = true) ∧
      admits .tsu (win 384) 0x9380 1 .rws (bvBytes (0 : BitVec 3072)) board = true) := by decide +kernel

/-- A request header of REQ_ID 7 from ORIGIN 3, a held response to it, and a tunnel that awaits one. -/
def answerHdr : BitVec 256 := pack 256 [(0, 8, 1), (8, 8, 130), (32, 32, 7), (88, 16, 0xFFFF)]
def holding : State := onAgent .tsu (fun a => { a with held := [⟨.window, 0, answerHdr, [], 0⟩] }) board
def tunnelled (f : U64) : State :=
  onFjz (fun x => { x with frc := f, tunnelTimeout := 1 })
    (onPort .fjz 63 (fun x => { x with state := .up, tunnels := [(answerHdr, 4, 0)] }) board)

theorem test_hyp_DictionaryAnswers :
    (agentUp holding .tsu = true ∧ sourceOf .tsu (win 1).src = true ∧ route holding .tsu (win 1) = .here ∧
      findRsp (agent holding .tsu) (asTaken (win 1)) = some ⟨.window, 0, answerHdr, [], 0⟩ ∧ findRsp (agent board .tsu) (asTaken (win 1)) = none ∧
      ((net 1).src ≠ .net ∨ zdpHeard board.fjz (net 1) = true) ∧ writeStatus board .tsu (asTaken (win 8)) (wRate (2 ^ 28 + 1)) ≠ stOk ∧ (wRate 0).access ≠ .sealed) ∧
    (let op := readOf board.fresh .tsu winRead 0x1000 1
     admitsRead .tsu winRead 0x1000 1 op.pop board op.kind op.elem = true ∧ op.present (heard winRead board) = true) ∧
    (admits .tsu (win 4) 0x2160 3 .rws (bvBytes (1000 : U32)) board = true ∧ 1 ≤ (1000 : U32).toNat ∧ (1000 : U32).toNat ≤ 1000) ∧
    (board.tsu.works = true ∧ board.aheadOf (placeOf (.go true [])) = false ∧ board.tsu.winBusy = false ∧ (tsuIs fun t => { t with winBusy := true }).tsu.winBusy = true) ∧
    (let s := tunnelled 0
     s.fjz.works = true ∧ s.fjz.role = 1 ∧ (port s .fjz 63).state = .up ∧ agentUp s .fjz = true ∧
       rspOf (bvBytes answerHdr) 0 = some ⟨.net, 0, answerHdr, [], 0⟩ ∧ hApplied answerHdr = false ∧
       (port s .fjz 63).tunnels.find? (fun w => decide (hReqId w.1 = hReqId answerHdr ∧ hOrigin w.1 = hOrigin answerHdr)) = some (answerHdr, 4, 0)) ∧
    (let s := tunnelled 1000000
     (port s .fjz 63).tunnels.find? (fun w => decide (hReqId w.1 = 7)) = some (answerHdr, 4, 0) ∧
       0 + s.fjz.tunnelTimeout.toNat * 1000000 ≤ s.fjz.frc.toNat) := by decide +kernel

theorem test_hyp_DictionaryRefusal : (wRate (2 ^ 28 + 1)).refuse = id := rfl


theorem test_hyp_NoCommandTouchesTheQueue : (Instr.trainFail .fjz 71).wf = true ∧ ∃ t, exec .powerOnReset board = .next t := ⟨rfl, _, rfl⟩

theorem test_hyp_FusesOnlyBurn : fusesBalanced board.tsu.meter = true ∧
    ∃ t, step { board with pending := [.fjzResetAssert] } = .next t := ⟨by decide, _, rfl⟩

theorem test_hyp_InterruptBits : board.tsu.pwrGood = true ∧ 31 < 32 := by decide

theorem test_hyp_HelloExchange :
    (portOk .tsu 1 = true ∧ partWorks greeting .tsu = true ∧ (port greeting .tsu 1).state = .hello ∧ (port greeting .tsu 1).rxLock = true ∧
      (helloOf 1 1 1 true).typ = 8 ∧ (helloOf 1 1 1 true).sound = true ∧ greeting.aheadOf (cellPlace .tsu 1) = false) ∧
    commonVersion (hFraming (helloOf 2 1 1 true).body) = 0 ∧
    (commonVersion (hFraming (helloOf 1 2 1 true).body) ≠ 0 ∧ commonVersion (hTime (helloOf 1 2 1 true).body) ≠ 0 ∧
      hRole (helloOf 1 2 1 true).body ≠ peerRole greeting .tsu 1) ∧
    (hRole (helloOf 1 1 0 true).body = peerRole greeting .tsu 1 ∧ hPlane (helloOf 1 1 0 true).body ≠ planeOf greeting .tsu 1) ∧
    (hPlane (helloOf 1 1 1 false).body = planeOf greeting .tsu 1 ∧ hAck (helloOf 1 1 1 false).body = false ∧
      hAck (helloOf 1 1 1 true).body = true) ∧
    (let s := portIs fun x => { x with state := .up, peerHello := some (helloBody 1 2 1 true), slots := 655360 }
     (port s .tsu 1).state = .up ∧ (port s .tsu 1).peerHello.map helloIdentity ≠ some (helloIdentity (helloOf 1 1 1 true).body) ∧
       (port s .tsu 1).slots / 10 % 65536 = 0 ∧ s.aheadOf (cellPlace .tsu 1) = false) ∧
    (portOk .fjz 71 = true ∧ partWorks greeting .fjz = true ∧ (port greeting .fjz 71).state = .hello ∧
      (port greeting .fjz 71).slots / 10 % 1024 = 0) := by decide

/-! ## Ill-formed commands: the first value beyond each range -/

theorem test_wf_port : (Instr.trainFail .tsu 2).wf = false ∧ (Instr.trainFail .tsu 1).wf = true ∧
    (Instr.trainFail .fjz 72).wf = false ∧ (Instr.trainFail .fjz 71).wf = true := by decide
theorem test_wf_region : (Instr.stretchReport 52).wf = false ∧ (Instr.stretchReport 51).wf = true := by decide
theorem test_wf_link : (Instr.latBaselineAuto ⟨96, true⟩).wf = false ∧ (Instr.latBaselineAuto ⟨95, true⟩).wf = true := by decide
theorem test_wf_herd : (Instr.pronkFire 64).wf = false ∧ (Instr.pronkFire 63).wf = true := by decide
theorem test_wf_bank : (Instr.bankWakeDone 51 16).wf = false ∧ (Instr.bankWakeDone 51 15).wf = true ∧
    (Instr.bankWakeDone 52 15).wf = false := by decide
theorem test_wf_gate : (Instr.isolated 63 4).wf = false ∧ (Instr.isolated 63 3).wf = true ∧ (Instr.isolated 64 3).wf = false := by decide
theorem test_wf_cand : (Instr.refClockLoss 10).wf = false ∧ (Instr.refClockLoss 9).wf = true := by decide
theorem test_wf_eth : (Instr.ptpAnnounceTimeout 2).wf = false ∧ (Instr.ptpAnnounceTimeout 1).wf = true := by decide
theorem test_wf_output : (Instr.refOutPps 4).wf = false ∧ (Instr.refOutPps 3).wf = true := by decide
theorem test_wf_tine_ctx : (Instr.tineTimeout 8192 false).wf = false ∧ (Instr.tineTimeout 8191 false).wf = true := by decide
theorem test_wf_part : (Instr.tineContribution 51 1024 0 noEcc).wf = false ∧ (Instr.tineContribution 51 1023 0 noEcc).wf = true := by decide
theorem test_wf_slot : (Instr.watchTimeout 4096).wf = false ∧ (Instr.watchTimeout 4095).wf = true := by decide

/-! ## The manual's own examples -/

/-- 00_scope.md, example of HT80: 2030-01-01 00:00:00 TAI and half a nanosecond. -/
theorem test_ht80 : htOfNs (21915 * 86400 * 1000000000) + 0x8000 = 1893456000000000000#64 ++ 0x8000#16 ∧
    nsOf (1893456000000000000#64 ++ 0x8000#16) = 1893456000000000000 := by decide

/-- 02_hall_time.md, example of R37: RATE from −4,096 to −4,160 at 2^40 adds 64 ns to offset, and the target 1,000,000 ns ahead
falls 1,000,001 ticks ahead; at rate 0 it falls 1,000,000 ticks ahead. -/
theorem test_rate_update :
    let tc : TimeCore := { state := .holdover, offset := htOfNs 5000, rate := -4096, frc := 2 ^ 40 }
    let tc' := setRate (-4160) tc
    tc'.offset = htOfNs 5064 ∧ htAt tc' (2 ^ 40) = htAt tc (2 ^ 40) ∧
      tickOf tc' (htAt tc' (2 ^ 40) + htOfNs 1000000) = 2 ^ 40 + 1000001 ∧
      tickOf { tc with rate := 0 } (htAt { tc with rate := 0 } (2 ^ 40) + htOfNs 1000000) = 2 ^ 40 + 1000000 := by decide +kernel

/-- 02_hall_time.md, example of R46: 2,040 ticks against 3,204 region clocks of 625 ps are 37 ns of stretch, and 120 events show as 15. -/
theorem test_stretch :
    let s := onRegion 17 (fun r => { r with nominalFs := 625000 }) (timed .locked 1000)
    let s := takeSnapshot 17 2 3204 (onTc (fun tc => { tc with frc := 3040 })
      (onRegion 17 (fun r => { r with snapStretches := 120 }) (takeSnapshot 17 1 0 s)))
    (s.tsu.region 17).stretchNs = 37 ∧ fldN (s.tsu.region 17).snap 120 4 = 15 := by decide

/-- 03_sync_ports_timestamps.md, example of R79: 75.360 ns and 74.640 ns give 75.000 ns, and 0.300 ns with the asymmetry of 120 ps known.
Times are whole units of 2^-16 ns, so the differences stand for 75.36 and 74.64 within half a unit. -/
theorem test_exchange :
    let e := exchangeOf 0 (BitVec.ofNat 80 (7536 * 65536 / 100)) (htOfNs 52428) (htOfNs 52428 + BitVec.ofNat 80 (7464 * 65536 / 100))
    ((e.1 + e.2) * 1000 : Int) / (2 * 65536) = 74999 ∧ ((e.1 - e.2) * 1000 - 120 * 65536 : Int) / (2 * 65536) = 299 ∧
      ((e.1 - e.2) * 1000 : Int) / (2 * 65536) = 359 := by decide

/-- 04_references_planes.md, example of R106: P(49 °C) − P(45 °C) is −0.298 ppb. -/
theorem test_ocxo :
    let t := pack 320 [(0, 32, 278150), (32, 32, 1000), (64, 32, 298150), (96, 32, 1250), (128, 32, 318150), (192, 32, 338150),
      (224, 32, 2 ^ 32 - 1250), (256, 32, 358150), (288, 32, 2 ^ 32 - 1000)]
    ocxoOk t = true ∧ ocxoP t 322150 - ocxoP t 318150 = -298 := by decide +kernel

/-- 05_step_programs_pronk.md, example of ADVANCE: 4 tokens on a stream with room for 3 credit 3 and end it. -/
theorem test_advance :
    let e := advanceEntry 1 (pack 256 [(56, 4, 2), (64, 24, 0xFFFFFD), (88, 24, 0xFFFFFF), (112, 8, 3)])
    lPos e = 0xFFFFFF ∧ lState e = lsEnded ∧ lAccTok e = 3 ∧ lAdv e = 0 := by decide

/-- 06_sync_objects_watches.md, example: CTR_EQ 8 does not see a counter that goes from 7 to 9; CTR_GE 8 does. -/
theorem test_conditions :
    let t := (onCounter 0x318 (fun c => { c with value := 9 }) board).tsu
    watchHolds t { entry := pack 256 [(0, 3, 1), (16, 16, 0x318), (32, 48, 8)] } = false ∧
      watchHolds t { entry := pack 256 [(0, 3, 0), (16, 16, 0x318), (32, 48, 8)] } = true := by decide

/-- 07_tines_arithmetic.md, example of SUM_F32 on ports 0 to 3: 2^24, 1, 1 and −2^24 give 1. -/
theorem test_sum_f32 :
    combineTree opSumF32 4 ([0x4B800000, 0x3F800000, 0x3F800000, 0xCB800000].map some ++ List.replicate 60 none) =
      some 0x3F800000 := by decide +kernel

/-- 08_herds_swaps.md, example: a base of 4,096 at 2 % allows 81 expulsions in an hour, 60 s apart. -/
theorem test_budget :
    let w (n : Nat) : Steward := { base := 4096, decisions := List.replicate n 10000000000000, lastExpel := htOfNs 10000000000000 }
    budgetAllows 10060000000000 (w 80) = true ∧ budgetAllows 10060000000000 (w 81) = false ∧
      budgetAllows 10059999999999 (w 1) = false := by decide

/-- The same example: 12 late arrivals a second, with 20 margin events and 40 corrected words, cost more than 600 points after 57 s and no more
after 56 s. -/
theorem test_health :
    let acc (x n : Nat) : U32 := (List.range n).foldl (fun a _ => healthAcc a x) 0
    let cost (n : Nat) : Nat := healthPenalty board.tsu.healthPolicy 0 (acc 40 n) + healthPenalty board.tsu.healthPolicy 1 (acc 20 n) +
      healthPenalty board.tsu.healthPolicy 2 (acc 12 n)
    600 < cost 57 ∧ cost 56 ≤ 600 := by decide +kernel

/-- R318 takes HMAC-SHA-256 from FIPS 198-1; the digest of "abc" stands in FIPS 180-4 (PRESUMED: outside the manual). -/
theorem test_sha256_abc : sha256 [0x61, 0x62, 0x63] = beBytes 32 0xba7816bf8f01cfea414140de5dae2223b00361a396177a9cb410ff61f20015ad := by
  decide +kernel

/-- R67, R128: a cell on port A waits and goes ahead of one on port B and of a signal, but not of another on port A; R18: the local window goes
before a tunnel. -/
theorem test_order :
    let s : State := { board with pending := [.haltAt 0 (mkCell 6 0 0 0), .errPop .tsu winRead] }
    s.aheadOf (cellPlace .tsu 1) = true ∧ s.aheadOf (cellPlace .tsu 0) = true ∧ board.aheadOf (cellPlace .tsu 0) = false ∧
      s.aheadOf (requestPlace .tsu { winRead with src := .tunA }) = true ∧ s.aheadOf (requestPlace .fjz { winRead with src := .tunA }) = false ∧
      { s with pending := [.haltAt 0 (mkCell 6 0 0 0)] }.aheadOf (cellPlace .tsu 0) = false := by decide

/-- R329: of two done tokens of a region on one tick the second waits in its queue, and goes on the next tick. -/
theorem test_one_token_a_tick :
    let s := onRegion 51 (Region.take qDone []) board
    let t := fromRegion 51 qDone (.regionDone 51 0 false 0) id s
    (t.tsu.region 51).waiting qDone = [.regionDone 51 0 false 0] ∧ (t.tsu.region 51).credits qDone = 3 ∧
      (offerTokens 51 t).later = [.regionDone 51 0 false 0] ∧ ((offerTokens 51 t).tsu.region 51).took qDone = false := by decide

/-- R80: a latency 20 ps longer is followed by 8 ps at once, and by the rest as codewords begin. -/
theorem test_latency_step : latencyStep 100 120 = 108 ∧ latencyStep 108 120 = 116 ∧ latencyStep 116 120 = 120 ∧ latencyStep 100 80 = 92 := by
  decide

end Sys2Proof.Tests
end

section
/-! PROOFS. Validation, erasure and held writes of tine templates (O49), on what a request to the Fjouz chip brings about. -/

namespace Sys2Proof

open Machine

/-! ## The Fjouz chip's agent -/

/-- A request to the chip comes from the network (R307). -/
theorem net_of_sourceOf {q : Req} (h : sourceOf .fjz q.src = true) : q.src = .net := by
  cases hq : q.src <;> simp_all [sourceOf]

theorem source_of_admits {d : Dev} {q : Req} {i j : Nat} {a : Access} {v : Bytes} {s : State} {k e : Nat}
    (h : admits d q i j a v s k e = true) : sourceOf d q.src = true := by
  simp only [admits, Bool.and_eq_true] at h
  obtain ⟨⟨⟨⟨⟨⟨⟨⟨⟨⟨_, hsource⟩, _⟩, _⟩, _⟩, _⟩, _⟩, _⟩, _⟩, _⟩, _⟩ := h
  exact hsource

theorem source_of_admitsRead {d : Dev} {q : Req} {i j : Nat} {pop : Bool} {s : State} {k e : Nat}
    (h : admitsRead d q i j pop s k e = true) : sourceOf d q.src = true := by
  simp only [admitsRead, Bool.and_eq_true] at h
  obtain ⟨⟨⟨⟨⟨⟨_, hsource⟩, _⟩, _⟩, _⟩, _⟩, _⟩ := h
  exact hsource

/-- A request to the chip that is taken moves counters of the chip's agent only (R318, R324). -/
theorem taken_chip {q : Req} (hq : q.src = .net) (s : State) : ∃ f, taken .fjz q s = onAgent .fjz f s.fresh := by
  unfold taken countTaken heard tunnelCells
  rw [hq]
  exact ⟨_, rfl⟩

/-- An answer of the chip leaves on the management network and is kept in its agent (R307, R314). -/
theorem answered_chip {q : Req} (hq : q.src = .net) (i j st : Nat) (s : State) :
    ∃ r, answered .fjz q i j st s = emit (.response .fjz r) (onAgent .fjz (keepRsp r) s) := by
  have hsrc : (asTaken q).src = .net := by simp [asTaken, hq]
  refine ⟨mkRsp (agent s .fjz) (asTaken q) i j st false [], ?_⟩
  simp [answered, deliverRsp, mkRsp, hsrc]

theorem answered_chip_tsu {q : Req} (hq : q.src = .net) (i j st : Nat) (s : State) : (answered .fjz q i j st s).tsu = s.tsu := by
  obtain ⟨r, hr⟩ := answered_chip hq i j st s
  rw [hr]; rfl

theorem answered_chip_keeps {γ : Type} (v : Fjz → γ) (hv : ∀ x a, v { x with agent := a } = v x) {q : Req} (hq : q.src = .net)
    (i j st : Nat) (s : State) : v (answered .fjz q i j st s).fjz = v s.fjz := by
  obtain ⟨r, hr⟩ := answered_chip hq i j st s
  rw [hr]; exact hv _ _

theorem taken_chip_keeps {γ : Type} (v : Fjz → γ) (hv : ∀ x a, v { x with agent := a } = v x) {q : Req} (hq : q.src = .net)
    (s : State) : v (taken .fjz q s).fjz = v s.fjz := by
  obtain ⟨f, hf⟩ := taken_chip hq s
  rw [hf]; exact hv _ _

/-- An admitted write to the chip whose contexts have an open round waits with the response PENDING (R21, R322). -/
theorem agentWrite_held {q : Req} {c : Instr} (hpl : placeOf c = requestPlace .fjz q) {op : WriteOp} {s : State}
    (h : admits .fjz q op.index op.sub op.access op.bytes s op.kind op.elem = true) (hwhole : op.whole = true)
    (hsize : op.size = op.bytes.length ∨ (op.size = 0 ∧ op.bytes.length ≤ op.maxSize))
    (hp : op.present (heard q s) = true) (hr : op.ready (heard q s) = true) (hg : op.range (heard q s) = true)
    (hc : op.cls (heard q s) = .fjouz) (hc' : op.cls (taken .fjz q s) = .fjouz) :
    perform true (inTurn c (agentWrite .fjz q op)) s = .next (enterErrs (answered .fjz q op.index op.sub stPending
      (park .fjz (asTaken q) op .fjouz (op.accept (taken .fjz q s))))) := by
  have h' : admits .fjz q op.index op.sub op.access op.bytes (heard q s) op.kind op.elem = true := by simpa using h
  have hst := writeStatus_admitted h' hwhole hsize
  simp only [hp, hr, hg, hc, pendingFull, Bool.and_false, Bool.true_eq_false, Bool.false_eq_true, if_false] at hst
  have hlog : ∀ u, logSealed .fjz op.access stOk op.index op.sub u = u := fun u => by simp [logSealed]
  have hfind := findRsp_admitted h'
  rw [perform_true, inTurn_heard hpl (agentWrite_admitted h).1, (agentWrite_admitted h).2]
  unfold taken at hc' ⊢
  simp only [serveWrite, hfind, hst, ne_eq, not_true_eq_false, if_false, hlog, hc']
  rfl

@[simp] theorem element_fresh (d : Dev) (q : Req) (i j : Nat) (s : State) : element s.fresh d q i j = element s d q i j := by
  simp [element, selector]

@[simp] theorem element_heard (d : Dev) (q q' : Req) (i j : Nat) (s : State) : element (heard q' s) d q i j = element s d q i j := by
  simp [element, selector]

@[simp] theorem element_taken (d : Dev) (q q' : Req) (i j : Nat) (s : State) : element (taken d q' s) d q i j = element s d q i j := by
  have hsel : (agent (taken d q' s) d).selectors = (agent s d).selectors := by
    unfold taken countTaken
    rw [agent_onAgent_same, heard_agent]
    dsimp only
    repeat' split
    all_goals rfl
  simp [element, selector, hsel]

/-! ## Slots (R185) -/

@[simp] theorem onTemplate_staged (d : Dev) (k : Nat) (f : Template → Template) (s : State) : (onTemplate d k f s).staged = s.staged := by
  cases d <;> rfl

theorem templateAt_onTemplate (d : Dev) (j k : Nat) (f : Template → Template) (s : State) :
    templateAt (onTemplate d k f s) d j = if j = k then f (templateAt s d j) else templateAt s d j := by
  cases d <;> exact Tbl.get_upd _ _ _ _ _

@[simp] theorem templateAt_heard (d : Dev) (k : Nat) (q : Req) (s : State) : templateAt (heard q s) d k = templateAt s d k :=
  heard_keeps (templateAt · d k) (fun _ _ _ => by cases d <;> rfl) q s |>.trans (by cases d <;> rfl)

@[simp] theorem templateOk_heard (d : Dev) (m : Template) (q : Req) (s : State) : templateOk (heard q s) d m = templateOk s d m :=
  heard_keeps (templateOk · d m) (fun _ _ _ => rfl) q s

@[simp] theorem templateUsers_heard (d : Dev) (k : Nat) (q : Req) (s : State) : templateUsers (heard q s) d k = templateUsers s d k :=
  heard_keeps (templateUsers · d k) (fun _ _ _ => by cases d <;> rfl) q s |>.trans (by cases d <;> rfl)

@[simp] theorem roundOpen_heard (d : Dev) (k : Nat) (q : Req) (s : State) : roundOpen (heard q s) d k = roundOpen s d k :=
  heard_keeps (roundOpen · d k) (fun _ _ _ => by cases d <;> rfl) q s |>.trans (by cases d <;> rfl)

@[simp] theorem roundOpen_taken (d : Dev) (k : Nat) (q : Req) (s : State) : roundOpen (taken d q s) d k = roundOpen s d k :=
  taken_keeps (roundOpen · d k) (fun _ _ _ => by cases d <;> rfl) (fun _ _ => by cases d <;> rfl) q s |>.trans (by cases d <;> rfl)

/-! ## The write of TEMPLATE_VALID (R181, R184, R185) -/

theorem exec_templateValidate (d : Dev) (q : Req) (s : State) : exec (.templateValidate d q) s =
    perform true (inTurn (.templateValidate d q) (agentWrite d q (wTemplateValid d (templateElem s d q) 1))) s := by
  change execTemplateValidate d q s = _
  simp only [execTemplateValidate, perform_true, inTurn, templateElem, element_fresh]

theorem exec_templateErase (d : Dev) (q : Req) (s : State) : exec (.templateErase d q) s =
    perform true (inTurn (.templateErase d q) (agentWrite d q (wTemplateValid d (templateElem s d q) 0))) s := by
  change execTemplateErase d q s = _
  simp only [execTemplateErase, perform_true, inTurn, templateElem, element_fresh]

section Valid
variable {d : Dev} {q : Req} {s : State} {k : Nat} {c : Instr}

theorem validate_takes (hpl : placeOf c = requestPlace d q) (hk : k < templateSlots d) (h : admits d q 0x7200 6 .rws [1] s 6 k = true)
    (hok : templateOk s d (templateAt s d k) = true) (hopen : roundOpen s d k = false) :
    perform true (inTurn c (agentWrite d q (wTemplateValid d k 1))) s = .next (answered d q 0x7200 6 stOk
      (onTemplate d k (fun m => { m with valid := true }) (taken d q s))) := by
  have hw := agentWrite_takes hpl (op := wTemplateValid d k 1) h rfl (.inl rfl) (by simp [wTemplateValid, hk])
    (by simp [wTemplateValid]) (by simp [wTemplateValid, boolOk, hok]) (by simp [wTemplateValid, hopen])
    (by simp [wTemplateValid, hopen]) rfl
  rw [hw, enterErrs_nil (by simp [wTemplateValid])]
  rfl

theorem validate_refused (hpl : placeOf c = requestPlace d q) (hk : k < templateSlots d) (h : admits d q 0x7200 6 .rws [1] s 6 k = true)
    (hok : templateOk s d (templateAt s d k) = false) :
    perform true (inTurn c (agentWrite d q (wTemplateValid d k 1))) s = .next (answered d q 0x7200 6 stRange (taken d q s)) := by
  have hw := agentWrite_refuses hpl (op := wTemplateValid d k 1) h rfl (.inl rfl) (by simp [wTemplateValid, hk])
    (.inr ⟨by simp [wTemplateValid], by simp [wTemplateValid, hok], rfl⟩)
  rw [hw, enterErrs_nil (by simp [wTemplateValid])]
  rfl

theorem validate_waits (hpl : placeOf c = requestPlace .fjz q) (hk : k < templateSlots .fjz)
    (h : admits .fjz q 0x7200 6 .rws [1] s 6 k = true)
    (hok : templateOk s .fjz (templateAt s .fjz k) = true) (hopen : roundOpen s .fjz k = true) :
    ∃ t w, perform true (inTurn c (agentWrite .fjz q (wTemplateValid .fjz k 1))) s = .next t ∧ t.tsu = s.tsu ∧
      t.fjz.templates = s.fjz.templates ∧ t.fjz.heldWrites = s.fjz.heldWrites ++ [w] ∧ w.ctx = k ∧ w.value = [1] := by
  have hw := agentWrite_held hpl (op := wTemplateValid .fjz k 1) h rfl (.inl rfl) (by simp [wTemplateValid, hk])
    (by simp [wTemplateValid]) (by simp [wTemplateValid, boolOk, hok]) (by simp [wTemplateValid, hopen])
    (by simp [wTemplateValid, hopen])
  have hnet := net_of_sourceOf (source_of_admits h)
  rw [enterErrs_nil (by simp [park, wTemplateValid])] at hw
  refine ⟨_, ⟨k, 0x7200, 6, [1], asTaken q, counterOf (taken .fjz q s) .fjz, 0⟩, hw, ?_, ?_, ?_, rfl, rfl⟩
  · rw [answered_chip_tsu hnet]
    exact taken_tsu (source_of_admits h) s
  · rw [answered_chip_keeps (·.templates) (fun _ _ => rfl) hnet]
    exact taken_chip_keeps (·.templates) (fun _ _ => rfl) hnet s
  · rw [answered_chip_keeps (·.heldWrites) (fun _ _ => rfl) hnet]
    exact congrArg (· ++ _) (taken_chip_keeps (·.heldWrites) (fun _ _ => rfl) hnet s)

theorem erase_takes (hpl : placeOf c = requestPlace d q) (hk : k < templateSlots d) (h : admits d q 0x7200 6 .rws [0] s 6 k = true)
    (hfree : templateUsers s d k = 0) :
    perform true (inTurn c (agentWrite d q (wTemplateValid d k 0))) s = .next (answered d q 0x7200 6 stOk
      (onTemplate d k (fun _ => {}) (taken d q s))) := by
  have hw := agentWrite_takes hpl (op := wTemplateValid d k 0) h rfl (.inl rfl) (by simp [wTemplateValid, hk])
    (by simp [wTemplateValid, hfree]) (by simp [wTemplateValid, boolOk]) (by simp [wTemplateValid])
    (by simp [wTemplateValid]) rfl
  rw [hw, enterErrs_nil (by simp [wTemplateValid])]
  rfl

theorem erase_refused (hpl : placeOf c = requestPlace d q) (hk : k < templateSlots d) (h : admits d q 0x7200 6 .rws [0] s 6 k = true)
    (hused : templateUsers s d k ≠ 0) :
    perform true (inTurn c (agentWrite d q (wTemplateValid d k 0))) s = .next (answered d q 0x7200 6 stState (taken d q s)) := by
  have hw := agentWrite_refuses hpl (op := wTemplateValid d k 0) h rfl (.inl rfl) (by simp [wTemplateValid, hk])
    (.inl ⟨by simp [wTemplateValid, hused], rfl⟩)
  rw [hw, enterErrs_nil (by simp [wTemplateValid])]
  rfl

end Valid

/-! ## Held writes (R21) -/

/-- A held write is applied, and its second response leaves (R21, R322). -/
def applyHeldWrite (w : PendingWrite) (s : State) : State :=
  appliedRsp .fjz w.req w.index.toNat w.sub.toNat stOk
    (onTemplate .fjz w.ctx (writtenTemplate .fjz w.sub.toNat w.elem w.value) s)

theorem exec_fjouzWriteApply (s : State) : exec .fjouzWriteApply s = performOn .fjz true (fun u =>
    forAll (u.fjz.heldWrites.filter fun w => !roundOpen u .fjz w.ctx) applyHeldWrite
      (onFjz (fun x => { x with heldWrites := x.heldWrites.filter fun w => roundOpen u .fjz w.ctx }) u)) s := rfl

theorem appliedRsp_net {q : Req} (hq : q.src = .net) (i j st : Nat) (s : State) :
    ∃ o, appliedRsp .fjz q i j st s = { s with out := o } := by
  unfold appliedRsp
  split
  · exact ⟨_, by simp only [deliverRsp, mkRsp, hq]; rfl⟩
  · exact ⟨s.out, rfl⟩

theorem applyHeldWrite_net {w : PendingWrite} (hw : w.req.src = .net) (s : State) : ∃ o, applyHeldWrite w s =
    { onTemplate .fjz w.ctx (writtenTemplate .fjz w.sub.toNat w.elem w.value) s with out := o } :=
  appliedRsp_net hw _ _ _ _

/-- What held writes leave in slot `k`, in the order of their acceptance. -/
def heldWritesAt (ws : List PendingWrite) (k : Nat) (m : Template) : Template :=
  (ws.filter fun w => decide (w.ctx = k)).foldl (fun m w => writtenTemplate .fjz w.sub.toNat w.elem w.value m) m

theorem heldWritesAt_cons (w : PendingWrite) (ws : List PendingWrite) (k : Nat) (m : Template) : heldWritesAt (w :: ws) k m =
    heldWritesAt ws k (if k = w.ctx then writtenTemplate .fjz w.sub.toNat w.elem w.value m else m) := by
  by_cases h : k = w.ctx
  · simp [heldWritesAt, h]
  · simp [heldWritesAt, h, Ne.symm h]

theorem forAll_applyHeldWrite_keeps {γ : Type} (v : State → γ) (ho : ∀ (s : State) o, v { s with out := o } = v s)
    (ht : ∀ k f s, v (onTemplate .fjz k f s) = v s) (ws : List PendingWrite) (hws : ∀ w ∈ ws, w.req.src = .net) (s : State) :
    v (forAll ws applyHeldWrite s) = v s := by
  induction ws generalizing s with
  | nil => rfl
  | cons w ws ih =>
    obtain ⟨o, hw⟩ := applyHeldWrite_net (hws w (by simp)) s
    calc v (forAll ws applyHeldWrite (applyHeldWrite w s))
        = v (applyHeldWrite w s) := ih (fun x hx => hws x (by simp [hx])) _
      _ = v s := by rw [hw, ho, ht]

theorem templateAt_forAll_applyHeldWrite (ws : List PendingWrite) (hws : ∀ w ∈ ws, w.req.src = .net) (s : State) (k : Nat) :
    templateAt (forAll ws applyHeldWrite s) .fjz k = heldWritesAt ws k (templateAt s .fjz k) := by
  induction ws generalizing s with
  | nil => rfl
  | cons w ws ih =>
    obtain ⟨o, hw⟩ := applyHeldWrite_net (hws w (by simp)) s
    have hat : templateAt (applyHeldWrite w s) .fjz k =
        if k = w.ctx then writtenTemplate .fjz w.sub.toNat w.elem w.value (templateAt s .fjz k) else templateAt s .fjz k := by
      rw [hw]; exact templateAt_onTemplate .fjz k w.ctx _ s
    calc templateAt (forAll ws applyHeldWrite (applyHeldWrite w s)) .fjz k
        = heldWritesAt ws k (templateAt (applyHeldWrite w s) .fjz k) := ih (fun x hx => hws x (by simp [hx])) _
      _ = heldWritesAt (w :: ws) k (templateAt s .fjz k) := by rw [hat, heldWritesAt_cons]

/-- Whether a write is due depends on its slot alone, so a slot takes all of its writes or none. -/
theorem heldWritesAt_filter (p : Nat → Bool) (ws : List PendingWrite) (k : Nat) (m : Template) :
    heldWritesAt (ws.filter fun w => !p w.ctx) k m = if p k then m else heldWritesAt ws k m := by
  have hsame : (ws.filter fun w => !p w.ctx).filter (fun w => decide (w.ctx = k)) =
      ws.filter fun w => decide (w.ctx = k) && !p k := by
    rw [List.filter_filter]
    refine List.filter_congr fun w _ => ?_
    by_cases hw : w.ctx = k <;> simp [hw]
  cases hp : p k <;> simp [heldWritesAt, hsame, hp]

theorem fjouzWriteApply_applies (s : State) (hwk : s.fjz.works = true) (hnet : ∀ w ∈ s.fjz.heldWrites, w.req.src = .net) :
    ∃ t, exec .fjouzWriteApply s = .next t ∧ t.tsu = s.tsu ∧
      t.fjz.heldWrites = (s.fjz.heldWrites.filter fun w => roundOpen s .fjz w.ctx) ∧
      ∀ k, templateAt t .fjz k = if roundOpen s .fjz k then templateAt s .fjz k
        else heldWritesAt s.fjz.heldWrites k (templateAt s .fjz k) := by
  have hdue : ∀ w ∈ s.fjz.heldWrites.filter (fun w => !roundOpen s .fjz w.ctx), w.req.src = .net :=
    fun w hw => hnet w (List.mem_filter.1 hw).1
  rw [exec_fjouzWriteApply, performOn_works (d := .fjz) rfl hwk,
    enterErrs_nil (forAll_applyHeldWrite_keeps (·.staged) (fun _ _ => rfl) (fun _ _ _ => rfl) _ hdue _)]
  refine ⟨_, rfl, ?_, ?_, fun k => ?_⟩
  · exact forAll_applyHeldWrite_keeps (·.tsu) (fun _ _ => rfl) (fun _ _ _ => rfl) _ hdue _
  · exact forAll_applyHeldWrite_keeps (·.fjz.heldWrites) (fun _ _ => rfl) (fun _ _ _ => rfl) _ hdue _
  · exact (templateAt_forAll_applyHeldWrite _ hdue _ k).trans (heldWritesAt_filter (roundOpen s .fjz) _ k _)

/-- Settles O49: each write of TEMPLATE_VALID by the agent's law for its outcome, and the held writes by induction on their list. -/
theorem templates : Obligations.Templates := by
  unfold Obligations.Templates
  refine ⟨?_, fun s hwk hnet => ?_⟩
  intro d q s k hk
  refine ⟨fun h => ⟨fun hok hopen => ?_, fun hok hopen => ?_, fun hbad => ?_⟩, fun h => ⟨fun hfree => ?_, fun hused => ?_⟩⟩
  · rw [exec_templateValidate]
    exact validate_takes rfl hk h hok hopen
  · rw [exec_templateValidate]
    cases d with
    | tsu => simp [roundOpen] at hopen
    | fjz => exact validate_waits rfl hk h hok hopen
  · rw [exec_templateValidate]
    exact validate_refused rfl hk h hbad
  · rw [exec_templateErase]
    exact erase_takes rfl hk h hfree
  · rw [exec_templateErase]
    exact erase_refused rfl hk h hused
  · exact fjouzWriteApply_applies s hwk hnet

end Sys2Proof
end

section
/-! PROOFS. The flight recorder of die and leaf (O58). -/

namespace Sys2Proof

open Machine

/-! ## Cells of class P3 on their way out (R64, R66) -/

theorem sendOn_keeps {γ : Type} (v : State → γ) {d : Dev} {p : Nat} (hp : ∀ f s, v (onPort d p f s) = v s)
    (ht : ∀ n s, v (onTsu (fun t => { t with p3Dropped := n }) s) = v s) (hf : ∀ n s, v (onFjz (fun x => { x with p3Dropped := n }) s) = v s)
    (b : Bool) (c : Cell) (s : State) : v (sendOn d p b c s) = v s := by
  unfold sendOn
  dsimp only
  split
  · rfl
  split
  · rfl
  split
  · cases d
    · exact ht _ s
    · exact hf _ s
  split <;> exact hp _ s

theorem sendOn_p3 {d : Dev} {p : Nat} {b : Bool} {c : Cell} {s : State} (hup : (port s d p).state = .up) (hc : c.cls = 3)
    (hroom : classWaiting 3 (port s d p) < bufferCap) : sendOn d p b c s =
      onPort d p (fun x => { x with txq := x.txq ++ [{ cell := c, bypass := b, ready := counterOf s d }] }) s := by
  simp [sendOn, hup, hc, Nat.not_le.2 hroom]

theorem counterOf_onPort (d e : Dev) (p : Nat) (f : Port → Port) (s : State) : counterOf (onPort e p f s) d = counterOf s d := by
  cases d <;> cases e <;> rfl

theorem classWaiting_append (k : Nat) (x : Port) (e : TxCell) :
    classWaiting k { x with txq := x.txq ++ [e] } = classWaiting k x + if e.cell.cls = k then 1 else 0 := by
  by_cases h : e.cell.cls = k <;> simp [classWaiting, h]

/-- Cells of class P3 that find room all stand at the end of the queue, in their order (R64, R66). -/
theorem txq_forAll_send {d : Dev} {p : Nat} (cells : List Cell) (hcls : ∀ c ∈ cells, c.cls = 3) (s : State)
    (hup : (port s d p).state = .up) (hroom : classWaiting 3 (port s d p) + cells.length ≤ bufferCap) :
    (port (forAll cells (send d p) s) d p).txq =
      (port s d p).txq ++ cells.map fun c => { cell := c, ready := counterOf s d } := by
  induction cells generalizing s with
  | nil => simp [forAll]
  | cons c cells ih =>
    have hc : c.cls = 3 := hcls c (by simp)
    rw [List.length_cons] at hroom
    have hsend : send d p c s = onPort d p (fun x => { x with txq := x.txq ++ [{ cell := c, ready := counterOf s d }] }) s :=
      sendOn_p3 hup hc (by omega)
    have hrest := ih (fun x hx => hcls x (by simp [hx])) (send d p c s) (by simp [hsend, hup])
      (by simp only [hsend, port_onPort_same, classWaiting_append, hc, if_true]; omega)
    calc (port (forAll (c :: cells) (send d p) s) d p).txq
        = (port (send d p c s) d p).txq ++ cells.map (fun x => ({ cell := x, ready := counterOf (send d p c s) d } : TxCell)) := hrest
      _ = (port s d p).txq ++ (c :: cells).map (fun x => ({ cell := x, ready := counterOf s d } : TxCell)) := by
        rw [hsend, counterOf_onPort]; simp

/-! ## The tap (R24, R288) -/

/-- The staging buffer once `n` cells have left it. -/
def unstage (n : Nat) (s : State) : State :=
  onTsu (fun t => { t with
    staging := t.staging.drop n
    tapCells := bumpBy t.tapCells (t.staging.take n).length }) s

theorem drainStaging_eq (s : State) : drainStaging s =
    forAll (s.tsu.staging.take (drainRoom s)) (send .tsu (recordPort s)) (unstage (drainRoom s) s) := rfl

/-- Draining leaves alone what neither the ports nor the count of dropped cells shows. -/
theorem drainStaging_keeps {γ : Type} (v : State → γ) (hp : ∀ p f s, v (onPort .tsu p f s) = v s)
    (ht : ∀ n s, v (onTsu (fun t => { t with p3Dropped := n }) s) = v s)
    (hf : ∀ n s, v (onFjz (fun x => { x with p3Dropped := n }) s) = v s) (s : State) :
    v (drainStaging s) = v (unstage (drainRoom s) s) :=
  forAll_keeps v _ (fun c u => sendOn_keeps v (hp _) ht hf false c u) _ _

/-- Either nothing leaves the staging buffer, or the port is UP and has room for what does (R24, R66). -/
theorem drainRoom_cases (s : State) : drainRoom s = 0 ∨
    (port s .tsu (recordPort s)).state = .up ∧ classWaiting 3 (port s .tsu (recordPort s)) + drainRoom s ≤ bufferCap := by
  by_cases hup : (port s .tsu (recordPort s)).state = .up
  · have hroom : drainRoom s = bufferCap - classWaiting 3 (port s .tsu (recordPort s)) := by simp [drainRoom, isUp, hup]
    by_cases hfull : bufferCap ≤ classWaiting 3 (port s .tsu (recordPort s))
    · exact .inl (by omega)
    · exact .inr ⟨hup, by omega⟩
  · exact .inl (by simp [drainRoom, isUp, hup])

theorem drainStaging_txq (s : State) (hcls : ∀ c ∈ s.tsu.staging, c.cls = 3) :
    (port (drainStaging s) .tsu (recordPort s)).txq = (port s .tsu (recordPort s)).txq ++
      (s.tsu.staging.take (drainRoom s)).map fun c => { cell := c, ready := s.tsu.tc.frc.toNat } := by
  rw [drainStaging_eq]
  obtain hzero | ⟨hup, hroom⟩ := drainRoom_cases s
  · rw [hzero, List.take_zero]
    exact (List.append_nil _).symm
  · have hlen := List.length_take_le (drainRoom s) s.tsu.staging
    exact txq_forAll_send _ (fun c hc => hcls c (List.mem_of_mem_take hc)) (unstage (drainRoom s) s) hup
      (Nat.le_trans (Nat.add_le_add_left hlen _) hroom)

theorem exec_tapStagingDrain (s : State) : exec .tapStagingDrain s = performOn .tsu true drainStaging s := rfl

theorem tapStagingDrain_moves (s : State) (hwk : s.tsu.works = true) (hcls : ∀ c ∈ s.tsu.staging, c.cls = 3) :
    ∃ t, exec .tapStagingDrain s = .next t ∧ t.fjz = s.fjz ∧ t.tsu.tc = s.tsu.tc ∧ t.tsu.herds = s.tsu.herds ∧
      t.tsu.staging = s.tsu.staging.drop (drainRoom s) ∧
      (port t .tsu (recordPort s)).txq = (port s .tsu (recordPort s)).txq ++
        (s.tsu.staging.take (drainRoom s)).map fun c => { cell := c, ready := s.tsu.tc.frc.toNat } := by
  rw [exec_tapStagingDrain, performOn_works (d := .tsu) rfl hwk,
    enterErrs_nil (drainStaging_keeps (·.staged) (fun _ _ _ => rfl) (fun _ _ => rfl) (fun _ _ => rfl) _)]
  refine ⟨_, rfl, ?_, ?_, ?_, ?_, ?_⟩
  · rw [drainStaging_eq, forAll_fjz _ _ _ fun c u => fjz_send_die _ c u]; rfl
  · exact drainStaging_keeps (·.tsu.tc) (fun _ _ _ => rfl) (fun _ _ => rfl) (fun _ _ => rfl) _
  · exact drainStaging_keeps (·.tsu.herds) (fun _ _ _ => rfl) (fun _ _ => rfl) (fun _ _ => rfl) _
  · exact drainStaging_keeps (·.tsu.staging) (fun _ _ _ => rfl) (fun _ _ => rfl) (fun _ _ => rfl) _
  · exact drainStaging_txq s.fresh hcls

/-! ## Records of the chip -/

/-- The cell bodies of a record of the chip's own, as its event area keeps them (R287). -/
def ownBodies (r : ErrRec) (x : Fjz) : List (BitVec 448) :=
  recordBodies 11 x.ownSeq (prefixNone r.ht r.herd ++
    bvBytes (errBits { r with droppedBefore := decide (x.errs.ring.length < 4096) && x.errs.gap }))

theorem fjzRecord_eq (r : ErrRec) (x : Fjz) : fjzRecord r x =
    forAll (ownBodies r x) ownEntry { x with errs := pushErr 4096 r x.errs, ownSeq := x.ownSeq + 1 } := rfl

theorem ownEntry_keeps {γ : Type} (v : Fjz → γ) (he : ∀ x e, v { x with events := e } = v x) (body : BitVec 448) (x : Fjz) :
    v (ownEntry body x) = v x := he x _

/-- What a record that the chip writes of its own leaves alone. -/
theorem fjzRecord_keeps {γ : Type} (v : Fjz → γ) (he : ∀ x e, v { x with events := e } = v x)
    (hr : ∀ (x : Fjz) e n, v { x with errs := e, ownSeq := n } = v x) (r : ErrRec) (x : Fjz) : v (fjzRecord r x) = v x := by
  rw [fjzRecord_eq, forAll_keeps v ownEntry (ownEntry_keeps v he), hr]

theorem pushErr_total (n : Nat) (r : ErrRec) (e : ErrRing) : (pushErr n r e).total = bump e.total := by
  unfold pushErr
  split <;> rfl

theorem fjzRecord_total (r : ErrRec) (x : Fjz) : (fjzRecord r x).errs.total = bump x.errs.total := by
  rw [fjzRecord_eq, forAll_keeps (·.errs) ownEntry (ownEntry_keeps (·.errs) fun _ _ => rfl), pushErr_total]

/-- A record as the chip completes it (R247). -/
def ownRecord (r : ErrRec) (s : State) : ErrRec :=
  { r with ht := s.fjz.now, die := s.fjz.agent.deviceId, secure := objSecure s .fjz r.object, fjouz := true }

/-- The record of the chip, and trigger 5 if it halts a herd (R248, R294). -/
def afterRecord (e : ErrRec) (x : Fjz) : Fjz :=
  let y := fjzRecord e x
  if e.halts then freezeTrigger 5 (y.agent.deviceId.setWidth 32) e.herd y else y

theorem raiseFjz_eq (r : ErrRec) (s : State) : raiseFjz r s = onFjz (afterRecord (ownRecord r s)) s := rfl

/-! ## The window of a leaf (R292, R294) -/

/-- The window area and its count of discarded cells. -/
def windowOf (x : Fjz) : List (BitVec 512) × U64 := (x.window, x.discardedFrozen)

@[simp] theorem windowOf_freezeTrigger (n : U8) (b : U32) (h : Id24) (x : Fjz) : windowOf (freezeTrigger n b h x) = windowOf x := by
  unfold freezeTrigger
  split
  · rfl
  split <;> rfl

@[simp] theorem windowOf_fjzRecord (r : ErrRec) (x : Fjz) : windowOf (fjzRecord r x) = windowOf x :=
  fjzRecord_keeps windowOf (fun _ _ => rfl) (fun _ _ _ => rfl) r x

@[simp] theorem windowOf_afterRecord (e : ErrRec) (x : Fjz) : windowOf (afterRecord e x) = windowOf x := by
  unfold afterRecord
  dsimp only
  split <;> simp

@[simp] theorem windowOf_recordTrigger (c : Cell) (x : Fjz) : windowOf (recordTrigger c x) = windowOf x := by
  unfold recordTrigger
  dsimp only
  split
  · rfl
  split
  · simp
  split <;> simp

/-- The window of the chip, beside the records that the die has still to enter. -/
def windowView (s : State) : List (ErrRec × Bytes) × List (BitVec 512) × U64 := (s.staged, windowOf s.fjz)

@[simp] theorem windowView_emit (o : Out) (s : State) : windowView (emit o s) = windowView s := rfl
@[simp] theorem windowView_onSteward (h : Id24) (f : Steward → Steward) (s : State) : windowView (onSteward h f s) = windowView s := rfl
@[simp] theorem windowView_ite (c : Prop) [Decidable c] (a b : State) :
    windowView (if c then a else b) = if c then windowView a else windowView b := apply_ite windowView c a b
@[simp] theorem windowView_raiseFjz (r : ErrRec) (s : State) : windowView (raiseFjz r s) = windowView s := by
  simp [raiseFjz_eq, windowView]
@[simp] theorem windowView_copySteward (h : Id24) (s : State) : windowView (copySteward h s) = windowView s := by simp [copySteward]
@[simp] theorem windowView_raiseSteward (code : U16) (h die : Id24) (n : Nat) (s : State) :
    windowView (raiseSteward code h die n s) = windowView s := by simp [raiseSteward]
@[simp] theorem windowView_failDie (h die : Id24) (cond : Nat) (s : State) : windowView (failDie h die cond s) = windowView s := by
  simp [failDie, decideExpel]
@[simp] theorem windowView_recordLeft (c : Cell) (s : State) : windowView (recordLeft c s) = windowView s := by simp [recordLeft]

theorem placeOf_record (p : Nat) (c : Cell) : placeOf (.record p c) = cellTurn .fjz p 0x30 := rfl

theorem exec_record (p : Nat) (c : Cell) (s : State) : exec (.record p c) s = execRecord p c s := rfl

theorem received_fjz_keeps {γ : Type} (v : Fjz → γ) (hv : ∀ x ps, v { x with ports := ps } = v x) (p : Nat) (c : Cell) (s : State) :
    v (received .fjz p c s).fjz = v s.fjz := by
  unfold received
  split
  · exact hv _ _
  · rfl

/-- What a leaf does with a cell of a child port: it stores it, and takes its trigger and its report (R230, R292, R294). -/
def afterCell (p : Nat) (c : Cell) (s : State) : State := recordLeft c (onFjz (fun x => recordTrigger c (storeRecord p c x)) s)

theorem exec_record_arrives {p : Nat} {c : Cell} {s : State} (hp : p < 64) (hwk : s.fjz.works = true) (hleaf : s.fjz.role = 1)
    (harr : arrives .fjz p 0x30 c s = true) :
    exec (.record p c) s = .next (enterErrs (afterCell p c (received .fjz p c s))) := by
  have hrole : (received .fjz p c s).fjz.role = 1 := (received_fjz_keeps (·.role) (fun _ _ => rfl) p c s).trans hleaf
  have hparent : isChildSide (received .fjz p c s) .fjz p = false := by
    have h64 : p ≠ 64 := by omega
    have h65 : p ≠ 65 := by omega
    simp [isChildSide, Fjz.parentPorts, hrole, h64, h65]
  have hport : portOk .fjz p = true := decide_eq_true (by omega)
  rw [exec_record, execRecord, performOn_receive (placeOf_record p c) hport hwk harr rfl]
  simp only [hrole, hparent, ne_eq, not_true_eq_false, Bool.false_eq_true, or_self, if_false, afterCell]

theorem record_stores {p : Nat} {c : Cell} {s : State} (hp : p < 64) (hwk : s.fjz.works = true) (hleaf : s.fjz.role = 1)
    (harr : arrives .fjz p 0x30 c s = true) : ∃ t, exec (.record p c) s = .next t ∧ t.tsu = s.tsu ∧
      windowOf t.fjz = windowOf (storeRecord p c s.fjz) := by
  have hview : windowView (afterCell p c (received .fjz p c s)) = ([], windowOf (storeRecord p c s.fjz)) := by
    unfold afterCell
    rw [windowView_recordLeft]
    refine Prod.ext (by simp [windowView]) ?_
    simp only [windowView, onFjz_fjz, windowOf_recordTrigger]
    exact received_fjz_keeps (fun x => windowOf (storeRecord p c x)) (fun x ps => by unfold storeRecord; dsimp only; split <;> rfl) p c s
  obtain ⟨hstaged, hwindow⟩ := Prod.mk.inj hview
  refine ⟨_, (exec_record_arrives hp hwk hleaf harr).trans (by rw [enterErrs_nil hstaged]), ?_, hwindow⟩
  simp [afterCell]

theorem windowOf_storeRecord_frozen {p : Nat} {c : Cell} {x : Fjz} (h : x.recState = .frozen) :
    windowOf (storeRecord p c x) = (x.window, bump x.discardedFrozen) := by
  simp [storeRecord, h, windowOf]

theorem windowOf_storeRecord_open {p : Nat} {c : Cell} {x : Fjz} (h : x.recState ≠ .frozen) :
    windowOf (storeRecord p c x) = (pushRing windowCap x.window (storedEntry c.body p c.addr x.frc), x.discardedFrozen) := by
  simp [storeRecord, h, windowOf]

/-! ## Freezing, thawing and reading the window (R294, R295) -/

theorem exec_recFreezeNow (q : Req) (v : U8) (s : State) : exec (.recFreezeNow q v) s =
    perform true (inTurn (.recFreezeNow q v) (agentWrite .fjz q (wRecFreezeNow v))) s := rfl

theorem exec_recThaw (q : Req) (v : U8) (s : State) : exec (.recThaw q v) s =
    perform true (inTurn (.recThaw q v) (agentWrite .fjz q (wRecThaw v))) s := rfl

theorem exec_recWindowData (q : Req) (s : State) : exec (.recWindowData q) s =
    perform true (inTurn (.recWindowData q) (agentRead .fjz q (rRecWindowData q))) s := rfl

theorem exec_recorderFrozen (s : State) : exec .recorderFrozen s = execRecorderFrozen s := rfl

/-- An admitted write of 0x01 to the BOOL object of a command. -/
theorem boolCommand_takes {d : Dev} {q : Req} {c : Instr} (hpl : placeOf c = requestPlace d q) {i j : Nat} {a : Access}
    {f : State → State} {s : State} (h : admits d q i j a [1] s = true) (hf : ∀ u, (f u).staged = u.staged) :
    perform true (inTurn c (agentWrite d q (boolCommand i j a 1 f))) s = .next (answered d q i j stOk (f (taken d q s))) := by
  rw [agentWrite_takes hpl (op := boolCommand i j a 1 f) h rfl (.inl rfl) rfl rfl rfl rfl rfl rfl,
    enterErrs_nil (by simp [boolCommand, hf])]
  rfl

theorem recThaw_empties {q : Req} {s : State} (h : admits .fjz q 0x9200 5 .rws [1] s = true) : exec (.recThaw q 1) s =
    .next (answered .fjz q 0x9200 5 stOk
      (onFjz (fun x => { x with recState := .recording, window := [], windowHt := [] }) (taken .fjz q s))) := by
  rw [exec_recThaw]
  exact boolCommand_takes rfl h fun _ => rfl

theorem freezeTrigger_recording {n : U8} {b : U32} {h : Id24} {x : Fjz} (hleaf : x.role = 1) (hr : x.recState = .recording) :
    freezeTrigger n b h x = { x with
      recState := .tail, freezeHt := x.now, freezeTrigger := n, freezeAt := x.frc.toNat, freezeBy := b, freezeHerd := h } := by
  simp [freezeTrigger, hleaf, hr]

theorem freezeTrigger_extra {n : U8} {b : U32} {h : Id24} {x : Fjz} (hleaf : x.role = 1) (hr : x.recState ≠ .recording) :
    freezeTrigger n b h x = { x with triggersExtra := bump x.triggersExtra } := by
  simp [freezeTrigger, hleaf, hr]

theorem freezeTrigger_agent (n : U8) (b : U32) (h : Id24) (x : Fjz) (a : Agent) :
    freezeTrigger n b h { x with agent := a } = { freezeTrigger n b h x with agent := a } := by
  unfold freezeTrigger
  dsimp only
  split
  · rfl
  split <;> rfl

/-- What REC_FREEZE_NOW leaves, seen by what does not show the agent of the chip. -/
theorem recFreezeNow_triggers {q : Req} {s : State} (h : admits .fjz q 0x9200 4 .wo [1] s = true) :
    ∃ t, exec (.recFreezeNow q 1) s = .next t ∧ t.tsu = s.tsu ∧
      ∀ {γ : Type} (v : Fjz → γ), (∀ x a, v { x with agent := a } = v x) → v t.fjz = v (freezeTrigger 4 allOnes32 noHerd s.fjz) := by
  have hsrc := source_of_admits h
  have hnet := net_of_sourceOf hsrc
  refine ⟨_, (exec_recFreezeNow q 1 s).trans (boolCommand_takes rfl h fun _ => rfl), ?_, fun v hv => ?_⟩
  · rw [answered_chip_tsu hnet]
    exact taken_tsu hsrc s
  · rw [answered_chip_keeps v hv hnet]
    refine taken_chip_keeps (fun x => v (freezeTrigger 4 allOnes32 noHerd x)) (fun x a => ?_) hnet s
    rw [freezeTrigger_agent, hv]

/-- The record of a window that is frozen (R294). -/
def frozenRecord (x : Fjz) : ErrRec :=
  { code := 0x0908, herd := x.freezeHerd, object := 0x92000000, waiter := x.freezeBy, detail := x.freezeTrigger.setWidth 16 }

theorem recorderFrozen_acts {s : State} (hwk : s.fjz.works = true) : exec .recorderFrozen s = .next (enterErrs
    (if tailOver s.fjz then raiseFjz (frozenRecord s.fjz) (onFjz (fun x => { x with recState := .frozen }) s.fresh) else s.fresh)) := by
  rw [exec_recorderFrozen, execRecorderFrozen, performOn_works (d := .fjz) rfl hwk]
  cases h : tailOver s.fjz <;> simp [h, frozenRecord]

theorem afterRecord_not_halting {e : ErrRec} (he : e.halts = false) (x : Fjz) : afterRecord e x = fjzRecord e x := by
  simp [afterRecord, he]

theorem recorderFrozen_freezes {s : State} (hwk : s.fjz.works = true) (h : tailOver s.fjz = true) :
    ∃ t, exec .recorderFrozen s = .next t ∧ t.tsu = s.tsu ∧ t.fjz.recState = .frozen ∧ t.fjz.window = s.fjz.window ∧
      t.fjz.errs.total = bump s.fjz.errs.total := by
  have hact := recorderFrozen_acts hwk
  rw [h, if_pos rfl, raiseFjz_eq, enterErrs_nil rfl] at hact
  refine ⟨_, hact, by simp, ?_⟩
  rw [onFjz_fjz, afterRecord_not_halting rfl]
  exact ⟨fjzRecord_keeps (·.recState) (fun _ _ => rfl) (fun _ _ _ => rfl) _ _,
    fjzRecord_keeps (·.window) (fun _ _ => rfl) (fun _ _ _ => rfl) _ _, fjzRecord_total _ _⟩

theorem recorderFrozen_waits {s : State} (hwk : s.fjz.works = true) (h : tailOver s.fjz = false) :
    exec .recorderFrozen s = .next s.fresh := by
  rw [recorderFrozen_acts hwk, h, enterErrs_nil] <;> rfl

theorem recWindowData_answers {q : Req} {s : State} (h : admitsRead .fjz q 0x9200 0x0C true s = true)
    (hn : element s .fjz q 0x9200 0x0B < windowCap) :
    exec (.recWindowData q) s = .next (answeredRead .fjz q 0x9200 0x0C true (windowData s.fjz (element s .fjz q 0x9200 0x0B))
      (if q.useElement then taken .fjz q s
        else setSelector .fjz q 0x9200 0x0B (element s .fjz q 0x9200 0x0B + 16) (taken .fjz q s))) := by
  have hnet : q.src = .net := net_of_sourceOf (source_of_admitsRead h)
  have hdata : windowData (taken .fjz q s).fjz (element s .fjz q 0x9200 0x0B) = windowData s.fjz (element s .fjz q 0x9200 0x0B) :=
    taken_chip_keeps (windowData · (element s .fjz q 0x9200 0x0B)) (fun _ _ => rfl) hnet s
  rw [exec_recWindowData, agentRead_answers (c := .recWindowData q) rfl (op := rRecWindowData q) h (by simpa [rRecWindowData] using hn),
    enterErrs_nil (by rw [answeredRead_staged]; simp only [rRecWindowData]; split <;> simp [setSelector])]
  simp only [rRecWindowData, element_taken, hdata]

/-- Settles O58: the tap by induction on the drained cells, a stored cell and the end of the tail by what the chip's records leave of
the window, and the three dictionary commands by the agent's laws. -/
theorem flightRecorder : Obligations.FlightRecorder := by
  unfold Obligations.FlightRecorder
  refine ⟨tapStagingDrain_moves, fun p c s hp hwk hleaf harr => ?_, fun q s h hleaf => ?_,
    fun s hwk => ⟨recorderFrozen_freezes hwk, recorderFrozen_waits hwk⟩, fun q s h => recThaw_empties h, ?_⟩
  · obtain ⟨t, hexec, htsu, hwin⟩ := record_stores hp hwk hleaf harr
    refine ⟨t, hexec, htsu, fun hfrozen => ?_, fun hopen => ?_⟩
    · exact Prod.mk.inj (hwin.trans (windowOf_storeRecord_frozen hfrozen))
    · exact Prod.mk.inj (hwin.trans (windowOf_storeRecord_open hopen))
  · obtain ⟨t, hexec, htsu, hview⟩ := recFreezeNow_triggers h
    refine ⟨t, hexec, htsu, ?_, fun hrec => ?_, fun hrec => ?_⟩
    · exact (hview (·.window) fun _ _ => rfl).trans (congrArg Prod.fst (windowOf_freezeTrigger _ _ _ _))
    · rw [freezeTrigger_recording hleaf hrec] at hview
      exact ⟨hview (·.recState) fun _ _ => rfl, hview (·.freezeHt) fun _ _ => rfl, hview (·.freezeTrigger) fun _ _ => rfl⟩
    · rw [freezeTrigger_extra hleaf hrec] at hview
      exact ⟨hview (·.recState) fun _ _ => rfl, hview (·.triggersExtra) fun _ _ => rfl⟩
  · intro q s n h hn
    exact recWindowData_answers h hn

end Sys2Proof
end

section
/-! PROOFS. The phase of the TSU that the model's operations leave as it is: what only a start, a reset and a self-test move (Table 13.9). -/

namespace Sys2Proof.Machine

@[simp] theorem ite_Tsu_phase (c : Prop) [Decidable c] (a b : Tsu) : (if c then a else b).phase = if c then a.phase else b.phase :=
  apply_ite (·.phase) c a b
@[simp] theorem forAll_phase {α : Type} (xs : List α) (f : α → State → State) (s : State) (h : ∀ a b, (f a b).tsu.phase = b.tsu.phase) :
    (forAll xs f s).tsu.phase = s.tsu.phase := forAll_keeps (·.tsu.phase) f h xs s
@[simp] theorem forAll_Tsu_phase {α : Type} (xs : List α) (f : α → Tsu → Tsu) (t : Tsu) (h : ∀ a b, (f a b).phase = b.phase) :
    (forAll xs f t).phase = t.phase := forAll_keeps (·.phase) f h xs t
@[simp] theorem foldl_Tsu_phase {α : Type} (xs : List α) (f : Tsu → α → Tsu) (t : Tsu) (h : ∀ b a, (f b a).phase = b.phase) :
    (xs.foldl f t).phase = t.phase := forAll_keeps (·.phase) (fun a b => f b a) (fun a b => h b a) xs t
@[simp] theorem onTsu_phase (f : Tsu → Tsu) (s : State) (h : ∀ t, (f t).phase = t.phase) : (onTsu f s).tsu.phase = s.tsu.phase := h _
@[simp] theorem onPort_phase (d : Dev) (p : Nat) (f : Port → Port) (s : State) : (onPort d p f s).tsu.phase = s.tsu.phase := by
  cases d <;> rfl
@[simp] theorem onAgent_phase (d : Dev) (f : Agent → Agent) (s : State) : (onAgent d f s).tsu.phase = s.tsu.phase := by
  cases d <;> rfl
@[simp] theorem phase_inTurn (c : Instr) (act : State → State) (s : State) (h_act : ∀ u, (act u).tsu.phase = u.tsu.phase) :
    (inTurn c act s).tsu.phase = s.tsu.phase := by
  unfold inTurn
  simp [*]

/-! ## Flags -/

@[simp] theorem phaseTsu_setIrq (t : Tsu) (bit : Nat) : (setIrq t bit).phase = t.phase := by simp [setIrq]

/-! ## Tokens -/

@[simp] theorem phase_fromRegion (n q : Nat) (i : Instr) (act : State → State) (s : State) (h_act : ∀ u, (act u).tsu.phase = u.tsu.phase) :
    (fromRegion n q i act s).tsu.phase = s.tsu.phase := by
  unfold fromRegion
  repeat' (first | split | simp [*])
@[simp] theorem phase_putOut (n q : Nat) (o : Out) (s : State) : (putOut n q o s).tsu.phase = s.tsu.phase := by simp [putOut]
@[simp] theorem phase_toRegion (n q : Nat) (o : Out) (s : State) : (toRegion n q o s).tsu.phase = s.tsu.phase := by simp [toRegion]

/-! ## TimeOps -/

@[simp] theorem phase_enterTime (st : TimeState) (s : State) : (enterTime st s).tsu.phase = s.tsu.phase := by simp [enterTime]

/-! ## Records -/

@[simp] theorem phase_tap (kind : Nat) (data : Bytes) (s : State) : (tap kind data s).tsu.phase = s.tsu.phase := by simp [tap]
@[simp] theorem phase_tapHerd (kind h : Nat) (content : Bytes) (s : State) :
    (tapHerd kind h content s).tsu.phase = s.tsu.phase := by simp [tapHerd]
@[simp] theorem phase_raise (r : ErrRec) (s : State) : (raise r s).tsu.phase = s.tsu.phase := by simp [raise]
@[simp] theorem phase_raiseHerd (h : Nat) (code : U16) (halts : Bool) (obj waiter : U32) (round : Nat) (detail : Nat) (s : State) :
    (raiseHerd h code halts obj waiter round detail s).tsu.phase = s.tsu.phase := by simp [raiseHerd]
@[simp] theorem phase_raiseOn (d : Dev) (r : ErrRec) (s : State) :
    (raiseOn d r s).tsu.phase = s.tsu.phase := by
  unfold raiseOn
  split <;> simp

/-! ## Ports -/

@[simp] theorem phase_sendOn (d : Dev) (p : Nat) (bypass : Bool) (c : Cell) (s : State) :
    (sendOn d p bypass c s).tsu.phase = s.tsu.phase := by
  unfold sendOn
  split <;> simp
@[simp] theorem phase_send (d : Dev) (p : Nat) (c : Cell) (s : State) : (send d p c s).tsu.phase = s.tsu.phase := by simp [send]
@[simp] theorem phase_sendFirst (p : Nat) (c : Cell) (s : State) : (sendFirst p c s).tsu.phase = s.tsu.phase := by simp [sendFirst]
@[simp] theorem phase_sendAll (d : Dev) (ps : List Nat) (bypass : Bool) (c : Cell) (s : State) :
    (sendAll d ps bypass c s).tsu.phase = s.tsu.phase := by simp [sendAll]
@[simp] theorem phase_sendBoth (c : Cell) (s : State) : (sendBoth c s).tsu.phase = s.tsu.phase := by simp [sendBoth]
@[simp] theorem phase_receive (i : Instr) (d : Dev) (p : Nat) (types : List Nat) (c : Cell) (act : State → State) (s : State)
    (h_act : ∀ u, (act u).tsu.phase = u.tsu.phase) :
    (receive i d p types c act s).tsu.phase = s.tsu.phase := by
  unfold receive
  simp [*]

/-! ## MeterLog -/

@[simp] theorem phaseTsu_enterRing (b : BitVec 768) (t : Tsu) : (enterRing b t).phase = t.phase := by simp [enterRing]
@[simp] theorem phaseTsu_moveFinal (t : Tsu) :
    (moveFinal t).phase = t.phase := by
  unfold moveFinal
  repeat' split
  all_goals simp
@[simp] theorem phaseTsu_moveFinals (t : Tsu) : (moveFinals t).phase = t.phase := by simp [moveFinals]
@[simp] theorem phaseTsu_dropRecord (t : Tsu) : (dropRecord t).phase = t.phase := by simp [dropRecord]
@[simp] theorem phaseTsu_issue (typ flags : Nat) (rest : List (Nat × Nat × Nat)) (recNs : Nat) (t : Tsu) :
    (issue typ flags rest recNs t).phase = t.phase := by simp [issue]
@[simp] theorem phaseTsu_issueTamper (e : BitVec 128) (recNs : Nat) (t : Tsu) :
    (issueTamper e recNs t).phase = t.phase := by simp [issueTamper]
@[simp] theorem phaseTsu_logTamper (code detail aux : Nat) (t : Tsu) :
    (logTamper code detail aux t).phase = t.phase := by simp [logTamper]
@[simp] theorem phaseTsu_bootRecord (t : Tsu) : (bootRecord t).phase = t.phase := by simp [bootRecord]

/-! ## Agent -/

@[simp] theorem phase_setSelector (d : Dev) (q : Req) (index sub v : Nat) (s : State) :
    (setSelector d q index sub v s).tsu.phase = s.tsu.phase := by simp [setSelector]
@[simp] theorem phase_sendMessage (d : Dev) (p typ addr : Nat) (m : Bytes) (s : State) :
    (sendMessage d p typ addr m s).tsu.phase = s.tsu.phase := by simp [sendMessage]
@[simp] theorem phase_deliverRsp (d : Dev) (r : Rsp) (s : State) :
    (deliverRsp d r s).tsu.phase = s.tsu.phase := by
  unfold deliverRsp
  split <;> simp
@[simp] theorem phase_repeatRsp (d : Dev) (q : Req) (r : Rsp) (s : State) :
    (repeatRsp d q r s).tsu.phase = s.tsu.phase := by simp [repeatRsp]
@[simp] theorem phase_appliedRsp (d : Dev) (q : Req) (index sub status : Nat) (s : State) :
    (appliedRsp d q index sub status s).tsu.phase = s.tsu.phase := by simp [appliedRsp]
@[simp] theorem phase_countTaken (d : Dev) (q : Req) (status : Nat) (s : State) :
    (countTaken d q status s).tsu.phase = s.tsu.phase := by simp [countTaken]
@[simp] theorem phase_logSealed (d : Dev) (access : Access) (st index sub : Nat) (s : State) :
    (logSealed d access st index sub s).tsu.phase = s.tsu.phase := by simp [logSealed]
@[simp] theorem phase_countFragments (d : Dev) (p n : Nat) (s : State) :
    (countFragments d p n s).tsu.phase = s.tsu.phase := by simp [countFragments]
@[simp] theorem phase_tunnelCells (q : Req) (n : Nat) (s : State) :
    (tunnelCells q n s).tsu.phase = s.tsu.phase := by
  unfold tunnelCells
  split <;> simp

/-! ## HerdOps -/

@[simp] theorem phase_sendHalt (kind span : Nat) (herd : Id24) (run : U8) (h : HT) (cause : U16) (s : State) :
    (sendHalt kind span herd run h cause s).tsu.phase = s.tsu.phase := by simp [sendHalt]
@[simp] theorem phase_haltHerd_prime (h : Nat) (code : U16) (s : State) :
    (haltHerd' h code s).tsu.phase = s.tsu.phase := by simp [haltHerd']
@[simp] theorem phase_faultHerd (h : Nat) (code : U16) (obj waiter : U32) (round detail : Nat) (s : State) :
    (faultHerd h code obj waiter round detail s).tsu.phase = s.tsu.phase := by simp [faultHerd]

/-! ## SyncOps -/

@[simp] theorem phase_onCounter (n : Nat) (f : CounterSt → CounterSt) (s : State) :
    (onCounter n f s).tsu.phase = s.tsu.phase := by simp [onCounter]
@[simp] theorem phase_onEvent (n : Nat) (f : EventSt → EventSt) (s : State) :
    (onEvent n f s).tsu.phase = s.tsu.phase := by simp [onEvent]
@[simp] theorem phase_onWatch (n : Nat) (f : Watch → Watch) (s : State) : (onWatch n f s).tsu.phase = s.tsu.phase := by simp [onWatch]
@[simp] theorem phase_countCorrected (e : Ecc) (s : State) : (countCorrected e s).tsu.phase = s.tsu.phase := by simp [countCorrected]
@[simp] theorem phase_countLate (s : State) : (countLate s).tsu.phase = s.tsu.phase := by simp [countLate]
@[simp] theorem phase_endWatch (slot : Nat) (status : Nat) (outcome : BitVec 3) (value : BitVec 48) (s : State) :
    (endWatch slot status outcome value s).tsu.phase = s.tsu.phase := by simp [endWatch]
@[simp] theorem phase_purgeHerd (h : Nat) (s : State) : (purgeHerd h s).tsu.phase = s.tsu.phase := by simp [purgeHerd]
@[simp] theorem phase_endObjectWatches (isEvent : Bool) (n status : Nat) (outcome : BitVec 3) (s : State) :
    (endObjectWatches isEvent n status outcome s).tsu.phase = s.tsu.phase := by simp [endObjectWatches]
@[simp] theorem phase_syncFault (owner : Option Nat) (obj : U32) (s : State) :
    (syncFault owner obj s).tsu.phase = s.tsu.phase := by
  unfold syncFault
  split <;> simp
@[simp] theorem phase_syncUncorrectable (isEvent : Bool) (n : Nat) (s : State) :
    (syncUncorrectable isEvent n s).tsu.phase = s.tsu.phase := by simp [syncUncorrectable]
@[simp] theorem phase_watchUncorrectable (slot : Nat) (s : State) :
    (watchUncorrectable slot s).tsu.phase = s.tsu.phase := by simp [watchUncorrectable]
@[simp] theorem phase_syncFaults (e : Ecc) (s : State) :
    (syncFaults e s).tsu.phase = s.tsu.phase := by
  unfold syncFaults
  repeat' (first | intro _ | simp [*] | split | rw [forAll_phase])
@[simp] theorem phase_lateSignal (h : Nat) (obj source : U32) (seen : Bool) (s : State) :
    (lateSignal h obj source seen s).tsu.phase = s.tsu.phase := by simp [lateSignal]
@[simp] theorem phase_signalCounter (h n : Nat) (source : U32) (f : BitVec 48 → BitVec 48) (s : State) :
    (signalCounter h n source f s).tsu.phase = s.tsu.phase := by simp [signalCounter]
@[simp] theorem phase_signalEvent (h n : Nat) (source : U32) (s : State) :
    (signalEvent h n source s).tsu.phase = s.tsu.phase := by simp [signalEvent]
@[simp] theorem phase_claimForWatch (n : Nat) (s : State) : (claimForWatch n s).tsu.phase = s.tsu.phase := by simp [claimForWatch]
@[simp] theorem phase_settleValues (s : State) : (settleValues s).tsu.phase = s.tsu.phase := by simp [settleValues]
@[simp] theorem phase_evalWatches (s : State) : (evalWatches s).tsu.phase = s.tsu.phase := by simp [evalWatches]
@[simp] theorem phase_clearClaimed (s : State) : (clearClaimed s).tsu.phase = s.tsu.phase := by simp [clearClaimed]
@[simp] theorem phase_syncReset (h : Nat) (s : State) : (syncReset h s).tsu.phase = s.tsu.phase := by simp [syncReset]

/-! ## MeterOps -/

@[simp] theorem phase_setEntry (i : Nat) (e : BitVec 256) (s : State) : (setEntry i e s).tsu.phase = s.tsu.phase := by simp [setEntry]
@[simp] theorem phase_raiseMeter (code : U16) (obj waiter : U32) (herd : Id24) (detail : Nat) (s : State) :
    (raiseMeter code obj waiter herd detail s).tsu.phase = s.tsu.phase := by simp [raiseMeter]
@[simp] theorem phase_checkCopies {α : Type} [DecidableEq α] (badA badB : Bool) (w : Copies α) (s : State) :
    (checkCopies badA badB w s).tsu.phase = s.tsu.phase := by simp [checkCopies]
@[simp] theorem phase_checkSlot (badA badB : Bool) (i : Nat) (s : State) : (checkSlot badA badB i s).tsu.phase = s.tsu.phase :=
  phase_checkCopies ..
@[simp] theorem phase_meterFaults (e : Ecc) (s : State) : (meterFaults e s).tsu.phase = s.tsu.phase := by
  unfold meterFaults
  repeat' (first | intro _ | rw [forAll_phase] | rw [phase_checkCopies] | rw [phase_checkSlot] | rw [onMeter_tsu_phase])
@[simp] theorem phaseTsu_ignored (t : Tsu) : (ignored t).phase = t.phase := by simp [ignored]
@[simp] theorem phaseTsu_meterEvent (f : Tsu → Tsu) (t : Tsu) (h_f : ∀ u, (f u).phase = u.phase) :
    (meterEvent f t).phase = t.phase := by
  unfold meterEvent
  simp [*]
@[simp] theorem phaseTsu_activate (i : Nat) (stream : U32) (tenant : Id24) (ns : Nat) (t : Tsu) :
    (activate i stream tenant ns t).phase = t.phase := by simp [activate]
@[simp] theorem phaseTsu_takeSlot (i : Nat) (e : BitVec 256) (ns : Nat) (t : Tsu) :
    (takeSlot i e ns t).phase = t.phase := by simp [takeSlot]
@[simp] theorem phase_takeEntry (i : Nat) (s : State) : (takeEntry i s).tsu.phase = s.tsu.phase := by simp [takeEntry]
@[simp] theorem phaseTsu_takeUnreadable (i : Nat) (t : Tsu) :
    (takeUnreadable i t).phase = t.phase := by simp [takeUnreadable]
@[simp] theorem phaseTsu_finalRecord (i endState : Nat) (herd : Id24) (t : Tsu) :
    (finalRecord i endState herd t).phase = t.phase := by simp [finalRecord]

/-! ## LedgerOps -/

@[simp] theorem phase_ledgerOpOn (h op amount ns i : Nat) (s : State) :
    (ledgerOpOn h op amount ns i s).tsu.phase = s.tsu.phase := by
  unfold ledgerOpOn
  split <;> simp
@[simp] theorem phase_autoTake (i : Nat) (s : State) : (autoTake i s).tsu.phase = s.tsu.phase := by simp [autoTake]
@[simp] theorem phase_passEntry (p : LedgerOp) (rank i : Nat) (s : State) :
    (passEntry p rank i s).1.tsu.phase = s.tsu.phase := by
  unfold passEntry
  repeat' (first | split | simp)
@[simp] theorem phase_ledgerFault (h i : Nat) (s : State) : (ledgerFault h i s).tsu.phase = s.tsu.phase := by simp [ledgerFault]
@[simp] theorem phase_passBad (p : LedgerOp) (i : Nat) (s : State) : (passBad p i s).tsu.phase = s.tsu.phase := by simp [passBad]
@[simp] theorem phase_passChunk (fuel room : Nat) (p : LedgerOp) (s : State) :
    (passChunk fuel room p s).1.tsu.phase = s.tsu.phase := by
  induction fuel generalizing room p s with
  | zero => rfl
  | succ k ih =>
    unfold passChunk
    dsimp only
    split
    · rfl
    · split
      · rfl
      · rw [ih]
        split <;> simp
@[simp] theorem phase_drainEnded (p : LedgerOp) (s : State) : (drainEnded p s).tsu.phase = s.tsu.phase := by simp [drainEnded]
@[simp] theorem phase_passEnded (p : LedgerOp) (s : State) :
    (passEnded p s).tsu.phase = s.tsu.phase := by
  unfold passEnded
  split <;> simp
@[simp] theorem phase_visitPass (h : Nat) (p : LedgerOp) (r : State × List LedgerOp) :
    (visitPass h p r).1.tsu.phase = r.1.tsu.phase := by
  unfold visitPass
  dsimp only
  split
  · rfl
  · split <;> simp
@[simp] theorem phase_runPasses (h : Nat) (s : State) :
    (runPasses h s).tsu.phase = s.tsu.phase := by
  have walk : ∀ (ps : List LedgerOp) (r : State × List LedgerOp),
      (ps.foldl (fun r p => visitPass h p r) r).1.tsu.phase = r.1.tsu.phase := by
    intro ps
    induction ps with
    | nil => intro r; rfl
    | cons p ps ih => intro r; rw [List.foldl_cons, ih]; simp
  unfold runPasses
  simp [walk]
@[simp] theorem phase_addPass (p : LedgerOp) (s : State) : (addPass p s).tsu.phase = s.tsu.phase := by simp [addPass]
@[simp] theorem phase_beginPass (h g : Nat) (act : GroupAct) (ns : Nat) (s : State) :
    (beginPass h g act ns s).tsu.phase = s.tsu.phase := by simp [beginPass]
@[simp] theorem phase_beginAll (h : Nat) (act : GroupAct) (ns : Nat) (s : State) :
    (beginAll h act ns s).tsu.phase = s.tsu.phase := by simp [beginAll]
@[simp] theorem phase_openGroup (h g ns : Nat) (s : State) : (openGroup h g ns s).tsu.phase = s.tsu.phase := by simp [openGroup]
@[simp] theorem phase_closeGroup (t0 : Tsu) (h g ns : Nat) (s : State) :
    (closeGroup t0 h g ns s).tsu.phase = s.tsu.phase := by
  unfold closeGroup
  split <;> simp
@[simp] theorem phase_autoPass (h g ns : Nat) (s : State) : (autoPass h g ns s).tsu.phase = s.tsu.phase := by simp [autoPass]
@[simp] theorem phase_renewOpen (t0 : Tsu) (h ns : Nat) (s : State) :
    (renewOpen t0 h ns s).tsu.phase = s.tsu.phase := by
  unfold renewOpen
  repeat' (first | intro _ | simp [*] | split | rw [forAll_phase])
@[simp] theorem phase_closeHerd (t0 : Tsu) (h : Nat) (s : State) : (closeHerd t0 h s).tsu.phase = s.tsu.phase := by simp [closeHerd]
@[simp] theorem phase_finishPasses (h : Nat) (s : State) : (finishPasses h s).tsu.phase = s.tsu.phase := by
  unfold finishPasses
  simp [*]
@[simp] theorem phase_unloadEntry (herd : Id24) (h i : Nat) (s : State) :
    (unloadEntry herd h i s).tsu.phase = s.tsu.phase := by simp [unloadEntry]
@[simp] theorem phase_unloadEntries (h : Nat) (s : State) : (unloadEntries h s).tsu.phase = s.tsu.phase := by simp [unloadEntries]
@[simp] theorem phase_applyLedger (i : Nat) (new : BitVec 256) (s : State) :
    (applyLedger i new s).tsu.phase = s.tsu.phase := by
  unfold applyLedger
  repeat' (first | split | simp)
@[simp] theorem phase_applyHeld (w : HeldWrite) (s : State) : (applyHeld w s).tsu.phase = s.tsu.phase := by simp [applyHeld]
@[simp] theorem phase_applyHeldOf (h : Nat) (due : HeldWrite → Bool) (s : State) :
    (applyHeldOf h due s).tsu.phase = s.tsu.phase := by simp [applyHeldOf]

/-! ## RunOps -/

@[simp] theorem phase_takePlan (h : Nat) (plan : BitVec 256) (s : State) :
    (takePlan h plan s).tsu.phase = s.tsu.phase := by simp [takePlan]
@[simp] theorem phase_abortSwap (h : Nat) (cause : U32) (s : State) :
    (abortSwap h cause s).tsu.phase = s.tsu.phase := by simp [abortSwap]
@[simp] theorem phase_takeCancel (h : Nat) (s : State) : (takeCancel h s).tsu.phase = s.tsu.phase := by simp [takeCancel]
@[simp] theorem phase_fetchFailed (h : Nat) (s : State) :
    (fetchFailed h s).tsu.phase = s.tsu.phase := by
  unfold fetchFailed
  repeat' (first | split | simp)
@[simp] theorem phase_swapPhase4 (h : Nat) (s : State) : (swapPhase4 h s).tsu.phase = s.tsu.phase := by simp [swapPhase4]
@[simp] theorem phase_applyPendingWrite (w : PendingWrite) (s : State) :
    (applyPendingWrite w s).tsu.phase = s.tsu.phase := by simp [applyPendingWrite]
@[simp] theorem phase_endRun (h : Nat) (st : HerdState) (s : State) : (endRun h st s).tsu.phase = s.tsu.phase := by simp [endRun]
@[simp] theorem phase_leaveHerd (h cause : Nat) (s : State) : (leaveHerd h cause s).tsu.phase = s.tsu.phase := by simp [leaveHerd]
@[simp] theorem phase_departHerds (cause : Nat) (s : State) :
    (departHerds cause s).tsu.phase = s.tsu.phase := by
  unfold departHerds
  repeat' (first | intro _ | simp [*] | split | rw [forAll_phase])
@[simp] theorem phase_startResult (h : Nat) (ok : Bool) (s : State) :
    (startResult h ok s).tsu.phase = s.tsu.phase := by simp [startResult]

/-! ## TineOps -/

@[simp] theorem phase_replayDiff (h : Nat) (obj : U32) (round : U16) (s : State) :
    (replayDiff h obj round s).tsu.phase = s.tsu.phase := by simp [replayDiff]
@[simp] theorem phase_compareArrival (own : Bool) (h : Nat) (a : U16 × U16 × U8 × U8 × U64) (s : State) :
    (compareArrival own h a s).tsu.phase = s.tsu.phase := by
  unfold compareArrival
  repeat' (first | split | simp)
@[simp] theorem phase_compareResult (own : Bool) (h : Nat) (content : Bytes) (s : State) :
    (compareResult own h content s).tsu.phase = s.tsu.phase := by
  unfold compareResult
  repeat' (first | split | simp)
@[simp] theorem phase_sendPart (n : Nat) (kind : BitVec 4) (round : U16) (replay first : Bool) (cause : BitVec 3) (members : Id24)
    (deadline : U64) (origin : Id24) (payload : Payload) (s : State) :
    (sendPart n kind round replay first cause members deadline origin payload s).tsu.phase = s.tsu.phase := by
  unfold sendPart
  split <;> simp
@[simp] theorem phase_queueArrival (n : Nat) (kind : BitVec 4) (cause : BitVec 3) (members : Id24) (deadline : U64) (payload : Payload)
    (s : State) :
    (queueArrival n kind cause members deadline payload s).tsu.phase = s.tsu.phase := by simp [queueArrival]
@[simp] theorem phase_failRound (n : Nat) (cause : BitVec 3) (s : State) :
    (failRound n cause s).tsu.phase = s.tsu.phase := by
  unfold failRound
  split <;> simp
@[simp] theorem phase_completeRounds (x0 : Nat) (x1 : Nat) (s : State) :
    (completeRounds x0 x1 s).tsu.phase = s.tsu.phase := by
  induction x0 generalizing s with
  | zero => rfl
  | succ k ih =>
    unfold completeRounds
    repeat' (first | intro _ | simp [*] | split)
@[simp] theorem phase_raisePart (h n : Nat) (code : U16) (waiter : U32) (round : U16) (detail : Nat) (s : State) :
    (raisePart h n code waiter round detail s).tsu.phase = s.tsu.phase := by simp [raisePart]
@[simp] theorem phase_contribute (region n : Nat) (payload : Payload) (s : State) :
    (contribute region n payload s).tsu.phase = s.tsu.phase := by
  unfold contribute
  split <;> simp
@[simp] theorem phase_completeArrivals (h : Nat) (s : State) :
    (completeArrivals h s).tsu.phase = s.tsu.phase := by simp [completeArrivals]
@[simp] theorem phase_applyTarget (h n : Nat) (failed : Bool) (s : State) :
    (applyTarget h n failed s).tsu.phase = s.tsu.phase := by
  unfold applyTarget
  repeat' (first | split | simp)
@[simp] theorem phase_deliverResult (h n : Nat) (r : Delivery) (s : State) :
    (deliverResult h n r s).tsu.phase = s.tsu.phase := by simp [deliverResult]
@[simp] theorem phase_resyncPart (h n : Nat) (s : State) :
    (resyncPart h n s).tsu.phase = s.tsu.phase := by
  unfold resyncPart
  repeat' (first | split | simp)
@[simp] theorem phase_replayPart (n : Nat) (s : State) : (replayPart n s).tsu.phase = s.tsu.phase := by simp [replayPart]
@[simp] theorem phase_moveHerd (h : Nat) (plane : Plane) (s : State) :
    (moveHerd h plane s).tsu.phase = s.tsu.phase := by
  unfold moveHerd
  repeat' (first | intro _ | simp [*] | split | rw [forAll_phase])
@[simp] theorem phase_moveOff (p h : Nat) (s : State) :
    (moveOff p h s).tsu.phase = s.tsu.phase := by
  unfold moveOff
  split <;> simp
@[simp] theorem phase_moveIfLost (h : Nat) (s : State) :
    (moveIfLost h s).tsu.phase = s.tsu.phase := by
  unfold moveIfLost
  split <;> simp
@[simp] theorem phase_startArrive (h : Nat) (fire : HT) (value : Bool) (s : State) :
    (startArrive h fire value s).tsu.phase = s.tsu.phase := by simp [startArrive]

/-! ## RegionOps -/

@[simp] theorem phase_takeSnapshot (n trig : Nat) (rcc : BitVec 48) (s : State) :
    (takeSnapshot n trig rcc s).tsu.phase = s.tsu.phase := by
  unfold takeSnapshot
  exact onRegion_tsu_phase ..
@[simp] theorem phase_sendBias (n : Nat) (s : State) : (sendBias n s).tsu.phase = s.tsu.phase := by simp [sendBias]
@[simp] theorem phase_setBank (n b : Nat) (st : BankState) (s : State) :
    (setBank n b st s).tsu.phase = s.tsu.phase := by simp [setBank]
@[simp] theorem phase_stampBank (n b h : Nat) (s : State) : (stampBank n b h s).tsu.phase = s.tsu.phase := by simp [stampBank]
@[simp] theorem phase_bankOff (n h b : Nat) (s : State) : (bankOff n h b s).tsu.phase = s.tsu.phase := by simp [bankOff]
@[simp] theorem phase_bankOn (n h b : Nat) (s : State) :
    (bankOn n h b s).tsu.phase = s.tsu.phase := by
  unfold bankOn
  split <;> simp
@[simp] theorem phase_powerOp (h : Nat) (d : Desc) (s : State) :
    (powerOp h d s).tsu.phase = s.tsu.phase := by
  unfold powerOp
  split <;> simp

/-! ## StepOps -/

@[simp] theorem phase_fillAhead (h : Nat) (x0 : Nat) (s : State) :
    (fillAhead h x0 s).tsu.phase = s.tsu.phase := by
  induction x0 generalizing s with
  | zero => rfl
  | succ k ih =>
    unfold fillAhead
    repeat' (first | intro _ | simp [*] | split)
@[simp] theorem phase_onAhead (h i : Nat) (f : Ahead → Ahead) (s : State) :
    (onAhead h i f s).tsu.phase = s.tsu.phase := by simp [onAhead]
@[simp] theorem phase_evalGate (h i k : Nat) (s : State) :
    (evalGate h i k s).tsu.phase = s.tsu.phase := by
  unfold evalGate
  repeat' (first | split | simp)
@[simp] theorem phase_evalAhead (h i : Nat) (s : State) :
    (evalAhead h i s).tsu.phase = s.tsu.phase := by
  unfold evalAhead
  split <;> simp
@[simp] theorem phase_haltAtFailedGate (h : Nat) (s : State) :
    (haltAtFailedGate h s).tsu.phase = s.tsu.phase := by
  unfold haltAtFailedGate
  repeat' (first | split | simp)
@[simp] theorem phase_herdPhase4 (h : Nat) (s : State) : (herdPhase4 h s).tsu.phase = s.tsu.phase := by simp [herdPhase4]
@[simp] theorem phase_phase4 (s : State) : (phase4 s).tsu.phase = s.tsu.phase := by simp [phase4]
@[simp] theorem phase_enterHalted (h : Nat) (s : State) : (enterHalted h s).tsu.phase = s.tsu.phase := by simp [enterHalted]
@[simp] theorem phase_countBoundary (h : Nat) (a : Ahead) (s : State) :
    (countBoundary h a s).tsu.phase = s.tsu.phase := by
  unfold countBoundary
  dsimp only
  split <;> simp
@[simp] theorem phase_stepEvent (h : Nat) (a : Ahead) (d : Desc) (s : State) :
    (stepEvent h a d s).tsu.phase = s.tsu.phase := by simp [stepEvent]
@[simp] theorem phase_launchRegion (h step : Nat) (entry : U16) (region : Nat) (rcc : BitVec 48) (s : State) :
    (launchRegion h step entry region rcc s).tsu.phase = s.tsu.phase := by
  unfold launchRegion
  rw [forAll_phase]
  · rw [onRegion_tsu_phase, phase_takeSnapshot, phase_toRegion, phase_sendBias]
  · intro _ _; rw [emit_tsu]
@[simp] theorem phase_launchRegions (h step : Nat) (d : Desc) (rccs : List (BitVec 48)) (s : State) :
    (launchRegions h step d rccs s).tsu.phase = s.tsu.phase := by simp [launchRegions]
@[simp] theorem phase_launchStep (h : Nat) (a : Ahead) (d : Desc) (rccs : List (BitVec 48)) (s : State) :
    (launchStep h a d rccs s).tsu.phase = s.tsu.phase := by simp [launchStep]
@[simp] theorem phase_consumeEvents (d : Desc) (s : State) : (consumeEvents d s).tsu.phase = s.tsu.phase := by simp [consumeEvents]
@[simp] theorem phase_swapFetch (h step : Nat) (s : State) : (swapFetch h step s).tsu.phase = s.tsu.phase := by simp [swapFetch]
@[simp] theorem phase_swapArrive (h : Nat) (s : State) : (swapArrive h s).tsu.phase = s.tsu.phase := by simp [swapArrive]
@[simp] theorem phase_swapFlip (h : Nat) (grid : HT) (s : State) : (swapFlip h grid s).tsu.phase = s.tsu.phase := by simp [swapFlip]
@[simp] theorem phase_swapDecide (h : Nat) (b : Boundary) (d : Desc) (s : State) :
    (swapDecide h b d s).tsu.phase = s.tsu.phase := by
  unfold swapDecide
  repeat' (first | split | simp)
@[simp] theorem phase_swapRelease (h : Nat) (s : State) : (swapRelease h s).tsu.phase = s.tsu.phase := by simp [swapRelease]
@[simp] theorem phase_swapAction (h : Nat) (b : Boundary) (d : Desc) (s : State) :
    (swapAction h b d s).tsu.phase = s.tsu.phase := by
  unfold swapAction
  split <;> simp
@[simp] theorem phase_drainCheck (h : Nat) (grid : HT) (s : State) :
    (drainCheck h grid s).tsu.phase = s.tsu.phase := by simp [drainCheck]
@[simp] theorem phase_deadlineTime (herd : Id24) (s : State) : (deadlineTime herd s).2.tsu.phase = s.tsu.phase := by
  unfold deadlineTime
  repeat' split
  all_goals simp
@[simp] theorem phase_beginLedger (h : Nat) (d : Desc) (s : State) :
    (beginLedger h d s).tsu.phase = s.tsu.phase := by simp [beginLedger]
@[simp] theorem phase_descActions (t0 : Tsu) (b : Boundary) (s : State) :
    (descActions t0 b s).tsu.phase = s.tsu.phase := by simp [descActions]
@[simp] theorem phase_boundaryPhase7 (t0 : Tsu) (b : Boundary) (s : State) :
    (boundaryPhase7 t0 b s).tsu.phase = s.tsu.phase := by simp [boundaryPhase7]
@[simp] theorem phase_herdPhase7 (t0 : Tsu) (h : Nat) (s : State) :
    (herdPhase7 t0 h s).tsu.phase = s.tsu.phase := by simp [herdPhase7]
@[simp] theorem phase_applyPending (h : Nat) (all : Bool) (s : State) :
    (applyPending h all s).tsu.phase = s.tsu.phase := by simp [applyPending]
@[simp] theorem phase_herdPhase8 (t0 : Tsu) (h : Nat) (s : State) :
    (herdPhase8 t0 h s).tsu.phase = s.tsu.phase := by simp [herdPhase8]
@[simp] theorem phase_countBounds (t0 : Tsu) (s : State) : (countBounds t0 s).tsu.phase = s.tsu.phase := by
  unfold countBounds
  repeat' (first | intro _ | simp [*] | split | rw [forAll_phase])
@[simp] theorem phase_lastPhases (s : State) : (lastPhases s).tsu.phase = s.tsu.phase := by simp [lastPhases]
@[simp] theorem phase_finishContext (h : Nat) (s : State) : (finishContext h s).tsu.phase = s.tsu.phase := by simp [finishContext]
@[simp] theorem phase_takeWay (h : Nat) (on : Bool) (s : State) : (takeWay h on s).tsu.phase = s.tsu.phase := by simp [takeWay]
@[simp] theorem phase_advance (h : Nat) (d : Desc) (s : State) : (advance h d s).tsu.phase = s.tsu.phase := by simp [advance]
@[simp] theorem phase_finishBoundary (h : Nat) (a : Ahead) (d : Desc) (acts : Bool) (s : State) :
    (finishBoundary h a d acts s).tsu.phase = s.tsu.phase := by simp [finishBoundary]
@[simp] theorem phase_goBoundary (h : Nat) (a : Ahead) (rccs : List (BitVec 48)) (s : State) :
    (goBoundary h a rccs s).tsu.phase = s.tsu.phase := by simp [goBoundary]
@[simp] theorem phase_silentBoundary (h : Nat) (a : Ahead) (s : State) :
    (silentBoundary h a s).tsu.phase = s.tsu.phase := by simp [silentBoundary]
@[simp] theorem phase_ledgerBad (e : Ecc) (s : State) : (ledgerBad e s).tsu.phase = s.tsu.phase := by simp [ledgerBad]
@[simp] theorem phase_descFault (h step : Nat) (s : State) : (descFault h step s).tsu.phase = s.tsu.phase := by simp [descFault]
@[simp] theorem phase_tryBoundary (h : Nat) (a : Ahead) (rccs : List (BitVec 48)) (ecc : Ecc) (s : State) :
    (tryBoundary h a rccs ecc s).tsu.phase = s.tsu.phase := by
  unfold tryBoundary
  repeat' (first | split | simp)
@[simp] theorem phase_stepBoundary (h typ : Nat) (rccs : List (BitVec 48)) (ecc : Ecc) (s : State) :
    (stepBoundary h typ rccs ecc s).tsu.phase = s.tsu.phase := by
  unfold stepBoundary
  repeat' (first | split | simp)
@[simp] theorem phase_haltBoundary (h : Nat) (s : State) :
    (haltBoundary h s).tsu.phase = s.tsu.phase := by
  unfold haltBoundary
  repeat' (first | split | simp)

/-! ## PlaneOps -/

@[simp] theorem phase_goTime (st : TimeState) (s : State) : (goTime st s).tsu.phase = s.tsu.phase := by simp [goTime]
@[simp] theorem phase_startHoldover (s : State) : (startHoldover s).tsu.phase = s.tsu.phase := by simp [startHoldover]
@[simp] theorem phase_bothLost (s : State) :
    (bothLost s).tsu.phase = s.tsu.phase := by
  unfold bothLost
  dsimp only
  repeat' (first | intro _ | split | simp [*])
@[simp] theorem phase_switchPlane (pl : Plane) (s : State) : (switchPlane pl s).tsu.phase = s.tsu.phase := by simp [switchPlane]
@[simp] theorem phase_regainPlane (pl : Plane) (err : Int) (s : State) :
    (regainPlane pl err s).tsu.phase = s.tsu.phase := by
  unfold regainPlane
  repeat' (first | split | simp)
@[simp] theorem phase_judgeBetter (s : State) : (judgeBetter s).tsu.phase = s.tsu.phase := by simp [judgeBetter]
@[simp] theorem phase_reselect (err : Int) (s : State) :
    (reselect err s).tsu.phase = s.tsu.phase := by
  unfold reselect
  split
  · simp
  · split <;> simp
@[simp] theorem phaseTsu_takeMedian (t : Tsu) : (takeMedian t).phase = t.phase := by simp [takeMedian]
@[simp] theorem phase_firstBleat (pl : Plane) (ht : HT) (st : Stamp) (s : State) :
    (firstBleat pl ht st s).tsu.phase = s.tsu.phase := by simp [firstBleat]
@[simp] theorem phase_wideExchange (theta : Int) (s : State) :
    (wideExchange theta s).tsu.phase = s.tsu.phase := by
  unfold wideExchange
  split <;> simp
@[simp] theorem phase_narrowExchange (theta : Int) (s : State) :
    (narrowExchange theta s).tsu.phase = s.tsu.phase := by simp [narrowExchange]
@[simp] theorem phase_calibrated (p : Nat) (s : State) : (calibrated p s).tsu.phase = s.tsu.phase := by
  unfold calibrated
  dsimp only
  repeat' (first | split | rw [phase_raise] | rw [phase_goTime] | rw [onTc_tsu_phase])
@[simp] theorem phase_loopExchange (p : Nat) (measured d : Int) (s : State) :
    (loopExchange p measured d s).tsu.phase = s.tsu.phase := by
  unfold loopExchange
  dsimp only
  repeat' (first | split | rw [phase_calibrated] | rw [phase_goTime] | rw [phase_wideExchange] | rw [phase_narrowExchange] | rw [onTc_tsu_phase])
@[simp] theorem phase_otherExchange (theta : Int) (s : State) :
    (otherExchange theta s).tsu.phase = s.tsu.phase := by
  unfold otherExchange
  dsimp only
  repeat' (first | intro _ | split | simp [*])

/-! ## LinkOps -/

@[simp] theorem phase_startTrain (d : Dev) (p : Nat) (s : State) : (startTrain d p s).tsu.phase = s.tsu.phase := by simp [startTrain]
@[simp] theorem phase_forgetOffset (s : State) : (forgetOffset s).tsu.phase = s.tsu.phase := by simp [forgetOffset]
@[simp] theorem phase_afterDown (d : Dev) (p : Nat) (s : State) :
    (afterDown d p s).tsu.phase = s.tsu.phase := by
  unfold afterDown
  split
  · simp
  · split <;> simp
@[simp] theorem phase_takeDown (d : Dev) (p : Nat) (st : PortState) (s : State) :
    (takeDown d p st s).tsu.phase = s.tsu.phase := by simp [takeDown]
@[simp] theorem phase_recordDown (d : Dev) (p : Nat) (cause : U8) (s : State) :
    (recordDown d p cause s).tsu.phase = s.tsu.phase := by simp [recordDown]
@[simp] theorem phase_linkDown (d : Dev) (p : Nat) (cause : U8) (s : State) :
    (linkDown d p cause s).tsu.phase = s.tsu.phase := by simp [linkDown]
@[simp] theorem phase_actEnable (d : Dev) (p : Nat) (s : State) : (actEnable d p s).tsu.phase = s.tsu.phase := by simp [actEnable]
@[simp] theorem phase_setEnable (d : Dev) (p : Nat) (on : Bool) (s : State) :
    (setEnable d p on s).tsu.phase = s.tsu.phase := by simp [setEnable]
@[simp] theorem phase_comparePosition (linkUp : Bool) (s : State) :
    (comparePosition linkUp s).tsu.phase = s.tsu.phase := by
  unfold comparePosition
  repeat' (first | split | simp)
@[simp] theorem phase_keepHello (d : Dev) (p : Nat) (b : BitVec 448) (s : State) :
    (keepHello d p b s).tsu.phase = s.tsu.phase := by simp [keepHello]
@[simp] theorem phase_linkUp (d : Dev) (p : Nat) (b : BitVec 448) (s : State) :
    (linkUp d p b s).tsu.phase = s.tsu.phase := by
  unfold linkUp
  split <;> simp
@[simp] theorem phase_takeHello (d : Dev) (p : Nat) (b : BitVec 448) (s : State) :
    (takeHello d p b s).tsu.phase = s.tsu.phase := by simp [takeHello]
@[simp] theorem phase_hearAgain (d : Dev) (p : Nat) (b : BitVec 448) (s : State) :
    (hearAgain d p b s).tsu.phase = s.tsu.phase := by
  unfold hearAgain
  split
  · simp
  · split <;> simp
@[simp] theorem phase_askRetry (d : Dev) (p : Nat) (cw : BitVec 12) (s : State) :
    (askRetry d p cw s).tsu.phase = s.tsu.phase := by simp [askRetry]
@[simp] theorem phase_resend (d : Dev) (p : Nat) (cw : BitVec 12) (s : State) :
    (resend d p cw s).tsu.phase = s.tsu.phase := by simp [resend]

/-! ## BoundaryOps -/

@[simp] theorem phase_makeKey (s : State) : (makeKey s).tsu.phase = s.tsu.phase := by simp [makeKey]

/-! ## TimeCmds -/

@[simp] theorem phaseTsu_unparkAll (t : Tsu) : (unparkAll t).phase = t.phase := by simp [unparkAll]

/-! ## Port -/

@[simp] theorem phase_dieExchange (p : Nat) (theta d : Int) (s : State) :
    (dieExchange p theta d s).tsu.phase = s.tsu.phase := by
  unfold dieExchange
  split
  · simp
  · split <;> simp

/-! ## PlaneCmds -/

@[simp] theorem phase_setPlaneSqc (pl : Plane) (sqc : Nat) (s : State) :
    (setPlaneSqc pl sqc s).tsu.phase = s.tsu.phase := by
  unfold setPlaneSqc
  split <;> simp
@[simp] theorem phase_dieBleat (pl : Plane) (b : BitVec 448) (stamp : Stamp) (s : State) :
    (dieBleat pl b stamp s).tsu.phase = s.tsu.phase := by simp [dieBleat]
@[simp] theorem phase_planeRecord (code detail : U16) (s : State) :
    (planeRecord code detail s).tsu.phase = s.tsu.phase := by simp [planeRecord]
@[simp] theorem phase_demotePlane (pl : Plane) (s : State) :
    (demotePlane pl s).tsu.phase = s.tsu.phase := by
  unfold demotePlane
  split <;> simp
@[simp] theorem phase_judgeDrift (d m : Int) (s : State) :
    (judgeDrift d m s).tsu.phase = s.tsu.phase := by
  unfold judgeDrift
  split
  · simp
  · split <;> simp

/-! ## PronkOps -/

@[simp] theorem phase_pronkOriginate (c : Cell) (s : State) : (pronkOriginate c s).tsu.phase = s.tsu.phase := by
  unfold pronkOriginate
  rw [tsu_pronkDown, onFjz_tsu]
@[simp] theorem phase_pronkFinal (herd : Id24) (phase : Nat) (cause : Nat) (s : State) :
    (pronkFinal herd phase cause s).tsu.phase = s.tsu.phase := by
  unfold pronkFinal
  simp [*]
@[simp] theorem phase_pronkJudge (herd : Id24) (s : State) : (pronkJudge herd s).tsu.phase = s.tsu.phase := by simp [pronkJudge]
@[simp] theorem phase_takePronkRequest (v : BitVec 256) (s : State) :
    (takePronkRequest v s).tsu.phase = s.tsu.phase := by
  unfold takePronkRequest
  simp [*]
@[simp] theorem phase_countPronkDiscard (s : State) : (countPronkDiscard s).tsu.phase = s.tsu.phase := by simp [countPronkDiscard]
@[simp] theorem phase_armAck (c : Cell) (cause : Nat) (s : State) : (armAck c cause s).tsu.phase = s.tsu.phase := by simp [armAck]
@[simp] theorem phase_tapPronk (h phase outcome : Nat) (seq : U32) (fire : HT) (start : U32) (ids : U16 × U16) (count : Nat) (s : State) :
    (tapPronk h phase outcome seq fire start ids count s).tsu.phase = s.tsu.phase := by simp [tapPronk]
@[simp] theorem phase_tapArmed (h outcome : Nat) (s : State) : (tapArmed h outcome s).tsu.phase = s.tsu.phase := by simp [tapArmed]
@[simp] theorem phase_armHerd (h : Nat) (seq : U32) (fire : HT) (start : Nat) (ids : U16 × U16) (origin : Id24) (s : State) :
    (armHerd h seq fire start ids origin s).tsu.phase = s.tsu.phase := by simp [armHerd]
@[simp] theorem phase_refuseArm (h cause : Nat) (c : Cell) (s : State) :
    (refuseArm h cause c s).tsu.phase = s.tsu.phase := by simp [refuseArm]
@[simp] theorem phase_takeArm (h : Nat) (c : Cell) (s : State) :
    (takeArm h c s).tsu.phase = s.tsu.phase := by
  unfold takeArm
  split <;> simp
@[simp] theorem phase_actOn (h : Nat) (c : Cell) (s : State) : (actOn h c s).tsu.phase = s.tsu.phase := by simp [actOn]
@[simp] theorem phase_takeFinal (h : Nat) (c : Cell) (act : State → State) (s : State) (h_act : ∀ u, (act u).tsu.phase = u.tsu.phase) :
    (takeFinal h c act s).tsu.phase = s.tsu.phase := by
  unfold takeFinal
  simp [*]
@[simp] theorem phase_decideHerd (h : Nat) (s : State) :
    (decideHerd h s).tsu.phase = s.tsu.phase := by
  unfold decideHerd
  repeat' (first | split | simp)
@[simp] theorem phase_arriveZero (h : Nat) (fire : HT) (seq : U32) (s : State) :
    (arriveZero h fire seq s).tsu.phase = s.tsu.phase := by simp [arriveZero]
@[simp] theorem phase_fireHerd (h : Nat) (s : State) : (fireHerd h s).tsu.phase = s.tsu.phase := by
  unfold fireHerd
  repeat' (first | intro _ | simp [*] | split | rw [forAll_phase])
@[simp] theorem phase_takeStep (h : Nat) (seq : U32) (fire : HT) (ids : U16 × U16) (count : Nat) (s : State) :
    (takeStep h seq fire ids count s).tsu.phase = s.tsu.phase := by simp [takeStep]

/-! ## Pronk -/

@[simp] theorem phase_pronkAtDie (i : Instr) (p phase : Nat) (c : Cell) (none_ : State → State) (act : Nat → State → State) (s : State)
    (h_none_ : ∀ u, (none_ u).tsu.phase = u.tsu.phase) (h_act : ∀ y0 u, (act y0 u).tsu.phase = u.tsu.phase) :
    (pronkAtDie i p phase c none_ act s).tsu.phase = s.tsu.phase := by
  unfold pronkAtDie
  apply phase_receive
  intro u
  repeat' split
  all_goals simp [*]
/-! ## LoadOps -/

@[simp] theorem phase_fillParts (h : Nat) (s : State) : (fillParts h s).tsu.phase = s.tsu.phase := by
  unfold fillParts
  repeat' (first | intro _ | simp [*] | split | rw [forAll_phase])
@[simp] theorem phase_setPaths (h : Nat) (f : Nat → BitVec 256 → BitVec 256) (s : State) :
    (setPaths h f s).tsu.phase = s.tsu.phase := by
  unfold setPaths
  repeat' (first | intro _ | simp [*] | split | rw [forAll_phase])
@[simp] theorem phase_tapChange (h action : Nat) (s : State) : (tapChange h action s).tsu.phase = s.tsu.phase := by simp [tapChange]
@[simp] theorem phase_commitLoad (h : Nat) (secure : Bool) (s : State) :
    (commitLoad h secure s).tsu.phase = s.tsu.phase := by
  unfold commitLoad
  split <;> simp
@[simp] theorem phase_releaseHerd (h : Nat) (s : State) : (releaseHerd h s).tsu.phase = s.tsu.phase := by
  unfold releaseHerd
  repeat' (first | intro _ | simp [*] | split | rw [forAll_phase])
/-! ## Template -/

@[simp] theorem phase_onTemplate (d : Dev) (k : Nat) (f : Template → Template) (s : State) :
    (onTemplate d k f s).tsu.phase = s.tsu.phase := by
  unfold onTemplate
  split <;> simp

/-! ## Herd -/

@[simp] theorem phase_reepoch (h : Nat) (secure : Bool) (s : State) :
    (reepoch h secure s).tsu.phase = s.tsu.phase := by
  unfold reepoch
  split <;> simp
@[simp] theorem phase_takeAdopt (h : Nat) (v : BitVec 192) (s : State) :
    (takeAdopt h v s).tsu.phase = s.tsu.phase := by simp [takeAdopt]

/-! ## HaltOps -/

@[simp] theorem phase_chipHaltsNow (herd : Id24) (s : State) : (chipHaltsNow herd s).tsu.phase = s.tsu.phase := by
  unfold chipHaltsNow
  dsimp only
  rw [tsu_chipHalt, onFjz_tsu, onFjz_tsu]
@[simp] theorem phase_countHaltDiscard (s : State) : (countHaltDiscard s).tsu.phase = s.tsu.phase := by simp [countHaltDiscard]
@[simp] theorem phaseTsu_takeKey (c : Cell) (t : Tsu) : (takeKey c t).phase = t.phase := by simp [takeKey]
@[simp] theorem phase_tapHalt (h : Nat) (c : Cell) (s : State) : (tapHalt h c s).tsu.phase = s.tsu.phase := by simp [tapHalt]
@[simp] theorem phase_lateHalt (h : Nat) (hh : HT) (origin : Id24) (seq : U16) (s : State) :
    (lateHalt h hh origin seq s).tsu.phase = s.tsu.phase := by simp [lateHalt]
@[simp] theorem phase_applyHalt (h : Nat) (hh : HT) (origin : Id24) (seq : U16) (s : State) :
    (applyHalt h hh origin seq s).tsu.phase = s.tsu.phase := by simp [applyHalt]
@[simp] theorem phase_takeHalt (c : Cell) (more : Nat → State → State) (s : State) (h_more : ∀ y0 u, (more y0 u).tsu.phase = u.tsu.phase) :
    (takeHalt c more s).tsu.phase = s.tsu.phase := by
  unfold takeHalt
  repeat' (first | split | simp [*])
@[simp] theorem phase_recordPause (origin : Id24) (h : Nat) (s : State) :
    (recordPause origin h s).tsu.phase = s.tsu.phase := by simp [recordPause]
@[simp] theorem phase_raiseHaltedNow (h : Nat) (w : NowStop) (s : State) :
    (raiseHaltedNow h w s).tsu.phase = s.tsu.phase := by simp [raiseHaltedNow]
@[simp] theorem phase_nowReturned (region h : Nat) (abandoned : Bool) (s : State) :
    (nowReturned region h abandoned s).tsu.phase = s.tsu.phase := by simp [nowReturned]
@[simp] theorem phase_stopNow (c : Cell) (h : Nat) (s : State) : (stopNow c h s).tsu.phase = s.tsu.phase := by
  unfold stopNow
  repeat' (first | intro _ | simp [*] | split | rw [forAll_phase])
@[simp] theorem phase_takeNow (c : Cell) (s : State) :
    (takeNow c s).tsu.phase = s.tsu.phase := by
  unfold takeNow
  repeat' (first | split | simp)
@[simp] theorem phase_dieHaltsNow (v : U32) (s : State) :
    (dieHaltsNow v s).tsu.phase = s.tsu.phase := by
  unfold dieHaltsNow
  repeat' (first | split | simp)

/-! ## Steps -/

@[simp] theorem phase_doneSignal (h step : Nat) (d : Desc) (s : State) :
    (doneSignal h step d s).tsu.phase = s.tsu.phase := by simp [doneSignal]
@[simp] theorem phase_stretchOver (region h : Nat) (l : Launched) (d : Desc) (rcc : BitVec 48) (s : State) :
    (stretchOver region h l d rcc s).tsu.phase = s.tsu.phase := by simp [stretchOver]
@[simp] theorem phase_lateStep (d : Desc) (fl : Nat) (s : State) : (lateStep d fl s).tsu.phase = s.tsu.phase := by simp [lateStep]
@[simp] theorem phase_completeStep (region h : Nat) (l : Launched) (rcc : BitVec 48) (s : State) :
    (completeStep region h l rcc s).tsu.phase = s.tsu.phase := by simp [completeStep]
@[simp] theorem phase_stepDone (region h : Nat) (l : Launched) (abandoned : Bool) (rcc : BitVec 48) (s : State) :
    (stepDone region h l abandoned rcc s).tsu.phase = s.tsu.phase := by
  unfold stepDone
  repeat' (first | split | simp)
@[simp] theorem phase_takeDone (region h : Nat) (abandoned : Bool) (rcc : BitVec 48) (s : State) :
    (takeDone region h abandoned rcc s).tsu.phase = s.tsu.phase := by
  unfold takeDone
  split
  · rfl
  · dsimp only
    split
    · rw [phase_sendBias, phase_nowReturned, phase_stepDone, onRegion_tsu_phase, phase_takeSnapshot]
    · rw [phase_nowReturned, phase_stepDone, onRegion_tsu_phase, phase_takeSnapshot]

/-! ## Ledger -/

@[simp] theorem phase_advPending (region entry : Nat) (amount : U8) (s : State) :
    (advPending region entry amount s).tsu.phase = s.tsu.phase := by simp [advPending]

/-! ## Sync -/

@[simp] theorem phase_signalRecord (code : U16) (halts : Bool) (t : Token) (s : State) :
    (signalRecord code halts t s).tsu.phase = s.tsu.phase := by simp [signalRecord]
@[simp] theorem phase_signalForeign (t : Token) (s : State) : (signalForeign t s).tsu.phase = s.tsu.phase := by simp [signalForeign]
@[simp] theorem phase_tapIngress (t : Token) (s : State) : (tapIngress t s).tsu.phase = s.tsu.phase := by simp [tapIngress]
@[simp] theorem phase_applySignal (t : Token) (s : State) :
    (applySignal t s).tsu.phase = s.tsu.phase := by
  unfold applySignal
  split <;> simp
@[simp] theorem phase_takeSignal (t : Token) (s : State) : (takeSignal t s).tsu.phase = s.tsu.phase := by simp [takeSignal]
@[simp] theorem phase_signalCommand (i : Instr) (op : Nat) (t : Token) (e : Ecc) (s : State) :
    (signalCommand i op t e s).tsu.phase = s.tsu.phase := by
  unfold signalCommand
  split <;> simp
@[simp] theorem phase_placeWatch (slot : Nat) (w : Watch) (s : State) :
    (placeWatch slot w s).tsu.phase = s.tsu.phase := by simp [placeWatch]
@[simp] theorem phase_takeWatch (region : Nat) (tok : BitVec 208) (s : State) :
    (takeWatch region tok s).tsu.phase = s.tsu.phase := by
  unfold takeWatch
  repeat' (first | split | simp)
@[simp] theorem phase_timeOutObject (w : Watch) (s : State) : (timeOutObject w s).tsu.phase = s.tsu.phase := by simp [timeOutObject]
@[simp] theorem phase_timeOutHerd (w : Watch) (s : State) : (timeOutHerd w s).tsu.phase = s.tsu.phase := by simp [timeOutHerd]
@[simp] theorem phase_notifySlot (i : Nat) (s : State) :
    (notifySlot i s).tsu.phase = s.tsu.phase := by
  unfold notifySlot
  repeat' (first | split | simp)

/-! ## Bank -/

@[simp] theorem phase_raiseBank (h : Nat) (code : U16) (obj waiter : U32) (s : State) :
    (raiseBank h code obj waiter s).tsu.phase = s.tsu.phase := by simp [raiseBank]

/-! ## TineDie -/

@[simp] theorem phase_partUncorrectable (n : Nat) (s : State) :
    (partUncorrectable n s).tsu.phase = s.tsu.phase := by
  unfold partUncorrectable
  split <;> simp
@[simp] theorem phase_countResultDiscard (s : State) : (countResultDiscard s).tsu.phase = s.tsu.phase := by simp [countResultDiscard]
@[simp] theorem phase_countTagDiscard (s : State) : (countTagDiscard s).tsu.phase = s.tsu.phase := by simp [countTagDiscard]
@[simp] theorem phase_takeResult (p : Nat) (kind : BitVec 4) (c : Cell) (s : State) :
    (takeResult p kind c s).tsu.phase = s.tsu.phase := by
  unfold takeResult
  repeat' (first | split | simp)
@[simp] theorem phase_takeMove (p : Nat) (c : Cell) (s : State) :
    (takeMove p c s).tsu.phase = s.tsu.phase := by
  unfold takeMove
  split
  · simp
  · split <;> simp
@[simp] theorem phase_markAbandoned (n : Nat) (round : U16) (s : State) :
    (markAbandoned n round s).tsu.phase = s.tsu.phase := by simp [markAbandoned]
@[simp] theorem phase_takeAbandon (p : Nat) (c : Cell) (s : State) :
    (takeAbandon p c s).tsu.phase = s.tsu.phase := by
  unfold takeAbandon
  repeat' (first | split | simp)
@[simp] theorem phase_failUpTo (h n : Nat) (v : U16) (x0 : Nat) (s : State) :
    (failUpTo h n v x0 s).tsu.phase = s.tsu.phase := by
  induction x0 generalizing s with
  | zero => rfl
  | succ k ih =>
    unfold failUpTo
    repeat' (first | intro _ | simp [*])
@[simp] theorem phase_deliverIsolated (h n : Nat) (v : U16) (s : State) :
    (deliverIsolated h n v s).tsu.phase = s.tsu.phase := by simp [deliverIsolated]

/-! ## HealthOps -/

@[simp] theorem phaseTsu_updateHealth (t : Tsu) : (updateHealth t).phase = t.phase := by simp [updateHealth]

/-! ## Reserve -/

@[simp] theorem phase_endPass (f : LoadFail) (s : State) : (endPass f s).tsu.phase = s.tsu.phase := by
  unfold endPass
  rw [onFjz_tsu]
@[simp] theorem phase_combineOutcome (herd : Id24) (template : U16) (s : State) :
    (combineOutcome herd template s).tsu.phase = s.tsu.phase := by
  unfold combineOutcome
  repeat' split
  all_goals simp
@[simp] theorem phase_startPass (herd : Id24) (template : U16) (s : State) :
    (startPass herd template s).tsu.phase = s.tsu.phase := by
  unfold startPass
  rw [onFjz_tsu]
@[simp] theorem phase_startReserve (v : BitVec 128) (s : State) :
    (startReserve v s).tsu.phase = s.tsu.phase := by
  unfold startReserve
  simp
  split <;> simp
@[simp] theorem phase_startQuery (v : BitVec 128) (s : State) :
    (startQuery v s).tsu.phase = s.tsu.phase := by
  unfold startQuery
  simp
  split <;> simp
@[simp] theorem phase_chipRequest (c : Cell) (s : State) :
    (chipRequest c s).tsu.phase = s.tsu.phase := by
  unfold chipRequest
  repeat' (first | split | simp)
@[simp] theorem phase_chipOutcome (p : Nat) (c : Cell) (s : State) :
    (chipOutcome p c s).tsu.phase = s.tsu.phase := by
  unfold chipOutcome
  repeat' (first | split | simp)
@[simp] theorem phase_chipQuery (c : Cell) (s : State) :
    (chipQuery c s).tsu.phase = s.tsu.phase := by
  unfold chipQuery
  split <;> simp
@[simp] theorem phase_dieOutcome (p : Nat) (c : Cell) (rest : List (Nat × Nat × Nat)) (s : State) :
    (dieOutcome p c rest s).tsu.phase = s.tsu.phase := by simp [dieOutcome]
@[simp] theorem phaseTsu_dropAsked (herd : Id24) (template : U16) (pl : Plane) (t : Tsu) :
    (dropAsked herd template pl t).phase = t.phase := by simp [dropAsked]
@[simp] theorem phase_dieRequest (p : Nat) (c : Cell) (s : State) :
    (dieRequest p c s).tsu.phase = s.tsu.phase := by
  unfold dieRequest
  split <;> simp
@[simp] theorem phaseTsu_dropPath (herd : Id24) (template : U16) (pl : Plane) (t : Tsu) :
    (dropPath herd template pl t).phase = t.phase := by simp [dropPath]
@[simp] theorem phase_dieCommit (p : Nat) (c : Cell) (s : State) :
    (dieCommit p c s).tsu.phase = s.tsu.phase := by
  unfold dieCommit
  split <;> simp
@[simp] theorem phase_dieRelease (p : Nat) (c : Cell) (s : State) :
    (dieRelease p c s).tsu.phase = s.tsu.phase := by
  unfold dieRelease
  dsimp only
  repeat' (first | intro _ | split | simp [*])
@[simp] theorem phase_dieQuery (p : Nat) (c : Cell) (s : State) : (dieQuery p c s).tsu.phase = s.tsu.phase := by simp [dieQuery]

/-! ## Health -/

@[simp] theorem phase_countSymbols (p n : Nat) (s : State) : (countSymbols p n s).tsu.phase = s.tsu.phase := by simp [countSymbols]

/-! ## Halt -/

@[simp] theorem phase_onErrs (d : Dev) (f : ErrRing → ErrRing) (s : State) :
    (onErrs d f s).tsu.phase = s.tsu.phase := by
  unfold onErrs
  split <;> simp

/-! ## Meter -/

@[simp] theorem phaseTsu_applyParams (p : BitVec 64) (t : Tsu) :
    (applyParams p t).phase = t.phase := by simp [applyParams]
@[simp] theorem phaseTsu_streamPart (i : Nat) (t : Tsu) : (streamPart i t).phase = t.phase := by simp [streamPart]
@[simp] theorem phaseTsu_dieRecord (t : Tsu) : (dieRecord t).phase = t.phase := by simp [dieRecord]
@[simp] theorem phase_walkSlot (s : State) : (walkSlot s).tsu.phase = s.tsu.phase := by simp [walkSlot]
@[simp] theorem phaseTsu_tenantRecord (typ : Nat) (w : BitVec 256) (t : Tsu) :
    (tenantRecord typ w t).phase = t.phase := by simp [tenantRecord]
@[simp] theorem phaseTsu_tenantStatement (id : Id24) (t : Tsu) :
    (tenantStatement id t).phase = t.phase := by simp [tenantStatement]
@[simp] theorem phaseTsu_closeTenant (id : Id24) (t : Tsu) :
    (closeTenant id t).phase = t.phase := by
  unfold closeTenant
  split <;> simp
@[simp] theorem phaseTsu_clearMeter (t : Tsu) : (clearMeter t).phase = t.phase := by simp [clearMeter]

/-! ## Recorder -/

@[simp] theorem phase_drainStaging (s : State) : (drainStaging s).tsu.phase = s.tsu.phase := by simp [drainStaging]

/-! ## Replay -/

@[simp] theorem phase_pinTime (anchor : HT) (s : State) : (pinTime anchor s).tsu.phase = s.tsu.phase := by simp [pinTime]
@[simp] theorem phase_startReplay (v : BitVec 192) (s : State) : (startReplay v s).tsu.phase = s.tsu.phase := by simp [startReplay]
@[simp] theorem phase_endReplay (s : State) : (endReplay s).tsu.phase = s.tsu.phase := by simp [endReplay]
@[simp] theorem phase_replayFire (h : Nat) (c : Bytes) (s : State) :
    (replayFire h c s).tsu.phase = s.tsu.phase := by simp [replayFire]
@[simp] theorem phase_replayPronk (h : Nat) (c : Bytes) (s : State) :
    (replayPronk h c s).tsu.phase = s.tsu.phase := by simp [replayPronk]
@[simp] theorem phase_replayResult (h : Nat) (c : Bytes) (s : State) :
    (replayResult h c s).tsu.phase = s.tsu.phase := by simp [replayResult]
@[simp] theorem phase_replayChange (h : Nat) (c : Bytes) (s : State) :
    (replayChange h c s).tsu.phase = s.tsu.phase := by simp [replayChange]
@[simp] theorem phase_replayHalt (h : Nat) (c : Bytes) (s : State) :
    (replayHalt h c s).tsu.phase = s.tsu.phase := by simp [replayHalt]
@[simp] theorem phase_replayFault (h : Nat) (c : Bytes) (s : State) :
    (replayFault h c s).tsu.phase = s.tsu.phase := by simp [replayFault]
@[simp] theorem phaseTsu_settleMatch (t : Tsu) : (settleMatch t).phase = t.phase := by simp [settleMatch]
@[simp] theorem phaseTsu_windowError (r : FeedRec) (t : Tsu) :
    (windowError r t).phase = t.phase := by simp [windowError]
@[simp] theorem phase_applyFed (h : Nat) (r : FeedRec) (s : State) :
    (applyFed h r s).tsu.phase = s.tsu.phase := by
  unfold applyFed
  split <;> simp
@[simp] theorem phase_takeFed (due : Nat → FeedRec → Bool) (s : State) :
    (takeFed due s).tsu.phase = s.tsu.phase := by
  unfold takeFed
  split
  · simp
  · split <;> simp

/-! ## Dictionary -/

@[simp] theorem phase_tunnelResponse (p : Nat) (r : Rsp) (s : State) :
    (tunnelResponse p r s).tsu.phase = s.tsu.phase := by
  unfold tunnelResponse
  repeat' (first | split | simp)

end Sys2Proof.Machine
end

section
/-! PROOFS. The relation that a command keeps the counter (R27), and the writes, each of which keeps it whatever becomes of it. -/

namespace Sys2Proof.Machine

/-! ## The relation -/

/-- The die's counter runs: its time core is not held in reset (R27, Table 13.9). -/
def counting (t : Tsu) : Prop := t.phase ≠ .reset ∧ t.phase ≠ .faultHold

/-- The counter stands where it stood, and runs if it ran. -/
def keepsCount (s t : State) : Prop := t.tsu.tc.frc = s.tsu.tc.frc ∧ (counting s.tsu → counting t.tsu)

theorem frc_of_still {s t : State} (h : still t = still s) : t.tsu.tc.frc = s.tsu.tc.frc :=
  congrArg (·.tsu.1) h

theorem keepsCount_of {s t : State} (hs : still t = still s) (hp : t.tsu.phase = s.tsu.phase) : keepsCount s t :=
  ⟨frc_of_still hs, by simp [counting, hp]⟩

theorem keepsCount_refl (s : State) : keepsCount s s := ⟨rfl, id⟩

theorem keepsCount_trans {s t u : State} (h : keepsCount s t) (h' : keepsCount t u) : keepsCount s u :=
  ⟨h'.1.trans h.1, h'.2 ∘ h.2⟩

theorem keepsCount_ite {c : Prop} [Decidable c] {s t u : State} (ht : keepsCount s t) (hu : keepsCount s u) :
    keepsCount s (if c then t else u) := by
  split
  · exact ht
  · exact hu

/-- Whatever becomes of a write, the counter stands and runs on. -/
def WriteOp.KeepsCount (op : WriteOp) : Prop :=
  (∀ u, keepsCount u (op.apply u)) ∧ (∀ u, keepsCount u (op.accept u)) ∧ ∀ u, keepsCount u (op.refuse u)

/-- Whatever becomes of a write, the phase stays. -/
def WriteOp.KeepsPhase (op : WriteOp) : Prop :=
  (∀ u, (op.apply u).tsu.phase = u.tsu.phase) ∧ (∀ u, (op.accept u).tsu.phase = u.tsu.phase) ∧
    ∀ u, (op.refuse u).tsu.phase = u.tsu.phase

theorem keepsCount_of_keeps {op : WriteOp} (hk : op.Keeps) (hp : op.KeepsPhase) : op.KeepsCount :=
  ⟨fun u => keepsCount_of (hk.1 u) (hp.1 u), fun u => keepsCount_of (hk.2.1 u) (hp.2.1 u),
    fun u => keepsCount_of (hk.2.2 u) (hp.2.2 u)⟩

@[simp] theorem keepsPhase_boolCommand (index sub : Nat) (access : Access) (v : U8) (f : State → State)
    (hf : ∀ u, (f u).tsu.phase = u.tsu.phase) :
    (boolCommand index sub access v f).KeepsPhase := by simp_all [WriteOp.KeepsPhase, boolCommand]
@[simp] theorem keepsCount_wSecKey (d : Dev) (q : Req) (key : BitVec 256) : (wSecKey d q key).KeepsCount :=
  keepsCount_of_keeps (keeps_wSecKey ..) (by simp [WriteOp.KeepsPhase, wSecKey])
@[simp] theorem keepsCount_wRole (v : U8) : (wRole v).KeepsCount :=
  keepsCount_of_keeps (keeps_wRole ..) (by simp [WriteOp.KeepsPhase, wRole])
@[simp] theorem keepsCount_wOffset (v : HT) : (wOffset v).KeepsCount :=
  keepsCount_of_keeps (keeps_wOffset ..) (by simp [WriteOp.KeepsPhase, wOffset])
@[simp] theorem keepsCount_wRate (v : I64) : (wRate v).KeepsCount :=
  keepsCount_of_keeps (keeps_wRate ..) (by simp [WriteOp.KeepsPhase, wRate])
@[simp] theorem keepsCount_wPhaseStep (v : I64) : (wPhaseStep v).KeepsCount :=
  keepsCount_of_keeps (keeps_wPhaseStep ..) (by simp [WriteOp.KeepsPhase, wPhaseStep])
@[simp] theorem keepsCount_wLatchNow (v : U8) : (wLatchNow v).KeepsCount :=
  keepsCount_of_keeps (keeps_wLatchNow ..) (by simp [WriteOp.KeepsPhase, wLatchNow, boolCommand])
@[simp] theorem keepsCount_wSnapshotReq (n : Nat) (v : U8) (rcc : BitVec 48) : (wSnapshotReq n v rcc).KeepsCount :=
  keepsCount_of_keeps (keeps_wSnapshotReq ..) (by simp [WriteOp.KeepsPhase, wSnapshotReq, boolCommand])
@[simp] theorem keepsCount_wMarginBias (v : U8) : (wMarginBias v).KeepsCount :=
  keepsCount_of_keeps (keeps_wMarginBias ..) (by simp [WriteOp.KeepsPhase, wMarginBias])
@[simp] theorem keepsCount_wCounterClear (v : U8) : (wCounterClear v).KeepsCount :=
  keepsCount_of_keeps (keeps_wCounterClear ..) (keepsPhase_boolCommand _ _ _ _ _ fun u => by
    rw [onTsu_phase, forAll_phase]
    · exact fun n s => onRegion_tsu_phase n _ s
    · exact fun _ => rfl)
@[simp] theorem keepsCount_wPortEnable (d : Dev) (p : Nat) (v : U8) : (wPortEnable d p v).KeepsCount :=
  keepsCount_of_keeps (keeps_wPortEnable ..) (by simp [WriteOp.KeepsPhase, wPortEnable])
@[simp] theorem keepsCount_wLatBaselineCapture (v : U8) : (wLatBaselineCapture v).KeepsCount :=
  keepsCount_of_keeps (keeps_wLatBaselineCapture ..) (keepsPhase_boolCommand _ _ _ _ _ fun _ => forAll_phase _ _ _ fun _ _ => rfl)
@[simp] theorem keepsCount_wTxtsOverflowClear (v : U8) : (wTxtsOverflowClear v).KeepsCount :=
  keepsCount_of_keeps (keeps_wTxtsOverflowClear ..) (by simp [WriteOp.KeepsPhase, wTxtsOverflowClear, boolCommand])
@[simp] theorem keepsCount_wRealign (v : U8) : (wRealign v).KeepsCount :=
  keepsCount_of_keeps (keeps_wRealign ..) (by simp [WriteOp.KeepsPhase, wRealign, boolCommand])
@[simp] theorem keepsCount_wRefType (c : Nat) (v : U8) : (wRefType c v).KeepsCount :=
  keepsCount_of_keeps (keeps_wRefType ..) (by simp [WriteOp.KeepsPhase, wRefType])
@[simp] theorem keepsCount_wRefPriority (c : Nat) (v : U8) : (wRefPriority c v).KeepsCount :=
  keepsCount_of_keeps (keeps_wRefPriority ..) (by simp [WriteOp.KeepsPhase, wRefPriority])
@[simp] theorem keepsCount_wForceRef (v : U8) : (wForceRef v).KeepsCount :=
  keepsCount_of_keeps (keeps_wForceRef ..) (by simp [WriteOp.KeepsPhase, wForceRef])
@[simp] theorem keepsCount_wFreeServe (v : U8) : (wFreeServe v).KeepsCount :=
  keepsCount_of_keeps (keeps_wFreeServe ..) (by simp [WriteOp.KeepsPhase, wFreeServe])
@[simp] theorem keepsCount_wOcxoTable (v : BitVec 320) : (wOcxoTable v).KeepsCount :=
  keepsCount_of_keeps (keeps_wOcxoTable ..) (by simp [WriteOp.KeepsPhase, wOcxoTable])
@[simp] theorem keepsCount_wForcePlane (v : U8) : (wForcePlane v).KeepsCount :=
  keepsCount_of_keeps (keeps_wForcePlane ..) (by simp [WriteOp.KeepsPhase, wForcePlane])
@[simp] theorem keepsCount_wPlaneOffsetRelease (v : U8) : (wPlaneOffsetRelease v).KeepsCount :=
  keepsCount_of_keeps (keeps_wPlaneOffsetRelease ..) (by simp [WriteOp.KeepsPhase, wPlaneOffsetRelease, boolCommand])
@[simp] theorem keepsCount_wPlaneConfig (v : U8) : (wPlaneConfig v).KeepsCount :=
  keepsCount_of_keeps (keeps_wPlaneConfig ..) (by simp [WriteOp.KeepsPhase, wPlaneConfig])
@[simp] theorem keepsCount_wPronkRequest (v : BitVec 256) : (wPronkRequest v).KeepsCount :=
  keepsCount_of_keeps (keeps_wPronkRequest ..) (by simp [WriteOp.KeepsPhase, wPronkRequest])
@[simp] theorem keepsCount_wTemplateValid (d : Dev) (k : Nat) (v : U8) : (wTemplateValid d k v).KeepsCount :=
  keepsCount_of_keeps (keeps_wTemplateValid ..) (by simp [WriteOp.KeepsPhase, wTemplateValid])
@[simp] theorem keepsCount_wPauseRequest (v : BitVec 160) : (wPauseRequest v).KeepsCount :=
  keepsCount_of_keeps (keeps_wPauseRequest ..) (by simp [WriteOp.KeepsPhase, wPauseRequest])
@[simp] theorem keepsCount_wReepochCommit (q : Req) (h : Nat) (v : U8) : (wReepochCommit q h v).KeepsCount :=
  keepsCount_of_keeps (keeps_wReepochCommit ..) (by simp [WriteOp.KeepsPhase, wReepochCommit, boolCommand])
@[simp] theorem keepsCount_wDrainAdopt (h : Nat) (v : BitVec 192) : (wDrainAdopt h v).KeepsCount :=
  keepsCount_of_keeps (keeps_wDrainAdopt ..) (by simp [WriteOp.KeepsPhase, wDrainAdopt])
@[simp] theorem keepsCount_wExpel (h : Nat) (v : U8) : (wExpel h v).KeepsCount :=
  keepsCount_of_keeps (keeps_wExpel ..) (by simp [WriteOp.KeepsPhase, wExpel, boolCommand])
@[simp] theorem keepsCount_wStepDesc (i : Nat) (v : BitVec 512) : (wStepDesc i v).KeepsCount :=
  keepsCount_of_keeps (keeps_wStepDesc ..) (by simp [WriteOp.KeepsPhase, wStepDesc])
@[simp] theorem keepsCount_wLoadCommit (q : Req) (h : Nat) (v : U8) : (wLoadCommit q h v).KeepsCount :=
  keepsCount_of_keeps (keeps_wLoadCommit ..) (by simp [WriteOp.KeepsPhase, wLoadCommit, boolCommand])
@[simp] theorem keepsCount_wUnload (h : Nat) (v : U8) : (wUnload h v).KeepsCount :=
  keepsCount_of_keeps (keeps_wUnload ..) (by simp [WriteOp.KeepsPhase, wUnload, boolCommand])
@[simp] theorem keepsCount_wLedgerEntry (i : Nat) (v : BitVec 256) (iter : Option U64) : (wLedgerEntry i v iter).KeepsCount :=
  keepsCount_of_keeps (keeps_wLedgerEntry ..) (by simp [WriteOp.KeepsPhase, wLedgerEntry])
@[simp] theorem keepsCount_wSyncReset (h : Nat) (v : U8) : (wSyncReset h v).KeepsCount :=
  keepsCount_of_keeps (keeps_wSyncReset ..) (by simp [WriteOp.KeepsPhase, wSyncReset, boolCommand])
@[simp] theorem keepsCount_wCounterValue (n : Nat) (v : U64) : (wCounterValue n v).KeepsCount :=
  keepsCount_of_keeps (keeps_wCounterValue ..) (by simp [WriteOp.KeepsPhase, wCounterValue])
@[simp] theorem keepsCount_wEventState (n : Nat) (v : U32) : (wEventState n v).KeepsCount :=
  keepsCount_of_keeps (keeps_wEventState ..) (by simp [WriteOp.KeepsPhase, wEventState])
@[simp] theorem keepsCount_wEventOversignalClear (n : Nat) (v : U8) : (wEventOversignalClear n v).KeepsCount :=
  keepsCount_of_keeps (keeps_wEventOversignalClear ..) (by simp [WriteOp.KeepsPhase, wEventOversignalClear, boolCommand])
@[simp] theorem keepsCount_wTreeReserve (v : BitVec 128) : (wTreeReserve v).KeepsCount :=
  keepsCount_of_keeps (keeps_wTreeReserve ..) (by simp [WriteOp.KeepsPhase, wTreeReserve])
@[simp] theorem keepsCount_wMismatchIn (v : U32) : (wMismatchIn v).KeepsCount :=
  keepsCount_of_keeps (keeps_wMismatchIn ..) (by simp [WriteOp.KeepsPhase, wMismatchIn])
@[simp] theorem keepsCount_wReportFailed (herd : Nat) (die : U32) : (wReportFailed herd die).KeepsCount :=
  keepsCount_of_keeps (keeps_wReportFailed ..) (by simp [WriteOp.KeepsPhase, wReportFailed])
@[simp] theorem keepsCount_wSwapPlan (h : Nat) (v : BitVec 256) : (wSwapPlan h v).KeepsCount :=
  keepsCount_of_keeps (keeps_wSwapPlan ..) (by simp [WriteOp.KeepsPhase, wSwapPlan])
@[simp] theorem keepsCount_wSwapCancel (h : Nat) (v : U8) : (wSwapCancel h v).KeepsCount :=
  keepsCount_of_keeps (keeps_wSwapCancel ..) (by simp [WriteOp.KeepsPhase, wSwapCancel, boolCommand])
@[simp] theorem keepsCount_wSwapBroadcast (v : BitVec 352) : (wSwapBroadcast v).KeepsCount :=
  keepsCount_of_keeps (keeps_wSwapBroadcast ..) (by simp [WriteOp.KeepsPhase, wSwapBroadcast])
@[simp] theorem keepsCount_wHaltNow (d : Dev) (v : U32) : (wHaltNow d v).KeepsCount :=
  keepsCount_of_keeps (keeps_wHaltNow ..) (by cases d <;> simp [WriteOp.KeepsPhase, wHaltNow])
@[simp] theorem keepsCount_wErrOverflowClear (d : Dev) (v : U8) : (wErrOverflowClear d v).KeepsCount :=
  keepsCount_of_keeps (keeps_wErrOverflowClear ..) (by simp [WriteOp.KeepsPhase, wErrOverflowClear, boolCommand])
@[simp] theorem keepsCount_wTenantStatement (v : U32) : (wTenantStatement v).KeepsCount :=
  keepsCount_of_keeps (keeps_wTenantStatement ..) (by simp [WriteOp.KeepsPhase, wTenantStatement])
@[simp] theorem keepsCount_wTenantClose (v : U32) : (wTenantClose v).KeepsCount :=
  keepsCount_of_keeps (keeps_wTenantClose ..) (by simp [WriteOp.KeepsPhase, wTenantClose])
@[simp] theorem keepsCount_wMeterClear (v : U8) : (wMeterClear v).KeepsCount :=
  keepsCount_of_keeps (keeps_wMeterClear ..) (by simp [WriteOp.KeepsPhase, wMeterClear, boolCommand])
@[simp] theorem keepsCount_wRecFreezeNow (v : U8) : (wRecFreezeNow v).KeepsCount :=
  keepsCount_of_keeps (keeps_wRecFreezeNow ..) (by simp [WriteOp.KeepsPhase, wRecFreezeNow, boolCommand])
@[simp] theorem keepsCount_wRecThaw (v : U8) : (wRecThaw v).KeepsCount :=
  keepsCount_of_keeps (keeps_wRecThaw ..) (by simp [WriteOp.KeepsPhase, wRecThaw, boolCommand])
@[simp] theorem keepsCount_wReplaySetup (v : BitVec 192) : (wReplaySetup v).KeepsCount :=
  keepsCount_of_keeps (keeps_wReplaySetup ..) (by simp [WriteOp.KeepsPhase, wReplaySetup])
@[simp] theorem keepsCount_wReplayRelease (v : U8) : (wReplayRelease v).KeepsCount :=
  keepsCount_of_keeps (keeps_wReplayRelease ..) (by simp [WriteOp.KeepsPhase, wReplayRelease, boolCommand])
@[simp] theorem keepsCount_wReplayFeed (v : Bytes) : (wReplayFeed v).KeepsCount :=
  keepsCount_of_keeps (keeps_wReplayFeed ..) (by simp [WriteOp.KeepsPhase, wReplayFeed])
@[simp] theorem keepsCount_wReplayEnd (v : U8) : (wReplayEnd v).KeepsCount :=
  keepsCount_of_keeps (keeps_wReplayEnd ..) (by simp [WriteOp.KeepsPhase, wReplayEnd, boolCommand])
@[simp] theorem keepsCount_wForcedStretch (v : BitVec 3072) : (wForcedStretch v).KeepsCount :=
  keepsCount_of_keeps (keeps_wForcedStretch ..) (by simp [WriteOp.KeepsPhase, wForcedStretch])
@[simp] theorem keepsPhase_reg (index sub : Nat) (access : Access) (n : Nat) (v : Bytes) (ok : Nat → Bool) (f : Nat → State → State)
    (hf : ∀ x u, (f x u).tsu.phase = u.tsu.phase) :
    (reg index sub access n v ok f).KeepsPhase := by simp_all [WriteOp.KeepsPhase, reg]
@[simp] theorem keepsPhase_regWhen (index sub : Nat) (access : Access) (n : Nat) (v : Bytes) (ready : State → Bool) (ok : Nat → Bool)
    (f : Nat → State → State) (hf : ∀ x u, (f x u).tsu.phase = u.tsu.phase) :
    (regWhen index sub access n v ready ok f).KeepsPhase := by simp_all [WriteOp.KeepsPhase, regWhen, reg]
@[simp] theorem keepsCount_wSelector (d : Dev) (q : Req) (index sub size n : Nat) (v : Bytes) :
    (wSelector d q index sub size n v).KeepsCount :=
  keepsCount_of_keeps (keeps_wSelector ..) (by simp [WriteOp.KeepsPhase, wSelector, reg])
@[simp] theorem keepsCount_wDeviceId (d : Dev) (v : Bytes) : (wDeviceId d v).KeepsCount :=
  keepsCount_of_keeps (keeps_wDeviceId ..) (by simp [WriteOp.KeepsPhase, wDeviceId, regWhen, reg])
@[simp] theorem keepsCount_wPlane (v : Bytes) : (wPlane v).KeepsCount :=
  keepsCount_of_keeps (keeps_wPlane ..) (by simp [WriteOp.KeepsPhase, wPlane, regWhen, reg])
@[simp] theorem keepsCount_wFixedZero (sub : Nat) (v : Bytes) : (wFixedZero sub v).KeepsCount :=
  keepsCount_of_keeps (keeps_wFixedZero ..) (by simp [WriteOp.KeepsPhase, wFixedZero, reg])
@[simp] theorem keepsCount_wWorldSub (d : Dev) (v : Bytes) : (wWorldSub d v).KeepsCount :=
  keepsCount_of_keeps (keeps_wWorldSub ..) (by simp [WriteOp.KeepsPhase, wWorldSub, reg])
@[simp] theorem keepsCount_wWorldHerd (v : Bytes) : (wWorldHerd v).KeepsCount :=
  keepsCount_of_keeps (keeps_wWorldHerd ..) (by simp [WriteOp.KeepsPhase, wWorldHerd, regWhen, reg])
@[simp] theorem keepsCount_wWorldRegion (i : Nat) (v : Bytes) : (wWorldRegion i v).KeepsCount :=
  keepsCount_of_keeps (keeps_wWorldRegion ..) (by simp [WriteOp.KeepsPhase, wWorldRegion, regWhen, reg])
@[simp] theorem keepsCount_freeReg (base h sub n : Nat) (v : Bytes) (ok : Nat → Bool) (f : Nat → Herd → Herd) :
    (freeReg base h sub n v ok f).KeepsCount :=
  keepsCount_of_keeps (keeps_freeReg ..) (by simp [WriteOp.KeepsPhase, freeReg, regWhen, reg])
@[simp] theorem keepsCount_stagedReg (h sub n : Nat) (v : Bytes) (ok : Nat → Bool) (f g : Nat → Herd → Herd) :
    (stagedReg h sub n v ok f g).KeepsCount :=
  keepsCount_of_keeps (keeps_stagedReg ..) (by simp [WriteOp.KeepsPhase, stagedReg, regWhen, reg])
@[simp] theorem keepsCount_wIterLimit (h : Nat) (v : Bytes) : (wIterLimit h v).KeepsCount :=
  keepsCount_of_keeps (keeps_wIterLimit ..) (by simp [WriteOp.KeepsPhase, wIterLimit, reg])
@[simp] theorem keepsCount_wLiveEpoch (h : Nat) (v : Bytes) : (wLiveEpoch h v).KeepsCount :=
  keepsCount_of_keeps (keeps_wLiveEpoch ..) (by simp [WriteOp.KeepsPhase, wLiveEpoch, regWhen, reg])
@[simp] theorem keepsCount_slotReg (d : Dev) (sub k j n : Nat) (v : Bytes) (ok : State → Bool) : (slotReg d sub k j n v ok).KeepsCount :=
  keepsCount_of_keeps (keeps_slotReg ..) (by simp [WriteOp.KeepsPhase, slotReg])
@[simp] theorem keepsCount_wMeterParams (v : Bytes) : (wMeterParams v).KeepsCount :=
  keepsCount_of_keeps (keeps_wMeterParams ..) (by simp [WriteOp.KeepsPhase, wMeterParams, reg])
@[simp] theorem keepsCount_wMeterCert (v : Bytes) : (wMeterCert v).KeepsCount :=
  keepsCount_of_keeps (keeps_wMeterCert ..) (by simp [WriteOp.KeepsPhase, wMeterCert])
@[simp] theorem keepsCount_wReadOnly (d : Dev) (q : Req) (index sub : Nat) (v : Bytes) : (wReadOnly d q index sub v).KeepsCount :=
  keepsCount_of_keeps (keeps_wReadOnly ..) (by simp [WriteOp.KeepsPhase, wReadOnly])

/-! ## The writes that touch more than Still.lean names -/

@[simp] theorem keepsCount_wBistStart (v : U8) (bankBytes : Nat) : (wBistStart v bankBytes).KeepsCount :=
  ⟨fun _ => ⟨rfl, fun _ => by simp [counting, wBistStart]⟩, keepsCount_refl, keepsCount_refl⟩

theorem phase_breakSeal (cause : Nat) (s : State) : (breakSeal cause s).tsu.phase = s.tsu.phase := by simp [breakSeal]

theorem frc_breakSeal (cause : Nat) (s : State) : (breakSeal cause s).tsu.tc.frc = s.tsu.tc.frc := by simp [breakSeal]

theorem keepsCount_breakSeal (cause : Nat) (s : State) : keepsCount s (breakSeal cause s) :=
  ⟨frc_breakSeal cause s, by simp [counting, phase_breakSeal]⟩

@[simp] theorem keepsCount_wLcAdvance (d : Dev) (q : Req) (v : Bytes) : (wLcAdvance d q v).KeepsCount := by
  refine ⟨fun u => ?_, keepsCount_refl, keepsCount_refl⟩
  cases d with
  | fjz => exact keepsCount_of (by simp [wLcAdvance, lcStart]) (by simp [wLcAdvance, lcStart])
  | tsu =>
    have fuse (f : Agent → Agent) : keepsCount u (onAgent .tsu f u) := ⟨rfl, id⟩
    exact keepsCount_trans (fuse _) (keepsCount_ite (keepsCount_of (still_makeKey _) (phase_makeKey _))
      (keepsCount_ite (keepsCount_breakSeal _ _) (keepsCount_refl _)))

@[simp] theorem keepsCount_wSeal (v : BitVec 192) : (wSeal v).KeepsCount := by
  refine ⟨fun u => ⟨?_, ?_⟩, keepsCount_refl, fun u => keepsCount_of ?_ ?_⟩
  · simp [wSeal, applySeal]
  · simp [wSeal, applySeal, counting]
  · simp [wSeal]
  · simp [wSeal]

@[simp] theorem keepsCount_wUnseal (v : U8) : (wUnseal v).KeepsCount := by
  refine ⟨fun u => ?_, keepsCount_refl, fun u => keepsCount_of ?_ ?_⟩
  · simp only [wUnseal, boolCommand]
    split
    · exact keepsCount_breakSeal 1 u
    · exact keepsCount_refl u
  · simp [wUnseal]
  · simp [wUnseal]

/-! ## The write of every object (Table 12.7) -/

section Registers

variable {index sub n : Nat} {access : Access} {v : Bytes} {ok : Nat → Bool}

theorem keepsCount_reg {f : Nat → State → State} (hs : ∀ x u, still (f x u) = still u)
    (hp : ∀ x u, (f x u).tsu.phase = u.tsu.phase) : (reg index sub access n v ok f).KeepsCount :=
  keepsCount_of_keeps (keeps_reg _ _ _ _ _ _ _ hs) (keepsPhase_reg _ _ _ _ _ _ _ hp)

@[simp] theorem keepsCount_reg_onFjz {f : Nat → Fjz → Fjz} (h : ∀ k x, stillFjz (f k x) = stillFjz x) :
    (reg index sub access n v ok fun k => onFjz (f k)).KeepsCount :=
  keepsCount_reg (fun k u => still_onFjz _ u (h k)) fun _ _ => rfl

@[simp] theorem keepsCount_reg_onTsu {f : Nat → Tsu → Tsu} (h : ∀ k t, stillTsu (f k t) = stillTsu t)
    (hp : ∀ k t, (f k t).phase = t.phase) : (reg index sub access n v ok fun k => onTsu (f k)).KeepsCount :=
  keepsCount_reg (fun k u => still_onTsu _ u (h k)) fun k u => hp k u.tsu

@[simp] theorem keepsCount_reg_onTc {f : Nat → TimeCore → TimeCore} (h : ∀ k tc, (f k tc).frc = tc.frc) :
    (reg index sub access n v ok fun k => onTc (f k)).KeepsCount :=
  keepsCount_reg (fun k u => still_onTc _ u (h k)) fun _ _ => rfl

@[simp] theorem keepsCount_reg_onCand (c : Nat) (f : Nat → Cand → Cand) :
    (reg index sub access n v ok fun k => onCand c (f k)).KeepsCount := keepsCount_reg (fun _ _ => rfl) fun _ _ => rfl

@[simp] theorem keepsCount_reg_onEth (e : Nat) (f : Nat → Eth → Eth) :
    (reg index sub access n v ok fun k => onEth e (f k)).KeepsCount := keepsCount_reg (fun _ _ => rfl) fun _ _ => rfl

@[simp] theorem keepsCount_reg_onSteward (h : Id24) (f : Nat → Steward → Steward) :
    (reg index sub access n v ok fun k => onSteward h (f k)).KeepsCount := keepsCount_reg (fun _ _ => rfl) fun _ _ => rfl

@[simp] theorem keepsCount_reg_onHerd (h : Nat) (f : Nat → Herd → Herd) :
    (reg index sub access n v ok fun k => onHerd h (f k)).KeepsCount := keepsCount_reg (fun _ _ => rfl) fun _ _ => rfl

@[simp] theorem keepsCount_reg_onLink (l : Nat) (f : Nat → Link → Link) :
    (reg index sub access n v ok fun k => onLink l (f k)).KeepsCount := keepsCount_reg (fun _ _ => rfl) fun _ _ => rfl

@[simp] theorem keepsCount_reg_onPort (d : Dev) (p : Nat) (f : Nat → Port → Port) :
    (reg index sub access n v ok fun k => onPort d p (f k)).KeepsCount :=
  keepsCount_reg (fun _ _ => still_onPort ..) fun _ _ => onPort_phase ..

/-- What becomes of a write is told by its effect, its acceptance and its refusal alone. -/
@[simp] theorem keepsCount_withPresent (op : WriteOp) (g : State → Bool) :
    ({ op with present := g } : WriteOp).KeepsCount ↔ op.KeepsCount :=
  Iff.rfl
@[simp] theorem keepsCount_withRange (op : WriteOp) (g : State → Bool) : ({ op with range := g } : WriteOp).KeepsCount ↔ op.KeepsCount :=
  Iff.rfl
@[simp] theorem keepsCount_regWhen {f : Nat → State → State} {ready : State → Bool} :
    (regWhen index sub access n v ready ok f).KeepsCount ↔ (reg index sub access n v ok f).KeepsCount := Iff.rfl
theorem keepsCount_withBytes (op : WriteOp) (b : Bytes) (w : Bool) :
    ({ op with bytes := b, whole := w } : WriteOp).KeepsCount ↔ op.KeepsCount := Iff.rfl

@[simp] theorem keepsCount_reg_setBoardCoeff : (reg index sub access n v ok setBoardCoeff).KeepsCount :=
  keepsCount_reg still_setBoardCoeff fun _ _ => rfl
@[simp] theorem keepsCount_reg_setP3Limit (d : Dev) : (reg index sub access n v ok (setP3Limit d)).KeepsCount :=
  keepsCount_reg (still_setP3Limit d) fun _ _ => by cases d <;> rfl
@[simp] theorem keepsCount_reg_setLinkEnable (l : Nat) (f : Nat → Bool) :
    (reg index sub access n v ok fun x => setLinkEnable l (f x)).KeepsCount :=
  keepsCount_reg (fun _ _ => still_setLinkEnable ..) fun _ _ => rfl
@[simp] theorem keepsCount_reg_setOutput (o : Nat) (f : Nat → RefOut → RefOut) :
    (reg index sub access n v ok fun x => setOutput o (f x)).KeepsCount :=
  keepsCount_reg (fun _ _ => still_setOutput ..) fun _ _ => rfl
@[simp] theorem keepsCount_reg_id : (reg index sub access n v ok fun _ => id).KeepsCount :=
  keepsCount_reg (fun _ _ => rfl) fun _ _ => rfl

/-- SQC_ASSIGNED of a candidate, which acts at once where the candidate gives frequency alone. -/
@[simp] theorem keepsCount_reg_sqc (c : Nat) (f : Nat → Cand → Cand) (p : Nat → State → Prop) [∀ x s, Decidable (p x s)] :
    (reg index sub access n v ok fun x s =>
      if p x s then withAdoption (actReceived c) (onCand c (f x) s) else onCand c (f x) s).KeepsCount :=
  keepsCount_reg (fun x u => by simp) fun x u => by split <;> simp

end Registers

/-- Every write that a row of the table gives. -/
def rowsKeepCount (o : Option WriteOp) : Prop := ∀ op ∈ o, op.KeepsCount

@[simp] theorem rowsKeepCount_none : rowsKeepCount none := by simp [rowsKeepCount]
@[simp] theorem rowsKeepCount_some (op : WriteOp) : rowsKeepCount (some op) ↔ op.KeepsCount := by simp [rowsKeepCount]
theorem rowsKeepCount_ite {c : Prop} [Decidable c] {a b : Option WriteOp} (ha : rowsKeepCount a) (hb : rowsKeepCount b) :
    rowsKeepCount (if c then a else b) := by
  split
  · exact ha
  · exact hb
@[simp] theorem rowsKeepCount_map {α : Type} (o : Option α) (f : α → WriteOp) (h : ∀ a, (f a).KeepsCount) : rowsKeepCount (o.map f) := by
  cases o <;> simp [h]

@[simp] theorem rowsKeepCount_writeNetwork (j : Nat) (v : Bytes) : rowsKeepCount (writeNetwork j v) := by
  unfold writeNetwork
  repeat' split
  all_goals simp

@[simp] theorem rowsKeepCount_writeWorld (d : Dev) (s : State) (q : Req) (j : Nat) (v : Bytes) : rowsKeepCount (writeWorld d s q j v) := by
  unfold writeWorld
  repeat' split
  all_goals simp

@[simp] theorem rowsKeepCount_writeLife (d : Dev) (s : State) (q : Req) (i j : Nat) (v : Bytes) : rowsKeepCount
    (writeLife d s q i j v) := by
  unfold writeLife
  repeat' split
  all_goals simp

@[simp] theorem rowsKeepCount_writeTime (i j : Nat) (v : Bytes) : rowsKeepCount (writeTime i j v) := by
  unfold writeTime
  repeat' apply rowsKeepCount_ite
  all_goals simp

@[simp] theorem rowsKeepCount_writePort (d : Dev) (p j : Nat) (v : Bytes) : rowsKeepCount (writePort d p j v) := by
  unfold writePort
  repeat' split
  all_goals simp

@[simp] theorem rowsKeepCount_writeTaps (i j : Nat) (v : Bytes) : rowsKeepCount (writeTaps i j v) := by
  unfold writeTaps
  repeat' split
  all_goals simp

@[simp] theorem rowsKeepCount_writeCand (c j : Nat) (v : Bytes) : rowsKeepCount (writeCand c j v) := by
  unfold writeCand
  dsimp only
  repeat' split
  all_goals simp

@[simp] theorem rowsKeepCount_writeLock (j : Nat) (v : Bytes) : rowsKeepCount (writeLock j v) := by
  unfold writeLock
  dsimp only
  repeat' split
  all_goals simp

@[simp] theorem rowsKeepCount_writeOcxo (j : Nat) (v : Bytes) : rowsKeepCount (writeOcxo j v) := by
  unfold writeOcxo
  repeat' split
  all_goals simp

@[simp] theorem rowsKeepCount_writeEth (e j : Nat) (v : Bytes) : rowsKeepCount (writeEth e j v) := by
  unfold writeEth
  dsimp only
  repeat' split
  all_goals simp

@[simp] theorem rowsKeepCount_writePlane (j : Nat) (v : Bytes) : rowsKeepCount (writePlane j v) := by
  unfold writePlane
  repeat' split
  all_goals simp

@[simp] theorem rowsKeepCount_writeHerd (q : Req) (h j : Nat) (v : Bytes) : rowsKeepCount (writeHerd q h j v) := by
  unfold writeHerd
  dsimp only
  repeat' split
  all_goals simp

@[simp] theorem rowsKeepCount_writeSwap (q : Req) (h j : Nat) (v : Bytes) : rowsKeepCount (writeSwap q h j v) := by
  unfold writeSwap
  repeat' split
  all_goals simp

@[simp] theorem rowsKeepCount_writeStep (s : State) (q : Req) (i j : Nat) (v : Bytes) : rowsKeepCount (writeStep s q i j v) := by
  unfold writeStep
  repeat' split
  all_goals simp

@[simp] theorem rowsKeepCount_writeTemplate (d : Dev) (s : State) (q : Req) (j : Nat) (v : Bytes) : rowsKeepCount
    (writeTemplate d s q j v) := by
  unfold writeTemplate
  dsimp only
  repeat' split
  all_goals simp

@[simp] theorem rowsKeepCount_writeLeafHealth (j : Nat) (v : Bytes) : rowsKeepCount (writeLeafHealth j v) := by
  unfold writeLeafHealth
  repeat' split
  all_goals simp

@[simp] theorem rowsKeepCount_writeSteward (s : State) (q : Req) (j : Nat) (v : Bytes) : rowsKeepCount (writeSteward s q j v) := by
  unfold writeSteward
  dsimp only
  repeat' split
  all_goals simp

@[simp] theorem rowsKeepCount_writeWindow (j : Nat) (v : Bytes) : rowsKeepCount (writeWindow j v) := by
  unfold writeWindow
  repeat' split
  all_goals simp

@[simp] theorem rowsKeepCount_writeReplay (i j : Nat) (v : Bytes) : rowsKeepCount (writeReplay i j v) := by
  unfold writeReplay
  repeat' split
  all_goals simp

@[simp] theorem rowsKeepCount_writeMeter (i j : Nat) (v : Bytes) : rowsKeepCount (writeMeter i j v) := by
  unfold writeMeter
  repeat' split
  all_goals simp

@[simp] theorem rowsKeepCount_writeCommon (d : Dev) (s : State) (q : Req) (i j : Nat) (v : Bytes) : rowsKeepCount
    (writeCommon d s q i j v) := by
  unfold writeCommon
  repeat' split
  all_goals simp

@[simp] theorem rowsKeepCount_writeTsu (s : State) (q : Req) (i j : Nat) (v : Bytes) : rowsKeepCount (writeTsu s q i j v) := by
  unfold writeTsu writeHealth
  repeat' split
  all_goals simp

@[simp] theorem rowsKeepCount_writeTsuRepeat (s : State) (q : Req) (i j : Nat) (v : Bytes) : rowsKeepCount (writeTsuRepeat s q i j v) := by
  unfold writeTsuRepeat writeRegion writeLink writeWatch
  repeat' split
  all_goals simp

@[simp] theorem rowsKeepCount_writeFjz (s : State) (q : Req) (i j : Nat) (v : Bytes) : rowsKeepCount (writeFjz s q i j v) := by
  unfold writeFjz writeOutput
  repeat' split
  all_goals simp

theorem rowsKeepCount_writableOf (s : State) (d : Dev) (q : Req) (i j : Nat) (v : Bytes) : rowsKeepCount (writableOf s d q i j v) := by
  unfold writableOf
  split
  · simp
  · split
    · next h => exact h ▸ rowsKeepCount_writeCommon d s q i j v
    · cases d with
      | tsu =>
        dsimp only
        split
        · next h => exact h ▸ rowsKeepCount_writeTsu s q i j v
        · exact rowsKeepCount_writeTsuRepeat s q i j v
      | fjz => exact rowsKeepCount_writeFjz s q i j v

/-- Every write of the dictionary keeps the count. -/
theorem keepsCount_writeOf (s : State) (d : Dev) (q : Req) (i j : Nat) (v : Bytes) : (writeOf s d q i j v).KeepsCount := by
  unfold writeOf
  rw [keepsCount_withBytes]
  cases h : writableOf s d q i j v with
  | none => exact keepsCount_wReadOnly ..
  | some op => exact rowsKeepCount_writableOf s d q i j v op h

end Sys2Proof.Machine
end

section
/-! PROOFS. The agents, cells, tokens and reads keep the counter, and with them the answer of a command. -/

namespace Sys2Proof.Machine

/-! ## The agent -/

theorem keepsCount_then {s t u : State} (h : keepsCount s t) (hs : still u = still t) (hp : u.tsu.phase = t.tsu.phase) : keepsCount s u :=
  keepsCount_trans h (keepsCount_of hs hp)

theorem keepsCount_park {d : Dev} {q : Req} {op : WriteOp} {c : Commit} (hk : op.KeepsCount) (s : State) :
    keepsCount s (park d q op c (op.accept s)) := by
  have stores (f : Agent → Agent) (hf : ∀ a, stillAgent (f a) = stillAgent a) : keepsCount s (onAgent d f (op.accept s)) :=
    keepsCount_then (hk.2.1 s) (still_onAgent d f _ hf) (onAgent_phase ..)
  unfold park
  split
  · exact stores _ fun _ => rfl
  · exact stores _ fun _ => rfl
  · exact stores _ fun _ => rfl
  · exact keepsCount_then (hk.2.1 s) (still_onFjz _ _ fun _ => rfl) rfl

theorem keepsCount_serveWrite {d : Dev} {q : Req} {op : WriteOp} (hk : op.KeepsCount) (s : State) : keepsCount s (serveWrite d q op s) := by
  have ⟨happly, haccept, hrefuse⟩ := hk
  have answers (r : Rsp) {u v : State} (h : keepsCount u v) : keepsCount u (deliverRsp d r (onAgent d (keepRsp r) v)) :=
    keepsCount_then h (by simp) (by simp)
  have applied {u v : State} (h : keepsCount u v) : keepsCount u (appliedRsp d (asTaken q) op.index op.sub stOk v) :=
    keepsCount_then h (by simp) (by simp)
  have taken (q : Req) (st : Nat) (u : State) : keepsCount u (logSealed d op.access st op.index op.sub (countTaken d q st u)) :=
    keepsCount_of (by simp) (by simp)
  unfold serveWrite
  dsimp only
  split
  · exact keepsCount_of (by simp) (by simp)
  · refine keepsCount_trans (taken (asTaken q) (writeStatus s d (asTaken q) op) s) ?_
    split
    · exact answers _ (keepsCount_ite (hrefuse _) (keepsCount_refl _))
    · split
      · exact answers _ (happly _)
      · refine keepsCount_ite (answers _ (keepsCount_park hk _)) ?_
        exact applied (answers _ (keepsCount_trans (haccept _) (happly _)))

theorem keepsCount_takeRequest {d : Dev} {q : Req} {i j : Nat} {v : Bytes} {serve : State → State} (h : ∀ u, keepsCount u (serve u))
    (s : State) : keepsCount s (takeRequest d q i j v serve s) := by
  unfold takeRequest
  refine keepsCount_ite (keepsCount_refl s) ?_
  refine keepsCount_trans (keepsCount_of (still_tunnelCells q v.length s) (phase_tunnelCells q v.length s)) ?_
  dsimp only
  split
  · exact h _
  · exact keepsCount_ite (keepsCount_of (by simp) (by simp)) (keepsCount_of (by simp) (by simp))
  · cases d
    · exact keepsCount_of (by simp) (by simp)
    · exact keepsCount_of (by simp) (by simp)

theorem keepsCount_agentWrite {d : Dev} {q : Req} {op : WriteOp} (hk : op.KeepsCount) (s : State) : keepsCount s (agentWrite d q op s) :=
  keepsCount_takeRequest (keepsCount_serveWrite hk) s

theorem keepsCount_ledgerWrite {q : Req} {op : WriteOp} (hk : op.KeepsCount) (v : BitVec 256) (s : State) :
    keepsCount s (ledgerWrite q op v s) := by
  refine keepsCount_trans (t := if _ then onMeter (allocTenant (lTenant v)) s else s) ?_ (keepsCount_serveWrite hk _)
  exact keepsCount_ite (keepsCount_of (by simp) rfl) (keepsCount_refl s)

theorem keepsCount_writeAny (d : Dev) (q : Req) (i j : Nat) (v : Bytes) (s : State) : keepsCount s (writeAny d q i j v s) := by
  refine keepsCount_takeRequest (fun u => ?_) s
  split
  · exact keepsCount_ledgerWrite (keepsCount_writeOf ..) _ u
  · exact keepsCount_serveWrite (keepsCount_writeOf ..) u

theorem keepsCount_serveRead {d : Dev} {q : Req} {op : ReadOp} (he : ∀ u, keepsCount u (op.effect u)) (s : State) :
    keepsCount s (serveRead d q op s) := by
  unfold serveRead
  extract_lets q' hdr head st t v u r
  split
  · exact keepsCount_of (by simp) (by simp)
  · have hu : keepsCount s u :=
      keepsCount_trans (keepsCount_of (still_countTaken d q' st s) (phase_countTaken d q' st s))
        (keepsCount_ite (he t) (keepsCount_refl t))
    have hkept : keepsCount u (onAgent d (keepRsp r) u) := keepsCount_of (by simp) (by simp)
    exact keepsCount_then (t := if op.pop = true then onAgent d (keepRsp r) u else u)
      (keepsCount_trans hu (keepsCount_ite hkept (keepsCount_refl u))) (still_deliverRsp ..) (phase_deliverRsp ..)

theorem keepsCount_agentRead {d : Dev} {q : Req} {op : ReadOp} (he : ∀ u, keepsCount u (op.effect u)) (s : State) :
    keepsCount s (agentRead d q op s) := keepsCount_takeRequest (keepsCount_serveRead he) s

theorem keepsCount_cellWrite {p : Nat} {op : WriteOp} (hk : op.KeepsCount) (s : State) : keepsCount s (cellWrite p op s) := by
  have ⟨happly, haccept, _⟩ := hk
  exact keepsCount_ite (keepsCount_refl s) (keepsCount_ite (keepsCount_ite (keepsCount_refl s) (keepsCount_park hk s))
    (keepsCount_trans (haccept s) (happly _)))

theorem keepsCount_takeCtrl {d : Dev} {p action : Nat} {op : Nat → WriteOp} {c : Cell} (hk : ∀ h, (op h).KeepsCount) (s : State) :
    keepsCount s (takeCtrl d p action op c s) := by
  unfold takeCtrl
  refine keepsCount_ite (keepsCount_refl s) ?_
  cases d with
  | fjz => exact keepsCount_ite (keepsCount_of (by simp) (by simp)) (keepsCount_refl s)
  | tsu =>
    refine keepsCount_ite (keepsCount_refl s) ?_
    split
    · exact keepsCount_cellWrite (hk _) s
    · exact keepsCount_refl s

theorem keepsCount_inTurn {c : Instr} {act : State → State} (h : ∀ u, keepsCount u (act u)) (s : State) : keepsCount s (inTurn c act s) :=
  keepsCount_ite (keepsCount_of rfl rfl) (h s)

/-! ## Cells, tokens and references -/

theorem keepsCount_receive {i : Instr} {d : Dev} {p : Nat} {types : List Nat} {c : Cell} {act : State → State}
    (h : ∀ u, keepsCount u (act u)) (s : State) : keepsCount s (receive i d p types c act s) := by
  refine keepsCount_inTurn (fun u => ?_) s
  have onPort_keeps (f : Port → Port) : keepsCount u (onPort d p f u) := keepsCount_of (by simp) (by simp)
  refine keepsCount_ite (keepsCount_refl u) (keepsCount_ite (onPort_keeps _) (keepsCount_ite (keepsCount_refl u) ?_))
  exact keepsCount_ite (h u) (keepsCount_ite (keepsCount_trans (onPort_keeps _) (h _)) (keepsCount_ite (onPort_keeps _) (keepsCount_refl u)))

theorem keepsCount_fromRegion {n q : Nat} {i : Instr} {act : State → State} (h : ∀ u, keepsCount u (act u)) (s : State) :
    keepsCount s (fromRegion n q i act s) := by
  have onRegion_keeps (f : Region → Region) : keepsCount s (onRegion n f s) := keepsCount_of (by simp) rfl
  unfold fromRegion
  refine keepsCount_ite (onRegion_keeps _) ?_
  split
  · exact keepsCount_trans (onRegion_keeps _) (h _)
  · exact keepsCount_ite (keepsCount_trans (onRegion_keeps _) (h _)) (onRegion_keeps _)

theorem keepsCount_withAdoption {f : State → State} (h : ∀ u, keepsCount u (f u)) (s : State) : keepsCount s (withAdoption f s) :=
  keepsCount_ite (keepsCount_then (h s) (still_adoptStandby _) (by simp [adoptStandby])) (h s)

/-! ## Reads -/

theorem keepsCount_rErrPop (d : Dev) (s : State) : keepsCount s ((rErrPop d).effect s) :=
  keepsCount_of (still_onErrs ..) (phase_onErrs ..)

theorem keepsCount_rTxtsPop (s : State) : keepsCount s (rTxtsPop.effect s) :=
  keepsCount_of (still_onTsu _ _ fun _ => rfl) rfl

theorem keepsCount_rRecPop (s : State) : keepsCount s (rRecPop.effect s) :=
  keepsCount_of (by simp [rRecPop]) rfl

theorem keepsCount_rRecWindowData (q : Req) (s : State) : keepsCount s ((rRecWindowData q).effect s) :=
  keepsCount_ite (keepsCount_refl s) (keepsCount_of (still_setSelector ..) (phase_setSelector ..))

theorem keepsCount_readOf (s : State) (d : Dev) (q : Req) (index sub : Nat) (u : State) :
    keepsCount u ((readOf s d q index sub).effect u) := by
  have checked (i : Nat) : keepsCount u (checkSlot false false i u) := keepsCount_of (still_checkSlot ..) (phase_checkSlot ..)
  unfold readOf
  split
  · exact keepsCount_rErrPop d u
  split
  · exact keepsCount_rTxtsPop u
  split
  · exact keepsCount_rRecPop u
  split
  · exact keepsCount_rRecWindowData q u
  dsimp only
  refine keepsCount_ite ?_ (keepsCount_refl u)
  split
  · exact checked _
  · exact keepsCount_refl u

theorem keepsCount_readAny (d : Dev) (q : Req) (index sub : Nat) (s : State) : keepsCount s (readAny d q index sub s) :=
  keepsCount_agentRead (keepsCount_readOf s d q index sub) s

theorem keepsCount_serveWindow (busSecure : Bool) (buf : Bytes) (s : State) : keepsCount s (serveWindow busSecure buf s) :=
  keepsCount_ite (keepsCount_writeAny ..) (keepsCount_readAny ..)

/-! ## The answer of a command -/

theorem keepsCount_perform {ok : Bool} {f : State → State} {s t : State} (h : perform ok f s = .next t) (hf : ∀ u, keepsCount u (f u)) :
    keepsCount s t := by
  obtain ⟨_, rfl⟩ := perform_cases h
  exact keepsCount_trans (t := s.fresh) (keepsCount_of rfl rfl) (keepsCount_then (hf s.fresh) (still_enterErrs _) (enterErrs_phase _))

theorem keepsCount_performOn {d : Dev} {ok : Bool} {f : State → State} {s t : State} (h : performOn d ok f s = .next t)
    (hf : ∀ u, keepsCount u (f u)) : keepsCount s t :=
  keepsCount_perform h fun u => keepsCount_ite (hf u) (keepsCount_refl u)

/-- A command whose effect is one write. -/
theorem keepsCount_write {ok : Bool} {d : Dev} {q : Req} {c : Instr} {op : WriteOp} {s t : State}
    (h : perform ok (inTurn c (agentWrite d q op)) s = .next t) (hk : op.KeepsCount) : keepsCount s t :=
  keepsCount_perform h (keepsCount_inTurn (keepsCount_agentWrite hk))

/-- A command whose effect is one read. -/
theorem keepsCount_read {d : Dev} {q : Req} {c : Instr} {op : ReadOp} {s t : State}
    (h : perform true (inTurn c (agentRead d q op)) s = .next t) (he : ∀ u, keepsCount u (op.effect u)) : keepsCount s t :=
  keepsCount_perform h (keepsCount_inTurn (keepsCount_agentRead he))

/-- A tine arrival of one kind: what acts on it keeps the count. -/
theorem keepsCount_arrivalOf {i : Instr} {p : Nat} {kind : BitVec 4} {c : Cell} {act : State → State} {s t : State}
    (h : arrivalOf i p kind c act s = .next t) (ha : ∀ u, keepsCount u (act u)) : keepsCount s t :=
  keepsCount_performOn h (keepsCount_receive fun u => keepsCount_ite (ha u) (keepsCount_refl u))

/-- A RESERVE cell of a downward pass: what acts on it keeps the count. -/
theorem keepsCount_downPass {i : Instr} {d : Dev} {p pass : Nat} {c : Cell} {chip die : State → State} {s t : State}
    (h : downPass i d p pass c chip die s = .next t) (hc : ∀ u, keepsCount u (chip u)) (hd : ∀ u, keepsCount u (die u)) :
    keepsCount s t := by
  refine keepsCount_performOn h (keepsCount_receive fun u => keepsCount_ite (keepsCount_refl u) ?_)
  cases d
  · exact hd u
  · exact keepsCount_ite (hc u) (keepsCount_refl u)

end Sys2Proof.Machine
end

section
/-! PROOFS. Each command keeps the counter but for a start, a reset and a self-test. -/

namespace Sys2Proof.Machine

section Commands

variable {s t : State}

theorem keepsCount_execIntStatus {v sameTick enable} (hn : execIntStatus v sameTick enable s = .next t) : keepsCount s t :=
  keepsCount_perform hn fun u => keepsCount_of (by simp) (by simp)

theorem keepsCount_execLcFuseProgrammed {d} (hn : execLcFuseProgrammed d s = .next t) : keepsCount s t := by
  refine keepsCount_perform hn fun u => ?_
  cases d
  · exact ⟨rfl, id⟩
  · exact ⟨rfl, id⟩

theorem keepsCount_execFjzResetRelease (hn : execFjzResetRelease s = .next t) : keepsCount s t :=
  keepsCount_perform hn fun u => keepsCount_of (by simp) (by simp)

theorem keepsCount_execFjzSelftestDone {failed waiter durationUs mgmtOk}
    (hn : execFjzSelftestDone failed waiter durationUs mgmtOk s = .next t) : keepsCount s t :=
  keepsCount_perform hn fun u => keepsCount_of (by simp) (by simp)

theorem keepsCount_execFirmwareLoaded {version} (hn : execFirmwareLoaded version s = .next t) : keepsCount s t :=
  keepsCount_perform hn fun u => keepsCount_of (by simp) (by simp)

theorem keepsCount_execMappingUpdateTick (hn : execMappingUpdateTick s = .next t) : keepsCount s t :=
  keepsCount_performOn hn fun u => keepsCount_of (by simp) (by simp)

theorem keepsCount_execHoldoverRelock {phaseErrPs} (hn : execHoldoverRelock phaseErrPs s = .next t) : keepsCount s t := by
  refine keepsCount_performOn hn fun u => ?_
  dsimp only
  repeat' split
  all_goals exact keepsCount_of (by simp) (by simp)

theorem keepsCount_execTsuPps (hn : execTsuPps s = .next t) : keepsCount s t :=
  keepsCount_performOn hn fun u => keepsCount_of (by simp) (by simp)

theorem keepsCount_execTempSample {mk uF} (hn : execTempSample mk uF s = .next t) : keepsCount s t := by
  refine keepsCount_performOn hn fun u => keepsCount_of (still_onTc _ _ fun tc => ?_) rfl
  dsimp only
  repeat' split
  all_goals simp

theorem keepsCount_execHoldModelValid (hn : execHoldModelValid s = .next t) : keepsCount s t := by
  refine keepsCount_performOn hn fun u => keepsCount_of (still_onTc _ _ fun tc => ?_) rfl
  repeat' split
  all_goals simp

theorem keepsCount_execLockSlow (hn : execLockSlow s = .next t) : keepsCount s t :=
  keepsCount_performOn hn fun u => keepsCount_of (by simp) (by simp)

theorem keepsCount_execSnapshotPeriodic {rccs} (hn : execSnapshotPeriodic rccs s = .next t) : keepsCount s t :=
  keepsCount_performOn hn fun u => keepsCount_of (by simp) (by simp)

theorem keepsCount_execStretchReport {region} (hn : execStretchReport region s = .next t) : keepsCount s t :=
  keepsCount_performOn hn fun u => keepsCount_of (by simp) (by simp)

theorem keepsCount_execNominalPeriodChange {region fs rcc} (hn : execNominalPeriodChange region fs rcc s = .next t) : keepsCount s t :=
  keepsCount_performOn hn fun u => keepsCount_of (by simp) (by simp)

theorem keepsCount_execMarginReading {region reading} (hn : execMarginReading region reading s = .next t) : keepsCount s t :=
  keepsCount_performOn hn fun u => keepsCount_of (by simp) (by simp)

theorem keepsCount_execQueueStall {region queue} (hn : execQueueStall region queue s = .next t) : keepsCount s t := by
  refine keepsCount_performOn hn fun u => ?_
  dsimp only
  repeat' split
  all_goals exact keepsCount_of (by simp) (by simp)

theorem keepsCount_execTrainComplete {d p loopback partner} (hn : execTrainComplete d p loopback partner s = .next t) : keepsCount s t :=
  keepsCount_performOn hn fun u => keepsCount_of (by simp) (by simp)

theorem keepsCount_execTrainFail {d p} (hn : execTrainFail d p s = .next t) : keepsCount s t :=
  keepsCount_performOn hn fun u => keepsCount_of (by simp) (by simp)

theorem keepsCount_execDownHoldExpiry {d p} (hn : execDownHoldExpiry d p s = .next t) : keepsCount s t :=
  keepsCount_performOn hn fun u => keepsCount_of (by simp) (by simp)

theorem keepsCount_execCodewordLock {d p cws} (hn : execCodewordLock d p cws s = .next t) : keepsCount s t :=
  keepsCount_performOn hn fun u => keepsCount_of (by simp) (by simp)

theorem keepsCount_execCodewordLockLost {d run} (hn : execCodewordLockLost d run s = .next t) : keepsCount s t :=
  keepsCount_performOn hn fun u => keepsCount_of (by simp) (by simp)

theorem keepsCount_execRemoteFault {d p} (hn : execRemoteFault d p s = .next t) : keepsCount s t :=
  keepsCount_performOn hn fun u => keepsCount_of (by simp) (by simp)

theorem keepsCount_execHello {d p c} (hn : execHello d p c s = .next t) : keepsCount s t :=
  keepsCount_performOn hn fun u => keepsCount_of (by simp) (by simp)

theorem keepsCount_execHelloSend {d p} (hn : execHelloSend d p s = .next t) : keepsCount s t :=
  keepsCount_performOn hn fun u => keepsCount_of (by simp) (by simp)

theorem keepsCount_execCodewordUncorrectable {d p before} (hn : execCodewordUncorrectable d p before s = .next t) : keepsCount s t :=
  keepsCount_performOn hn fun u => keepsCount_of (by simp) (by simp)

theorem keepsCount_execRetryReq {d p c} (hn : execRetryReq d p c s = .next t) : keepsCount s t :=
  keepsCount_performOn hn fun u => keepsCount_of (by simp) (by simp)

theorem keepsCount_execRetryReqRepeat {d p cw} (hn : execRetryReqRepeat d p cw s = .next t) : keepsCount s t :=
  keepsCount_performOn hn fun u => keepsCount_of (by simp) (by simp)

theorem keepsCount_execRetryExhausted {d p cw} (hn : execRetryExhausted d p cw s = .next t) : keepsCount s t :=
  keepsCount_performOn hn fun u => keepsCount_of (by simp) (by simp)

theorem keepsCount_execReplayBufferExpiry {d p cls lseq} (hn : execReplayBufferExpiry d p cls lseq s = .next t) : keepsCount s t :=
  keepsCount_performOn hn fun u => keepsCount_of (by simp) (by simp)

theorem keepsCount_execTimeDownSend {d p} (hn : execTimeDownSend d p s = .next t) : keepsCount s t :=
  keepsCount_performOn hn fun u => keepsCount_of (by simp) (by simp)

theorem keepsCount_execTimeDown {d p c t2} (hn : execTimeDown d p c t2 s = .next t) : keepsCount s t :=
  keepsCount_performOn hn fun u => keepsCount_of (by simp) (by simp)

theorem keepsCount_execTimeUpSend {d p t3} (hn : execTimeUpSend d p t3 s = .next t) : keepsCount s t :=
  keepsCount_performOn hn fun u => keepsCount_of (by simp) (by simp)

theorem keepsCount_execTimeUp {d p c t4 probeCw} (hn : execTimeUp d p c t4 probeCw s = .next t) : keepsCount s t :=
  keepsCount_performOn hn fun u => keepsCount_of (by simp) (by simp)

theorem keepsCount_execTimeReply {d p c} (hn : execTimeReply d p c s = .next t) : keepsCount s t := by
  refine keepsCount_performOn hn (keepsCount_receive fun u => ?_)
  dsimp only
  repeat' split
  all_goals exact keepsCount_of (by simp) (by simp)

theorem keepsCount_execLatencyRemeasure {d p txLat rxLat} (hn : execLatencyRemeasure d p txLat rxLat s = .next t) : keepsCount s t :=
  keepsCount_performOn hn fun u => keepsCount_of (by simp) (by simp)

theorem keepsCount_execLatMarkerSend {link sent} (hn : execLatMarkerSend link sent s = .next t) : keepsCount s t :=
  keepsCount_performOn hn fun u => keepsCount_of (by simp) (by simp)

theorem keepsCount_execLatMarker {link m arrival} (hn : execLatMarker link m arrival s = .next t) : keepsCount s t := by
  refine keepsCount_performOn hn fun u => ?_
  dsimp only
  repeat' split
  all_goals exact keepsCount_of (by simp) (by simp)

theorem keepsCount_execLatBaselineAuto {ends} (hn : execLatBaselineAuto ends s = .next t) : keepsCount s t :=
  keepsCount_performOn hn fun u => keepsCount_of (by simp) (by simp)

theorem keepsCount_execTxTimestamp {link tsId stamp} (hn : execTxTimestamp link tsId stamp s = .next t) : keepsCount s t :=
  keepsCount_performOn hn fun u => keepsCount_of (by simp) (by simp)

theorem keepsCount_execTxtsPop {q} (hn : execTxtsPop q s = .next t) : keepsCount s t :=
  keepsCount_read hn keepsCount_rTxtsPop

theorem keepsCount_execRefQualify {meas} (hn : execRefQualify meas s = .next t) : keepsCount s t :=
  keepsCount_performOn hn fun u => keepsCount_of (by simp) (by simp)

theorem keepsCount_execSwitchWindowEnd {deltaPs} (hn : execSwitchWindowEnd deltaPs s = .next t) : keepsCount s t := by
  refine keepsCount_performOn hn (keepsCount_withAdoption fun u => ?_)
  repeat' split
  all_goals exact keepsCount_of (by simp) (by simp)

theorem keepsCount_execHoldWtrExpiry (hn : execHoldWtrExpiry s = .next t) : keepsCount s t := by
  refine keepsCount_performOn hn (keepsCount_withAdoption fun u => keepsCount_of (still_onFjz _ _ fun x => ?_) rfl)
  dsimp only
  repeat' split
  all_goals simp

theorem keepsCount_execHoldUpdate {tempMk} (hn : execHoldUpdate tempMk s = .next t) : keepsCount s t := by
  refine keepsCount_performOn hn fun u => keepsCount_of (still_onFjz _ _ fun x => ?_) rfl
  dsimp only
  repeat' split
  all_goals simp

theorem keepsCount_execOcxoAgeingValid (hn : execOcxoAgeingValid s = .next t) : keepsCount s t := by
  refine keepsCount_performOn hn fun u => keepsCount_of (still_onFjz _ _ fun x => ?_) rfl
  repeat' split
  all_goals simp

theorem keepsCount_execPtpSync {e m t2} (hn : execPtpSync e m t2 s = .next t) : keepsCount s t :=
  keepsCount_performOn hn fun u => keepsCount_of (by simp) (by simp)

theorem keepsCount_execPtpFollowUp {e m} (hn : execPtpFollowUp e m s = .next t) : keepsCount s t :=
  keepsCount_performOn hn fun u => keepsCount_of (by simp) (by simp)

theorem keepsCount_execPtpAnnounce {e a} (hn : execPtpAnnounce e a s = .next t) : keepsCount s t :=
  keepsCount_performOn hn fun u => keepsCount_of (by simp) (by simp)

theorem keepsCount_execPtpDelayReqSend {e t3} (hn : execPtpDelayReqSend e t3 s = .next t) : keepsCount s t :=
  keepsCount_performOn hn fun u => keepsCount_of (by simp) (by simp)

theorem keepsCount_execPtpDelayResp {e m} (hn : execPtpDelayResp e m s = .next t) : keepsCount s t := by
  refine keepsCount_performOn hn fun u => ?_
  dsimp only
  repeat' split
  all_goals exact keepsCount_of (by simp) (by simp)

theorem keepsCount_execPtpAnnounceTimeout {e} (hn : execPtpAnnounceTimeout e s = .next t) : keepsCount s t :=
  keepsCount_performOn hn fun u => keepsCount_of (by simp) (by simp)

theorem keepsCount_execRefPpsEdge {cand stamp} (hn : execRefPpsEdge cand stamp s = .next t) : keepsCount s t :=
  keepsCount_performOn hn fun u => keepsCount_of (by simp) (by simp)

theorem keepsCount_execTodMessage {cand m} (hn : execTodMessage cand m s = .next t) : keepsCount s t := by
  refine keepsCount_performOn hn fun u => ?_
  dsimp only
  repeat' split
  all_goals exact keepsCount_of (by simp) (by simp)

theorem keepsCount_execRefClockLoss {cand} (hn : execRefClockLoss cand s = .next t) : keepsCount s t :=
  keepsCount_performOn hn fun u => keepsCount_of (by simp) (by simp)

theorem keepsCount_execEsmc {e ql} (hn : execEsmc e ql s = .next t) : keepsCount s t :=
  keepsCount_performOn hn fun u => keepsCount_of (by simp) (by simp)

theorem keepsCount_execEsmcTimeout {e} (hn : execEsmcTimeout e s = .next t) : keepsCount s t :=
  keepsCount_performOn hn fun u => keepsCount_of (by simp) (by simp)

theorem keepsCount_execRefOutPps {o} (hn : execRefOutPps o s = .next t) : keepsCount s t :=
  keepsCount_performOn hn fun u => keepsCount_of (by simp) (by simp)

theorem keepsCount_execBleatSend {d p} (hn : execBleatSend d p s = .next t) : keepsCount s t :=
  keepsCount_performOn hn fun u => keepsCount_of (by simp) (by simp)

theorem keepsCount_execBleat {d p c stamp} (hn : execBleat d p c stamp s = .next t) : keepsCount s t := by
  refine keepsCount_performOn hn (keepsCount_receive fun u => ?_)
  dsimp only
  repeat' split
  all_goals exact keepsCount_of (by simp) (by simp)

theorem keepsCount_execBleatTimeout {plane} (hn : execBleatTimeout plane s = .next t) : keepsCount s t :=
  keepsCount_performOn hn fun u => keepsCount_of (by simp) (by simp)

theorem keepsCount_execParentBleatTimeout {cand} (hn : execParentBleatTimeout cand s = .next t) : keepsCount s t :=
  keepsCount_performOn hn fun u => keepsCount_of (by simp) (by simp)

theorem keepsCount_execPlaneWtrExpiry (hn : execPlaneWtrExpiry s = .next t) : keepsCount s t := by
  refine keepsCount_performOn hn fun u => ?_
  dsimp only
  repeat' split
  all_goals exact keepsCount_of (by simp) (by simp)

theorem keepsCount_execPlaneDriftCheck (hn : execPlaneDriftCheck s = .next t) : keepsCount s t :=
  keepsCount_performOn hn fun u => keepsCount_of (by simp) (by simp)

theorem keepsCount_execPronkForward {p c} (hn : execPronkForward p c s = .next t) : keepsCount s t :=
  keepsCount_performOn hn fun u => keepsCount_of (by simp) (by simp)

theorem keepsCount_execPronkArm {p c} (hn : execPronkArm p c s = .next t) : keepsCount s t :=
  keepsCount_performOn hn fun u => keepsCount_of (by simp) (by simp)

theorem keepsCount_execPronkAck {p c} (hn : execPronkAck p c s = .next t) : keepsCount s t :=
  keepsCount_performOn hn fun u => keepsCount_of (by simp) (by simp)

theorem keepsCount_execPronkCommitDeadline {herd} (hn : execPronkCommitDeadline herd s = .next t) : keepsCount s t :=
  keepsCount_performOn hn fun u => keepsCount_of (by simp) (by simp)

theorem keepsCount_execPronkCommit {p c} (hn : execPronkCommit p c s = .next t) : keepsCount s t :=
  keepsCount_performOn hn fun u => keepsCount_of (by simp) (phase_pronkAtDie _ _ _ _ _ _ u (by simp) fun y v =>
    phase_takeFinal y c _ v fun w => by simp)

theorem keepsCount_execPronkAbort {p c} (hn : execPronkAbort p c s = .next t) : keepsCount s t :=
  keepsCount_performOn hn fun u => keepsCount_of (by simp) (phase_pronkAtDie _ _ _ _ _ _ u (by simp) fun y v =>
    phase_takeFinal y c _ v fun w => by simp)

theorem keepsCount_execPronkStep {p c} (hn : execPronkStep p c s = .next t) : keepsCount s t :=
  keepsCount_performOn hn fun u => keepsCount_of (by simp) (by simp)

theorem keepsCount_execPronkDecision {h} (hn : execPronkDecision h s = .next t) : keepsCount s t :=
  keepsCount_performOn hn fun u => keepsCount_of (by simp) (by simp)

theorem keepsCount_execPronkFire {h} (hn : execPronkFire h s = .next t) : keepsCount s t := by
  refine keepsCount_performOn hn (keepsCount_inTurn fun u => ?_)
  dsimp only
  repeat' split
  all_goals exact keepsCount_of (by simp) (by simp)

theorem keepsCount_execStepReleaseDeadline {h} (hn : execStepReleaseDeadline h s = .next t) : keepsCount s t := by
  refine keepsCount_performOn hn fun u => ?_
  dsimp only
  repeat' split
  all_goals exact keepsCount_of (by simp) (by simp)

theorem keepsCount_execStepLaunch {h rccs ecc} (hn : execStepLaunch h rccs ecc s = .next t) : keepsCount s t :=
  keepsCount_performOn hn fun u => keepsCount_of (by simp) (by simp)

theorem keepsCount_execStepNop {h ecc} (hn : execStepNop h ecc s = .next t) : keepsCount s t :=
  keepsCount_performOn hn fun u => keepsCount_of (by simp) (by simp)

theorem keepsCount_execStepLoop {h ecc} (hn : execStepLoop h ecc s = .next t) : keepsCount s t :=
  keepsCount_performOn hn fun u => keepsCount_of (by simp) (by simp)

theorem keepsCount_execStepEnd {h ecc} (hn : execStepEnd h ecc s = .next t) : keepsCount s t :=
  keepsCount_performOn hn fun u => keepsCount_of (by simp) (by simp)

theorem keepsCount_execDescriptorPass {h} (hn : execDescriptorPass h s = .next t) : keepsCount s t :=
  keepsCount_performOn hn fun u => keepsCount_of (by simp) (by simp)

theorem keepsCount_execRegionDone {region h abandoned rcc} (hn : execRegionDone region h abandoned rcc s = .next t) : keepsCount s t :=
  keepsCount_performOn hn fun u => keepsCount_of (by simp) (by simp)

theorem keepsCount_execStepOverrun {h step} (hn : execStepOverrun h step s = .next t) : keepsCount s t := by
  refine keepsCount_performOn hn (keepsCount_inTurn fun u => ?_)
  dsimp only
  repeat' split
  all_goals exact keepsCount_of (by simp) (by simp)

theorem keepsCount_execGateMissed {h} (hn : execGateMissed h s = .next t) : keepsCount s t := by
  refine keepsCount_performOn hn (keepsCount_inTurn fun u => ?_)
  dsimp only
  repeat' split
  all_goals exact keepsCount_of (by simp) (by simp)

theorem keepsCount_execGateTimeout {h} (hn : execGateTimeout h s = .next t) : keepsCount s t := by
  refine keepsCount_performOn hn (keepsCount_inTurn fun u => ?_)
  dsimp only
  repeat' split
  all_goals exact keepsCount_of (by simp) (by simp)

theorem keepsCount_execStepDesc {q v} (hn : execStepDesc q v s = .next t) : keepsCount s t :=
  keepsCount_perform hn (keepsCount_inTurn fun u => keepsCount_agentWrite (keepsCount_wStepDesc ..) u)

theorem keepsCount_execLedgerEntry {q v applyIter} (hn : execLedgerEntry q v applyIter s = .next t) : keepsCount s t :=
  keepsCount_perform hn (keepsCount_inTurn fun u => keepsCount_takeRequest (keepsCount_ledgerWrite (keepsCount_wLedgerEntry ..) v) u)

theorem keepsCount_execLedgerAdvPending {region entry amount} (hn : execLedgerAdvPending region entry amount s = .next t) :
    keepsCount s t :=
  keepsCount_performOn hn fun u => keepsCount_of (by simp) (by simp)

theorem keepsCount_execCtrAdd {tok ecc} (hn : execCtrAdd tok ecc s = .next t) : keepsCount s t :=
  keepsCount_performOn hn fun u => keepsCount_of (by simp) (by simp)

theorem keepsCount_execCtrSetbit {tok ecc} (hn : execCtrSetbit tok ecc s = .next t) : keepsCount s t :=
  keepsCount_performOn hn fun u => keepsCount_of (by simp) (by simp)

theorem keepsCount_execEventSet {tok ecc} (hn : execEventSet tok ecc s = .next t) : keepsCount s t :=
  keepsCount_performOn hn fun u => keepsCount_of (by simp) (by simp)

theorem keepsCount_execWatchRegister {region tok} (hn : execWatchRegister region tok s = .next t) : keepsCount s t :=
  keepsCount_performOn hn fun u => keepsCount_of (by simp) (by simp)

theorem keepsCount_execWatchRegisterDeferred {region} (hn : execWatchRegisterDeferred region s = .next t) : keepsCount s t := by
  refine keepsCount_performOn hn (keepsCount_inTurn fun u => ?_)
  dsimp only
  repeat' split
  all_goals exact keepsCount_of (by simp) (by simp)

theorem keepsCount_execWatchCancel {region tag} (hn : execWatchCancel region tag s = .next t) : keepsCount s t := by
  refine keepsCount_performOn hn (keepsCount_inTurn (keepsCount_fromRegion fun u => ?_))
  split
  all_goals exact keepsCount_of (by simp) (by simp)

theorem keepsCount_execWatchTimeout {slot} (hn : execWatchTimeout slot s = .next t) : keepsCount s t :=
  keepsCount_performOn hn fun u => keepsCount_of (by simp) (by simp)

theorem keepsCount_execWatchNotify (hn : execWatchNotify s = .next t) : keepsCount s t :=
  keepsCount_performOn hn fun u => keepsCount_of (by simp) (by simp)

theorem keepsCount_execBankDrained {region bank} (hn : execBankDrained region bank s = .next t) : keepsCount s t :=
  keepsCount_performOn hn fun u => keepsCount_of (by simp) (by simp)

theorem keepsCount_execBankDrainTimeout {region bank channel} (hn : execBankDrainTimeout region bank channel s = .next t) :
    keepsCount s t :=
  keepsCount_performOn hn fun u => keepsCount_of (by simp) (by simp)

theorem keepsCount_execBankWakeDone {region bank} (hn : execBankWakeDone region bank s = .next t) : keepsCount s t :=
  keepsCount_perform hn fun u => keepsCount_of (by simp) (by simp)

theorem keepsCount_execBankUnavailable {region bank h source} (hn : execBankUnavailable region bank h source s = .next t) :
    keepsCount s t :=
  keepsCount_performOn hn fun u => keepsCount_of (by simp) (by simp)

theorem keepsCount_execTineContribution {region part payload ecc} (hn : execTineContribution region part payload ecc s = .next t) :
    keepsCount s t :=
  keepsCount_performOn hn fun u => keepsCount_of (by simp) (by simp)

theorem keepsCount_execTineArrival {p c ecc} (hn : execTineArrival p c ecc s = .next t) : keepsCount s t :=
  keepsCount_performOn hn fun u => keepsCount_of (by simp) (by simp)

theorem keepsCount_execTineArrivalFailed {p c} (hn : execTineArrivalFailed p c s = .next t) : keepsCount s t :=
  keepsCount_arrivalOf hn fun u => keepsCount_of (by simp) (by simp)

theorem keepsCount_execTineResync {p c} (hn : execTineResync p c s = .next t) : keepsCount s t :=
  keepsCount_arrivalOf hn fun u => keepsCount_of (by simp) (by simp)

theorem keepsCount_execTineArrivalMove {p c} (hn : execTineArrivalMove p c s = .next t) : keepsCount s t :=
  keepsCount_arrivalOf hn fun u => keepsCount_of (by simp) (by simp)

theorem keepsCount_execTineTimeout {ctx next} (hn : execTineTimeout ctx next s = .next t) : keepsCount s t := by
  refine keepsCount_performOn hn (keepsCount_inTurn fun u => ?_)
  dsimp only
  repeat' split
  all_goals exact keepsCount_of (by simp) (by simp)

theorem keepsCount_execTineResultForward {p c} (hn : execTineResultForward p c s = .next t) : keepsCount s t :=
  keepsCount_performOn hn fun u => keepsCount_of (by simp) (by simp)

theorem keepsCount_execTineResult {p c} (hn : execTineResult p c s = .next t) : keepsCount s t :=
  keepsCount_performOn hn fun u => keepsCount_of (by simp) (by simp)

theorem keepsCount_execTineResultFailed {p c} (hn : execTineResultFailed p c s = .next t) : keepsCount s t :=
  keepsCount_performOn hn fun u => keepsCount_of (by simp) (by simp)

theorem keepsCount_execTineResultMove {p c} (hn : execTineResultMove p c s = .next t) : keepsCount s t :=
  keepsCount_performOn hn fun u => keepsCount_of (by simp) (by simp)

theorem keepsCount_execTineAbandon {p c} (hn : execTineAbandon p c s = .next t) : keepsCount s t :=
  keepsCount_performOn hn fun u => keepsCount_of (by simp) (by simp)

theorem keepsCount_execTineNotSent {h gate} (hn : execTineNotSent h gate s = .next t) : keepsCount s t := by
  refine keepsCount_performOn hn (keepsCount_inTurn fun u => ?_)
  dsimp only
  repeat' split
  all_goals exact keepsCount_of (by simp) (by simp)

theorem keepsCount_execIsolated {h gate} (hn : execIsolated h gate s = .next t) : keepsCount s t := by
  refine keepsCount_performOn hn (keepsCount_inTurn fun u => ?_)
  dsimp only
  repeat' split
  all_goals exact keepsCount_of (by simp) (by simp)

theorem keepsCount_execTemplateValidate {d q} (hn : execTemplateValidate d q s = .next t) : keepsCount s t :=
  keepsCount_perform hn (keepsCount_inTurn fun u => keepsCount_agentWrite (keepsCount_wTemplateValid ..) u)

theorem keepsCount_execTemplateErase {d q} (hn : execTemplateErase d q s = .next t) : keepsCount s t :=
  keepsCount_perform hn (keepsCount_inTurn fun u => keepsCount_agentWrite (keepsCount_wTemplateValid ..) u)

theorem keepsCount_execReserveRequest {d p c} (hn : execReserveRequest d p c s = .next t) : keepsCount s t :=
  keepsCount_downPass hn (fun u => keepsCount_of (by simp) (by simp)) fun u => keepsCount_of (by simp) (by simp)

theorem keepsCount_execReserveOutcome {p c} (hn : execReserveOutcome p c s = .next t) : keepsCount s t :=
  keepsCount_performOn hn fun u => keepsCount_of (by simp) (by simp)

theorem keepsCount_execReserveCommit {d p c} (hn : execReserveCommit d p c s = .next t) : keepsCount s t :=
  keepsCount_downPass hn (fun u => keepsCount_of (by simp) (by simp)) fun u => keepsCount_of (by simp) (by simp)

theorem keepsCount_execReserveRelease {d p c} (hn : execReserveRelease d p c s = .next t) : keepsCount s t :=
  keepsCount_downPass hn (fun u => keepsCount_of (by simp) (by simp)) fun u => keepsCount_of (by simp) (by simp)

theorem keepsCount_execReleaseQuery {d p c} (hn : execReleaseQuery d p c s = .next t) : keepsCount s t :=
  keepsCount_downPass hn (fun u => keepsCount_of (by simp) (by simp)) fun u => keepsCount_of (by simp) (by simp)

theorem keepsCount_execReserveTimeout (hn : execReserveTimeout s = .next t) : keepsCount s t := by
  refine keepsCount_performOn hn fun u => ?_
  dsimp only
  repeat' split
  all_goals exact keepsCount_of (by simp) (by simp)

theorem keepsCount_execFjouzWriteApply (hn : execFjouzWriteApply s = .next t) : keepsCount s t :=
  keepsCount_performOn hn fun u => keepsCount_of (by simp) (by simp)

theorem keepsCount_execHealthUpdate {symA symB} (hn : execHealthUpdate symA symB s = .next t) : keepsCount s t :=
  keepsCount_performOn hn fun u => keepsCount_of (by simp) (by simp)

theorem keepsCount_execHealthSample (hn : execHealthSample s = .next t) : keepsCount s t :=
  keepsCount_performOn hn fun u => keepsCount_of (by simp) (by simp)

theorem keepsCount_execSuspectReport {herd die health} (hn : execSuspectReport herd die health s = .next t) : keepsCount s t :=
  keepsCount_performOn hn fun u => keepsCount_of (by simp) (by simp)

theorem keepsCount_execClearReport {herd die health} (hn : execClearReport herd die health s = .next t) : keepsCount s t :=
  keepsCount_performOn hn fun u => keepsCount_of (by simp) (by simp)

theorem keepsCount_execReportFailed {q die} (hn : execReportFailed q die s = .next t) : keepsCount s t :=
  keepsCount_perform hn (keepsCount_inTurn fun u => keepsCount_agentWrite (keepsCount_wReportFailed ..) u)

theorem keepsCount_execFailConfirmExpiry {herd die} (hn : execFailConfirmExpiry herd die s = .next t) : keepsCount s t :=
  keepsCount_performOn hn fun u => keepsCount_of (by simp) (by simp)

theorem keepsCount_execQuarantineConvert {herd} (hn : execQuarantineConvert herd s = .next t) : keepsCount s t :=
  keepsCount_performOn hn fun u => keepsCount_of (by simp) (by simp)

theorem keepsCount_execStewardTakeover {herd} (hn : execStewardTakeover herd s = .next t) : keepsCount s t :=
  keepsCount_performOn hn fun u => keepsCount_of (by simp) (by simp)

theorem keepsCount_execSwapCtrlPlan {d p c} (hn : execSwapCtrlPlan d p c s = .next t) : keepsCount s t :=
  keepsCount_performOn hn (keepsCount_receive (keepsCount_takeCtrl fun _ => keepsCount_wSwapPlan ..))

theorem keepsCount_execSwapCtrlCancel {d p c} (hn : execSwapCtrlCancel d p c s = .next t) : keepsCount s t :=
  keepsCount_performOn hn (keepsCount_receive (keepsCount_takeCtrl fun _ => keepsCount_wSwapCancel ..))

theorem keepsCount_execSwapFetchLimit {h} (hn : execSwapFetchLimit h s = .next t) : keepsCount s t :=
  keepsCount_performOn hn fun u => keepsCount_of (by simp) (by simp)

theorem keepsCount_execSwapRefetchLaunch {h rccs} (hn : execSwapRefetchLaunch h rccs s = .next t) : keepsCount s t :=
  keepsCount_performOn hn fun u => keepsCount_of (by simp) (by simp)

theorem keepsCount_execHaltForward {p c} (hn : execHaltForward p c s = .next t) : keepsCount s t :=
  keepsCount_performOn hn fun u => keepsCount_of (by simp) (by simp)

theorem keepsCount_execHaltAt {p c} (hn : execHaltAt p c s = .next t) : keepsCount s t :=
  keepsCount_performOn hn fun u => keepsCount_of (by simp) (by simp)

theorem keepsCount_execHaltPause {p c} (hn : execHaltPause p c s = .next t) : keepsCount s t :=
  keepsCount_performOn hn fun u => keepsCount_of (by simp) (by simp)

theorem keepsCount_execHaltNowCell {p c} (hn : execHaltNowCell p c s = .next t) : keepsCount s t :=
  keepsCount_performOn hn fun u => keepsCount_of (by simp) (by simp)

theorem keepsCount_execErrPop {d q} (hn : execErrPop d q s = .next t) : keepsCount s t :=
  keepsCount_read hn (keepsCount_rErrPop d)

theorem keepsCount_execMeterPartWalk (hn : execMeterPartWalk s = .next t) : keepsCount s t :=
  keepsCount_performOn hn fun u => keepsCount_of (by simp) (by simp)

theorem keepsCount_execTenantInterval (hn : execTenantInterval s = .next t) : keepsCount s t :=
  keepsCount_performOn hn fun u => keepsCount_of (by simp) (by simp)

theorem keepsCount_execRecordSigned (hn : execRecordSigned s = .next t) : keepsCount s t := by
  refine keepsCount_performOn hn fun u => ?_
  repeat' split
  all_goals exact keepsCount_of (by simp) (by simp)

theorem keepsCount_execRecPop {q} (hn : execRecPop q s = .next t) : keepsCount s t :=
  keepsCount_read hn keepsCount_rRecPop

theorem keepsCount_execFinalRecordIssue (hn : execFinalRecordIssue s = .next t) : keepsCount s t :=
  keepsCount_performOn hn fun u => keepsCount_of (by simp) (by simp)

theorem keepsCount_execTapStagingDrain (hn : execTapStagingDrain s = .next t) : keepsCount s t :=
  keepsCount_performOn hn fun u => keepsCount_of (by simp) (by simp)

theorem keepsCount_execRecord {p c} (hn : execRecord p c s = .next t) : keepsCount s t :=
  keepsCount_performOn hn fun u => keepsCount_of (by simp) (by simp)

theorem keepsCount_execRecorderFrozen (hn : execRecorderFrozen s = .next t) : keepsCount s t :=
  keepsCount_performOn hn fun u => keepsCount_of (by simp) (by simp)

theorem keepsCount_execRecWindowData {q} (hn : execRecWindowData q s = .next t) : keepsCount s t :=
  keepsCount_read hn (keepsCount_rRecWindowData q)

theorem keepsCount_execReplayApply (hn : execReplayApply s = .next t) : keepsCount s t :=
  keepsCount_performOn hn fun u => keepsCount_of (by simp) (by simp)

theorem keepsCount_execReplayTimedApply (hn : execReplayTimedApply s = .next t) : keepsCount s t :=
  keepsCount_performOn hn fun u => keepsCount_of (by simp) (by simp)

theorem keepsCount_execReplayStall (hn : execReplayStall s = .next t) : keepsCount s t := by
  refine keepsCount_performOn hn fun u => ?_
  dsimp only
  repeat' split
  all_goals exact keepsCount_of (by simp) (by simp)

theorem keepsCount_execGo {busSecure msg} (hn : execGo busSecure msg s = .next t) : keepsCount s t := by
  refine keepsCount_performOn hn (keepsCount_inTurn fun u => keepsCount_ite (keepsCount_refl u) ?_)
  exact keepsCount_trans (t := onTsu _ u) (keepsCount_of rfl rfl) (keepsCount_serveWindow ..)

theorem keepsCount_execZdpRead {d q index sub} (hn : execZdpRead d q index sub s = .next t) : keepsCount s t :=
  keepsCount_perform hn (keepsCount_inTurn (keepsCount_readAny _ _ _ _))

theorem keepsCount_execRegisterWrite {d q index sub v} (hn : execRegisterWrite d q index sub v s = .next t) : keepsCount s t :=
  keepsCount_perform hn (keepsCount_inTurn (keepsCount_writeAny _ _ _ _ _))

theorem keepsCount_execDictRsp {p msg} (hn : execDictRsp p msg s = .next t) : keepsCount s t := by
  refine keepsCount_performOn hn fun u => ?_
  dsimp only
  repeat' split
  all_goals exact keepsCount_of (by simp) (by simp)

theorem keepsCount_execTunnelTimeout {p reqId} (hn : execTunnelTimeout p reqId s = .next t) : keepsCount s t := by
  refine keepsCount_performOn hn fun u => ?_
  repeat' split
  all_goals exact keepsCount_of (by simp) (by simp)

theorem keepsCount_execRemoteFaultCleared {d p} (hn : execRemoteFaultCleared d p s = .next t) : keepsCount s t :=
  keepsCount_performOn hn fun u => keepsCount_of (by simp) (by simp)

theorem keepsCount_execPronkCountSend {herd} (hn : execPronkCountSend herd s = .next t) : keepsCount s t :=
  keepsCount_performOn hn fun u => keepsCount_of (by simp) (by simp)

theorem keepsCount_execRegionTimeRead {region} (hn : execRegionTimeRead region s = .next t) : keepsCount s t := by
  refine keepsCount_performOn hn (keepsCount_fromRegion fun u => ?_)
  have hread : keepsCount u (timeRead region u).2 := by
    unfold timeRead
    dsimp only
    split
    · exact keepsCount_of (by simp) (by simp)
    · exact keepsCount_refl u
  refine keepsCount_trans hread ?_
  dsimp only
  split
  all_goals exact keepsCount_of (by simp) (by simp)

theorem keepsCount_execFjzResetAssert (hn : execFjzResetAssert s = .next t) : keepsCount s t :=
  keepsCount_perform hn fun u => keepsCount_of (by simp) (by simp)

end Commands

end Sys2Proof.Machine
end

section
/-! PROOFS. The counter counts spine ticks (O2): what every command and every step on an empty queue does to it. -/

namespace Sys2Proof.Machine

/-! ## Every command -/

/-- The commands of the block's start, its resets and its self-test: they act as they come. -/
def startsOrTests : Instr → Bool
  | .powerGood | .powerOnReset | .warmReset .. | .initDone .. | .postDone .. | .bistBlockDone .. => true
  | _ => false

/-- Every command but those keeps the count. -/
theorem exec_keepsCount {c : Instr} {s t : State} (hc : startsOrTests c = false) (hn : exec c s = .next t) : keepsCount s t := by
  cases c with
  | powerGood => cases hc
  | powerOnReset => cases hc
  | warmReset secure byRuavo => cases hc
  | initDone skewPs => cases hc
  | postDone failed waiter durationUs => cases hc
  | bistBlockDone testOk restoreOk waiter us => cases hc
  | bistStart q v bankBytes => exact keepsCount_write (show execBistStart q v bankBytes s = _ from hn) (keepsCount_wBistStart ..)
  | intStatus v sameTick enable => exact keepsCount_execIntStatus hn
  | lcProvision d q confirm => exact keepsCount_write (show execLcProvision d q confirm s = _ from hn) (keepsCount_wLcAdvance ..)
  | lcDeploy d q confirm => exact keepsCount_write (show execLcDeploy d q confirm s = _ from hn) (keepsCount_wLcAdvance ..)
  | lcReturn d q confirm => exact keepsCount_write (show execLcReturn d q confirm s = _ from hn) (keepsCount_wLcAdvance ..)
  | lcFuseProgrammed d => exact keepsCount_execLcFuseProgrammed hn
  | secKey d q key => exact keepsCount_write (show execSecKey d q key s = _ from hn) (keepsCount_wSecKey ..)
  | fjzResetRelease => exact keepsCount_execFjzResetRelease hn
  | fjzSelftestDone failed waiter durationUs mgmtOk => exact keepsCount_execFjzSelftestDone hn
  | firmwareLoaded version => exact keepsCount_execFirmwareLoaded hn
  | role q v => exact keepsCount_write (show execRole q v s = _ from hn) (keepsCount_wRole ..)
  | mappingUpdateTick => exact keepsCount_execMappingUpdateTick hn
  | holdoverRelock phaseErrPs => exact keepsCount_execHoldoverRelock hn
  | offset q v => exact keepsCount_write (show execOffset q v s = _ from hn) (keepsCount_wOffset ..)
  | rate q v => exact keepsCount_write (show execRate q v s = _ from hn) (keepsCount_wRate ..)
  | phaseStepPs q v => exact keepsCount_write (show execPhaseStepPs q v s = _ from hn) (keepsCount_wPhaseStep ..)
  | latchNow q v => exact keepsCount_write (show execLatchNow q v s = _ from hn) (keepsCount_wLatchNow ..)
  | tsuPps => exact keepsCount_execTsuPps hn
  | tempSample mk uF => exact keepsCount_execTempSample hn
  | holdModelValid => exact keepsCount_execHoldModelValid hn
  | lockSlow => exact keepsCount_execLockSlow hn
  | snapshotPeriodic rccs => exact keepsCount_execSnapshotPeriodic hn
  | snapshotReq q region v rcc => exact keepsCount_write (show execSnapshotReq q region v rcc s = _ from hn) (keepsCount_wSnapshotReq ..)
  | stretchReport region => exact keepsCount_execStretchReport hn
  | nominalPeriodChange region fs rcc => exact keepsCount_execNominalPeriodChange hn
  | marginReading region reading => exact keepsCount_execMarginReading hn
  | queueStall region queue => exact keepsCount_execQueueStall hn
  | marginBias q v => exact keepsCount_write (show execMarginBias q v s = _ from hn) (keepsCount_wMarginBias ..)
  | counterClear q v => exact keepsCount_write (show execCounterClear q v s = _ from hn) (keepsCount_wCounterClear ..)
  | portEnable d p q => exact keepsCount_write (show execPortEnable d p q s = _ from hn) (keepsCount_wPortEnable ..)
  | portDisable d p q => exact keepsCount_write (show execPortDisable d p q s = _ from hn) (keepsCount_wPortEnable ..)
  | trainComplete d p loopback partner => exact keepsCount_execTrainComplete hn
  | trainFail d p => exact keepsCount_execTrainFail hn
  | downHoldExpiry d p => exact keepsCount_execDownHoldExpiry hn
  | codewordLock d p cws => exact keepsCount_execCodewordLock hn
  | codewordLockLost d run => exact keepsCount_execCodewordLockLost hn
  | remoteFault d p => exact keepsCount_execRemoteFault hn
  | hello d p c => exact keepsCount_execHello hn
  | helloSend d p => exact keepsCount_execHelloSend hn
  | codewordUncorrectable d p before => exact keepsCount_execCodewordUncorrectable hn
  | retryReq d p c => exact keepsCount_execRetryReq hn
  | retryReqRepeat d p cw => exact keepsCount_execRetryReqRepeat hn
  | retryExhausted d p cw => exact keepsCount_execRetryExhausted hn
  | replayBufferExpiry d p cls lseq => exact keepsCount_execReplayBufferExpiry hn
  | timeDownSend d p => exact keepsCount_execTimeDownSend hn
  | timeDown d p c t2 => exact keepsCount_execTimeDown hn
  | timeUpSend d p t3 => exact keepsCount_execTimeUpSend hn
  | timeUp d p c t4 probeCw => exact keepsCount_execTimeUp hn
  | timeReply d p c => exact keepsCount_execTimeReply hn
  | latencyRemeasure d p txLat rxLat => exact keepsCount_execLatencyRemeasure hn
  | latMarkerSend link sent => exact keepsCount_execLatMarkerSend hn
  | latMarker link m arrival => exact keepsCount_execLatMarker hn
  | latBaselineCapture q v => exact keepsCount_write (show execLatBaselineCapture q v s = _ from hn) (keepsCount_wLatBaselineCapture ..)
  | latBaselineAuto ends => exact keepsCount_execLatBaselineAuto hn
  | txTimestamp link tsId stamp => exact keepsCount_execTxTimestamp hn
  | txtsPop q => exact keepsCount_execTxtsPop hn
  | txtsOverflowClear q v => exact keepsCount_write (show execTxtsOverflowClear q v s = _ from hn) (keepsCount_wTxtsOverflowClear ..)
  | refQualify meas => exact keepsCount_execRefQualify hn
  | switchWindowEnd deltaPs => exact keepsCount_execSwitchWindowEnd hn
  | realign q v => exact keepsCount_write (show execRealign q v s = _ from hn) (keepsCount_wRealign ..)
  | refType q cand v => exact keepsCount_write (show execRefType q cand v s = _ from hn) (keepsCount_wRefType ..)
  | refPriority q cand v => exact keepsCount_write (show execRefPriority q cand v s = _ from hn) (keepsCount_wRefPriority ..)
  | forceRef q v => exact keepsCount_write (show execForceRef q v s = _ from hn) (keepsCount_wForceRef ..)
  | freeServe q v => exact keepsCount_write (show execFreeServe q v s = _ from hn) (keepsCount_wFreeServe ..)
  | holdWtrExpiry => exact keepsCount_execHoldWtrExpiry hn
  | holdUpdate tempMk => exact keepsCount_execHoldUpdate hn
  | ocxoTable q v => exact keepsCount_write (show execOcxoTable q v s = _ from hn) (keepsCount_wOcxoTable ..)
  | ocxoAgeingValid => exact keepsCount_execOcxoAgeingValid hn
  | ptpSync e m t2 => exact keepsCount_execPtpSync hn
  | ptpFollowUp e m => exact keepsCount_execPtpFollowUp hn
  | ptpAnnounce e a => exact keepsCount_execPtpAnnounce hn
  | ptpDelayReqSend e t3 => exact keepsCount_execPtpDelayReqSend hn
  | ptpDelayResp e m => exact keepsCount_execPtpDelayResp hn
  | ptpAnnounceTimeout e => exact keepsCount_execPtpAnnounceTimeout hn
  | refPpsEdge cand stamp => exact keepsCount_execRefPpsEdge hn
  | todMessage cand m => exact keepsCount_execTodMessage hn
  | refClockLoss cand => exact keepsCount_execRefClockLoss hn
  | esmc e ql => exact keepsCount_execEsmc hn
  | esmcTimeout e => exact keepsCount_execEsmcTimeout hn
  | refOutPps o => exact keepsCount_execRefOutPps hn
  | bleatSend d p => exact keepsCount_execBleatSend hn
  | bleat d p c stamp => exact keepsCount_execBleat hn
  | bleatTimeout plane => exact keepsCount_execBleatTimeout hn
  | parentBleatTimeout cand => exact keepsCount_execParentBleatTimeout hn
  | planeWtrExpiry => exact keepsCount_execPlaneWtrExpiry hn
  | forcePlane q v => exact keepsCount_write (show execForcePlane q v s = _ from hn) (keepsCount_wForcePlane ..)
  | planeDriftCheck => exact keepsCount_execPlaneDriftCheck hn
  | planeOffsetRelease q v => exact keepsCount_write (show execPlaneOffsetRelease q v s = _ from hn) (keepsCount_wPlaneOffsetRelease ..)
  | planeConfig q v => exact keepsCount_write (show execPlaneConfig q v s = _ from hn) (keepsCount_wPlaneConfig ..)
  | pronkRequestArm q v => exact keepsCount_write (show execPronkRequestArm q v s = _ from hn) (keepsCount_wPronkRequest ..)
  | pronkRequestStep q v => exact keepsCount_write (show execPronkRequestStep q v s = _ from hn) (keepsCount_wPronkRequest ..)
  | pronkCancel q v => exact keepsCount_write (show execPronkCancel q v s = _ from hn) (keepsCount_wPronkRequest ..)
  | pronkForward p c => exact keepsCount_execPronkForward hn
  | pronkArm p c => exact keepsCount_execPronkArm hn
  | pronkAck p c => exact keepsCount_execPronkAck hn
  | pronkCommitDeadline herd => exact keepsCount_execPronkCommitDeadline hn
  | pronkCommit p c => exact keepsCount_execPronkCommit hn
  | pronkAbort p c => exact keepsCount_execPronkAbort hn
  | pronkStep p c => exact keepsCount_execPronkStep hn
  | pronkDecision h => exact keepsCount_execPronkDecision hn
  | pronkFire h => exact keepsCount_execPronkFire hn
  | stepReleaseDeadline h => exact keepsCount_execStepReleaseDeadline hn
  | stepLaunch h rccs ecc => exact keepsCount_execStepLaunch hn
  | stepNop h ecc => exact keepsCount_execStepNop hn
  | stepLoop h ecc => exact keepsCount_execStepLoop hn
  | stepEnd h ecc => exact keepsCount_execStepEnd hn
  | descriptorPass h => exact keepsCount_execDescriptorPass hn
  | regionDone region h abandoned rcc => exact keepsCount_execRegionDone hn
  | stepOverrun h step => exact keepsCount_execStepOverrun hn
  | gateMissed h => exact keepsCount_execGateMissed hn
  | gateTimeout h => exact keepsCount_execGateTimeout hn
  | loadCommit q h v => exact keepsCount_write (show execLoadCommit q h v s = _ from hn) (keepsCount_wLoadCommit ..)
  | unload q h v => exact keepsCount_write (show execUnload q h v s = _ from hn) (keepsCount_wUnload ..)
  | stepDesc q v => exact keepsCount_execStepDesc hn
  | ledgerEntry q v applyIter => exact keepsCount_execLedgerEntry hn
  | ledgerAdvPending region entry amount => exact keepsCount_execLedgerAdvPending hn
  | ctrAdd tok ecc => exact keepsCount_execCtrAdd hn
  | ctrSetbit tok ecc => exact keepsCount_execCtrSetbit hn
  | eventSet tok ecc => exact keepsCount_execEventSet hn
  | watchRegister region tok => exact keepsCount_execWatchRegister hn
  | watchRegisterDeferred region => exact keepsCount_execWatchRegisterDeferred hn
  | watchCancel region tag => exact keepsCount_execWatchCancel hn
  | watchTimeout slot => exact keepsCount_execWatchTimeout hn
  | watchNotify => exact keepsCount_execWatchNotify hn
  | syncReset q h v => exact keepsCount_write (show execSyncReset q h v s = _ from hn) (keepsCount_wSyncReset ..)
  | counterValue q v => exact keepsCount_write (show execCounterValue q v s = _ from hn) (keepsCount_wCounterValue ..)
  | eventState q v => exact keepsCount_write (show execEventState q v s = _ from hn) (keepsCount_wEventState ..)
  | eventOversignalClear q v =>
    exact keepsCount_write (show execEventOversignalClear q v s = _ from hn) (keepsCount_wEventOversignalClear ..)
  | bankDrained region bank => exact keepsCount_execBankDrained hn
  | bankDrainTimeout region bank channel => exact keepsCount_execBankDrainTimeout hn
  | bankWakeDone region bank => exact keepsCount_execBankWakeDone hn
  | bankUnavailable region bank h source => exact keepsCount_execBankUnavailable hn
  | tineContribution region part payload ecc => exact keepsCount_execTineContribution hn
  | tineArrival p c ecc => exact keepsCount_execTineArrival hn
  | tineArrivalFailed p c => exact keepsCount_execTineArrivalFailed hn
  | tineResync p c => exact keepsCount_execTineResync hn
  | tineArrivalMove p c => exact keepsCount_execTineArrivalMove hn
  | tineTimeout ctx next => exact keepsCount_execTineTimeout hn
  | tineResultForward p c => exact keepsCount_execTineResultForward hn
  | tineResult p c => exact keepsCount_execTineResult hn
  | tineResultFailed p c => exact keepsCount_execTineResultFailed hn
  | tineResultMove p c => exact keepsCount_execTineResultMove hn
  | tineAbandon p c => exact keepsCount_execTineAbandon hn
  | tineNotSent h gate => exact keepsCount_execTineNotSent hn
  | isolated h gate => exact keepsCount_execIsolated hn
  | templateValidate d q => exact keepsCount_execTemplateValidate hn
  | templateErase d q => exact keepsCount_execTemplateErase hn
  | treeReserve q v => exact keepsCount_write (show execTreeReserve q v s = _ from hn) (keepsCount_wTreeReserve ..)
  | treeReserveHome q v => exact keepsCount_write (show execTreeReserveHome q v s = _ from hn) (keepsCount_wTreeReserve ..)
  | treeRelease q v => exact keepsCount_write (show execTreeRelease q v s = _ from hn) (keepsCount_wTreeReserve ..)
  | reserveRequest d p c => exact keepsCount_execReserveRequest hn
  | reserveOutcome p c => exact keepsCount_execReserveOutcome hn
  | reserveCommit d p c => exact keepsCount_execReserveCommit hn
  | reserveRelease d p c => exact keepsCount_execReserveRelease hn
  | releaseQuery d p c => exact keepsCount_execReleaseQuery hn
  | reserveTimeout => exact keepsCount_execReserveTimeout hn
  | fjouzWriteApply => exact keepsCount_execFjouzWriteApply hn
  | pauseRequest q v => exact keepsCount_write (show execPauseRequest q v s = _ from hn) (keepsCount_wPauseRequest ..)
  | reepochCommit q h v => exact keepsCount_write (show execReepochCommit q h v s = _ from hn) (keepsCount_wReepochCommit ..)
  | drainAdopt q h v => exact keepsCount_write (show execDrainAdopt q h v s = _ from hn) (keepsCount_wDrainAdopt ..)
  | expel q h v => exact keepsCount_write (show execExpel q h v s = _ from hn) (keepsCount_wExpel ..)
  | healthUpdate symA symB => exact keepsCount_execHealthUpdate hn
  | mismatchIn q v => exact keepsCount_write (show execMismatchIn q v s = _ from hn) (keepsCount_wMismatchIn ..)
  | healthSample => exact keepsCount_execHealthSample hn
  | suspectReport herd die health => exact keepsCount_execSuspectReport hn
  | clearReport herd die health => exact keepsCount_execClearReport hn
  | reportFailed q die => exact keepsCount_execReportFailed hn
  | failConfirmExpiry herd die => exact keepsCount_execFailConfirmExpiry hn
  | quarantineConvert herd => exact keepsCount_execQuarantineConvert hn
  | stewardTakeover herd => exact keepsCount_execStewardTakeover hn
  | swapPlan q h v => exact keepsCount_write (show execSwapPlan q h v s = _ from hn) (keepsCount_wSwapPlan ..)
  | swapCancel q h v => exact keepsCount_write (show execSwapCancel q h v s = _ from hn) (keepsCount_wSwapCancel ..)
  | swapBroadcast q v => exact keepsCount_write (show execSwapBroadcast q v s = _ from hn) (keepsCount_wSwapBroadcast ..)
  | swapCtrlPlan d p c => exact keepsCount_execSwapCtrlPlan hn
  | swapCtrlCancel d p c => exact keepsCount_execSwapCtrlCancel hn
  | swapFetchLimit h => exact keepsCount_execSwapFetchLimit hn
  | swapRefetchLaunch h rccs => exact keepsCount_execSwapRefetchLaunch hn
  | haltForward p c => exact keepsCount_execHaltForward hn
  | haltAt p c => exact keepsCount_execHaltAt hn
  | haltPause p c => exact keepsCount_execHaltPause hn
  | haltNow d q v => exact keepsCount_write (show execHaltNow d q v s = _ from hn) (keepsCount_wHaltNow ..)
  | haltNowCell p c => exact keepsCount_execHaltNowCell hn
  | errPop d q => exact keepsCount_execErrPop hn
  | errOverflowClear d q v => exact keepsCount_write (show execErrOverflowClear d q v s = _ from hn) (keepsCount_wErrOverflowClear ..)
  | meterPartWalk => exact keepsCount_execMeterPartWalk hn
  | tenantInterval => exact keepsCount_execTenantInterval hn
  | tenantStatement q v => exact keepsCount_write (show execTenantStatement q v s = _ from hn) (keepsCount_wTenantStatement ..)
  | tenantClose q v => exact keepsCount_write (show execTenantClose q v s = _ from hn) (keepsCount_wTenantClose ..)
  | recordSigned => exact keepsCount_execRecordSigned hn
  | recPop q => exact keepsCount_execRecPop hn
  | finalRecordIssue => exact keepsCount_execFinalRecordIssue hn
  | meterSeal q v => exact keepsCount_write (show execMeterSeal q v s = _ from hn) (keepsCount_wSeal ..)
  | meterUnseal q v => exact keepsCount_write (show execMeterUnseal q v s = _ from hn) (keepsCount_wUnseal ..)
  | meterClear q v => exact keepsCount_write (show execMeterClear q v s = _ from hn) (keepsCount_wMeterClear ..)
  | tapStagingDrain => exact keepsCount_execTapStagingDrain hn
  | record p c => exact keepsCount_execRecord hn
  | recFreezeNow q v => exact keepsCount_write (show execRecFreezeNow q v s = _ from hn) (keepsCount_wRecFreezeNow ..)
  | recorderFrozen => exact keepsCount_execRecorderFrozen hn
  | recThaw q v => exact keepsCount_write (show execRecThaw q v s = _ from hn) (keepsCount_wRecThaw ..)
  | recWindowData q => exact keepsCount_execRecWindowData hn
  | replaySetup q v => exact keepsCount_write (show execReplaySetup q v s = _ from hn) (keepsCount_wReplaySetup ..)
  | replayRelease q v => exact keepsCount_write (show execReplayRelease q v s = _ from hn) (keepsCount_wReplayRelease ..)
  | replayFeed q v => exact keepsCount_write (show execReplayFeed q v s = _ from hn) (keepsCount_wReplayFeed ..)
  | replayEnd q v => exact keepsCount_write (show execReplayEnd q v s = _ from hn) (keepsCount_wReplayEnd ..)
  | replayApply => exact keepsCount_execReplayApply hn
  | replayTimedApply => exact keepsCount_execReplayTimedApply hn
  | replayStall => exact keepsCount_execReplayStall hn
  | forcedStretch q v => exact keepsCount_write (show execForcedStretch q v s = _ from hn) (keepsCount_wForcedStretch ..)
  | go busSecure msg => exact keepsCount_execGo hn
  | zdpRead d q index sub => exact keepsCount_execZdpRead hn
  | registerWrite d q index sub v => exact keepsCount_execRegisterWrite hn
  | dictRsp p msg => exact keepsCount_execDictRsp hn
  | tunnelTimeout p reqId => exact keepsCount_execTunnelTimeout hn
  | remoteFaultCleared d p => exact keepsCount_execRemoteFaultCleared hn
  | pronkCountSend herd => exact keepsCount_execPronkCountSend hn
  | regionTimeRead region => exact keepsCount_execRegionTimeRead hn
  | fjzResetAssert => exact keepsCount_execFjzResetAssert hn

/-! ## The commands of the start, the resets and the self-test -/

theorem frc_enterErrs (s : State) : (enterErrs s).tsu.tc.frc = s.tsu.tc.frc := frc_of_still (still_enterErrs s)

theorem frc_execPowerGood {s t : State} (h : execPowerGood s = .next t) : t.tsu.tc.frc = s.tsu.tc.frc := by
  obtain ⟨_, rfl⟩ := perform_cases h
  rw [frc_enterErrs]
  split
  · rfl
  · exact frc_of_still (still_startInit s.fresh)

theorem frc_execPowerOnReset {s t : State} (h : execPowerOnReset s = .next t) : t.tsu.tc.frc = 0 := by
  obtain ⟨_, rfl⟩ := perform_cases h
  rw [frc_enterErrs]
  rfl

theorem frc_execWarmReset {a b : Bool} {s t : State} (h : execWarmReset a b s = .next t) :
    t.tsu.tc.frc = s.tsu.tc.frc ∨ t.tsu.tc.frc = 0 := by
  obtain ⟨_, rfl⟩ := perform_cases h
  rw [frc_enterErrs]
  split
  · exact .inr (frc_of_still (still_startInit (dropWaiting .tsu (onTsu resetTsu s.fresh))))
  · exact .inl rfl

theorem frc_execInitDone {skewPs : U16} {s t : State} (h : execInitDone skewPs s = .next t) : t.tsu.tc.frc = s.tsu.tc.frc := by
  obtain ⟨_, rfl⟩ := perform_cases h
  rw [frc_enterErrs]
  dsimp only
  split
  · rfl
  · split
    · exact frc_of_still (still_raise ..)
    · rfl

theorem frc_execPostDone {failed : U8} {waiter us : U32} {s t : State} (h : execPostDone failed waiter us s = .next t) :
    t.tsu.tc.frc = s.tsu.tc.frc ∨ (t.tsu.tc.frc = 0 ∧ failed ≠ 0) := by
  obtain ⟨_, rfl⟩ := perform_cases h
  rw [frc_enterErrs]
  dsimp only
  split
  · exact .inl rfl
  · split
    · exact .inl (frc_of_still ((still_actEnable ..).trans (still_actEnable ..)))
    · next hf => exact .inr ⟨rfl, hf⟩

theorem frc_execBistBlockDone {a b : Bool} {waiter us : U32} {s t : State} (h : execBistBlockDone a b waiter us s = .next t) :
    t.tsu.tc.frc = s.tsu.tc.frc ∨ (t.tsu.tc.frc = 0 ∧ (a && b) = false) := by
  obtain ⟨_, rfl⟩ := perform_cases h
  rw [frc_enterErrs]
  dsimp only
  split
  · exact .inl rfl
  · split
    · next hfail => exact .inr ⟨rfl, (Bool.not_eq_true' _).mp hfail⟩
    · split
      · exact .inl rfl
      · exact .inl rfl

/-- What a command does to the counter (R27). -/
theorem exec_frc {c : Instr} {s t : State} (h : exec c s = .next t) :
    t.tsu.tc.frc = s.tsu.tc.frc ∨
      (t.tsu.tc.frc = 0 ∧
        (c = .powerOnReset ∨ (∃ a b, c = .warmReset a b) ∨ (∃ f w d, f ≠ 0 ∧ c = .postDone f w d) ∨
          ∃ a b w d, (a && b) = false ∧ c = .bistBlockDone a b w d)) := by
  rcases hc : startsOrTests c with _ | _
  · exact .inl (exec_keepsCount hc h).1
  cases c with
  | powerGood => exact .inl (frc_execPowerGood h)
  | powerOnReset => exact .inr ⟨frc_execPowerOnReset h, .inl rfl⟩
  | warmReset a b => exact (frc_execWarmReset h).imp_right fun h0 => ⟨h0, .inr (.inl ⟨a, b, rfl⟩)⟩
  | initDone skewPs => exact .inl (frc_execInitDone h)
  | postDone f w d => exact (frc_execPostDone h).imp_right fun ⟨h0, hf⟩ => ⟨h0, .inr (.inr (.inl ⟨f, w, d, hf, rfl⟩))⟩
  | bistBlockDone a b w d =>
    exact (frc_execBistBlockDone h).imp_right fun ⟨h0, hf⟩ => ⟨h0, .inr (.inr (.inr ⟨a, b, w, d, hf, rfl⟩))⟩
  | _ => cases hc

/-! ## What waits on the tick -/

/-- A command that has a place in its tick is none of the start, the resets and the self-test. -/
theorem startsOrTests_of_placeOf {c : Instr} (h : (placeOf c).isSome = true) : startsOrTests c = false := by
  cases c with
  | powerGood => cases h
  | powerOnReset => cases h
  | warmReset secure byRuavo => cases h
  | initDone skewPs => cases h
  | postDone failed waiter durationUs => cases h
  | bistBlockDone testOk restoreOk waiter us => cases h
  | _ => rfl

theorem keepsCount_runLater (c : Instr) (s : State) : keepsCount s (runLater c s) := by
  unfold runLater
  split
  · next hc =>
    split
    · next t h => exact keepsCount_trans (exec_keepsCount (startsOrTests_of_placeOf hc) h) (keepsCount_of rfl rfl)
    · exact keepsCount_refl s
    · exact keepsCount_refl s
  · exact keepsCount_refl s

theorem keepsCount_forAll {α : Type} {xs : List α} {f : α → State → State} (h : ∀ a u, keepsCount u (f a u)) (s : State) :
    keepsCount s (forAll xs f s) := by
  induction xs generalizing s with
  | nil => exact keepsCount_refl s
  | cons x xs ih => exact keepsCount_trans (h x s) (ih (f x s))

theorem keepsCount_releasePort (d : Dev) (p n : Nat) (s : State) : keepsCount s (releasePort d p n s) := by
  induction n generalizing s with
  | zero => exact keepsCount_refl s
  | succ n ih =>
    unfold releasePort
    split
    · exact keepsCount_trans (keepsCount_runLater _ s) (ih _)
    · exact keepsCount_refl s

theorem keepsCount_releaseHeld (s : State) : keepsCount s (releaseHeld s) :=
  keepsCount_forAll (fun d u => keepsCount_forAll (fun p v => keepsCount_releasePort d p _ v) u) s

theorem keepsCount_settle (s : State) : keepsCount s (settle s) := by
  have hout : keepsCount s { s with out := [] } := keepsCount_of rfl rfl
  have hheld := keepsCount_trans hout (keepsCount_releaseHeld { s with out := [] })
  have hlater (u : State) : keepsCount u { u with later := [] } := keepsCount_of rfl rfl
  exact keepsCount_trans (keepsCount_trans hheld (hlater _))
    (keepsCount_trans (keepsCount_forAll keepsCount_runLater _) (keepsCount_releaseHeld _))

/-! ## The tick -/

theorem keepsCount_applyDieWrite (w : PendingWrite) (s : State) : keepsCount s (applyDieWrite w s) :=
  keepsCount_then ((keepsCount_writeOf ..).1 s) (still_appliedRsp ..) (phase_appliedRsp ..)

theorem keepsCount_diePhase8 (s : State) : keepsCount s (diePhase8 s) :=
  keepsCount_trans (keepsCount_of (by simp) (by simp)) (keepsCount_forAll keepsCount_applyDieWrite _)

theorem keepsCount_endTick (s : State) : keepsCount s (endTick s) :=
  keepsCount_ite (keepsCount_trans (keepsCount_of (by simp) (by simp)) (keepsCount_diePhase8 _)) (keepsCount_refl s)

/-- One tick adds one to a counter that runs. -/
theorem frc_advanceDie {s : State} (h : counting s.tsu) : (advanceDie s).tsu.tc.frc = s.tsu.tc.frc + 1 := by
  obtain ⟨hreset, hhold⟩ := h
  unfold advanceDie
  rw [if_neg (not_or.mpr ⟨hreset, hhold⟩)]
  extract_lets before counted running gone metered slewed
  have hcounted : counted.tsu.tc.frc = s.tsu.tc.frc + 1 := by
    refine (frc_of_still (still_serveQueues _)).trans ?_
    rfl
  have hmetered : still metered = still counted := by
    simp [metered]
  have hslewed : still slewed = still metered := by
    simp [slewed]
  refine (frc_of_still ?_).trans hcounted
  refine Eq.trans ?_ (hslewed.trans hmetered)
  split
  · exact still_forAll _ _ _ fun p u => still_cellBoundary .tsu p u
  · rfl

theorem frc_tick {s : State} (h : counting s.tsu) : (tick s).tsu.tc.frc = s.tsu.tc.frc + 1 := by
  obtain ⟨hfrc, hruns⟩ := keepsCount_endTick s
  calc (tick s).tsu.tc.frc = (advanceDie (endTick s)).tsu.tc.frc := by rw [tick, frc_enterErrs, tsu_advanceChip]
    _ = (endTick s).tsu.tc.frc + 1 := frc_advanceDie (hruns h)
    _ = s.tsu.tc.frc + 1 := by rw [hfrc]

theorem frc_step_empty {s : State} (hp : s.pending = []) (h : counting s.tsu) :
    ∃ t, step s = .next t ∧ t.tsu.tc.frc = s.tsu.tc.frc + 1 := by
  obtain ⟨hfrc, hruns⟩ := keepsCount_settle s
  refine ⟨tick (settle s), by rw [step, hp], ?_⟩
  rw [frc_tick (hruns h), hfrc]

/-- Settles O2: every command but six keeps the counter and lets it run on, and so does what waits on a tick; of the six only those
that reset the time core move the counter. -/
theorem counterCountsSpineTicks : Obligations.CounterCountsSpineTicks :=
  ⟨rfl, fun _ hp hreset hhold => frc_step_empty hp ⟨hreset, hhold⟩, fun _ _ _ => exec_frc⟩

end Sys2Proof.Machine
end

section
/-! PROOFS. Hall time of a counter value (O13) and the tick on which a target fires (O14), on what rounding to nearest with ties to even
does (R29, R34). -/

namespace Sys2Proof.Machine

/-! ## Rounding to nearest, ties to even -/

/-- The quotient is rounded down or up, and the remainder says which. -/
theorem rne_cases (x : Int) (d : Nat) :
    (rne x d = x / d ∧ (2 * (x % d) < d ∨ (2 * (x % d) = d ∧ x / d % 2 = 0))) ∨
      (rne x d = x / d + 1 ∧ (d < 2 * (x % d) ∨ (2 * (x % d) = d ∧ x / d % 2 = 1))) := by
  unfold rne
  dsimp only
  split
  · exact .inl ⟨rfl, .inl ‹_›⟩
  split
  · exact .inr ⟨rfl, .inl ‹_›⟩
  split
  · exact .inl ⟨rfl, .inr (by omega)⟩
  · exact .inr ⟨rfl, .inr (by omega)⟩

/-- A rounded quotient is at most half a unit off, and where it is half a unit off it is even. -/
theorem rne_nearest_even (x : Int) {d : Nat} (hd : 0 < d) :
    2 * (rne x d * d - x).natAbs ≤ d ∧ (2 * (rne x d * d - x).natAbs = d → rne x d % 2 = 0) := by
  have hx : x = d * (x / d) + x % d := (Int.mul_ediv_add_emod x d).symm
  have hlo : 0 ≤ x % d := Int.emod_nonneg x (by omega)
  have hhi : x % d < d := Int.emod_lt_of_pos x (by omega)
  obtain ⟨hr, hm⟩ | ⟨hr, hm⟩ := rne_cases x d
  · have hoff : rne x d * d - x = -(x % d) := by
      rw [hr]
      linarith [mul_comm (d : Int) (x / d)]
    rw [hoff, hr]
    omega
  · have hoff : rne x d * d - x = d - x % d := by
      rw [hr]
      linarith [mul_comm (d : Int) (x / d), add_mul (x / d) 1 (d : Int)]
    rw [hoff, hr]
    omega

/-- The least number that rounds to a given one or above: half a unit below, and more than half below an odd one. -/
theorem le_rne_iff (k y : Int) : k ≤ rne y (2 ^ 24) ↔ k * 2 ^ 24 - 2 ^ 23 + k % 2 ≤ y := by
  obtain ⟨hr, hm⟩ | ⟨hr, hm⟩ := rne_cases y (2 ^ 24)
  · rw [hr]
    push_cast at hm ⊢
    omega
  · rw [hr]
    push_cast at hm ⊢
    omega

/-! ## O13 -/

theorem htAt_toNat {tc : TimeCore} {f : Nat} {x : Int}
    (hx : x = ((f : Int) * 65536 + tc.offset.toNat) * 2 ^ 24 + (f : Int) * tc.rate.toInt) (h0 : 0 ≤ x) (h1 : x < 2 ^ 103) :
    ((htAt tc f).toNat : Int) = rne x (2 ^ 24) := by
  have hr : 0 ≤ rne x (2 ^ 24) ∧ rne x (2 ^ 24) < 2 ^ 80 := by
    obtain ⟨hr, _⟩ | ⟨hr, _⟩ := rne_cases x (2 ^ 24)
    · rw [hr]
      push_cast
      omega
    · rw [hr]
      push_cast
      omega
  rw [htAt, htExact, ← hx, BitVec.toNat_ofInt]
  omega

/-- Settles O13: hall time is the rounded sum, which is at most half a unit off and even where it is half a unit off. -/
theorem hallTimeRoundsToNearestEven : Obligations.HallTimeRoundsToNearestEven := by
  refine ⟨fun tc f x hx h0 h1 => ?_, fun tc tc' f ho hr => by simp [htAt, htExact, ho, hr]⟩
  have hht := htAt_toNat hx h0 h1
  obtain ⟨hnear, heven⟩ := rne_nearest_even x (d := 2 ^ 24) (by decide)
  rw [hht]
  exact ⟨hnear, fun h => by have := heven h; omega⟩

/-! ## O14 -/

/-- Hall time of a counter value without its wrap, counted so that that of the present tick is HT itself. -/
def htUnwrapped (tc : TimeCore) (g : Nat) : Int := htExact tc g + (offsetInt tc - tc.offset.toNat)

/-- What OFFSET as a signed number adds is a whole number of wraps of hall time. -/
theorem offsetInt_wraps (tc : TimeCore) : ∃ k : Int, offsetInt tc - tc.offset.toNat = k * 2 ^ 80 := by
  refine ⟨-(htExact tc tc.frc.toNat / 2 ^ 80), ?_⟩
  rw [offsetInt, htAt, BitVec.toNat_ofInt]
  omega

theorem htAt_eq_ofInt (tc : TimeCore) (g : Nat) : htAt tc g = BitVec.ofInt 80 (htUnwrapped tc g) := by
  obtain ⟨k, hk⟩ := offsetInt_wraps tc
  refine BitVec.eq_of_toNat_eq ?_
  rw [htUnwrapped, hk, htAt, BitVec.toNat_ofInt, BitVec.toNat_ofInt]
  omega

theorem htUnwrapped_now (tc : TimeCore) : htUnwrapped tc tc.frc.toNat = (htAt tc tc.frc.toNat).toNat := by
  rw [htUnwrapped, offsetInt]
  omega

theorem toNat_htAt_of_no_wrap {tc : TimeCore} {g : Nat} (h0 : 0 ≤ htUnwrapped tc g) (h1 : htUnwrapped tc g < 2 ^ 80) :
    (htAt tc g).toNat = htUnwrapped tc g := by
  rw [htAt_eq_ofInt, BitVec.toNat_ofInt]
  omega

/-- A tick has reached a target as soon as its product of counter and rate has. -/
theorem le_htUnwrapped_iff (tc : TimeCore) (h : Int) (g : Nat) :
    h ≤ htUnwrapped tc g ↔ (h - offsetInt tc) * 2 ^ 24 - 2 ^ 23 + h % 2 ≤ (g : Int) * (2 ^ 40 + tc.rate.toInt) := by
  obtain ⟨k, hk⟩ := offsetInt_wraps tc
  have hround := le_rne_iff (h - k * 2 ^ 80) (((g : Int) * 65536 + tc.offset.toNat) * 2 ^ 24 + (g : Int) * tc.rate.toInt)
  have hsum : (g : Int) * (2 ^ 40 + tc.rate.toInt) = g * 2 ^ 40 + g * tc.rate.toInt := mul_add ..
  rw [htUnwrapped, hk, htExact, hsum]
  generalize (g : Int) * tc.rate.toInt = p at hround ⊢
  omega

/-- The tick of a target is the first of those whose product has reached its own. -/
theorem tickOf_le_iff {tc : TimeCore} (hr : tc.rate.toInt.natAbs ≤ 2 ^ 28) (h : HT) (g : Nat) :
    tickOf tc h ≤ g ↔ (h.toNat - offsetInt tc) * 2 ^ 24 - 2 ^ 23 + (h.toNat : Int) % 2 ≤ (g : Int) * (2 ^ 40 + tc.rate.toInt) := by
  have hbit : (b2n (bitOf h 0) : Int) = (h.toNat : Int) % 2 := by
    unfold b2n bitOf
    rw [← BitVec.testBit_toNat, Nat.testBit_zero]
    split <;> simp_all <;> omega
  have hd : 0 < (2 : Int) ^ 40 + tc.rate.toInt := by omega
  unfold tickOf
  dsimp only
  rw [hbit]
  generalize (2 : Int) ^ 40 + tc.rate.toInt = d at hd ⊢
  generalize ((h.toNat : Int) - offsetInt tc) * 2 ^ 24 - 2 ^ 23 + (h.toNat : Int) % 2 = x
  have hup : (x + d - 1) / d < g + 1 ↔ x + d - 1 < (g + 1) * d := Int.ediv_lt_iff_lt_mul hd
  rw [add_mul, one_mul] at hup
  rw [Int.toNat_le]
  omega

/-- Settles O14: a tick is at or after the target's exactly where its hall time has reached the target. -/
theorem targetFiresOnTheFirstTick : Obligations.TargetFiresOnTheFirstTick := by
  intro tc h hr
  have hreach (g : Nat) : tickOf tc h ≤ g ↔ (h.toNat : Int) ≤ htUnwrapped tc g := by
    rw [tickOf_le_iff hr, le_htUnwrapped_iff]
  exact ⟨htUnwrapped_now tc, htAt_eq_ofInt tc, fun g => toNat_htAt_of_no_wrap, (hreach _).mp le_rfl,
    fun g hg => not_le.mp fun hle => absurd ((hreach g).mpr hle) (not_le.mpr hg)⟩

end Sys2Proof.Machine
end

section
/-! PROOFS. Writes of the mapping and LATCH_NOW (O16), and the writes of RATE that are refused (O15). -/

namespace Sys2Proof

open Machine

/-! ## The time core of a die that answers a request -/

@[simp] theorem answered_tc (q : Req) (i j st : Nat) (s : State) : (answered .tsu q i j st s).tsu.tc = s.tsu.tc := by
  simp [answered]

@[simp] theorem heard_tc (q : Req) (s : State) : (heard q s).tsu.tc = s.tsu.tc := heard_keeps (·.tsu.tc) (fun _ _ _ => rfl) q s

@[simp] theorem mappingWritable_heard (q : Req) (s : State) : mappingWritable (heard q s).tsu = mappingWritable s.tsu :=
  heard_keeps (mappingWritable ·.tsu) (fun _ _ _ => rfl) q s

/-! ## A write out of range -/

/-- A write that its range refuses is taken by none of the checks (R321). -/
theorem writeStatus_ne_ok {d : Dev} {q : Req} {op : WriteOp} {s : State} (hr : op.range s = false) : writeStatus s d q op ≠ stOk := by
  unfold writeStatus
  dsimp only
  split
  · assumption
  rw [hr]
  repeat' split
  all_goals simp_all [stNoObject, stAccess, stWorld, stSealed, stLength, stState, stRange, stOk]

/-- A write that is out of range in every state leaves the time core as it was, whatever becomes of the request. -/
theorem agentWrite_out_of_range_tc {q : Req} {op : WriteOp} (hr : ∀ u, op.range u = false) (href : op.refuse = id) (s : State) :
    (agentWrite .tsu q op s).tsu.tc = s.tsu.tc := by
  refine tc_takeRequest_die _ _ _ _ _ _ fun u => ?_
  unfold serveWrite
  dsimp only
  split
  · exact tc_repeatRsp_die ..
  · rw [if_pos (writeStatus_ne_ok (hr u)), href]
    simp

theorem exec_rate (q : Req) (v : I64) (s : State) : exec (.rate q v) s =
    perform true (inTurn (.rate q v) (agentWrite .tsu q (wRate v))) s := rfl

theorem wRate_range {v : I64} (hv : 2 ^ 28 < v.toInt.natAbs) (s : State) : (wRate v).range s = false :=
  decide_eq_false (Nat.not_le.mpr hv)

/-- A write of RATE out of range moves nothing of the time core. -/
theorem rate_out_of_range_tc {q : Req} {v : I64} (hv : 2 ^ 28 < v.toInt.natAbs) (s : State) :
    ∃ t, exec (.rate q v) s = .next t ∧ t.tsu.tc = s.tsu.tc := by
  refine ⟨_, (exec_rate q v s).trans (perform_true ..), ?_⟩
  rw [enterErrs_tc, tc_inTurn _ _ _ (agentWrite_out_of_range_tc (wRate_range hv) rfl)]
  rfl

theorem rate_refused {q : Req} {v : I64} {s : State} (hv : 2 ^ 28 < v.toInt.natAbs)
    (h : admits .tsu q 0x2140 4 .rws (bvBytes v) s = true) (hw : mappingWritable s.tsu = true) :
    exec (.rate q v) s = .next (answered .tsu q 0x2140 4 stRange (taken .tsu q s)) := by
  rw [exec_rate, agentWrite_refuses rfl (op := wRate v) h rfl (.inl rfl) rfl
    (.inr ⟨by simp [wRate, hw], wRate_range hv _, rfl⟩), enterErrs_nil (by simp [wRate])]
  rfl

/-! ## Writes that are taken -/

theorem rate_takes {q : Req} {v : I64} {s : State} (hv : v.toInt.natAbs ≤ 2 ^ 28)
    (h : admits .tsu q 0x2140 4 .rws (bvBytes v) s = true) (hw : mappingWritable s.tsu = true) :
    exec (.rate q v) s = .next (answered .tsu q 0x2140 4 stOk (onTc (setRate v) (taken .tsu q s))) := by
  rw [exec_rate, agentWrite_takes rfl (op := wRate v) h rfl (.inl rfl) rfl (by simp [wRate, hw]) (decide_eq_true hv) rfl rfl rfl,
    enterErrs_nil (by simp [wRate])]
  rfl

/-- Settles O15: a write out of range is refused whatever else it meets; one in range is taken where R33 admits it. -/
theorem rateOutOfRangeIsRefused : Obligations.RateOutOfRangeIsRefused := by
  refine ⟨fun q v s hv => ?_, fun q v s => rate_refused, fun q v s hv h hw => ⟨_, rate_takes hv h hw, ?_⟩⟩
  · obtain ⟨t, hexec, htc⟩ := rate_out_of_range_tc hv s
    exact ⟨t, hexec, by rw [htc], by rw [htc]⟩
  · rw [answered_tc]
    rfl

theorem exec_offset (q : Req) (v : HT) (s : State) : exec (.offset q v) s =
    perform true (inTurn (.offset q v) (agentWrite .tsu q (wOffset v))) s := rfl

theorem offset_takes {q : Req} {v : HT} {s : State} (h : admits .tsu q 0x2140 2 .rws (bvBytes v) s = true)
    (hw : mappingWritable s.tsu = true) :
    exec (.offset q v) s = .next (answered .tsu q 0x2140 2 stOk (onTc (fun tc => { tc with offset := v }) (taken .tsu q s))) := by
  rw [exec_offset, agentWrite_takes rfl (op := wOffset v) h rfl (.inl rfl) rfl (by simp [wOffset, hw]) rfl rfl rfl rfl,
    enterErrs_nil (by simp [wOffset])]
  rfl

theorem offset_refused {q : Req} {v : HT} {s : State} (h : admits .tsu q 0x2140 2 .rws (bvBytes v) s = true)
    (hw : mappingWritable s.tsu = false) : exec (.offset q v) s = .next (answered .tsu q 0x2140 2 stState (taken .tsu q s)) := by
  rw [exec_offset, agentWrite_refuses rfl (op := wOffset v) h rfl (.inl rfl) rfl (.inl ⟨by simp [wOffset, hw], rfl⟩),
    enterErrs_nil (by simp [wOffset])]
  rfl

theorem exec_phaseStepPs (q : Req) (v : I64) (s : State) : exec (.phaseStepPs q v) s =
    perform true (inTurn (.phaseStepPs q v) (agentWrite .tsu q (wPhaseStep v))) s := rfl

/-- A phase step is taken while LOCKED and where R33 admits it. -/
theorem phaseStep_takes {q : Req} {v : I64} {s : State} (hv : v.toInt.natAbs ≤ 1000000)
    (h : admits .tsu q 0x2160 1 .rws (bvBytes v) s = true) (hw : s.tsu.tc.state = .locked ∨ mappingWritable s.tsu = true) :
    exec (.phaseStepPs q v) s = .next (answered .tsu q 0x2160 1 stOk ((wPhaseStep v).apply (taken .tsu q s))) := by
  rw [exec_phaseStepPs, agentWrite_takes rfl (op := wPhaseStep v) h rfl (.inl rfl) rfl (by simp [wPhaseStep, hw]) (decide_eq_true hv)
    rfl rfl rfl, enterErrs_nil (by simp [wPhaseStep])]
  rfl

/-- Where R33 admits a write of the mapping the die is not LOCKED. -/
theorem not_locked_of_mappingWritable {t : Tsu} (h : mappingWritable t = true) : t.tc.state ≠ .locked := by
  intro hl
  simp [mappingWritable, mappingFree, hl] at h

theorem phaseStep_adds {v : I64} {s : State} (hl : s.tsu.tc.state ≠ .locked) :
    (wPhaseStep v).apply s = onTc (fun tc => addPhase v.toInt { tc with phaseStep := v }) s := by
  simp [wPhaseStep, onTc, onTsu, hl]

theorem phaseStep_slews {v : I64} {s : State} (hl : s.tsu.tc.state = .locked) :
    (wPhaseStep v).apply s = onTc (fun tc => { tc with phaseStep := v, slewRemaining := tc.slewRemaining + v }) s := by
  simp [wPhaseStep, onTc, onTsu, hl]

theorem exec_latchNow (q : Req) (v : U8) (s : State) : exec (.latchNow q v) s =
    perform true (inTurn (.latchNow q v) (agentWrite .tsu q (wLatchNow v))) s := rfl

/-- Counter and hall time of the tick are latched together (R33). -/
def latchNow (t : Tsu) : Tsu := { t with tc := { t.tc with latchedFrc := t.tc.frc, latchedHt := t.now } }

theorem latchNow_takes {q : Req} {s : State} (h : admits .tsu q 0x2140 5 .wo [1] s = true) :
    exec (.latchNow q 1) s = .next (answered .tsu q 0x2140 5 stOk
      (onTc (fun tc => { tc with latchedFrc := s.tsu.tc.frc, latchedHt := s.tsu.now }) (taken .tsu q s))) := by
  have htakes := boolCommand_takes (c := .latchNow q 1) (f := onTsu latchNow) rfl h fun _ => rfl
  refine (exec_latchNow q 1 s).trans (htakes.trans ?_)
  simp only [latchNow, onTc, onTsu, Tsu.now, taken_tc]

/-- Settles O16, each write by what its object does where it is taken. -/
theorem mappingWrites : Obligations.MappingWrites := by
  refine ⟨fun q v s => offset_takes, fun q v s => offset_refused, fun q v s h hw hv => rate_takes hv h hw,
    fun q v s h hw hv => ?_, fun q v s h hl hv => ?_, fun q s => latchNow_takes⟩
  · rw [phaseStep_takes hv h (.inr hw), phaseStep_adds (by simpa using not_locked_of_mappingWritable hw)]
    rfl
  · rw [phaseStep_takes hv h (.inl hl), phaseStep_slews (by simpa using hl)]

end Sys2Proof
end

section
/-! PROOFS. The pulse per second (O17), mapping updates, HOLDOVER and lock (O18). -/

namespace Sys2Proof

open Machine

/-- A command to a die that works. -/
theorem performOn_die {f : State → State} {s : State} (hw : s.tsu.works = true) : performOn .tsu true f s = .next (enterErrs (f s.fresh)) :=
  performOn_works rfl hw

/-! ## The pulse (R42, R334) -/

theorem pinPps_low {t : Tsu} (h : t.tc.ppsUntil ≤ t.tc.frc.toNat) : pinPps t = false := by
  simp [pinPps, Nat.not_lt.mpr h]

theorem pinPps_high {t : Tsu} (hw : t.works = true) (hs : t.tc.state = .locked ∨ t.tc.state = .holdover)
    (hn : t.tc.frc.toNat < t.tc.ppsUntil) : pinPps t = true := by
  unfold Tsu.works at hw
  simp only [pinPps, hn, hs, hw, decide_true, Bool.and_self]

theorem exec_tsuPps {s : State} (hw : s.tsu.works = true) : exec .tsuPps s = .next (enterErrs (onTsu (fun t =>
    if (t.tc.state = .locked ∨ t.tc.state = .holdover) ∧ nsOf t.now % 1000000000 = 0 ∧ t.tc.ppsUntil ≤ t.tc.frc.toNat then
      { t with tc := { t.tc with ppsUntil := t.tc.frc.toNat + 100000 } }
    else t) s.fresh)) := performOn_die hw

/-- Settles O17: the pin is low without a pulse under way, and a pulse begins where R42 says and nowhere else. -/
theorem pulsePerSecond : Obligations.PulsePerSecond := by
  refine ⟨fun t h => by simp [pinPps, h], fun s hw hdue => ⟨fun hs hsec => ?_, fun hno => ⟨?_, pinPps_low hdue⟩⟩⟩
  · refine ⟨_, exec_tsuPps hw, ?_⟩
    rw [enterErrs_nil rfl]
    simp only [onTsu, fresh_tsu, hs, hsec, hdue, and_self, if_true]
    exact ⟨pinPps_high hw hs (by simp), trivial⟩
  · have hskip : ¬((s.tsu.tc.state = .locked ∨ s.tsu.tc.state = .holdover) ∧ nsOf s.tsu.now % 1000000000 = 0 ∧
        s.tsu.tc.ppsUntil ≤ s.tsu.tc.frc.toNat) := fun ⟨hs, hsec, _⟩ => hno.elim (absurd hs) (absurd hsec)
    rw [exec_tsuPps hw, enterErrs_nil rfl]
    simp only [onTsu, fresh_tsu, hskip, if_false]
    rfl

/-! ## A mapping update (R36, R37, R53, R54) -/

/-- Rate and bound of HOLDOVER, and the parked targets, on a mapping update. -/
def remapped (s : State) : State := onTsu unparkAll (onTc holdUpdate s)

/-- Past the exit limit the die is a fawn, and leaves its herds. -/
def departPastLimit (s : State) : State :=
  if s.tsu.tc.state = .holdover ∧ s.tsu.tc.holdLimit.toNat < s.tsu.tc.holdBound.toNat then
    departHerds byHoldover (onTsu (fun t => { t with fawn := true }) s)
  else s

theorem exec_mappingUpdateTick {s : State} (hw : s.tsu.works = true) (hf : s.tsu.tc.frc.toNat % 2 ^ 20 = 0) :
    exec .mappingUpdateTick s = .next (enterErrs (departPastLimit (remapped s.fresh))) := by
  have hdue : ¬s.fresh.tsu.tc.frc.toNat % mapPeriod ≠ 0 := not_not_intro hf
  show execMappingUpdateTick s = _
  rw [execMappingUpdateTick, performOn_die hw, if_neg hdue]
  rfl

@[simp] theorem remapped_tc (s : State) : (remapped s).tsu.tc = holdUpdate s.tsu.tc := rfl

@[simp] theorem departPastLimit_tc (s : State) : (departPastLimit s).tsu.tc = s.tsu.tc := by
  unfold departPastLimit
  split
  · exact tc_departHerds ..
  · rfl

theorem holdUpdate_elsewhere {tc : TimeCore} (h : tc.state ≠ .holdover) : holdUpdate tc = tc := if_pos (.inl h)

@[simp] theorem holdUpdate_state (tc : TimeCore) : (holdUpdate tc).state = tc.state := by
  unfold holdUpdate
  split <;> rfl

theorem mappingUpdate_unparks {s : State} (hw : s.tsu.works = true) (hf : s.tsu.tc.frc.toNat % 2 ^ 20 = 0)
    (hs : s.tsu.tc.state ≠ .holdover) : exec .mappingUpdateTick s = .next { s.fresh with tsu := unparkAll s.tsu } := by
  have hmap : remapped s.fresh = { s.fresh with tsu := unparkAll s.tsu } := by
    simp only [remapped, onTc, onTsu, fresh_tsu, holdUpdate_elsewhere hs]
  rw [exec_mappingUpdateTick hw hf, hmap, departPastLimit, if_neg fun h => hs h.1, enterErrs_nil rfl]

/-- A limited change is at most 64 units of 2^-40, which is 2^-34. -/
theorem limitedRate_near (old target : Int) : (limitedRate old target - old).natAbs ≤ 64 := by
  unfold limitedRate
  split <;> omega

theorem toInt_i64 {x : Int} (h : x.natAbs < 2 ^ 63) : (i64 x).toInt = x := by
  rw [i64, BitVec.toInt_ofInt, Int.bmod_eq_of_le] <;> omega

/-- In HOLDOVER a mapping update moves an accepted rate by at most 2^-34. -/
theorem holdUpdate_rate {tc : TimeCore} (hs : tc.state = .holdover) (hr : tc.regained = false) (hb : tc.rate.toInt.natAbs ≤ 2 ^ 28) :
    ((holdUpdate tc).rate.toInt - tc.rate.toInt).natAbs ≤ 64 := by
  have hnear := limitedRate_near tc.rate.toInt (holdRate tc)
  have hrate : (holdUpdate tc).rate = i64 (limitedRate tc.rate.toInt (holdRate tc)) := by
    simp [holdUpdate, hs, hr, setRate]
  rw [hrate, toInt_i64 (by omega)]
  exact hnear

/-! ## Departure (R54) -/

/-- An element that a walk over a table keeps other than the reset element is read as the walk changed it. -/
theorem Tbl.get_mapAll_of_ne {α : Type} [DecidableEq α] {d : α} {t : Tbl α} {f : Nat → α → α} {k : Nat} (h : Tbl.get d t k ≠ d)
    (hf : f k (Tbl.get d t k) ≠ d) : Tbl.get d (Tbl.mapAll d t f) k = f k (Tbl.get d t k) := by
  induction t with
  | nil => exact absurd rfl h
  | cons e t ih =>
    obtain ⟨i, x⟩ := e
    by_cases hi : i = k
    · subst hi
      simp only [Tbl.get, if_true] at hf ⊢
      simp [Tbl.mapAll, hf, Tbl.get]
    · simp only [Tbl.get, hi, if_false] at h hf ⊢
      rw [← ih h hf]
      by_cases hd : f i x = d
      · simp [Tbl.mapAll, hd]
      · simp [Tbl.mapAll, hd, Tbl.get, hi]

theorem unparkHerd_state (tc : TimeCore) (x : Herd) : (unparkHerd tc x).state = x.state := by
  unfold unparkHerd
  dsimp only
  repeat' split
  all_goals rfl

theorem ne_free_of_running {x : Herd} (h : x.state = .running) : x ≠ {} := by
  rintro rfl
  cases h

theorem unparkAll_running {t : Tsu} {h : Nat} (hr : (t.herd h).state = .running) : ((unparkAll t).herd h).state = .running := by
  have hun : (unparkHerd t.tc (t.herd h)).state = .running := (unparkHerd_state ..).trans hr
  have hget : (unparkAll t).herd h = unparkHerd t.tc (t.herd h) :=
    Tbl.get_mapAll_of_ne (f := fun _ x => unparkHerd t.tc x) (ne_free_of_running hr) (ne_free_of_running hun)
  rw [hget, hun]

/-- A context that is not FREE is among those that the die holds. -/
theorem mem_held {t : Tsu} {h : Nat} (hs : (t.herd h).state ≠ .free) : h ∈ t.held := by
  have hmem : ∀ l : Tbl Herd, (Tbl.get {} l h).state ≠ .free → (h, Tbl.get {} l h) ∈ l := by
    intro l
    induction l with
    | nil => exact fun h0 => absurd rfl h0
    | cons e l ih =>
      obtain ⟨i, x⟩ := e
      intro h0
      by_cases hi : i = h
      · simp [Tbl.get, hi]
      · simp only [Tbl.get, hi, if_false] at h0 ⊢
        exact List.mem_cons_of_mem _ (ih h0)
  refine List.mem_map.mpr ⟨(h, t.herd h), List.mem_filter.mpr ⟨hmem t.herds hs, ?_⟩, rfl⟩
  simpa using hs

theorem raiseHerd_state (h k : Nat) (code : U16) (halts : Bool) (obj waiter : U32) (round detail : Nat) (s : State) :
    ((raiseHerd h code halts obj waiter round detail s).tsu.herd k).state = (s.tsu.herd k).state := by
  by_cases hk : k = h
  · subst hk
    refine (congrArg Herd.state (herd_onHerd_same k _ (raise _ s))).trans ?_
    split <;> rfl
  · exact congrArg Herd.state (herd_onHerd_ne _ (raise _ s) hk)

theorem raiseHerd_herd_ne {h k : Nat} (hk : k ≠ h) (code : U16) (halts : Bool) (obj waiter : U32) (round detail : Nat) (s : State) :
    (raiseHerd h code halts obj waiter round detail s).tsu.herd k = s.tsu.herd k :=
  herd_onHerd_ne _ _ hk

/-- A context that does not run has no watch to purge as it ends. -/
theorem endRun_idle {h : Nat} {st : HerdState} {s : State} (hs : (s.tsu.herd h).state ≠ .running) : endRun h st s =
    onTsu (fun t => { t with ended := t.ended ++ [(h, false)] })
      (onHerd h (fun x => { x with state := st, ahead := [], departing := none, haltLate := false }) s) := by
  simp only [endRun, hs, decide_false, Bool.false_eq_true, if_false]

theorem endRun_herd_ne {h k : Nat} {st : HerdState} {s : State} (hk : k ≠ h) (hs : (s.tsu.herd h).state ≠ .running) :
    (endRun h st s).tsu.herd k = s.tsu.herd k := by
  rw [endRun_idle hs]
  exact herd_onHerd_ne (fun x => { x with state := st, ahead := [], departing := none, haltLate := false }) s hk

theorem leaveHerd_herd_ne {h k cause : Nat} {s : State} (hk : k ≠ h) (hs : (s.tsu.herd h).state ≠ .running) :
    (leaveHerd h cause s).tsu.herd k = s.tsu.herd k := by
  unfold leaveHerd
  dsimp only
  rw [endRun_herd_ne hk, raiseHerd_herd_ne hk]
  · split
    · rfl
    · exact raiseHerd_herd_ne hk ..
  · rw [raiseHerd_state]
    split
    · exact hs
    · rwa [raiseHerd_state]

/-- The departure of one context. -/
def departHerd (cause h : Nat) (s : State) : State :=
  match (s.tsu.herd h).state with
  | .armed => leaveHerd h cause s
  | .committed => leaveHerd h cause s
  | .running => onHerd h (fun x => { x with departing := some (x.departing.getD cause) }) s
  | _ => s

theorem departHerds_eq (cause : Nat) (s : State) : departHerds cause s = forAll s.tsu.held (departHerd cause) s := rfl

theorem departHerd_ne {cause h k : Nat} (hk : k ≠ h) (s : State) : (departHerd cause h s).tsu.herd k = s.tsu.herd k := by
  unfold departHerd
  split
  · next hs => exact leaveHerd_herd_ne hk (by simp [hs])
  · next hs => exact leaveHerd_herd_ne hk (by simp [hs])
  · exact herd_onHerd_ne _ _ hk
  · rfl

theorem departHerd_same {cause h : Nat} {s : State} (hs : (s.tsu.herd h).state = .running) :
    (departHerd cause h s).tsu.herd h = { s.tsu.herd h with departing := some ((s.tsu.herd h).departing.getD cause) } := by
  simp [departHerd, hs]

/-- In a walk of departures a running context keeps running, and is departing once the walk has come to it or if it was before. -/
theorem departHerd_walk {cause h : Nat} (l : List Nat) {s : State} (hs : (s.tsu.herd h).state = .running)
    (hd : h ∈ l ∨ ((s.tsu.herd h).departing).isSome = true) :
    (((forAll l (departHerd cause) s).tsu.herd h).departing).isSome = true := by
  induction l generalizing s with
  | nil => exact hd.resolve_left (by simp)
  | cons k l ih =>
    by_cases hk : h = k
    · subst hk
      have hsame := departHerd_same (cause := cause) hs
      exact ih (by rw [hsame]; exact hs) (.inr (by rw [hsame]; rfl))
    · have hne := departHerd_ne (cause := cause) hk s
      refine ih (by rw [hne]; exact hs) ?_
      rw [hne]
      exact hd.imp_left fun hm => (List.mem_cons.mp hm).resolve_left hk

theorem departHerds_running {cause h : Nat} {s : State} (hs : (s.tsu.herd h).state = .running) :
    (((departHerds cause s).tsu.herd h).departing).isSome = true :=
  departHerd_walk _ hs (.inl (mem_held (by simp [hs])))

theorem raiseHerd_fawn (h : Nat) (code : U16) (halts : Bool) (obj waiter : U32) (round detail : Nat) (s : State) :
    (raiseHerd h code halts obj waiter round detail s).tsu.fawn = s.tsu.fawn := rfl

theorem endRun_fawn {h : Nat} {st : HerdState} {s : State} (hs : (s.tsu.herd h).state ≠ .running) :
    (endRun h st s).tsu.fawn = s.tsu.fawn := by
  rw [endRun_idle hs]
  rfl

theorem leaveHerd_fawn {h cause : Nat} {s : State} (hs : (s.tsu.herd h).state ≠ .running) :
    (leaveHerd h cause s).tsu.fawn = s.tsu.fawn := by
  unfold leaveHerd
  dsimp only
  rw [endRun_fawn, raiseHerd_fawn]
  · split
    · rfl
    · exact raiseHerd_fawn ..
  · rw [raiseHerd_state]
    split
    · exact hs
    · rwa [raiseHerd_state]

theorem departHerd_fawn (cause h : Nat) (s : State) : (departHerd cause h s).tsu.fawn = s.tsu.fawn := by
  unfold departHerd
  split
  · next hs => exact leaveHerd_fawn (by simp [hs])
  · next hs => exact leaveHerd_fawn (by simp [hs])
  · rfl
  · rfl

theorem departHerds_fawn (cause : Nat) (s : State) : (departHerds cause s).tsu.fawn = s.tsu.fawn :=
  forAll_keeps (·.tsu.fawn) (departHerd cause) (departHerd_fawn cause) _ s

theorem departPastLimit_departs {s : State} (hs : s.tsu.tc.state = .holdover)
    (hl : s.tsu.tc.holdLimit.toNat < s.tsu.tc.holdBound.toNat) :
    (departPastLimit s).tsu.fawn = true ∧
      ∀ h, (s.tsu.herd h).state = .running → (((departPastLimit s).tsu.herd h).departing).isSome = true := by
  rw [departPastLimit, if_pos ⟨hs, hl⟩]
  exact ⟨departHerds_fawn .., fun h hr => departHerds_running hr⟩

/-- A mapping update of a die in HOLDOVER without its planes. -/
theorem mappingUpdate_holds {s : State} (hw : s.tsu.works = true) (hf : s.tsu.tc.frc.toNat % 2 ^ 20 = 0)
    (hs : s.tsu.tc.state = .holdover) (hr : s.tsu.tc.regained = false) (hb : s.tsu.tc.rate.toInt.natAbs ≤ 2 ^ 28) :
    ∃ t, exec .mappingUpdateTick s = .next t ∧ (t.tsu.tc.rate.toInt - s.tsu.tc.rate.toInt).natAbs ≤ 64 ∧
      t.tsu.tc.state = .holdover ∧
      (s.tsu.tc.holdLimit.toNat < t.tsu.tc.holdBound.toNat →
        t.tsu.fawn = true ∧ ∀ h, (s.tsu.herd h).state = .running → ((t.tsu.herd h).departing).isSome = true) := by
  have hlimit : (holdUpdate s.tsu.tc).holdLimit = s.tsu.tc.holdLimit := by simp [holdUpdate, hs, hr, setRate]
  refine ⟨_, exec_mappingUpdateTick hw hf, ?_⟩
  rw [enterErrs_tc, departPastLimit_tc, remapped_tc, fresh_tsu]
  refine ⟨holdUpdate_rate hs hr hb, (holdUpdate_state _).trans hs, fun hpast => ?_⟩
  have hstate : (remapped s.fresh).tsu.tc.state = .holdover := (holdUpdate_state _).trans hs
  have hpast' : (remapped s.fresh).tsu.tc.holdLimit.toNat < (remapped s.fresh).tsu.tc.holdBound.toNat := hlimit.symm ▸ hpast
  obtain ⟨hfawn, hleave⟩ := departPastLimit_departs hstate hpast'
  refine ⟨(enterErrs_keeps (·.tsu.fawn) (fun _ _ _ _ _ _ => rfl) (fun _ => rfl) _).trans hfawn, fun h hrun => ?_⟩
  rw [Tsu.herd, enterErrs_herds]
  exact hleave h (unparkAll_running (t := (onTc holdUpdate s.fresh).tsu) hrun)

/-! ## Relock, the holdover model and LOCK_SLOW (R52, R112) -/

theorem exec_holdoverRelock {err : Int} {s : State} (hw : s.tsu.works = true) (hs : s.tsu.tc.state = .holdover)
    (ht : s.tsu.tc.takenOver = true) (he : err.natAbs ≤ 100) (hz : s.tsu.tc.slewRemaining = 0) :
    exec (.holdoverRelock err) s = .next (goTime .locked s.fresh) := by
  show execHoldoverRelock err s = _
  rw [execHoldoverRelock, performOn_die hw]
  simp only [fresh_tsu, hs, ht, he, hz, and_self, if_true]
  rw [enterErrs_nil rfl]

theorem exec_holdModelValid {f : Nat} {r : Int × Int} {s : State} (hw : s.tsu.works = true) (hf : s.tsu.tc.lockedSince = some f)
    (hr : s.tsu.tc.tempSpan = some r) (hs : s.tsu.tc.state = .locked) (ht : f + 300000000000 ≤ s.tsu.tc.frc.toNat)
    (hd : 2000 ≤ r.2 - r.1) :
    exec .holdModelValid s = .next (onTc (fun tc => learn tc.uF { tc with modelValid := true }) s.fresh) := by
  show execHoldModelValid s = _
  rw [execHoldModelValid, performOn_die hw]
  simp only [onTc, onTsu, fresh_tsu, hf, hr, hs, ht, hd, and_self, if_true]
  rw [enterErrs_nil rfl]

/-- While LOCKED the valid model is learned from the window, and the mapping stays. -/
theorem learn_valid {uF : U32} {tc : TimeCore} (hs : tc.state = .locked) :
    let u := learn uF { tc with modelValid := true }
    u.modelValid = true ∧ u.tempCoeff = Config.learnTempCoeff tc.window ∧ u.ageing = Config.learnAgeing tc.window ∧
      u.offset = tc.offset ∧ u.rate = tc.rate := by
  simp [learn, hs]

/-- What a sample of the temperature does to the time core. -/
def sampled (mk : I64) (uF : U32) (tc : TimeCore) : TimeCore :=
  let tc := learn uF (windowSample mk.toInt { tc with temps := (mk.toInt :: tc.temps).take 1000 })
  let tc := if tc.state = .locked ∧ tc.lockedSince ≠ none then
      { tc with tempSpan := some (match tc.tempSpan with
        | some r => (min r.1 mk.toInt, max r.2 mk.toInt)
        | none => (mk.toInt, mk.toInt)) }
    else tc
  if tc.state = .holdover then { tc with tempSum := tc.tempSum + (mk.toInt - tc.entryTemp.toInt).natAbs } else tc

theorem exec_tempSample (mk : I64) (uF : U32) {s : State} (hw : s.tsu.works = true) :
    exec (.tempSample mk uF) s = .next (onTc (sampled mk uF) s.fresh) := by
  show execTempSample mk uF s = _
  rw [execTempSample, performOn_die hw, enterErrs_nil rfl]
  rfl

/-- The window alone takes a sample. -/
theorem windowSample_cases (mk : Int) (tc : TimeCore) : ∃ w, windowSample mk tc = { tc with window := w } := by
  unfold windowSample
  split
  · exact ⟨tc.window, rfl⟩
  · exact ⟨_, rfl⟩

/-- A sample moves the estimates while LOCKED, the span since then, and the sum of R53 in HOLDOVER. -/
theorem sampled_fields (mk : I64) (uF : U32) (tc : TimeCore) :
    (sampled mk uF tc).uF = (if tc.state = .locked then uF else tc.uF) ∧
      (sampled mk uF tc).temps = (mk.toInt :: tc.temps).take 1000 ∧
      (sampled mk uF tc).tempSum = tc.tempSum + (if tc.state = .holdover then (mk.toInt - tc.entryTemp.toInt).natAbs else 0) ∧
      (sampled mk uF tc).offset = tc.offset ∧ (sampled mk uF tc).rate = tc.rate ∧ (sampled mk uF tc).state = tc.state := by
  obtain ⟨w, hwindow⟩ := windowSample_cases mk.toInt { tc with temps := (mk.toInt :: tc.temps).take 1000 }
  rw [sampled, hwindow, learn]
  by_cases hl : tc.state = .locked
  · by_cases hs : tc.lockedSince = none
    · simp [hl, hs]
    · simp [hl, hs]
  · by_cases hh : tc.state = .holdover
    · simp [hh]
    · simp [hl, hh]

theorem exec_lockSlow {s : State} (hw : s.tsu.works = true) (hs : s.tsu.tc.state = .narrow) (hn : s.tsu.tc.lockSlow = false)
    (ht : s.tsu.tc.narrowSince + 1000000000 ≤ s.tsu.tc.frc.toNat) : exec .lockSlow s = .next (enterErrs
      (raise { code := 0x0404, herd := 0xFFFFFF, object := 0x48000000, waiter := s.tsu.agent.deviceId.setWidth 32 }
        (onTc (fun tc => { tc with lockSlow := true }) s.fresh))) := by
  show execLockSlow s = _
  rw [execLockSlow, performOn_die hw]
  simp only [fresh_tsu, hs, hn, Nat.not_lt.mpr ht, ne_eq, not_true_eq_false, Bool.false_eq_true, or_self, if_false]
  rfl

/-- Settles O18, each command by what it does where its condition holds. -/
theorem holdoverAndLock : Obligations.HoldoverAndLock := by
  refine ⟨fun s => mappingUpdate_unparks, fun s => mappingUpdate_holds, fun err s hw hs ht he hz => ?_,
    fun f r s hw hf hr hs ht hd => ?_, fun mk uF s hw => ?_, fun s => exec_lockSlow⟩
  · exact ⟨_, exec_holdoverRelock hw hs ht he hz, rfl, rfl, rfl, rfl, rfl, rfl, rfl, rfl⟩
  · exact ⟨_, exec_holdModelValid hw hf hr hs ht hd, learn_valid hs⟩
  · obtain ⟨huF, htemps, hsum, hoff, hrate, hstate⟩ := sampled_fields mk uF s.tsu.tc
    exact ⟨_, exec_tempSample mk uF hw, huF, htemps, hsum, hoff, hrate, hstate, rfl⟩

end Sys2Proof
end

section
/-! PROOFS. What an answer of the die leaves alone, and fields of a packed word. -/

namespace Sys2Proof

open Machine

/-! ## The die that answers a request -/

/-- What an answer moves: the window, its interrupt, the ports' queues and the agent. -/
def Tsu.answering (t : Tsu) (w : Option Rsp) (busy done : Bool) (irq : U32) (dropped : U64) (ports : Tbl Port) (a : Agent) : Tsu :=
  { t with winRsp := w, winBusy := busy, winDone := done, intStatus := irq, p3Dropped := dropped, ports := ports, agent := a }

section Answer
variable {γ : Type} {v : Tsu → γ}
  (h : ∀ (t : Tsu) (w : Option Rsp) (busy done : Bool) (irq : U32) (dropped : U64) (ports : Tbl Port) (a : Agent),
    v (Tsu.answering t w busy done irq dropped ports a) = v t)
include h

theorem sendOn_die_keeps (p : Nat) (b : Bool) (c : Cell) (s : State) : v (sendOn .tsu p b c s).tsu = v s.tsu := by
  have hport (f : Port → Port) : v (onPort .tsu p f s).tsu = v s.tsu := h s.tsu _ _ _ _ _ _ _
  have hdrop (n : U64) : v (onTsu (fun t => { t with p3Dropped := n }) s).tsu = v s.tsu := h s.tsu _ _ _ _ _ _ _
  unfold sendOn
  dsimp only
  split
  · rfl
  split
  · rfl
  split
  · exact hdrop _
  split
  · exact hport _
  · exact hport _

theorem sendMessage_die_keeps (p typ addr : Nat) (m : Bytes) (s : State) : v (sendMessage .tsu p typ addr m s).tsu = v s.tsu := by
  unfold sendMessage
  dsimp only
  split
  · rfl
  · rw [forAll_keeps (fun u : State => v u.tsu) (send .tsu p) (fun c u => sendOn_die_keeps h p false c u)]
    exact h s.tsu _ _ _ _ _ _ _

theorem deliverRsp_die_keeps (r : Rsp) (s : State) : v (deliverRsp .tsu r s).tsu = v s.tsu := by
  unfold deliverRsp
  split
  · exact h s.tsu _ _ _ _ _ _ _
  · exact sendMessage_die_keeps h ..
  · exact sendMessage_die_keeps h ..
  · rfl

theorem answered_die_keeps (q : Req) (i j st : Nat) (s : State) : v (answered .tsu q i j st s).tsu = v s.tsu :=
  (deliverRsp_die_keeps h _ _).trans (h s.tsu _ _ _ _ _ _ _)

theorem appliedRsp_die_keeps (q : Req) (i j st : Nat) (s : State) : v (appliedRsp .tsu q i j st s).tsu = v s.tsu := by
  unfold appliedRsp
  split
  · exact deliverRsp_die_keeps h ..
  · rfl

theorem taken_die_keeps (q : Req) (s : State) : v (taken .tsu q s).tsu = v s.tsu :=
  taken_keeps (d := .tsu) (fun u => v u.tsu) (fun _ _ u => h u.tsu _ _ _ _ _ _ _) (fun _ u => h u.tsu _ _ _ _ _ _ _) q s

end Answer

/-! ## Fields of a packed word -/

/-- A field of a number is its quotient and remainder. -/
theorem fld_eq_ofNat {n : Nat} (x : BitVec n) (lo len : Nat) : fld x lo len = BitVec.ofNat len (x.toNat / 2 ^ lo) := by
  refine BitVec.eq_of_toNat_eq ?_
  simp [fld, BitVec.extractLsb'_toNat, Nat.shiftRight_eq_div_pow]

theorem fldN_eq {n : Nat} (x : BitVec n) (lo len : Nat) : fldN x lo len = x.toNat / 2 ^ lo % 2 ^ len := by
  simp [fldN, BitVec.extractLsb'_toNat, Nat.shiftRight_eq_div_pow]

end Sys2Proof
end

section
/-! PROOFS. Snapshots of regions (O19). -/

namespace Sys2Proof

open Machine

/-! ## One snapshot (R45, R46) -/

/-- A region of which a snapshot is taken on tick `f`. -/
def snapped (f trig : Nat) (rcc : BitVec 48) (r : Region) : Region :=
  let add := if r.snapValid then stretchOf (fldN r.snap 0 64) f (fld r.snap 64 48) rcc r.nominalFs.toNat else 0
  { r with snap := pack 128 [(0, 64, f), (64, 48, rcc.toNat), (112, 8, r.snapMin.toNat),
                     (120, 4, min 15 r.snapStretches), (124, 4, trig)],
           stretchNs := bumpBy r.stretchNs add, snapMin := 0xFF, snapStretches := 0, snapValid := true }

theorem takeSnapshot_eq (n trig : Nat) (rcc : BitVec 48) (s : State) :
    takeSnapshot n trig rcc s = onRegion n (snapped s.tsu.tc.frc.toNat trig rcc) s := rfl

theorem takeSnapshot_region (n trig : Nat) (rcc : BitVec 48) (s : State) :
    (takeSnapshot n trig rcc s).tsu.region n = snapped s.tsu.tc.frc.toNat trig rcc (s.tsu.region n) := by
  rw [takeSnapshot_eq, region_onRegion_same]

theorem takeSnapshot_region_ne {m n : Nat} (h : m ≠ n) (trig : Nat) (rcc : BitVec 48) (s : State) :
    (takeSnapshot n trig rcc s).tsu.region m = s.tsu.region m := by
  rw [takeSnapshot_eq, region_onRegion_ne _ _ h]

theorem pack_toNat {n : Nat} (fs : List (Nat × Nat × Nat)) :
    (pack n fs).toNat = (fs.map fun f => f.2.2 % 2 ^ f.2.1 * 2 ^ f.1).sum % 2 ^ n := BitVec.toNat_ofNat ..

theorem sum_five_fields (a b c d e : Nat × Nat × Nat) : ([a, b, c, d, e].map fun f => f.2.2 % 2 ^ f.2.1 * 2 ^ f.1).sum =
    a.2.2 % 2 ^ a.2.1 * 2 ^ a.1 + (b.2.2 % 2 ^ b.2.1 * 2 ^ b.1 + (c.2.2 % 2 ^ c.2.1 * 2 ^ c.1 +
      (d.2.2 % 2 ^ d.2.1 * 2 ^ d.1 + e.2.2 % 2 ^ e.2.1 * 2 ^ e.1))) := by simp

/-- The fields of Table 2.3. -/
theorem pack_snapshot {f c m k t : Nat} (hf : f < 2 ^ 64) (hc : c < 2 ^ 48) (hm : m < 2 ^ 8) (hk : k < 2 ^ 4) (ht : t < 2 ^ 4) :
    (pack 128 [(0, 64, f), (64, 48, c), (112, 8, m), (120, 4, k), (124, 4, t)]).toNat =
      f + c * 2 ^ 64 + m * 2 ^ 112 + k * 2 ^ 120 + t * 2 ^ 124 := by
  rw [pack_toNat, sum_five_fields]
  show (f % 2 ^ 64 * 2 ^ 0 + (c % 2 ^ 48 * 2 ^ 64 + (m % 2 ^ 8 * 2 ^ 112 + (k % 2 ^ 4 * 2 ^ 120 + t % 2 ^ 4 * 2 ^ 124)))) % 2 ^ 128 = _
  omega

theorem snapped_fields {f trig : Nat} {rcc : BitVec 48} {r : Region} (hf : f < 2 ^ 64) (ht : trig < 16) :
    let u := snapped f trig rcc r
    fld u.snap 0 64 = BitVec.ofNat 64 f ∧ fld u.snap 64 48 = rcc ∧ fld u.snap 112 8 = r.snapMin ∧
      fldN u.snap 120 4 = min 15 r.snapStretches ∧ fldN u.snap 124 4 = trig := by
  have hm : r.snapMin.toNat < 2 ^ 8 := r.snapMin.isLt
  have hc : rcc.toNat < 2 ^ 48 := rcc.isLt
  have hk : min 15 r.snapStretches < 2 ^ 4 := by omega
  have hsnap := pack_snapshot hf hc hm hk ht
  dsimp only [snapped]
  simp only [fld_eq_ofNat, fldN_eq, hsnap]
  generalize min 15 r.snapStretches = k at hk
  refine ⟨?_, ?_, ?_, ?_, ?_⟩
  · refine BitVec.eq_of_toNat_eq ?_
    rw [BitVec.toNat_ofNat, BitVec.toNat_ofNat]
    omega
  · refine BitVec.eq_of_toNat_eq ?_
    rw [BitVec.toNat_ofNat]
    omega
  · refine BitVec.eq_of_toNat_eq ?_
    rw [BitVec.toNat_ofNat]
    omega
  · omega
  · omega

/-- Without an earlier snapshot no stretch is accounted. -/
theorem bumpBy_zero {w : Nat} (x : BitVec w) : bumpBy x 0 = x := by
  simp [bumpBy, x.isLt]

theorem snapped_stretch (f trig : Nat) (rcc : BitVec 48) (r : Region) : (snapped f trig rcc r).stretchNs =
    (if r.snapValid then
      bumpBy r.stretchNs ((f - fldN r.snap 0 64) - cdiv ((rcc - fld r.snap 64 48).toNat * r.nominalFs.toNat) 1000000)
    else r.stretchNs) := by
  rw [snapped, stretchOf]
  dsimp only
  split
  · rfl
  · exact bumpBy_zero _

/-! ## A snapshot of every region -/

/-- The walk that takes the periodic snapshot of region `k` and of those behind it. -/
def snapAll (rccs : List (BitVec 48)) (k : Nat) : State → State :=
  forAll (rccs.zipIdx k) fun r s => takeSnapshot r.2 0 r.1 s

theorem snapAll_cons (c : BitVec 48) (rccs : List (BitVec 48)) (k : Nat) (s : State) :
    snapAll (c :: rccs) k s = snapAll rccs (k + 1) (takeSnapshot k 0 c s) := by
  rw [snapAll, List.zipIdx_cons, forAll, List.foldl_cons]
  rw [snapAll, forAll]

theorem snapAll_keeps {γ : Type} {v : State → γ} (h : ∀ n f (s : State), v (onRegion n f s) = v s) (rccs : List (BitVec 48)) (k : Nat)
    (s : State) : v (snapAll rccs k s) = v s := by
  unfold snapAll
  rw [forAll_keeps v]
  intro r u
  rw [takeSnapshot_eq, h]

/-- Regions below the first of the walk are left alone. -/
theorem snapAll_region_below {rccs : List (BitVec 48)} {k n : Nat} (h : n < k) (s : State) :
    (snapAll rccs k s).tsu.region n = s.tsu.region n := by
  induction rccs generalizing k s with
  | nil => rfl
  | cons c rccs ih =>
    rw [snapAll_cons, ih (by omega), takeSnapshot_region_ne (by omega)]

theorem snapAll_region {rccs : List (BitVec 48)} {k n : Nat} (h0 : k ≤ n) (h1 : n < k + rccs.length) (s : State) :
    (snapAll rccs k s).tsu.region n = (takeSnapshot n 0 (rccs.getD (n - k) 0) s).tsu.region n := by
  induction rccs generalizing k s with
  | nil => simp at h1; omega
  | cons c rccs ih =>
    rw [snapAll_cons]
    rw [List.length_cons] at h1
    by_cases hk : n = k
    · subst hk
      rw [snapAll_region_below (by omega), Nat.sub_self, List.getD_cons_zero]
    · obtain ⟨i, hi⟩ : ∃ i, n - k = i + 1 := ⟨n - k - 1, by omega⟩
      have hsub : n - (k + 1) = i := by omega
      rw [ih (by omega) (by omega), takeSnapshot_region, takeSnapshot_region, takeSnapshot_region_ne hk, tc_takeSnapshot, hi, hsub,
        List.getD_cons_succ]

theorem exec_snapshotPeriodic {rccs : List (BitVec 48)} {s : State} (hw : s.tsu.works = true) (hf : s.tsu.tc.frc.toNat % 65536 = 0)
    (hl : rccs.length = 52) : exec (.snapshotPeriodic rccs) s = .next (snapAll rccs 0 s.fresh) := by
  have htake : rccs.take 52 = rccs := List.take_of_length_le hl.le
  show execSnapshotPeriodic rccs s = _
  rw [execSnapshotPeriodic, performOn_die hw]
  simp only [fresh_tsu, hf, if_true, htake]
  change Host.Outcome.next (enterErrs (snapAll rccs 0 s.fresh)) = _
  rw [enterErrs_nil (snapAll_keeps (v := (·.staged)) (fun _ _ _ => rfl) rccs 0 s.fresh)]

/-! ## Snapshots that are asked for, and a change of the period -/

theorem exec_snapshotReq {q : Req} {n : Nat} (v : U8) (rcc : BitVec 48) (s : State) (hn : n < 52) : exec (.snapshotReq q n v rcc) s =
    perform true (inTurn (.snapshotReq q n v rcc) (agentWrite .tsu q (wSnapshotReq n v rcc))) s := by
  show execSnapshotReq q n v rcc s = _
  rw [execSnapshotReq, regionOk, decide_eq_true hn]

theorem snapshotReq_takes {q : Req} {n : Nat} {rcc : BitVec 48} {s : State} (hn : n < 52)
    (h : admits .tsu q (0x2400 + n) 7 .wo [1] s = true) :
    exec (.snapshotReq q n 1 rcc) s = .next (answered .tsu q (0x2400 + n) 7 stOk (takeSnapshot n 3 rcc (taken .tsu q s))) :=
  (exec_snapshotReq 1 rcc s hn).trans (boolCommand_takes (c := .snapshotReq q n 1 rcc) (f := takeSnapshot n 3 rcc) rfl h
    fun u => by rw [takeSnapshot_eq, onRegion_staged])

/-- A region with a new nominal period, across which no stretch is accounted. -/
def retimed (fs : U32) (r : Region) : Region :=
  { r with nominalFs := fs, snapValid := false, launched := r.launched.map fun l => { l with nomOk := false } }

theorem exec_nominalPeriodChange {n : Nat} (fs : U32) (rcc : BitVec 48) {s : State} (hw : s.tsu.works = true) (hn : n < 52) :
    exec (.nominalPeriodChange n fs rcc) s = .next (takeSnapshot n 4 rcc (onRegion n (retimed fs) s.fresh)) := by
  show execNominalPeriodChange n fs rcc s = _
  rw [execNominalPeriodChange, regionOk, decide_eq_true hn, performOn_die hw, enterErrs_nil rfl]
  rfl

theorem nominalPeriodChange_region {n : Nat} (fs : U32) (rcc : BitVec 48) (s : State) :
    (takeSnapshot n 4 rcc (onRegion n (retimed fs) s)).tsu.region n = snapped s.tsu.tc.frc.toNat 4 rcc (retimed fs (s.tsu.region n)) := by
  rw [takeSnapshot_region, region_onRegion_same]
  rfl

/-- Settles O19. -/
theorem snapshots : Obligations.Snapshots := by
  refine ⟨fun n trig rcc s ht => ?_, fun rccs n s hw hf hn hl => ?_, fun q n rcc s hn h => snapshotReq_takes hn h,
    fun n fs rcc s hw hn => ?_⟩
  · obtain ⟨hfrc, hrcc, hmin, hstr, htrig⟩ := snapped_fields (rcc := rcc) (r := s.tsu.region n) s.tsu.tc.frc.isLt ht
    dsimp only
    rw [takeSnapshot_region]
    exact ⟨hfrc.trans (BitVec.ofNat_toNat ..), hrcc, hmin, hstr, htrig, rfl, rfl, snapped_stretch ..⟩
  · refine ⟨_, exec_snapshotPeriodic hw hf hl, ?_, ?_, ?_⟩
    · exact snapAll_region (Nat.zero_le n) (by omega) s.fresh
    · exact snapAll_keeps (v := (·.fjz)) (fun _ _ _ => rfl) ..
    · exact snapAll_keeps (v := (·.tsu.tc)) (fun _ _ _ => rfl) ..
  · have hregion := nominalPeriodChange_region (n := n) fs rcc s.fresh
    obtain ⟨_, _, _, _, htrig⟩ := snapped_fields (trig := 4) (rcc := rcc) (r := retimed fs (s.tsu.region n)) s.tsu.tc.frc.isLt (by decide)
    refine ⟨_, exec_nominalPeriodChange fs rcc hw hn, ?_, ?_, ?_, fun m hm => ?_, fjz_takeSnapshot ..⟩
    · rw [hregion]
      rfl
    · rw [hregion, snapped_stretch]
      rfl
    · rw [hregion]
      exact htrig
    · rw [takeSnapshot_region_ne hm]
      exact region_onRegion_ne _ s.fresh hm

end Sys2Proof
end

section
/-! PROOFS. What a region reports, margins and their bias, COUNTER_CLEAR and time reads (O20). -/

namespace Sys2Proof

open Machine

/-! ## Reports (R44, R47, R48) -/

theorem performOn_region {n : Nat} {f : State → State} {s : State} (hw : s.tsu.works = true) (hn : n < 52) :
    performOn .tsu (regionOk n) f s = .next (enterErrs (f s.fresh)) :=
  performOn_works (decide_eq_true hn) hw

theorem stretchReport_counts {n : Nat} {s : State} (hw : s.tsu.works = true) (hn : n < 52) : exec (.stretchReport n) s = .next
    (onRegion n (fun r => { r with stretchEvents := satAdd r.stretchEvents 1, snapStretches := r.snapStretches + 1 }) s.fresh) := by
  show execStretchReport n s = _
  rw [execStretchReport, performOn_region hw hn, enterErrs_nil rfl]

theorem lower_toNat (a b : U8) : (lower a b).toNat = min a.toNat b.toNat := by
  unfold lower
  split <;> omega

theorem biased_zero (v : U8) : biased 0 v = v := by simp [biased]

/-- What a reading does to the region that made it. -/
def lowered (v : U8) (low : Bool) (r : Region) : Region :=
  { r with marginMin := lower r.marginMin v, snapMin := lower r.snapMin v, below := low }

/-- What a reading of region `n` does to the margins of the die; it is an event where it is the first below the threshold. -/
def loweredDie (n : Nat) (v : U8) (event : Bool) (t : Tsu) : Tsu :=
  { t with dieMargin := lower t.dieMargin v,
           dieMarginRegion := if v.toNat < t.dieMargin.toNat then BitVec.ofNat 8 n else t.dieMarginRegion,
           marginEvents := if event then satAdd t.marginEvents 1 else t.marginEvents }

theorem marginReading_lowers {n : Nat} {v : U8} {s : State} (hw : s.tsu.works = true) (hn : n < 52) (hb : (s.tsu.region n).bias = 0) :
    let low := decide (v.toNat < s.tsu.marginThr.toNat)
    exec (.marginReading n v) s =
      .next (onTsu (loweredDie n v (low && !(s.tsu.region n).below)) (onRegion n (lowered v low) s.fresh)) := by
  show execMarginReading n v s = _
  rw [execMarginReading, performOn_region hw hn]
  dsimp only
  rw [fresh_tsu, hb, biased_zero, enterErrs_nil rfl]
  rfl

theorem onTsu_loweredDie_regions (n : Nat) (v : U8) (event : Bool) (s : State) :
    (onTsu (loweredDie n v event) s).tsu.regions = s.tsu.regions := by
  rw [onTsu_tsu, loweredDie]

theorem enterErrs_region (n : Nat) (s : State) : (enterErrs s).tsu.region n = s.tsu.region n := by
  rw [Tsu.region, enterErrs_regions, Tsu.region]

theorem tap_regions (kind : Nat) (data : Bytes) (s : State) : (tap kind data s).tsu.regions = s.tsu.regions := by
  unfold tap
  dsimp only
  repeat' split
  all_goals rfl

theorem tapHerd_region (kind h : Nat) (data : Bytes) (n : Nat) (s : State) : (tapHerd kind h data s).tsu.region n = s.tsu.region n := by
  rw [Tsu.region, tapHerd, tap_regions, Tsu.region]

/-- The record of the first wait of a step (R47), of a region as it was before. -/
def recordStall (n : Nat) (w : U8) (r : Region) (s : State) : State :=
  match r.launched.head? with
  | some l =>
    if r.slackSent then s
    else tapHerd 14 l.ctx [BitVec.ofNat 8 n, w] (onRegion n (fun r => { r with slackSent := true }) s)
  | none => s

theorem recordStall_region (n : Nat) (w : U8) (r : Region) (s : State) :
    ((recordStall n w r s).tsu.region n).queueStalls = (s.tsu.region n).queueStalls := by
  unfold recordStall
  split
  · split
    · rfl
    · rw [tapHerd_region, region_onRegion_same]
  · rfl

theorem recordStall_region_ne {m n : Nat} (h : m ≠ n) (w : U8) (r : Region) (s : State) :
    (recordStall n w r s).tsu.region m = s.tsu.region m := by
  unfold recordStall
  split
  · split
    · rfl
    · rw [tapHerd_region, region_onRegion_ne _ _ h]
  · rfl

theorem recordStall_fjz (n : Nat) (w : U8) (r : Region) (s : State) : (recordStall n w r s).fjz = s.fjz := by
  unfold recordStall
  split
  · split <;> simp
  · rfl

theorem exec_queueStall {n : Nat} {w : U8} {s : State} (hw : s.tsu.works = true) (hn : n < 52) : exec (.queueStall n w) s =
    .next (enterErrs (recordStall n w (s.tsu.region n) (onRegion n (fun r => { r with queueStalls := bump r.queueStalls }) s.fresh))) := by
  show execQueueStall n w s = _
  rw [execQueueStall, performOn_region hw hn]
  rfl

theorem queueStall_counts {n : Nat} {w : U8} {s : State} (hw : s.tsu.works = true) (hn : n < 52) :
    ∃ t, exec (.queueStall n w) s = .next t ∧ (t.tsu.region n).queueStalls = bump (s.tsu.region n).queueStalls ∧
      (∀ m, m ≠ n → t.tsu.region m = s.tsu.region m) ∧ t.fjz = s.fjz := by
  refine ⟨_, exec_queueStall hw hn, ?_, fun m hm => ?_, ?_⟩
  · rw [enterErrs_region, recordStall_region, region_onRegion_same]
    rfl
  · rw [enterErrs_region, recordStall_region_ne hm, region_onRegion_ne _ _ hm]
    rfl
  · rw [enterErrs_fjz, recordStall_fjz]
    rfl

/-! ## The bias (R49) -/

/-- What a walk over regions does to one of them, where each step changes its own region alone. -/
theorem forAll_region {f : Nat → State → State} {g : Region → Region} {P : State → Prop} (hP : ∀ n s, P s → P (f n s))
    (hsame : ∀ n s, P s → (f n s).tsu.region n = g (s.tsu.region n))
    (hne : ∀ m n s, m ≠ n → (f n s).tsu.region m = s.tsu.region m) {l : List Nat} (hl : l.Nodup) {s : State} (hs : P s) {n : Nat}
    (hn : n ∈ l) : (forAll l f s).tsu.region n = g (s.tsu.region n) := by
  have hpast : ∀ (l : List Nat) (s : State), n ∉ l → (forAll l f s).tsu.region n = s.tsu.region n := by
    intro l
    induction l with
    | nil => exact fun _ _ => rfl
    | cons k l ih =>
      intro s hn
      rw [List.mem_cons, not_or] at hn
      exact (ih (f k s) hn.2).trans (hne n k s hn.1)
  induction l generalizing s with
  | nil => cases hn
  | cons k l ih =>
    rw [List.nodup_cons] at hl
    by_cases hk : n = k
    · subst hk
      exact (hpast l (f n s) hl.1).trans (hsame n s hs)
    · exact (ih hl.2 (hP k s hs) ((List.mem_cons.mp hn).resolve_left hk)).trans (congrArg g (hne n k s hk))

/-- A region takes the bias of the die, if it is idle. -/
def takesBias (n : Nat) (s : State) : State := if (s.tsu.region n).launched.isEmpty then sendBias n s else s

/-- A region with bias `v`, if it is idle. -/
def biasedIdle (v : U8) (r : Region) : Region := if r.launched.isEmpty then { r with bias := v } else r

theorem sendBias_region (n : Nat) (s : State) : (sendBias n s).tsu.region n = { s.tsu.region n with bias := s.tsu.marginBias } := by
  unfold sendBias
  split
  · next h => rw [← h]
  · rw [emit_tsu, region_onRegion_same]

theorem sendBias_region_ne {m n : Nat} (h : m ≠ n) (s : State) : (sendBias n s).tsu.region m = s.tsu.region m := by
  unfold sendBias
  split
  · rfl
  · rw [emit_tsu, region_onRegion_ne _ _ h]

theorem sendBias_marginBias (n : Nat) (s : State) : (sendBias n s).tsu.marginBias = s.tsu.marginBias := by
  unfold sendBias
  split
  · rfl
  · rfl

theorem takesBias_marginBias (n : Nat) (s : State) : (takesBias n s).tsu.marginBias = s.tsu.marginBias := by
  unfold takesBias
  split
  · exact sendBias_marginBias n s
  · rfl

theorem takesBias_region {n : Nat} {v : U8} {s : State} (h : s.tsu.marginBias = v) :
    (takesBias n s).tsu.region n = biasedIdle v (s.tsu.region n) := by
  unfold takesBias biasedIdle
  split
  · rw [sendBias_region, h]
  · rfl

theorem takesBias_region_ne (m n : Nat) (s : State) (h : m ≠ n) : (takesBias n s).tsu.region m = s.tsu.region m := by
  unfold takesBias
  split
  · exact sendBias_region_ne h s
  · rfl

/-- The bias of the die is set, and every idle region takes it. -/
def biasAll (v : U8) (s : State) : State := forAll (List.range 52) (fun n s => takesBias n s) (onTsu (fun t => { t with marginBias := v }) s)

theorem biasAll_marginBias (v : U8) (s : State) : (biasAll v s).tsu.marginBias = v :=
  forAll_keeps (·.tsu.marginBias) takesBias takesBias_marginBias _ _

theorem biasAll_region (v : U8) {n : Nat} (hn : n < 52) (s : State) : (biasAll v s).tsu.region n = biasedIdle v (s.tsu.region n) :=
  forAll_region (P := fun u => u.tsu.marginBias = v) (fun k u hu => (takesBias_marginBias k u).trans hu) (fun _ _ => takesBias_region)
    takesBias_region_ne List.nodup_range rfl (List.mem_range.mpr hn)

@[simp] theorem phase8Waits_heard (q : Req) (s : State) : phase8Waits (heard q s) = phase8Waits s :=
  heard_keeps phase8Waits (fun _ _ _ => rfl) q s

@[simp] theorem phase8Waits_taken (q : Req) (s : State) : phase8Waits (taken .tsu q s) = phase8Waits s :=
  taken_keeps (d := .tsu) phase8Waits (fun _ _ _ => rfl) (fun _ _ => rfl) q s

theorem exec_marginBias (q : Req) (v : U8) (s : State) : exec (.marginBias q v) s =
    perform true (inTurn (.marginBias q v) (agentWrite .tsu q (wMarginBias v))) s := rfl

theorem marginBias_applies {q : Req} {v : U8} {s : State} (h : admits .tsu q 0x2440 2 .rws [v] s = true) (hw : phase8Waits s = false) :
    exec (.marginBias q v) s = .next (enterErrs (appliedRsp .tsu (asTaken q) 0x2440 2 stOk
      (answered .tsu q 0x2440 2 stPending (biasAll v (taken .tsu q s))))) := by
  have happly (u : State) : (wMarginBias v).apply ((wMarginBias v).accept u) = biasAll v u := by
    simp only [wMarginBias, id, biasAll, takesBias]
  rw [exec_marginBias, agentWrite_applies rfl (op := wMarginBias v) h rfl (.inl rfl) rfl rfl rfl (by simp [wMarginBias]) rfl
    (by simp [wMarginBias, waits, hw]) (by simp [wMarginBias, waits, hw]), happly]
  simp only [wMarginBias]

theorem marginBias_sets {q : Req} {v : U8} {s : State} (h : admits .tsu q 0x2440 2 .rws [v] s = true) (hw : phase8Waits s = false) :
    ∃ t, exec (.marginBias q v) s = .next t ∧ t.tsu.marginBias = v ∧
      ∀ n, n < 52 → (t.tsu.region n).bias = (if (s.tsu.region n).launched = [] then v else (s.tsu.region n).bias) := by
  refine ⟨_, marginBias_applies h hw, ?_, fun n hn => ?_⟩
  · rw [enterErrs_keeps (·.tsu.marginBias) (fun _ _ _ _ _ _ => rfl) (fun _ => rfl),
      appliedRsp_die_keeps (v := (·.marginBias)) (fun _ _ _ _ _ _ _ _ => rfl),
      answered_die_keeps (v := (·.marginBias)) (fun _ _ _ _ _ _ _ _ => rfl), biasAll_marginBias]
  · rw [enterErrs_region,
      appliedRsp_die_keeps (v := (·.region n)) (fun _ _ _ _ _ _ _ _ => rfl),
      answered_die_keeps (v := (·.region n)) (fun _ _ _ _ _ _ _ _ => rfl), biasAll_region v hn,
      taken_die_keeps (v := (·.region n)) (fun _ _ _ _ _ _ _ _ => rfl), biasedIdle]
    simp only [List.isEmpty_iff]
    split
    · rfl
    · rfl

/-! ## COUNTER_CLEAR -/

/-- The margins of the die and the counters of every region are cleared. -/
def clearAll (s : State) : State :=
  onTsu (fun t => { t with dieMargin := 0xFF, dieMarginRegion := 0, marginEvents := 0 })
    (forAll (List.range 52) (fun n s => onRegion n clearRegion s) s)

theorem clearAll_regions (s : State) :
    (clearAll s).tsu.regions = (forAll (List.range 52) (fun n s => onRegion n clearRegion s) s).tsu.regions := by
  rw [clearAll, onTsu_tsu]

theorem region_congr {s t : State} (h : s.tsu.regions = t.tsu.regions) (n : Nat) : s.tsu.region n = t.tsu.region n := by
  rw [Tsu.region, Tsu.region, h]

theorem clearAll_region {n : Nat} (hn : n < 52) (s : State) : (clearAll s).tsu.region n = clearRegion (s.tsu.region n) := by
  refine (region_congr (clearAll_regions s) n).trans ?_
  exact forAll_region (f := fun n s => onRegion n clearRegion s) (P := fun _ => True) (fun _ _ _ => trivial)
    (fun k u _ => region_onRegion_same k _ u) (fun _ _ u hm => region_onRegion_ne _ u hm) List.nodup_range trivial (List.mem_range.mpr hn)

theorem exec_counterClear (q : Req) (v : U8) (s : State) : exec (.counterClear q v) s =
    perform true (inTurn (.counterClear q v) (agentWrite .tsu q (wCounterClear v))) s := rfl

theorem clearAll_staged (s : State) : (clearAll s).staged = s.staged := by
  rw [clearAll, onTsu_staged, forAll_keeps (·.staged) (fun n s => onRegion n clearRegion s) fun _ _ => rfl]

theorem counterClear_takes {q : Req} {s : State} (h : admits .tsu q 0x2440 6 .wo [1] s = true) :
    exec (.counterClear q 1) s = .next (answered .tsu q 0x2440 6 stOk (clearAll (taken .tsu q s))) :=
  (exec_counterClear q 1 s).trans (boolCommand_takes (c := .counterClear q 1) (f := clearAll) rfl h clearAll_staged)

/-! ## Time reads (R330) -/

/-- The TIME_VALUE record of a time read (R286). -/
def tapTime (n : Nat) (v : HT) (s : State) : State :=
  match (s.tsu.region n).launched.head? with
  | some l => tapHerd 9 l.ctx ([1, BitVec.ofNat 8 n] ++ bvBytes v) s
  | none => tap 9 (prefixNone s.tsu.now noHerd ++ ([1, BitVec.ofNat 8 n] ++ bvBytes v)) s

theorem tap_region (kind : Nat) (data : Bytes) (n : Nat) (s : State) : (tap kind data s).tsu.region n = s.tsu.region n := by
  rw [Tsu.region, tap_regions, Tsu.region]

theorem tap_out (kind : Nat) (data : Bytes) (s : State) : (tap kind data s).out = s.out := by
  unfold tap
  dsimp only
  repeat' split
  all_goals rfl

theorem tapTime_keeps {γ : Type} {v : State → γ} (h : ∀ kind data (u : State), v (tap kind data u) = v u) (n : Nat) (x : HT) (s : State) :
    v (tapTime n x s) = v s := by
  unfold tapTime
  split
  · exact h ..
  · exact h ..

/-- Outside a STRICT replay a time read is the tick's hall time, which is recorded and sent to the region. -/
theorem exec_regionTimeRead {n : Nat} {s : State} (hw : s.tsu.works = true) (hn : n < 52) (hr : s.tsu.replayStrict = false)
    (h : tokenNext none n qTime s = true) :
    let x := if s.tsu.tc.htValid then s.tsu.now else 0
    exec (.regionTimeRead n) s = .next (enterErrs (toRegion n oTime (.time n x) (tapTime n x (tookToken n qTime s)))) := by
  have hread : timeRead n (tookToken n qTime s) = (if s.tsu.tc.htValid then s.tsu.now else 0, tookToken n qTime s) := by
    have hr' : (tookToken n qTime s).tsu.replayStrict = false := hr
    simp only [timeRead, hr', Bool.false_eq_true, if_false]
    rfl
  show execRegionTimeRead n s = _
  rw [execRegionTimeRead, performOn_region hw hn, fromRegion_next h]
  dsimp only
  rw [hread]
  rfl

theorem outFree_of_region {n q : Nat} {s t : State} (h : t.tsu.region n = s.tsu.region n) : outFree n q t = outFree n q s := by
  rw [outFree, outFree, h]

theorem regionTimeRead_answers {n : Nat} {s : State} (hw : s.tsu.works = true) (hn : n < 52) (hr : s.tsu.replayStrict = false)
    (h : tokenNext none n qTime s = true) (hfree : outFree n oTime s = true) :
    ∃ t, exec (.regionTimeRead n) s = .next t ∧ t.out = [.time n (if s.tsu.tc.htValid then s.tsu.now else 0)] ∧
      t.fjz = s.fjz ∧ t.tsu.tc = s.tsu.tc ∧ (t.tsu.region n).outq.get 0 oTime = (s.tsu.region n).outq.get 0 oTime + 1 ∧
      (t.tsu.region n).launched = (s.tsu.region n).launched ∧ ∀ m, m ≠ n → t.tsu.region m = s.tsu.region m := by
  have hexec := exec_regionTimeRead hw hn hr h
  dsimp only at hexec
  generalize (if s.tsu.tc.htValid then s.tsu.now else 0) = x at hexec ⊢
  obtain ⟨htook, htook_ne⟩ := tookToken_region n qTime s
  have hregion (m : Nat) : (tapTime n x (tookToken n qTime s)).tsu.region m = (tookToken n qTime s).tsu.region m :=
    tapTime_keeps (v := (·.tsu.region m)) (fun kind data u => tap_region kind data m u) n x _
  have hsend : outFree n oTime (tapTime n x (tookToken n qTime s)) = true := by
    rw [outFree_of_region (hregion n), outFree, htook]
    exact hfree
  rw [toRegion_free hsend] at hexec
  refine ⟨_, hexec, ?_, ?_, ?_, ?_, ?_, fun m hm => ?_⟩
  · rw [enterErrs_out, putOut, emit_out, onRegion_out, tapTime_keeps (v := State.out) tap_out]
    rfl
  · rw [enterErrs_fjz, putOut, emit_fjz, onRegion_fjz, tapTime_keeps (v := State.fjz) fun kind data u => fjz_tap kind data u]
    rfl
  · rw [enterErrs_tc, putOut, emit_tsu, onRegion_tsu_tc, tapTime_keeps (v := fun u : State => u.tsu.tc) fun kind data u => tc_tap kind data u]
    rfl
  · rw [enterErrs_region, putOut, emit_tsu, region_onRegion_same, hregion, htook]
    exact Tbl.get_upd_same 0 _ oTime (· + 1)
  · rw [enterErrs_region, putOut, emit_tsu, region_onRegion_same, hregion, htook]
    rfl
  · rw [enterErrs_region, putOut, emit_tsu, region_onRegion_ne _ _ hm, hregion, htook_ne m hm]

/-- Settles O20, each clause by what its command does. -/
theorem regionReports : Obligations.RegionReports := by
  refine ⟨fun n s hw hn => ?_, fun n v s hw hn hb => ?_, fun n w s hw hn => queueStall_counts hw hn,
    fun q v s h hw => marginBias_sets h hw, fun q s h => ?_, fun n s hw hn hr h hfree => regionTimeRead_answers hw hn hr h hfree⟩
  · refine ⟨_, stretchReport_counts hw hn, ?_, fun m hm => region_onRegion_ne _ s.fresh hm, rfl, rfl⟩
    rw [region_onRegion_same]
    rfl
  · refine ⟨_, marginReading_lowers hw hn hb, ?_, lower_toNat .., fun hlow => ?_, ?_, fun m hm => region_onRegion_ne _ s.fresh hm, rfl⟩
    · rw [region_congr (onTsu_loweredDie_regions ..), region_onRegion_same]
      exact lower_toNat ..
    · exact (congrArg BitVec.toNat (if_pos hlow)).trans (Nat.mod_eq_of_lt (by omega))
    · show (if (decide (v.toNat < s.tsu.marginThr.toNat) && !(s.tsu.region n).below) = true then _ else _) = _
      simp only [Bool.and_eq_true, decide_eq_true_eq, Bool.not_eq_true']
      rfl
  · refine ⟨_, counterClear_takes h, ?_, ?_, fun n hn => ?_⟩
    · exact answered_die_keeps (v := (·.dieMargin)) (fun _ _ _ _ _ _ _ _ => rfl) ..
    · exact answered_die_keeps (v := (·.marginEvents)) (fun _ _ _ _ _ _ _ _ => rfl) ..
    · rw [answered_die_keeps (v := (·.region n)) (fun _ _ _ _ _ _ _ _ => rfl), clearAll_region hn,
        taken_die_keeps (v := (·.region n)) (fun _ _ _ _ _ _ _ _ => rfl)]
      exact ⟨rfl, rfl, rfl, rfl, rfl⟩

end Sys2Proof
end

section
/-! PROOFS. A done token of a region (O39), after what the die's bookkeeping leaves alone. -/

namespace Sys2Proof

open Machine

/-! ## What the bookkeeping of a completed step leaves -/

/-- `t` with what the bookkeeping of a step writes as it is in `u`: contexts, participations, the cells and records that leave, the
faults and the counts of late and differing signals. -/
def noting (t u : Tsu) : Tsu :=
  { t with herds := u.herds, parts := u.parts, ports := u.ports, staging := u.staging, tapSeq := u.tapSeq, tapDropped := u.tapDropped,
           p3Dropped := u.p3Dropped, ownFault := u.ownFault, faultMatch := u.faultMatch, lateDiscards := u.lateDiscards,
           lateArrivals := u.lateArrivals, secL := u.secL, stretchOver := u.stretchOver, replayMismatches := u.replayMismatches,
           firstDiff := u.firstDiff, recArrivals := u.recArrivals, ownArrivals := u.ownArrivals }

section Noting
variable {γ : Type} {v : Tsu → γ} (hv : ∀ t u : Tsu, v (noting t u) = v t)
include hv

theorem noting_leaves {t u : Tsu} (h : u = noting t u) : v u = v t := (congrArg v h).trans (hv t u)

theorem tapHerd_leaves (kind h : Nat) (content : Bytes) (s : State) : v (tapHerd kind h content s).tsu = v s.tsu := by
  unfold tapHerd tap
  dsimp only
  split
  · rfl
  split
  · exact noting_leaves hv rfl
  split
  · exact noting_leaves hv rfl
  · exact noting_leaves hv rfl

theorem raiseHerd_leaves (h : Nat) (code : U16) (halts : Bool) (obj waiter : U32) (round detail : Nat) (s : State) :
    v (raiseHerd h code halts obj waiter round detail s).tsu = v s.tsu :=
  noting_leaves hv rfl

theorem sendOn_die_leaves (p : Nat) (b : Bool) (c : Cell) (s : State) : v (sendOn .tsu p b c s).tsu = v s.tsu := by
  have hport (f : Port → Port) : v (onPort .tsu p f s).tsu = v s.tsu := noting_leaves hv rfl
  unfold sendOn
  dsimp only
  split
  · rfl
  split
  · rfl
  split
  · exact noting_leaves hv rfl
  split
  · exact hport _
  · exact hport _

theorem sendFirst_leaves (p : Nat) (c : Cell) (s : State) : v (sendFirst p c s).tsu = v s.tsu := by
  unfold sendFirst
  dsimp only
  split
  · rfl
  · exact noting_leaves hv rfl

theorem replayDiff_leaves (h : Nat) (obj : U32) (round : U16) (s : State) : v (replayDiff h obj round s).tsu = v s.tsu := by
  have hcount (n : U32) : v (onTsu (fun t => { t with replayMismatches := n }) s).tsu = v s.tsu := noting_leaves hv rfl
  have hstore (g : Tsu → BitVec 128) (u : State) : v (onTsu (fun t => { t with firstDiff := g t }) u).tsu = v u.tsu := noting_leaves hv rfl
  unfold replayDiff
  dsimp only
  split
  · exact (hstore _ _).trans ((raiseHerd_leaves hv ..).trans (hcount _))
  · exact hcount _

theorem compareArrival_leaves (h : Nat) (a : U16 × U16 × U8 × U8 × U64) (s : State) : v (compareArrival true h a s).tsu = v s.tsu := by
  unfold compareArrival
  dsimp only
  split
  · rfl
  split
  · split
    · exact noting_leaves hv rfl
    · exact (replayDiff_leaves hv ..).trans (noting_leaves hv rfl)
  · exact noting_leaves hv rfl

theorem sendPart_leaves (n : Nat) (kind : BitVec 4) (round : U16) (replay first : Bool) (cause : BitVec 3) (members : Id24) (deadline : U64)
    (origin : Id24) (payload : Payload) (s : State) :
    v (sendPart n kind round replay first cause members deadline origin payload s).tsu = v s.tsu := by
  unfold sendPart
  split
  · rfl
  dsimp only
  split
  · rfl
  split
  · exact compareArrival_leaves hv ..
  rw [tapHerd_leaves hv]
  split
  · exact (sendFirst_leaves hv ..).trans (compareArrival_leaves hv ..)
  · exact (sendOn_die_leaves hv ..).trans (compareArrival_leaves hv ..)

theorem queueArrival_leaves (n : Nat) (kind : BitVec 4) (cause : BitVec 3) (members : Id24) (deadline : U64) (payload : Payload) (s : State) :
    v (queueArrival n kind cause members deadline payload s).tsu = v s.tsu :=
  (sendPart_leaves hv ..).trans (noting_leaves hv rfl)

theorem completeRounds_leaves (fuel n : Nat) (s : State) : v (completeRounds fuel n s).tsu = v s.tsu := by
  induction fuel generalizing s with
  | zero => rfl
  | succ fuel ih =>
    unfold completeRounds
    split
    · rfl
    split
    · exact (ih _).trans (queueArrival_leaves hv ..)
    · rfl

theorem completeArrivals_leaves (h : Nat) (s : State) : v (completeArrivals h s).tsu = v s.tsu :=
  forAll_keeps (fun u : State => v u.tsu) (fun n s => completeRounds 3 n s) (fun n u => completeRounds_leaves hv 3 n u) _ _

theorem countLate_leaves (s : State) : v (countLate s).tsu = v s.tsu := noting_leaves hv rfl

theorem lateSignal_leaves (h : Nat) (obj source : U32) (seen : Bool) (s : State) : v (lateSignal h obj source seen s).tsu = v s.tsu := by
  unfold lateSignal
  split
  · exact noting_leaves hv rfl
  · exact (countLate_leaves hv _).trans (raiseHerd_leaves hv ..)

theorem lateStep_leaves (d : Desc) (fl : Nat) (s : State) : v (lateStep d fl s).tsu = v s.tsu := by
  unfold lateStep
  split
  · exact countLate_leaves hv s
  · rfl

theorem stretchOver_leaves (region h : Nat) (l : Launched) (d : Desc) (rcc : BitVec 48) (s : State) :
    v (stretchOver region h l d rcc s).tsu = v s.tsu := by
  unfold stretchOver
  dsimp only
  split
  · exact (tapHerd_leaves hv ..).trans (noting_leaves hv rfl)
  · rfl

/-- Past its DONE_SIGNAL a completed step leaves the rest to the bookkeeping. -/
theorem completeStep_leaves (region h : Nat) (l : Launched) (rcc : BitVec 48) (s : State) :
    v (completeStep region h l rcc s).tsu = v (doneSignal h l.step (s.tsu.desc l.step) s).tsu :=
  ((completeArrivals_leaves hv ..).trans (lateStep_leaves hv ..)).trans (stretchOver_leaves hv ..)

theorem nowReturned_leaves (region h : Nat) (abandoned : Bool) (s : State) : v (nowReturned region h abandoned s).tsu = v s.tsu :=
  (forAll_keeps (fun u : State => v u.tsu) (raiseHaltedNow h) (fun _ _ => raiseHerd_leaves hv ..) _ _).trans (noting_leaves hv rfl)

end Noting

/-! ## DONE_SIGNAL and the step (R131) -/

section Counting
variable {γ : Type} {v : Tsu → γ} (hv : ∀ t u : Tsu, v (noting t u) = v t) (hc : ∀ (t : Tsu) c, v { t with counters := c } = v t)
include hv hc

theorem doneSignal_leaves (h step : Nat) (d : Desc) (s : State) : v (doneSignal h step d s).tsu = v s.tsu := by
  have hcount (f : CounterSt → CounterSt) : v (onCounter (dDone d) f s).tsu = v s.tsu := hc s.tsu (onCounter (dDone d) f s).tsu.counters
  unfold doneSignal signalCounter
  dsimp only
  split
  · rfl
  split
  · rfl
  split
  · exact (lateSignal_leaves hv ..).trans (hcount _)
  · exact hcount _

theorem stepDone_leaves (region h : Nat) (l : Launched) (abandoned : Bool) (rcc : BitVec 48) (s : State) :
    v (stepDone region h l abandoned rcc s).tsu = v s.tsu := by
  have hherd (f : Herd → Herd) : v (onHerd h f s).tsu = v s.tsu := noting_leaves hv rfl
  unfold stepDone
  dsimp only
  split
  · rfl
  split
  · exact ((completeStep_leaves hv ..).trans (doneSignal_leaves hv hc ..)).trans (hherd _)
  · exact hherd _

end Counting

theorem stepDone_complete {region h : Nat} {l : Launched} {rcc : BitVec 48} {s : State} {r : RunStep}
    (hr : (s.tsu.herd h).steps.find? (fun r => decide (r.step = l.step ∧ r.fl = l.fl ∧ r.left.getLsbD region)) = some r)
    (hleft : putBit r.left region false = 0) (hdead : r.dead = false) : stepDone region h l false rcc s =
      completeStep region h l rcc (onHerd h (fun x => { x with steps := (s.tsu.herd h).steps.erase r }) s) := by
  unfold stepDone
  dsimp only
  rw [hr]
  simp only [hleft, hdead, Bool.or_self, Bool.not_false, Bool.and_true, decide_true, if_true]

theorem counter_onCounter_same (n : Nat) (f : CounterSt → CounterSt) (s : State) :
    (onCounter n f s).tsu.counter n = f (s.tsu.counter n) := Tbl.get_upd_same _ _ _ _

theorem doneSignal_counts {h step n : Nat} {d : Desc} {s : State} (hn : dDone d = n) (hused : n ≠ 0xFFFF)
    (hbad : (s.tsu.counter n).bad = false) (hout : (s.tsu.counter n).timedOut = false) :
    ((doneSignal h step d s).tsu.counter n).value = (s.tsu.counter n).value + 1 := by
  unfold doneSignal signalCounter
  dsimp only
  rw [hn, if_neg hused, hbad, hout]
  exact congrArg CounterSt.value (counter_onCounter_same n _ s)

theorem stepDone_counts {region h n : Nat} {l : Launched} {rcc : BitVec 48} {s : State} {r : RunStep}
    (hr : (s.tsu.herd h).steps.find? (fun r => decide (r.step = l.step ∧ r.fl = l.fl ∧ r.left.getLsbD region)) = some r)
    (hleft : putBit r.left region false = 0) (hdead : r.dead = false) (hn : dDone (s.tsu.desc l.step) = n) (hused : n ≠ 0xFFFF)
    (hbad : (s.tsu.counter n).bad = false) (hout : (s.tsu.counter n).timedOut = false) :
    ((stepDone region h l false rcc s).tsu.counter n).value = (s.tsu.counter n).value + 1 := by
  rw [stepDone_complete hr hleft hdead, completeStep_leaves (v := (·.counter n)) fun _ _ => rfl]
  exact doneSignal_counts hn hused hbad hout

/-! ## The done token -/

/-- A region past the end of a launch. -/
def withoutLaunch (l : Launched) (r : Region) : Region := { r with launched := r.launched.erase l }

/-- A launch of the region ends, with its snapshot. -/
def endLaunch (region : Nat) (l : Launched) (rcc : BitVec 48) (s : State) : State :=
  onRegion region (withoutLaunch l) (takeSnapshot region trigDone rcc s)

/-- What the launch's end tells: its step, and the stop that waits for it. -/
def tellStep (region h : Nat) (l : Launched) (abandoned : Bool) (rcc : BitVec 48) (s : State) : State :=
  nowReturned region h abandoned (stepDone region h l abandoned rcc s)

theorem takeDone_of_some {region h : Nat} {abandoned : Bool} {rcc : BitVec 48} {s : State} {l : Launched}
    (hl : (s.tsu.region region).oldest h = some l) : takeDone region h abandoned rcc s =
      takesBias region (tellStep region h l abandoned rcc (endLaunch region l rcc s)) := by
  have hend : (fun r : Region => { r with launched := r.launched.erase l }) = withoutLaunch l := rfl
  unfold takeDone
  rw [hl]
  dsimp only
  rw [hend, takesBias, tellStep, endLaunch]

theorem takeDone_of_none {region h : Nat} {abandoned : Bool} {rcc : BitVec 48} {s : State}
    (hl : (s.tsu.region region).oldest h = none) : takeDone region h abandoned rcc s = s := by
  unfold takeDone
  rw [hl]

theorem tellStep_leaves {γ : Type} {v : Tsu → γ} (hv : ∀ t u : Tsu, v (noting t u) = v t)
    (hc : ∀ (t : Tsu) c, v { t with counters := c } = v t) (region h : Nat) (l : Launched) (abandoned : Bool) (rcc : BitVec 48) (s : State) :
    v (tellStep region h l abandoned rcc s).tsu = v s.tsu :=
  (nowReturned_leaves hv ..).trans (stepDone_leaves hv hc ..)

theorem endLaunch_keeps {γ : Type} {v : State → γ} (hr : ∀ n f (s : State), v (onRegion n f s) = v s) (region : Nat) (l : Launched)
    (rcc : BitVec 48) (s : State) : v (endLaunch region l rcc s) = v s := by
  rw [endLaunch, takeSnapshot_eq, hr, hr]

theorem endLaunch_region (region : Nat) (l : Launched) (rcc : BitVec 48) (s : State) : (endLaunch region l rcc s).tsu.region region =
    withoutLaunch l (snapped s.tsu.tc.frc.toNat trigDone rcc (s.tsu.region region)) := by
  rw [endLaunch, region_onRegion_same, takeSnapshot_region]

theorem endLaunch_region_ne {m region : Nat} (hm : m ≠ region) (l : Launched) (rcc : BitVec 48) (s : State) :
    (endLaunch region l rcc s).tsu.region m = s.tsu.region m := by
  rw [endLaunch, region_onRegion_ne _ _ hm, takeSnapshot_region_ne hm]

theorem takesBias_keeps {γ : Type} {v : State → γ} (hr : ∀ n f (s : State), v (onRegion n f s) = v s) (ho : ∀ o (s : State), v (emit o s) = v s)
    (n : Nat) (s : State) : v (takesBias n s) = v s := by
  unfold takesBias sendBias
  split
  · split
    · rfl
    · rw [ho, hr]
  · rfl

theorem withoutLaunch_launched (l : Launched) (r : Region) : (withoutLaunch l r).launched = r.launched.erase l := rfl

theorem withoutLaunch_snap (l : Launched) (r : Region) : (withoutLaunch l r).snap = r.snap := rfl

theorem withoutLaunch_bias (l : Launched) (r : Region) : (withoutLaunch l r).bias = r.bias := rfl

theorem snapped_launched (f trig : Nat) (rcc : BitVec 48) (r : Region) : (snapped f trig rcc r).launched = r.launched := by rw [snapped]

theorem snapped_bias (f trig : Nat) (rcc : BitVec 48) (r : Region) : (snapped f trig rcc r).bias = r.bias := by rw [snapped]

theorem take_launched (r : Region) (q : Nat) (is : List Instr) : (r.take q is).launched = r.launched := rfl

theorem take_bias (r : Region) (q : Nat) (is : List Instr) : (r.take q is).bias = r.bias := rfl

theorem tookToken_marginBias (n q : Nat) (s : State) : (tookToken n q s).tsu.marginBias = s.tsu.marginBias := rfl

theorem biasedIdle_launched (v : U8) (r : Region) : (biasedIdle v r).launched = r.launched := by
  unfold biasedIdle
  split
  · rfl
  · rfl

theorem biasedIdle_snap (v : U8) (r : Region) : (biasedIdle v r).snap = r.snap := by
  unfold biasedIdle
  split
  · rfl
  · rfl

theorem biasedIdle_bias (v : U8) (r : Region) : (biasedIdle v r).bias = if r.launched = [] then v else r.bias := by
  simp only [biasedIdle, List.isEmpty_iff]
  split
  · rfl
  · rfl

section Token
variable {region h : Nat} {abandoned : Bool} {rcc : BitVec 48} {s : State} {l : Launched} (hl : (s.tsu.region region).oldest h = some l)
include hl

theorem takeDone_region : (takeDone region h abandoned rcc s).tsu.region region =
    biasedIdle s.tsu.marginBias (withoutLaunch l (snapped s.tsu.tc.frc.toNat trigDone rcc (s.tsu.region region))) := by
  have hbias : (tellStep region h l abandoned rcc (endLaunch region l rcc s)).tsu.marginBias = s.tsu.marginBias := by
    rw [tellStep_leaves (v := Tsu.marginBias) (fun _ _ => rfl) (fun _ _ => rfl), endLaunch_keeps (v := (·.tsu.marginBias)) fun _ _ _ => rfl]
  rw [takeDone_of_some hl, takesBias_region hbias, tellStep_leaves (v := (·.region region)) (fun _ _ => rfl) (fun _ _ => rfl),
    endLaunch_region]

theorem takeDone_region_ne {m : Nat} (hm : m ≠ region) : (takeDone region h abandoned rcc s).tsu.region m = s.tsu.region m := by
  rw [takeDone_of_some hl, takesBias_region_ne _ _ _ hm, tellStep_leaves (v := (·.region m)) (fun _ _ => rfl) (fun _ _ => rfl),
    endLaunch_region_ne hm]

theorem takeDone_fjz : (takeDone region h abandoned rcc s).fjz = s.fjz := by
  rw [takeDone_of_some hl, takesBias_keeps (v := State.fjz) (fun _ _ _ => rfl) (fun _ _ => rfl), tellStep, fjz_nowReturned, fjz_stepDone,
    endLaunch_keeps (v := State.fjz) fun _ _ _ => rfl]

theorem takeDone_tc : (takeDone region h abandoned rcc s).tsu.tc = s.tsu.tc := by
  rw [takeDone_of_some hl, takesBias_keeps (v := (·.tsu.tc)) (fun _ _ _ => rfl) (fun _ _ => rfl),
    tellStep_leaves (v := Tsu.tc) (fun _ _ => rfl) (fun _ _ => rfl), endLaunch_keeps (v := (·.tsu.tc)) fun _ _ _ => rfl]

theorem takeDone_counts {r : RunStep} {n : Nat}
    (hr : (s.tsu.herd h).steps.find? (fun r => decide (r.step = l.step ∧ r.fl = l.fl ∧ r.left.getLsbD region)) = some r)
    (hleft : putBit r.left region false = 0) (hdead : r.dead = false) (hn : dDone (s.tsu.desc l.step) = n) (hused : n ≠ 0xFFFF)
    (hbad : (s.tsu.counter n).bad = false) (hout : (s.tsu.counter n).timedOut = false) :
    ((takeDone region h false rcc s).tsu.counter n).value = (s.tsu.counter n).value + 1 := by
  have hherd : (endLaunch region l rcc s).tsu.herd h = s.tsu.herd h := endLaunch_keeps (v := (·.tsu.herd h)) (fun _ _ _ => rfl) ..
  have hdesc : (endLaunch region l rcc s).tsu.desc l.step = s.tsu.desc l.step :=
    endLaunch_keeps (v := (·.tsu.desc l.step)) (fun _ _ _ => rfl) ..
  have hcounter : (endLaunch region l rcc s).tsu.counter n = s.tsu.counter n := endLaunch_keeps (v := (·.tsu.counter n)) (fun _ _ _ => rfl) ..
  rw [← hherd] at hr
  rw [← hdesc] at hn
  rw [← hcounter] at hbad hout ⊢
  rw [takeDone_of_some hl, takesBias_keeps (v := (·.tsu.counter n)) (fun _ _ _ => rfl) (fun _ _ => rfl), tellStep,
    nowReturned_leaves (v := (·.counter n)) fun _ _ => rfl]
  exact stepDone_counts hr hleft hdead hn hused hbad hout

end Token

theorem exec_regionDone {region h : Nat} {abandoned : Bool} {rcc : BitVec 48} {s : State} (hw : s.tsu.works = true) (hh : h < 64)
    (hr : region < 52) (ht : tokenNext (inPhase 3 0) region qDone s = true) : exec (.regionDone region h abandoned rcc) s =
      .next (enterErrs (takeDone region h abandoned rcc (tookToken region qDone s))) :=
  performOn_token (by simp [ctxOk, hh, hr]) hw ht

/-- Settles O39, by what a done token does to its region and to the step that it belongs to. -/
theorem regionsReturnDone : Obligations.RegionsReturnDone := by
  intro region h abandoned rcc s hw hh hr ht
  have hexec := exec_regionDone (abandoned := abandoned) (rcc := rcc) hw hh hr ht
  obtain ⟨htook, htook_ne⟩ := tookToken_region region qDone s
  refine ⟨fun hnone => ?_, fun l hl => ⟨_, hexec, ?_, ?_, ?_, ?_, ?_, ?_, fun m hm => ?_, ?_⟩⟩
  · have hl : ((tookToken region qDone s).tsu.region region).oldest h = none := by
      rw [htook]
      exact hnone
    rw [hexec, takeDone_of_none hl, enterErrs_nil rfl]
  all_goals
    have hl' : ((tookToken region qDone s).tsu.region region).oldest h = some l := by
      rw [htook]
      exact hl
  · rw [enterErrs_fjz, takeDone_fjz hl', tookToken_fjz]
  · rw [enterErrs_tc, takeDone_tc hl', tookToken_tc]
  · rw [enterErrs_region, takeDone_region hl', biasedIdle_launched, withoutLaunch_launched, snapped_launched, htook, take_launched]
  · rw [enterErrs_region, takeDone_region hl', biasedIdle_snap, withoutLaunch_snap]
    exact (snapped_fields (BitVec.isLt _) (by decide)).2.1
  · rw [enterErrs_region, takeDone_region hl', biasedIdle_snap, withoutLaunch_snap]
    exact (snapped_fields (BitVec.isLt _) (by decide)).2.2.2.2
  · rw [enterErrs_region, takeDone_region hl', biasedIdle_bias, withoutLaunch_launched, withoutLaunch_bias, snapped_launched, snapped_bias,
      htook, take_launched, take_bias, tookToken_marginBias]
  · rw [enterErrs_region, takeDone_region_ne hl' hm, htook_ne m hm]
  · intro r n hfind hleft hdead hab hn hused hbad hout
    subst hab
    rw [Tsu.counter, enterErrs_counters, ← Tsu.counter]
    exact takeDone_counts hl' hfind hleft hdead hn hused hbad hout

end Sys2Proof
end

section
/-! PROOFS. The step boundary (O38), first part: what each operation of a boundary leaves alone. -/

namespace Sys2Proof

open Machine

/-! ## Walks and regions -/

theorem forAll_keeps_mem {α β γ : Type} {v : β → γ} {f : α → β → β} {xs : List α} (h : ∀ a ∈ xs, ∀ b, v (f a b) = v b) (b : β) :
    v (forAll xs f b) = v b := by
  induction xs generalizing b with
  | nil => rfl
  | cons x xs ih =>
    exact (ih (fun a ha => h a (List.mem_cons_of_mem x ha)) (f x b)).trans (h x (List.mem_cons_self ..) b)

theorem forAll_append {α β : Type} (xs ys : List α) (f : α → β → β) (b : β) : forAll (xs ++ ys) f b = forAll ys f (forAll xs f b) :=
  List.foldl_append

/-- A part of a region that a change leaves, it leaves in every region. -/
theorem region_onRegion_part {γ : Type} (g : Region → γ) {f : Region → Region} (hf : ∀ r, g (f r) = g r) (m n : Nat) (s : State) :
    g ((onRegion n f s).tsu.region m) = g (s.tsu.region m) := by
  by_cases h : m = n
  · subst h
    rw [region_onRegion_same, hf]
  · rw [region_onRegion_ne _ _ h]

/-! ## The die beside its run -/

/-- The die without what a boundary moves beside the regions and the lists of phases 7 and 8: contexts, events, watches, records. -/
def besideRun (t : Tsu) : Tsu :=
  { t with herds := [], events := [], watches := [], clearing := [], staging := [], tapSeq := 0, tapDropped := 0,
           replayBnum := 0, replayAt := 0, replayStalled := false }

/-- What is beside a boundary's run stays where `besideRun` does. -/
theorem besideRun_part {γ : Type} (g : Tsu → γ) (hg : ∀ t, g (besideRun t) = g t) {t u : Tsu} (h : besideRun t = besideRun u) : g t = g u := by
  rw [← hg t, h, hg]

theorem regions_of_besideRun {t u : Tsu} (h : besideRun t = besideRun u) : t.regions = u.regions := besideRun_part Tsu.regions (fun _ => rfl) h

theorem bounds_of_besideRun {t u : Tsu} (h : besideRun t = besideRun u) : t.bounds = u.bounds := besideRun_part Tsu.bounds (fun _ => rfl) h

theorem ended_of_besideRun {t u : Tsu} (h : besideRun t = besideRun u) : t.ended = u.ended := besideRun_part Tsu.ended (fun _ => rfl) h

theorem besideRun_forAll {α : Type} {f : α → State → State} (hf : ∀ a u, besideRun (f a u).tsu = besideRun u.tsu) (xs : List α) (s : State) :
    besideRun (forAll xs f s).tsu = besideRun s.tsu := forAll_keeps (fun u : State => besideRun u.tsu) f hf xs s

@[simp] theorem besideRun_onHerd (h : Nat) (f : Herd → Herd) (s : State) : besideRun (onHerd h f s).tsu = besideRun s.tsu := rfl

@[simp] theorem besideRun_onEvent (n : Nat) (f : EventSt → EventSt) (s : State) : besideRun (onEvent n f s).tsu = besideRun s.tsu := rfl

@[simp] theorem besideRun_endWatch (i status : Nat) (o : BitVec 3) (v : BitVec 48) (s : State) :
    besideRun (endWatch i status o v s).tsu = besideRun s.tsu := rfl

@[simp] theorem besideRun_tapHerd (kind h : Nat) (content : Bytes) (s : State) :
    besideRun (tapHerd kind h content s).tsu = besideRun s.tsu := by
  unfold tapHerd tap
  dsimp only
  split
  · rfl
  split
  · rfl
  split
  · rfl
  · rfl

@[simp] theorem besideRun_stepEvent (h : Nat) (a : Ahead) (d : Desc) (s : State) :
    besideRun (stepEvent h a d s).tsu = besideRun s.tsu := by
  unfold stepEvent
  split
  · exact besideRun_tapHerd ..
  · rfl

@[simp] theorem besideRun_countBoundary (h : Nat) (a : Ahead) (s : State) : besideRun (countBoundary h a s).tsu = besideRun s.tsu := by
  unfold countBoundary
  dsimp only
  split
  · rfl
  · rfl

@[simp] theorem besideRun_consumeEvents (d : Desc) (s : State) : besideRun (consumeEvents d s).tsu = besideRun s.tsu := by
  refine forAll_keeps (fun u : State => besideRun u.tsu) _ (fun k u => ?_) _ _
  dsimp only
  split
  · rfl
  · rfl

@[simp] theorem besideRun_fillAhead (h fuel : Nat) (s : State) : besideRun (fillAhead h fuel s).tsu = besideRun s.tsu := by
  induction fuel generalizing s with
  | zero => rfl
  | succ fuel ih =>
    unfold fillAhead
    split
    · exact ih _
    · rfl

@[simp] theorem besideRun_takeWay (h : Nat) (on : Bool) (s : State) : besideRun (takeWay h on s).tsu = besideRun s.tsu := by
  unfold takeWay
  dsimp only
  rw [besideRun_forAll fun _ _ => besideRun_onEvent .., besideRun_onHerd]

@[simp] theorem besideRun_purgeHerd (h : Nat) (s : State) : besideRun (purgeHerd h s).tsu = besideRun s.tsu := by
  unfold purgeHerd
  rw [besideRun_forAll fun _ _ => besideRun_endWatch ..]

@[simp] theorem besideRun_advance (h : Nat) (d : Desc) (s : State) : besideRun (advance h d s).tsu = besideRun s.tsu := by
  have hrebase (b : HT) (u : State) : besideRun (if dRebase d then onHerd h (fun x => { x with base := b }) u else u).tsu =
      besideRun u.tsu := by
    split
    · rfl
    · rfl
  unfold advance
  dsimp only
  rw [hrebase]
  split
  · exact besideRun_takeWay ..
  split
  · rfl
  · rfl

/-! ## The context past its count -/

/-- A context without what a boundary counts: its window, and the ticks and steps of its launches. -/
def uncounted (x : Herd) : Herd :=
  { x with ahead := [], sameTick := 0, lastFl := 0, lastGrid := none, releases := [], slipLast := 0, slipMax := 0, steps := [] }

/-- What a boundary does not count stays where `uncounted` does. -/
theorem uncounted_part {γ : Type} (g : Herd → γ) (hg : ∀ x, g (uncounted x) = g x) {x y : Herd} (h : uncounted x = uncounted y) :
    g x = g y := by
  rw [← hg x, h, hg]

theorem herd_congr {s t : State} (h : s.tsu.herds = t.tsu.herds) (n : Nat) : s.tsu.herd n = t.tsu.herd n := by
  rw [Tsu.herd, Tsu.herd, h]

theorem tapHerd_herds (kind h : Nat) (content : Bytes) (s : State) : (tapHerd kind h content s).tsu.herds = s.tsu.herds := by
  unfold tapHerd tap
  dsimp only
  split
  · rfl
  split
  · rfl
  split
  · rfl
  · rfl

theorem stepEvent_herds (h : Nat) (a : Ahead) (d : Desc) (s : State) : (stepEvent h a d s).tsu.herds = s.tsu.herds := by
  unfold stepEvent
  split
  · exact tapHerd_herds ..
  · rfl

theorem consumeEvents_herds (d : Desc) (s : State) : (consumeEvents d s).tsu.herds = s.tsu.herds := by
  refine forAll_keeps (fun u : State => u.tsu.herds) _ (fun k u => ?_) _ _
  dsimp only
  split
  · rfl
  · rfl

/-- A context whose window's head is counted on tick `f`. -/
def tallied (a : Ahead) (f : Nat) (x : Herd) : Herd :=
  { x with ahead := x.ahead.tail, sameTick := if x.lastFl = f then x.sameTick + 1 else 1, lastFl := f,
           lastGrid := some (match x.lastGrid with | some g => if g.toNat ≤ a.grid.toNat then a.grid else g | none => a.grid),
           releases := if x.mode = modeSingle then useRelease x.releases else x.releases }

theorem countBoundary_herds (h : Nat) (a : Ahead) (s : State) :
    (countBoundary h a s).tsu.herds = (onHerd h (tallied a s.tsu.tc.frc.toNat) s).tsu.herds := by
  unfold countBoundary
  dsimp only
  split
  · rfl
  · rfl

theorem uncounted_countBoundary (h : Nat) (a : Ahead) (s : State) :
    uncounted ((countBoundary h a s).tsu.herd h) = uncounted (s.tsu.herd h) := by
  rw [herd_congr (countBoundary_herds ..), herd_onHerd_same]
  rfl

theorem uncounted_fillAhead (h fuel : Nat) (s : State) : uncounted ((fillAhead h fuel s).tsu.herd h) = uncounted (s.tsu.herd h) := by
  induction fuel generalizing s with
  | zero => rfl
  | succ fuel ih =>
    unfold fillAhead
    split
    · rw [ih, herd_onHerd_same]
      rfl
    · rfl

theorem uncounted_takeWay (h : Nat) (on : Bool) (s : State) : uncounted ((takeWay h on s).tsu.herd h) = uncounted (s.tsu.herd h) := by
  have hevents (ns : List Nat) (f : EventSt → EventSt) (u : State) :
      (forAll ns (fun n s => onEvent n f s) u).tsu.herds = u.tsu.herds :=
    forAll_keeps (fun u : State => u.tsu.herds) (fun n s => onEvent n f s) (fun _ _ => rfl) ns u
  unfold takeWay
  dsimp only
  rw [herd_congr (hevents ..), herd_onHerd_same]
  rfl

/-- A descriptor is counted as launched or passed, and recorded. -/
def counted (h : Nat) (a : Ahead) (d : Desc) (s : State) : State := stepEvent h a d (countBoundary h a s)

@[simp] theorem besideRun_counted (h : Nat) (a : Ahead) (d : Desc) (s : State) : besideRun (counted h a d s).tsu = besideRun s.tsu := by
  rw [counted, besideRun_stepEvent, besideRun_countBoundary]

theorem uncounted_counted (h : Nat) (a : Ahead) (d : Desc) (s : State) :
    uncounted ((counted h a d s).tsu.herd h) = uncounted (s.tsu.herd h) := by
  rw [counted, herd_congr (stepEvent_herds ..), uncounted_countBoundary]

theorem uncounted_consumeEvents (h : Nat) (d : Desc) (s : State) :
    uncounted ((consumeEvents d s).tsu.herd h) = uncounted (s.tsu.herd h) := by
  rw [herd_congr (consumeEvents_herds ..)]

/-! ## The next descriptor -/

/-- A context that goes on to NEXT. -/
def toNext (d : Desc) (x : Herd) : Herd :=
  { x with cur := BitVec.ofNat 32 (dNext d), base := if dRebase d then x.base + htOfNs (dOffset d) else x.base }

/-- A context past a LOOP: it begins the next iteration, or goes to ALT. -/
def pastLoop (on : Bool) (d : Desc) (x : Herd) : Herd :=
  { x with iter := if on then x.iter + 1 else x.iter, cur := BitVec.ofNat 32 (if on then dNext d else dAlt d),
           base := if dRebase d then x.base + htOfNs (dOffset d) else if on then x.base + htOfNs (dPeriod d) else x.base }

theorem advance_herd_step {h : Nat} {d : Desc} (hl : dType d ≠ typeLoop) (he : dType d ≠ typeEnd) (s : State) :
    (advance h d s).tsu.herd h = toNext d (s.tsu.herd h) := by
  unfold advance toNext
  dsimp only
  rw [if_neg hl, if_neg he]
  split
  · rw [herd_onHerd_same, herd_onHerd_same]
  · rw [herd_onHerd_same]

theorem advance_herd_loop {h : Nat} {d : Desc} (hl : dType d = typeLoop) (s : State) :
    uncounted ((advance h d s).tsu.herd h) = uncounted (pastLoop (loopGoesOn s.tsu h d) d (s.tsu.herd h)) := by
  have hrebase (b : HT) (u : State) : (if dRebase d then onHerd h (fun x => { x with base := b }) u else u).tsu.herd h =
      { u.tsu.herd h with base := if dRebase d then b else (u.tsu.herd h).base } := by
    split
    · rw [herd_onHerd_same]
    · rfl
  have hbase {x y : Herd} (b : HT → HT) (hxy : uncounted x = uncounted y) :
      uncounted { x with base := b x.base } = uncounted { y with base := b y.base } :=
    congrArg (fun z : Herd => { z with base := b z.base }) hxy
  unfold advance pastLoop
  dsimp only
  rw [if_pos hl, hrebase]
  refine (hbase (fun old => if dRebase d then (s.tsu.herd h).base + htOfNs (dOffset d) else old) (uncounted_takeWay h _ _)).trans ?_
  rw [herd_onHerd_same]
  cases loopGoesOn s.tsu h d
  · rfl
  · rfl

/-- The LOOP test asks the context's groups, its counters and the ledger alone. -/
theorem loopGoesOn_congr {s t : State} {h : Nat} (hx : uncounted (t.tsu.herd h) = uncounted (s.tsu.herd h))
    (ht : besideRun t.tsu = besideRun s.tsu) (d : Desc) : loopGoesOn t.tsu h d = loopGoesOn s.tsu h d := by
  have hledger : t.tsu.ledger = s.tsu.ledger := besideRun_part Tsu.ledger (fun _ => rfl) ht
  have hbad : t.tsu.badLedger = s.tsu.badLedger := besideRun_part Tsu.badLedger (fun _ => rfl) ht
  have hgroups : (t.tsu.herd h).groups = (s.tsu.herd h).groups := uncounted_part Herd.groups (fun _ => rfl) hx
  have hiter : (t.tsu.herd h).iter = (s.tsu.herd h).iter := uncounted_part Herd.iter (fun _ => rfl) hx
  have hlimit : (t.tsu.herd h).iterLimit = (s.tsu.herd h).iterLimit := uncounted_part Herd.iterLimit (fun _ => rfl) hx
  simp only [loopGoesOn, groupLives, Herd.group, hledger, hbad, hgroups, hiter, hlimit]

end Sys2Proof
end

section
/-! PROOFS. The step boundary (O38), second part: launches, bank power and the end of a boundary. -/

namespace Sys2Proof

open Machine

/-! ## Bank power (R175) -/

section Power
variable {γ : Type} {v : State → γ} (hb : ∀ n b st s, v (setBank n b st s) = v s) (hs : ∀ n b h s, v (stampBank n b h s) = v s)
  (ho : ∀ o s, v (emit o s) = v s)
include hb hs ho

theorem bankOff_keeps (n h b : Nat) (s : State) : v (bankOff n h b s) = v s := by
  unfold bankOff
  dsimp only
  split
  · rw [ho, hs, hb]
  · rfl

theorem bankOn_keeps (n h b : Nat) (s : State) : v (bankOn n h b s) = v s := by
  unfold bankOn
  split
  · rw [hs]
  · rw [ho, hs, hb]
  · rw [ho, hs, hb]
  · rfl

theorem powerOp_keeps (h : Nat) (d : Desc) (s : State) : v (powerOp h d s) = v s := by
  have hact (n b : Nat) (u : State) : v ((if dPower d = 1 then bankOn else bankOff) n h b u) = v u := by
    split
    · exact bankOn_keeps hb hs ho ..
    · exact bankOff_keeps hb hs ho ..
  unfold powerOp
  dsimp only
  split
  · exact forAll_keeps v _ (fun n u => forAll_keeps v _ (fun b w => hact n b w) _ u) _ s
  · rfl

end Power

/-- Bank power leaves every part of a region but its banks. -/
theorem powerOp_region_part {γ : Type} (g : Region → γ)
    (hg : ∀ (r : Region) banks since ctx, g { r with banks := banks, bankSince := since, bankCtx := ctx } = g r) (m h : Nat) (d : Desc)
    (s : State) : g ((powerOp h d s).tsu.region m) = g (s.tsu.region m) :=
  powerOp_keeps (v := fun u => g (u.tsu.region m)) (fun n _ _ u => region_onRegion_part g (fun r => hg r _ r.bankSince r.bankCtx) m n u)
    (fun n _ _ u => region_onRegion_part g (fun r => hg r r.banks _ _) m n u) (fun _ _ => rfl) h d s

theorem powerOp_herds (h : Nat) (d : Desc) (s : State) : (powerOp h d s).tsu.herds = s.tsu.herds :=
  powerOp_keeps (v := (·.tsu.herds)) (fun _ _ _ _ => rfl) (fun _ _ _ _ => rfl) (fun _ _ => rfl) h d s

theorem powerOp_bounds (h : Nat) (d : Desc) (s : State) : (powerOp h d s).tsu.bounds = s.tsu.bounds :=
  powerOp_keeps (v := (·.tsu.bounds)) (fun _ _ _ _ => rfl) (fun _ _ _ _ => rfl) (fun _ _ => rfl) h d s

/-! ## What is sent stays sent -/

theorem forAll_out_mono {α : Type} {f : α → State → State} (hf : ∀ a s, s.out ⊆ (f a s).out) (xs : List α) (s : State) :
    s.out ⊆ (forAll xs f s).out := by
  induction xs generalizing s with
  | nil => exact List.Subset.refl _
  | cons x xs ih => exact List.Subset.trans (hf x s) (ih (f x s))

theorem emit_out_mono (o : Out) (s : State) : s.out ⊆ (emit o s).out := List.subset_append_left ..

theorem bankOff_out_mono (n h b : Nat) (s : State) : s.out ⊆ (bankOff n h b s).out := by
  unfold bankOff
  dsimp only
  split
  · exact emit_out_mono _ (stampBank n b h (setBank n b .draining s))
  · exact List.Subset.refl _

theorem bankOn_out_mono (n h b : Nat) (s : State) : s.out ⊆ (bankOn n h b s).out := by
  unfold bankOn
  split
  · exact List.Subset.refl _
  · exact emit_out_mono _ (stampBank n b h (setBank n b .on s))
  · exact emit_out_mono _ (stampBank n b h (setBank n b .waking s))
  · exact List.Subset.refl _

theorem powerOp_out_mono (h : Nat) (d : Desc) (s : State) : s.out ⊆ (powerOp h d s).out := by
  have hact (n b : Nat) (u : State) : u.out ⊆ ((if dPower d = 1 then bankOn else bankOff) n h b u).out := by
    split
    · exact bankOn_out_mono ..
    · exact bankOff_out_mono ..
  unfold powerOp
  dsimp only
  split
  · exact forAll_out_mono (fun n u => forAll_out_mono (fun b w => hact n b w) _ u) _ s
  · exact List.Subset.refl _

/-! ## A launch (R129) -/

/-- A region that a launch reaches. -/
def withLaunch (l : Launched) (r : Region) : Region := { r with launched := r.launched ++ [l], slackSent := false }

/-- The token of a launch goes to a region, with its bias. -/
def toldLaunch (h : Nat) (entry : U16) (n : Nat) (s : State) : State := toRegion n oLaunch (.launch n entry h) (sendBias n s)

theorem launchRegion_eq (h step : Nat) (entry : U16) (n : Nat) (rcc : BitVec 48) (s : State) :
    ∃ es, launchRegion h step entry n rcc s = forAll es (fun e s => emit (.fstretch n e) s)
      (onRegion n (withLaunch ⟨h, step, (s.tsu.herd h).iter.toNat, s.tsu.tc.frc.toNat, rcc, true⟩)
        (takeSnapshot n trigLaunch rcc (toldLaunch h entry n s))) := ⟨_, rfl⟩

/-- One region of a mask is launched, with its place in the mask. -/
def launchOne (h step : Nat) (entry : U16) (rccs : List (BitVec 48)) (r : Nat × Nat) (s : State) : State :=
  launchRegion h step entry r.1 (rccs.getD r.2 0) s

theorem launchRegions_eq (h step : Nat) (d : Desc) (rccs : List (BitVec 48)) (s : State) :
    launchRegions h step d rccs s = forAll ((regionsOf (dMask d)).zipIdx) (launchOne h step (dEntry d) rccs) s := by
  have hone : (fun (r : Nat × Nat) s => launchRegion h step (dEntry d) r.1 (rccs.getD r.2 0) s) = launchOne h step (dEntry d) rccs := rfl
  rw [launchRegions, hone]

section Launch
variable {γ : Type} {v : State → γ} (hr : ∀ n f (s : State), v (onRegion n f s) = v s) (ho : ∀ o (s : State), v (emit o s) = v s)
include hr ho

theorem sendBias_keeps (n : Nat) (s : State) : v (sendBias n s) = v s := by
  unfold sendBias
  split
  · rfl
  · rw [ho, hr]

theorem toRegion_keeps (n q : Nat) (o : Out) (s : State) : v (toRegion n q o s) = v s := by
  unfold toRegion putOut
  dsimp only
  split
  · rw [ho, hr]
  · rw [hr]

theorem launchRegion_keeps (h step : Nat) (entry : U16) (n : Nat) (rcc : BitVec 48) (s : State) :
    v (launchRegion h step entry n rcc s) = v s := by
  obtain ⟨es, he⟩ := launchRegion_eq h step entry n rcc s
  have hsent : v (toldLaunch h entry n s) = v s := (toRegion_keeps hr ho ..).trans (sendBias_keeps hr ho ..)
  rw [he, takeSnapshot_eq, ← hsent]
  exact (forAll_keeps v (fun e s => emit (.fstretch n e) s) (fun _ _ => ho ..) es _).trans ((hr ..).trans (hr ..))

theorem launchRegions_keeps (h step : Nat) (d : Desc) (rccs : List (BitVec 48)) (s : State) : v (launchRegions h step d rccs s) = v s := by
  rw [launchRegions_eq]
  exact forAll_keeps v (launchOne h step (dEntry d) rccs) (fun r u => launchRegion_keeps hr ho h step (dEntry d) r.1 (rccs.getD r.2 0) u) _ s

end Launch

theorem emitAll_tsu {α : Type} (g : α → Out) (es : List α) (s : State) : (forAll es (fun e s => emit (g e) s) s).tsu = s.tsu :=
  forAll_keeps State.tsu (fun e s => emit (g e) s) (fun _ _ => rfl) es s

theorem launchRegion_region_ne {m n : Nat} (hm : m ≠ n) (h step : Nat) (entry : U16) (rcc : BitVec 48) (s : State) :
    (launchRegion h step entry n rcc s).tsu.region m = s.tsu.region m := by
  have htold : (toRegion n oLaunch (.launch n entry h) (sendBias n s)).tsu.region m = s.tsu.region m := by
    rw [← sendBias_region_ne hm s]
    unfold toRegion putOut
    dsimp only
    split
    · exact region_onRegion_ne _ _ hm
    · exact region_onRegion_ne _ _ hm
  obtain ⟨es, he⟩ := launchRegion_eq h step entry n rcc s
  rw [he, emitAll_tsu, region_onRegion_ne _ _ hm, takeSnapshot_region_ne hm, toldLaunch, htold]

theorem toldLaunch_launched (h : Nat) (entry : U16) (n : Nat) (s : State) :
    ((toldLaunch h entry n s).tsu.region n).launched = (s.tsu.region n).launched := by
  have hbias : ((sendBias n s).tsu.region n).launched = (s.tsu.region n).launched := by rw [sendBias_region]
  rw [← hbias]
  unfold toldLaunch toRegion putOut
  dsimp only
  split
  · exact region_onRegion_part Region.launched (fun _ => by rfl) n n _
  · exact region_onRegion_part Region.launched (fun _ => by rfl) n n _

theorem launchRegion_launched (h step : Nat) (entry : U16) (n : Nat) (rcc : BitVec 48) (s : State) :
    ((launchRegion h step entry n rcc s).tsu.region n).launched =
      (s.tsu.region n).launched ++ [⟨h, step, (s.tsu.herd h).iter.toNat, s.tsu.tc.frc.toNat, rcc, true⟩] := by
  obtain ⟨es, he⟩ := launchRegion_eq h step entry n rcc s
  rw [he, emitAll_tsu, region_onRegion_same, takeSnapshot_region, withLaunch, snapped_launched, toldLaunch_launched]

theorem outFree_sendBias (n q : Nat) (s : State) : outFree n q (sendBias n s) = outFree n q s := by
  have hq : ((sendBias n s).tsu.region n).outq = (s.tsu.region n).outq := by rw [sendBias_region]
  have hw : ((sendBias n s).tsu.region n).outWait = (s.tsu.region n).outWait := by rw [sendBias_region]
  simp only [outFree, Region.credit, Region.heldBack, hq, hw]

theorem launchRegion_out_mono (h step : Nat) (entry : U16) (n : Nat) (rcc : BitVec 48) (s : State) :
    (toldLaunch h entry n s).out ⊆ (launchRegion h step entry n rcc s).out := by
  obtain ⟨es, he⟩ := launchRegion_eq h step entry n rcc s
  rw [he, takeSnapshot_eq]
  refine List.Subset.trans ?_ (forAll_out_mono (f := fun e s => emit (.fstretch n e) s) (fun _ u => emit_out_mono _ u) es _)
  rw [onRegion_out, onRegion_out]
  exact List.Subset.refl _

theorem toldLaunch_out_mono (h : Nat) (entry : U16) (n : Nat) (s : State) : s.out ⊆ (toldLaunch h entry n s).out := by
  have hbias : s.out ⊆ (sendBias n s).out := by
    unfold sendBias
    split
    · exact List.Subset.refl _
    · exact emit_out_mono _ (onRegion n _ s)
  refine List.Subset.trans hbias ?_
  unfold toldLaunch toRegion
  dsimp only
  split
  · exact emit_out_mono _ (onRegion n _ (sendBias n s))
  · exact List.Subset.refl _

theorem launchRegion_sends {h n : Nat} {entry : U16} {s : State} (hf : outFree n oLaunch s = true) (step : Nat) (rcc : BitVec 48) :
    Out.launch n entry h ∈ (launchRegion h step entry n rcc s).out := by
  refine launchRegion_out_mono h step entry n rcc s ?_
  rw [toldLaunch, toRegion_free (by rw [outFree_sendBias, hf])]
  exact List.mem_append_right _ (List.mem_singleton_self _)

theorem snapped_outWait (f trig : Nat) (rcc : BitVec 48) (r : Region) : (snapped f trig rcc r).outWait = r.outWait := by rw [snapped]

theorem launchRegion_waits {h n : Nat} {entry : U16} {s : State} (hf : outFree n oLaunch s = false) (step : Nat) (rcc : BitVec 48) :
    ((launchRegion h step entry n rcc s).tsu.region n).outWait = (s.tsu.region n).outWait ++ [(oLaunch, .launch n entry h)] := by
  obtain ⟨es, he⟩ := launchRegion_eq h step entry n rcc s
  rw [he, emitAll_tsu, region_onRegion_same, takeSnapshot_region, withLaunch, snapped_outWait, toldLaunch,
    toRegion_waits (by rw [outFree_sendBias, hf]), region_onRegion_same, sendBias_region]

end Sys2Proof
end

section
/-! PROOFS. The step boundary (O38), third part: a launch over its mask, and the boundary from its count to its end. -/

namespace Sys2Proof

open Machine

/-! ## A launch over its mask -/

theorem regionsOf_nodup (m : BitVec 52) : (regionsOf m).Nodup := List.nodup_range.filter _

/-- A region of a mask, with its place, among the others of the mask. -/
theorem zipIdx_split {m : BitVec 52} {i r : Nat} (hi : (regionsOf m)[i]? = some r) :
    ∃ before after, (regionsOf m).zipIdx = before ++ (r, i) :: after ∧ (∀ e ∈ before, r ≠ e.1) ∧ ∀ e ∈ after, r ≠ e.1 := by
  have hmem : (r, i) ∈ (regionsOf m).zipIdx := List.mk_mem_zipIdx_iff_getElem?.mpr hi
  obtain ⟨before, after, hsplit⟩ := List.append_of_mem hmem
  have hnodup : (((regionsOf m).zipIdx).map Prod.fst).Nodup := by
    rw [List.zipIdx_map_fst]
    exact regionsOf_nodup m
  rw [hsplit, List.map_append, List.map_cons, List.nodup_append] at hnodup
  obtain ⟨-, hafter, hbefore⟩ := hnodup
  refine ⟨before, after, hsplit, fun e he hr => ?_, fun e he hr => ?_⟩
  · exact hbefore e.1 (List.mem_map_of_mem he) r (List.mem_cons_self ..) hr.symm
  · have hlater : r ∈ after.map Prod.fst := by
      rw [hr]
      exact List.mem_map_of_mem he
    exact (List.nodup_cons.mp hafter).1 hlater

section Mask
variable {d : Desc} {i r : Nat} (hi : (regionsOf (dMask d))[i]? = some r)
include hi

/-- What a launch over a mask does to one region of it is what its own token does, on the same context and tick. -/
theorem launchRegions_at (h step : Nat) (rccs : List (BitVec 48)) (s : State) :
    ∃ u, u.tsu.region r = s.tsu.region r ∧ u.tsu.herd h = s.tsu.herd h ∧ u.tsu.tc = s.tsu.tc ∧
      (launchRegions h step d rccs s).tsu.region r = (launchRegion h step (dEntry d) r (rccs.getD i 0) u).tsu.region r ∧
      (launchRegion h step (dEntry d) r (rccs.getD i 0) u).out ⊆ (launchRegions h step d rccs s).out := by
  obtain ⟨before, after, hsplit, hbefore, hafter⟩ := zipIdx_split hi
  have hne (e : Nat × Nat) (he : r ≠ e.1) (u : State) : (launchOne h step (dEntry d) rccs e u).tsu.region r = u.tsu.region r :=
    launchRegion_region_ne he ..
  have hout (e : Nat × Nat) (u : State) : u.out ⊆ (launchOne h step (dEntry d) rccs e u).out :=
    List.Subset.trans (toldLaunch_out_mono ..) (launchRegion_out_mono ..)
  refine ⟨forAll before (launchOne h step (dEntry d) rccs) s, ?_, ?_, ?_, ?_, ?_⟩
  · exact forAll_keeps_mem (v := (·.tsu.region r)) (fun e he u => hne e (hbefore e he) u) s
  · exact forAll_keeps (·.tsu.herd h) (launchOne h step (dEntry d) rccs)
      (fun e u => launchRegion_keeps (v := (·.tsu.herd h)) (fun _ _ _ => rfl) (fun _ _ => rfl) ..) before s
  · exact forAll_keeps (·.tsu.tc) (launchOne h step (dEntry d) rccs) (fun e u => tc_launchRegion ..) before s
  · rw [launchRegions_eq, hsplit, forAll_append]
    exact forAll_keeps_mem (v := (·.tsu.region r)) (fun e he u => hne e (hafter e he) u) _
  · rw [launchRegions_eq, hsplit, forAll_append]
    exact forAll_out_mono hout after _

theorem launchRegions_launched (h step : Nat) (rccs : List (BitVec 48)) (s : State) :
    ((launchRegions h step d rccs s).tsu.region r).launched = (s.tsu.region r).launched ++
      [⟨h, step, (s.tsu.herd h).iter.toNat, s.tsu.tc.frc.toNat, rccs.getD i 0, true⟩] := by
  obtain ⟨u, hregion, hherd, htc, hresult, -⟩ := launchRegions_at hi h step rccs s
  rw [hresult, launchRegion_launched, hregion, hherd, htc]

theorem launchRegions_sends {s : State} (hf : outFree r oLaunch s = true) (h step : Nat) (rccs : List (BitVec 48)) :
    Out.launch r (dEntry d) h ∈ (launchRegions h step d rccs s).out := by
  obtain ⟨u, hregion, -, -, -, hout⟩ := launchRegions_at hi h step rccs s
  exact hout (launchRegion_sends ((outFree_of_region hregion).trans hf) step _)

theorem launchRegions_waits {s : State} (hf : outFree r oLaunch s = false) (h step : Nat) (rccs : List (BitVec 48)) :
    ((launchRegions h step d rccs s).tsu.region r).outWait = (s.tsu.region r).outWait ++ [(oLaunch, .launch r (dEntry d) h)] := by
  obtain ⟨u, hregion, -, -, hresult, -⟩ := launchRegions_at hi h step rccs s
  rw [hresult, launchRegion_waits ((outFree_of_region hregion).trans hf), hregion]

end Mask

/-- A context that has launched a step. -/
def steppedOn (a : Ahead) (d : Desc) (f : Nat) (x : Herd) : Herd :=
  let slip : U32 := BitVec.ofNat 32 (min (f - a.gridTick.getD f) 0xFFFFFFFF)
  { x with slipLast := slip, slipMax := if x.slipMax.toNat < slip.toNat then slip else x.slipMax,
           steps := if dSwap d = 1 ∨ dMask d = 0 then x.steps
                    else x.steps ++ [{ step := a.step, iter := x.iter.toNat, fl := f, left := dMask d }] }

theorem launchStep_eq (h : Nat) (a : Ahead) (d : Desc) (rccs : List (BitVec 48)) (s : State) :
    launchStep h a d rccs s = onHerd h (steppedOn a d s.tsu.tc.frc.toNat) (launchRegions h a.step d rccs s) := rfl

theorem uncounted_launchStep (h : Nat) (a : Ahead) (d : Desc) (rccs : List (BitVec 48)) (s : State) :
    uncounted ((launchStep h a d rccs s).tsu.herd h) = uncounted (s.tsu.herd h) := by
  rw [launchStep_eq, herd_onHerd_same,
    launchRegions_keeps (v := (·.tsu.herd h)) (fun _ _ _ => rfl) (fun _ _ => rfl)]
  rfl

theorem launchStep_bounds (h : Nat) (a : Ahead) (d : Desc) (rccs : List (BitVec 48)) (s : State) :
    (launchStep h a d rccs s).tsu.bounds = s.tsu.bounds :=
  launchRegions_keeps (v := (·.tsu.bounds)) (fun _ _ _ => rfl) (fun _ _ => rfl) h a.step d rccs s

/-! ## The end of a boundary -/

theorem fillAhead_out (h fuel : Nat) (s : State) : (fillAhead h fuel s).out = s.out := by
  induction fuel generalizing s with
  | zero => rfl
  | succ fuel ih =>
    unfold fillAhead
    split
    · exact ih _
    · rfl

theorem consumeEvents_out (d : Desc) (s : State) : (consumeEvents d s).out = s.out := by
  refine forAll_keeps State.out _ (fun k u => ?_) _ _
  dsimp only
  split
  · rfl
  · rfl

/-- The boundary that phases 7 and 8 are to see. -/
def boundaryOf (h : Nat) (a : Ahead) (acts : Bool) (x y : Herd) : Boundary :=
  { ctx := h, step := a.step, grid := a.grid, iter := x.iter.toNat, acts := acts,
    loop := if y.iter = x.iter then none else some y.iter.toNat }

/-- A boundary enters the list of its tick. -/
def listed (h : Nat) (a : Ahead) (d : Desc) (acts : Bool) (s : State) : State :=
  onTsu (fun t => { t with bounds := t.bounds ++ [boundaryOf h a acts (s.tsu.herd h) ((advance h d s).tsu.herd h)] }) (advance h d s)

theorem finishBoundary_next {d : Desc} (he : dType d ≠ typeEnd) (h : Nat) (a : Ahead) (acts : Bool) (s : State) :
    finishBoundary h a d acts s = fillAhead h (2 * windowSize) (listed h a d acts s) := by
  unfold finishBoundary listed boundaryOf
  dsimp only
  rw [if_neg he]

theorem finishBoundary_end {d : Desc} (he : dType d = typeEnd) (h : Nat) (a : Ahead) (acts : Bool) (s : State) :
    finishBoundary h a d acts s = endRun h .done (listed h a d acts s) := by
  unfold finishBoundary listed boundaryOf
  dsimp only
  rw [if_pos he]

theorem listed_herds (h : Nat) (a : Ahead) (d : Desc) (acts : Bool) (s : State) :
    (listed h a d acts s).tsu.herds = (advance h d s).tsu.herds := rfl

theorem listed_regions (h : Nat) (a : Ahead) (d : Desc) (acts : Bool) (s : State) : (listed h a d acts s).tsu.regions = s.tsu.regions := by
  have hregions : (advance h d s).tsu.regions = s.tsu.regions := regions_of_besideRun (besideRun_advance h d s)
  exact hregions

theorem listed_ended (h : Nat) (a : Ahead) (d : Desc) (acts : Bool) (s : State) : (listed h a d acts s).tsu.ended = s.tsu.ended := by
  have hended : (advance h d s).tsu.ended = s.tsu.ended := ended_of_besideRun (besideRun_advance h d s)
  exact hended

section Step
variable {d : Desc} (hl : dType d ≠ typeLoop) (he : dType d ≠ typeEnd)
include hl he

theorem advance_out_step (h : Nat) (s : State) : (advance h d s).out = s.out := by
  unfold advance
  dsimp only
  rw [if_neg hl, if_neg he]
  split
  · rfl
  · rfl

/-- The boundary of a descriptor that goes on at NEXT. -/
theorem listed_bounds_step (h : Nat) (a : Ahead) (acts : Bool) (s : State) : (listed h a d acts s).tsu.bounds =
    s.tsu.bounds ++ [⟨h, a.step, a.grid, (s.tsu.herd h).iter.toNat, acts, none⟩] := by
  have hb : (advance h d s).tsu.bounds = s.tsu.bounds := bounds_of_besideRun (besideRun_advance h d s)
  have hiter : ((advance h d s).tsu.herd h).iter = (s.tsu.herd h).iter := by
    rw [advance_herd_step hl he, toNext]
  rw [listed, onTsu_tsu, boundaryOf, if_pos hiter, hb]

theorem finishBoundary_step (h : Nat) (a : Ahead) (acts : Bool) (s : State) : let t := finishBoundary h a d acts s
    uncounted (t.tsu.herd h) = uncounted (toNext d (s.tsu.herd h)) ∧ t.tsu.regions = s.tsu.regions ∧ t.out = s.out ∧
      t.tsu.bounds = s.tsu.bounds ++ [⟨h, a.step, a.grid, (s.tsu.herd h).iter.toNat, acts, none⟩] := by
  intro t
  have ht : t = fillAhead h (2 * windowSize) (listed h a d acts s) := finishBoundary_next he h a acts s
  have hbeside := besideRun_fillAhead h (2 * windowSize) (listed h a d acts s)
  rw [ht]
  refine ⟨?_, ?_, ?_, ?_⟩
  · rw [uncounted_fillAhead, herd_congr (listed_herds ..), advance_herd_step hl he]
  · rw [regions_of_besideRun hbeside, listed_regions]
  · rw [fillAhead_out]
    exact advance_out_step hl he h s
  · rw [bounds_of_besideRun hbeside, listed_bounds_step hl he]

end Step

theorem finishBoundary_loop {d : Desc} (hl : dType d = typeLoop) (h : Nat) (a : Ahead) (acts : Bool) (s : State) :
    let t := finishBoundary h a d acts s
    uncounted (t.tsu.herd h) = uncounted (pastLoop (loopGoesOn s.tsu h d) d (s.tsu.herd h)) ∧ t.tsu.regions = s.tsu.regions := by
  intro t
  have he : dType d ≠ typeEnd := by rw [hl]; decide
  have ht : t = fillAhead h (2 * windowSize) (listed h a d acts s) := finishBoundary_next he h a acts s
  rw [ht]
  refine ⟨?_, ?_⟩
  · rw [uncounted_fillAhead, herd_congr (listed_herds ..), advance_herd_loop hl]
  · rw [regions_of_besideRun (besideRun_fillAhead ..), listed_regions]

/-! ## The end of a run -/

theorem purgeHerd_herds (h : Nat) (s : State) : (purgeHerd h s).tsu.herds = s.tsu.herds := by
  unfold purgeHerd
  exact forAll_keeps (fun u : State => u.tsu.herds) (fun i s => endWatch i 6 outPurged (watchValue s.tsu (s.tsu.watch i)) s)
    (fun _ _ => rfl) _ s

/-- A context whose run has ended. -/
def runEnded (st : HerdState) (x : Herd) : Herd := { x with state := st, ahead := [], departing := none, haltLate := false }

theorem endRun_herd (h : Nat) (st : HerdState) (s : State) : (endRun h st s).tsu.herd h = runEnded st (s.tsu.herd h) := by
  have hherd : (if decide ((s.tsu.herd h).state = .running) then purgeHerd h s else s).tsu.herd h = s.tsu.herd h := by
    split
    · exact herd_congr (purgeHerd_herds h s) h
    · rfl
  rw [← hherd]
  exact herd_onHerd_same h (runEnded st) (if decide ((s.tsu.herd h).state = .running) then purgeHerd h s else s)

theorem endRun_regions (h : Nat) (st : HerdState) (s : State) : (endRun h st s).tsu.regions = s.tsu.regions := by
  have hpurge : (if decide ((s.tsu.herd h).state = .running) then purgeHerd h s else s).tsu.regions = s.tsu.regions := by
    split
    · exact regions_of_besideRun (besideRun_purgeHerd h s)
    · rfl
  exact hpurge

theorem endRun_ended (h : Nat) (st : HerdState) (s : State) :
    (endRun h st s).tsu.ended = s.tsu.ended ++ [(h, decide ((s.tsu.herd h).state = .running))] := by
  have hpurge : (if decide ((s.tsu.herd h).state = .running) then purgeHerd h s else s).tsu.ended = s.tsu.ended := by
    split
    · exact ended_of_besideRun (besideRun_purgeHerd h s)
    · rfl
  exact congrArg (· ++ [(h, decide ((s.tsu.herd h).state = .running))]) hpurge

end Sys2Proof
end

section
/-! PROOFS. The step boundary (O38), fourth part: descriptors that are due, and the commands. -/

namespace Sys2Proof

open Machine

/-! ## What is due -/

/-- Something is due of a running context alone. -/
theorem running_of_due {t : Tsu} {h : Nat} (hd : due t h ≠ .nothing) : (t.herd h).state = .running := by
  by_contra hs
  refine hd ?_
  unfold due
  dsimp only
  split
  · rfl
  · rw [if_pos (.inl hs)]

/-! ## Phase 6 of a descriptor that goes (R128) -/

/-- The actions in phase 6 of a LAUNCH or NOP, past its launch. -/
def powered (h : Nat) (d : Desc) (s : State) : State := consumeEvents d (powerOp h d s)

theorem powered_out_mono (h : Nat) (d : Desc) (s : State) : s.out ⊆ (powered h d s).out := by
  rw [powered, consumeEvents_out]
  exact powerOp_out_mono ..

theorem uncounted_powered (h : Nat) (d : Desc) (s : State) : uncounted ((powered h d s).tsu.herd h) = uncounted (s.tsu.herd h) := by
  rw [powered, uncounted_consumeEvents, herd_congr (powerOp_herds ..)]

theorem powered_bounds (h : Nat) (d : Desc) (s : State) : (powered h d s).tsu.bounds = s.tsu.bounds := by
  rw [powered, bounds_of_besideRun (besideRun_consumeEvents ..), powerOp_bounds]

theorem powered_region_part {γ : Type} (g : Region → γ)
    (hg : ∀ (r : Region) banks since ctx, g { r with banks := banks, bankSince := since, bankCtx := ctx } = g r) (h : Nat) (d : Desc)
    (s : State) (m : Nat) : g ((powered h d s).tsu.region m) = g (s.tsu.region m) := by
  rw [powered, region_congr (regions_of_besideRun (besideRun_consumeEvents ..)), powerOp_region_part g hg]

theorem goBoundary_launch {h : Nat} {a : Ahead} {s : State} (hd : dType (s.tsu.desc a.step) = typeLaunch)
    (hl : launches (s.tsu.herd h) (s.tsu.desc a.step) = true) (rccs : List (BitVec 48)) :
    goBoundary h a rccs s = finishBoundary h a (s.tsu.desc a.step) true (powered h (s.tsu.desc a.step)
      (launchStep h a (s.tsu.desc a.step) rccs (counted h a (s.tsu.desc a.step) s))) := by
  have hacts : decide (dType (s.tsu.desc a.step) = typeLaunch ∨ dType (s.tsu.desc a.step) = typeNop) = true := decide_eq_true (.inl hd)
  unfold goBoundary
  dsimp only
  rw [hacts, hl, if_pos rfl, if_pos rfl, powered, counted]

theorem goBoundary_pass {h : Nat} {a : Ahead} {s : State} (hd : dType (s.tsu.desc a.step) = typeLaunch ∨ dType (s.tsu.desc a.step) = typeNop)
    (hl : launches (s.tsu.herd h) (s.tsu.desc a.step) = false) (rccs : List (BitVec 48)) :
    goBoundary h a rccs s = finishBoundary h a (s.tsu.desc a.step) true (powered h (s.tsu.desc a.step)
      (counted h a (s.tsu.desc a.step) s)) := by
  unfold goBoundary
  dsimp only
  rw [decide_eq_true hd, hl, if_pos rfl, if_neg Bool.false_ne_true, powered, counted]

theorem launches_of_type_ne {x : Herd} {d : Desc} (hd : dType d ≠ typeLaunch) : launches x d = false := by
  simp [launches, hd]

theorem goBoundary_control {h : Nat} {a : Ahead} {s : State}
    (hd : ¬(dType (s.tsu.desc a.step) = typeLaunch ∨ dType (s.tsu.desc a.step) = typeNop)) (rccs : List (BitVec 48)) :
    goBoundary h a rccs s = finishBoundary h a (s.tsu.desc a.step) false (consumeEvents (s.tsu.desc a.step)
      (counted h a (s.tsu.desc a.step) s)) := by
  unfold goBoundary
  dsimp only
  rw [decide_eq_false hd, launches_of_type_ne (not_or.mp hd).1, if_neg Bool.false_ne_true, if_neg Bool.false_ne_true, counted]

/-! ## What a boundary comes to -/

/-- A context has gone on to NEXT, with its boundary in the list of the tick. -/
def wentOn (h : Nat) (a : Ahead) (acts : Bool) (d : Desc) (s t : State) : Prop :=
  uncounted (t.tsu.herd h) = uncounted (toNext d (s.tsu.herd h)) ∧
    t.tsu.bounds = s.tsu.bounds ++ [⟨h, a.step, a.grid, (s.tsu.herd h).iter.toNat, acts, none⟩]

theorem wentOn_finish {h : Nat} {a : Ahead} {d : Desc} (hl : dType d ≠ typeLoop) (he : dType d ≠ typeEnd) (acts : Bool) {s u : State}
    (hu : uncounted (u.tsu.herd h) = uncounted (s.tsu.herd h)) (hb : u.tsu.bounds = s.tsu.bounds) :
    wentOn h a acts d s (finishBoundary h a d acts u) := by
  obtain ⟨hherd, -, -, hbounds⟩ := finishBoundary_step hl he h a acts u
  refine ⟨hherd.trans ?_, ?_⟩
  · exact congrArg (toNext d) hu
  · rw [hbounds, hb, uncounted_part Herd.iter (fun _ => rfl) hu]

theorem wentOn_enterErrs {h : Nat} {a : Ahead} {acts : Bool} {d : Desc} {s t : State} (ht : wentOn h a acts d s t) :
    wentOn h a acts d s (enterErrs t) := by
  obtain ⟨hherd, hbounds⟩ := ht
  refine ⟨?_, ?_⟩
  · rw [herd_congr (enterErrs_herds t)]
    exact hherd
  · exact (enterErrs_keeps (·.tsu.bounds) (fun _ _ _ _ _ _ => rfl) (fun _ => rfl) t).trans hbounds

theorem wentOn_fields {h : Nat} {a : Ahead} {acts : Bool} {d : Desc} {s t : State} (ht : wentOn h a acts d s t)
    (hrun : (s.tsu.herd h).state = .running) : (t.tsu.herd h).state = .running ∧
      t.tsu.bounds = s.tsu.bounds ++ [⟨h, a.step, a.grid, (s.tsu.herd h).iter.toNat, acts, none⟩] ∧
      (t.tsu.herd h).iter = (s.tsu.herd h).iter ∧ (t.tsu.herd h).cur = BitVec.ofNat 32 (dNext d) ∧
      (t.tsu.herd h).base = (if dRebase d then (s.tsu.herd h).base + htOfNs (dOffset d) else (s.tsu.herd h).base) :=
  ⟨(uncounted_part Herd.state (fun _ => rfl) ht.1).trans hrun, ht.2,
    (uncounted_part Herd.iter (fun _ => rfl) ht.1).trans rfl,
    uncounted_part Herd.cur (fun _ => rfl) ht.1, uncounted_part Herd.base (fun _ => rfl) ht.1⟩

/-! ## A descriptor that is due (R122, R129, R137) -/

theorem bounds_counted (h : Nat) (a : Ahead) (d : Desc) (s : State) : (counted h a d s).tsu.bounds = s.tsu.bounds :=
  bounds_of_besideRun (besideRun_counted ..)

theorem region_counted (h : Nat) (a : Ahead) (d : Desc) (s : State) (r : Nat) : (counted h a d s).tsu.region r = s.tsu.region r :=
  region_congr (regions_of_besideRun (besideRun_counted ..)) r

theorem goBoundary_wentOn {h : Nat} {a : Ahead} {s : State}
    (hd : dType (s.tsu.desc a.step) = typeLaunch ∨ dType (s.tsu.desc a.step) = typeNop) (rccs : List (BitVec 48)) :
    wentOn h a true (s.tsu.desc a.step) s (goBoundary h a rccs s) := by
  have hloop : dType (s.tsu.desc a.step) ≠ typeLoop := by rcases hd with hd | hd <;> rw [hd] <;> decide
  have hend : dType (s.tsu.desc a.step) ≠ typeEnd := by rcases hd with hd | hd <;> rw [hd] <;> decide
  cases hl : launches (s.tsu.herd h) (s.tsu.desc a.step) with
  | false =>
    rw [goBoundary_pass hd hl]
    refine wentOn_finish hloop hend true ?_ ?_
    · rw [uncounted_powered, uncounted_counted]
    · rw [powered_bounds, bounds_counted]
  | true =>
    rw [goBoundary_launch (of_decide_eq_true (Bool.and_eq_true _ _ ▸ hl).1) hl]
    refine wentOn_finish hloop hend true ?_ ?_
    · rw [uncounted_powered, uncounted_launchStep, uncounted_counted]
    · rw [powered_bounds, launchStep_bounds, bounds_counted]

theorem goBoundary_region_pass {h : Nat} {a : Ahead} {s : State}
    (hd : dType (s.tsu.desc a.step) = typeNop) (rccs : List (BitVec 48)) (r : Nat) :
    ((goBoundary h a rccs s).tsu.region r).launched = (s.tsu.region r).launched := by
  have hloop : dType (s.tsu.desc a.step) ≠ typeLoop := by rw [hd]; decide
  have hend : dType (s.tsu.desc a.step) ≠ typeEnd := by rw [hd]; decide
  rw [goBoundary_pass (.inr hd) (launches_of_type_ne (by rw [hd]; decide)),
    region_congr (finishBoundary_step hloop hend h a true _).2.1, powered_region_part Region.launched fun _ _ _ _ => rfl, region_counted]

/-- A launch reaches every region of its mask. -/
theorem goBoundary_launches {h : Nat} {a : Ahead} {s : State} {rccs : List (BitVec 48)} (hd : dType (s.tsu.desc a.step) = typeLaunch)
    (hswap : dSwap (s.tsu.desc a.step) ≠ 1 ∨ (s.tsu.herd h).swap = .planned) {i r : Nat}
    (hi : (regionsOf (dMask (s.tsu.desc a.step)))[i]? = some r) :
    ((goBoundary h a rccs s).tsu.region r).launched = (s.tsu.region r).launched ++
        [⟨h, a.step, (s.tsu.herd h).iter.toNat, s.tsu.tc.frc.toNat, rccs.getD i 0, true⟩] ∧
      (outFree r oLaunch s = true → Out.launch r (dEntry (s.tsu.desc a.step)) h ∈ (goBoundary h a rccs s).out) ∧
      (outFree r oLaunch s = false → ((goBoundary h a rccs s).tsu.region r).outWait =
        (s.tsu.region r).outWait ++ [(oLaunch, .launch r (dEntry (s.tsu.desc a.step)) h)]) := by
  have hl : launches (s.tsu.herd h) (s.tsu.desc a.step) = true := by
    rw [launches, decide_eq_true hd, decide_eq_true hswap, Bool.and_self]
  have hloop : dType (s.tsu.desc a.step) ≠ typeLoop := by rw [hd]; decide
  have hend : dType (s.tsu.desc a.step) ≠ typeEnd := by rw [hd]; decide
  have hregion := region_counted h a (s.tsu.desc a.step) s r
  have hiter : ((counted h a (s.tsu.desc a.step) s).tsu.herd h).iter = (s.tsu.herd h).iter :=
    uncounted_part Herd.iter (fun _ => rfl) (uncounted_counted ..)
  have htc : (counted h a (s.tsu.desc a.step) s).tsu.tc = s.tsu.tc := besideRun_part Tsu.tc (fun _ => rfl) (besideRun_counted ..)
  have hfree : outFree r oLaunch (counted h a (s.tsu.desc a.step) s) = outFree r oLaunch s := outFree_of_region hregion
  rw [goBoundary_launch hd hl]
  generalize hu : launchStep h a (s.tsu.desc a.step) rccs (counted h a (s.tsu.desc a.step) s) = u
  obtain ⟨-, hregions, hout, -⟩ := finishBoundary_step hloop hend h a true (powered h (s.tsu.desc a.step) u)
  have hregion_u : u.tsu.region r = (launchRegions h a.step (s.tsu.desc a.step) rccs (counted h a (s.tsu.desc a.step) s)).tsu.region r := by
    rw [← hu, launchStep_eq]
    exact region_congr rfl r
  refine ⟨?_, fun hf => ?_, fun hf => ?_⟩
  · rw [region_congr hregions, powered_region_part Region.launched fun _ _ _ _ => rfl, hregion_u, launchRegions_launched hi, hregion, hiter, htc]
  · rw [hout]
    refine powered_out_mono h _ u ?_
    rw [← hu]
    exact launchRegions_sends hi (hfree.trans hf) h a.step rccs
  · rw [region_congr hregions, powered_region_part Region.outWait fun _ _ _ _ => rfl, hregion_u, launchRegions_waits hi (hfree.trans hf),
      hregion]

theorem goBoundary_loop {h : Nat} {a : Ahead} {s : State} (hd : dType (s.tsu.desc a.step) = typeLoop) (rccs : List (BitVec 48)) :
    uncounted ((goBoundary h a rccs s).tsu.herd h) =
        uncounted (pastLoop (loopGoesOn s.tsu h (s.tsu.desc a.step)) (s.tsu.desc a.step) (s.tsu.herd h)) ∧
      (goBoundary h a rccs s).tsu.regions = s.tsu.regions := by
  have hu : uncounted ((consumeEvents (s.tsu.desc a.step) (counted h a (s.tsu.desc a.step) s)).tsu.herd h) = uncounted (s.tsu.herd h) := by
    rw [uncounted_consumeEvents, uncounted_counted]
  have hb : besideRun (consumeEvents (s.tsu.desc a.step) (counted h a (s.tsu.desc a.step) s)).tsu = besideRun s.tsu := by simp
  obtain ⟨hherd, hregions⟩ := finishBoundary_loop hd h a false (consumeEvents (s.tsu.desc a.step) (counted h a (s.tsu.desc a.step) s))
  rw [goBoundary_control (by rw [hd]; decide)]
  refine ⟨hherd.trans ?_, hregions.trans (regions_of_besideRun hb)⟩
  rw [loopGoesOn_congr hu hb]
  exact congrArg (pastLoop _ _) hu

theorem advance_state_end {d : Desc} (he : dType d = typeEnd) (h : Nat) (s : State) :
    ((advance h d s).tsu.herd h).state = (s.tsu.herd h).state := by
  have hl : dType d ≠ typeLoop := by rw [he]; decide
  unfold advance
  dsimp only
  rw [if_neg hl, if_pos he]
  split
  · rw [herd_onHerd_same]
  · rfl

theorem goBoundary_end {h : Nat} {a : Ahead} {s : State} (hd : dType (s.tsu.desc a.step) = typeEnd) (hrun : (s.tsu.herd h).state = .running)
    (rccs : List (BitVec 48)) : ((goBoundary h a rccs s).tsu.herd h).state = .done ∧
      (goBoundary h a rccs s).tsu.ended = s.tsu.ended ++ [(h, true)] ∧ (goBoundary h a rccs s).tsu.regions = s.tsu.regions := by
  have hb : besideRun (consumeEvents (s.tsu.desc a.step) (counted h a (s.tsu.desc a.step) s)).tsu = besideRun s.tsu := by simp
  have hstate : ((listed h a (s.tsu.desc a.step) false (consumeEvents (s.tsu.desc a.step) (counted h a (s.tsu.desc a.step) s))).tsu.herd
      h).state = .running := by
    rw [herd_congr (listed_herds ..), advance_state_end hd, uncounted_part Herd.state (fun _ => rfl) (uncounted_consumeEvents ..),
      uncounted_part Herd.state (fun _ => rfl) (uncounted_counted ..), hrun]
  rw [goBoundary_control (by rw [hd]; decide), finishBoundary_end hd]
  refine ⟨?_, ?_, ?_⟩
  · rw [endRun_herd, runEnded]
  · rw [endRun_ended, hstate, listed_ended, ended_of_besideRun hb]
    rfl
  · rw [endRun_regions, listed_regions, regions_of_besideRun hb]

/-! ## The commands (R122, R54, R149) -/

theorem exec_boundary {c : Instr} {h : Nat} {act : State → State} {s : State} (hp : placeOf c = inPhase 6 h) (hw : s.tsu.works = true)
    (hh : h < 64) (ha : s.aheadOf (inPhase 6 h) = false) :
    performOn .tsu (ctxOk h) (inTurn c act) s = .next (enterErrs (act s.fresh)) := by
  have hturn : s.fresh.aheadOf (placeOf c) = false := by
    rw [hp]
    exact ha
  have hok : ctxOk h = true := decide_eq_true hh
  rw [performOn_works (d := .tsu) hok hw, inTurn_acts hturn]

section Due
variable {h typ : Nat} {rccs : List (BitVec 48)} {ecc : Ecc} {a : Ahead} {s : State}
  (hhead : ((atBoundary ecc s).tsu.herd h).ahead.head? = some a) (hd : dType ((atBoundary ecc s).tsu.desc a.step) = typ)
include hhead hd

theorem stepBoundary_go (hdue : due (atBoundary ecc s).tsu h = .go) (hecc : ecc.uncorrectable.contains (.desc a.step) = false)
    (hgroup : typ = typeLoop → dGroup ((atBoundary ecc s).tsu.desc a.step) = 15 ∨
      badInGroup (atBoundary ecc s).tsu h (dGroup ((atBoundary ecc s).tsu.desc a.step)) = none) :
    stepBoundary h typ rccs ecc s.fresh = goBoundary h a rccs (atBoundary ecc s) := by
  have hgood : (if dType ((atBoundary ecc s).tsu.desc a.step) = typeLoop ∧ dGroup ((atBoundary ecc s).tsu.desc a.step) ≠ 15 then
      badInGroup (atBoundary ecc s).tsu h (dGroup ((atBoundary ecc s).tsu.desc a.step)) else none) = none := by
    split
    · next hloop => exact (hgroup (hd ▸ hloop.1)).resolve_left hloop.2
    · rfl
  unfold stepBoundary
  dsimp only
  rw [← atBoundary, hhead]
  dsimp only
  rw [if_neg (not_not_intro hd), hdue]
  dsimp only
  rw [tryBoundary, hecc, if_neg Bool.false_ne_true, hgood]

theorem stepBoundary_leaves {cause : Nat} (hdue : due (atBoundary ecc s).tsu h = .leaves cause) :
    stepBoundary h typ rccs ecc s.fresh = leaveHerd h cause (atBoundary ecc s) := by
  unfold stepBoundary
  dsimp only
  rw [← atBoundary, hhead]
  dsimp only
  rw [if_neg (not_not_intro hd), hdue]

end Due

theorem atBoundary_tc (ecc : Ecc) (s : State) : (atBoundary ecc s).tsu.tc = s.tsu.tc := by
  simp [atBoundary]

theorem boundary_fjz (h typ : Nat) (rccs : List (BitVec 48)) (ecc : Ecc) (s : State) :
    (enterErrs (stepBoundary h typ rccs ecc s.fresh)).fjz = s.fjz := by simp

theorem boundary_tc (h typ : Nat) (rccs : List (BitVec 48)) (ecc : Ecc) (s : State) :
    (enterErrs (stepBoundary h typ rccs ecc s.fresh)).tsu.tc = s.tsu.tc := by simp

theorem halting_fjz (h : Nat) (s : State) : (enterErrs (haltBoundary h s.fresh)).fjz = s.fjz := by simp

theorem halting_tc (h : Nat) (s : State) : (enterErrs (haltBoundary h s.fresh)).tsu.tc = s.tsu.tc := by simp

theorem enterErrs_herd (n : Nat) (s : State) : (enterErrs s).tsu.herd n = s.tsu.herd n := herd_congr (enterErrs_herds s) n

theorem leaveHerd_state (h cause : Nat) (s : State) : ((leaveHerd h cause s).tsu.herd h).state = .left := by
  unfold leaveHerd
  dsimp only
  rw [endRun_herd, runEnded]

section Halting
variable {h : Nat} {a : Ahead} {s : State} (hhead : ((atPhase4 s).tsu.herd h).ahead.head? = some a)
include hhead

theorem haltBoundary_halted (hdue : due (atPhase4 s).tsu h = .halted) : haltBoundary h s.fresh = enterHalted h (atPhase4 s) := by
  unfold haltBoundary
  dsimp only
  rw [← atPhase4, hhead]
  dsimp only
  rw [hdue]

theorem haltBoundary_silent (hdue : due (atPhase4 s).tsu h = .silent) : haltBoundary h s.fresh = silentBoundary h a (atPhase4 s) := by
  unfold haltBoundary
  dsimp only
  rw [← atPhase4, hhead]
  dsimp only
  rw [hdue]

end Halting

theorem enterHalted_herd {h : Nat} {a : Ahead} {s : State} (hhead : (s.tsu.herd h).ahead.head? = some a) :
    ((enterHalted h s).tsu.herd h).state = .halted ∧ ((enterHalted h s).tsu.herd h).haltPoint =
      (if (s.tsu.herd h).haltLate then a.grid else (s.tsu.herd h).halt.getD a.grid) := by
  unfold enterHalted
  dsimp only
  rw [endRun_herd, runEnded, hhead, herd_onHerd_same]
  exact ⟨rfl, rfl⟩

theorem silentBoundary_eq (h : Nat) (a : Ahead) (s : State) : silentBoundary h a s =
    finishBoundary h a (s.tsu.desc a.step) false (counted h a (s.tsu.desc a.step) s) := rfl

theorem finishBoundary_regions (h : Nat) (a : Ahead) (d : Desc) (acts : Bool) (s : State) :
    (finishBoundary h a d acts s).tsu.regions = s.tsu.regions := by
  by_cases he : dType d = typeEnd
  · rw [finishBoundary_end he, endRun_regions, listed_regions]
  · rw [finishBoundary_next he, regions_of_besideRun (besideRun_fillAhead ..), listed_regions]

theorem silentBoundary_wentOn {h : Nat} {a : Ahead} {s : State}
    (hd : dType (s.tsu.desc a.step) = typeLaunch ∨ dType (s.tsu.desc a.step) = typeNop) :
    wentOn h a false (s.tsu.desc a.step) s (silentBoundary h a s) := by
  have hloop : dType (s.tsu.desc a.step) ≠ typeLoop := by rcases hd with hd | hd <;> rw [hd] <;> decide
  have hend : dType (s.tsu.desc a.step) ≠ typeEnd := by rcases hd with hd | hd <;> rw [hd] <;> decide
  exact wentOn_finish hloop hend false (uncounted_counted ..) (bounds_counted ..)

/-- The LOOP test as R137 says it. -/
theorem loopGoesOn_iff {t : Tsu} {h : Nat} {d : Desc} : loopGoesOn t h d = true ↔
    (dGroup d = 15 ∨ groupLives t h (dGroup d) = true) ∧ (t.herd h).iter.toNat + 1 < (t.herd h).iterLimit.toNat := by
  simp [loopGoesOn]

/-- Settles O38, clause by clause: what is due, what its boundary comes to, and that the records of the tick leave it alone. -/
theorem descriptorsAtTheirBoundaries : Obligations.DescriptorsAtTheirBoundaries := by
  refine ⟨?_, ?_, ?_, ?_, ?_, ?_⟩
  · intro h rccs ecc a s hw hh ha hecc u d x hhead hdue hd
    have hrun : x.state = .running := running_of_due (by rw [hdue]; decide)
    obtain ⟨hstate, hbounds, hiter, hcur, hbase⟩ := wentOn_fields (wentOn_enterErrs (goBoundary_wentOn (.inl hd) rccs)) hrun
    have hgo := stepBoundary_go (rccs := rccs) hhead hd hdue hecc fun hl => absurd hl (by decide)
    refine ⟨_, exec_boundary rfl hw hh ha, boundary_fjz .., boundary_tc .., ?_⟩
    rw [hgo]
    refine ⟨hstate, hbounds, hiter, hcur, hbase, fun hswap i r hi => ?_⟩
    obtain ⟨hlaunched, hsends, hwaits⟩ := goBoundary_launches (rccs := rccs) hd hswap hi
    rw [enterErrs_region, enterErrs_out, ← atBoundary_tc ecc s]
    exact ⟨hlaunched, hsends, hwaits⟩
  · intro h ecc a s hw hh ha hecc u d x hhead hdue hd
    have hrun : x.state = .running := running_of_due (by rw [hdue]; decide)
    obtain ⟨hstate, hbounds, hiter, hcur, hbase⟩ := wentOn_fields (wentOn_enterErrs (goBoundary_wentOn (.inr hd) [])) hrun
    have hgo := stepBoundary_go (rccs := []) hhead hd hdue hecc fun hl => absurd hl (by decide)
    refine ⟨_, exec_boundary rfl hw hh ha, boundary_fjz .., boundary_tc .., ?_⟩
    rw [hgo]
    refine ⟨hstate, hbounds, hiter, hcur, hbase, fun r => ?_⟩
    rw [enterErrs_region]
    exact goBoundary_region_pass hd [] r
  · intro h ecc a s hw hh ha hecc u d x hhead hdue hd hgroup
    have hrun : x.state = .running := running_of_due (by rw [hdue]; decide)
    have hgo := stepBoundary_go (rccs := []) hhead hd hdue hecc fun _ => hgroup
    obtain ⟨hherd, hregions⟩ := goBoundary_loop (h := h) hd []
    have hx : uncounted ((enterErrs (goBoundary h a [] u)).tsu.herd h) = uncounted (pastLoop (loopGoesOn u.tsu h d) d x) := by
      rw [enterErrs_herd]
      exact hherd
    have hstate := uncounted_part Herd.state (fun _ => rfl) hx
    have hiter := uncounted_part Herd.iter (fun _ => rfl) hx
    have hcur := uncounted_part Herd.cur (fun _ => rfl) hx
    have hbase := uncounted_part Herd.base (fun _ => rfl) hx
    refine ⟨_, exec_boundary rfl hw hh ha, boundary_fjz .., boundary_tc .., ?_⟩
    rw [hgo]
    refine ⟨hstate.trans hrun, fun hon => ?_, fun hoff => ?_, fun r => ?_⟩
    · rw [loopGoesOn_iff.mpr hon] at hiter hcur hbase
      exact ⟨hiter, hcur, hbase⟩
    · rw [Bool.eq_false_iff.mpr (mt loopGoesOn_iff.mp hoff)] at hiter hcur hbase
      exact ⟨hiter, hcur, hbase⟩
    · rw [enterErrs_region, region_congr hregions]
  · intro h ecc a s hw hh ha hecc u hhead hdue hd
    have hrun : (u.tsu.herd h).state = .running := running_of_due (by rw [hdue]; decide)
    have hgo := stepBoundary_go (rccs := []) hhead hd hdue hecc fun hl => absurd hl (by decide)
    obtain ⟨hstate, hended, hregions⟩ := goBoundary_end hd hrun []
    refine ⟨_, exec_boundary rfl hw hh ha, boundary_fjz .., boundary_tc .., ?_, ?_, fun r => ?_⟩
    · rw [enterErrs_herd, hgo, hstate]
    · rw [hgo]
      exact (enterErrs_keeps (·.tsu.ended) (fun _ _ _ _ _ _ => rfl) (fun _ => rfl) _).trans hended
    · rw [enterErrs_region, hgo, region_congr hregions]
  · intro h cause ecc a s hw hh ha u hhead hdue hd
    refine ⟨_, exec_boundary rfl hw hh ha, boundary_fjz .., boundary_tc .., ?_⟩
    rw [enterErrs_herd, stepBoundary_leaves hhead hd hdue, leaveHerd_state]
  · intro h a s hw hh ha u d x hhead
    refine ⟨fun hdue => ?_, fun hdue => ?_⟩
    · obtain ⟨hstate, hpoint⟩ := enterHalted_herd hhead
      refine ⟨_, exec_boundary rfl hw hh ha, halting_fjz .., halting_tc .., ?_, ?_⟩
      · rw [enterErrs_herd, haltBoundary_halted hhead hdue, hstate]
      · rw [enterErrs_herd, haltBoundary_halted hhead hdue, hpoint]
    · have hrun : x.state = .running := running_of_due (by rw [hdue]; decide)
      refine ⟨_, exec_boundary rfl hw hh ha, halting_fjz .., halting_tc .., ?_, fun hd => ?_⟩
      · rw [enterErrs_regions, haltBoundary_silent hhead hdue, silentBoundary_eq, finishBoundary_regions,
          regions_of_besideRun (besideRun_counted ..)]
      · rw [haltBoundary_silent hhead hdue]
        obtain ⟨hstate, hbounds, -, hcur, -⟩ := wentOn_fields (wentOn_enterErrs (silentBoundary_wentOn hd)) hrun
        exact ⟨hstate, hbounds, hcur⟩

end Sys2Proof
end

section
/-! PROOFS. Updates of one sync port, and what requests, records and cells leave of the ports. -/

namespace Sys2Proof

open Machine

/-! ## Two updates of one element -/

theorem Tbl.erase_erase {α : Type} (t : Tbl α) (k : Nat) : Tbl.erase (Tbl.erase t k) k = Tbl.erase t k := by
  simp [Tbl.erase]

theorem Tbl.erase_insert {α : Type} (t : Tbl α) (k : Nat) (v : α) : Tbl.erase (Tbl.insert t k v) k = Tbl.erase t k := by
  induction t with
  | nil => simp [Tbl.insert, Tbl.erase]
  | cons e t ih =>
    obtain ⟨i, x⟩ := e
    by_cases hk : k < i
    · simp [Tbl.insert, hk, Tbl.erase]
    · simp only [Tbl.insert, hk, if_false]
      simp only [Tbl.erase, List.filter_cons] at ih ⊢
      rw [ih]

theorem Tbl.set_set {α : Type} [DecidableEq α] (d : α) (t : Tbl α) (k : Nat) (v w : α) :
    Tbl.set d (Tbl.set d t k v) k w = Tbl.set d t k w := by
  have herase : Tbl.erase (Tbl.set d t k v) k = Tbl.erase t k := by
    unfold Tbl.set
    split
    · exact Tbl.erase_erase t k
    · rw [Tbl.erase_insert, Tbl.erase_erase]
  rw [Tbl.set, herase, Tbl.set]

/-- Two updates of one element are one. -/
theorem Tbl.upd_upd {α : Type} [DecidableEq α] (d : α) (t : Tbl α) (k : Nat) (f g : α → α) :
    Tbl.upd d (Tbl.upd d t k g) k f = Tbl.upd d t k fun x => f (g x) := by
  rw [Tbl.upd, Tbl.get_upd_same, Tbl.upd, Tbl.set_set, Tbl.upd]

theorem onPort_onPort (d : Dev) (p : Nat) (f g : Port → Port) (s : State) :
    onPort d p f (onPort d p g s) = onPort d p (fun x => f (g x)) s := by
  cases d
  · simp only [onPort, onTsu, Tbl.upd_upd]
  · simp only [onPort, onFjz, Tbl.upd_upd]

/-- An update counts by what it makes of the port as it is. -/
theorem onPort_congr {d : Dev} {p : Nat} {f g : Port → Port} {s : State} (h : f (port s d p) = g (port s d p)) :
    onPort d p f s = onPort d p g s := by
  cases d
  · change f (s.tsu.ports.get {} p) = g (s.tsu.ports.get {} p) at h
    simp only [onPort, onTsu, Tbl.upd, h]
  · change f (s.fjz.ports.get {} p) = g (s.fjz.ports.get {} p) at h
    simp only [onPort, onFjz, Tbl.upd, h]

theorem port_onPort_other (d : Dev) (f : Port → Port) (s : State) {p r : Nat} (h : p ≠ r) : port (onPort d r f s) d p = port s d p :=
  port_onPort_ne d d f s (.inr h)

/-! ## The counter of a part -/

@[simp] theorem counterOf_fresh (d : Dev) (s : State) : counterOf s.fresh d = counterOf s d := by
  cases d <;> rfl

theorem counterOf_taken {d : Dev} (q : Req) (s : State) : counterOf (taken d q s) d = counterOf s d :=
  (taken_keeps (counterOf · d) (fun f p u => counterOf_onPort d .tsu p f u) (fun _ _ => by cases d <;> rfl) q s).trans
    (counterOf_fresh d s)

/-! ## Requests -/

/-- A request moves the sequence numbers of a port, and no more of it (R68). -/
theorem taken_port_keeps {γ : Type} (v : Port → γ) (h : ∀ x n, v { x with lseqRx := n } = v x) (d e : Dev) (p : Nat) (q : Req)
    (s : State) : v (port (taken d q s) e p) = v (port s e p) := by
  rw [taken, countTaken, port_onAgent]
  obtain hheard | ⟨r, k, hheard⟩ := heard_cases q s
  · rw [hheard, port_fresh]
  · rw [hheard]
    by_cases hsame : e = .tsu ∧ p = r
    · obtain ⟨rfl, rfl⟩ := hsame
      rw [port_onPort_same, h, port_fresh]
    · rw [port_onPort_ne _ _ _ _ (Decidable.not_and_iff_or_not.mp hsame), port_fresh]

theorem taken_deviceId (d : Dev) (q : Req) (s : State) : (agent (taken d q s) d).deviceId = (agent s d).deviceId := by
  rw [taken, countTaken, agent_onAgent_same, heard_agent]
  dsimp only
  repeat' split
  all_goals rfl

/-! ## Records -/

theorem afterRecord_keeps {γ : Type} (v : Fjz → γ) (he : ∀ x e, v { x with events := e } = v x)
    (hr : ∀ (x : Fjz) e n, v { x with errs := e, ownSeq := n } = v x) (hf : ∀ n b h x, v (freezeTrigger n b h x) = v x)
    (e : ErrRec) (x : Fjz) : v (afterRecord e x) = v x := by
  unfold afterRecord
  dsimp only
  split
  · rw [hf, fjzRecord_keeps v he hr]
  · exact fjzRecord_keeps v he hr e x

theorem freezeTrigger_ports (n : U8) (b : U32) (h : Id24) (x : Fjz) : (freezeTrigger n b h x).ports = x.ports := by
  unfold freezeTrigger
  repeat' split
  all_goals rfl

/-- A record leaves the ports alone. -/
@[simp] theorem port_raiseOn (d e : Dev) (p : Nat) (r : ErrRec) (s : State) : port (raiseOn d r s) e p = port s e p := by
  cases d
  · cases e <;> rfl
  · cases e
    · rfl
    · have hports := afterRecord_keeps (·.ports) (fun _ _ => rfl) (fun _ _ _ => rfl) freezeTrigger_ports (ownRecord r s) s.fjz
      exact congrArg (fun t => Tbl.get {} t p) hports

@[simp] theorem port_enterErrs (d : Dev) (p : Nat) (s : State) : port (enterErrs s) d p = port s d p :=
  enterErrs_keeps (port · d p) (fun _ _ _ _ _ _ => by cases d <;> rfl) (fun _ => by cases d <;> rfl) s

end Sys2Proof
end

section
/-! PROOFS. What is read from a field of a packed word, and the header of a cell (Table 3.3). -/

namespace Sys2Proof

open Machine

/-! ## Fields side by side -/

/-- The number that the fields of a word spell. -/
def packSum (fs : List (Nat × Nat × Nat)) : Nat := (fs.map fun f => f.2.2 % 2 ^ f.2.1 * 2 ^ f.1).sum

/-- Fields in ascending order, none over another, between bit `a` and bit `b`. -/
def sideBySide : Nat → List (Nat × Nat × Nat) → Nat → Bool
  | a, [], b => decide (a ≤ b)
  | a, f :: fs, b => decide (a ≤ f.1) && sideBySide (f.1 + f.2.1) fs b

theorem packSum_cons (f : Nat × Nat × Nat) (fs : List (Nat × Nat × Nat)) :
    packSum (f :: fs) = f.2.2 % 2 ^ f.2.1 * 2 ^ f.1 + packSum fs := by
  rw [packSum, List.map_cons, List.sum_cons, packSum]

theorem packSum_append (fs gs : List (Nat × Nat × Nat)) : packSum (fs ++ gs) = packSum fs + packSum gs := by
  rw [packSum, List.map_append, List.sum_append, packSum, packSum]

/-- A field's largest value still ends below the next bit. -/
theorem field_add_le (v lo len : Nat) : v % 2 ^ len * 2 ^ lo + 2 ^ lo ≤ 2 ^ (lo + len) := by
  have hlt : v % 2 ^ len + 1 ≤ 2 ^ len := Nat.mod_lt _ (Nat.two_pow_pos len)
  calc v % 2 ^ len * 2 ^ lo + 2 ^ lo = (v % 2 ^ len + 1) * 2 ^ lo := by rw [Nat.add_mul, Nat.one_mul]
    _ ≤ 2 ^ len * 2 ^ lo := Nat.mul_le_mul_right _ hlt
    _ = 2 ^ (lo + len) := by rw [← Nat.pow_add, Nat.add_comm]

theorem packSum_add_le {a b : Nat} {fs : List (Nat × Nat × Nat)} (h : sideBySide a fs b = true) : packSum fs + 2 ^ a ≤ 2 ^ b := by
  induction fs generalizing a with
  | nil => simpa [packSum] using Nat.pow_le_pow_right (Nat.two_pos) (of_decide_eq_true h)
  | cons f fs ih =>
    rw [sideBySide, Bool.and_eq_true, decide_eq_true_eq] at h
    have hrest := ih h.2
    have hfield := field_add_le f.2.2 f.1 f.2.1
    have hstart : 2 ^ a ≤ 2 ^ f.1 := Nat.pow_le_pow_right (Nat.two_pos) h.1
    rw [packSum_cons]
    omega

theorem dvd_packSum {a b : Nat} {fs : List (Nat × Nat × Nat)} (h : sideBySide a fs b = true) : 2 ^ a ∣ packSum fs := by
  induction fs generalizing a with
  | nil => exact Nat.dvd_zero _
  | cons f fs ih =>
    rw [sideBySide, Bool.and_eq_true, decide_eq_true_eq] at h
    rw [packSum_cons]
    exact Nat.dvd_add (Nat.dvd_mul_left_of_dvd (Nat.pow_dvd_pow 2 h.1) _)
      ((Nat.pow_dvd_pow 2 (Nat.le_add_right_of_le h.1)).trans (ih h.2))

theorem sideBySide_append {a b : Nat} {f : Nat × Nat × Nat} {fs gs : List (Nat × Nat × Nat)}
    (h : sideBySide a (fs ++ f :: gs) b = true) : sideBySide a fs f.1 = true ∧ sideBySide (f.1 + f.2.1) gs b = true := by
  induction fs generalizing a with
  | nil =>
    rw [List.nil_append, sideBySide, Bool.and_eq_true] at h
    exact h
  | cons g fs ih =>
    rw [List.cons_append, sideBySide, Bool.and_eq_true] at h
    rw [sideBySide, Bool.and_eq_true, and_assoc]
    exact ⟨h.1, ih h.2⟩

/-- A field of a packed word holds the value that was put there. -/
theorem fldN_pack {n lo len v : Nat} {fs : List (Nat × Nat × Nat)} (h : sideBySide 0 fs n = true) (hf : (lo, len, v) ∈ fs) :
    fldN (pack n fs) lo len = v % 2 ^ len := by
  obtain ⟨below, above, rfl⟩ := List.append_of_mem hf
  obtain ⟨hbelow, habove⟩ := sideBySide_append h
  obtain ⟨k, hk⟩ := dvd_packSum habove
  have hlow := packSum_add_le hbelow
  have hfits := packSum_add_le h
  have hsum : packSum (below ++ (lo, len, v) :: above) = packSum below + 2 ^ lo * (v % 2 ^ len + 2 ^ len * k) := by
    rw [packSum_append, packSum_cons, hk, Nat.pow_add]
    ring
  have hword : (pack n (below ++ (lo, len, v) :: above)).toNat = packSum (below ++ (lo, len, v) :: above) :=
    (pack_toNat _).trans (Nat.mod_eq_of_lt hfits)
  rw [fldN_eq, hword, hsum, Nat.add_mul_div_left _ _ (Nat.two_pow_pos lo), Nat.div_eq_of_lt hlow, Nat.zero_add,
    Nat.add_mul_mod_self_left, Nat.mod_mod]

theorem fld_pack {n lo len : Nat} {v : BitVec len} {fs : List (Nat × Nat × Nat)} (h : sideBySide 0 fs n = true)
    (hf : (lo, len, v.toNat) ∈ fs) : fld (pack n fs) lo len = v :=
  BitVec.eq_of_toNat_eq ((fldN_pack h hf).trans (Nat.mod_eq_of_lt v.isLt))

theorem bitOf_eq_fldN {n : Nat} (x : BitVec n) (i : Nat) : bitOf x i = decide (fldN x i 1 = 1) := by
  rw [bitOf, fldN_eq, BitVec.getLsbD, Nat.testBit_eq_decide_div_mod_eq]
  rfl

theorem bitOf_pack {n i : Nat} {b : Bool} {fs : List (Nat × Nat × Nat)} (h : sideBySide 0 fs n = true) (hf : (i, 1, b2n b) ∈ fs) :
    bitOf (pack n fs) i = b := by
  rw [bitOf_eq_fldN, fldN_pack h hf]
  cases b <;> rfl

/-! ## The header of a cell -/

theorem mkCell_typ (typ addr units : Nat) (body : BitVec 448) : (mkCell typ addr units body).typ = typ % 256 :=
  fldN_pack (lo := 0) (len := 8) rfl (by simp)

theorem mkCell_cls (typ addr units : Nat) (body : BitVec 448) : (mkCell typ addr units body).cls = (classOf typ).getD 0 % 4 :=
  fldN_pack (lo := 8) (len := 2) rfl (by simp)

/-- Types 0x00 to 0x08 are of class P0 (Table 3.4). -/
theorem mkCell_cls_p0 {typ : Nat} (h : typ ≤ 8) (addr units : Nat) (body : BitVec 448) : (mkCell typ addr units body).cls = 0 := by
  rw [mkCell_cls, classOf, if_pos h]
  rfl

/-- A cell of class P0 is queued on a port that is UP (R64). -/
theorem send_p0 {d : Dev} {p typ : Nat} {s : State} (htyp : typ ≤ 8) (hup : (port s d p).state = .up) (addr units : Nat)
    (body : BitVec 448) : send d p (mkCell typ addr units body) s =
      onPort d p (fun x => { x with txq := x.txq ++ [{ cell := mkCell typ addr units body, ready := counterOf s d }] }) s := by
  have hcls := mkCell_cls_p0 htyp addr units body
  exact sendOn_up hup (by rw [hcls]; decide) (by rw [hcls]; decide) (by rw [hcls]; decide)

end Sys2Proof
end

section
/-! PROOFS. A link that goes down (O22) and the states of a sync port (O21). -/

namespace Sys2Proof

open Machine

/-! ## Going down (R71, R86) -/

theorem takeDown_not_up {d : Dev} {p : Nat} {s : State} (h : (port s d p).state ≠ .up) (st : PortState) :
    takeDown d p st s = onPort d p (fun x => { quietPort x with state := st, since := counterOf s d }) s := by
  simp [takeDown, h]

/-- LINK_DOWN is counted on its port with its cause (R86). -/
def countDown (d : Dev) (p : Nat) (cause : U8) (s : State) : State :=
  onPort d p (fun x => { x with downCause := cause, linkDowns := bump x.linkDowns }) s

/-- The LINK_DOWN record of a port whose link has gone down (R86). -/
def downRecord (d : Dev) (p : Nat) (cause : U8) (s : State) : ErrRec :=
  portRecord (port (countDown d p cause s) d p) p 0x0301 (cause.setWidth 16)

/-- Without VERSION_NONE beside it, LINK_DOWN is the only record (R74, R86). -/
theorem recordDown_eq {cause : U8} (hc : cause ≠ 3) (d : Dev) (p : Nat) (s : State) :
    recordDown d p cause s = raiseOn d (downRecord d p cause s) (countDown d p cause s) := by
  have hcause : cause ≠ dcVersionNone := hc
  simp only [recordDown, hcause, if_false]
  rfl

theorem port_recordDown (d e : Dev) (p r : Nat) (cause : U8) (s : State) :
    port (recordDown d p cause s) e r = port (countDown d p cause s) e r := by
  unfold recordDown
  dsimp only
  split <;> simp [countDown]

/-- The port of a link that goes down while not UP. -/
theorem linkDown_not_up {d : Dev} {p : Nat} {s : State} (h : (port s d p).state ≠ .up) (cause : U8) :
    linkDown d p cause s = onPort d p (fun x =>
      { quietPort x with state := .downHold, since := counterOf (recordDown d p cause s) d }) (recordDown d p cause s) := by
  refine takeDown_not_up ?_ _
  rw [port_recordDown, countDown, port_onPort_same]
  exact h

theorem port_linkDown_not_up {d : Dev} {p : Nat} {s : State} (h : (port s d p).state ≠ .up) (cause : U8) :
    port (linkDown d p cause s) d p = { quietPort (port s d p) with
      state := .downHold, since := counterOf (recordDown d p cause s) d, downCause := cause,
      linkDowns := bump (port s d p).linkDowns } := by
  rw [linkDown_not_up h, port_onPort_same, port_recordDown, countDown, port_onPort_same]
  rfl

theorem port_linkDown_other {d : Dev} {p r : Nat} {s : State} (h : (port s d p).state ≠ .up) (hr : r ≠ p) (cause : U8) :
    port (linkDown d p cause s) d r = port s d r := by
  rw [linkDown_not_up h, port_onPort_other d _ _ hr, port_recordDown, countDown, port_onPort_other d _ _ hr]

theorem tap_errs (kind : Nat) (data : Bytes) (s : State) : (tap kind data s).tsu.errs = s.tsu.errs := by
  unfold tap
  dsimp only
  repeat' split
  all_goals rfl

theorem enterErr_total (e : ErrRec × Bytes) (s : State) : (enterErr e s).tsu.errs.total = bump s.tsu.errs.total := by
  have hsame : (enterErr e s).tsu.errs = pushErr 256 e.1 s.tsu.errs := by
    refine (tap_errs ..).trans ?_
    dsimp only
    repeat' split
    all_goals rfl
  rw [hsame, pushErr_total]

/-- A single record counts as one error of the die (R248). -/
theorem enterErrs_single_total {e : ErrRec × Bytes} {s : State} (h : s.staged = [e]) :
    (enterErrs s).tsu.errs.total = bump s.tsu.errs.total := by
  have hone : enterErrs s = enterErr e { s with staged := [] } := by
    simp [enterErrs, h, sortBy, insertBy, forAll]
  rw [hone, enterErr_total]

theorem linkDown_die_counts {p : Nat} {cause : U8} {s : State} (hup : (port s .tsu p).state ≠ .up) (hc : cause ≠ 3)
    (hs : s.staged = []) : (enterErrs (linkDown .tsu p cause s)).tsu.errs.total = bump s.tsu.errs.total := by
  have hstaged : ∃ e, (linkDown .tsu p cause s).staged = [e] := by
    rw [linkDown_not_up hup, onPort_staged, recordDown_eq hc]
    exact ⟨_, congrArg (· ++ [_]) hs⟩
  obtain ⟨e, he⟩ := hstaged
  rw [enterErrs_single_total he, linkDown_not_up hup, recordDown_eq hc]
  rfl

theorem linkDown_chip_counts {p : Nat} {cause : U8} {s : State} (hup : (port s .fjz p).state ≠ .up) (hc : cause ≠ 3) :
    (enterErrs (linkDown .fjz p cause s)).fjz.errs.total = bump s.fjz.errs.total := by
  rw [enterErrs_fjz, linkDown_not_up hup, onPort_fjz_side_fjz_errs, recordDown_eq hc]
  change (raiseFjz _ _).fjz.errs.total = _
  rw [raiseFjz_eq, onFjz_fjz, afterRecord_not_halting rfl, fjzRecord_total]
  rfl

theorem linkDown_chip_staged {p : Nat} {cause : U8} {s : State} (hup : (port s .fjz p).state ≠ .up) (hc : cause ≠ 3) :
    (linkDown .fjz p cause s).staged = s.staged := by
  rw [linkDown_not_up hup, onPort_staged, recordDown_eq hc]
  rfl

/-- Settles O22: the port is what `linkDown` leaves of one that was not UP, and the one record counts as one error. -/
theorem linkDownLeavesThePortQuiet : Obligations.LinkDownLeavesThePortQuiet := by
  intro d p cause s hup hc hs
  have hport := (port_enterErrs d p _).trans (port_linkDown_not_up hup cause)
  dsimp only
  rw [hport]
  refine ⟨rfl, rfl, rfl, rfl, rfl, rfl, rfl, rfl, fun r hr => ?_, ?_, ?_⟩
  · rw [port_enterErrs, port_linkDown_other hup hr]
  · rintro rfl
    exact ⟨linkDown_die_counts hup hc hs, by rw [enterErrs_fjz, fjz_linkDown_die]⟩
  · rintro rfl
    refine ⟨linkDown_chip_counts hup hc, ?_⟩
    rw [enterErrs_nil ((linkDown_chip_staged hup hc).trans hs), tsu_linkDown_chip]

/-! ## PORT_ENABLE (R336, R351) -/

theorem portFree_onPort (d e : Dev) (p r : Nat) (f : Port → Port) (s : State) : portFree (onPort e r f s) d p = portFree s d p := by
  cases d <;> cases e <;> rfl

theorem portFree_taken (d : Dev) (p : Nat) (q : Req) (s : State) : portFree (taken d q s) d p = portFree s d p :=
  (taken_keeps (portFree · d p) (fun f r u => portFree_onPort d .tsu p r f u) (fun _ _ => by cases d <;> rfl) q s).trans
    (by cases d <;> rfl)

theorem setEnable_on {d : Dev} {p : Nat} {s : State} (hst : (port s d p).state = .disabled) (hfree : portFree s d p = true) :
    setEnable d p true s = startTrain d p (onPort d p (fun x => { x with enable := true, trainFailSeen := false }) s) := by
  simp [setEnable, actEnable, portFree_onPort, hst, hfree]

theorem setEnable_off {d : Dev} {p : Nat} {s : State} (hst : (port s d p).state ≠ .disabled) :
    setEnable d p false s = takeDown d p .disabled (onPort d p (fun x => { x with enable := false }) s) := by
  simp [setEnable, actEnable, hst]

theorem portEnable_trains {d : Dev} {p : Nat} {q : Req} {s : State} (hok : portOk d p = true)
    (h : admits d q (0x3100 + p) 2 .rws [1] s = true) (hst : (port s d p).state = .disabled) (hfree : portFree s d p = true) :
    exec (.portEnable d p q) s = .next (answered d q (0x3100 + p) 2 stOk
      (onPort d p (fun x => { quietPort x with state := .train, since := counterOf s d, ownId := (agent s d).deviceId })
        (onPort d p (fun x => { x with enable := true, trainFailSeen := false }) (taken d q s)))) := by
  have hst' := (taken_port_keeps (·.state) (fun _ _ => rfl) d d p q s).trans hst
  have hwrite := agentWrite_takes (c := .portEnable d p q) rfl (op := wPortEnable d p 1) h rfl (.inl rfl) rfl rfl rfl rfl rfl rfl
  have happly : (wPortEnable d p 1).apply (taken d q s) = _ := setEnable_on hst' ((portFree_taken ..).trans hfree)
  change execPortEnable d p q s = _
  rw [execPortEnable, hok, hwrite, happly, enterErrs_nil (by simp [startTrain]), startTrain, counterOf_onPort, counterOf_taken,
    agent_onPort, taken_deviceId]
  rfl

theorem portDisable_takes_down {d : Dev} {p : Nat} {q : Req} {s : State} (hok : portOk d p = true)
    (h : admits d q (0x3100 + p) 2 .rws [0] s = true) (hst : (port s d p).state ≠ .disabled) :
    exec (.portDisable d p q) s = .next (enterErrs (answered d q (0x3100 + p) 2 stOk
      (takeDown d p .disabled (onPort d p (fun x => { x with enable := false }) (taken d q s))))) := by
  have hsame : (port (taken d q s) d p).state = (port s d p).state := taken_port_keeps (·.state) (fun _ _ => rfl) d d p q s
  have hwrite := agentWrite_takes (c := .portDisable d p q) rfl (op := wPortEnable d p 0) h rfl (.inl rfl) rfl rfl rfl rfl rfl rfl
  have happly : (wPortEnable d p 0).apply (taken d q s) = _ := setEnable_off (hsame ▸ hst)
  change execPortDisable d p q s = _
  rw [execPortDisable, hok, hwrite, happly]
  rfl

/-! ## Training (R72, R80, R366) -/

theorem trainComplete_locks {d : Dev} {p : Nat} {s : State} (tx rx : U32) {partner : Bool} (hok : portOk d p = true)
    (hw : partWorks s d = true) (hst : (port s d p).state = .train) (hm : (port s d p).media = .optical ∨ partner = true) :
    exec (.trainComplete d p (tx, rx) partner) s = .next
      (onPort d p (fun x => { x with state := .lock, since := counterOf s d, txLat := tx, rxLat := rx, txMeasured := tx,
                                     rxMeasured := rx, measuredAt := counterOf s d }) s.fresh) := by
  change execTrainComplete d p (tx, rx) partner s = _
  rw [execTrainComplete, performOn_works hok hw]
  simp only [port_fresh, hst, hm, and_self, if_true]
  rw [enterErrs_nil (by simp), counterOf_fresh]

theorem exec_trainFail {d : Dev} {p : Nat} {s : State} (hok : portOk d p = true) (hw : partWorks s d = true)
    (hst : (port s d p).state = .train) (hlate : (port s d p).since + 10000000 ≤ counterOf s d) :
    exec (.trainFail d p) s = .next (enterErrs (if (port s d p).trainFailSeen then takeDown d p .downHold s.fresh
      else onPort d p (fun x => { x with trainFailSeen := true }) (linkDown d p dcTrainFail s.fresh))) := by
  change execTrainFail d p s = _
  rw [execTrainFail, performOn_works hok hw]
  simp [hst, Nat.not_lt.mpr hlate]

theorem trainFail_holds {d : Dev} {p : Nat} {s : State} (hok : portOk d p = true) (hw : partWorks s d = true)
    (hst : (port s d p).state = .train) (hlate : (port s d p).since + 10000000 ≤ counterOf s d) :
    ∃ t, exec (.trainFail d p) s = .next t ∧ (port t d p).state = .downHold ∧ (port t d p).trainFailSeen = true ∧
      (port t d p).linkDowns = (if (port s d p).trainFailSeen then (port s d p).linkDowns else bump (port s d p).linkDowns) ∧
      (port t d p).downCause = (if (port s d p).trainFailSeen then (port s d p).downCause else 4) ∧
      ∀ p', p' ≠ p → port t d p' = port s d p' := by
  have hup : (port s.fresh d p).state ≠ .up := by simp [hst]
  refine ⟨_, exec_trainFail hok hw hst hlate, ?_⟩
  rw [port_enterErrs]
  cases hseen : (port s d p).trainFailSeen
  · simp only [Bool.false_eq_true, if_false]
    rw [port_onPort_same, port_linkDown_not_up hup, port_fresh]
    refine ⟨rfl, rfl, rfl, rfl, fun r hr => ?_⟩
    rw [port_enterErrs, port_onPort_other d _ _ hr, port_linkDown_other hup hr, port_fresh]
  · simp only [if_true]
    rw [takeDown_not_up hup, port_onPort_same, port_fresh]
    refine ⟨rfl, hseen, rfl, rfl, fun r hr => ?_⟩
    rw [port_enterErrs, port_onPort_other d _ _ hr, port_fresh]

theorem downHoldExpiry_trains {d : Dev} {p : Nat} {s : State} (hok : portOk d p = true) (hw : partWorks s d = true)
    (hst : (port s d p).state = .downHold) (hlate : (port s d p).since + 1000000 ≤ counterOf s d) :
    exec (.downHoldExpiry d p) s = .next
      (onPort d p (fun x => { quietPort x with state := .train, since := counterOf s d, ownId := (agent s d).deviceId }) s.fresh) := by
  change execDownHoldExpiry d p s = _
  rw [execDownHoldExpiry, performOn_works hok hw]
  simp only [port_fresh, counterOf_fresh, hst, hlate, and_self, if_true, startTrain, agent_fresh]
  rw [enterErrs_nil (by simp)]

/-! ## Codeword lock (R60) and remote fault (R72) -/

theorem lastN_append {α : Type} {n : Nat} {ys : List α} (h : ys.length = n) (xs : List α) : lastN n (xs ++ ys) = ys := by
  simp [lastN, h]

/-- Eight good codewords in sequence give lock, whatever came before them. -/
theorem locksOn_in_sequence (n : BitVec 12) (rf : Nat → Bool) (before : List RxCw) :
    locksOn (before ++ (List.range 8).map fun i => ⟨n + BitVec.ofNat 12 i, rf i, false⟩) = true := by
  rw [locksOn, lastN_append (by simp)]
  simp [List.range_succ, brokenRun, takenNums, BitVec.add_assoc]

/-- Sixteen uncorrectable codewords lose it. -/
theorem losesLock_bad {first : RxCw} {bad : List RxCw} (hlen : bad.length = 16) (hbad : ∀ c ∈ bad, c.bad = true) :
    losesLock (first :: bad) = true := by
  have hrun : lastN 17 (first :: bad) = first :: bad := lastN_append (xs := []) (by simp [hlen])
  have hbroken : (brokenRun (first :: bad)).all id = true := by
    simp only [brokenRun, List.all_map, List.all_eq_true]
    intro e he
    simp [hbad e.1 (List.of_mem_zip he).1]
  simp [losesLock, hrun, hlen, hbroken]

theorem codewordLock_locks {d : Dev} {p : Nat} {s : State} (n : BitVec 12) (rf : Nat → Bool) (before : List RxCw)
    (hok : portOk d p = true) (hw : partWorks s d = true) (hst : (port s d p).state = .lock) (hfree : (port s d p).rxLock = false) :
    exec (.codewordLock d p (before ++ (List.range 8).map fun i => ⟨n + BitVec.ofNat 12 i, rf i, false⟩)) s = .next
      (onPort d p (fun x => { x with rxLock := true, rfFromPeer := rf 7, state := if rf 7 then .lock else .hello }) s.fresh) := by
  have hlast : (before ++ (List.range 8).map fun i => (⟨n + BitVec.ofNat 12 i, rf i, false⟩ : RxCw)).getLast?.any (·.rf) = rf 7 := by
    simp [List.range_succ]
  change execCodewordLock d p _ s = _
  rw [execCodewordLock, performOn_works hok hw, enterErrs_nil (by simp)]
  simp only [hlast, locksOn_in_sequence]
  refine congrArg Host.Outcome.next (onPort_congr ?_)
  cases hrf : rf 7 <;> simp [trained, hst, hfree]

theorem codewordLockLost_down {d : Dev} {p : Nat} {s : State} {first : RxCw} {bad : List RxCw} (hok : portOk d p = true)
    (hw : partWorks s d = true) (hlock : (port s d p).rxLock = true) (hup : (port s d p).state = .up) (hlen : bad.length = 16)
    (hbad : ∀ c ∈ bad, c.bad = true) :
    exec (.codewordLockLost d ⟨p, first :: bad⟩) s = .next (enterErrs (linkDown d p 1 s.fresh)) := by
  change execCodewordLockLost d ⟨p, first :: bad⟩ s = _
  rw [execCodewordLockLost, performOn_works hok hw]
  simp [hlock, hup, losesLock_bad hlen hbad, dcLockLost]

theorem remoteFault_down {d : Dev} {p : Nat} {s : State} (hok : portOk d p = true) (hw : partWorks s d = true)
    (hlock : (port s d p).rxLock = true) (hup : (port s d p).state = .up) :
    exec (.remoteFault d p) s = .next (enterErrs (linkDown d p 5 s.fresh)) := by
  change execRemoteFault d p s = _
  rw [execRemoteFault, performOn_works hok hw]
  simp [hlock, hup, dcRemoteFault]

theorem remoteFaultCleared_greets {d : Dev} {p : Nat} {s : State} (hok : portOk d p = true) (hw : partWorks s d = true)
    (hst : (port s d p).state = .lock) (hlock : (port s d p).rxLock = true) :
    exec (.remoteFaultCleared d p) s = .next (onPort d p (fun x => { x with rfFromPeer := false, state := .hello }) s.fresh) := by
  change execRemoteFaultCleared d p s = _
  rw [execRemoteFaultCleared, performOn_works hok hw, enterErrs_nil (by simp)]
  exact congrArg Host.Outcome.next (onPort_congr (by simp [hst, hlock]))

/-- Settles O21, one lemma for each row of Table 3.6. -/
theorem portStates : Obligations.PortStates :=
  ⟨fun _ _ _ _ => portEnable_trains, fun _ _ _ _ => portDisable_takes_down,
    fun _ _ tx rx _ _ => trainComplete_locks tx rx, fun _ _ _ => trainFail_holds, fun _ _ _ => downHoldExpiry_trains,
    fun _ _ _ hok hw hst => ⟨fun n rf before => codewordLock_locks n rf before hok hw hst, remoteFaultCleared_greets hok hw hst⟩,
    fun _ _ _ hok hw hlock hup => ⟨fun _ _ => codewordLockLost_down hok hw hlock hup, remoteFault_down hok hw hlock hup⟩⟩

end Sys2Proof
end

section
/-! PROOFS. HELLO (O23): what it takes down, what it brings up, and the cells that leave. -/

namespace Sys2Proof

open Machine

/-! ## What a HELLO is compared with -/

theorem peerRole_keepHello (d : Dev) (p : Nat) (b : BitVec 448) (s : State) :
    peerRole (keepHello d p b s.fresh) d p = peerRole s d p := by
  cases d <;> rfl

theorem planeOf_keepHello (d : Dev) (p : Nat) (b : BitVec 448) (s : State) :
    planeOf (keepHello d p b s.fresh) d p = planeOf s d p := by
  cases d <;> rfl

theorem port_keepHello (d : Dev) (p : Nat) (b : BitVec 448) (s : State) : port (keepHello d p b s) d p =
    { port s d p with peerHello := some b, heard := true, peerId := (hSender b).setWidth 32, peerPort := hPort b } :=
  port_onPort_same ..

theorem port_keepHello_other {p r : Nat} (hr : r ≠ p) (d : Dev) (b : BitVec 448) (s : State) :
    port (keepHello d p b s) d r = port s d r :=
  port_onPort_other d _ _ hr

@[simp] theorem keepHello_staged (d : Dev) (p : Nat) (b : BitVec 448) (s : State) : (keepHello d p b s).staged = s.staged := by
  simp [keepHello]

/-- The comparison of the position addresses moves no port (R11). -/
@[simp] theorem port_comparePosition (linkUp : Bool) (d : Dev) (p : Nat) (s : State) :
    port (comparePosition linkUp s) d p = port s d p := by
  unfold comparePosition
  dsimp only
  repeat' split
  all_goals cases d <;> rfl

theorem port_linkUp (d : Dev) (p r : Nat) (b : BitVec 448) (s : State) : port (linkUp d p b s) d r =
    port (onPort d p (fun x => { x with
      state := .up, since := counterOf s d, negVer := negotiated b, position := heardPosition s d p b, trainFailSeen := false }) s)
      d r := by
  cases d
  · exact port_comparePosition true .tsu r _
  · rfl

/-! ## The command (R73, R74) -/

/-- A sound HELLO in its turn, on a port that is in HELLO or UP. -/
theorem exec_hello {d : Dev} {p : Nat} {c : Cell} {s : State} (hok : portOk d p = true) (hw : partWorks s d = true)
    (hlis : (port s d p).listens = true) (hst : (port s d p).state ≠ .lock) (htyp : c.typ = 8) (hsound : c.sound = true)
    (hturn : s.aheadOf (cellPlace d p) = false) :
    exec (.hello d p c) s = .next (enterErrs
      (if (port s d p).state = .hello then takeHello d p c.body s.fresh else hearAgain d p c.body s.fresh)) := by
  change execHello d p c s = _
  rw [execHello, performOn_works hok hw, inTurn_acts hturn]
  simp [hlis, hst, htyp, hsound, tHello]

theorem hello_greeting {d : Dev} {p : Nat} {c : Cell} {s : State} (hok : portOk d p = true) (hw : partWorks s d = true)
    (hst : (port s d p).state = .hello) (hlock : (port s d p).rxLock = true) (htyp : c.typ = 8) (hsound : c.sound = true)
    (hturn : s.aheadOf (cellPlace d p) = false) :
    exec (.hello d p c) s = .next (enterErrs (takeHello d p c.body s.fresh)) := by
  rw [exec_hello hok hw (by simp [Port.listens, hst, hlock]) (by rw [hst]; decide) htyp hsound hturn, if_pos hst]

section Greeting
variable {d : Dev} {p : Nat} {b : BitVec 448} {s : State}

theorem takeHello_no_version (hver : commonVersion (hFraming b) = 0 ∨ commonVersion (hTime b) = 0) :
    takeHello d p b s.fresh = linkDown d p 3 (keepHello d p b s.fresh) := by
  rw [takeHello, if_pos hver]
  rfl

variable (hframing : commonVersion (hFraming b) ≠ 0) (htime : commonVersion (hTime b) ≠ 0)
include hframing htime

/-- With a version in common, role, plane and ACK decide. -/
theorem takeHello_versions : takeHello d p b s.fresh =
    if hRole b ≠ peerRole s d p then linkDown d p 6 (keepHello d p b s.fresh)
    else if hPlane b ≠ planeOf s d p then linkDown d p 7 (keepHello d p b s.fresh)
    else if hAck b then linkUp d p b (keepHello d p b s.fresh)
    else keepHello d p b s.fresh := by
  rw [takeHello, if_neg (not_or.mpr ⟨hframing, htime⟩), peerRole_keepHello, planeOf_keepHello]
  rfl

theorem takeHello_wrong_role (hrole : hRole b ≠ peerRole s d p) :
    takeHello d p b s.fresh = linkDown d p 6 (keepHello d p b s.fresh) := by
  rw [takeHello_versions hframing htime, if_pos hrole]

variable (hrole : hRole b = peerRole s d p)
include hrole

theorem takeHello_wrong_plane (hplane : hPlane b ≠ planeOf s d p) :
    takeHello d p b s.fresh = linkDown d p 7 (keepHello d p b s.fresh) := by
  rw [takeHello_versions hframing htime, if_neg (not_not_intro hrole), if_pos hplane]

theorem takeHello_fits (hplane : hPlane b = planeOf s d p) : takeHello d p b s.fresh =
    if hAck b then linkUp d p b (keepHello d p b s.fresh) else keepHello d p b s.fresh := by
  rw [takeHello_versions hframing htime, if_neg (not_not_intro hrole), if_neg (not_not_intro hplane)]

end Greeting

/-- The port that ACK brings up, and the others. -/
theorem port_brought_up (d : Dev) (p : Nat) (b : BitVec 448) (s : State) :
    let t := enterErrs (linkUp d p b (keepHello d p b s))
    (port t d p).state = .up ∧ (port t d p).negVer = negotiated b ∧ (port t d p).peerId = (hSender b).setWidth 32 ∧
      (port t d p).peerPort = hPort b ∧ ∀ r, r ≠ p → port t d r = port s d r := by
  dsimp only
  rw [port_enterErrs, port_linkUp, port_onPort_same, port_keepHello]
  refine ⟨rfl, rfl, rfl, rfl, fun r hr => ?_⟩
  rw [port_enterErrs, port_linkUp, port_onPort_other d _ _ hr, port_keepHello_other hr]

theorem hello_changed_peer {d : Dev} {p : Nat} {c : Cell} {s : State} (hok : portOk d p = true) (hw : partWorks s d = true)
    (hup : (port s d p).state = .up) (htyp : c.typ = 8) (hsound : c.sound = true) (hturn : s.aheadOf (cellPlace d p) = false)
    (hpeer : (port s d p).peerHello.map helloIdentity ≠ some (helloIdentity c.body)) :
    exec (.hello d p c) s = .next (enterErrs (linkDown d p 8 s.fresh)) := by
  rw [exec_hello hok hw (by simp [Port.listens, hup]) (by rw [hup]; decide) htyp hsound hturn, if_neg (by rw [hup]; decide), hearAgain,
    port_fresh, if_pos hpeer]
  rfl

/-! ## HELLO cells (R73) -/

theorem helloSend_queues {d : Dev} {p : Nat} {s : State} (hok : portOk d p = true) (hw : partWorks s d = true)
    (hdue : ((port s d p).state = .hello ∧ (port s d p).slots / 10 % 1024 = 0) ∨
      ((port s d p).state = .up ∧ (port s d p).slots / 10 % 65536 = 0)) :
    exec (.helloSend d p) s = .next
      (onPort d p (fun x => { x with txq := x.txq ++ [{ cell := helloCell s d p, ready := counterOf s d }] }) s.fresh) := by
  have hcell : helloCell s.fresh d p = helloCell s d p := by cases d <;> rfl
  change execHelloSend d p s = _
  rw [execHelloSend, performOn_works hok hw]
  simp only [port_fresh, codeword, hdue, if_true, hcell, counterOf_fresh]
  rw [enterErrs_nil (by simp)]

theorem helloCell_typ (s : State) (d : Dev) (p : Nat) : (helloCell s d p).typ = 8 := mkCell_typ ..

theorem helloCell_cls (s : State) (d : Dev) (p : Nat) : (helloCell s d p).cls = 0 := mkCell_cls_p0 (le_refl 8) ..

theorem hSender_helloCell (s : State) (d : Dev) (p : Nat) : hSender (helloCell s d p).body = (port s d p).ownId :=
  fld_pack rfl (by simp)

theorem hAck_helloCell (s : State) (d : Dev) (p : Nat) : hAck (helloCell s d p).body = (port s d p).heard :=
  bitOf_pack rfl (by simp)

/-- Settles O23: what a HELLO that is kept sets off, what a changed one does in UP, and the fields of the HELLO that leaves. -/
theorem helloExchange : Obligations.HelloExchange := by
  refine ⟨fun d p c s hok hw hst hlock htyp hsound hturn => ?_, fun d p c s => hello_changed_peer, fun d p s hok hw hdue => ?_⟩
  · have hgreet := hello_greeting hok hw hst hlock htyp hsound hturn
    dsimp only
    rw [hgreet]
    refine ⟨fun hver => ?_, fun hf ht => ⟨fun hrole => ?_, fun hrole hplane => ?_, fun hrole hplane hack => ?_,
      fun hrole hplane hack => ?_⟩⟩
    · rw [takeHello_no_version hver]
    · rw [takeHello_wrong_role hf ht hrole]
    · rw [takeHello_wrong_plane hf ht hrole hplane]
    · rw [takeHello_fits hf ht hrole hplane, hack, if_neg Bool.false_ne_true, enterErrs_nil (by simp)]
    · rw [takeHello_fits hf ht hrole hplane, hack, if_pos rfl]
      have hup := port_brought_up d p c.body s.fresh
      simp only [port_fresh] at hup
      exact ⟨_, rfl, hup⟩
  · exact ⟨helloSend_queues hok hw hdue, helloCell_typ s d p, helloCell_cls s d p, hSender_helloCell s d p, hAck_helloCell s d p⟩

end Sys2Proof
end

section
/-! PROOFS. Retry of lost codewords (O24). -/

namespace Sys2Proof

open Machine

/-! ## Asking again (R69) -/

theorem askRetry_up {d : Dev} {p : Nat} {s : State} (hup : (port s d p).state = .up) (cw : BitVec 12) :
    askRetry d p cw s = onPort d p (fun x => { x with
      retryCount := bump x.retryCount
      txq := x.txq ++ [{ cell := mkCell 7 cw.toNat 0 0, ready := counterOf s d }] }) s := by
  have hcount : (port (onPort d p (fun x => { x with retryCount := bump x.retryCount }) s) d p).state = .up := by simp [hup]
  refine (send_p0 (by decide : tRetryReq ≤ 8) hcount _ _ _).trans ?_
  rw [onPort_onPort, counterOf_onPort]
  rfl

section Uncorrectable
variable {d : Dev} {p : Nat} {s : State} (before : BitVec 12) (hok : portOk d p = true) (hw : partWorks s d = true)
  (hlock : (port s d p).rxLock = true)
include hok hw hlock

theorem codewordUncorrectable_counts (hst : (port s d p).state ≠ .up) : exec (.codewordUncorrectable d p before) s =
    .next (onPort d p (fun x => { x with cwUncorr := bump x.cwUncorr }) s.fresh) := by
  change execCodewordUncorrectable d p before s = _
  rw [execCodewordUncorrectable, performOn_works hok hw]
  simp only [port_fresh, hlock, hst, Bool.not_true, Bool.false_eq_true, not_false_eq_true, ne_eq, if_true, if_false]
  rw [enterErrs_nil (by simp)]

theorem codewordUncorrectable_asks (hup : (port s d p).state = .up) : exec (.codewordUncorrectable d p before) s = .next
    (onPort d p (fun x => { x with
      cwUncorr := bump x.cwUncorr
      gaps := (x.gaps.filter fun g => !decide (g.ahead = 0 ∧ g.opened + 8192 ≤ counterOf s d)) ++
        [{ cw := before + 1, opened := counterOf s d, lastReq := counterOf s d }]
      retryCount := bump x.retryCount
      txq := x.txq ++ [{ cell := mkCell 7 (before + 1).toNat 0 0, ready := counterOf s d }] }) s.fresh) := by
  change execCodewordUncorrectable d p before s = _
  rw [execCodewordUncorrectable, performOn_works hok hw]
  simp only [port_fresh, hlock, hup, Bool.not_true, Bool.false_eq_true, ne_eq, not_true_eq_false, if_false, counterOf_onPort,
    counterOf_fresh, onPort_onPort]
  rw [askRetry_up (by simp [hup]), counterOf_onPort, counterOf_fresh, onPort_onPort, enterErrs_nil (by simp)]
  rfl

end Uncorrectable

section Gaps
variable {d : Dev} {p : Nat} {cw : BitVec 12} {g : Gap} {s : State} (hok : portOk d p = true) (hw : partWorks s d = true)
  (hup : (port s d p).state = .up) (hg : g ∈ (port s d p).gaps) (hcw : g.cw = cw)
include hok hw hup hg hcw

/-- A gap is asked for again, and its time starts anew. -/
theorem exec_retryReqRepeat (hdue : g.lastReq + 1000 ≤ counterOf s d) : exec (.retryReqRepeat d p cw) s = .next
    (onPort d p (fun x => { x with
      gaps := x.gaps.map fun g => if g.cw = cw then { g with lastReq := counterOf s d } else g
      retryCount := bump x.retryCount
      txq := x.txq ++ [{ cell := mkCell 7 cw.toNat 0 0, ready := counterOf s d }] }) s.fresh) := by
  have hany : ((port s d p).gaps.any fun g => decide (g.cw = cw ∧ g.lastReq + 1000 ≤ counterOf s d)) = true :=
    List.any_eq_true.mpr ⟨g, hg, decide_eq_true ⟨hcw, hdue⟩⟩
  change execRetryReqRepeat d p cw s = _
  rw [execRetryReqRepeat, performOn_works hok hw]
  simp only [port_fresh, counterOf_fresh, hup, hany, and_self, if_true]
  rw [askRetry_up (by simp [hup]), counterOf_onPort, counterOf_fresh, onPort_onPort, enterErrs_nil (by simp)]

theorem retryReqRepeat_asks (hdue : g.lastReq + 1000 ≤ counterOf s d) :
    ∃ t, exec (.retryReqRepeat d p cw) s = .next t ∧ (port t d p).retryCount = bump (port s d p).retryCount ∧
      (∀ e ∈ (port t d p).gaps, e.cw = cw → e.lastReq = counterOf s d) ∧
      (port t d p).txq = (port s d p).txq ++ [{ cell := mkCell 7 cw.toNat 0 0, ready := counterOf s d }] := by
  refine ⟨_, exec_retryReqRepeat hok hw hup hg hcw hdue, ?_⟩
  rw [port_onPort_same, port_fresh]
  refine ⟨rfl, fun e he => ?_, rfl⟩
  obtain ⟨o, -, rfl⟩ := List.mem_map.mp he
  by_cases ho : o.cw = cw <;> simp [ho]

theorem retryExhausted_down (hlate : g.opened + 8000 ≤ counterOf s d) (hahead : g.ahead ≠ 0) :
    exec (.retryExhausted d p cw) s = .next (enterErrs (linkDown d p 2 s.fresh)) := by
  have hany : ((port s d p).gaps.any fun g => decide (g.cw = cw ∧ g.ahead ≠ 0 ∧ g.opened + 8000 ≤ counterOf s d)) = true :=
    List.any_eq_true.mpr ⟨g, hg, decide_eq_true ⟨hcw, hahead, hlate⟩⟩
  change execRetryExhausted d p cw s = _
  rw [execRetryExhausted, performOn_works hok hw]
  simp only [port_fresh, counterOf_fresh, hup, hany, and_self, if_true]
  rfl

end Gaps

/-! ## RETRY_REQ (R69, R70) and the replay buffer (R68) -/

/-- A type that link retry does not recover acts in the state it came to. -/
theorem received_not_retried {c : Cell} {typ : Nat} (htyp : c.typ = typ) (hnot : retried typ = false) (d : Dev) (p : Nat) (s : State) :
    received d p c s = s.fresh := by
  rw [received, htyp, hnot, if_neg Bool.false_ne_true]

theorem arrives_typ {d : Dev} {p typ : Nat} {c : Cell} {s : State} (h : arrives d p typ c s = true) :
    (port s d p).state = .up ∧ c.typ = typ := by
  simp only [arrives, Bool.and_eq_true, decide_eq_true_eq] at h
  exact h.1.1.2

/-- A cell of a type that link retry does not recover stands with the cells of its port (R128). -/
theorem cellTurn_unretried {typ : Nat} (hnot : retried typ = false) (d : Dev) (p : Nat) : cellTurn d p typ = cellPlace d p := by
  have htyp : typ ≠ tResult := by
    rintro rfl
    exact absurd hnot (by decide)
  simp [cellTurn, htyp]

/-- A cell of such a type, at a part that works. -/
theorem performOn_unretried {d : Dev} {p typ : Nat} {c : Cell} {i : Instr} {act : State → State} {s : State}
    (hi : placeOf i = cellPlace d p) (hnot : retried typ = false) (hok : portOk d p = true) (hw : partWorks s d = true)
    (h : arrives d p typ c s = true) :
    performOn d (portOk d p) (receive i d p [typ] c act) s = .next (enterErrs (act s.fresh)) := by
  rw [performOn_receive (hi.trans (cellTurn_unretried hnot d p).symm) hok hw h (by simp),
    received_not_retried (arrives_typ h).2 hnot]

theorem exec_retryReq {d : Dev} {p : Nat} {c : Cell} {s : State} (hok : portOk d p = true) (hw : partWorks s d = true)
    (h : arrives d p 7 c s = true) : exec (.retryReq d p c) s = .next (enterErrs
      (if codewordAge (port s d p) (fld c.hdr 32 12) ≤ 80 then resend d p (fld c.hdr 32 12) s.fresh else linkDown d p 2 s.fresh)) := by
  refine (performOn_unretried (i := .retryReq d p c) rfl (by decide) hok hw h).trans ?_
  rw [port_fresh]
  rfl

theorem retryReq_resends {d : Dev} {p : Nat} {c : Cell} {s : State} (hok : portOk d p = true) (hw : partWorks s d = true)
    (h : arrives d p 7 c s = true) (hage : codewordAge (port s d p) (fld c.hdr 32 12) ≤ 80) :
    exec (.retryReq d p c) s = .next (onPort d p (fun x => { x with
      txq := x.txq ++ ((x.replay.filter fun r => r.cws.contains (fld c.hdr 32 12)).map fun r =>
        { cell := { r.cell with hdr := putBit r.cell.hdr 11 true
                                contHdr := if r.cell.pair then putBit r.cell.contHdr 11 true else r.cell.contHdr }
          retry := true, ready := counterOf s d }) }) s.fresh) := by
  rw [exec_retryReq hok hw h, if_pos hage, resend, counterOf_fresh, enterErrs_nil (by simp)]
  refine congrArg Host.Outcome.next (onPort_congr ?_)
  rfl

theorem retryReq_exhausted {d : Dev} {p : Nat} {c : Cell} {s : State} (hok : portOk d p = true) (hw : partWorks s d = true)
    (h : arrives d p 7 c s = true) (hage : 80 < codewordAge (port s d p) (fld c.hdr 32 12)) :
    exec (.retryReq d p c) s = .next (enterErrs (linkDown d p 2 s.fresh)) := by
  rw [exec_retryReq hok hw h, if_neg (Nat.not_le.mpr hage)]

theorem replayBufferExpiry_forgets {d : Dev} {p : Nat} {cls : BitVec 2} {lseq : U16} {s : State} (hok : portOk d p = true)
    (hw : partWorks s d = true) : exec (.replayBufferExpiry d p cls lseq) s = .next (onPort d p (fun x => { x with
      replay := x.replay.filter fun r => !decide (r.cell.cls = cls.toNat ∧ r.cell.lseq = lseq ∧ r.at_ + 80 < x.slots / 10) })
      s.fresh) := by
  change execReplayBufferExpiry d p cls lseq s = _
  rw [execReplayBufferExpiry, performOn_works hok hw, enterErrs_nil (by simp)]
  rfl

/-- Settles O24, command by command. -/
theorem linkRetry : Obligations.LinkRetry :=
  ⟨fun _ _ before _ hok hw hlock =>
      ⟨codewordUncorrectable_counts before hok hw hlock, codewordUncorrectable_asks before hok hw hlock⟩,
    fun _ _ _ _ hok hw h => ⟨retryReq_resends hok hw h, retryReq_exhausted hok hw h⟩,
    fun _ _ _ _ _ hok hw hup hg hcw => ⟨retryReqRepeat_asks hok hw hup hg hcw, retryExhausted_down hok hw hup hg hcw⟩,
    fun _ _ _ _ _ => replayBufferExpiry_forgets⟩

end Sys2Proof
end

section
/-! PROOFS. The two-way time exchange and the latencies of a port (O25). -/

namespace Sys2Proof

open Machine

/-! ## Probes and answers (R78) -/

@[simp] theorem isChildSide_fresh (d : Dev) (p : Nat) (s : State) : isChildSide s.fresh d p = isChildSide s d p := by cases d <;> rfl
@[simp] theorem stampHt_fresh (d : Dev) (x : Stamp) (s : State) : stampHt s.fresh d x = stampHt s d x := by cases d <;> rfl

theorem timeDownSend_probes {d : Dev} {p : Nat} {s : State} (hok : portOk d p = true) (hw : partWorks s d = true)
    (hparent : isChildSide s d p = false) (hdue : (port s d p).slots / 10 % 1024 = 0) (hup : (port s d p).state = .up) :
    exec (.timeDownSend d p) s = .next (onPort d p (fun x => { x with
      txq := x.txq ++ [{ cell := mkCell 1 0 3 (pack 448 [(80, 1, b2n s.fjz.established)]), ready := counterOf s d }] }) s.fresh) := by
  change execTimeDownSend d p s = _
  rw [execTimeDownSend, performOn_works hok hw]
  simp only [port_fresh, isChildSide_fresh, hparent, codeword, hdue, ne_eq, not_true_eq_false, Bool.false_eq_true, or_self, if_false]
  rw [send_p0 (by decide : tTimeDown ≤ 8) (by rw [port_fresh, hup]), counterOf_fresh, enterErrs_nil (by simp)]
  rfl

theorem timeDown_stamps {d : Dev} {p : Nat} {c : Cell} {s : State} (t2 : Stamp) (hok : portOk d p = true) (hw : partWorks s d = true)
    (h : arrives d p 1 c s = true) (hchild : isChildSide s d p = true) :
    exec (.timeDown d p c t2) s = .next (onPort d p (fun x => { x with
      t12 := if bitOf c.body 80 then some (fld c.body 0 80, stampHt s d t2) else none }) s.fresh) := by
  refine (performOn_unretried (i := .timeDown d p c t2) rfl (by decide) hok hw h).trans ?_
  rw [isChildSide_fresh, hchild, if_pos rfl, enterErrs_nil (by simp), stampHt_fresh]

theorem timeUpSend_probes {d : Dev} {p : Nat} {s : State} (t3 : Stamp) (hok : portOk d p = true) (hw : partWorks s d = true)
    (hchild : isChildSide s d p = true) (hdue : (port s d p).slots / 10 % 1024 = 512) (hup : (port s d p).state = .up) :
    exec (.timeUpSend d p t3) s = .next (onPort d p (fun x => { x with
      t3 := some (stampHt s d t3, BitVec.ofNat 12 (x.slots / 10))
      txq := x.txq ++ [{ cell := mkCell 2 (agent s d).deviceId.toNat 0 0, ready := counterOf s d }] }) s.fresh) := by
  change execTimeUpSend d p t3 s = _
  rw [execTimeUpSend, performOn_works hok hw]
  simp only [port_fresh, isChildSide_fresh, hchild, codeword, hdue, ne_eq, not_true_eq_false, Bool.not_true, Bool.false_eq_true,
    or_self, if_false]
  rw [send_p0 (by decide : tTimeUp ≤ 8) (by rw [port_onPort_same, port_fresh, hup]), counterOf_onPort, counterOf_fresh, onPort_onPort,
    enterErrs_nil (by simp), stampHt_fresh, agent_fresh]
  rfl

theorem timeUp_answers {d : Dev} {p : Nat} {c : Cell} {s : State} (t4 : Stamp) (cw : BitVec 12) (hok : portOk d p = true)
    (hw : partWorks s d = true) (h : arrives d p 2 c s = true) (hparent : isChildSide s d p = false) :
    exec (.timeUp d p c t4 cw) s = .next (onPort d p (fun x => { x with
      txq := x.txq ++ [{ cell := mkCell 3 0 3 (pack 448 [(0, 80, (stampHt s d t4).toNat), (80, 12, cw.toNat)])
                         ready := counterOf s d }] }) s.fresh) := by
  refine (performOn_unretried (i := .timeUp d p c t4 cw) rfl (by decide) hok hw h).trans ?_
  rw [isChildSide_fresh, hparent, if_neg Bool.false_ne_true,
    send_p0 (by decide : tTimeReply ≤ 8) (by rw [port_fresh, (arrives_typ h).1]), counterOf_fresh, enterErrs_nil (by simp), stampHt_fresh]
  rfl

/-! ## The exchange complete (R79) -/

/-- The part takes a completed exchange: offset and delay in ps (R79). -/
def afterExchange (d : Dev) (p : Nat) (theta delay : Int) (s : State) : State :=
  match d with
  | .tsu => enterErrs (dieExchange p theta delay s)
  | .fjz => chipExchange p theta s

theorem timeReply_completes {d : Dev} {p : Nat} {c : Cell} {t1 t2 t3 : HT} {cw : BitVec 12} {s : State} (hok : portOk d p = true)
    (hw : partWorks s d = true) (h : arrives d p 3 c s = true) (hchild : isChildSide s d p = true)
    (h12 : (port s d p).t12 = some (t1, t2)) (h3 : (port s d p).t3 = some (t3, cw)) (hcw : cw = fld c.body 80 12) :
    let e := exchangeOf t1 t2 t3 (fld c.body 0 80)
    let theta := thetaPs e (port s d p).cableAsym.toInt
    let u := onPort d p (fun x => { x with pathDelay := i64 (delayPs e), exchanged := true, t12 := none, t3 := none }) s.fresh
    exec (.timeReply d p c) s = .next (afterExchange d p theta (delayPs e) u) := by
  refine (performOn_unretried (i := .timeReply d p c) rfl (by decide) hok hw h).trans ?_
  simp only [port_fresh, h12, h3, isChildSide_fresh, hchild, hcw, ne_eq, not_true_eq_false, Bool.not_true, Bool.false_eq_true,
    or_self, if_false]
  cases d
  · rfl
  · exact congrArg Host.Outcome.next (enterErrs_nil rfl)

/-! ## Latencies (R80) -/

theorem latencyStep_toNat (old new : U32) : (latencyStep old new).toNat =
    if new.toNat < old.toNat then old.toNat - min 8 (old.toNat - new.toNat) else old.toNat + min 8 (new.toNat - old.toNat) := by
  have hold := old.isLt
  have hnew := new.isLt
  unfold latencyStep
  split
  · exact (BitVec.toNat_ofNat ..).trans (Nat.mod_eq_of_lt (by omega))
  · exact (BitVec.toNat_ofNat ..).trans (Nat.mod_eq_of_lt (by omega))

theorem latencyStep_at_most_8 (old new : U32) :
    ((latencyStep old new).toNat - old.toNat : Int).natAbs = min 8 (new.toNat - old.toNat : Int).natAbs := by
  rw [latencyStep_toNat]
  split <;> omega

theorem latencyStep_arrives {old new : U32} (h : (new.toNat - old.toNat : Int).natAbs ≤ 8) : latencyStep old new = new := by
  refine BitVec.eq_of_toNat_eq ?_
  rw [latencyStep_toNat]
  split <;> omega

theorem latencyRemeasure_steps {d : Dev} {p : Nat} {s : State} (tx rx : U32) (hok : portOk d p = true) (hw : partWorks s d = true)
    (hup : (port s d p).state = .up) (hdue : (port s d p).measuredAt + 1000000000 ≤ counterOf s d) :
    exec (.latencyRemeasure d p tx rx) s = .next (onPort d p (fun x => { x with
      txLat := latencyStep x.txLat tx, rxLat := latencyStep x.rxLat rx, txMeasured := tx, rxMeasured := rx
      measuredAt := counterOf s d }) s.fresh) := by
  change execLatencyRemeasure d p tx rx s = _
  rw [execLatencyRemeasure, performOn_works hok hw, counterOf_fresh, enterErrs_nil (by simp)]
  refine congrArg Host.Outcome.next (onPort_congr ?_)
  rw [port_fresh, if_pos ⟨hup, hdue⟩]
  rfl

theorem beginCodeword_steps {x : Port} (h : x.slots % 10 = 0) :
    (beginCodeword x).txLat = latencyStep x.txLat x.txMeasured ∧ (beginCodeword x).rxLat = latencyStep x.rxLat x.rxMeasured := by
  rw [beginCodeword, if_pos h]
  exact ⟨rfl, rfl⟩

/-- Settles O25, command by command, with the arithmetic of one latency step. -/
theorem timeExchange : Obligations.TimeExchange :=
  ⟨fun _ _ _ => timeDownSend_probes, fun _ _ _ t2 _ => timeDown_stamps t2, fun _ _ t3 _ => timeUpSend_probes t3,
    fun _ _ _ t4 cw _ => timeUp_answers t4 cw, fun _ _ _ _ _ _ _ _ => timeReply_completes,
    fun _ _ tx rx _ => latencyRemeasure_steps tx rx, fun old new => ⟨latencyStep_at_most_8 old new, latencyStep_arrives⟩,
    fun _ => beginCodeword_steps⟩

end Sys2Proof
end

section
/-! PROOFS. The lateral taps (O26): markers, exchanges and baselines. -/

namespace Sys2Proof

open Machine

/-- A command about a lateral link of a die that works. -/
theorem performOn_link {l : Nat} {f : State → State} {s : State} (hw : s.tsu.works = true) (hl : l < 96) :
    performOn .tsu (linkOk l) f s = .next (enterErrs (f s.fresh)) :=
  performOn_works (decide_eq_true hl) hw

/-! ## Markers that leave (R83) -/

/-- A link once it has sent a marker that started at hall time `ht`, on tick `f`. -/
def markedAt (ht : HT) (f : Nat) (x : Link) : Link :=
  { x with sentHts := (ht :: x.sentHts).take 16, sentAt := some f, state := if x.state = 0 then latNoPeer else x.state }

theorem latMarkerSend_sends {l : Nat} {s : State} (sent : Stamp) (hw : s.tsu.works = true) (hl : l < 96)
    (hon : (s.tsu.link l).enable = true) (hht : s.tsu.tc.htValid = true)
    (hdue : ∀ f, (s.tsu.link l).sentAt = some f → f + s.tsu.latPeriod.toNat * 1000 ≤ s.tsu.tc.frc.toNat) :
    exec (.latMarkerSend l sent) s = .next
      (emit (.marker l ⟨stampHt s .tsu sent, true, (s.tsu.link l).gotHt, s.tsu.agent.deviceId⟩)
        (onLink l (markedAt (stampHt s .tsu sent) s.tsu.tc.frc.toNat) s.fresh)) := by
  change execLatMarkerSend l sent s = _
  rw [execLatMarkerSend, performOn_link hw hl]
  simp only [fresh_tsu, hon, hht]
  cases hs : (s.tsu.link l).sentAt with
  | none => exact congrArg Host.Outcome.next (enterErrs_nil rfl)
  | some f =>
    simp only [hdue f hs]
    exact congrArg Host.Outcome.next (enterErrs_nil rfl)

/-! ## Markers that arrive (R83, R84) -/

theorem markerSent_mem {there u : HT} {xs : List HT} (h : markerSent there xs = some u) : u ∈ xs := by
  induction xs generalizing u with
  | nil => cases h
  | cons t ts ih =>
    cases hs : markerSent there ts with
    | none => simp_all [markerSent]
    | some v =>
      have hv := ih hs
      simp only [markerSent, hs] at h
      split at h <;> cases h
      · exact List.mem_cons_self
      · exact List.mem_cons_of_mem t hv

/-- Of the markers sent, the one strictly nearest to an arrival time is the one that it names (R83). -/
theorem markerSent_nearest {there sent : HT} {xs : List HT} (hmem : sent ∈ xs)
    (hnear : ∀ u ∈ xs, u ≠ sent → htGap sent there < htGap u there) : markerSent there xs = some sent := by
  induction xs with
  | nil => cases hmem
  | cons t ts ih =>
    by_cases ht : t = sent
    · subst ht
      cases hs : markerSent there ts with
      | none => simp [markerSent, hs]
      | some u =>
        have hmine : htGap t there ≤ htGap u there := by
          by_cases hu : u = t
          · rw [hu]
          · exact (hnear u (List.mem_cons_of_mem t (markerSent_mem hs)) hu).le
        simp [markerSent, hs, hmine]
    · have hlater := ih ((List.mem_cons.mp hmem).resolve_left (Ne.symm ht)) fun u hu => hnear u (List.mem_cons_of_mem t hu)
      have hfar := hnear t List.mem_cons_self ht
      simp [markerSent, hlater, Nat.not_le.mpr hfar]

theorem takeLateral_last (theta d : Int) (x : Link) : (takeLateral theta d x).last = (theta :: x.last).take 16 := by
  unfold takeLateral
  dsimp only
  split <;> rfl

theorem takeLateral_gotHt (theta d : Int) (x : Link) : (takeLateral theta d x).gotHt = x.gotHt := by
  unfold takeLateral
  dsimp only
  split <;> rfl

/-- With 16 exchanges the offset is their mean, and the drift counts from the baseline (R84). -/
theorem takeLateral_full {theta d : Int} {x : Link} (h : (takeLateral theta d x).last.length = 16) :
    (takeLateral theta d x).state = 4 ∧ (takeLateral theta d x).offset = i64 (meanOf (takeLateral theta d x).last) ∧
      (takeLateral theta d x).drift = (takeLateral theta d x).offset - x.baseline := by
  rw [takeLateral_last] at h
  have hmean : takeLateral theta d x = { x with
      last := (theta :: x.last).take 16, delay := i64 d, state := latValid, offset := i64 (meanOf ((theta :: x.last).take 16))
      drift := i64 (meanOf ((theta :: x.last).take 16)) - x.baseline } := by
    simp only [takeLateral, h, lt_irrefl, if_false]
  rw [hmean]
  exact ⟨rfl, rfl, rfl⟩

/-- A link that a marker of die `peer` has reached at hall time `got`. -/
def reached (peer : Id24) (got : HT) (x : Link) : Link :=
  { x with peer := peer.setWidth 32, gotHt := some got, state := if x.state = latValid then x.state else latMeasuring }

theorem onLink_onLink (l : Nat) (f g : Link → Link) (s : State) : onLink l f (onLink l g s) = onLink l (fun x => f (g x)) s := by
  simp only [onLink, onTsu, Tbl.upd_upd]

/-- The offset of an exchange (R83). -/
theorem lateralExchange_theta (asym : Int) (sent peerGot peerSent arrival : HT) :
    (lateralExchange asym sent peerGot peerSent arrival).1 =
      openRound (((peerGot - sent).toInt - (arrival - peerSent).toInt) * 1000 - asym * 65536) 131072 := rfl

theorem latMarker_exchanges {l : Nat} {m : Marker} {sent there : HT} {s : State} (arrival : Stamp) (hw : s.tsu.works = true)
    (hl : l < 96) (hon : (s.tsu.link l).enable = true) (hvalid : m.originValid = true) (hht : s.tsu.tc.htValid = true)
    (hthere : m.lastArrival = some there) (hmarker : markerSent there (s.tsu.link l).sentHts = some sent) :
    let got := stampHt s .tsu arrival
    let r := lateralExchange (s.tsu.link l).asym.toInt sent there m.originHt got
    exec (.latMarker l m arrival) s = .next (onLink l (fun x => takeLateral r.1 r.2 (reached m.peerDie got x)) s.fresh) := by
  have hht' : (onLink l (fun x => { x with peer := m.peerDie.setWidth 32 }) s.fresh).tsu.tc.htValid = true := hht
  change execLatMarker l m arrival s = _
  rw [execLatMarker, performOn_link hw hl]
  simp only [fresh_tsu, hon, hvalid, hht', hthere, hmarker, Bool.not_true, Bool.false_eq_true, if_false, onLink_onLink]
  exact congrArg Host.Outcome.next (enterErrs_nil rfl)

/-! ## Baselines (R84) -/

/-- What a walk over the links of the die does to one of them, where each step changes its own link alone. -/
theorem forAll_link (g : Link → Link) {ls : List Nat} (hls : ls.Nodup) {l : Nat} (hl : l ∈ ls) (s : State) :
    (forAll ls (fun k u => onLink k g u) s).tsu.link l = g (s.tsu.link l) := by
  have hpast (ls : List Nat) (h : l ∉ ls) (s : State) : (forAll ls (fun k u => onLink k g u) s).tsu.link l = s.tsu.link l := by
    induction ls generalizing s with
    | nil => rfl
    | cons k ls ih =>
      rw [List.mem_cons, not_or] at h
      exact (ih h.2 _).trans (link_onLink_ne _ _ h.1)
  induction ls generalizing s with
  | nil => cases hl
  | cons k ls ih =>
    rw [List.nodup_cons] at hls
    by_cases hk : l = k
    · subst hk
      exact (hpast ls hls.1 _).trans (link_onLink_same ..)
    · exact (ih hls.2 ((List.mem_cons.mp hl).resolve_left hk) _).trans (congrArg g (link_onLink_ne _ _ hk))

/-- Every link captures its baseline. -/
def captureAll (s : State) : State := forAll (List.range 96) (fun l u => onLink l captureBaseline u) s

theorem latBaselineCapture_takes {q : Req} {s : State} (h : admits .tsu q 0x3380 2 .wo [1] s = true) :
    exec (.latBaselineCapture q 1) s = .next (answered .tsu q 0x3380 2 stOk (captureAll (taken .tsu q s))) :=
  boolCommand_takes (c := .latBaselineCapture q 1) (f := captureAll) rfl h fun u =>
    forAll_keeps (·.staged) (fun l u => onLink l captureBaseline u) (fun _ _ => rfl) _ u

theorem latBaselineCapture_link {q : Req} {l : Nat} (hl : l < 96) (s : State) :
    (answered .tsu q 0x3380 2 stOk (captureAll (taken .tsu q s))).tsu.link l = captureBaseline (s.tsu.link l) := by
  rw [answered_die_keeps (v := (·.link l)) fun _ _ _ _ _ _ _ _ => rfl, captureAll,
    forAll_link captureBaseline List.nodup_range (List.mem_range.mpr hl), taken_die_keeps (v := (·.link l)) fun _ _ _ _ _ _ _ _ => rfl]

theorem latBaselineAuto_captures {l : Nat} {s : State} (hw : s.tsu.works = true) (hl : l < 96)
    (hnone : (s.tsu.link l).hasBaseline = false) (hvalid : (s.tsu.link l).state = 4) (hlocked : s.tsu.tc.state = .locked)
    (hlong : nsOf s.tsu.tc.entryHt + 600000000000 ≤ nsOf s.tsu.now) :
    exec (.latBaselineAuto ⟨l, true⟩) s = .next (onLink l captureBaseline s.fresh) := by
  change execLatBaselineAuto ⟨l, true⟩ s = _
  rw [execLatBaselineAuto, performOn_link hw hl]
  simp only [fresh_tsu, hnone, hvalid, hlocked, hlong, latValid, Bool.not_false, and_self, if_true]
  exact congrArg Host.Outcome.next (enterErrs_nil rfl)

/-- Settles O26: the marker named is the nearest, and every link of the die captures its own baseline. -/
theorem lateralTaps : Obligations.LateralTaps := by
  refine ⟨fun l sent s hw hl hon hht hdue => ?_, fun l m arrival sent there s hw hl hon hvalid hht hthere hmem hnear => ?_,
    fun q s h => ⟨_, latBaselineCapture_takes h, fun l hl => ?_⟩, fun l s => latBaselineAuto_captures⟩
  · refine ⟨_, latMarkerSend_sends sent hw hl hon hht hdue, rfl, rfl, ?_, ?_, fun m hm => ?_⟩
    · exact congrArg Link.sentHts (link_onLink_same ..)
    · exact congrArg Link.sentAt (link_onLink_same ..)
    · exact link_onLink_ne _ s.fresh hm
  · refine ⟨_, latMarker_exchanges arrival hw hl hon hvalid hht hthere (markerSent_nearest hmem hnear), ?_, ?_, fun hfull => ?_,
      fun k hk => link_onLink_ne _ s.fresh hk, rfl⟩
    · rw [link_onLink_same, takeLateral_gotHt]
      rfl
    · rw [link_onLink_same, takeLateral_last, lateralExchange_theta]
      rfl
    · rw [link_onLink_same] at hfull ⊢
      exact takeLateral_full hfull
  · rw [latBaselineCapture_link hl]
    exact ⟨rfl, rfl, rfl, rfl⟩

end Sys2Proof
end

section
/-! PROOFS. The queue of transmit time-stamps (O27). -/

namespace Sys2Proof

open Machine

/-! ## Placing an element in order -/

section Placing
variable {α : Type}

theorem insertBy_perm (before : α → α → Bool) (x : α) (xs : List α) : (insertBy before x xs).Perm (x :: xs) := by
  induction xs with
  | nil => exact .refl _
  | cons y ys ih =>
    unfold insertBy
    split
    · exact .refl _
    · exact (ih.cons y).trans (.swap x y ys)

theorem insertBy_at_end {before : α → α → Bool} {x : α} {xs : List α} (h : ∀ y ∈ xs, before x y = false) :
    insertBy before x xs = xs ++ [x] := by
  induction xs with
  | nil => rfl
  | cons y ys ih =>
    rw [insertBy, h y List.mem_cons_self, if_neg Bool.false_ne_true, ih fun z hz => h z (List.mem_cons_of_mem y hz), List.cons_append]

/-- A list in the order of a key stays in that order. -/
theorem insertBy_pairwise {key : α → Nat} (x : α) {xs : List α} (h : xs.Pairwise fun a b => key a ≤ key b) :
    (insertBy (fun a b => decide (key a < key b)) x xs).Pairwise fun a b => key a ≤ key b := by
  induction xs with
  | nil => exact List.pairwise_singleton _ x
  | cons y ys ih =>
    obtain ⟨hy, hys⟩ := List.pairwise_cons.mp h
    unfold insertBy
    split
    next hlt =>
      have hxy : key x ≤ key y := (of_decide_eq_true hlt).le
      refine List.pairwise_cons.mpr ⟨fun z hz => ?_, h⟩
      obtain rfl | hz := List.mem_cons.mp hz
      · exact hxy
      · exact hxy.trans (hy z hz)
    next hnlt =>
      have hyx : key y ≤ key x := Nat.not_lt.mp fun hlt => hnlt (decide_eq_true hlt)
      refine List.pairwise_cons.mpr ⟨fun z hz => ?_, ih hys⟩
      obtain rfl | hz := List.mem_cons.mp ((insertBy_perm _ x ys).mem_iff.mp hz)
      · exact hyx
      · exact hy z hz

end Placing

/-! ## Time-stamps enter (R85) -/

/-- By what the queue is ordered: the time-stamp, then the link (R85). -/
def txtsKey (e : BitVec 128) : Nat := (fldN e 32 64 * 128 + fldN e 96 7) * 128 + fldN e 16 7

theorem txtsBefore_eq : txtsBefore = fun a b => decide (txtsKey a < txtsKey b) := rfl

/-- An entry enters the queue in its place; the first of a queue raises its interrupt (R85). -/
def enterTxts (e : BitVec 128) (t : Tsu) : Tsu :=
  let u := { t with txts := insertBy txtsBefore e t.txts }
  if t.txts.isEmpty then setIrq u irqTxtsPending else u

/-- An entry is dropped; the first that is raises its interrupt (R85). -/
def dropTxts (t : Tsu) : Tsu :=
  let u := { t with txtsOverflow := true, txtsDropped := bump t.txtsDropped }
  if t.txtsOverflow then u else setIrq u irqTxtsOverflow

theorem exec_txTimestamp {l : Nat} {s : State} (id : U16) (x : Stamp) (hw : s.tsu.works = true) (hl : l < 96)
    (hturn : s.aheadOf (placeOf (.txTimestamp l id x)) = false) : exec (.txTimestamp l id x) s = .next
      (onTsu (fun t => if t.txts.length < 64 then enterTxts (txtsEntry l id x) t else dropTxts t) s.fresh) := by
  change execTxTimestamp l id x s = _
  rw [execTxTimestamp, performOn_link hw hl, inTurn_acts (s := s.fresh) hturn, enterErrs_nil rfl]
  rfl

theorem enterTxts_keeps {γ : Type} (v : Tsu → γ) (h : ∀ (t : Tsu) q i, v { t with txts := q, intStatus := i } = v t) (e : BitVec 128)
    (t : Tsu) : v (enterTxts e t) = v t := by
  unfold enterTxts
  dsimp only
  split
  · exact h t _ _
  · exact h t _ t.intStatus

theorem enterTxts_txts (e : BitVec 128) (t : Tsu) : (enterTxts e t).txts = insertBy txtsBefore e t.txts := by
  unfold enterTxts
  dsimp only
  split <;> rfl

theorem enterTxts_pending (e : BitVec 128) {t : Tsu} (h : t.txts = []) : (enterTxts e t).intStatus = t.intStatus ||| 8 := by
  rw [enterTxts, h]
  rfl

/-- An entry no earlier than any other stands last. -/
theorem enterTxts_at_end {e : BitVec 128} {t : Tsu} (h : ∀ o ∈ t.txts, txtsKey o ≤ txtsKey e) :
    (enterTxts e t).txts = t.txts ++ [e] := by
  rw [enterTxts_txts, txtsBefore_eq]
  exact insertBy_at_end fun o ho => decide_eq_false (Nat.not_lt.mpr (h o ho))

theorem enterTxts_in_order (e : BitVec 128) {t : Tsu} (h : t.txts.Pairwise fun a b => txtsKey a ≤ txtsKey b) :
    (enterTxts e t).txts.Pairwise fun a b => txtsKey a ≤ txtsKey b := by
  rw [enterTxts_txts, txtsBefore_eq]
  exact insertBy_pairwise e h

theorem dropTxts_fields (t : Tsu) : (dropTxts t).links = t.links ∧ (dropTxts t).txts = t.txts ∧ (dropTxts t).txtsOverflow = true ∧
    (dropTxts t).txtsDropped = bump t.txtsDropped := by
  unfold dropTxts
  dsimp only
  split <;> exact ⟨rfl, rfl, rfl, rfl⟩

/-! ## The queue is read (R85) -/

theorem txtsPop_answers {q : Req} {s : State} (h : admitsRead .tsu q 0x3300 1 true s = true) :
    exec (.txtsPop q) s = .next (answeredRead .tsu q 0x3300 1 true (bvBytes (s.tsu.txts.headD 0))
      (onTsu (fun t => { t with txts := t.txts.tail }) (taken .tsu q s))) := by
  have htxts : (taken .tsu q s).tsu.txts = s.tsu.txts := taken_die_keeps (v := (·.txts)) (fun _ _ _ _ _ _ _ _ => rfl) q s
  change perform true (inTurn (.txtsPop q) (agentRead .tsu q rTxtsPop)) s = _
  rw [agentRead_answers rfl (op := rTxtsPop) h rfl, enterErrs_nil (by simp [rTxtsPop])]
  simp only [rTxtsPop, htxts]

theorem txtsOverflowClear_clears {q : Req} {s : State} (h : admits .tsu q 0x3300 4 .wo [1] s = true) :
    exec (.txtsOverflowClear q 1) s = .next (answered .tsu q 0x3300 4 stOk
      (onTsu (fun t => { t with txtsOverflow := false }) (taken .tsu q s))) :=
  boolCommand_takes (c := .txtsOverflowClear q 1) rfl h fun _ => rfl

/-- Settles O27: an entry finds room and takes its place, or is dropped; the queue is read from its front. -/
theorem transmitTimeStamps : Obligations.TransmitTimeStamps := by
  refine ⟨fun l id x s hw hl hturn => ?_, fun q s => txtsPop_answers, fun q s => txtsOverflowClear_clears⟩
  refine ⟨_, exec_txTimestamp id x hw hl hturn, rfl, ?_⟩
  rw [onTsu_tsu, fresh_tsu]
  by_cases hroom : s.tsu.txts.length < 64
  · rw [if_pos hroom]
    refine ⟨enterTxts_keeps (·.links) (fun _ _ _ => rfl) _ _, fun _ => ⟨?_, enterTxts_at_end, enterTxts_in_order _,
      enterTxts_keeps (·.txtsDropped) (fun _ _ _ => rfl) _ _, enterTxts_pending _⟩, fun hfull => absurd hroom (Nat.not_lt.mpr hfull)⟩
    rw [enterTxts_txts]
    exact insertBy_perm _ _ _
  · rw [if_neg hroom]
    obtain ⟨hlinks, hrest⟩ := dropTxts_fields s.tsu
    exact ⟨hlinks, fun hlt => absurd hlt hroom, fun _ => hrest⟩

end Sys2Proof
end

section
/-! PROOFS. What the references of a Fjouz chip leave alone: the die, the chip's own setting, and the candidates that they do not judge. -/

namespace Sys2Proof.Machine

/-! ## Beside the chip -/

/-- What stands beside the chip: the die, the queues of commands, the outputs and the staged records. -/
def beside (s : State) : State := { s with fjz := {} }

@[simp] theorem beside_ite (c : Prop) [Decidable c] (a b : State) : beside (if c then a else b) = if c then beside a else beside b :=
  apply_ite beside c a b
@[simp] theorem beside_onFjz (f : Fjz → Fjz) (s : State) : beside (onFjz f s) = beside s := rfl
@[simp] theorem beside_onCand (c : Nat) (f : Cand → Cand) (s : State) : beside (onCand c f s) = beside s := rfl
@[simp] theorem beside_onEth (e : Nat) (f : Eth → Eth) (s : State) : beside (onEth e f s) = beside s := rfl
@[simp] theorem beside_onCtx (c : Nat) (f : TineCtx → TineCtx) (s : State) : beside (onCtx c f s) = beside s := rfl
@[simp] theorem beside_onPort (p : Nat) (f : Port → Port) (s : State) : beside (onPort .fjz p f s) = beside s := rfl
@[simp] theorem beside_raiseFjz (r : ErrRec) (s : State) : beside (raiseFjz r s) = beside s := rfl
@[simp] theorem beside_sendOn (p : Nat) (b : Bool) (c : Cell) (s : State) : beside (sendOn .fjz p b c s) = beside s := by
  simp [sendOn]

theorem beside_forAll {α : Type} (f : α → State → State) (h : ∀ a s, beside (f a s) = beside s) (xs : List α) (s : State) :
    beside (forAll xs f s) = beside s := forAll_keeps beside f h xs s

theorem tsu_of_beside {s t : State} (h : beside t = beside s) : t.tsu = s.tsu := by
  change (beside t).tsu = (beside s).tsu
  rw [h]
theorem staged_of_beside {s t : State} (h : beside t = beside s) : t.staged = s.staged := by
  change (beside t).staged = (beside s).staged
  rw [h]

/-! ## The bare chip -/

/-- The chip without its ports, its tine contexts and its error records: what the adoption of a standby parent leaves alone. -/
def Fjz.bare (x : Fjz) : Fjz := { x with ports := [], p3Dropped := 0, ctxs := [], errs := {}, ownSeq := 0, events := [] }

@[simp] theorem bare_onCtx (c : Nat) (f : TineCtx → TineCtx) (s : State) : (onCtx c f s).fjz.bare = s.fjz.bare := rfl
@[simp] theorem bare_onPort (p : Nat) (f : Port → Port) (s : State) : (onPort .fjz p f s).fjz.bare = s.fjz.bare := rfl
@[simp] theorem bare_sendOn (p : Nat) (b : Bool) (c : Cell) (s : State) : (sendOn .fjz p b c s).fjz.bare = s.fjz.bare := by
  unfold sendOn
  dsimp only
  repeat' split
  all_goals rfl

theorem bare_forAll {α : Type} (f : α → State → State) (h : ∀ a s, (f a s).fjz.bare = s.fjz.bare) (xs : List α) (s : State) :
    (forAll xs f s).fjz.bare = s.fjz.bare := forAll_keeps (·.fjz.bare) f h xs s

/-- A record that halts no herd touches nothing but the chip's records (R248, R287). -/
theorem bare_raiseFjz {r : ErrRec} (h : r.halts = false) (s : State) : (raiseFjz r s).fjz.bare = s.fjz.bare := by
  rw [raiseFjz_eq, onFjz_fjz, afterRecord_not_halting (show (ownRecord r s).halts = false from h)]
  exact fjzRecord_keeps Fjz.bare (fun _ _ => rfl) (fun _ _ _ => rfl) _ _

/-! ## A standby parent is adopted (R16, R205) -/

@[simp] theorem beside_deactivate (herd : Id24) (s : State) : beside (deactivate herd s) = beside s :=
  beside_forAll (fun n s => onCtx n (fun k => { k with active := false }) s) (fun _ _ => rfl) _ s
@[simp] theorem bare_deactivate (herd : Id24) (s : State) : (deactivate herd s).fjz.bare = s.fjz.bare :=
  bare_forAll (fun n s => onCtx n (fun k => { k with active := false }) s) (fun _ _ => rfl) _ s

@[simp] theorem beside_moveDown (herd : Id24) (n : Nat) (s : State) : beside (moveDown herd n s) = beside s :=
  beside_forAll _ (fun _ _ => beside_sendOn ..) _ s
@[simp] theorem bare_moveDown (herd : Id24) (n : Nat) (s : State) : (moveDown herd n s).fjz.bare = s.fjz.bare :=
  bare_forAll _ (fun _ _ => bare_sendOn ..) _ s

@[simp] theorem beside_moveUp (herd : Id24) (n : Nat) (s : State) : beside (moveUp herd n s) = beside s := by
  unfold moveUp sendTineUp
  split
  · exact beside_sendOn ..
  · rfl
@[simp] theorem bare_moveUp (herd : Id24) (n : Nat) (s : State) : (moveUp herd n s).fjz.bare = s.fjz.bare := by
  unfold moveUp sendTineUp
  split
  · exact bare_sendOn ..
  · rfl

theorem beside_originateMove (herd : Id24) (p : Nat) (down : Bool) (s : State) : beside (originateMove herd p down s) = beside s := by
  unfold originateMove
  split
  · rfl
  · simp

theorem bare_originateMove (herd : Id24) (p : Nat) (down : Bool) (s : State) :
    (originateMove herd p down s).fjz.bare = s.fjz.bare := by
  unfold originateMove
  split
  · rfl
  · dsimp only
    rw [bare_deactivate, bare_raiseFjz rfl]
    split
    · exact bare_moveDown ..
    · exact bare_moveUp ..

@[simp] theorem beside_adoptStandby (s : State) : beside (adoptStandby s) = beside s :=
  beside_forAll _ (fun _ _ => beside_originateMove ..) _ s
@[simp] theorem bare_adoptStandby (s : State) : (adoptStandby s).fjz.bare = s.fjz.bare :=
  bare_forAll _ (fun _ _ => bare_originateMove ..) _ s

theorem beside_withAdoption (f : State → State) (s : State) (h : ∀ u, beside (f u) = beside u) :
    beside (withAdoption f s) = beside s := by
  simp [withAdoption, h]

/-- An adoption leaves of the bare chip what the change of references did. -/
@[simp] theorem bare_withAdoption (f : State → State) (s : State) : (withAdoption f s).fjz.bare = (f s).fjz.bare := by
  unfold withAdoption
  dsimp only
  split
  · exact bare_adoptStandby _
  · rfl

theorem withAdoption_keeps {γ : Type} {v : Fjz → γ} (hv : ∀ x, v x.bare = v x) (f : State → State) (s : State) :
    v (withAdoption f s).fjz = v (f s).fjz := by
  rw [← hv, bare_withAdoption, hv]

theorem withAdoption_congr {f g : State → State} {s : State} (h : f s = g s) : withAdoption f s = withAdoption g s := by
  simp only [withAdoption, h]

/-! ## The choice of references -/

/-- The chip's setting: what neither the choice of references nor the loss of a candidate, nor their consequences, move. -/
def Fjz.setting (x : Fjz) : Fjz :=
  { x.bare with
    cands := [], lock := .free, selTime := none, selFreq := none, switch := none, selectNext := false, outSqc := 0
    established := false, htOffset := 0, acqRun := 0, fcw := 0, phaseErrs := [], lockSince := none, holdEntry := 0, tempSum := 0
    holdB0 := 0, holdTemp := 0, sqcAtHold := 0, ocxoUF := 0, holdBound := 0 }

theorem setting_of_bare {x y : Fjz} (h : y.bare = x.bare) : y.setting = x.setting := by
  change y.bare.setting = x.bare.setting
  rw [h]

/-- A candidate marked with the tick since which it has been eligible. -/
def Fjz.marked (x : Fjz) (c : Nat) (k : Cand) : Cand :=
  { k with eligibleSince := if x.eligible c then some (k.eligibleSince.getD x.frc.toNat) else none }

/-- A candidate as hall time moves by `jump` ps. -/
def Cand.movedBy (jump : Int) (k : Cand) : Cand := { k with phase := k.phase - jump, baseline := k.baseline - jump }

/-- The selection of a time candidate on the present tick (R99, R100). -/
def Fjz.chooseTime (x : Fjz) (t : Option Nat) : Fjz :=
  match x.lock, t with
  | .free, some c => if x.established then x else x.acquireFrom c
  | .free, none => x
  | .hold, _ => x
  | _, some c => if x.switch = none ∧ x.selTime ≠ some c then x.startSwitch c false else x
  | _, none => x

/-- The selection of a frequency candidate on the present tick (R96). -/
def Fjz.chooseFreq (x : Fjz) : Fjz :=
  if x.switch ≠ none ∨ x.bestFreq = x.selFreq then x
  else match x.bestFreq with
    | some c => x.startSwitch c true
    | none => { x with selFreq := none }

theorem select_eq (x : Fjz) : x.select =
    if x.markEligible.selectNext then x.markEligible.setOut
    else (x.markEligible.chooseTime x.markEligible.bestTime).chooseFreq.setOut := rfl

/-- A property that holds once the candidates are marked, and that each choice and the new quality keep, holds after the choice of
references. -/
theorem select_keeps {P : Fjz → Prop} {x : Fjz} (hm : P x.markEligible) (ht : ∀ y t, P y → P (y.chooseTime t))
    (hf : ∀ y, P y → P y.chooseFreq) (ho : ∀ y, P y → P y.setOut) : P x.select := by
  rw [select_eq]
  split
  · exact ho _ hm
  · exact ho _ (hf _ (ht _ _ hm))

theorem chooseTime_cases (x : Fjz) (t : Option Nat) :
    x.chooseTime t = x ∨ (∃ c, x.chooseTime t = x.startSwitch c false) ∨ (x.lock = .free ∧ ∃ c, x.chooseTime t = x.acquireFrom c) := by
  unfold Fjz.chooseTime
  split
  · split
    · exact .inl rfl
    · exact .inr (.inr ⟨‹_›, _, rfl⟩)
  · exact .inl rfl
  · exact .inl rfl
  · split
    · exact .inr (.inl ⟨_, rfl⟩)
    · exact .inl rfl
  · exact .inl rfl

theorem chooseFreq_cases (x : Fjz) :
    x.chooseFreq = x ∨ (∃ c, x.chooseFreq = x.startSwitch c true) ∨ (x.bestFreq = none ∧ x.chooseFreq = { x with selFreq := none }) := by
  unfold Fjz.chooseFreq
  split
  · exact .inl rfl
  · split
    · exact .inr (.inl ⟨_, rfl⟩)
    · exact .inr (.inr ⟨‹_›, rfl⟩)

@[simp] theorem setting_select (x : Fjz) : x.select.setting = x.setting := by
  refine select_keeps (P := fun y => y.setting = x.setting) rfl (fun y t hy => ?_) (fun y hy => ?_) fun y hy => hy
  · obtain h | ⟨c, h⟩ | ⟨-, c, h⟩ := chooseTime_cases y t <;> rw [h] <;> exact hy
  · obtain h | ⟨c, h⟩ | ⟨-, h⟩ := chooseFreq_cases y <;> rw [h] <;> exact hy

/-- Out of FREE the choice moves the candidates' marks, the switch, the frequency selection and the quality, and nothing else. -/
theorem select_keeps_of_not_free {γ : Type} {v : Fjz → γ}
    (hv : ∀ (x : Fjz) cs w f q e, v { x with cands := cs, switch := w, selFreq := f, outSqc := q, established := e } = v x) {x : Fjz}
    (h : x.lock ≠ .free) : v x.select = v x := by
  refine (select_keeps (P := fun y => y.lock ≠ .free ∧ v y = v x) ⟨h, hv x _ x.switch x.selFreq x.outSqc x.established⟩
    (fun y t hy => ?_) (fun y hy => ?_) fun y hy => ⟨hy.1, ?_⟩).2
  · obtain h | ⟨c, h⟩ | ⟨hfree, -⟩ := chooseTime_cases y t
    · rwa [h]
    · rw [h]; exact ⟨hy.1, (hv y y.cands _ y.selFreq y.outSqc y.established).trans hy.2⟩
    · exact absurd hfree hy.1
  · obtain h | ⟨c, h⟩ | ⟨-, h⟩ := chooseFreq_cases y
    · rwa [h]
    · rw [h]; exact ⟨hy.1, (hv y y.cands _ y.selFreq y.outSqc y.established).trans hy.2⟩
    · rw [h]; exact ⟨hy.1, (hv y y.cands y.switch none y.outSqc y.established).trans hy.2⟩
  · exact (hv y y.cands y.switch y.selFreq _ _).trans hy.2

/-! ## Every listing of an element -/

end Sys2Proof.Machine

namespace Sys2Proof

/-- An element of a table shows a value, in every listing of it. -/
def Tbl.shows {α γ : Type} (v : α → γ) (d : α) (t : Tbl α) (k : Nat) (w : γ) : Prop :=
  v (t.get d k) = w ∧ ∀ e ∈ t, e.1 = k → v e.2 = w

section Shows
variable {α γ : Type} {v : α → γ} {d : α} {t : Tbl α} {k : Nat} {w : γ}

/-- An element is listed, or is the reset element. -/
theorem Tbl.get_mem (d : α) (t : Tbl α) (k : Nat) : (k, t.get d k) ∈ t ∨ t.get d k = d := by
  induction t with
  | nil => exact .inr rfl
  | cons e t ih =>
    obtain ⟨i, x⟩ := e
    by_cases hi : i = k
    · subst hi
      simp [Tbl.get]
    · simpa [Tbl.get, hi, Ne.symm hi] using ih

theorem Tbl.mem_insert {j : Nat} {x : α} {e : Nat × α} (h : e ∈ Tbl.insert t j x) : e = (j, x) ∨ e ∈ t := by
  induction t with
  | nil => exact .inl (List.mem_singleton.mp h)
  | cons o t ih =>
    obtain ⟨i, y⟩ := o
    unfold Tbl.insert at h
    split at h
    · exact (List.mem_cons.mp h)
    · obtain rfl | h := List.mem_cons.mp h
      · exact .inr List.mem_cons_self
      · exact (ih h).imp_right (List.mem_cons_of_mem _)

variable [DecidableEq α]

theorem Tbl.mem_set {j : Nat} {x : α} {e : Nat × α} (h : e ∈ Tbl.set d t j x) : e = (j, x) ∨ (e ∈ t ∧ e.1 ≠ j) := by
  have hrest {e : Nat × α} (he : e ∈ t.erase j) : e ∈ t ∧ e.1 ≠ j := by simpa [Tbl.erase] using he
  unfold Tbl.set at h
  split at h
  · exact .inr (hrest h)
  · exact (Tbl.mem_insert h).imp_right hrest

/-- An update leaves a single listing of its element. -/
theorem Tbl.shows_upd_same (v : α → γ) (d : α) (t : Tbl α) (k : Nat) (f : α → α) :
    Tbl.shows v d (t.upd d k f) k (v (f (t.get d k))) := by
  refine ⟨congrArg v (Tbl.get_upd_same ..), fun e he hk => ?_⟩
  obtain rfl | ⟨-, hne⟩ := Tbl.mem_set he
  · rfl
  · exact absurd hk hne

theorem Tbl.shows_upd_ne {j : Nat} (hj : k ≠ j) (f : α → α) (h : Tbl.shows v d t k w) : Tbl.shows v d (t.upd d j f) k w := by
  refine ⟨by rw [Tbl.get_upd_ne d t f hj]; exact h.1, fun e he hk => ?_⟩
  obtain rfl | ⟨hmem, -⟩ := Tbl.mem_set he
  · exact absurd hk.symm hj
  · exact h.2 e hmem hk

/-- An update that moves nothing of what is shown leaves it shown. -/
theorem Tbl.shows_upd {j : Nat} {f : α → α} (hf : ∀ x, v (f x) = v x) (h : Tbl.shows v d t k w) : Tbl.shows v d (t.upd d j f) k w := by
  by_cases hj : k = j
  · subst hj
    have hsame := Tbl.shows_upd_same v d t k f
    rwa [hf, h.1] at hsame
  · exact Tbl.shows_upd_ne hj f h

/-- So does a walk over the whole table. -/
theorem Tbl.shows_mapAll {f : Nat → α → α} (hf : ∀ x, v (f k x) = v x) (h : Tbl.shows v d t k w) :
    Tbl.shows v d (t.mapAll d f) k w := by
  have hlisted : ∀ e ∈ t.mapAll d f, e.1 = k → v e.2 = w := by
    intro e he hk
    obtain ⟨o, ho, hoe⟩ := List.mem_filterMap.mp he
    split at hoe
    · cases hoe
    · cases hoe
      subst hk
      exact (hf _).trans (h.2 o ho rfl)
  refine ⟨?_, hlisted⟩
  obtain hin | hout := Tbl.get_mem d (t.mapAll d f) k
  · exact hlisted _ hin rfl
  · rw [hout]
    obtain hin' | hout' := Tbl.get_mem d t k
    · by_cases hd : f k (t.get d k) = d
      · rw [← hd, hf]
        exact h.1
      · have hmem : (k, f k (t.get d k)) ∈ t.mapAll d f := List.mem_filterMap.mpr ⟨_, hin', by simp [hd]⟩
        have hget := Tbl.get_mapAll_of_ne (f := f) (k := k) (t := t) (d := d)
        by_cases hne : t.get d k = d
        · rw [← hne]; exact h.1
        · rw [← hout, hget hne hd, hf]; exact h.1
    · rw [← hout']
      exact h.1

end Shows

end Sys2Proof

namespace Sys2Proof.Machine

/-- A candidate shows a value, in every listing of it. -/
def Fjz.shows {γ : Type} (v : Cand → γ) (c : Nat) (w : γ) (x : Fjz) : Prop := Tbl.shows v {} x.cands c w

section Cands
variable {γ : Type} {v : Cand → γ} {c : Nat} {w : γ}

theorem Fjz.shows.cand {x : Fjz} (h : x.shows v c w) : v (x.cand c) = w := h.1

theorem cands_of_bare {x y : Fjz} (h : y.bare = x.bare) : y.cands = x.cands := by
  change y.bare.cands = x.bare.cands
  rw [h]

theorem shows_of_bare {x y : Fjz} (hb : y.bare = x.bare) (h : x.shows v c w) : y.shows v c w := by
  rwa [Fjz.shows, cands_of_bare hb]

theorem shows_withAdoption {f : State → State} {s : State} (h : (f s).fjz.shows v c w) : (withAdoption f s).fjz.shows v c w :=
  shows_of_bare (bare_withAdoption f s) h

theorem shows_onCand_same {f : Cand → Cand} {s : State} (h : v (f (s.fjz.cand c)) = w) : (onCand c f s).fjz.shows v c w := by
  subst h
  exact Tbl.shows_upd_same ..

theorem shows_onCand_ne {j : Nat} (hj : c ≠ j) (f : Cand → Cand) {s : State} (h : s.fjz.shows v c w) :
    (onCand j f s).fjz.shows v c w := Tbl.shows_upd_ne hj f h

/-- The choice of references moves phase, baseline and mark of a candidate at most. -/
theorem shows_select (hv : ∀ (k : Cand) p b e, v { k with phase := p, baseline := b, eligibleSince := e } = v k) {x : Fjz}
    (h : x.shows v c w) : x.select.shows v c w := by
  refine select_keeps (P := fun y => y.shows v c w) ?_ (fun y t hy => ?_) (fun y hy => ?_) fun y hy => hy
  · exact Tbl.shows_mapAll (f := x.marked) (fun k => hv k k.phase k.baseline _) h
  · obtain hc | ⟨d, hc⟩ | ⟨-, d, hc⟩ := chooseTime_cases y t <;> rw [hc]
    · exact hy
    · exact hy
    · exact Tbl.shows_mapAll (f := fun _ => Cand.movedBy (y.cand d).phase) (fun k => hv k _ _ k.eligibleSince) hy
  · obtain hc | ⟨d, hc⟩ | ⟨-, hc⟩ := chooseFreq_cases y <;> rw [hc] <;> exact hy

end Cands

/-! ## Disqualification (R97, R100) -/

@[simp] theorem beside_disqualify (c : Nat) (s : State) : beside (disqualify c s) = beside s := by simp [disqualify]

/-- A disqualification marks its candidate, and no other. -/
theorem disqualify_cands (c : Nat) (s : State) : (disqualify c s).fjz.cands =
    s.fjz.cands.upd {} c fun k => { k with state := .disqualified, sqcEff := 7, eligibleSince := none } := by
  have hlost (x : Fjz) : x.lostSelected.cands = x.cands := by
    unfold Fjz.lostSelected
    repeat' split
    all_goals rfl
  have hrecord {r : ErrRec} (hr : r.halts = false) (u : State) : (raiseFjz r u).fjz.cands = u.fjz.cands :=
    cands_of_bare (bare_raiseFjz hr u)
  unfold disqualify
  dsimp only
  split
  · rfl
  · split
    · rw [onFjz_fjz, hlost, hrecord rfl]
      rfl
    · rw [onFjz_fjz]
      split <;> rfl

@[simp] theorem setting_disqualify (c : Nat) (s : State) : (disqualify c s).fjz.setting = s.fjz.setting := by
  have hlost (x : Fjz) : x.lostSelected.setting = x.setting := by
    unfold Fjz.lostSelected
    repeat' split
    all_goals rfl
  unfold disqualify
  dsimp only
  split
  · rfl
  · split
    · rw [onFjz_fjz, hlost, setting_of_bare (bare_raiseFjz rfl _)]
      rfl
    · rw [onFjz_fjz]
      split <;> rfl

@[simp] theorem beside_loseCand (c : Nat) (s : State) : beside (loseCand c s) = beside s := by simp [loseCand]
@[simp] theorem beside_dropCand (c : Nat) (s : State) : beside (dropCand c s) = beside s := by simp [dropCand]
@[simp] theorem beside_actReceived (c : Nat) (s : State) : beside (actReceived c s) = beside s := by simp [actReceived]
@[simp] theorem beside_setReceived (c sqc : Nat) (s : State) : beside (setReceived c sqc s) = beside s := by simp [setReceived]

@[simp] theorem setting_onCand (c : Nat) (f : Cand → Cand) (s : State) : (onCand c f s).fjz.setting = s.fjz.setting := rfl

@[simp] theorem setting_ite (c : Prop) [Decidable c] (x y : Fjz) : (if c then x else y).setting = if c then x.setting else y.setting :=
  apply_ite Fjz.setting c x y

@[simp] theorem setting_loseCand (c : Nat) (s : State) : (loseCand c s).fjz.setting = s.fjz.setting := by
  simp [loseCand]
@[simp] theorem setting_actReceived (c : Nat) (s : State) : (actReceived c s).fjz.setting = s.fjz.setting := by
  simp [actReceived]
@[simp] theorem setting_setReceived (c sqc : Nat) (s : State) : (setReceived c sqc s).fjz.setting = s.fjz.setting := by
  simp [setReceived]
@[simp] theorem setting_withAdoption (f : State → State) (s : State) : (withAdoption f s).fjz.setting = (f s).fjz.setting :=
  setting_of_bare (bare_withAdoption f s)

section Judged
variable {γ : Type} {v : Cand → γ} {c : Nat} {w : γ}
  (hsel : ∀ (k : Cand) p b e, v { k with phase := p, baseline := b, eligibleSince := e } = v k)

theorem shows_disqualify_ne {j : Nat} (hj : c ≠ j) {s : State} (h : s.fjz.shows v c w) : (disqualify j s).fjz.shows v c w := by
  rw [Fjz.shows, disqualify_cands]
  exact Tbl.shows_upd_ne hj _ h

theorem shows_disqualify_same (v : Cand → γ) (c : Nat) (s : State) : (disqualify c s).fjz.shows v c
    (v { s.fjz.cand c with state := .disqualified, sqcEff := 7, eligibleSince := none }) := by
  rw [Fjz.shows, disqualify_cands]
  exact Tbl.shows_upd_same ..

include hsel

theorem shows_loseCand_ne {j : Nat} (hj : c ≠ j) {s : State} (h : s.fjz.shows v c w) : (loseCand j s).fjz.shows v c w := by
  unfold loseCand
  split
  · exact shows_onCand_ne hj _ h
  · exact shows_select hsel (shows_disqualify_ne hj (shows_onCand_ne hj _ h))

/-- A candidate that is not absent is lost and disqualified at once. -/
theorem shows_loseCand_same {s : State} (hs : (s.fjz.cand c).state ≠ .absent) : (loseCand c s).fjz.shows v c
    (v { s.fjz.cand c with lost := true, state := .disqualified, sqcEff := 7, eligibleSince := none }) := by
  rw [loseCand, if_neg hs]
  refine shows_select hsel ?_
  have hdis := shows_disqualify_same v c (onCand c (fun k => { k with lost := true }) s)
  rwa [cand_onCand_same] at hdis

/-- What a quality brings moves state and effective quality of its candidate at most. -/
theorem shows_actReceived (hdis : ∀ (k : Cand) st q e, v { k with state := st, sqcEff := q, eligibleSince := e } = v k) {j : Nat} {s : State}
    (h : s.fjz.shows v c w) : (actReceived j s).fjz.shows v c w := by
  have hd : (disqualify j s).fjz.shows v c w := by
    rw [Fjz.shows, disqualify_cands]
    exact Tbl.shows_upd (fun k => hdis k _ _ _) h
  unfold actReceived
  dsimp only
  split
  · split
    · exact h
    · exact shows_select hsel hd
  · split
    · exact shows_select hsel (Tbl.shows_upd (fun k => hdis k k.state _ k.eligibleSince) h)
    · exact h

end Judged

/-- The objects of a candidate that are written and that R97 does not move. -/
def Cand.written (k : Cand) : U8 × U8 × U64 × U32 := (k.typ, k.priority, k.phaseTol, k.freqTol)

/-- A candidate that is dropped is absent and offers nothing, and keeps what was written. -/
theorem shows_dropCand_same (c : Nat) (s : State) : (dropCand c s).fjz.shows (fun k => (k.written, k.state, k.sqcEff)) c
    ((s.fjz.cand c).written, .absent, 7) := by
  have hbefore : ∃ u, dropCand c s =
      onFjz Fjz.select (onCand c (fun k => { k with state := .absent, sqcEff := 7, present := false, lost := false, wtrLeft := 0 }) u) ∧
        (u.fjz.cand c).written = (s.fjz.cand c).written := by
    refine ⟨_, rfl, ?_⟩
    split
    · rfl
    · exact (shows_disqualify_same Cand.written c s).cand
  obtain ⟨u, hdrop, hwritten⟩ := hbefore
  rw [hdrop, ← hwritten]
  exact shows_select (fun _ _ _ _ => rfl) (shows_onCand_same rfl)

/-! ## Commands to the chip -/

/-- A command to a chip that works, where its effect moves nothing beside the chip. -/
theorem performOn_chip {ok : Bool} {f : State → State} {s t : State} (hok : ok = true) (hw : s.fjz.works = true)
    (ht : f s.fresh = t) (hb : beside t = beside s.fresh) : performOn .fjz ok f s = .next t := by
  subst ht
  rw [performOn_works (d := .fjz) hok hw, enterErrs_nil (staged_of_beside hb)]

theorem tsu_of_beside_fresh {s t : State} (h : beside t = beside s.fresh) : t.tsu = s.tsu := tsu_of_beside (s := s.fresh) h

end Sys2Proof.Machine

namespace Sys2Proof

open Machine

/-- An admitted write that its object takes at once, where it moves nothing beside the chip: what does not show the agent is what the
object's effect leaves. -/
theorem chipWrite_takes {q : Req} {c : Instr} (hpl : placeOf c = requestPlace .fjz q) {op : WriteOp} {s : State}
    (h : admits .fjz q op.index op.sub op.access op.bytes s op.kind op.elem = true) (hwhole : op.whole = true)
    (hsize : op.size = op.bytes.length) (hp : op.present (heard q s) = true) (hr : op.ready (heard q s) = true)
    (hg : op.range (heard q s) = true) (hc : ∀ u, op.cls u = .now) (hres : ∀ u, op.result u = stOk)
    (hbeside : ∀ u, beside (op.apply u) = beside u) :
    ∃ f t, perform true (inTurn c (agentWrite .fjz q op)) s = .next t ∧ t.tsu = s.tsu ∧
      ∀ {γ : Type} (v : Fjz → γ), (∀ x a, v { x with agent := a } = v x) → v t.fjz = v (op.apply (onAgent .fjz f s.fresh)).fjz := by
  have hsrc := source_of_admits h
  have hnet := net_of_sourceOf hsrc
  obtain ⟨f, hf⟩ := taken_chip hnet s
  have hafter := hbeside (taken .fjz q s)
  refine ⟨f, _, agentWrite_takes hpl h hwhole (.inl hsize) hp hr hg (hc _) (hc _) (hres _), ?_, fun v hv => ?_⟩
  · rw [enterErrs_nil (by rw [answered_staged, staged_of_beside hafter, taken_staged]), answered_chip_tsu hnet, tsu_of_beside hafter,
      taken_tsu hsrc]
  · rw [enterErrs_fjz, answered_chip_keeps v hv hnet, hf]

end Sys2Proof
end

section
/-! PROOFS. States and objects of a candidate reference (O28). -/

namespace Sys2Proof

open Machine

/-! ## What one second does to a candidate that it does not judge -/

/-- A candidate without its phase, its baseline and its mark, which the choice of references moves. -/
def lasting (k : Cand) : Cand := { k with phase := 0, baseline := 0, eligibleSince := none }

theorem eq_of_lasting {k m : Cand} (h : lasting k = lasting m) :
    k = { m with phase := k.phase, baseline := k.baseline, eligibleSince := k.eligibleSince } := by
  change { lasting k with phase := k.phase, baseline := k.baseline, eligibleSince := k.eligibleSince } = _
  rw [h]
  rfl

/-- The chip shows a candidate, and its setting is as it was. -/
def showsIn {γ : Type} (v : Cand → γ) (c : Nat) (w : γ) (g : Fjz) (s : State) : Prop := s.fjz.shows v c w ∧ s.fjz.setting = g

theorem role_of_setting {x y : Fjz} (h : y.setting = x.setting) : y.role = x.role := by
  change y.setting.role = x.setting.role
  rw [h]

theorem qualifyState_cases (c : Nat) (s : State) :
    qualifyState c s = s ∨ qualifyState c s = disqualify c s ∨ ∃ f, qualifyState c s = onCand c f s := by
  have hcut (p q : Prop) [Decidable p] [Decidable q] (f : Cand → Cand) :
      let u := if p then disqualify c s else if q then onCand c f s else s
      u = s ∨ u = disqualify c s ∨ ∃ f, u = onCand c f s := by
    dsimp only
    split
    · exact .inr (.inl rfl)
    · split
      · exact .inr (.inr ⟨f, rfl⟩)
      · exact .inl rfl
  unfold qualifyState
  dsimp only
  split
  · exact hcut _ _ _
  · exact hcut _ _ _
  · split
    · exact .inr (.inr ⟨_, rfl⟩)
    · exact .inl rfl
  · split
    · exact .inr (.inl rfl)
    · exact .inr (.inr ⟨_, rfl⟩)
  · exact .inl rfl

/-- An evaluation disqualifies its candidate or changes it, and nothing else. -/
theorem qualify_keeps {P : State → Prop} {c : Nat} (hd : ∀ u, P u → P (disqualify c u)) (hf : ∀ f u, P u → P (onCand c f u)) {s : State}
    (h : P s) : P (qualify c s) := by
  have hstate (u : State) (hu : P u) : P (qualifyState c u) := by
    obtain e | e | ⟨f, e⟩ := qualifyState_cases c u <;> rw [e]
    · exact hu
    · exact hd u hu
    · exact hf f u hu
  unfold qualify
  dsimp only
  split
  · exact h
  · refine hf _ _ ?_
    have hpresent : P (if (s.fjz.cand c).state = .absent then onCand c (fun k => { k with state := .disqualified }) s else s) := by
      split
      · exact hf _ _ h
      · exact h
    split
    · exact hd _ hpresent
    · exact hstate _ (hf _ _ hpresent)

/-- A second of a reference input counts it as unused, loses it, or leaves it. -/
theorem ppsSecond_keeps {P : State → Prop} {c : Nat} (hl : ∀ u, P u → P (loseCand c u)) (hf : ∀ f u, P u → P (onCand c f u)) {s : State}
    (h : P s) : P (ppsSecond c s) := by
  unfold ppsSecond
  dsimp only
  split
  · split
    · exact h
    · split
      · exact hl _ (hf _ _ h)
      · exact hf _ _ h
  · exact h

theorem shows_qualify_ne {γ : Type} {v : Cand → γ} {c j : Nat} {w : γ} (hj : c ≠ j) {s : State} (h : s.fjz.shows v c w) :
    (qualify j s).fjz.shows v c w :=
  qualify_keeps (P := fun u => u.fjz.shows v c w) (fun _ hu => shows_disqualify_ne hj hu) (fun f _ hu => shows_onCand_ne hj f hu) h

@[simp] theorem beside_qualify (c : Nat) (s : State) : beside (qualify c s) = beside s :=
  qualify_keeps (P := fun u => beside u = beside s) (fun u hu => (beside_disqualify c u).trans hu) (fun _ _ hu => hu) rfl

@[simp] theorem beside_ppsSecond (c : Nat) (s : State) : beside (ppsSecond c s) = beside s :=
  ppsSecond_keeps (P := fun u => beside u = beside s) (fun u hu => (beside_loseCand c u).trans hu) (fun _ _ hu => hu) rfl

@[simp] theorem beside_measure (m : CandMeas) (s : State) : beside (Machine.measure m s) = beside s := by simp [Machine.measure]

/-- The second of the loop changes no candidate. -/
theorem loopSecond_cands (x : Fjz) : x.loopSecond.cands = x.cands := by
  have hfreq : x.steerFreq.cands = x.cands := by
    unfold Fjz.steerFreq
    split <;> rfl
  have hphase (y : Fjz) (e : Int) : (y.steerPhase e).cands = y.cands := by
    unfold Fjz.steerPhase
    repeat' split
    all_goals rfl
  rw [← hfreq]
  unfold Fjz.loopSecond
  dsimp only
  generalize x.steerFreq = y
  split
  · rename_i c e _ _
    have hsteer : (if (y.cand c).typ = typParent then y else y.steerPhase e).cands = y.cands := by
      split
      · rfl
      · exact hphase y e
    rw [← hsteer]
    repeat' split
    all_goals rfl
  · rfl

/-- A walk over distinct numbers brings about what its step at one of them does, where no other step undoes it. -/
theorem forAll_at {β : Type} {P Q : β → Prop} {f : Nat → β → β} {c : Nat} (hP : ∀ j, c ≠ j → ∀ b, P b → P (f j b))
    (hQ : ∀ j, c ≠ j → ∀ b, Q b → Q (f j b)) (hc : ∀ b, P b → Q (f c b)) {xs : List Nat} (hxs : xs.Nodup) (hmem : c ∈ xs) {b : β}
    (hb : P b) : Q (forAll xs f b) := by
  have hrest (xs : List Nat) (hout : c ∉ xs) (b : β) (hb : Q b) : Q (forAll xs f b) := by
    induction xs generalizing b with
    | nil => exact hb
    | cons x xs ih =>
      rw [List.mem_cons, not_or] at hout
      exact ih hout.2 _ (hQ x hout.1 b hb)
  induction xs generalizing b with
  | nil => cases hmem
  | cons x xs ih =>
    rw [List.nodup_cons] at hxs
    by_cases hx : c = x
    · subst hx
      exact hrest xs hxs.1 _ (hc b hb)
    · exact ih hxs.2 ((List.mem_cons.mp hmem).resolve_left hx) (hP x hx b hb)

/-! ## The second of a candidate that is measured (R97) -/

/-- A candidate as the second's measurement leaves it. -/
def measuredAs (ph fe : Int) (k : Cand) : Cand :=
  { k with present := true, lost := false, phase := ph, freqErr := i64 fe, phaseErr := i64 (ph - k.baseline) }

/-- What a second's measurements do to the chip, but for the adoption of a standby parent. -/
def refSecond (meas : SecondMeas) (s : State) : State :=
  let s := countChipSymbols meas.symbols s
  onFjz Fjz.select (forAll (List.range nCands) qualify (onFjz Fjz.loopSecond (forAll (List.range 4) ppsSecond
    (forAll (meas.cands.filter fun m => s.fjz.hasCand m.cand) Machine.measure s))))

/-- The symbols that one port corrected are counted (R86). -/
def countedOn (e : Nat × Nat) : State → State := onPort .fjz e.1 fun x => { x with symCorr := bumpBy x.symCorr e.2 }

theorem bare_countChipSymbols (symbols : List (Nat × Nat)) (s : State) : (countChipSymbols symbols s).fjz.bare = s.fjz.bare :=
  bare_forAll countedOn (fun _ _ => rfl) _ s

theorem beside_countChipSymbols (symbols : List (Nat × Nat)) (s : State) : beside (countChipSymbols symbols s) = beside s :=
  beside_forAll countedOn (fun _ _ => rfl) _ s

theorem beside_refSecond (meas : SecondMeas) (s : State) : beside (refSecond meas s) = beside s := by
  simp only [refSecond, beside_onFjz, beside_forAll _ beside_qualify, beside_forAll _ beside_ppsSecond,
    beside_forAll _ beside_measure, beside_countChipSymbols]

theorem exec_refQualify {s : State} (meas : SecondMeas) (hw : s.fjz.works = true) :
    exec (.refQualify meas) s = .next (withAdoption (refSecond meas) s.fresh) :=
  performOn_chip rfl hw rfl (beside_withAdoption _ _ (beside_refSecond meas))

/-- The measurement of one candidate that the chip's level has. -/
theorem refSecond_single {c : Nat} {s : State} (ph fe : Int) (symbols : List (Nat × Nat)) (hhas : s.fjz.hasCand c = true) :
    refSecond ⟨[⟨c, true, ph, fe⟩], symbols⟩ s = onFjz Fjz.select (forAll (List.range nCands) qualify (onFjz Fjz.loopSecond
      (forAll (List.range 4) ppsSecond (onCand c (measuredAs ph fe) (countChipSymbols symbols s))))) := by
  have hrole : (countChipSymbols symbols s).fjz.role = s.fjz.role := by
    rw [role_of_setting (setting_of_bare (bare_countChipSymbols symbols s))]
  have hhas' : (countChipSymbols symbols s).fjz.hasCand c = true := by
    rw [← hhas]
    simp only [Fjz.hasCand, hrole]
  simp only [refSecond, List.filter_cons, List.filter_nil, hhas', if_true]
  rfl

/-- The pulses of the last second spare a candidate that had one, or is no PPS input. -/
theorem ppsSecond_spares {c : Nat} {s : State} (h : (s.fjz.cand c).typ = typPps → ∀ f, (s.fjz.cand c).ppsAt = some f →
    s.fjz.frc.toNat ≤ f + 1000000000) : ppsSecond c s = s := by
  unfold ppsSecond
  dsimp only
  split
  · rename_i f hf
    by_cases ht : (s.fjz.cand c).typ = typPps
    · rw [if_pos (.inr (h ht f hf))]
    · rw [if_pos (.inl ht)]
  · rfl

/-- So does a walk over the reference inputs. -/
theorem pulses_spare {c : Nat} {m : Cand} {g : Fjz}
    (h : m.typ = typPps → ∀ f, m.ppsAt = some f → g.frc.toNat ≤ f + 1000000000) (xs : List Nat) {u : State}
    (hu : showsIn lasting c (lasting m) g u) : showsIn lasting c (lasting m) g (forAll xs ppsSecond u) := by
  induction xs generalizing u with
  | nil => exact hu
  | cons j xs ih =>
    refine ih (u := ppsSecond j u) ?_
    by_cases hj : c = j
    · subst hj
      have hk := eq_of_lasting hu.1.cand
      have hfrc : u.fjz.frc = g.frc := by
        rw [← hu.2]
        rfl
      exact (ppsSecond_spares (by rw [hk, hfrc]; exact h)).symm ▸ hu
    · exact ppsSecond_keeps (P := showsIn lasting c (lasting m) g)
        (fun u hu => ⟨shows_loseCand_ne (fun _ _ _ _ => rfl) hj hu.1, (setting_loseCand j u).trans hu.2⟩)
        (fun f u hu => ⟨shows_onCand_ne hj f hu.1, hu.2⟩) hu

/-- A measured candidate is judged once in its second, by its measurement, and is then as it was judged. -/
theorem refSecond_judges {γ : Type} {v : Cand → γ} {w : γ} {c : Nat} {ph fe : Int} {symbols : List (Nat × Nat)} {s : State}
    (hsel : ∀ (k : Cand) p b e, v { k with phase := p, baseline := b, eligibleSince := e } = v k) (hc : c < 10)
    (hhas : s.fjz.hasCand c = true) (hpps : (s.fjz.cand c).typ = typPps → ∀ f, (s.fjz.cand c).ppsAt = some f → s.fjz.frc.toNat ≤ f + 1000000000)
    (hjudge : ∀ u p b e, u.fjz.cand c = { measuredAs ph fe (s.fjz.cand c) with phase := p, baseline := b, eligibleSince := e } →
      (qualify c u).fjz.shows v c w) : (refSecond ⟨[⟨c, true, ph, fe⟩], symbols⟩ s).fjz.shows v c w := by
  have hbare := bare_countChipSymbols symbols s
  have hcand : (countChipSymbols symbols s).fjz.cand c = s.fjz.cand c := by rw [Fjz.cand, cands_of_bare hbare, Fjz.cand]
  have hmeasured : showsIn lasting c (lasting (measuredAs ph fe (s.fjz.cand c))) s.fjz.setting
      (onCand c (measuredAs ph fe) (countChipSymbols symbols s)) :=
    ⟨shows_onCand_same (by rw [hcand]), setting_of_bare (y := (countChipSymbols symbols s).fjz) hbare⟩
  have hpulses := pulses_spare (m := measuredAs ph fe (s.fjz.cand c)) (g := s.fjz.setting) hpps (List.range 4) hmeasured
  have hloop : (onFjz Fjz.loopSecond (forAll (List.range 4) ppsSecond
      (onCand c (measuredAs ph fe) (countChipSymbols symbols s)))).fjz.shows lasting c (lasting (measuredAs ph fe (s.fjz.cand c))) := by
    rw [onFjz_fjz, Fjz.shows, loopSecond_cands]
    exact hpulses.1
  have hwalk := forAll_at (P := fun u : State => u.fjz.shows lasting c (lasting (measuredAs ph fe (s.fjz.cand c))))
    (Q := fun u : State => u.fjz.shows v c w) (f := qualify) (fun _ hj _ => shows_qualify_ne hj) (fun _ hj _ => shows_qualify_ne hj)
    (fun u hu => hjudge u _ _ _ (eq_of_lasting hu.cand)) (List.nodup_range (n := nCands)) (List.mem_range.mpr hc) hloop
  rw [refSecond_single ph fe symbols hhas, onFjz_fjz]
  exact shows_select hsel hwalk

/-- A candidate that is there, and neither lost nor of quality 7, is counted and judged by its state. -/
theorem qualify_counted {c : Nat} {s : State} (hs : (s.fjz.cand c).state ≠ .absent) (hl : (s.fjz.cand c).lost = false)
    (hr : (s.fjz.cand c).received ≠ 7) :
    qualify c s = onCand c (fun k => { k with sqcEff := k.effective }) (qualifyState c (onCand c (s.fjz.countCand c) s)) := by
  simp only [qualify, hs, hl, hr, false_and, if_false, Bool.false_eq_true, or_self]
  rfl

theorem measured_freqErr {ph fe : Int} {k : Cand} (h : fe.natAbs ≤ 1000 * k.freqTol.toNat) : (measuredAs ph fe k).freqErr.toInt = fe := by
  have htol : k.freqTol.toNat < 2 ^ 32 := k.freqTol.isLt
  exact toInt_i64 (by omega)

theorem qualifyState_disqualified {c : Nat} {s : State} (hs : (s.fjz.cand c).state = .disqualified) (hlow : 1 ≤ (s.fjz.cand c).nLow) :
    qualifyState c s =
      onCand c (fun k => { k with state := .waiting, wtrLeft := k.wtr, baseline := k.phase, phaseErr := 0 }) s := by
  simp only [qualifyState, hs, hlow, if_true]

theorem qualifyState_waiting {c : Nat} {s : State} (hs : (s.fjz.cand c).state = .waiting) (hover : (s.fjz.cand c).nOver = 0)
    (hleft : s.fjz.cutWait (s.fjz.cand c) - 1 = 0) :
    qualifyState c s = onCand c (fun k => { k with wtrLeft := 0, state := .qualified }) s := by
  simp only [qualifyState, hs, hover, hleft, if_true]
  rfl

/-- Within a quarter of the tolerance a disqualified candidate begins its wait (R97). -/
theorem qualify_begins_wait {c : Nat} {u : State} (hs : (u.fjz.cand c).state = .disqualified) (hl : (u.fjz.cand c).lost = false)
    (hr : (u.fjz.cand c).received ≠ 7) (hf : (u.fjz.cand c).freqErr.toInt.natAbs * 4 ≤ 1000 * (u.fjz.cand c).freqTol.toNat) :
    (qualify c u).fjz.shows (fun k => (k.state, k.wtrLeft)) c (.waiting, (u.fjz.cand c).wtr) := by
  have hphase : u.fjz.judgedPhase2 c = 0 := by simp [Fjz.judgedPhase2, hs]
  have hlow : 1 ≤ (u.fjz.countCand c (u.fjz.cand c)).nLow := by simp [Fjz.countCand, hphase, hf]
  have hcand := cand_onCand_same c (u.fjz.countCand c) u
  rw [qualify_counted (by rw [hs]; decide) hl hr, qualifyState_disqualified (by rw [hcand]; exact hs) (by rw [hcand]; exact hlow)]
  refine shows_onCand_same ?_
  rw [cand_onCand_same, hcand]
  rfl

theorem received_of_freq {k : Cand} (h : k.typ = typFreq) : k.received = k.sqcAssigned.toNat := if_pos h

/-- A qualified FREQ input is worth the quality assigned to it (R92). -/
theorem effective_of_qualified {k : Cand} (hs : k.state = .qualified) (ht : k.typ = typFreq) : k.effective = k.sqcAssigned := by
  rw [Cand.effective, hs, received_of_freq ht]
  rw [BitVec.ofNat_toNat, BitVec.setWidth_eq]

/-- The wait's last second qualifies a frequency candidate within its tolerance (R97). -/
theorem qualify_ends_wait {c : Nat} {u : State} (ht : (u.fjz.cand c).typ = typFreq) (hs : (u.fjz.cand c).state = .waiting)
    (hl : (u.fjz.cand c).lost = false) (hr : (u.fjz.cand c).sqcAssigned ≠ 7) (hleft : (u.fjz.cand c).wtrLeft = 1)
    (hf : (u.fjz.cand c).freqErr.toInt.natAbs < 1000 * (u.fjz.cand c).freqTol.toNat) :
    (qualify c u).fjz.shows (fun k => (k.state, k.sqcEff)) c (.qualified, (u.fjz.cand c).sqcAssigned) := by
  have hnot : (u.fjz.cand c).received ≠ 7 := by
    rw [received_of_freq ht]
    exact fun h => hr (BitVec.eq_of_toNat_eq h)
  have htime : (u.fjz.cand c).isTime = false := by simp [Cand.isTime, ht, typFreq, typPps, typPtp, typParent]
  have hover : (u.fjz.countCand c (u.fjz.cand c)).nOver = 0 := by
    simp [Fjz.countCand, htime, atLeast, Nat.not_le.mpr hf]
  have hcand := cand_onCand_same c (u.fjz.countCand c) u
  have hcut : (onCand c (u.fjz.countCand c) u).fjz.cutWait (u.fjz.countCand c (u.fjz.cand c)) - 1 = 0 := by
    have hone : (u.fjz.countCand c (u.fjz.cand c)).wtrLeft.toNat = 1 := congrArg BitVec.toNat hleft
    unfold Fjz.cutWait
    rw [hone]
    split <;> omega
  rw [qualify_counted (by rw [hs]; decide) hl hnot,
    qualifyState_waiting (by rw [hcand]; exact hs) (by rw [hcand]; exact hover) (by rw [hcand]; exact hcut)]
  refine shows_onCand_same ?_
  rw [cand_onCand_same, hcand]
  exact Prod.ext rfl (effective_of_qualified (k := { u.fjz.countCand c (u.fjz.cand c) with wtrLeft := 0, state := .qualified }) rfl ht)

theorem refQualify_second {γ : Type} {v : Cand → γ} {w : γ} {c : Nat} {s : State} (ph fe : Int) (symbols : List (Nat × Nat))
    (hw : s.fjz.works = true) (h : (refSecond ⟨[⟨c, true, ph, fe⟩], symbols⟩ s.fresh).fjz.shows v c w) :
    ∃ t, exec (.refQualify ⟨[⟨c, true, ph, fe⟩], symbols⟩) s = .next t ∧ t.tsu = s.tsu ∧ v (t.fjz.cand c) = w :=
  ⟨_, exec_refQualify _ hw, tsu_of_beside_fresh (beside_withAdoption _ s.fresh (beside_refSecond _)),
    (shows_withAdoption h).cand⟩

theorem refQualify_begins_wait {c : Nat} {ph fe : Int} {s : State} (hw : s.fjz.works = true) (hc : c < 10) (hhas : s.fjz.hasCand c = true)
    (hr : (s.fjz.cand c).received ≠ 7) (hf : 4 * fe.natAbs ≤ 1000 * (s.fjz.cand c).freqTol.toNat)
    (hs : (s.fjz.cand c).state = .disqualified) (hpps : ∀ f, (s.fjz.cand c).ppsAt = some f → s.fjz.frc.toNat ≤ f + 1000000000) :
    ∃ t, exec (.refQualify ⟨[⟨c, true, ph, fe⟩], []⟩) s = .next t ∧ t.tsu = s.tsu ∧ (t.fjz.cand c).state = .waiting ∧
      (t.fjz.cand c).wtrLeft = (s.fjz.cand c).wtr := by
  have herr := measured_freqErr (ph := ph) (k := s.fjz.cand c) (fe := fe) (by omega)
  obtain ⟨t, hexec, htsu, hshown⟩ := refQualify_second (v := fun k => (k.state, k.wtrLeft)) (w := (.waiting, (s.fjz.cand c).wtr)) ph fe []
    hw (refSecond_judges (fun _ _ _ _ => rfl) hc hhas (fun _ => hpps) fun u p b e hu => by
      have hjudged := qualify_begins_wait (c := c) (u := u)
      rw [hu] at hjudged
      refine hjudged hs rfl hr ?_
      change (measuredAs ph fe (s.fjz.cand c)).freqErr.toInt.natAbs * 4 ≤ 1000 * (s.fjz.cand c).freqTol.toNat
      rw [herr]
      omega)
  exact ⟨t, hexec, htsu, Prod.mk.inj hshown⟩

theorem refQualify_ends_wait {c : Nat} {ph fe : Int} {symbols : List (Nat × Nat)} {s : State} (hw : s.fjz.works = true) (hc : c < 10)
    (hhas : s.fjz.hasCand c = true) (ht : (s.fjz.cand c).typ = 1) (hr : (s.fjz.cand c).sqcAssigned ≠ 7)
    (hf : fe.natAbs < 1000 * (s.fjz.cand c).freqTol.toNat) (hs : (s.fjz.cand c).state = .waiting) (hleft : (s.fjz.cand c).wtrLeft = 1) :
    ∃ t, exec (.refQualify ⟨[⟨c, true, ph, fe⟩], symbols⟩) s = .next t ∧ t.tsu = s.tsu ∧ (t.fjz.cand c).state = .qualified ∧
      (t.fjz.cand c).sqcEff = (s.fjz.cand c).sqcAssigned := by
  have herr := measured_freqErr (ph := ph) (k := s.fjz.cand c) (fe := fe) (by omega)
  have hno : (s.fresh.fjz.cand c).typ ≠ typPps := by
    rw [fresh_fjz, ht]
    decide
  obtain ⟨t, hexec, htsu, hshown⟩ := refQualify_second (v := fun k => (k.state, k.sqcEff)) (w := (.qualified, (s.fjz.cand c).sqcAssigned)) ph fe
    symbols hw (refSecond_judges (fun _ _ _ _ => rfl) hc hhas (fun h => absurd h hno) fun u p b e hu => by
      have hjudged := qualify_ends_wait (c := c) (u := u)
      rw [hu] at hjudged
      refine hjudged ht hs rfl hr hleft ?_
      change (measuredAs ph fe (s.fjz.cand c)).freqErr.toInt.natAbs < 1000 * (s.fjz.cand c).freqTol.toNat
      rw [herr]
      exact hf)
  exact ⟨t, hexec, htsu, Prod.mk.inj hshown⟩

/-! ## The objects of a candidate (R95, R97, R98) -/

/-- A write to REF_TYPE or REF_PRIORITY changes its candidate; zero makes it absent, any other value has the chip choose. -/
def written (c : Nat) (v : U8) (f : Cand → Cand) (s : State) : State :=
  if v = 0 then dropCand c (onCand c f s) else onFjz Fjz.select (onCand c f s)

theorem beside_written (c : Nat) (v : U8) (f : Cand → Cand) (s : State) : beside (written c v f s) = beside s := by
  simp [written]

theorem written_cand (c : Nat) (v : U8) (f : Cand → Cand) (s : State) :
    ((written c v f s).fjz.cand c).written = (f (s.fjz.cand c)).written ∧
      (v = 0 → ((written c v f s).fjz.cand c).state = .absent ∧ ((written c v f s).fjz.cand c).sqcEff = 7) := by
  unfold written
  split
  · have hdrop := (shows_dropCand_same c (onCand c f s)).cand
    rw [cand_onCand_same] at hdrop
    exact ⟨congrArg Prod.fst hdrop, fun _ => Prod.mk.inj (congrArg Prod.snd hdrop)⟩
  · refine ⟨?_, fun h0 => absurd h0 ‹_›⟩
    exact (shows_select (v := Cand.written) (fun _ _ _ _ => rfl) (shows_onCand_same rfl)).cand

theorem candObject_takes {q : Req} {i : Instr} (hpl : placeOf i = requestPlace .fjz q) {op : WriteOp} {c : Nat} {v : U8}
    {f : Cand → Cand} {s : State} (happly : op.apply = withAdoption (written c v f))
    (h : admits .fjz q op.index op.sub op.access op.bytes s op.kind op.elem = true) (hwhole : op.whole = true)
    (hsize : op.size = op.bytes.length) (hp : op.present (heard q s) = true) (hr : op.ready (heard q s) = true)
    (hrange : op.range (heard q s) = true) (hcls : ∀ u, op.cls u = .now) (hres : ∀ u, op.result u = stOk) :
    ∃ t, perform true (inTurn i (agentWrite .fjz q op)) s = .next t ∧ t.tsu = s.tsu ∧
      (t.fjz.cand c).written = (f (s.fjz.cand c)).written ∧ (v = 0 → (t.fjz.cand c).state = .absent ∧ (t.fjz.cand c).sqcEff = 7) := by
  obtain ⟨g, t, hexec, htsu, hview⟩ := chipWrite_takes hpl h hwhole hsize hp hr hrange hcls hres fun u => by
    rw [happly]
    exact beside_withAdoption _ u (beside_written c v f)
  have hcand : t.fjz.cand c = (written c v f (onAgent .fjz g s.fresh)).fjz.cand c := by
    rw [hview (·.cand c) fun _ _ => rfl, happly, withAdoption_keeps (v := (·.cand c)) fun _ => rfl]
  refine ⟨t, hexec, htsu, ?_⟩
  rw [hcand]
  exact written_cand c v f (onAgent .fjz g s.fresh)

/-- What REF_TYPE writes in its candidate. -/
def typed (v : U8) (k : Cand) : Cand := loadDefaults v { k with typ := v }

/-- A type brings its tolerances (R95, Table 4.7). -/
theorem typed_fields (v : U8) (k : Cand) : (typed v k).typ = v ∧
    (v = 3 → (typed v k).phaseTol = 250000 ∧ (typed v k).freqTol = 10000) ∧
    (v = 2 → (typed v k).phaseTol = 50000 ∧ (typed v k).freqTol = 10000) ∧
    (v = 1 ∨ v = 4 → (typed v k).freqTol = 2000) ∧
    (v = 5 → (typed v k).phaseTol = 1000 ∧ (typed v k).freqTol = 50000) := by
  refine ⟨?_, ?_, ?_, ?_, ?_⟩
  · unfold typed loadDefaults
    repeat' split
    all_goals rfl
  · rintro rfl; exact ⟨rfl, rfl⟩
  · rintro rfl; exact ⟨rfl, rfl⟩
  · rintro (rfl | rfl) <;> rfl
  · rintro rfl; exact ⟨rfl, rfl⟩

theorem refType_takes {q : Req} {c : Nat} {v : U8} {s : State} (hc : c < 10) (hv : typeAllowed c v = true)
    (h : admits .fjz q (0x4100 + c) 1 .rws [v] s = true) :
    ∃ t, exec (.refType q c v) s = .next t ∧ t.tsu = s.tsu ∧ (t.fjz.cand c).written = (typed v (s.fjz.cand c)).written ∧
      (v = 0 → (t.fjz.cand c).state = .absent ∧ (t.fjz.cand c).sqcEff = 7) := by
  have hok : candOk c = true := decide_eq_true hc
  change ∃ t, perform (candOk c) _ s = _ ∧ _
  rw [hok]
  exact candObject_takes (i := .refType q c v) rfl (op := wRefType c v) rfl h rfl rfl rfl rfl hv (fun _ => rfl) fun _ => rfl

theorem refPriority_takes {q : Req} {c : Nat} {v : U8} {s : State} (hc : c < 10)
    (h : admits .fjz q (0x4100 + c) 3 .rws [v] s = true) :
    ∃ t, exec (.refPriority q c v) s = .next t ∧ t.tsu = s.tsu ∧
      (t.fjz.cand c).written = ({ s.fjz.cand c with priority := v } : Cand).written ∧
      (v = 0 → (t.fjz.cand c).state = .absent ∧ (t.fjz.cand c).sqcEff = 7) := by
  have hok : candOk c = true := decide_eq_true hc
  change ∃ t, perform (candOk c) _ s = _ ∧ _
  rw [hok]
  exact candObject_takes (i := .refPriority q c v) (f := fun k => { k with priority := v }) rfl (op := wRefPriority c v) rfl h rfl rfl rfl
    rfl rfl (fun _ => rfl) fun _ => rfl

theorem forceRef_takes {q : Req} {v : U8} {s : State} (h : admits .fjz q 0x4200 7 .rws [v] s = true) :
    ∃ t, exec (.forceRef q v) s = .next t ∧ t.tsu = s.tsu ∧ t.fjz.forceRef = v := by
  obtain ⟨f, t, hexec, htsu, hview⟩ := chipWrite_takes (c := .forceRef q v) rfl (op := wForceRef v) h rfl rfl rfl rfl rfl (fun _ => rfl)
    (fun _ => rfl) fun u => beside_withAdoption _ _ fun _ => rfl
  refine ⟨t, hexec, htsu, (hview (·.forceRef) fun _ _ => rfl).trans ?_⟩
  have hsetting : ((wForceRef v).apply (onAgent .fjz f s.fresh)).fjz.setting = _ :=
    (setting_withAdoption _ _).trans (setting_select _)
  change ((wForceRef v).apply (onAgent .fjz f s.fresh)).fjz.setting.forceRef = v
  rw [hsetting]
  rfl

/-! ## Losses that act at once (R97) -/

theorem loseCand_loses {c : Nat} {s : State} (hs : (s.fjz.cand c).state ≠ .absent) :
    let t := withAdoption (loseCand c) s
    (t.fjz.cand c).lost = true ∧ (t.fjz.cand c).state = .disqualified ∧ (t.fjz.cand c).sqcEff = 7 := by
  have hshown := (shows_withAdoption (shows_loseCand_same (v := fun k => (k.lost, k.state, k.sqcEff)) (fun _ _ _ _ => rfl) hs)).cand
  obtain ⟨hlost, hrest⟩ := Prod.mk.inj hshown
  exact ⟨hlost, Prod.mk.inj hrest⟩

theorem beside_loses (c : Nat) (s : State) : beside (withAdoption (loseCand c) s) = beside s :=
  beside_withAdoption _ s (beside_loseCand c)

theorem exec_refClockLoss {c : Nat} {s : State} (hw : s.fjz.works = true) (hc : c < 10)
    (ht : (s.fjz.cand c).typ = 1 ∨ (s.fjz.cand c).typ = 4) :
    exec (.refClockLoss c) s = .next (withAdoption (loseCand c) s.fresh) := by
  have ht' : (s.fresh.fjz.cand c).typ = typFreq ∨ (s.fresh.fjz.cand c).typ = typSynce := ht
  exact performOn_chip (decide_eq_true hc) hw (if_pos ht') (beside_loses ..)

theorem exec_parentBleatTimeout {c : Nat} {s : State} (hw : s.fjz.works = true) (hc : c < 10) (hhas : s.fjz.hasCand c = true)
    (ht : (s.fjz.cand c).typ = 5) (hsilent : bleatFresh s.fjz.frc.toNat (port s .fjz (s.fjz.candPort c)) = false) :
    exec (.parentBleatTimeout c) s = .next (withAdoption (loseCand c) s.fresh) := by
  have hskip : ¬(!s.fresh.fjz.hasCand c ∨ (s.fresh.fjz.cand c).typ ≠ typParent ∨
      bleatFresh s.fresh.fjz.frc.toNat (port s.fresh .fjz (s.fresh.fjz.candPort c))) := by
    simp [hhas, ht, hsilent, typParent]
  change execParentBleatTimeout c s = _
  exact performOn_chip (decide_eq_true hc) hw (if_neg hskip) (beside_loses c s.fresh)

/-- Settles O28: a measured candidate is judged once in its second, whatever becomes of the others; the objects and the losses by what the
choice of references leaves of a candidate. -/
theorem candidateStates : Obligations.CandidateStates := by
  refine ⟨fun c ph fe s hw hc hhas _ _ hr hf hs hpps => refQualify_begins_wait hw hc hhas hr hf hs hpps,
    fun c ph fe symbols s hw hc hhas ht _ hr hf hs hleft => refQualify_ends_wait hw hc hhas ht hr hf hs hleft,
    fun q c v s hc hv h => ?_, fun q c v s hc h => ?_, fun q v s => forceRef_takes, fun c s hw hc ht hs => ?_,
    fun c s hw hc hhas ht hs hsilent => ?_⟩
  · obtain ⟨t, hexec, htsu, hwritten, hzero⟩ := refType_takes hc hv h
    obtain ⟨htyp, hptp, hpps, hfreq, hparent⟩ := typed_fields v (s.fjz.cand c)
    obtain ⟨etyp, hrest⟩ := Prod.mk.inj hwritten
    obtain ⟨-, hrest⟩ := Prod.mk.inj hrest
    obtain ⟨ephase, efreq⟩ := Prod.mk.inj hrest
    rw [← etyp] at htyp
    rw [← ephase, ← efreq] at hptp hpps hparent
    rw [← efreq] at hfreq
    exact ⟨t, hexec, htsu, htyp, hzero, hptp, hpps, hfreq, hparent⟩
  · obtain ⟨t, hexec, htsu, hwritten, hzero⟩ := refPriority_takes hc h
    exact ⟨t, hexec, htsu, congrArg (·.2.1) hwritten, fun h0 => (hzero h0).1⟩
  · exact ⟨_, exec_refClockLoss hw hc ht, tsu_of_beside_fresh (beside_loses c s.fresh), loseCand_loses hs⟩
  · obtain ⟨hlost, hstate, -⟩ := loseCand_loses (s := s.fresh) hs
    exact ⟨_, exec_parentBleatTimeout hw hc hhas ht hsilent, tsu_of_beside_fresh (beside_loses c s.fresh), hlost, hstate⟩

end Sys2Proof
end

section
/-! PROOFS. The end of a reference switch (O29), the lock pins (O33) and the holdover of a Fjouz chip (O30). -/

namespace Sys2Proof

open Machine

/-! ## The end of a switch (R99) -/

/-- Steps 3 and 4 of a switch, but for the candidates and the choice that follows. -/
def switched (w : Switch) (x : Fjz) : Fjz :=
  if w.freq then x
  else { x with selTime := some w.target, realigning := false, realignFrac := 0,
                switchSeq := if x.role = 3 then x.switchSeq + 1 else x.switchSeq }

/-- What the choice of references leaves alone in LOCK is after a switch as the switch leaves it. -/
theorem endSwitch_keeps {γ : Type} {v : Fjz → γ}
    (hv : ∀ (x : Fjz) cs w f q e, v { x with cands := cs, switch := w, selFreq := f, outSqc := q, established := e } = v x)
    (w : Switch) (delta : Int) {x : Fjz} (h : x.lock = .lock) : v (endSwitch w delta x) = v (switched w x) := by
  have hlock : x.lock ≠ .free := by
    rw [h]
    decide
  unfold endSwitch switched
  dsimp only
  cases w.freq
  · simp only [Bool.false_eq_true, if_false]
    refine (select_keeps_of_not_free hv ?_).trans ?_
    · exact hlock
    · exact hv { x with selTime := some w.target, realigning := false, realignFrac := 0, switchSeq := if x.role = 3 then x.switchSeq + 1 else x.switchSeq } _ none x.selFreq x.outSqc x.established
  · simp only [if_true]
    refine (select_keeps_of_not_free hv ?_).trans ?_
    · exact hlock
    · exact hv x x.cands none (some w.target) x.outSqc x.established

/-! ## The lock pins (R104) -/

theorem fjzPin_iff {x : Fjz} (h : x.rstN = true) (l : LockState) : fjzPin x l = true ↔ x.lock = l := by
  simp [fjzPin, h]

/-- Settles O33: the pin that matches LOCK_STATE, and a switch that moves neither LOCK_STATE nor the reset. -/
theorem exactlyOneLockPin : Obligations.ExactlyOneLockPin := by
  intro x hrst
  refine ⟨fjzPin_iff hrst, ?_, fun hlock => ⟨fun c freq => (fjzPin_iff (x := x.startSwitch c freq) hrst .lock).mpr hlock,
    fun w delta => ?_⟩⟩
  · have hpins : fjzPin x = fun l => decide (x.lock = l) := funext fun l => by simp [fjzPin, hrst]
    rw [hpins]
    cases x.lock <;> rfl
  · have hkept := endSwitch_keeps (v := fun y => (y.rstN, y.lock)) (fun _ _ _ _ _ _ => rfl) w delta hlock
    have hsame : ((endSwitch w delta x).rstN, (endSwitch w delta x).lock) = (x.rstN, x.lock) := by
      rw [hkept, switched]
      split <;> rfl
    obtain ⟨hr, hl⟩ := Prod.mk.inj hsame
    exact (fjzPin_iff (hr.trans hrst) .lock).mpr (hl.trans hlock)

/-! ## SWITCH_WINDOW_END (R99) -/

theorem exec_switchWindowEnd {delta : Int} {w : Switch} {s : State} (hw : s.fjz.works = true) (hs : s.fjz.switch = some w)
    (hdue : w.started + (if w.freq then 1000000000 else windowTicks (s.fjz.cand w.target)) ≤ s.fjz.frc.toNat) :
    exec (.switchWindowEnd delta) s = .next (withAdoption (onFjz (endSwitch w delta)) s.fresh) := by
  refine performOn_chip rfl hw (withAdoption_congr ?_) (beside_withAdoption _ s.fresh fun _ => rfl)
  simp only [fresh_fjz, hs, Nat.not_lt.mpr hdue, if_false]

/-- The end of a time switch. -/
theorem switchWindowEnd_time {delta : Int} {w : Switch} {s : State} (hw : s.fjz.works = true) (hlock : s.fjz.lock = .lock)
    (hs : s.fjz.switch = some w) (hf : w.freq = false) (hdue : w.started + windowTicks (s.fjz.cand w.target) ≤ s.fjz.frc.toNat) :
    ∃ t, exec (.switchWindowEnd delta) s = .next t ∧ t.tsu = s.tsu ∧ t.fjz.selTime = some w.target ∧
      (t.fjz.cand w.target).absorbed = i64 delta ∧
      t.fjz.switchSeq = (if s.fjz.role = 3 then s.fjz.switchSeq + 1 else s.fjz.switchSeq) ∧ t.fjz.htOffset = s.fjz.htOffset := by
  have hkept := endSwitch_keeps (v := fun y => (y.selTime, y.switchSeq, y.htOffset)) (fun _ _ _ _ _ _ => rfl) w delta hlock
  rw [switched, if_neg (by simp [hf])] at hkept
  have hcand : (endSwitch w delta s.fjz).shows Cand.absorbed w.target (i64 delta) := by
    unfold endSwitch
    rw [if_neg (by simp [hf])]
    exact shows_select (fun _ _ _ _ => rfl) (Tbl.shows_upd_same Cand.absorbed {} s.fjz.cands w.target fun k =>
      { k with absorbed := i64 delta, baseline := k.phase, phaseErr := 0 })
  refine ⟨_, exec_switchWindowEnd hw hs (by rw [hf]; exact hdue), tsu_of_beside_fresh (beside_withAdoption _ s.fresh fun _ => rfl), ?_⟩
  have hview := withAdoption_keeps (v := fun y => (y.selTime, y.cand w.target, y.switchSeq, y.htOffset)) (fun _ => rfl)
    (onFjz (endSwitch w delta)) s.fresh
  simp only [Prod.mk.injEq] at hview hkept
  obtain ⟨htime, hc, hseq, hoff⟩ := hview
  rw [htime, hc, hseq, hoff]
  exact ⟨hkept.1, hcand.cand, hkept.2⟩

/-- In a table of canonical form an element has one listing at most. -/
theorem Tbl.shows_of_wfFrom {α γ : Type} [DecidableEq α] (v : α → γ) {d : α} {lo : Nat} {t : Tbl α} (h : Tbl.wfFrom d lo t = true)
    (k : Nat) : Tbl.shows v d t k (v (t.get d k)) := by
  refine ⟨rfl, fun e he hk => ?_⟩
  induction t generalizing lo with
  | nil => cases he
  | cons o t ih =>
    obtain ⟨i, x⟩ := o
    simp only [Tbl.wfFrom, Bool.and_eq_true] at h
    obtain rfl | he := List.mem_cons.mp he
    · rw [Tbl.get, if_pos hk]
    · have hlater : i + 1 ≤ e.1 := Tbl.wfFrom_le d h.2 e he
      rw [ih h.2 he, Tbl.get, if_neg (by omega)]

theorem eligible_congr {x y : Fjz} {c : Nat} (hc : lasting (y.cand c) = lasting (x.cand c)) (hrole : y.role = x.role)
    (hplane : y.plane = x.plane) : y.eligible c = x.eligible c := by
  have hk := eq_of_lasting hc
  have htyp : (y.cand c).typ = (x.cand c).typ := by rw [hk]
  have hstate : (y.cand c).state = (x.cand c).state := by rw [hk]
  have hcross : (y.cand c).cross = (x.cand c).cross := by rw [hk]
  simp only [Fjz.eligible, Fjz.hasCand, hrole, hplane, htyp, hstate, hcross]

/-- The best frequency candidate does not depend on phases, baselines and marks. -/
theorem bestFreq_congr {x y : Fjz} (hc : ∀ c, lasting (y.cand c) = lasting (x.cand c)) (hrole : y.role = x.role)
    (hplane : y.plane = x.plane) (hforce : y.forceRef = x.forceRef) (hsel : y.selTime = x.selTime) : y.bestFreq = x.bestFreq := by
  have helig : ∀ c, y.eligible c = x.eligible c := fun c => eligible_congr (hc c) hrole hplane
  have htime : ∀ c, (y.cand c).isTime = (x.cand c).isTime := fun c => by rw [eq_of_lasting (hc c)]; rfl
  have hsqc : ∀ c, (y.cand c).sqcEff = (x.cand c).sqcEff := fun c => by rw [eq_of_lasting (hc c)]
  have hprio : ∀ c, (y.cand c).priority = (x.cand c).priority := fun c => by rw [eq_of_lasting (hc c)]
  have hbetter : ∀ c d, y.betterCand c d = x.betterCand c d := fun c d => by simp only [Fjz.betterCand, hsqc, hprio]
  simp only [Fjz.bestFreq, Fjz.best, hrole, hforce, hsel, helig, htime, hsqc, hbetter]

/-- While some frequency candidate is the best one, the choice of references leaves the frequency selection alone. -/
theorem select_selFreq {x : Fjz} (hlock : x.lock ≠ .free) (hbest : x.markEligible.bestFreq ≠ none) : x.select.selFreq = x.selFreq := by
  rw [select_eq]
  split
  · rfl
  · obtain ⟨y, hy, hsame, hfreq⟩ : ∃ y, x.markEligible.chooseTime x.markEligible.bestTime = y ∧ y.selFreq = x.selFreq ∧
        y.bestFreq = x.markEligible.bestFreq := by
      refine ⟨_, rfl, ?_⟩
      obtain h | ⟨c, h⟩ | ⟨hfree, -⟩ := chooseTime_cases x.markEligible x.markEligible.bestTime
      · rw [h]; exact ⟨rfl, rfl⟩
      · rw [h]; exact ⟨rfl, rfl⟩
      · exact absurd hfree hlock
    rw [hy, ← hsame]
    obtain h | ⟨c, h⟩ | ⟨hnone, -⟩ := chooseFreq_cases y
    · rw [h]; rfl
    · rw [h]; rfl
    · exact absurd (hfreq ▸ hnone) hbest

/-- The end of a switch of the frequency selection, where the table of candidates is in canonical form. -/
theorem switchWindowEnd_frequency {delta : Int} {w : Switch} {s : State} (hw : s.fjz.works = true) (hlock : s.fjz.lock = .lock)
    (hs : s.fjz.switch = some w) (hf : w.freq = true) (hdue : w.started + 1000000000 ≤ s.fjz.frc.toNat)
    (hbest : s.fjz.bestFreq = some w.target) (hwf : Tbl.wf {} s.fjz.cands = true) :
    ∃ t, exec (.switchWindowEnd delta) s = .next t ∧ t.tsu = s.tsu ∧ t.fjz.selFreq = some w.target ∧ t.fjz.selTime = s.fjz.selTime ∧
      (∀ c, (t.fjz.cand c).absorbed = (s.fjz.cand c).absorbed) ∧ t.fjz.switchSeq = s.fjz.switchSeq ∧
      t.fjz.htOffset = s.fjz.htOffset := by
  let x : Fjz := { s.fjz with selFreq := some w.target, switch := none }
  have hend : endSwitch w delta s.fjz = x.select := by
    unfold endSwitch
    rw [if_pos hf]
  have hshown (c : Nat) : x.shows lasting c (lasting (s.fjz.cand c)) := Tbl.shows_of_wfFrom lasting hwf c
  have hmarked (c : Nat) : lasting (x.markEligible.cand c) = lasting (s.fjz.cand c) :=
    (Tbl.shows_mapAll (f := x.marked) (fun _ => rfl) (hshown c)).1
  have hfreq : x.select.selFreq = some w.target := by
    refine select_selFreq (x := x) (by simp [x, hlock]) ?_
    rw [bestFreq_congr (x := s.fjz) hmarked rfl rfl rfl rfl, hbest]
    exact Option.some_ne_none _
  have hkept := endSwitch_keeps (v := fun y => (y.selTime, y.switchSeq, y.htOffset)) (fun _ _ _ _ _ _ => rfl) w delta hlock
  rw [switched, if_pos hf, hend] at hkept
  have hview := withAdoption_keeps (v := fun y => (y.selFreq, y.cands, y.selTime, y.switchSeq, y.htOffset)) (fun _ => rfl)
    (onFjz (endSwitch w delta)) s.fresh
  rw [onFjz_fjz, fresh_fjz, hend] at hview
  simp only [Prod.mk.injEq] at hview hkept
  obtain ⟨hsel, hcands, htime, hseq, hoff⟩ := hview
  refine ⟨_, exec_switchWindowEnd hw hs (by rw [hf]; exact hdue), tsu_of_beside_fresh (beside_withAdoption _ s.fresh fun _ => rfl),
    hsel.trans hfreq, htime.trans hkept.1, fun c => ?_, hseq.trans hkept.2.1, hoff.trans hkept.2.2⟩
  have hc := shows_select (v := Cand.absorbed) (fun _ _ _ _ => rfl) (Tbl.shows_of_wfFrom (t := x.cands) Cand.absorbed hwf c)
  rw [Fjz.cand, hcands]
  exact hc.cand

/-- A candidate listed twice: without its mark the first listing is the reset element, which a walk over the table takes out. -/
def listedTwice : State :=
  { fjz := { rstN := true, selfTest := .passed, role := 3, lock := .lock, frc := 1000000000, switch := some ⟨0, false, true, 0⟩
             cands := [(0, { typ := 1, priority := 1, state := .qualified, sqcEff := 0 }), (1, { eligibleSince := some 0 }),
               (1, { absorbed := 5 })] } }

/-- Refutes O29: the claim is about every table of candidates, also one out of canonical form. In `listedTwice`, whose candidate 1 has two
listings, the choice at the end of a switch of the frequency selection takes the first away, and candidate 1, whose REF_ABSORBED_PS was
0, then reads 5. -/
theorem not_referenceSwitch : ¬ Obligations.ReferenceSwitch := by
  rintro ⟨-, hfreq, -⟩
  obtain ⟨t, hexec, -, -, -, habsorbed, -⟩ := hfreq 0 ⟨0, false, true, 0⟩ listedTwice rfl rfl rfl rfl (by decide) (by decide)
  rw [exec_switchWindowEnd (w := ⟨0, false, true, 0⟩) rfl rfl (by decide)] at hexec
  cases hexec
  have hview := withAdoption_keeps (v := fun y => (y.cand 1).absorbed) (fun _ => rfl)
    (onFjz (endSwitch ⟨0, false, true, 0⟩ 0)) listedTwice.fresh
  rw [habsorbed 1] at hview
  exact absurd hview (by decide)

/-! ## REALIGN (R101) -/

/-- What a secure object admits, an object that is written only admits too. -/
theorem admits_wo {d : Dev} {q : Req} {i j : Nat} {v : Bytes} {s : State} (h : admits d q i j .rws v s = true) :
    admits d q i j .wo v s = true := by
  simp only [admits, worldRefused, Bool.and_eq_true, Bool.and_eq_false_imp, decide_true, true_or, Bool.true_or,
    Bool.not_eq_eq_eq_not, Bool.not_true, Bool.true_eq_false, imp_false] at h ⊢
  simp_all

theorem realign_begins {q : Req} {s : State} (h : admits .fjz q 0x4200 8 .rws [1] s = true) (hrole : s.fjz.role = 3)
    (hno : s.fjz.switch = none) : exec (.realign q 1) s = .next (answered .fjz q 0x4200 8 stOk
      (onFjz (fun x => { x with realigning := true, realignFrac := 0 }) (taken .fjz q s))) := by
  have hready : (wRealign 1).ready (heard q s) = true := by simp [wRealign, hrole, hno]
  refine (agentWrite_takes (c := .realign q 1) rfl (op := wRealign 1) (admits_wo h) rfl (.inl rfl) rfl hready rfl rfl rfl rfl).trans ?_
  rw [enterErrs_nil (by simp [wRealign, boolCommand])]
  rfl

theorem realign_refused {q : Req} {s : State} (h : admits .fjz q 0x4200 8 .rws [1] s = true) (hno : s.fjz.role ≠ 3 ∨ s.fjz.switch ≠ none) :
    exec (.realign q 1) s = .next (answered .fjz q 0x4200 8 stState (taken .fjz q s)) := by
  have hready : (wRealign 1).ready (heard q s) = false := by
    simp only [wRealign, heard_fjz, decide_eq_false_iff_not, not_and_or]
    exact hno
  refine (agentWrite_refuses (c := .realign q 1) rfl (op := wRealign 1) (admits_wo h) rfl (.inl rfl) rfl (.inl ⟨hready, rfl⟩)).trans ?_
  rw [enterErrs_nil (by simp [wRealign, boolCommand])]
  rfl

/-! ## The holdover of the chip (R103, R106, R107) -/

theorem freeServe_takes {q : Req} {s : State} (h : admits .fjz q 0x4200 0x0F .rws [1] s = true) (hlock : s.fjz.lock = .free)
    (hest : s.fjz.established = false) : ∃ t, exec (.freeServe q 1) s = .next t ∧ t.tsu = s.tsu ∧ t.fjz.freeServe = true ∧
      t.fjz.established = true ∧ t.fjz.outSqc = 6 ∧ t.fjz.htOffset = s.fjz.freeStart - BitVec.ofNat 80 (s.fjz.frc.toNat * 65536) := by
  obtain ⟨f, t, hexec, htsu, hview⟩ := chipWrite_takes (c := .freeServe q 1) rfl (op := wFreeServe 1) h rfl rfl rfl rfl rfl (fun _ => rfl)
    (fun _ => rfl) fun _ => rfl
  have hfields := hview (fun x => (x.freeServe, x.established, x.outSqc, x.htOffset)) fun _ _ => rfl
  have hserved : ((wFreeServe 1).apply (onAgent .fjz f s.fresh)).fjz = Fjz.setOut { (onAgent .fjz f s.fresh).fjz with
      freeServe := true, htOffset := s.fjz.freeStart - BitVec.ofNat 80 (s.fjz.frc.toNat * 65536), established := true } :=
    if_pos ⟨rfl, hlock, hest⟩
  have hquality : (onAgent .fjz f s.fresh).fjz.lock = .free := hlock
  rw [hserved] at hfields
  simp only [Fjz.setOut, Fjz.quality, hquality, Prod.mk.injEq, if_true, Bool.true_or] at hfields
  obtain ⟨hserve, hestablished, hout, hoff⟩ := hfields
  exact ⟨t, hexec, htsu, hserve, hestablished, hout, hoff⟩

/-- Some time candidate has been eligible for HOLD_WTR_S, as a chip with its marks sees it. -/
def Machine.Fjz.heldOut (x : Fjz) : Bool :=
  (List.range nCands).any fun c => x.eligible c && (x.cand c).isTime &&
    ((x.cand c).eligibleSince.any fun f => decide (f + x.holdWtr.toNat * 1000000000 ≤ x.frc.toNat))

/-- HOLD ends, in a switch to its target. -/
def Machine.Fjz.endHold (x : Fjz) (c : Nat) : Fjz :=
  Fjz.setOut (Fjz.startSwitch { x with lock := .lock, holdBound := 0, lockSince := some x.frc.toNat, phaseErrs := [] } c false)

/-- What HOLD_WTR_EXPIRY does to a chip with its marks. -/
def Machine.Fjz.afterWait (x : Fjz) : Fjz :=
  match x.bestTime with
  | some c => if (x.lock = .hold ∨ (x.lock = .free ∧ x.established = true)) ∧ x.heldOut = true ∧ x.switch = none then x.endHold c else x
  | none => x

theorem exec_holdWtrExpiry {s : State} (hw : s.fjz.works = true) :
    exec .holdWtrExpiry s = .next (withAdoption (onFjz fun x => x.markEligible.afterWait) s.fresh) :=
  performOn_chip rfl hw rfl (beside_withAdoption _ s.fresh fun _ => rfl)

theorem heldOut_of_mem {x : Fjz} {e f : Nat} (he : e < 10) (helig : x.eligible e = true) (htime : (x.cand e).isTime = true)
    (hsince : (x.cand e).eligibleSince = some f) (hlong : f + x.holdWtr.toNat * 1000000000 ≤ x.frc.toNat) : x.heldOut = true := by
  unfold Machine.Fjz.heldOut
  rw [List.any_eq_true]
  refine ⟨e, List.mem_range.mpr he, ?_⟩
  rw [helig, htime, hsince, Option.any_some, Bool.and_self, Bool.true_and]
  exact decide_eq_true hlong

theorem endHold_fields (x : Fjz) (c : Nat) : (x.endHold c).lock = .lock ∧ (x.endHold c).holdBound = 0 ∧
    (x.endHold c).switch.map Switch.target = some c := ⟨rfl, rfl, rfl⟩

theorem holdWtrExpiry_ends_hold {c e f : Nat} {s : State} (hw : s.fjz.works = true) (hlock : s.fjz.lock = .hold)
    (hbest : s.fjz.markEligible.bestTime = some c) (he : e < 10) (helig : s.fjz.markEligible.eligible e = true)
    (htime : (s.fjz.markEligible.cand e).isTime = true) (hsince : (s.fjz.markEligible.cand e).eligibleSince = some f)
    (hlong : f + s.fjz.holdWtr.toNat * 1000000000 ≤ s.fjz.frc.toNat) (hno : s.fjz.switch = none) :
    ∃ t, exec .holdWtrExpiry s = .next t ∧ t.tsu = s.tsu ∧ t.fjz.lock = .lock ∧ t.fjz.holdBound = 0 ∧
      (t.fjz.switch.map Switch.target) = some c := by
  have hended : s.fjz.markEligible.afterWait = s.fjz.markEligible.endHold c := by
    have hheld := heldOut_of_mem (x := s.fjz.markEligible) he helig htime hsince hlong
    have hlock' : s.fjz.markEligible.lock = .hold := hlock
    have hno' : s.fjz.markEligible.switch = none := hno
    rw [Fjz.afterWait, hbest]
    exact if_pos ⟨.inl hlock', hheld, hno'⟩
  have hview := withAdoption_keeps (v := fun y => (y.lock, y.holdBound, y.switch.map Switch.target)) (fun _ => rfl)
    (onFjz fun x => x.markEligible.afterWait) s.fresh
  rw [onFjz_fjz, fresh_fjz, hended] at hview
  obtain ⟨hlock', hbound, hswitch⟩ := endHold_fields s.fjz.markEligible c
  simp only [hlock', hbound, hswitch, Prod.mk.injEq] at hview
  exact ⟨_, exec_holdWtrExpiry hw, tsu_of_beside_fresh (beside_withAdoption _ s.fresh fun _ => rfl), hview⟩

theorem holdUpdate_samples {mk : I64} {s : State} (hw : s.fjz.works = true) (hlock : s.fjz.lock ≠ .hold) :
    exec (.holdUpdate mk) s = .next { s.fresh with
      fjz := { s.fjz with ocxoTemp := mk, temps := (mk.toInt :: s.fjz.temps).take 1000 } } :=
  performOn_chip rfl hw (congrArg (fun x => { s.fresh with fjz := x }) (if_pos hlock)) rfl

theorem holdUpdate_holds {mk : I64} {s : State} (hw : s.fjz.works = true) (hlock : s.fjz.lock = .hold) :
    ∃ t, exec (.holdUpdate mk) s = .next t ∧ t.tsu = s.tsu ∧
      t.fjz.tempSum = s.fjz.tempSum + (mk.toInt - s.fjz.holdTemp.toInt).natAbs ∧
      (t.fjz.lock = .hold ∨ t.fjz.lock = .free) ∧ t.fjz.cands = s.fjz.cands := by
  refine ⟨_, performOn_chip rfl hw rfl rfl, rfl, ?_⟩
  dsimp only [onFjz, fresh_fjz]
  rw [if_neg (not_not_intro hlock)]
  split
  · exact ⟨rfl, .inr rfl, rfl⟩
  · exact ⟨rfl, .inl hlock, rfl⟩

theorem ocxoTable_takes {q : Req} {v : BitVec 320} {s : State} (h : admits .fjz q 0x4300 1 .rws (bvBytes v) s = true)
    (hv : ocxoOk v = true) : exec (.ocxoTable q v) s =
      .next (answered .fjz q 0x4300 1 stOk (onFjz (fun x => { x with ocxo := v }) (taken .fjz q s))) := by
  refine (agentWrite_takes (c := .ocxoTable q v) rfl (op := wOcxoTable v) h rfl (.inl ?_) rfl rfl hv rfl rfl rfl).trans ?_
  · rfl
  · rw [enterErrs_nil (by simp [wOcxoTable])]
    rfl

theorem ocxoAgeingValid_learns {f : Nat} {s : State} (hw : s.fjz.works = true) (hlock : s.fjz.lock = .lock)
    (hsince : s.fjz.lockSince = some f) (hday : f + 86400000000000 ≤ s.fjz.frc.toNat) :
    exec .ocxoAgeingValid s = .next { s.fresh with
      fjz := { s.fjz with ocxoAgeValid := true, ocxoAge := Config.learnOcxoAgeing s.fjz.frc.toNat } } := by
  refine performOn_chip rfl hw ?_ rfl
  simp only [onFjz, fresh_fjz, hsince, hlock, hday, and_self, if_true]

/-- Settles O30, command by command. -/
theorem holdoverOfAChip : Obligations.HoldoverOfAChip :=
  ⟨fun _ _ => freeServe_takes, fun _ _ _ _ => holdWtrExpiry_ends_hold, fun _ _ => holdUpdate_samples, fun _ _ => holdUpdate_holds,
    fun _ _ _ => ocxoTable_takes, fun _ _ => ocxoAgeingValid_learns⟩

end Sys2Proof
end

section
/-! PROOFS. PTP at a root (O31). -/

namespace Sys2Proof

open Machine

/-- A command to a chip that works, where its effect stages no record. -/
theorem performOn_takes {ok : Bool} {f : State → State} {s t : State} (hok : ok = true) (hw : s.fjz.works = true)
    (ht : f s.fresh = t) (hs : t.staged = []) : performOn .fjz ok f s = .next t := by
  subst ht
  rw [performOn_works (d := .fjz) hok hw, enterErrs_nil hs]

/-! ## A PTP exchange (R89) -/

theorem ptpSync_stamps {e : Nat} {m : PtpMsg} {t2 : Stamp} {s : State} (hw : s.fjz.works = true) (he : e < 2)
    (hfor : ptpFor s e m = true) : exec (.ptpSync e m t2) s = .next (onEth e (fun x =>
      { x with t2 := some (stampHt s .fjz t2), t1 := if m.twoStep then none else some (htAddPs m.originHt m.corrPs),
               syncSeq := if m.twoStep then some m.seqId else none, syncCorr := m.corrPs }) s.fresh) := by
  have hfor' : ptpFor s.fresh e m = true := hfor
  change execPtpSync e m t2 s = _
  refine performOn_chip (decide_eq_true he) hw (if_neg ?_) rfl
  simp [hfor']

theorem ptpFollowUp_completes {e : Nat} {m : PtpMsg} {s : State} (hw : s.fjz.works = true) (he : e < 2) (hfor : ptpFor s e m = true)
    (hseq : (s.fjz.eth e).syncSeq = some m.seqId) : exec (.ptpFollowUp e m) s = .next (onEth e (fun x =>
      { x with t1 := some (htAddPs m.originHt (x.syncCorr + m.corrPs)), syncSeq := none }) s.fresh) := by
  have hfor' : ptpFor s.fresh e m = true := hfor
  change execPtpFollowUp e m s = _
  refine performOn_chip (decide_eq_true he) hw (if_neg ?_) rfl
  simp [hfor', hseq]

theorem ptpDelayReqSend_emits {e : Nat} {t3 : Stamp} {s : State} (hw : s.fjz.works = true) (he : e < 2) (hrole : s.fjz.role = 3)
    (hdue : ∀ g, (s.fjz.eth e).delayAt = some g → g + 1000000000 / 2 ^ (s.fjz.eth e).logInterval.toNat ≤ s.fjz.frc.toNat) :
    exec (.ptpDelayReqSend e t3) s = .next
      (emit (.delayReq e ((s.fjz.eth e).delaySeq + 1) (s.fjz.eth e).transport (s.fjz.eth e).unicast)
        (onEth e (fun x => { x with delaySeq := (s.fjz.eth e).delaySeq + 1, t3 := some (stampHt s .fjz t3)
                                    delayAt := some s.fjz.frc.toNat }) s.fresh)) := by
  have hquiet : ((s.fjz.eth e).delayAt.any fun g =>
      decide (s.fjz.frc.toNat < g + 1000000000 / 2 ^ (s.fjz.eth e).logInterval.toNat)) = false := by
    cases hat : (s.fjz.eth e).delayAt with
    | none => rfl
    | some g => exact decide_eq_false (Nat.not_lt.mpr (hdue g hat))
  change execPtpDelayReqSend e t3 s = _
  refine performOn_takes (decide_eq_true he) hw (if_neg ?_) rfl
  rw [fresh_fjz, hquiet]
  simp [hrole]

/-- The whole exchange of the two clocks, in units of the hall time. -/
theorem ptpDelayResp_measures {e : Nat} {m : PtpMsg} {t1 t2 t3 : HT} {s : State} (hw : s.fjz.works = true) (he : e < 2)
    (hfor : ptpFor s e m = true) (h1 : (s.fjz.eth e).t1 = some t1) (h2 : (s.fjz.eth e).t2 = some t2) (h3 : (s.fjz.eth e).t3 = some t3)
    (hseq : m.seqId = (s.fjz.eth e).delaySeq) :
    ∃ t, exec (.ptpDelayResp e m) s = .next t ∧ t.tsu = s.tsu ∧
      (t.fjz.eth e).pathDelay = openRound (((t2 - t1).toInt + (htAddPs m.originHt (-m.corrPs) - t3).toInt) * 1000) 131072 ∧
      (t.fjz.cand (4 + e)).phase =
        -openRound (((t2 - t1).toInt - (htAddPs m.originHt (-m.corrPs) - t3).toInt) * 1000
          - (s.fjz.eth e).asym.toInt * 65536) 131072 := by
  let theta := openRound (((t2 - t1).toInt - (htAddPs m.originHt (-m.corrPs) - t3).toInt) * 1000 - (s.fjz.eth e).asym.toInt * 65536) 131072
  let delay := openRound (((t2 - t1).toInt + (htAddPs m.originHt (-m.corrPs) - t3).toInt) * 1000) 131072
  have hfor' : ptpFor s.fresh e m = true := hfor
  have hexec : exec (.ptpDelayResp e m) s = .next (onCand (4 + e) (fun k => { k with phase := -theta, phaseErr := i64 (-theta - k.baseline) })
      (onEth e (fun x => { x with pathDelay := delay, t3 := none }) s.fresh)) := by
    change execPtpDelayResp e m s = _
    refine performOn_chip (decide_eq_true he) hw ?_ rfl
    dsimp only [fresh_fjz]
    rw [h1, h2, h3]
    exact if_neg (by simp [hfor', hseq])
  refine ⟨_, hexec, rfl, ?_, ?_⟩
  · exact congrArg Eth.pathDelay (eth_onEth_same e (fun x => { x with pathDelay := delay, t3 := none }) s.fresh)
  · rw [cand_onCand_same]

/-! ## Announce (R89, R92) -/

theorem eth_of_setting {x y : Fjz} (h : y.setting = x.setting) (e : Nat) : y.eth e = x.eth e := by
  change y.setting.eth e = x.setting.eth e
  rw [h]

/-- A port that follows a sender: a new grandmaster ends the exchange with the old one. -/
def Machine.Eth.follow (w : Announce) (x : Eth) : Eth :=
  if x.gm = w.gm then { x with clockClass := w.clockClass }
  else { x with clockClass := w.clockClass, gm := w.gm, t1 := none, t2 := none, syncSeq := none, t3 := none }

theorem follow_fields (w : Announce) (x : Eth) :
    (x.follow w).gm = w.gm ∧ (x.follow w).clockClass = w.clockClass ∧ (x.follow w).senders = x.senders := by
  unfold Machine.Eth.follow
  split
  · exact ⟨‹_›, rfl, rfl⟩
  · exact ⟨rfl, rfl, rfl⟩

theorem followBest_none {e : Nat} {s : State} (h : (s.fjz.eth e).senders = []) : followBest e s = s := by
  rw [followBest, h]
  rfl

theorem followBest_some {e : Nat} {w : Announce} {s : State} (h : bestSender (s.fjz.eth e).senders = some w) :
    followBest e s = withAdoption (setReceived (ptpCand e) (classSqc w.clockClass))
      (onCand (ptpCand e) (fun k => { k with sourceId := w.gm }) (onEth e (Eth.follow w) s)) := by
  rw [followBest, h]
  rfl

theorem beside_followBest (e : Nat) (s : State) : beside (followBest e s) = beside s := by
  unfold followBest
  split
  · rfl
  · exact beside_withAdoption _ _ (beside_setReceived _ _)

/-- A received quality stands in its candidate, and what it does not move stays. -/
theorem shows_setReceived {γ : Type} {v : Cand → γ} {w : γ} {c sqc : Nat} {s : State}
    (hsel : ∀ (k : Cand) p b e, v { k with phase := p, baseline := b, eligibleSince := e } = v k)
    (hdis : ∀ (k : Cand) st q e, v { k with state := st, sqcEff := q, eligibleSince := e } = v k)
    (hw : v { s.fjz.cand c with sqcRecv := BitVec.ofNat 8 sqc } = w) : (setReceived c sqc s).fjz.shows v c w :=
  shows_actReceived hsel hdis (shows_onCand_same hw)

theorem followBest_eth {e : Nat} {w : Announce} {s : State} (h : bestSender (s.fjz.eth e).senders = some w) :
    (followBest e s).fjz.eth e = (s.fjz.eth e).follow w := by
  rw [followBest_some h, eth_of_setting (setting_withAdoption _ _), eth_of_setting (setting_setReceived _ _ _),
    eth_of_setting (setting_onCand _ _ _), eth_onEth_same]

theorem followBest_cand {e : Nat} {w : Announce} {s : State} (h : bestSender (s.fjz.eth e).senders = some w) :
    ((followBest e s).fjz.cand (4 + e)).sqcRecv = BitVec.ofNat 8 (classSqc w.clockClass) ∧
      ((followBest e s).fjz.cand (4 + e)).sourceId = w.gm := by
  rw [followBest_some h]
  refine Prod.mk.inj (shows_withAdoption (shows_setReceived (v := fun k => (k.sqcRecv, k.sourceId)) (c := 4 + e) (fun _ _ _ _ => rfl)
    (fun _ _ _ _ => rfl) ?_)).cand
  rw [show ptpCand e = 4 + e from rfl, cand_onCand_same]

theorem ptpAnnounce_chooses {e : Nat} {a : Announce} {s : State} (hw : s.fjz.works = true) (he : e < 2) (hrole : s.fjz.role = 3)
    (hptp : a.ptpTimescale = true) (hdomain : a.domain = (s.fjz.eth e).domain) (htransport : a.transport = (s.fjz.eth e).transport)
    (hsource : (s.fjz.eth e).unicast = 0 ∨ a.source = (s.fjz.eth e).unicast) (hnone : (s.fjz.eth e).senders = []) :
    ∃ t, exec (.ptpAnnounce e a) s = .next t ∧ t.tsu = s.tsu ∧ (t.fjz.eth e).gm = a.gm ∧
      (t.fjz.eth e).clockClass = a.clockClass ∧ (t.fjz.eth e).senders = [a] ∧
      (t.fjz.cand (4 + e)).sqcRecv = BitVec.ofNat 8 (classSqc a.clockClass) ∧ (t.fjz.cand (4 + e)).sourceId = a.gm := by
  let heard (x : Eth) : Eth :=
    { x with senders := (x.senders.filter fun b => b.gm ≠ a.gm) ++ [a],
             heardAt := (x.heardAt.filter fun h => h.1 ≠ a.gm) ++ [(a.gm, s.fjz.frc.toNat)] }
  have htakes : (s.fjz.eth e).takes a.transport a.source = true := by
    rw [Eth.takes, ← Bool.decide_or, decide_eq_true htransport, decide_eq_true hsource]
    rfl
  have hexec : exec (.ptpAnnounce e a) s = .next (followBest e (onEth e heard s.fresh)) := by
    change execPtpAnnounce e a s = _
    refine performOn_chip (decide_eq_true he) hw ?_ (beside_followBest e (onEth e heard s.fresh))
    dsimp only [fresh_fjz]
    exact if_neg (by simp [hrole, hptp, hdomain, htakes])
  have hsenders : ((onEth e heard s.fresh).fjz.eth e).senders = [a] := by
    rw [eth_onEth_same, fresh_fjz]
    simp [heard, hnone]
  have hbest : bestSender ((onEth e heard s.fresh).fjz.eth e).senders = some a := by
    rw [hsenders]
    rfl
  obtain ⟨hgm, hclass, hkept⟩ := follow_fields a ((onEth e heard s.fresh).fjz.eth e)
  rw [← followBest_eth hbest] at hgm hclass hkept
  exact ⟨_, hexec, tsu_of_beside_fresh (beside_followBest e _), hgm, hclass, hkept.trans hsenders, followBest_cand hbest⟩

/-! ## The silence of the grandmaster (R97) -/

/-- A port without the senders that are silent, and without its exchange. -/
def Machine.Eth.dropSilent (f : Nat) (x : Eth) : Eth :=
  { x with senders := x.senders.filter fun a => !x.silent f a, t1 := none, t2 := none, t3 := none, syncSeq := none }

theorem silent_of_old {x : Eth} {f : Nat} {a : Announce} (h : ∀ o ∈ x.heardAt, o.1 = a.gm → o.2 + 3 * a.intervalNs ≤ f) :
    x.silent f a = true := by
  have hnone : (x.heardAt.any fun o => decide (o.1 = a.gm ∧ f < o.2 + 3 * a.intervalNs)) = false := by
    rw [List.any_eq_false]
    intro o ho
    rw [decide_eq_true_eq]
    rintro ⟨hgm, hlate⟩
    exact absurd (h o ho hgm) (Nat.not_le.mpr hlate)
  rw [Eth.silent, hnone]
  rfl

theorem ptpAnnounceTimeout_loses {e : Nat} {s : State} (hw : s.fjz.works = true) (he : e < 2) (hrole : s.fjz.role = 3)
    (hs : (s.fjz.cand (4 + e)).state ≠ .absent) (hgm : ∃ a ∈ (s.fjz.eth e).senders, a.gm = (s.fjz.eth e).gm)
    (hold : ∀ a ∈ (s.fjz.eth e).senders, ∀ h ∈ (s.fjz.eth e).heardAt, h.1 = a.gm → h.2 + 3 * a.intervalNs ≤ s.fjz.frc.toNat) :
    ∃ t, exec (.ptpAnnounceTimeout e) s = .next t ∧ t.tsu = s.tsu ∧ (t.fjz.eth e).senders = [] ∧
      (t.fjz.cand (4 + e)).lost = true ∧ (t.fjz.cand (4 + e)).state = .disqualified := by
  have hsilent : ∀ a ∈ (s.fjz.eth e).senders, (s.fjz.eth e).silent s.fjz.frc.toNat a = true := fun a ha => silent_of_old (hold a ha)
  have hchosen : ((s.fjz.eth e).senders.any fun a => decide (a.gm = (s.fjz.eth e).gm) && (s.fjz.eth e).silent s.fjz.frc.toNat a) = true := by
    obtain ⟨a, ha, heq⟩ := hgm
    exact List.any_eq_true.mpr ⟨a, ha, by simp [heq, hsilent a ha]⟩
  let u := onEth e (Eth.dropSilent s.fjz.frc.toNat) s.fresh
  have hnone : ((withAdoption (loseCand (4 + e)) u).fjz.eth e).senders = [] := by
    rw [eth_of_setting (setting_withAdoption _ u), eth_of_setting (setting_loseCand _ u), eth_onEth_same]
    exact List.filter_eq_nil_iff.mpr fun a ha => by simp [hsilent a ha]
  have hexec : exec (.ptpAnnounceTimeout e) s = .next (withAdoption (loseCand (4 + e)) u) := by
    change execPtpAnnounceTimeout e s = _
    refine performOn_chip (decide_eq_true he) hw ?_ (beside_loses (4 + e) u)
    refine Eq.trans ?_ (followBest_none hnone)
    exact if_neg (not_or.mpr ⟨not_not_intro hrole, ne_false_of_eq_true hchosen⟩)
  obtain ⟨hlost, hstate, -⟩ := loseCand_loses (c := 4 + e) (s := u) hs
  exact ⟨_, hexec, tsu_of_beside_fresh (beside_loses (4 + e) u), hnone, hlost, hstate⟩

/-- Settles O31, message by message. -/
theorem ptpExchange : Obligations.PtpExchange := by
  refine ⟨fun e m t2 s hw he hfor => ⟨_, ptpSync_stamps hw he hfor, rfl, ?_⟩,
    fun e m s hw he hfor hseq => ⟨_, ptpFollowUp_completes hw he hfor hseq, rfl, ?_⟩,
    fun e t3 s hw he hrole hdue => ⟨_, ptpDelayReqSend_emits hw he hrole hdue, rfl, rfl, ?_⟩,
    fun _ _ _ _ _ _ => ptpDelayResp_measures, fun _ _ _ => ptpAnnounce_chooses, fun _ _ => ptpAnnounceTimeout_loses⟩
  · rw [eth_onEth_same]
    exact ⟨rfl, rfl, rfl, rfl⟩
  · rw [eth_onEth_same]
    exact ⟨rfl, rfl, rfl⟩
  · rw [emit_fjz, eth_onEth_same]
    exact ⟨rfl, rfl⟩

end Sys2Proof
end

section
/-! PROOFS. The reference inputs and outputs of a Fjouz chip (O32). -/

namespace Sys2Proof

open Machine

/-! ## Reference inputs (R90) -/

/-- An update of a candidate depends on that candidate's present value only. -/
theorem onCand_congr {c : Nat} {f g : Cand → Cand} {s : State} (h : f (s.fjz.cand c) = g (s.fjz.cand c)) :
    onCand c f s = onCand c g s := by
  change f (s.fjz.cands.get {} c) = g (s.fjz.cands.get {} c) at h
  simp only [onCand, onFjz, Tbl.upd, h]

theorem refPpsEdge_stamps {c : Nat} {x : Stamp} {s : State} (hw : s.fjz.works = true) (hc : c < 4) (ht : (s.fjz.cand c).typ = 2)
    (hnone : (s.fjz.cand c).ppsStamp = none) (hused : (s.fjz.cand c).unused < 3) :
    exec (.refPpsEdge c x) s = .next (onCand c (fun k => { k with
      ppsAt := some s.fjz.frc.toNat
      ppsStamp := some (htAddPs (stampHt s .fjz x) (-k.cableDelay.toInt)) }) s.fresh) := by
  change execRefPpsEdge c x s = _
  refine performOn_chip (decide_eq_true (show c < 10 by omega)) hw ?_ rfl
  have hinput : ¬(4 ≤ c ∨ (s.fjz.cand c).typ ≠ typPps) := not_or.mpr ⟨Nat.not_le.mpr hc, not_not_intro ht⟩
  dsimp only [fresh_fjz]
  rw [if_neg hinput, hnone, if_pos rfl, if_neg (Nat.not_le.mpr hused)]
  exact onCand_congr rfl

@[simp] theorem beside_selectRefs (s : State) : beside (selectRefs s) = beside s :=
  beside_withAdoption (onFjz Fjz.select) s fun _ => rfl

theorem beside_received (c sqc : Nat) (s : State) : beside (withAdoption (setReceived c sqc) s) = beside s :=
  beside_withAdoption (setReceived c sqc) s (beside_setReceived c sqc)

/-- What a valid message writes in its candidate, but for the quality. -/
def named (m : BitVec 184) (ht : HT) (k : Cand) : Cand :=
  { k with phase := diffPs (htOfNs (fldN m 16 64 * 1000000000)) ht
           phaseErr := i64 (diffPs (htOfNs (fldN m 16 64 * 1000000000)) ht - k.baseline), ppsStamp := none, unused := 0
           cross := (bitOf m 83 :: k.cross).take 2, sourceId := fld m 88 64 }

/-- What a valid message tells of its candidate. -/
def messaged (k : Cand) : Option HT × Nat × U8 × U64 × Option Bool := (k.ppsStamp, k.unused, k.sqcRecv, k.sourceId, k.cross.head?)

theorem messaged_named (m : BitVec 184) (ht : HT) (k : Cand) (q : U8) :
    messaged { named m ht k with sqcRecv := q } = (none, 0, q, fld m 88 64, some (bitOf m 83)) := rfl

theorem shows_selectRefs {γ : Type} {v : Cand → γ} {c : Nat} {w : γ} {s : State}
    (hsel : ∀ (k : Cand) p b e, v { k with phase := p, baseline := b, eligibleSince := e } = v k) (h : s.fjz.shows v c w) :
    (selectRefs s).fjz.shows v c w :=
  shows_withAdoption (f := onFjz Fjz.select) (shows_select hsel h)

theorem exec_todMessage {c f : Nat} {m : BitVec 184} {ht : HT} {s : State} (hw : s.fjz.works = true) (hc : c < 10)
    (htyp : (s.fjz.cand c).typ = 2) (hat : (s.fjz.cand c).ppsAt = some f) (hstamp : (s.fjz.cand c).ppsStamp = some ht)
    (hok : todOk m = true) (hsoon : s.fjz.frc.toNat ≤ f + 500000000) :
    exec (.todMessage c m) s = .next (selectRefs (withAdoption (setReceived c (fldN m 80 3)) (onCand c (named m ht) s.fresh))) := by
  have hbeside : beside (selectRefs (withAdoption (setReceived c (fldN m 80 3)) (onCand c (named m ht) s.fresh))) = beside s.fresh := by
    rw [beside_selectRefs, beside_received, beside_onCand]
  have hvalid : ¬((s.fjz.cand c).typ ≠ typPps ∨ (!todOk m) = true ∨ f + 500000000 < s.fjz.frc.toNat) := by
    rw [hok, htyp]
    simp [typPps, hsoon]
  change execTodMessage c m s = _
  refine performOn_chip (decide_eq_true hc) hw ?_ hbeside
  dsimp only [fresh_fjz]
  rw [hat, hstamp]
  exact if_neg hvalid

theorem todMessage_names {c f : Nat} {m : BitVec 184} {ht : HT} {s : State} (hw : s.fjz.works = true) (hc : c < 10)
    (htyp : (s.fjz.cand c).typ = 2) (hat : (s.fjz.cand c).ppsAt = some f) (hstamp : (s.fjz.cand c).ppsStamp = some ht)
    (hok : todOk m = true) (hsoon : s.fjz.frc.toNat ≤ f + 500000000) :
    ∃ t, exec (.todMessage c m) s = .next t ∧ t.tsu = s.tsu ∧ (t.fjz.cand c).ppsStamp = none ∧ (t.fjz.cand c).unused = 0 ∧
      (t.fjz.cand c).sqcRecv = BitVec.ofNat 8 (fldN m 80 3) ∧ (t.fjz.cand c).sourceId = fld m 88 64 ∧
      (t.fjz.cand c).cross.head? = some (bitOf m 83) := by
  have hbeside : beside (selectRefs (withAdoption (setReceived c (fldN m 80 3)) (onCand c (named m ht) s.fresh))) = beside s.fresh := by
    rw [beside_selectRefs, beside_received, beside_onCand]
  have hshown := shows_selectRefs (fun _ _ _ _ => rfl) (shows_withAdoption (shows_setReceived (v := messaged) (c := c)
    (s := onCand c (named m ht) s.fresh) (fun _ _ _ _ => rfl) (fun _ _ _ _ => rfl)
    ((congrArg (fun k : Cand => messaged { k with sqcRecv := BitVec.ofNat 8 (fldN m 80 3) }) (cand_onCand_same ..)).trans
      (messaged_named ..))))
  refine ⟨_, exec_todMessage hw hc htyp hat hstamp hok hsoon, tsu_of_beside_fresh hbeside, ?_⟩
  have hfields := hshown.cand
  simp only [messaged, Prod.mk.injEq] at hfields
  exact hfields

/-! ## ESMC (R92) -/

theorem esmc_gives {e : Nat} {ql : BitVec 4} {s : State} (hw : s.fjz.works = true) (he : e < 2) (hrole : s.fjz.role = 3) :
    ∃ t, exec (.esmc e ql) s = .next t ∧ t.tsu = s.tsu ∧ (t.fjz.eth e).esmcQl = ql.setWidth 8 ∧
      (t.fjz.cand (6 + e)).sqcRecv = (if ql = 2 then 0 else if ql = 4 then 2 else if ql = 8 then 4 else if ql = 11 then 6 else 7) := by
  let u := onEth e (fun x => { x with esmcQl := ql.setWidth 8, esmcAt := some s.fjz.frc.toNat }) s.fresh
  have hbeside : beside (withAdoption (setReceived (6 + e) (ssmSqc ql)) u) = beside u := beside_received _ _ u
  have hexec : exec (.esmc e ql) s = .next (withAdoption (setReceived (6 + e) (ssmSqc ql)) u) := by
    change execEsmc e ql s = _
    exact performOn_chip (decide_eq_true he) hw (if_neg (not_not_intro hrole)) hbeside
  have hcode : BitVec.ofNat 8 (ssmSqc ql) = if ql = 2 then 0 else if ql = 4 then 2 else if ql = 8 then 4 else if ql = 11 then 6 else 7 := by
    simp only [ssmSqc, apply_ite (BitVec.ofNat 8)]
    rfl
  refine ⟨_, hexec, tsu_of_beside_fresh hbeside, ?_, ?_⟩
  · rw [eth_of_setting (setting_withAdoption _ u), eth_of_setting (setting_setReceived _ _ u), eth_onEth_same]
  · exact hcode ▸ (shows_withAdoption (shows_setReceived (v := Cand.sqcRecv) (fun _ _ _ _ => rfl) (fun _ _ _ _ => rfl) rfl)).cand

/-- The quality 7 disqualifies a candidate that is there at once (R97). -/
theorem setReceived_seven {c : Nat} {s : State} (ht : (s.fjz.cand c).typ ≠ 1) (hs : (s.fjz.cand c).state ≠ .absent) :
    (setReceived c 7 s).fjz.shows Cand.state c .disqualified := by
  have hseven : ({ s.fjz.cand c with sqcRecv := 7 } : Cand).received = 7 := by
    exact if_neg ht
  unfold setReceived actReceived
  dsimp only
  rw [cand_onCand_same]
  exact (if_pos hseven).trans (if_neg hs) ▸ shows_select (fun _ _ _ _ => rfl) (shows_disqualify_same Cand.state c _)

theorem esmcTimeout_disqualifies {e : Nat} {s : State} (hw : s.fjz.works = true) (he : e < 2) (hrole : s.fjz.role = 3)
    (ht : (s.fjz.cand (6 + e)).typ ≠ 1) (hlong : ∀ f, (s.fjz.eth e).esmcAt = some f → f + 5000000000 ≤ s.fjz.frc.toNat) :
    ∃ t, exec (.esmcTimeout e) s = .next t ∧ t.tsu = s.tsu ∧ (t.fjz.cand (6 + e)).sqcRecv = 7 ∧
      ((s.fjz.cand (6 + e)).state ≠ .absent → (t.fjz.cand (6 + e)).state = .disqualified) := by
  have hunheard : ((s.fresh.fjz.eth e).esmcAt.any fun f => decide (s.fresh.fjz.frc.toNat < f + 5000000000)) = false := by
    rw [fresh_fjz]
    cases hat : (s.fjz.eth e).esmcAt with
    | none => rfl
    | some f => rw [Option.any_some, decide_eq_false (Nat.not_lt.mpr (hlong f hat))]
  have hbeside : beside (withAdoption (setReceived (6 + e) 7) s.fresh) = beside s.fresh := beside_received ..
  have hexec : exec (.esmcTimeout e) s = .next (withAdoption (setReceived (6 + e) 7) s.fresh) := by
    change execEsmcTimeout e s = _
    refine performOn_chip (decide_eq_true he) hw ?_ hbeside
    exact if_neg (not_or.mpr ⟨not_not_intro hrole, ne_true_of_eq_false hunheard⟩)
  exact ⟨_, hexec, tsu_of_beside_fresh hbeside,
    (shows_withAdoption (shows_setReceived (v := Cand.sqcRecv) (fun _ _ _ _ => rfl) (fun _ _ _ _ => rfl) rfl)).cand,
    fun hs => (shows_withAdoption (setReceived_seven (s := s.fresh) ht hs)).cand⟩

/-! ## Reference outputs (R91) -/

/-- A field replaced leaves the fields below it. -/
theorem fld_put_below {n lo len i k : Nat} (x : BitVec n) (v : BitVec len) (h : i + k ≤ lo) : fld (put x lo len v) i k = fld x i k := by
  refine BitVec.eq_of_getLsbD_eq fun j hj => ?_
  have hlow : i + j < lo := by omega
  simp only [fld, put, BitVec.getLsbD_extractLsb', BitVec.getLsbD_or, BitVec.getLsbD_and, BitVec.getLsbD_not, BitVec.getLsbD_shiftLeft,
    hlow, decide_true, Bool.not_true, Bool.and_false, Bool.false_and, Bool.not_false, Bool.and_true, Bool.or_false]
  by_cases hn : i + j < n
  · simp [hn]
  · simp [BitVec.getLsbD_of_ge x (i + j) (Nat.not_lt.mp hn)]

theorem fldN_put_below {n lo len i k : Nat} (x : BitVec n) (v : BitVec len) (h : i + k ≤ lo) : fldN (put x lo len v) i k = fldN x i k :=
  congrArg BitVec.toNat (fld_put_below x v h)

theorem todOf_fields (s : State) (n : Nat) (source : U64) :
    fldN (todOf s n source) 16 64 = n % 2 ^ 64 ∧ fld (todOf s n source) 80 3 = s.fjz.outSqc.setWidth 3 := by
  refine ⟨(fldN_put_below _ _ (by decide)).trans (fldN_pack rfl (by simp)), ?_⟩
  refine (fld_put_below _ _ (by decide)).trans (BitVec.eq_of_toNat_eq ?_)
  exact (fldN_pack (len := 3) (v := s.fjz.outSqc.toNat) rfl (by simp)).trans (BitVec.toNat_setWidth 3 _).symm

/-- The source that a PPS_TOD output names. -/
def todSource (x : Fjz) : U64 :=
  if x.role = 3 then (match x.selTime with | some c => (x.cand c).sourceId | none => 0) else x.srcId

theorem refOutPps_pulses {o n : Nat} {s : State} (hw : s.fjz.works = true) (ho : o < 4) (hmode : (s.fjz.outs.get {} o).mode = 2)
    (hest : s.fjz.established = true) (hns : nsOf s.fjz.now + cdiv (s.fjz.outs.get {} o).adv.toNat 1000 = n * 1000000000) :
    exec (.refOutPps o) s = .next (emit (.refPulse o (s.fjz.outs.get {} o).adv (todOf s.fresh n (todSource s.fjz)))
      (onFjz (fun f => { f with outs := f.outs.upd {} o fun x => { x with highUntil := f.frc.toNat + 100000 } }) s.fresh)) := by
  have hsecond : n * 1000000000 / 1000000000 = n := by omega
  change execRefOutPps o s = _
  refine performOn_takes (decide_eq_true ho) hw ?_ rfl
  dsimp only
  rw [fresh_fjz, hns, hsecond]
  exact if_neg (not_or.mpr ⟨not_not_intro hmode, by simp [hest]⟩)

/-- Settles O32, command by command. -/
theorem referenceInputsAndOutputs : Obligations.ReferenceInputsAndOutputs :=
  ⟨fun _ _ _ => refPpsEdge_stamps, fun _ _ _ _ _ => todMessage_names, fun _ _ _ => esmc_gives, fun _ _ => esmcTimeout_disqualifies,
    fun _ n _ hw ho hmode hest hns => ⟨_, refOutPps_pulses hw ho hmode hest hns, rfl, rfl, _, rfl, todOf_fields _ n _⟩⟩

end Sys2Proof
end

section
/-! PROOFS. BLEAT: the time it gives a die, and its absence (O34). -/

namespace Sys2Proof

open Machine

/-! ## BLEAT leaves (R93) -/

theorem bleatSend_sends {d : Dev} {p : Nat} {s : State} (hok : portOk d p = true) (hw : partWorks s d = true)
    (hup : (port s d p).state = .up) (hturn : (port s d p).slots / 10 % 1024 = if isChildSide s d p then 768 else 256) :
    exec (.bleatSend d p) s = .next (onPort d p (fun x => { x with
      txq := x.txq ++ [{ cell := mkCell 4 0 7 (bleatBody s d p), ready := counterOf s d }] }) s.fresh) := by
  have hport : port s.fresh d p = port s d p := port_fresh ..
  have hbody : bleatBody s.fresh d p = bleatBody s d p := by cases d <;> rfl
  change execBleatSend d p s = _
  refine (performOn_works hok hw).trans ?_
  dsimp only
  rw [hport, show isChildSide s.fresh d p = isChildSide s d p from rfl, if_pos hturn, hbody,
    send_p0 (by decide) (by rw [hport]; exact hup), counterOf_fresh, enterErrs_nil (by simp)]
  rfl

/-! ## What the meter's records leave alone -/

/-- A record of the meter moves the meter and its interrupt, and nothing else (R273, R276, R277). -/
def beyondMeter (t : Tsu) : Tsu := { t with meter := {}, intStatus := 0 }

theorem beyondMeter_enterRing (b : BitVec 768) (t : Tsu) : beyondMeter (enterRing b t) = beyondMeter t := by
  unfold enterRing
  dsimp only
  split <;> rfl

theorem beyondMeter_moveFinal (t : Tsu) : beyondMeter (moveFinal t) = beyondMeter t := by
  unfold moveFinal
  split
  · rfl
  · split
    · rfl
    · dsimp only
      split
      · rw [beyondMeter_enterRing]; rfl
      · rfl

theorem beyondMeter_issue (typ flags : Nat) (rest : List (Nat × Nat × Nat)) (recNs : Nat) (t : Tsu) :
    beyondMeter (issue typ flags rest recNs t) = beyondMeter t := by
  have hfinals : beyondMeter (moveFinals t) = beyondMeter t :=
    forAll_keeps beyondMeter (fun _ => moveFinal) (fun _ => beyondMeter_moveFinal) t.meter.finals t
  rw [← hfinals]
  unfold issue
  dsimp only
  split
  · unfold dropRecord
    dsimp only
    split <;> rfl
  · exact beyondMeter_enterRing _ _

theorem beyondMeter_bootRecord (t : Tsu) : beyondMeter (bootRecord t) = beyondMeter t := by
  unfold bootRecord
  split
  · rfl
  · dsimp only
    refine (forAll_keeps beyondMeter (fun e t => issueTamper e (fldN e 32 64) t) (fun e t => beyondMeter_issue ..) _ _).trans ?_
    exact beyondMeter_issue ..

theorem bootRecord_ports (t : Tsu) : (bootRecord t).ports = t.ports := by
  change (beyondMeter (bootRecord t)).ports = _
  rw [beyondMeter_bootRecord]
  rfl

/-! ## The first good BLEAT (R94) -/

/-- The core of time once FIRST_BLEAT has given the die its hall time. -/
theorem firstBleat_time (pl : Plane) (ht : HT) (x : Stamp) (s : State) :
    let tc := (firstBleat pl ht x s).tsu.tc
    tc.state = .acquire ∧ tc.htValid = true ∧ tc.selPlane = some pl ∧
      tc.offset = bleatArrival (port s .tsu (planePort pl)) ht - htAddPs (BitVec.ofNat 80 (x.frc.toNat * 65536)) (8 * x.sub.toNat) ∧
      tc.rate = s.tsu.tc.rate := by
  unfold firstBleat
  dsimp only [onTsu]
  rw [tc_bootRecord]
  exact ⟨rfl, rfl, rfl, rfl, rfl⟩

theorem firstBleat_ports (pl : Plane) (ht : HT) (x : Stamp) (s : State) : (firstBleat pl ht x s).tsu.ports = s.tsu.ports := by
  unfold firstBleat
  dsimp only [onTsu]
  rw [bootRecord_ports]
  rfl

/-- A plane that is configured and UP is not lost as a BLEAT of a quality below 7 comes. -/
theorem planeLost_false {s : State} {pl : Plane} {b : BitVec 448} (hc : s.tsu.configured pl = true)
    (hup : (port s .tsu (planePort pl)).state = .up) (hsqc : s.tsu.tc.sqc pl ≠ 7)
    (hlast : (port s .tsu (planePort pl)).lastBleat = some (s.tsu.tc.frc.toNat, b)) : planeLost s pl = false := by
  have hfresh : bleatFresh s.tsu.tc.frc.toNat (port s .tsu (planePort pl)) = true := by
    rw [bleatFresh, hlast]
    exact decide_eq_true (by omega)
  simp [planeLost, hc, isUp, hup, hsqc, hfresh]

theorem sqc_setPlaneSqc {pl : Plane} {n : Nat} (h : n < 256) (s : State) : (setPlaneSqc pl n s).tsu.tc.sqc pl = n := by
  cases pl <;> exact Nat.mod_eq_of_lt h

theorem exec_bleat_die {p : Nat} {c : Cell} {x : Stamp} {s : State} (hp : p < 2) (hw : s.tsu.works = true)
    (h : arrives .tsu p 4 c s = true) (hdown : bleatUp c.body = false) :
    exec (.bleat .tsu p c x) s = .next (enterErrs (dieBleat (if p = 0 then .a else .b) c.body x
      (onPort .tsu p (fun y => { y with lastBleat := some (s.tsu.tc.frc.toNat, c.body) }) s.fresh))) := by
  have hside : ¬(bleatUp c.body = isChildSide s.fresh .tsu p) := by
    rw [hdown]
    exact Bool.false_ne_true
  refine (performOn_unretried (i := .bleat .tsu p c x) (d := .tsu) (p := p) (typ := 4) rfl (by decide) (decide_eq_true hp) hw h).trans ?_
  exact congrArg (fun u => Host.Outcome.next (enterErrs u)) (if_neg hside)

theorem planePort_of_lt {p : Nat} (h : p < 2) : planePort (if p = 0 then .a else .b) = p := by
  obtain rfl | rfl : p = 0 ∨ p = 1 := by omega
  · rfl
  · rfl

theorem bleat_gives_time {p : Nat} {c : Cell} {x : Stamp} {s : State} (hp : p < 2) (hw : s.tsu.works = true)
    (h : arrives .tsu p 4 c s = true) (hdown : bleatUp c.body = false) (hunset : s.tsu.tc.state = .unset)
    (hok : bleatOk c.body = true) (hsqc : bleatSqc c.body < 7) (hconf : s.tsu.configured (if p = 0 then .a else .b) = true) :
    ∃ t, exec (.bleat .tsu p c x) s = .next t ∧ t.fjz = s.fjz ∧ t.tsu.tc.state = .acquire ∧ t.tsu.tc.htValid = true ∧
      t.tsu.tc.selPlane = some (if p = 0 then .a else .b) ∧
      t.tsu.tc.offset = bleatArrival (port s .tsu p) (bleatHt c.body)
        - htAddPs (BitVec.ofNat 80 (x.frc.toNat * 65536)) (8 * x.sub.toNat) ∧
      t.tsu.tc.rate = s.tsu.tc.rate ∧ (port t .tsu p).lastBleat = some (s.tsu.tc.frc.toNat, c.body) := by
  have hplane := planePort_of_lt hp
  rw [exec_bleat_die hp hw h hdown]
  generalize (if p = 0 then Plane.a else Plane.b) = pl at hconf hplane ⊢
  subst hplane
  let heard (y : Port) : Port := { y with lastBleat := some (s.tsu.tc.frc.toNat, c.body) }
  let u := setPlaneSqc pl (bleatSqc c.body) (onPort .tsu (planePort pl) heard s.fresh)
  have hport : port u .tsu (planePort pl) = heard (port s .tsu (planePort pl)) := port_onPort_same .tsu (planePort pl) heard s.fresh
  have hlost : planeLost u pl = false := by
    refine planeLost_false (b := c.body) ?_ ?_ ?_ ?_
    · cases pl <;> exact hconf
    · rw [hport]
      exact (arrives_typ h).1
    · rw [sqc_setPlaneSqc (by omega)]
      omega
    · rw [hport]
      cases pl <;> rfl
  have hstate : u.tsu.tc.state = .unset := by cases pl <;> exact hunset
  have hfirst : dieBleat pl c.body x (onPort .tsu (planePort pl) heard s.fresh) = firstBleat pl (bleatHt c.body) x u :=
    (if_pos hstate).trans (if_pos ⟨hok, by rw [hlost]; rfl⟩)
  obtain ⟨hst, hvalid, hsel, hoff, hrate⟩ := firstBleat_time pl (bleatHt c.body) x u
  have hports := firstBleat_ports pl (bleatHt c.body) x u
  rw [hfirst]
  refine ⟨_, rfl, ?_, ?_⟩
  · rw [enterErrs_fjz, fjz_firstBleat]
    cases pl <;> rfl
  · rw [enterErrs_tc, port_enterErrs]
    refine ⟨hst, hvalid, hsel, ?_, ?_, ?_⟩
    · rw [hoff, hport]
      rfl
    · rw [hrate]
      cases pl <;> rfl
    · change ((firstBleat pl (bleatHt c.body) x u).tsu.ports.get {} (planePort pl)).lastBleat = _
      rw [hports]
      exact congrArg Port.lastBleat hport

/-! ## The loss of the planes (R113) -/

theorem wantedPlane_none {s : State} (ha : planeLost s .a = true) (hb : planeLost s .b = true) : wantedPlane s = none := by
  have hnone (pl : Plane) : (!planeLost s pl) = false := by cases pl <;> simp [ha, hb]
  have hfilter (o : Option Plane) : o.filter (fun pl => !planeLost s pl) = none := by
    cases o with
    | none => rfl
    | some pl => simp [Option.filter, hnone]
  simp only [wantedPlane, hfilter]
  simp [ha, hb]

theorem planeLost_both {s : State} {pl : Plane} (h : planeLost s pl = true) (ho : planeLost s (otherPlane pl) = true) :
    planeLost s .a = true ∧ planeLost s .b = true := by
  cases pl
  · exact ⟨h, ho⟩
  · exact ⟨ho, h⟩

theorem planeLost_silent {s : State} {pl : Plane} (h : bleatFresh s.tsu.tc.frc.toNat (port s .tsu (planePort pl)) = false) :
    planeLost s pl = true := by
  simp [planeLost, h]

/-- A die in NARROW whose planes are both lost runs free, and its herds go without it. -/
theorem reselect_runs_free {err : Int} {pl : Plane} {s : State} (hn : s.tsu.tc.state = .narrow) (hsel : s.tsu.tc.selPlane = some pl)
    (hlost : planeLost s .a = true ∧ planeLost s .b = true) : reselect err s = judgeBetter (departHerds byFreeRun (goTime .freeRun
      (onTc (fun tc => { tc with selPlane := none, betterSince := none }) s))) := by
  have hsteers : ¬(s.tsu.tc.state = .unset ∨ s.tsu.tc.state = .replayPinned) := by simp [hn]
  have hstate : (onTc (fun tc => { tc with selPlane := none, betterSince := none }) s).tsu.tc.state = .narrow := hn
  rw [reselect, if_neg hsteers, wantedPlane_none hlost.1 hlost.2, hsel]
  dsimp only [bothLost]
  rw [hstate]

theorem bleatTimeout_runs_free {pl : Plane} {s : State} (hw : s.tsu.works = true) (hn : s.tsu.tc.state = .narrow)
    (hsel : s.tsu.tc.selPlane = some pl) (hsilent : bleatFresh s.tsu.tc.frc.toNat (port s .tsu (planePort pl)) = false)
    (hother : planeLost s (otherPlane pl) = true) :
    ∃ t, exec (.bleatTimeout pl) s = .next t ∧ t.tsu.tc.state = .freeRun ∧ t.tsu.tc.selPlane = none ∧ t.tsu.fawn = true ∧
      t.tsu.tc.offset = s.tsu.tc.offset ∧ t.tsu.tc.rate = s.tsu.tc.rate ∧ t.fjz = s.fjz := by
  let u := goTime .freeRun (onTc (fun tc => { tc with selPlane := none, betterSince := none }) s.fresh)
  have hlost := planeLost_both (planeLost_silent hsilent) hother
  have hreselect : reselect 0 s.fresh = judgeBetter (departHerds byFreeRun u) :=
    reselect_runs_free (s := s.fresh) hn hsel hlost
  have hexec : exec (.bleatTimeout pl) s = .next (enterErrs (judgeBetter (departHerds byFreeRun u))) := by
    rw [← hreselect]
    change execBleatTimeout pl s = _
    refine (performOn_die hw).trans (congrArg (fun v => Host.Outcome.next (enterErrs v)) (if_neg ?_))
    exact ne_true_of_eq_false hsilent
  have htc : (departHerds byFreeRun u).tsu.tc = u.tsu.tc := tc_departHerds ..
  have hfawn : (enterErrs (judgeBetter (departHerds byFreeRun u))).tsu.fawn = true :=
    (enterErrs_keeps (·.tsu.fawn) (fun _ _ _ _ _ _ => rfl) (fun _ => rfl) _).trans (departHerds_fawn byFreeRun u)
  refine ⟨_, hexec, ?_, ?_, hfawn, ?_, ?_, ?_⟩
  · rw [enterErrs_tc]
    exact congrArg TimeCore.state htc
  · rw [enterErrs_tc]
    exact congrArg TimeCore.selPlane htc
  · rw [enterErrs_tc]
    exact (congrArg TimeCore.offset htc).trans rfl
  · rw [enterErrs_tc]
    exact (congrArg TimeCore.rate htc).trans rfl
  · rw [enterErrs_fjz, fjz_judgeBetter, fjz_departHerds, fjz_goTime]
    rfl

/-- Settles O34, clause by clause. -/
theorem bleatGivesAndKeepsTime : Obligations.BleatGivesAndKeepsTime :=
  ⟨fun _ _ _ => bleatSend_sends, fun _ _ _ _ => bleat_gives_time, fun _ _ => bleatTimeout_runs_free⟩

end Sys2Proof
end

section
/-! PROOFS. The choice of plane (O35). -/

namespace Sys2Proof

open Machine

/-! ## What the choice of plane leaves alone -/

/-- What is configured of the planes. -/
def planeSetting (tc : TimeCore) : U8 × U8 := (tc.forcePlane, tc.planeConfig)

section Reselect
variable {P : State → Prop} (htc : ∀ f u, (∀ tc, planeSetting (f tc) = planeSetting tc) → P u → P (onTc f u))
  (hgo : ∀ st u, P u → P (goTime st u)) (hdep : ∀ u, P u → P (departHerds byFreeRun u))
include htc hgo

theorem regainPlane_keeps {pl : Plane} {err : Int} {s : State} (h : P s) : P (regainPlane pl err s) := by
  have hsel := htc (fun tc => { tc with selPlane := some pl, betterSince := none, thetas := [], calib := [], planeOffset := 0,
                                        planeDrift := 0, offsetAtSwitch := none }) s (fun _ => rfl) h
  have hjump {u : State} (hu : P u) : P (goTime .narrow (onTc (fun tc => setRate 0 (jumpPhase (-err) tc)) u)) :=
    hgo _ _ (htc _ _ (fun _ => rfl) hu)
  unfold regainPlane
  dsimp only
  split
  · split
    · exact htc _ _ (fun _ => rfl) hsel
    · exact hjump hsel
  · exact hjump hsel
  · exact hsel

include hdep

theorem bothLost_keeps {s : State} (h : P s) : P (bothLost s) := by
  have hnone := htc (fun tc => { tc with selPlane := none, betterSince := none }) s (fun _ => rfl) h
  have hrun := hdep _ (hgo .freeRun _ hnone)
  unfold bothLost
  dsimp only
  split
  · exact hrun
  · exact hrun
  · exact hrun
  · split
    · exact htc _ _ (fun _ => rfl) (hgo _ _ hnone)
    · exact hrun
  · exact hnone

/-- What the core of time keeps of its setting, what each change of TIME_STATE keeps and each departure of a die that runs free, the
choice of plane keeps. -/
theorem reselect_keeps {err : Int} {s : State} (h : P s) : P (reselect err s) := by
  have hjudge (u : State) (hu : P u) : P (judgeBetter u) := by
    unfold judgeBetter
    dsimp only
    exact htc _ _ (fun _ => rfl) hu
  unfold reselect
  split
  · exact h
  · refine hjudge _ ?_
    split
    · exact regainPlane_keeps htc hgo h
    · split
      · exact h
      · exact htc _ _ (fun _ => rfl) h
    · exact bothLost_keeps htc hgo hdep h
    · exact h

end Reselect

theorem reselect_setting (err : Int) (s : State) : planeSetting (reselect err s).tsu.tc = planeSetting s.tsu.tc :=
  reselect_keeps (P := fun u => planeSetting u.tsu.tc = planeSetting s.tsu.tc) (fun _ _ hf hu => (hf _).trans hu) (fun _ _ hu => hu)
    (fun u hu => (congrArg planeSetting (tc_departHerds byFreeRun u)).trans hu) rfl

/-- With every context FREE no herd loses the die. -/
theorem departHerds_free {s : State} (h : s.tsu.held = []) (cause : Nat) : departHerds cause s = s := by
  rw [departHerds_eq, h]
  rfl

theorem reselect_ports {err : Int} {s : State} (h : s.tsu.held = []) : (reselect err s).tsu.ports = s.tsu.ports :=
  (reselect_keeps (P := fun u => u.tsu.ports = s.tsu.ports ∧ u.tsu.held = []) (fun _ _ _ hu => hu) (fun _ _ hu => hu)
    (fun _ hu => (departHerds_free hu.2 byFreeRun).symm ▸ hu) ⟨rfl, h⟩).1

/-! ## The better plane (R114) -/

/-- The unselected plane is the better one: it is remembered since when. -/
theorem judgeBetter_better {pl : Plane} {f : Nat} {s : State} (hsel : s.tsu.tc.selPlane = some pl)
    (hlost : planeLost s (otherPlane pl) = false) (hbetter : s.tsu.tc.effSqc (otherPlane pl) < s.tsu.tc.effSqc pl)
    (hsince : s.tsu.tc.betterSince = some f) : judgeBetter s = s := by
  have hsame : (fun tc : TimeCore => { tc with betterSince := some (tc.betterSince.getD tc.frc.toNat) }) s.tsu.tc = s.tsu.tc := by
    dsimp only
    rw [hsince, Option.getD_some, ← hsince]
  unfold judgeBetter
  rw [hsel]
  dsimp only
  rw [hlost, decide_eq_true hbetter]
  exact congrArg (fun tc => { s with tsu := { s.tsu with tc := tc } }) hsame

/-- In LOCKED, from a plane that is not demoted. -/
theorem switchPlane_locked {pl q : Plane} {s : State} (hlock : s.tsu.tc.state = .locked) (hsel : s.tsu.tc.selPlane = some pl)
    (hdem : s.tsu.tc.demoted pl = false) : switchPlane q s = onTc (fun tc => { tc with
      selPlane := some q, betterSince := none, thetas := [], calib := [], carried := tc.planeOffset, carriedFrac := 0,
      released := false, planeOffset := 0, planeDrift := 0, offsetAtSwitch := some 0 }) s := by
  refine congrArg (fun tc => { s with tsu := { s.tsu with tc := tc } }) ?_
  simp only [hlock, hsel, hdem, decide_true, Bool.and_false, Bool.not_true, Bool.false_eq_true, if_true, if_false]

theorem planeWtrExpiry_follows {pl : Plane} {f : Nat} {s : State} (hw : s.tsu.works = true) (hlock : s.tsu.tc.state = .locked)
    (hsel : s.tsu.tc.selPlane = some pl) (hforce : s.tsu.tc.forcePlane = 0) (hlost : planeLost s (otherPlane pl) = false)
    (hbetter : s.tsu.tc.effSqc (otherPlane pl) < s.tsu.tc.effSqc pl) (hsince : s.tsu.tc.betterSince = some f)
    (hlong : f + s.tsu.tc.planeWtrS.toNat * 1000000000 ≤ s.tsu.tc.frc.toNat) (hdem : s.tsu.tc.demoted pl = false) :
    exec .planeWtrExpiry s = .next (onTc (fun tc => { tc with
      selPlane := some (otherPlane pl), betterSince := none, thetas := [], calib := [], carried := tc.planeOffset, carriedFrac := 0,
      released := false, planeOffset := 0, planeDrift := 0, offsetAtSwitch := some 0 }) s.fresh) := by
  change execPlaneWtrExpiry s = _
  refine (performOn_die hw).trans ?_
  dsimp only
  rw [judgeBetter_better (s := s.fresh) hsel hlost hbetter hsince, fresh_tsu, hsince, hsel]
  dsimp only
  rw [if_neg, switchPlane_locked (s := s.fresh) hlock hsel hdem, enterErrs_nil rfl]
  rw [hforce, hlock, not_or, not_or]
  exact ⟨by cases pl <;> decide, by decide, Nat.not_lt.mpr hlong⟩

/-! ## FORCE_PLANE (R114) -/

theorem planeLost_congr {s u : State} {pl : Plane} (hc : u.tsu.tc.planeConfig = s.tsu.tc.planeConfig)
    (hq : u.tsu.tc.sqc pl = s.tsu.tc.sqc pl) (hf : u.tsu.tc.frc = s.tsu.tc.frc)
    (hs : (port u .tsu (planePort pl)).state = (port s .tsu (planePort pl)).state)
    (hl : (port u .tsu (planePort pl)).lastBleat = (port s .tsu (planePort pl)).lastBleat) : planeLost u pl = planeLost s pl := by
  have hconf : u.tsu.configured pl = s.tsu.configured pl := by cases pl <;> simp only [Tsu.configured, hc]
  simp only [planeLost, isUp, bleatFresh, hconf, hq, hf, hs, hl]

theorem planeLost_taken (pl : Plane) (q : Req) (s : State) : planeLost (taken .tsu q s) pl = planeLost s pl :=
  planeLost_congr (by rw [taken_tc]) (by rw [taken_tc]) (by rw [taken_tc])
    (taken_port_keeps Port.state (fun _ _ => rfl) .tsu .tsu (planePort pl) q s)
    (taken_port_keeps Port.lastBleat (fun _ _ => rfl) .tsu .tsu (planePort pl) q s)

theorem wantedPlane_forced {s : State} (hv : s.tsu.tc.forcePlane = 1) (hlost : planeLost s .a = false) : wantedPlane s = some .a := by
  have hkept : (some Plane.a).filter (fun pl => !planeLost s pl) = some .a := by simp [Option.filter, hlost]
  simp only [wantedPlane, hv, if_true, hkept]

/-- A forced plane that is not lost is followed at once, without a step. -/
theorem reselect_forced {err : Int} {s : State} (hlock : s.tsu.tc.state = .locked) (hsel : s.tsu.tc.selPlane.isSome = true)
    (hv : s.tsu.tc.forcePlane = 1) (hlost : planeLost s .a = false) :
    (reselect err s).tsu.tc.selPlane = some .a ∧ (reselect err s).tsu.tc.offset = s.tsu.tc.offset ∧
      (reselect err s).tsu.tc.rate = s.tsu.tc.rate := by
  have hsteers : ¬(s.tsu.tc.state = .unset ∨ s.tsu.tc.state = .replayPinned) := by simp [hlock]
  obtain ⟨p, hp⟩ := Option.isSome_iff_exists.mp hsel
  rw [reselect, if_neg hsteers, wantedPlane_forced hv hlost, hp]
  dsimp only
  split
  · next h => exact ⟨h ▸ hp, rfl, rfl⟩
  · exact ⟨rfl, rfl, rfl⟩

theorem fjz_answered (q : Req) (i j st : Nat) (s : State) : (answered .tsu q i j st s).fjz = s.fjz := by simp [answered]

/-- FORCE_PLANE is taken where its plane is configured. -/
theorem exec_forcePlane {q : Req} {v : U8} {s : State} (h : admits .tsu q 0x4800 4 .rws [v] s = true) (hv : v.toNat ≤ 2)
    (ha : v = 1 → s.tsu.configured .a = true) (hb : v = 2 → s.tsu.configured .b = true) :
    exec (.forcePlane q v) s = .next (enterErrs (answered .tsu q 0x4800 4 stOk
      (reselect 0 (onTc (fun tc => { tc with forcePlane := v }) (taken .tsu q s))))) := by
  have hconf (pl : Plane) : (heard q s).tsu.configured pl = s.tsu.configured pl := by cases pl <;> simp [Tsu.configured]
  have hrange : (wForcePlane v).range (heard q s) = true := by
    change (decide (v.toNat ≤ 2) && (decide (v ≠ 1) || (heard q s).tsu.configured .a) &&
      (decide (v ≠ 2) || (heard q s).tsu.configured .b)) = true
    rw [hconf, hconf, decide_eq_true hv, Bool.true_and, Bool.and_eq_true, Bool.or_eq_true, Bool.or_eq_true, decide_eq_true_eq,
      decide_eq_true_eq]
    exact ⟨Decidable.not_or_of_imp ha, Decidable.not_or_of_imp hb⟩
  exact agentWrite_takes (c := .forcePlane q v) rfl (op := wForcePlane v) h rfl (.inl rfl) rfl rfl hrange rfl rfl rfl

theorem forcePlane_follows {q : Req} {v : U8} {s : State} (h : admits .tsu q 0x4800 4 .rws [v] s = true) (hv : v.toNat ≤ 2)
    (ha : v = 1 → s.tsu.configured .a = true) (hb : v = 2 → s.tsu.configured .b = true) :
    ∃ t, exec (.forcePlane q v) s = .next t ∧ t.tsu.tc.forcePlane = v ∧ t.fjz = s.fjz ∧
      (s.tsu.tc.state = .locked → s.tsu.tc.selPlane.isSome = true → v = 1 → planeLost s .a = false →
        t.tsu.tc.selPlane = some .a ∧ t.tsu.tc.offset = s.tsu.tc.offset ∧ t.tsu.tc.rate = s.tsu.tc.rate) := by
  let u := onTc (fun tc => { tc with forcePlane := v }) (taken .tsu q s)
  have htc : u.tsu.tc = { s.tsu.tc with forcePlane := v } :=
    congrArg (fun tc : TimeCore => { tc with forcePlane := v }) (taken_tc .tsu q s)
  refine ⟨_, exec_forcePlane h hv ha hb, ?_, ?_, fun hlock hsel hone hlost => ?_⟩
  · rw [enterErrs_tc, answered_tc]
    exact (congrArg Prod.fst (reselect_setting 0 u)).trans (congrArg TimeCore.forcePlane htc)
  · rw [enterErrs_fjz, fjz_answered, fjz_reselect]
    exact taken_fjz q s
  · have hlost' : planeLost u .a = false := (planeLost_taken .a q s).trans hlost
    obtain ⟨hs, ho, hr⟩ := reselect_forced (err := 0) (s := u) (by rw [htc]; exact hlock) (by rw [htc]; exact hsel)
      (by rw [htc]; exact hone) hlost'
    rw [enterErrs_tc, answered_tc]
    exact ⟨hs, ho.trans (by rw [htc]), hr.trans (by rw [htc])⟩

/-! ## PLANE_DRIFT_CHECK (R115, R260) -/

/-- The seconds of high and of low drift are counted. -/
def countDrift (limit drift : Nat) (tc : TimeCore) : TimeCore :=
  { tc with driftHigh := if limit ≤ drift then tc.driftHigh + 1 else 0, driftLow := if 2 * drift ≤ limit then tc.driftLow + 1 else 0 }

/-- The planes are judged by the seconds counted: ten of high drift demote one, sixty of low drift clear both. -/
def judgeCounted (d : Int) (s : State) : State :=
  let s := if s.tsu.tc.driftHigh = 10 then judgeDrift d s.tsu.tc.latMedian.toInt s else s
  judgeBetter (if s.tsu.tc.driftLow = 60 then onTc (fun tc => { tc with demotedA := false, demotedB := false }) s else s)

theorem judgeCounted_early (d : Int) {s : State} (hhigh : s.tsu.tc.driftHigh ≠ 10) (hlow : s.tsu.tc.driftLow ≠ 60) :
    judgeCounted d s = judgeBetter s := by
  rw [judgeCounted, if_neg hhigh, if_neg hlow]

theorem counted_lt {c : Prop} [Decidable c] {n k : Nat} (h : n + 1 < k) : (if c then n + 1 else 0) < k := by
  split <;> omega

theorem planeDriftCheck_single {s : State} (hw : s.tsu.works = true) (hlock : s.tsu.tc.state = .locked) (hone : bothPlanes s = false) :
    exec .planeDriftCheck s = .next (onTsu takeMedian s.fresh) := by
  have hskip : (onTsu takeMedian s.fresh).tsu.tc.state ≠ .locked ∨ (!bothPlanes (onTsu takeMedian s.fresh)) = true :=
    .inr (by rw [show bothPlanes (onTsu takeMedian s.fresh) = bothPlanes s from rfl, hone]; rfl)
  change execPlaneDriftCheck s = _
  refine (performOn_die hw).trans ?_
  dsimp only
  rw [if_pos (show s.fresh.tsu.tc.state = .locked from hlock), if_pos hskip, enterErrs_nil rfl]

/-- The judgement of the better plane moves one field of the core of time. -/
theorem judgeBetter_eq (s : State) : ∃ since, judgeBetter s = onTc (fun tc => { tc with betterSince := since }) s := ⟨_, rfl⟩

/-- What the count of the seconds may move of the die. -/
def drifts (t : Tsu) : ErrRing × Nat × Nat × Bool × Bool × HT :=
  (t.errs, t.tc.driftHigh, t.tc.driftLow, t.tc.demotedA, t.tc.demotedB, t.tc.offset)

theorem drifts_counted (limit drift : Nat) (s : State) : drifts (judgeBetter (onTc (countDrift limit drift) (onTsu takeMedian s))).tsu =
    (s.tsu.errs, if limit ≤ drift then s.tsu.tc.driftHigh + 1 else 0, if 2 * drift ≤ limit then s.tsu.tc.driftLow + 1 else 0,
      s.tsu.tc.demotedA, s.tsu.tc.demotedB, s.tsu.tc.offset) := by
  obtain ⟨since, hsince⟩ := judgeBetter_eq (onTc (countDrift limit drift) (onTsu takeMedian s))
  rw [hsince]
  simp only [drifts, onTc, onTsu, countDrift, takeMedian]

/-- PLANE_DRIFT_CHECK while both planes are there to be compared. -/
theorem exec_planeDriftCheck_both {s : State} (hw : s.tsu.works = true) (hlock : s.tsu.tc.state = .locked) (hboth : bothPlanes s = true) :
    exec .planeDriftCheck s = .next (enterErrs (judgeCounted s.tsu.tc.planeDrift.toInt
      (onTc (countDrift s.tsu.tc.driftDemote.toNat s.tsu.tc.planeDrift.toInt.natAbs) (onTsu takeMedian s.fresh)))) := by
  have hgo : ¬((onTsu takeMedian s.fresh).tsu.tc.state ≠ .locked ∨ (!bothPlanes (onTsu takeMedian s.fresh)) = true) := by
    rw [show bothPlanes (onTsu takeMedian s.fresh) = bothPlanes s from rfl, hboth]
    simpa [onTsu, takeMedian] using hlock
  change execPlaneDriftCheck s = _
  refine (performOn_die hw).trans ?_
  dsimp only
  rw [if_pos (show s.fresh.tsu.tc.state = .locked from hlock), if_neg hgo]
  rfl

theorem planeDriftCheck_counts {s : State} (hw : s.tsu.works = true) (hlock : s.tsu.tc.state = .locked) (hboth : bothPlanes s = true)
    (hhigh : s.tsu.tc.driftHigh < 9) (hlow : s.tsu.tc.driftLow < 59) :
    exec .planeDriftCheck s = .next (judgeBetter
      (onTc (countDrift s.tsu.tc.driftDemote.toNat s.tsu.tc.planeDrift.toInt.natAbs) (onTsu takeMedian s.fresh))) := by
  have hten := (counted_lt (c := s.tsu.tc.driftDemote.toNat ≤ s.tsu.tc.planeDrift.toInt.natAbs) (Nat.succ_lt_succ hhigh)).ne
  have hsixty := (counted_lt (c := 2 * s.tsu.tc.planeDrift.toInt.natAbs ≤ s.tsu.tc.driftDemote.toNat) (Nat.succ_lt_succ hlow)).ne
  rw [exec_planeDriftCheck_both hw hlock hboth, judgeCounted_early _ hten hsixty, enterErrs_nil rfl]

/-! ## PLANE_CONFIG (R351) -/

/-- A port that stands DISABLED trains where it is enabled and free. -/
theorem actEnable_of_disabled {d : Dev} {p : Nat} {s : State} (h : (port s d p).state = .disabled) :
    actEnable d p s = if (port s d p).enable && portFree s d p then startTrain d p s else s := by
  simp [actEnable, h]

/-- How far the link of each port of the die is. -/
def linkStates (s : State) (p : Nat) : PortState := (port s .tsu p).state

theorem linkStates_onPort {f : Port → Port} (hf : ∀ x, (f x).state = x.state) (r : Nat) (s : State) :
    linkStates (onPort .tsu r f s) = linkStates s := by
  funext p
  by_cases hp : p = r
  · subst hp
    exact (congrArg Port.state (port_onPort_same ..)).trans (hf _)
  · exact congrArg Port.state (port_onPort_other .tsu f s hp)

theorem linkStates_congr {s u : State} (h : u.tsu.ports = s.tsu.ports) : linkStates u = linkStates s := by
  funext p
  change (u.tsu.ports.get {} p).state = (s.tsu.ports.get {} p).state
  rw [h]

theorem linkStates_enterErrs (s : State) : linkStates (enterErrs s) = linkStates s := linkStates_congr (enterErrs_ports s)

theorem linkStates_sendOn (r : Nat) (b : Bool) (c : Cell) (s : State) : linkStates (sendOn .tsu r b c s) = linkStates s := by
  unfold sendOn
  dsimp only
  split
  · rfl
  split
  · rfl
  split
  · rfl
  split
  · exact linkStates_onPort (by exact fun _ => rfl) r s
  · exact linkStates_onPort (by exact fun _ => rfl) r s

theorem linkStates_sendMessage (r typ addr : Nat) (m : Bytes) (s : State) :
    linkStates (sendMessage .tsu r typ addr m s) = linkStates s := by
  unfold sendMessage
  dsimp only
  split
  · rfl
  · rw [forAll_keeps linkStates (send .tsu r) (fun c u => linkStates_sendOn r false c u)]
    exact linkStates_onPort (by exact fun _ => rfl) r s

/-- An answer takes no link up or down. -/
theorem linkStates_answered (q : Req) (i j st : Nat) (s : State) : linkStates (answered .tsu q i j st s) = linkStates s := by
  unfold answered deliverRsp
  dsimp only
  split
  · rfl
  · exact linkStates_sendMessage ..
  · exact linkStates_sendMessage ..
  · rfl

theorem planeOffsetRelease_releases {q : Req} {s : State} (h : admits .tsu q 0x4800 8 .wo [1] s = true) :
    exec (.planeOffsetRelease q 1) s = .next (answered .tsu q 0x4800 8 stOk
      (onTc (fun tc => { tc with released := true }) (taken .tsu q s))) := by
  change execPlaneOffsetRelease q 1 s = _
  exact boolCommand_takes rfl h fun _ => rfl

theorem heard_allFree (q : Req) (s : State) : (heard q s).tsu.allFree = s.tsu.allFree :=
  heard_keeps (·.tsu.allFree) (fun _ _ _ => rfl) q s

theorem planeConfig_refused {q : Req} {v : U8} {s : State} (h : admits .tsu q 0x4800 0x0A .rws [v] s = true)
    (hbusy : s.tsu.allFree = false) :
    exec (.planeConfig q v) s = .next (answered .tsu q 0x4800 0x0A stState (taken .tsu q s)) := by
  have hready : (wPlaneConfig v).ready (heard q s) = false := (heard_allFree q s).trans hbusy
  refine (agentWrite_refuses (c := .planeConfig q v) rfl (op := wPlaneConfig v) h rfl (.inl rfl) rfl (.inl ⟨hready, rfl⟩)).trans ?_
  rw [enterErrs_nil (by simp [wPlaneConfig])]
  rfl

/-- What PLANE_CONFIG writes in the core of time. -/
def configuredAs (v : U8) (tc : TimeCore) : TimeCore :=
  { tc with planeConfig := v, planeOffset := if v = 0 then tc.planeOffset else 0, planeDrift := if v = 0 then tc.planeDrift else 0
            offsetAtSwitch := if v = 0 then tc.offsetAtSwitch else none }

/-- The ports of both planes act on a configuration of the planes. -/
def portsAct (s : State) : State := actEnable .tsu 1 (actEnable .tsu 0 s)

theorem exec_planeConfig {q : Req} {v : U8} {s : State} (h : admits .tsu q 0x4800 0x0A .rws [v] s = true) (hv : v.toNat ≤ 2)
    (hfree : s.tsu.allFree = true) : exec (.planeConfig q v) s = .next (enterErrs (answered .tsu q 0x4800 0x0A stOk
      (reselect 0 (portsAct (onTc (configuredAs v) (taken .tsu q s)))))) :=
  agentWrite_takes (c := .planeConfig q v) rfl (op := wPlaneConfig v) h rfl (.inl rfl) rfl ((heard_allFree q s).trans hfree)
    (decide_eq_true hv) rfl rfl rfl

/-- A port that stands DISABLED stays so unless it is enabled and free, and the other ports and the rest of the die stay. -/
theorem actEnable_disabled {p : Nat} {s : State} (h : linkStates s p = .disabled) :
    (linkStates (actEnable .tsu p s) p = .disabled ↔ ¬((port s .tsu p).enable = true ∧ portFree s .tsu p = true)) ∧
      (∀ r, r ≠ p → port (actEnable .tsu p s) .tsu r = port s .tsu r) ∧
      ∃ ports, actEnable .tsu p s = { s with tsu := { s.tsu with ports := ports } } := by
  rw [actEnable_of_disabled h]
  split
  · next hact =>
    rw [Bool.and_eq_true] at hact
    have htrain : linkStates (startTrain .tsu p s) p = .train := congrArg Port.state (port_onPort_same ..)
    exact ⟨by simp [htrain, hact], fun r hr => port_onPort_other .tsu _ s hr, _, rfl⟩
  · next hact =>
    rw [Bool.and_eq_true] at hact
    exact ⟨iff_of_true h hact, fun _ _ => rfl, s.tsu.ports, rfl⟩

/-- Both ports act so. -/
theorem portsAct_of_disabled {s : State} (h0 : linkStates s 0 = .disabled) (h1 : linkStates s 1 = .disabled) :
    (linkStates (portsAct s) 0 = .disabled ↔ ¬((port s .tsu 0).enable = true ∧ portFree s .tsu 0 = true)) ∧
      (linkStates (portsAct s) 1 = .disabled ↔ ¬((port s .tsu 1).enable = true ∧ portFree s .tsu 1 = true)) ∧
      ∃ ports, portsAct s = { s with tsu := { s.tsu with ports := ports } } := by
  obtain ⟨hfirst, hother, ports, hports⟩ := actEnable_disabled h0
  have hone := hother 1 (by decide)
  have hfree : portFree (actEnable .tsu 0 s) .tsu 1 = portFree s .tsu 1 := by rw [hports]; rfl
  obtain ⟨hsecond, hzero, ports', hports'⟩ := actEnable_disabled (p := 1) ((congrArg Port.state hone).trans h1)
  rw [hone, hfree] at hsecond
  refine ⟨?_, hsecond, ports', ?_⟩
  · rw [← hfirst, portsAct, linkStates, hzero 0 (by decide)]
    rfl
  · rw [portsAct, hports', hports]

theorem planeConfig_acts {q : Req} {v : U8} {s : State} (h : admits .tsu q 0x4800 0x0A .rws [v] s = true) (hv : v.toNat ≤ 2)
    (hfree : s.tsu.allFree = true) (hrun : s.tsu.phase = .run) (h0 : (port s .tsu 0).state = .disabled)
    (h1 : (port s .tsu 1).state = .disabled) :
    ∃ t, exec (.planeConfig q v) s = .next t ∧ t.tsu.tc.planeConfig = v ∧ t.fjz = s.fjz ∧
      ((port t .tsu 0).state = .disabled ↔ ((port s .tsu 0).enable = false ∨ v = 2)) ∧
      ((port t .tsu 1).state = .disabled ↔ ((port s .tsu 1).enable = false ∨ v = 1)) := by
  let u := onTc (configuredAs v) (taken .tsu q s)
  have hport {γ : Type} (w : Port → γ) (hw : ∀ x n, w { x with lseqRx := n } = w x) (p : Nat) :
      w (port u .tsu p) = w (port s .tsu p) := taken_port_keeps w hw .tsu .tsu p q s
  have hphase : u.tsu.phase = .run := (taken_keeps (d := .tsu) (·.tsu.phase) (fun _ _ _ => rfl) (fun _ _ => rfl) q s).trans hrun
  have hworks : u.tsu.works = true := by simp [Tsu.works, hphase]
  have hheld : u.tsu.held = [] := by
    refine Eq.trans ?_ (List.isEmpty_iff.mp hfree)
    exact congrArg (fun hs : Tbl Herd => (hs.filter fun e => decide (e.2.state ≠ .free)).map (·.1)) (taken_herds .tsu q s)
  obtain ⟨hzero, hone, ports, hports⟩ := portsAct_of_disabled (s := u) ((hport Port.state (fun _ _ => rfl) 0).trans h0)
    ((hport Port.state (fun _ _ => rfl) 1).trans h1)
  have hlinks : linkStates (enterErrs (answered .tsu q 0x4800 0x0A stOk (reselect 0 (portsAct u)))) = linkStates (portsAct u) := by
    have hkept : (reselect 0 (portsAct u)).tsu.ports = (portsAct u).tsu.ports := reselect_ports (by rw [hports]; exact hheld)
    rw [linkStates_enterErrs, linkStates_answered, linkStates_congr hkept]
  have hconf0 : portFree u .tsu 0 = decide (v ≠ 2) := by
    rw [portFree, hworks, Bool.true_and]
    rfl
  have hconf1 : portFree u .tsu 1 = decide (v ≠ 1) := by
    rw [portFree, hworks, Bool.true_and]
    rfl
  refine ⟨_, exec_planeConfig h hv hfree, ?_, ?_, ?_, ?_⟩
  · rw [enterErrs_tc, answered_tc]
    refine (congrArg Prod.snd (reselect_setting 0 (portsAct u))).trans ?_
    rw [hports]
    rfl
  · rw [enterErrs_fjz, fjz_answered, fjz_reselect, hports]
    exact taken_fjz q s
  · change linkStates (enterErrs _) 0 = .disabled ↔ _
    rw [hlinks, hzero, hport Port.enable (fun _ _ => rfl), hconf0]
    simp [Decidable.imp_iff_not_or]
  · change linkStates (enterErrs _) 1 = .disabled ↔ _
    rw [hlinks, hone, hport Port.enable (fun _ _ => rfl), hconf1]
    simp [Decidable.imp_iff_not_or]

/-- Settles O35, command by command. -/
theorem choiceOfPlane : Obligations.ChoiceOfPlane := by
  refine ⟨fun _ _ _ => planeWtrExpiry_follows, fun _ _ _ => forcePlane_follows, fun _ => planeDriftCheck_single,
    fun s hw hlock hboth hhigh hlow => ⟨_, planeDriftCheck_counts hw hlock hboth hhigh hlow, ?_⟩, fun _ _ => planeOffsetRelease_releases, fun _ _ _ h hv => ⟨planeConfig_refused h, planeConfig_acts h hv⟩⟩
  have hcounted := drifts_counted s.tsu.tc.driftDemote.toNat s.tsu.tc.planeDrift.toInt.natAbs s.fresh
  simp only [drifts, Prod.mk.injEq] at hcounted
  obtain ⟨herrs, hcore⟩ := hcounted
  exact ⟨herrs, fjz_judgeBetter _, hcore⟩

end Sys2Proof
end

section
/-! PROOFS. No command touches the queue of waiting commands, first part: effects and writes that leave the queue (log 1). -/

namespace Sys2Proof.Machine

/-! ## Effects -/

/-- An effect that leaves the queue of waiting commands. -/
def keepsQueue (f : State → State) : Prop := ∀ u, (f u).pending = u.pending

theorem pending_of_still {s t : State} (h : still t = still s) : t.pending = s.pending := congrArg Still.pending h

theorem keepsQueue_of_still {f : State → State} (h : ∀ u, still (f u) = still u) : keepsQueue f := fun u => pending_of_still (h u)

theorem keepsQueue_works {d : Dev} {f : State → State} (hf : keepsQueue f) : keepsQueue fun u => if partWorks u d then f u else u := by
  intro u
  dsimp only
  split
  · exact hf u
  · rfl

theorem keepsQueue_inTurn {c : Instr} {f : State → State} (hf : keepsQueue f) : keepsQueue (inTurn c f) := by
  intro u
  unfold inTurn
  split
  · rfl
  · exact hf u

/-! ## Writes -/

/-- Whatever becomes of a write, the queue stays. -/
def WriteOp.KeepsQueue (op : WriteOp) : Prop := keepsQueue op.apply ∧ keepsQueue op.accept ∧ keepsQueue op.refuse

@[simp] theorem keepsQueue_of_keeps {op : WriteOp} (hk : op.Keeps) : op.KeepsQueue := by
  obtain ⟨happly, haccept, hrefuse⟩ := hk
  exact ⟨keepsQueue_of_still happly, keepsQueue_of_still haccept, keepsQueue_of_still hrefuse⟩

@[simp] theorem keepsQueue_wBistStart (v : U8) (bankBytes : Nat) : (wBistStart v bankBytes).KeepsQueue :=
  ⟨fun _ => rfl, fun _ => rfl, fun _ => rfl⟩

theorem pending_breakSeal (cause : Nat) (s : State) : (breakSeal cause s).pending = s.pending :=
  (pending_of_still (still_raiseMeter ..)).trans rfl

/-- A life-cycle advance blows its fuse in the agent, and may make the key or break the seal (R344). -/
theorem keepsQueue_lcStart (d : Dev) (target : Nat) : keepsQueue (lcStart d target) := by
  intro u
  cases d with
  | fjz => rfl
  | tsu =>
    simp [lcStart, apply_ite State.pending, pending_breakSeal, pending_of_still (still_makeKey _)]

@[simp] theorem keepsQueue_wLcAdvance (d : Dev) (q : Req) (v : Bytes) : (wLcAdvance d q v).KeepsQueue :=
  ⟨keepsQueue_lcStart d _, fun _ => rfl, fun _ => rfl⟩

@[simp] theorem keepsQueue_wSeal (v : BitVec 192) : (wSeal v).KeepsQueue :=
  ⟨fun u => by simp [wSeal], fun _ => rfl, fun u => pending_of_still (by simp [wSeal])⟩

@[simp] theorem keepsQueue_wUnseal (v : U8) : (wUnseal v).KeepsQueue := by
  refine ⟨fun u => ?_, fun _ => rfl, fun u => pending_of_still (by simp [wUnseal])⟩
  simp only [wUnseal, boolCommand]
  split
  · exact pending_breakSeal 1 u
  · rfl

/-! ## Registers -/

section Registers

variable {index sub n : Nat} {access : Access} {v : Bytes} {ok : Nat → Bool}

@[simp] theorem keepsQueue_reg {f : Nat → State → State} :
    (reg index sub access n v ok f).KeepsQueue ↔ ∀ u, (f (ofLe v) u).pending = u.pending :=
  ⟨fun h => h.1, fun h => ⟨h, fun _ => rfl, fun _ => rfl⟩⟩

/-- SQC_ASSIGNED of a candidate, which acts at once where the candidate gives frequency alone. -/
@[simp] theorem pending_withAdoption_actReceived (c : Nat) (s : State) : (withAdoption (actReceived c) s).pending = s.pending :=
  pending_of_still (by simp)

/-- What becomes of a write is told by its effect, its acceptance and its refusal alone. -/
@[simp] theorem keepsQueue_withPresent (op : WriteOp) (g : State → Bool) :
    ({ op with present := g } : WriteOp).KeepsQueue ↔ op.KeepsQueue := Iff.rfl
@[simp] theorem keepsQueue_withRange (op : WriteOp) (g : State → Bool) :
    ({ op with range := g } : WriteOp).KeepsQueue ↔ op.KeepsQueue := Iff.rfl
@[simp] theorem keepsQueue_regWhen {f : Nat → State → State} {ready : State → Bool} :
    (regWhen index sub access n v ready ok f).KeepsQueue ↔ (reg index sub access n v ok f).KeepsQueue := Iff.rfl
theorem keepsQueue_withBytes (op : WriteOp) (b : Bytes) (w : Bool) :
    ({ op with bytes := b, whole := w } : WriteOp).KeepsQueue ↔ op.KeepsQueue := Iff.rfl

end Registers

end Sys2Proof.Machine
end

section
/-! PROOFS. No command touches the queue of waiting commands, second part: the write of every object. -/

namespace Sys2Proof.Machine

/-! ## The write of every object (Table 12.7) -/

/-- Every write that a row of the table gives. -/
def rowsKeepQueue (o : Option WriteOp) : Prop := ∀ op ∈ o, op.KeepsQueue

@[simp] theorem rowsKeepQueue_none : rowsKeepQueue none := by simp [rowsKeepQueue]
@[simp] theorem rowsKeepQueue_some (op : WriteOp) : rowsKeepQueue (some op) ↔ op.KeepsQueue := by simp [rowsKeepQueue]
theorem rowsKeepQueue_ite {c : Prop} [Decidable c] {a b : Option WriteOp} (ha : rowsKeepQueue a) (hb : rowsKeepQueue b) :
    rowsKeepQueue (if c then a else b) := by
  split
  · exact ha
  · exact hb
@[simp] theorem rowsKeepQueue_map {α : Type} (o : Option α) (f : α → WriteOp) (h : ∀ a, (f a).KeepsQueue) :
    rowsKeepQueue (o.map f) := by
  cases o <;> simp [h]

@[simp] theorem rowsKeepQueue_writeNetwork (j : Nat) (v : Bytes) : rowsKeepQueue (writeNetwork j v) := by
  unfold writeNetwork
  repeat' split
  all_goals simp

@[simp] theorem rowsKeepQueue_writeWorld (d : Dev) (s : State) (q : Req) (j : Nat) (v : Bytes) : rowsKeepQueue (writeWorld d s q j v) := by
  unfold writeWorld
  repeat' split
  all_goals simp

@[simp] theorem rowsKeepQueue_writeLife (d : Dev) (s : State) (q : Req) (i j : Nat) (v : Bytes) : rowsKeepQueue
    (writeLife d s q i j v) := by
  unfold writeLife
  repeat' split
  all_goals simp

@[simp] theorem rowsKeepQueue_writeTime (i j : Nat) (v : Bytes) : rowsKeepQueue (writeTime i j v) := by
  unfold writeTime
  repeat' apply rowsKeepQueue_ite
  all_goals simp

@[simp] theorem rowsKeepQueue_writePort (d : Dev) (p j : Nat) (v : Bytes) : rowsKeepQueue (writePort d p j v) := by
  unfold writePort
  repeat' split
  all_goals simp

@[simp] theorem rowsKeepQueue_writeTaps (i j : Nat) (v : Bytes) : rowsKeepQueue (writeTaps i j v) := by
  unfold writeTaps
  repeat' split
  all_goals simp

@[simp] theorem rowsKeepQueue_writeCand (c j : Nat) (v : Bytes) : rowsKeepQueue (writeCand c j v) := by
  unfold writeCand
  dsimp only
  repeat' split
  all_goals simp [apply_ite State.pending]

@[simp] theorem rowsKeepQueue_writeLock (j : Nat) (v : Bytes) : rowsKeepQueue (writeLock j v) := by
  unfold writeLock
  dsimp only
  repeat' split
  all_goals simp

@[simp] theorem rowsKeepQueue_writeOcxo (j : Nat) (v : Bytes) : rowsKeepQueue (writeOcxo j v) := by
  unfold writeOcxo
  repeat' split
  all_goals simp

@[simp] theorem rowsKeepQueue_writeEth (e j : Nat) (v : Bytes) : rowsKeepQueue (writeEth e j v) := by
  unfold writeEth
  dsimp only
  repeat' split
  all_goals simp

@[simp] theorem rowsKeepQueue_writePlane (j : Nat) (v : Bytes) : rowsKeepQueue (writePlane j v) := by
  unfold writePlane
  repeat' split
  all_goals simp

@[simp] theorem rowsKeepQueue_writeHerd (q : Req) (h j : Nat) (v : Bytes) : rowsKeepQueue (writeHerd q h j v) := by
  unfold writeHerd
  dsimp only
  repeat' split
  all_goals simp

@[simp] theorem rowsKeepQueue_writeSwap (q : Req) (h j : Nat) (v : Bytes) : rowsKeepQueue (writeSwap q h j v) := by
  unfold writeSwap
  repeat' split
  all_goals simp

@[simp] theorem rowsKeepQueue_writeStep (s : State) (q : Req) (i j : Nat) (v : Bytes) : rowsKeepQueue (writeStep s q i j v) := by
  unfold writeStep
  repeat' split
  all_goals simp

@[simp] theorem rowsKeepQueue_writeTemplate (d : Dev) (s : State) (q : Req) (j : Nat) (v : Bytes) : rowsKeepQueue
    (writeTemplate d s q j v) := by
  unfold writeTemplate
  dsimp only
  repeat' split
  all_goals simp

@[simp] theorem rowsKeepQueue_writeLeafHealth (j : Nat) (v : Bytes) : rowsKeepQueue (writeLeafHealth j v) := by
  unfold writeLeafHealth
  repeat' split
  all_goals simp

@[simp] theorem rowsKeepQueue_writeSteward (s : State) (q : Req) (j : Nat) (v : Bytes) : rowsKeepQueue (writeSteward s q j v) := by
  unfold writeSteward
  dsimp only
  repeat' split
  all_goals simp

@[simp] theorem rowsKeepQueue_writeWindow (j : Nat) (v : Bytes) : rowsKeepQueue (writeWindow j v) := by
  unfold writeWindow
  repeat' split
  all_goals simp

@[simp] theorem rowsKeepQueue_writeReplay (i j : Nat) (v : Bytes) : rowsKeepQueue (writeReplay i j v) := by
  unfold writeReplay
  repeat' split
  all_goals simp

@[simp] theorem rowsKeepQueue_writeMeter (i j : Nat) (v : Bytes) : rowsKeepQueue (writeMeter i j v) := by
  unfold writeMeter
  repeat' split
  all_goals simp

@[simp] theorem rowsKeepQueue_writeCommon (d : Dev) (s : State) (q : Req) (i j : Nat) (v : Bytes) : rowsKeepQueue
    (writeCommon d s q i j v) := by
  unfold writeCommon
  repeat' split
  all_goals simp

@[simp] theorem rowsKeepQueue_writeTsu (s : State) (q : Req) (i j : Nat) (v : Bytes) : rowsKeepQueue (writeTsu s q i j v) := by
  unfold writeTsu writeHealth
  repeat' split
  all_goals simp

@[simp] theorem rowsKeepQueue_writeTsuRepeat (s : State) (q : Req) (i j : Nat) (v : Bytes) : rowsKeepQueue (writeTsuRepeat s q i j v) := by
  unfold writeTsuRepeat writeRegion writeLink writeWatch
  repeat' split
  all_goals simp

@[simp] theorem rowsKeepQueue_writeFjz (s : State) (q : Req) (i j : Nat) (v : Bytes) : rowsKeepQueue (writeFjz s q i j v) := by
  unfold writeFjz writeOutput
  repeat' split
  all_goals simp

theorem rowsKeepQueue_writableOf (s : State) (d : Dev) (q : Req) (i j : Nat) (v : Bytes) : rowsKeepQueue (writableOf s d q i j v) := by
  unfold writableOf
  split
  · simp
  · split
    · next h => exact h ▸ rowsKeepQueue_writeCommon d s q i j v
    · cases d with
      | tsu =>
        dsimp only
        split
        · next h => exact h ▸ rowsKeepQueue_writeTsu s q i j v
        · exact rowsKeepQueue_writeTsuRepeat s q i j v
      | fjz => exact rowsKeepQueue_writeFjz s q i j v

/-- Every write of the dictionary keeps the queue. -/
theorem keepsQueue_writeOf (s : State) (d : Dev) (q : Req) (i j : Nat) (v : Bytes) : (writeOf s d q i j v).KeepsQueue := by
  unfold writeOf
  rw [keepsQueue_withBytes]
  cases h : writableOf s d q i j v with
  | none => exact keepsQueue_of_keeps (keeps_wReadOnly ..)
  | some op => exact rowsKeepQueue_writableOf s d q i j v op h

end Sys2Proof.Machine
end

section
/-! PROOFS. No command touches the queue of waiting commands, third part: what the agents make of requests. -/

namespace Sys2Proof.Machine

/-! ## Requests -/

theorem pending_deliverRsp (d : Dev) (r : Rsp) (s : State) : (deliverRsp d r s).pending = s.pending :=
  pending_of_still (still_deliverRsp ..)

theorem pending_countTaken (d : Dev) (q : Req) (st : Nat) (s : State) : (countTaken d q st s).pending = s.pending :=
  pending_of_still (still_countTaken ..)

theorem keepsQueue_park {d : Dev} {q : Req} {op : WriteOp} {c : Commit} (s : State) : (park d q op c s).pending = s.pending := by
  unfold park
  split
  · exact onAgent_pending ..
  · exact onAgent_pending ..
  · exact onAgent_pending ..
  · rfl

theorem keepsQueue_serveWrite {d : Dev} {q : Req} {op : WriteOp} (hk : op.KeepsQueue) : keepsQueue (serveWrite d q op) := by
  obtain ⟨happly, haccept, hrefuse⟩ := hk
  intro s
  have answers (r : Rsp) (u : State) : (deliverRsp d r (onAgent d (keepRsp r) u)).pending = u.pending := by simp [pending_deliverRsp]
  have applied (u : State) : (appliedRsp d (asTaken q) op.index op.sub stOk u).pending = u.pending := pending_of_still (by simp)
  have logged (st : Nat) (u : State) : (logSealed d op.access st op.index op.sub (countTaken d (asTaken q) st u)).pending = u.pending :=
    pending_of_still (by simp)
  unfold serveWrite
  dsimp only
  split
  · exact pending_of_still (still_repeatRsp ..)
  split
  · rw [answers]
    split
    · rw [hrefuse, logged]
    · rw [logged]
  split
  · rw [answers, happly, logged]
  split
  · rw [answers, keepsQueue_park, haccept, logged]
  · rw [applied, answers, happly, haccept, logged]

theorem keepsQueue_takeRequest {d : Dev} {q : Req} {i j : Nat} {v : Bytes} {serve : State → State} (h : keepsQueue serve) :
    keepsQueue (takeRequest d q i j v serve) := by
  intro s
  have heard : (tunnelCells q v.length s).pending = s.pending := pending_of_still (still_tunnelCells ..)
  unfold takeRequest
  dsimp only
  split
  · rfl
  split
  · rw [h, heard]
  · split
    · rw [pending_of_still (still_tunnelOn ..), heard]
    · rw [pending_deliverRsp, pending_countTaken, heard]
  · cases d with
    | tsu => exact heard
    | fjz =>
      dsimp only
      rw [pending_deliverRsp, pending_countTaken, heard]

theorem keepsQueue_agentWrite {d : Dev} {q : Req} {op : WriteOp} (hk : op.KeepsQueue) : keepsQueue (agentWrite d q op) :=
  keepsQueue_takeRequest (keepsQueue_serveWrite hk)

theorem keepsQueue_ledgerWrite {q : Req} {op : WriteOp} (hk : op.KeepsQueue) (v : BitVec 256) : keepsQueue (ledgerWrite q op v) := by
  intro s
  refine (keepsQueue_serveWrite hk _).trans ?_
  split
  · rfl
  · rfl

theorem keepsQueue_writeAny (d : Dev) (q : Req) (i j : Nat) (v : Bytes) : keepsQueue (writeAny d q i j v) := by
  refine fun s => keepsQueue_takeRequest (fun u => ?_) s
  split
  · exact keepsQueue_ledgerWrite (keepsQueue_writeOf ..) _ u
  · exact keepsQueue_serveWrite (keepsQueue_writeOf ..) u

theorem still_readOf (s : State) (d : Dev) (q : Req) (index sub : Nat) (u : State) :
    still ((readOf s d q index sub).effect u) = still u := by
  unfold readOf
  split
  · exact still_onErrs ..
  split
  · exact still_onTsu _ _ fun _ => rfl
  split
  · simp [rRecPop]
  split
  · simp [rRecWindowData]
  dsimp only
  split
  · split
    · exact still_checkSlot ..
    · rfl
  · rfl

theorem keepsQueue_readAny (d : Dev) (q : Req) (index sub : Nat) : keepsQueue (readAny d q index sub) :=
  keepsQueue_of_still fun u => still_agentRead d q _ u (still_readOf u d q index sub)

theorem keepsQueue_serveWindow (busSecure : Bool) (buf : Bytes) : keepsQueue (serveWindow busSecure buf) := by
  intro s
  unfold serveWindow
  dsimp only
  split
  · exact keepsQueue_writeAny ..
  · exact keepsQueue_readAny ..

end Sys2Proof.Machine
end

section
/-! PROOFS. No command touches the queue of waiting commands (O3), fourth part: every command. -/

namespace Sys2Proof.Machine

/-! ## What a command does -/

/-- A command is an effect that leaves the queue, and it has it whenever its operands name parts of the block. -/
def Instr.Acts (c : Instr) (s : State) : Prop :=
  ∃ ok f, exec c s = perform ok f s ∧ (c.wf = true → ok = true) ∧ keepsQueue f

section Acts

variable {c : Instr} {s : State} {d : Dev} {f : State → State}

theorem acts_of (h : exec c s = perform c.wf f s) (hf : keepsQueue f) : Instr.Acts c s := ⟨_, f, h, id, hf⟩

theorem acts_of_still (h : exec c s = perform c.wf f s) (hf : ∀ u, still (f u) = still u) : Instr.Acts c s :=
  acts_of h (keepsQueue_of_still hf)

theorem acts_on {ok : Bool} (h : exec c s = performOn d ok f s) (hok : c.wf = true → ok = true) (hf : ∀ u, still (f u) = still u) :
    Instr.Acts c s := ⟨ok, _, h, hok, keepsQueue_works (keepsQueue_of_still hf)⟩

/-- A command that is one write of one object. -/
theorem acts_write {q : Req} {op : WriteOp} (h : exec c s = perform c.wf (inTurn c (agentWrite d q op)) s) (hk : op.KeepsQueue) :
    Instr.Acts c s := acts_of h (keepsQueue_inTurn (keepsQueue_agentWrite hk))

theorem acts_downPass {i : Instr} {p pass : Nat} {cell : Cell} {chip die : State → State}
    (h : exec c s = downPass i d p pass cell chip die s) (hok : c.wf = true → portOk d p = true)
    (hc : ∀ u, still (chip u) = still u) (hd : ∀ u, still (die u) = still u) : Instr.Acts c s := by
  refine acts_on h hok fun u => still_receive _ _ _ _ _ _ u fun v => ?_
  split
  · rfl
  · cases d
    · exact hd v
    · dsimp only
      split
      · exact hc v
      · rfl

end Acts

theorem still_timeRead (region : Nat) (s : State) : still (timeRead region s).2 = still s := by
  unfold timeRead
  dsimp only
  split
  · exact still_onTsu _ _ fun _ => rfl
  · rfl

theorem keepsQueue_go (busSecure : Bool) (buf : State → Bytes) (g : State → Tsu → Tsu) :
    keepsQueue fun u => if u.tsu.winBusy then u else serveWindow busSecure (buf u) (onTsu (g u) u) := by
  intro u
  dsimp only
  split
  · rfl
  · exact keepsQueue_serveWindow ..

/-! ## Every command -/

/-- Every command is an effect that leaves the queue, on operands that name parts of the block. -/
theorem exec_acts (c : Instr) (s : State) : Instr.Acts c s := by
  cases c with
  -- One write of one object.
  | bistStart | lcProvision | lcDeploy | lcReturn | secKey | role | offset | rate | phaseStepPs | latchNow | snapshotReq | marginBias
  | counterClear | portEnable | portDisable | latBaselineCapture | txtsOverflowClear | realign | refType | refPriority | forceRef
  | freeServe | ocxoTable | forcePlane | planeOffsetRelease | planeConfig | pronkRequestArm | pronkRequestStep | pronkCancel
  | loadCommit | unload | syncReset | counterValue | eventState | treeReserve | treeReserveHome | treeRelease | pauseRequest
  | reepochCommit | drainAdopt | expel | mismatchIn | swapPlan | swapCancel | swapBroadcast | haltNow | errOverflowClear
  | tenantStatement | tenantClose | meterSeal | meterUnseal | meterClear | recFreezeNow | recThaw | replaySetup | replayRelease
  | replayFeed | replayEnd | forcedStretch =>
    exact acts_write (by rw [exec]; rfl) (by simp)
  -- An effect that Still.lean knows, of the block and of a part of it.
  | powerGood | initDone | intStatus | fjzResetRelease | fjzSelftestDone | firmwareLoaded | stepDesc | eventOversignalClear
  | templateValidate | templateErase | reportFailed | fjzResetAssert =>
    exact acts_of_still (by rw [exec]; rfl) fun u => by simp
  | mappingUpdateTick | holdoverRelock | tsuPps | lockSlow | snapshotPeriodic | stretchReport | nominalPeriodChange | marginReading
  | trainComplete | trainFail | downHoldExpiry | codewordLock | codewordLockLost | remoteFault | hello | helloSend
  | codewordUncorrectable | retryReq | retryReqRepeat | retryExhausted | replayBufferExpiry | timeDownSend | timeDown | timeUpSend
  | timeUp | latencyRemeasure | latMarkerSend | latBaselineAuto | txTimestamp | refQualify | ptpSync | ptpFollowUp | ptpAnnounce
  | ptpDelayReqSend | ptpAnnounceTimeout | refPpsEdge | refClockLoss | esmc | esmcTimeout | refOutPps | bleatSend | bleatTimeout
  | parentBleatTimeout | planeDriftCheck | pronkForward | pronkArm | pronkAck | pronkCommitDeadline | pronkCommit | pronkAbort
  | pronkStep | pronkDecision | stepLaunch | stepNop | stepLoop | stepEnd | descriptorPass | ledgerAdvPending | ctrAdd | ctrSetbit
  | eventSet | watchRegister | watchTimeout | watchNotify | tineArrival | tineArrivalFailed
  | tineResync | tineArrivalMove | tineResultForward | tineResult | tineResultFailed | tineResultMove
  | tineAbandon | reserveOutcome | fjouzWriteApply | healthUpdate | healthSample | suspectReport | clearReport | failConfirmExpiry
  | quarantineConvert | stewardTakeover | swapCtrlPlan | swapCtrlCancel | swapFetchLimit | swapRefetchLaunch | haltForward | haltAt
  | haltPause | haltNowCell | meterPartWalk | tenantInterval | finalRecordIssue | tapStagingDrain | record | recorderFrozen
  | replayApply | replayTimedApply | remoteFaultCleared | pronkCountSend =>
    exact acts_on (by rw [exec]; rfl) id fun u => by simp
  -- The commands that reset, put in the safe state or blow a fuse, which `still` does not cover.
  | powerOnReset => exact acts_of (f := fun u => dropWaiting .tsu (onTsu resetTsu u)) (by rw [exec]; rfl) fun _ => rfl
  | warmReset =>
    refine acts_of (by rw [exec]; rfl) fun u => ?_
    split
    · exact (pending_of_still (still_startInit _)).trans rfl
    · rfl
  | postDone =>
    refine acts_of (by rw [exec]; rfl) fun u => ?_
    dsimp only
    split
    · rfl
    split
    · exact pending_of_still ((still_actEnable ..).trans (still_actEnable ..))
    · rfl
  | bistBlockDone =>
    refine acts_of (by rw [exec]; rfl) fun u => ?_
    dsimp only
    repeat' split
    all_goals rfl
  | lcFuseProgrammed => exact acts_of (by rw [exec]; rfl) fun _ => onAgent_pending ..
  -- Effects that choose between several that Still.lean knows.
  | tempSample =>
    refine acts_on (by rw [exec]; rfl) id fun u => still_onTc _ u fun tc => ?_
    dsimp only
    repeat' split
    all_goals simp
  | holdModelValid =>
    refine acts_on (by rw [exec]; rfl) id fun u => still_onTc _ u fun tc => ?_
    repeat' split
    all_goals simp
  | holdUpdate =>
    refine acts_on (by rw [exec]; rfl) id fun u => still_onFjz _ u fun x => ?_
    dsimp only
    repeat' split
    all_goals simp
  | ocxoAgeingValid =>
    refine acts_on (by rw [exec]; rfl) id fun u => still_onFjz _ u fun x => ?_
    repeat' split
    all_goals simp
  | holdWtrExpiry =>
    refine acts_on (by rw [exec]; rfl) id fun u => still_withAdoption _ u fun v => still_onFjz _ v fun x => ?_
    dsimp only
    repeat' split
    all_goals simp
  | switchWindowEnd =>
    refine acts_on (by rw [exec]; rfl) id fun u => still_withAdoption _ u fun v => ?_
    dsimp only
    repeat' split
    all_goals simp
  | timeReply | bleat =>
    refine acts_on (by rw [exec]; rfl) id fun u => still_receive _ _ _ _ _ _ u fun v => ?_
    dsimp only
    repeat' split
    all_goals simp
  | queueStall | latMarker | ptpDelayResp | todMessage | planeWtrExpiry | stepReleaseDeadline | replayStall | dictRsp =>
    refine acts_on (by rw [exec]; rfl) id fun u => ?_
    dsimp only
    repeat' split
    all_goals simp
  | reserveTimeout | recordSigned | tunnelTimeout =>
    refine acts_on (by rw [exec]; rfl) id fun u => ?_
    repeat' split
    all_goals simp
  | pronkFire | stepOverrun | gateMissed | gateTimeout | watchRegisterDeferred | tineTimeout =>
    refine acts_on (by rw [exec]; rfl) id fun u => still_inTurn _ _ u fun v => ?_
    dsimp only
    repeat' split
    all_goals simp
  | tineNotSent | isolated =>
    refine acts_on (by rw [exec]; rfl) (by simp [Instr.wf, Instr.herdOk, Instr.gateOk]) fun u => still_inTurn _ _ u fun v => ?_
    dsimp only
    repeat' split
    all_goals simp
  | watchCancel =>
    refine acts_on (by rw [exec]; rfl) id fun u => still_inTurn _ _ u fun v => still_fromRegion _ _ _ _ v fun w => ?_
    split
    all_goals simp
  -- Commands that check their operands in an order or a form of their own.
  | regionDone => exact acts_on (by rw [exec]; rfl) (by simp [Instr.wf, Instr.regionOk, Instr.herdOk, ctxOk, and_comm]) fun u => by simp
  | tineContribution =>
    exact acts_on (by rw [exec]; rfl) (by simp [Instr.wf, Instr.regionOk, Instr.partOk]) fun u => by simp
  | bankDrained | bankDrainTimeout | bankUnavailable =>
    exact acts_on (by rw [exec]; rfl) (by simp [Instr.wf, Instr.regionOk, Instr.bankOk, Instr.herdOk, bankOk]) fun u => by simp
  | bankWakeDone =>
    exact ⟨_, _, by rw [exec]; rfl, by simp [Instr.wf, Instr.regionOk, Instr.bankOk, bankOk], keepsQueue_of_still fun u => by simp⟩
  -- Tokens, cells and requests of the agents.
  | regionTimeRead =>
    refine acts_on (by rw [exec]; rfl) id fun u => still_fromRegion _ _ _ _ u fun v => ?_
    dsimp only
    split
    all_goals simp [still_timeRead]
  | reserveRequest | reserveCommit | reserveRelease | releaseQuery =>
    exact acts_downPass (by rw [exec]; rfl) id (fun u => by simp) fun u => by simp
  | txtsPop | errPop | recPop | recWindowData =>
    refine acts_of (by rw [exec]; rfl) (keepsQueue_inTurn (keepsQueue_of_still fun u => still_agentRead _ _ _ u fun v => ?_))
    simp [rTxtsPop, rErrPop, rRecPop, rRecWindowData]
  | ledgerEntry =>
    exact acts_of (by rw [exec]; rfl) (keepsQueue_inTurn fun u => keepsQueue_takeRequest (keepsQueue_ledgerWrite (by simp) _) u)
  | go =>
    exact ⟨_, _, by rw [exec]; rfl, id, keepsQueue_works (keepsQueue_inTurn (keepsQueue_go _ _ _))⟩
  | zdpRead => exact acts_of (by rw [exec]; rfl) (keepsQueue_inTurn (keepsQueue_readAny _ _ _ _))
  | registerWrite => exact acts_of (by rw [exec]; rfl) (keepsQueue_inTurn (keepsQueue_writeAny _ _ _ _ _))

/-- Settles O3: what every command does is an effect that leaves the queue, and no check but that of its operands is before it. -/
theorem noCommandTouchesTheQueue : Obligations.NoCommandTouchesTheQueue := by
  refine ⟨fun c s hwf => ?_, fun c s t ht => ?_⟩
  · obtain ⟨ok, f, h, hok, hf⟩ := exec_acts c s
    rw [hok hwf, perform_true] at h
    exact ⟨_, h, (enterErrs_pending _).trans (hf s.fresh)⟩
  · obtain ⟨ok, f, h, -, hf⟩ := exec_acts c s
    obtain ⟨-, rfl⟩ := perform_cases (h ▸ ht)
    exact (enterErrs_pending _).trans (hf s.fresh)

/-! ## The step -/

/-- Settles O1: a step on a queue that holds a command is that command on the rest of the queue. -/
theorem stepRunsTheFrontCommand : Obligations.StepRunsTheFrontCommand := fun _ _ _ => rfl

end Sys2Proof.Machine
end

section
/-! PROOFS. Fields of a word of which another or the same field was replaced (R5). -/

namespace Sys2Proof

open Machine

theorem getLsbD_put {n : Nat} (x : BitVec n) (lo len : Nat) (v : BitVec len) {i : Nat} (hi : i < n) :
    (put x lo len v).getLsbD i = if lo ≤ i ∧ i < lo + len then v.getLsbD (i - lo) else x.getLsbD i := by
  unfold put
  by_cases hlo : lo ≤ i
  · have hlt : ¬ i < lo := by omega
    by_cases hhi : i < lo + len
    · have hlen : i - lo < len := by omega
      simp [hi, hlo, hlt, hhi, hlen]
    · have hlen : ¬ i - lo < len := by omega
      simp [hi, hlo, hlt, hhi, hlen, BitVec.getLsbD_of_ge v (i - lo) (Nat.le_of_not_lt hlen)]
  · have hlt : i < lo := by omega
    simp [hi, hlo, hlt]

/-- The field that was replaced. -/
theorem fld_put_same {n : Nat} (x : BitVec n) {lo len : Nat} (v : BitVec len) (h : lo + len ≤ n) : fld (put x lo len v) lo len = v := by
  refine BitVec.eq_of_getLsbD_eq fun i hi => ?_
  have hn : lo + i < n := by omega
  have hin : lo ≤ lo + i ∧ lo + i < lo + len := by omega
  simp only [fld, BitVec.getLsbD_extractLsb', getLsbD_put x lo len v hn, if_pos hin, hi, decide_true, Bool.true_and,
    Nat.add_sub_cancel_left]

/-- A field beside the one that was replaced. -/
theorem fld_put_beside {n : Nat} (x : BitVec n) {lo len lo' len' : Nat} (v : BitVec len) (h : lo' + len' ≤ lo ∨ lo + len ≤ lo') :
    fld (put x lo len v) lo' len' = fld x lo' len' := by
  refine BitVec.eq_of_getLsbD_eq fun i hi => ?_
  have hout : ¬ (lo ≤ lo' + i ∧ lo' + i < lo + len) := by omega
  by_cases hn : lo' + i < n
  · simp only [fld, BitVec.getLsbD_extractLsb', getLsbD_put x lo len v hn, if_neg hout]
  · have hge := Nat.le_of_not_lt hn
    simp only [fld, BitVec.getLsbD_extractLsb', BitVec.getLsbD_of_ge _ _ hge]

theorem fldN_putN_same {n : Nat} (x : BitVec n) {lo len : Nat} (v : Nat) (h : lo + len ≤ n) : fldN (putN x lo len v) lo len = v % 2 ^ len :=
  (congrArg BitVec.toNat (fld_put_same x (BitVec.ofNat len v) h)).trans (BitVec.toNat_ofNat v len)

theorem fldN_putN_beside {n : Nat} (x : BitVec n) {lo len lo' len' : Nat} (v : Nat) (h : lo' + len' ≤ lo ∨ lo + len ≤ lo') :
    fldN (putN x lo len v) lo' len' = fldN x lo' len' :=
  congrArg BitVec.toNat (fld_put_beside x (BitVec.ofNat len v) h)

end Sys2Proof
end

section
/-! PROOFS. A cell of class P0 that leaves on several ports (R64). -/

namespace Sys2Proof

open Machine

/-! ## What shows a cell queued -/

/-- A port and a counter as they were show the same cell queued. -/
theorem queued_of_before {d : Dev} {p : Nat} {c : Cell} {b : Bool} {s u t : State} (h : queued d p c b u t)
    (hstate : (port u d p).state = (port s d p).state) (htxq : (port u d p).txq = (port s d p).txq) (hcounter : counterOf u d = counterOf s d) :
    queued d p c b s t := fun hup => by
  rw [← htxq, ← hcounter]
  exact h (hstate.trans hup)

/-- A queue as it was left shows the same cell queued. -/
theorem queued_of_after {d : Dev} {p : Nat} {c : Cell} {b : Bool} {s t u : State} (h : queued d p c b s t)
    (htxq : (port u d p).txq = (port t d p).txq) : queued d p c b s u := fun hup => htxq.trans (h hup)

theorem counterOf_received (d e : Dev) (p : Nat) (c : Cell) (s : State) : counterOf (received e p c s) d = counterOf s d := by
  unfold received
  split
  · rw [counterOf_onPort, counterOf_fresh]
  · exact counterOf_fresh d s

/-- A reception moves the sequences of its port and what waits behind a gap, and nothing else of any port (R68). -/
theorem received_port_keeps {γ : Type} (v : Port → γ) (h : ∀ x q hs gs, v { x with lseqRx := q, heldRx := hs, gaps := gs } = v x)
    (d e : Dev) (p r : Nat) (c : Cell) (s : State) : v (port (received d p c s) e r) = v (port s e r) := by
  unfold received
  split
  · by_cases hsame : e = d ∧ r = p
    · obtain ⟨rfl, rfl⟩ := hsame
      rw [port_onPort_same, port_fresh]
      exact h (port s e r) _ _ _
    · rw [port_onPort_ne _ _ _ _ (Decidable.not_and_iff_or_not.mp hsame), port_fresh]
  · rw [port_fresh]

/-- A cell that a command sends after a reception is queued behind what stood there before it. -/
theorem queued_of_received {d e : Dev} {p r : Nat} {c c' : Cell} {b : Bool} {s t : State} (h : queued d p c b (received e r c' s) t) :
    queued d p c b s t :=
  queued_of_before h (received_port_keeps Port.state (fun _ _ _ _ => rfl) ..) (received_txq ..) (counterOf_received ..)

/-! ## Sending -/

theorem counterOf_sendOn (d : Dev) (p : Nat) (b : Bool) (c : Cell) (s : State) : counterOf (sendOn d p b c s) d = counterOf s d :=
  sendOn_keeps (counterOf · d) (counterOf_onPort d d p) (fun _ _ => by cases d <;> rfl) (fun _ _ => by cases d <;> rfl) b c s

theorem port_sendOn_other (d : Dev) {p r : Nat} (h : p ≠ r) (b : Bool) (c : Cell) (s : State) :
    port (sendOn d r b c s) d p = port s d p :=
  sendOn_keeps (port · d p) (fun f u => port_onPort_other d f u h) (fun _ _ => by cases d <;> rfl) (fun _ _ => by cases d <;> rfl) b c s

theorem queued_sendOn {c : Cell} (hcls : c.cls = 0) (d : Dev) (p : Nat) (b : Bool) (s : State) : queued d p c b s (sendOn d p b c s) := by
  intro hup
  rw [sendOn_up hup (by rw [hcls]; decide) (by rw [hcls]; decide) (by rw [hcls]; decide), port_onPort_same]

theorem port_sendAll_other (d : Dev) {p : Nat} {ps : List Nat} (h : p ∉ ps) (b : Bool) (c : Cell) (s : State) :
    port (sendAll d ps b c s) d p = port s d p := by
  induction ps generalizing s with
  | nil => rfl
  | cons r ps ih =>
    obtain ⟨hne, hrest⟩ := not_or.mp fun hmem => h (List.mem_cons.mpr hmem)
    exact (ih hrest (sendOn d r b c s)).trans (port_sendOn_other d hne b c s)

/-- Each port of a list without repetitions is given the cell once. -/
theorem queued_sendAll {c : Cell} (hcls : c.cls = 0) (d : Dev) (b : Bool) {ps : List Nat} (hps : ps.Nodup) {p : Nat} (hp : p ∈ ps)
    (s : State) : queued d p c b s (sendAll d ps b c s) := by
  induction ps generalizing s with
  | nil => cases hp
  | cons r ps ih =>
    obtain ⟨hfresh, hps⟩ := List.nodup_cons.mp hps
    by_cases hr : p = r
    · subst hr
      exact queued_of_after (queued_sendOn hcls d p b s) (by rw [← port_sendAll_other d hfresh b c (sendOn d p b c s)]; rfl)
    · have hport := port_sendOn_other d hr b c s
      have hrest := ih hps ((List.mem_cons.mp hp).resolve_left hr) (sendOn d r b c s)
      exact queued_of_before hrest (by rw [hport]) (by rw [hport]) (counterOf_sendOn d r b c s)

/-- A cell of a type up to 0x08 that is sound is of class P0 (Table 3.4). -/
theorem cls_of_sound {c : Cell} (hsound : c.sound = true) (htyp : c.typ ≤ 8) : c.cls = 0 := by
  simp only [Cell.sound, Bool.and_eq_true, decide_eq_true_eq, classOf, if_pos htyp, Option.some.injEq] at hsound
  exact hsound.1.symm

theorem typ_of_arrives {d : Dev} {p typ : Nat} {c : Cell} {s : State} (h : arrives d p typ c s = true) : c.typ = typ ∧ c.sound = true := by
  simp only [arrives, Bool.and_eq_true, decide_eq_true_eq] at h
  exact ⟨h.1.1.2.2, h.1.2⟩

/-! ## The ports of a herd -/

theorem nodup_withStandby {x : Fjz} {ps : List Nat} (h : ps.Nodup) : (x.withStandby ps).Nodup := by
  have hstandby : x.standbyPorts.Nodup := by
    unfold Fjz.standbyPorts
    split
    · exact List.nodup_nil
    · exact List.nodup_range.filter _
  refine List.nodup_append.mpr ⟨h, hstandby.filter _, fun a ha b hb hab => ?_⟩
  subst hab
  simp [ha] at hb

theorem nodup_herdPorts (x : Fjz) (herd : Id24) : (x.herdPorts herd).Nodup := List.nodup_range.filter _

theorem nodup_pronkPorts (x : Fjz) (herd : Id24) (template : U16) : (x.pronkPorts herd template).Nodup := by
  refine nodup_withStandby ?_
  split
  · exact List.nodup_range.filter _
  · exact nodup_herdPorts x herd

end Sys2Proof
end

section
/-! PROOFS. A pronk at the top of the tree and at a chip on the way (O36). -/

namespace Sys2Proof

open Machine

/-! ## What a pronk leaves of the chip -/

@[simp] theorem beside_pronkDown (b : Bool) (c : Cell) (s : State) : beside (pronkDown b c s) = beside s :=
  beside_forAll _ (fun p u => beside_sendOn p b c u) _ s

@[simp] theorem bare_pronkDown (b : Bool) (c : Cell) (s : State) : (pronkDown b c s).fjz.bare = s.fjz.bare :=
  bare_forAll _ (fun p u => bare_sendOn p b c u) _ s

@[simp] theorem beside_pronkOriginate (c : Cell) (s : State) : beside (pronkOriginate c s) = beside s :=
  (beside_pronkDown false c _).trans (beside_onFjz _ s)

@[simp] theorem bare_pronkOriginate (c : Cell) (s : State) : (pronkOriginate c s).fjz.bare = s.fjz.bare := by
  unfold pronkOriginate
  rw [bare_pronkDown]
  exact ownEntry_keeps Fjz.bare (fun _ _ => rfl) c.body s.fjz

/-- What the bare chip shows is the same on two chips that are the same but for what it leaves out. -/
theorem of_bare {γ : Type} (v : Fjz → γ) (hv : ∀ x, v x.bare = v x) {x y : Fjz} (h : x.bare = y.bare) : v x = v y := by
  rw [← hv x, h, hv]

theorem pronk_of_bare {x y : Fjz} (h : x.bare = y.bare) (herd : Id24) : x.pronk herd = y.pronk herd :=
  of_bare (Fjz.pronk · herd) (fun _ => rfl) h

@[simp] theorem beside_pronkFinal (herd : Id24) (phase cause : Nat) (s : State) : beside (pronkFinal herd phase cause s) = beside s :=
  beside_pronkOriginate _ _

/-- The origin's last word ends its part, and the counters show it (R145). -/
theorem pronk_pronkFinal (herd : Id24) (phase cause : Nat) (s : State) :
    (pronkFinal herd phase cause s).fjz.pronk herd = { s.fjz.pronk herd with phase := BitVec.ofNat 8 phase, origin := false } :=
  (pronk_of_bare (bare_pronkOriginate _ _) herd).trans (pronk_onPronk_same ..)

/-! ## PRONK_REQUEST (R143) -/

theorem qPhase_withPhase (phase : Nat) (v : BitVec 256) : qPhase (withPhase phase v) = phase % 256 :=
  fldN_putN_same v phase (by decide)

theorem beside_takePronkRequest (v : BitVec 256) (s : State) : beside (takePronkRequest v s) = beside s := by
  unfold takePronkRequest
  dsimp only
  split
  · exact beside_pronkFinal ..
  · exact beside_pronkOriginate _ _

/-- An accepted ARM or STEP begins the counters of its herd anew (R143, R144). -/
theorem bare_takePronkRequest {v : BitVec 256} (h : qPhase v ≠ phCancel) (s : State) :
    (takePronkRequest v s).fjz.bare = (onPronk (qHerdId v) (fun k =>
      { k.begin (qSeq v) (qFire v) (qStart v) (qEpoch v) (qTemplate v) (qPhase v) with
          first := false, accepted := some (qSeq v), memberCount := qMembers v, origin := decide (qPhase v = phArm) })
      (onFjz (fun x => { x with pronkHerd := some (qHerdId v) }) s)).fjz.bare := by
  unfold takePronkRequest
  rw [if_neg h]
  exact bare_pronkOriginate _ _


theorem requestReady_heard (w : BitVec 256) (q : Req) (s : State) : requestReady w (heard q s) = requestReady w s := by
  simp only [requestReady, heard_fjz]

theorem requestRange_heard (w : BitVec 256) (q : Req) (s : State) : requestRange w (heard q s) = requestRange w s := by
  simp only [requestRange, heard_fjz]

/-- A request that names no herd that the chip may pronk, or a pronk that it may not cancel, is refused with STATE, and one of other
fields with RANGE (R143). -/
theorem pronkRequest_refused {q : Req} {w : BitVec 256} {c : Instr} {s : State} {st : Nat} (hc : placeOf c = requestPlace .fjz q)
    (h : admits .fjz q 0x5900 1 .wo (bvBytes w) s = true)
    (hst : (requestReady w s = false ∧ st = stState) ∨ (requestReady w s = true ∧ requestRange w s = false ∧ st = stRange)) :
    perform true (inTurn c (agentWrite .fjz q (wPronkRequest w))) s = .next (answered .fjz q 0x5900 1 st (taken .fjz q s)) := by
  have hready := requestReady_heard w q s
  have hrange := requestRange_heard w q s
  rw [agentWrite_refuses hc (op := wPronkRequest w) h rfl (.inl rfl) rfl (by simpa only [wPronkRequest, hready, hrange] using hst),
    enterErrs_nil (by simp [wPronkRequest])]
  rfl

theorem pronkRequest_taken {q : Req} {w : BitVec 256} {c : Instr} {s : State} (hc : placeOf c = requestPlace .fjz q)
    (h : admits .fjz q 0x5900 1 .wo (bvBytes w) s = true) (hready : requestReady w s = true) (hrange : requestRange w s = true) :
    ∃ f t, perform true (inTurn c (agentWrite .fjz q (wPronkRequest w))) s = .next t ∧ t.tsu = s.tsu ∧
      ∀ {γ : Type} (v : Fjz → γ), (∀ x a, v { x with agent := a } = v x) → v t.fjz = v (takePronkRequest w (onAgent .fjz f s.fresh)).fjz := by
  exact chipWrite_takes hc (op := wPronkRequest w) h rfl rfl rfl ((requestReady_heard w q s).trans hready)
    ((requestRange_heard w q s).trans hrange) (fun _ => rfl) (fun _ => rfl)
    (beside_takePronkRequest w)

/-! ## Cells at the chip -/

/-- A command about a cell that arrives at a chip that works, where its effect moves nothing beside the chip. -/
theorem performOn_chipCell {p typ : Nat} {types : List Nat} {c : Cell} {i : Instr} {act : State → State} {s : State} {ok : Bool}
    (hi : placeOf i = cellTurn .fjz p typ) (hok : ok = true) (hw : s.fjz.works = true) (h : arrives .fjz p typ c s = true)
    (ht : types.contains typ = true) (hb : ∀ u, beside (act u) = beside u) :
    performOn .fjz ok (receive i .fjz p types c act) s = .next (act (received .fjz p c s)) ∧
      (act (received .fjz p c s)).tsu = s.tsu := by
  have hbeside := hb (received .fjz p c s)
  rw [performOn_receive (d := .fjz) hi hok hw h ht, enterErrs_nil (by rw [staged_of_beside hbeside, received_staged])]
  exact ⟨rfl, (tsu_of_beside hbeside).trans (received_tsu p c s)⟩

theorem bare_received (p : Nat) (c : Cell) (s : State) : (received .fjz p c s).fjz.bare = s.fjz.bare :=
  received_fjz_keeps Fjz.bare (fun _ _ => rfl) p c s

theorem isChildSide_of_bare {s t : State} (h : s.fjz.bare = t.fjz.bare) (p : Nat) : isChildSide s .fjz p = isChildSide t .fjz p :=
  of_bare (fun x => x.parentPorts.contains p) (fun _ => rfl) h

/-! ## The counts of a pronk (R144, R145) -/

theorem beside_pronkJudge (herd : Id24) (s : State) : beside (pronkJudge herd s) = beside s := by
  simp [pronkJudge]

/-- The origin aborts on a refusal and commits when every member is ready; else it waits (R145). -/
theorem pronk_pronkJudge {herd : Id24} {s : State} {k : PronkCtr} (hk : s.fjz.pronk herd = k) (ho : k.origin = true) :
    (0 < k.refusedSum → (pronkJudge herd s).fjz.pronk herd = { k with phase := 3, origin := false }) ∧
    (k.refusedSum = 0 → k.readySum = k.memberCount.toNat → (pronkJudge herd s).fjz.pronk herd = { k with phase := 2, origin := false }) ∧
    (k.refusedSum = 0 → k.readySum ≠ k.memberCount.toNat → (pronkJudge herd s).fjz.pronk herd = k) := by
  subst hk
  refine ⟨fun href => ?_, fun href hready => ?_, fun href hready => ?_⟩
  · simp only [pronkJudge, ho, href, Bool.not_true, Bool.false_eq_true, if_false, if_true]
    exact pronk_pronkFinal herd phAbort 1 s
  · simp only [pronkJudge, ho, href, hready, lt_irrefl, Bool.not_true, Bool.false_eq_true, if_false, if_true]
    exact pronk_pronkFinal herd phCommit 0 s
  · simp only [pronkJudge, ho, href, hready, lt_irrefl, Bool.not_true, Bool.false_eq_true, if_false]

/-- The decision leaves the counts as they came. -/
theorem pronk_pronkJudge_counts {γ : Type} (f : PronkCtr → γ) (hf : ∀ k ph, f { k with phase := ph, origin := false } = f k)
    {herd : Id24} {s : State} {k : PronkCtr} (hk : s.fjz.pronk herd = k) : f ((pronkJudge herd s).fjz.pronk herd) = f k := by
  subst hk
  unfold pronkJudge
  dsimp only
  split_ifs
  · rfl
  · rw [pronk_pronkFinal]
    exact hf _ _
  · rw [pronk_pronkFinal]
    exact hf _ _
  · rfl

/-- The counter of a herd with the counts that an ACK on a port brings. -/
def ackCounted (p : Nat) (c : Cell) (k : PronkCtr) : PronkCtr :=
  { k with ready := k.ready.set 0 p (kReady c), refused := k.refused.set 0 p (kRefused c) }

/-- An ACK from below for the pronk that the chip counts (R144). -/
theorem pronkAck_counts {p : Nat} {c : Cell} {s : State} (hp : p < 72) (hw : s.fjz.works = true) (h : arrives .fjz p 5 c s = true)
    (hphase : kPhase c = 1) (hside : isChildSide s .fjz p = false) (hholds : s.fjz.holdsHerd (kHerd c) = true)
    (hseq : (s.fjz.pronk (kHerd c)).seq = kSeq c) :
    ∃ u, exec (.pronkAck p c) s = .next (pronkJudge (kHerd c) u) ∧ (pronkJudge (kHerd c) u).tsu = s.tsu ∧
      u.fjz.pronk (kHerd c) = ackCounted p c (s.fjz.pronk (kHerd c)) := by
  have hbare := bare_received p c s
  have hpronk := pronk_of_bare hbare (kHerd c)
  have hskip : ¬ (kPhase c ≠ phAck ∨ isChildSide (received .fjz p c s) .fjz p = true ∨
      (!(received .fjz p c s).fjz.holdsHerd (kHerd c)) = true ∨ ((received .fjz p c s).fjz.pronk (kHerd c)).seq ≠ kSeq c) := by
    rw [isChildSide_of_bare hbare, of_bare (Fjz.holdsHerd · (kHerd c)) (fun _ => rfl) hbare, hpronk]
    simp [hphase, phAck, hside, hholds, hseq]
  obtain ⟨hexec, htsu⟩ := performOn_chipCell (i := .pronkAck p c) (types := [tPronk]) (act := fun u =>
      if kPhase c ≠ phAck ∨ isChildSide u .fjz p ∨ !u.fjz.holdsHerd (kHerd c) ∨ (u.fjz.pronk (kHerd c)).seq ≠ kSeq c then u
      else pronkJudge (kHerd c) (onPronk (kHerd c) (ackCounted p c) u))
    rfl (decide_eq_true hp) hw h rfl fun u => by split <;> [rfl; exact beside_pronkJudge ..]
  rw [if_neg hskip] at hexec htsu
  exact ⟨_, hexec, htsu, (pronk_onPronk_same ..).trans (congrArg _ hpronk)⟩

/-- The commit deadline of an origin that no member has refused (R145). -/
theorem pronkCommitDeadline_commits {herd : BitVec 24} {s : State} (hw : s.fjz.works = true) (ho : (s.fjz.pronk herd).origin = true)
    (href : (s.fjz.pronk herd).refusedSum = 0)
    (hdue : (s.fjz.pronk herd).fireHt.toNat ≤ s.fjz.now.toNat + s.fjz.commitLead.toNat * 65536) :
    exec (.pronkCommitDeadline herd) s = .next (pronkFinal herd phCommit 0 s.fresh) := by
  rw [exec, execPronkCommitDeadline]
  refine performOn_chip rfl hw ?_ (beside_pronkFinal herd phCommit 0 s.fresh)
  dsimp only
  rw [fresh_fjz, if_pos (by rw [ho, href, decide_eq_true hdue]; rfl)]

theorem beside_sendUp (b : Bool) (c : Cell) (s : State) : beside (sendUp b c s) = beside s := by
  unfold sendUp
  split
  · exact beside_sendOn ..
  · rfl

theorem bare_sendUp (b : Bool) (c : Cell) (s : State) : (sendUp b c s).fjz.bare = s.fjz.bare := by
  unfold sendUp
  split
  · exact bare_sendOn ..
  · rfl

theorem beside_pronkCounts (herd : Id24) (s : State) : beside (pronkCounts herd s) = beside s := beside_sendUp _ _ _

/-- The sums that go upwards are kept beside the tick on which they left (R144). -/
theorem pronk_pronkCounts (herd : Id24) (s : State) : (pronkCounts herd s).fjz.pronk herd =
    { s.fjz.pronk herd with sent := ((s.fjz.pronk herd).readySum, (s.fjz.pronk herd).refusedSum), sentAt := some s.fjz.frc.toNat } := by
  unfold pronkCounts
  rw [pronk_of_bare (bare_sendUp ..), onFjz_fjz, ownEntry_keeps (Fjz.pronk · herd) (fun _ _ => rfl), pronk_onPronk_same]

/-- Changed sums of a chip below the top leave for its parent (R144). -/
theorem pronkCountSend_sends {herd : BitVec 24} {s : State} (hw : s.fjz.works = true) (hholds : s.fjz.holdsHerd herd = true)
    (htop : s.fjz.isTop herd = false) (hnever : (s.fjz.pronk herd).sentAt = none)
    (hchanged : ((s.fjz.pronk herd).readySum, (s.fjz.pronk herd).refusedSum) ≠ (s.fjz.pronk herd).sent) :
    ∃ t, exec (.pronkCountSend herd) s = .next t ∧ t.tsu = s.tsu ∧
      (t.fjz.pronk herd).sent = ((s.fjz.pronk herd).readySum, (s.fjz.pronk herd).refusedSum) ∧
      (t.fjz.pronk herd).sentAt = some s.fjz.frc.toNat := by
  have hbeside := beside_pronkCounts herd s.fresh
  have hpronk := pronk_pronkCounts herd s.fresh
  refine ⟨pronkCounts herd s.fresh, performOn_chip rfl hw ?_ hbeside, tsu_of_beside_fresh hbeside, ?_, ?_⟩
  · simp [hholds, htop, hnever, hchanged]
  · rw [hpronk]; rfl
  · rw [hpronk]; rfl

/-! ## A cell on its way down (R144) -/

/-- The chip with the counters of a herd begun anew for the pronk of a cell. -/
def beginsFor (c : Cell) : State → State :=
  onPronk (kHerd c) fun k => k.begin (kSeq c) (kFire c) (kStart c) (kEpoch c) (kTemplate c) (kPhase c)

/-- An ARM or STEP from the parent begins the counters anew and goes on to every port that leads to members. -/
theorem pronkForward_begins {p : Nat} {c : Cell} {s : State} (hp : p < 72) (hw : s.fjz.works = true) (h : arrives .fjz p 5 c s = true)
    (hparent : s.fjz.parentPort = some p) (hholds : s.fjz.holdsHerd (kHerd c) = true) (hphase : kPhase c = 0 ∨ kPhase c = 4) :
    exec (.pronkForward p c) s = .next (pronkDown true c (beginsFor c (received .fjz p c s))) := by
  have hbare := bare_received p c s
  have hgoes : ¬ ((received .fjz p c s).fjz.parentPort ≠ some p ∨ (!(received .fjz p c s).fjz.holdsHerd (kHerd c)) = true ∨
      (!decide (kPhase c = phArm ∨ kPhase c = phCommit ∨ kPhase c = phAbort ∨ kPhase c = phStep)) = true) := by
    rw [of_bare Fjz.parentPort (fun _ => rfl) hbare, of_bare (Fjz.holdsHerd · (kHerd c)) (fun _ => rfl) hbare]
    rcases hphase with hphase | hphase <;> simp [hparent, hholds, hphase, phArm, phStep]
  have hbegins : kPhase c = phArm ∨ kPhase c = phStep := hphase
  obtain ⟨hexec, -⟩ := performOn_chipCell (i := .pronkForward p c) (types := [tPronk]) (act := fun u =>
      if u.fjz.parentPort ≠ some p ∨ !u.fjz.holdsHerd (kHerd c) ∨
        !decide (kPhase c = phArm ∨ kPhase c = phCommit ∨ kPhase c = phAbort ∨ kPhase c = phStep) then u
      else pronkDown true c (if kPhase c = phArm ∨ kPhase c = phStep then beginsFor c u
        else onPronk (kHerd c) (fun k => if k.seq = kSeq c then { k with phase := BitVec.ofNat 8 (kPhase c) } else k) u))
    rfl (decide_eq_true hp) hw h rfl fun u => by
      split
      · rfl
      · rw [beside_pronkDown]
        rfl
  rw [if_neg hgoes, if_pos hbegins] at hexec
  exact hexec

/-- The ports that lead to members are told by the reservations, their contexts, the role, and the standing of the ports. -/
theorem pronkPorts_of_same {x y : Fjz} (hresvs : x.resvs = y.resvs) (hctxs : x.ctxs = y.ctxs) (hrole : x.role = y.role)
    (hstate : ∀ r, (x.ports.get {} r).state = (y.ports.get {} r).state)
    (hpeer : ∀ r, (x.ports.get {} r).peerPort = (y.ports.get {} r).peerPort) (herd : Id24) (template : U16) :
    x.pronkPorts herd template = y.pronkPorts herd template := by
  simp only [Fjz.pronkPorts, Fjz.herdPorts, Fjz.herdCtxs, Fjz.withStandby, Fjz.standbyPorts, Fjz.ctx, hresvs, hctxs, hrole, hstate, hpeer]

theorem pronkPorts_beginsFor_received (p : Nat) (c : Cell) (s : State) (herd : Id24) (template : U16) :
    (beginsFor c (received .fjz p c s)).fjz.pronkPorts herd template = s.fjz.pronkPorts herd template :=
  pronkPorts_of_same (received_fjz_keeps Fjz.resvs (fun _ _ => rfl) ..) (received_fjz_keeps Fjz.ctxs (fun _ _ => rfl) ..)
    (received_fjz_keeps Fjz.role (fun _ _ => rfl) ..) (received_port_keeps Port.state (fun _ _ _ _ => rfl) .fjz .fjz p · c s)
    (received_port_keeps Port.peerPort (fun _ _ _ _ => rfl) .fjz .fjz p · c s) herd template

theorem queued_pronkForward {p : Nat} {c : Cell} {s : State} (h : arrives .fjz p 5 c s = true) {p' : Nat}
    (hp' : p' ∈ s.fjz.pronkPorts (kHerd c) (kTemplate c)) :
    queued .fjz p' c true s (pronkDown true c (beginsFor c (received .fjz p c s))) := by
  obtain ⟨htyp, hsound⟩ := typ_of_arrives h
  rw [← pronkPorts_beginsFor_received p c s] at hp'
  have hsend := queued_sendAll (cls_of_sound hsound (htyp ▸ by decide)) .fjz true (nodup_pronkPorts ..) hp' (beginsFor c (received .fjz p c s))
  have hbegun : queued .fjz p' c true (received .fjz p c s) (pronkDown true c (beginsFor c (received .fjz p c s))) :=
    queued_of_before hsend rfl rfl rfl
  exact queued_of_received hbegun

/-! ## The commands -/

section Request
variable {q : Req} {v : BitVec 256} {s : State}

theorem pronkRequestArm_taken (h : admits .fjz q 0x5900 1 .wo (bvBytes (withPhase phArm v)) s = true)
    (hready : requestReady (withPhase phArm v) s = true) (hrange : requestRange (withPhase phArm v) s = true) :
    ∃ t, exec (.pronkRequestArm q v) s = .next t ∧ t.tsu = s.tsu ∧ t.fjz.pronkHerd = some (qHerdId (withPhase phArm v)) ∧
      ∃ k : PronkCtr, t.fjz.pronk (qHerdId (withPhase phArm v)) =
        { k.begin (qSeq (withPhase phArm v)) (qFire (withPhase phArm v)) (qStart (withPhase phArm v)) (qEpoch (withPhase phArm v))
            (qTemplate (withPhase phArm v)) 0 with
          first := false, accepted := some (qSeq (withPhase phArm v)), memberCount := qMembers (withPhase phArm v), origin := true } := by
  have hphase : qPhase (withPhase phArm v) = 0 := qPhase_withPhase phArm v
  obtain ⟨f, t, hexec, htsu, hkeeps⟩ := pronkRequest_taken (c := .pronkRequestArm q v) rfl h hready hrange
  have hbare := bare_takePronkRequest (v := withPhase phArm v) (by rw [hphase]; decide) (onAgent .fjz f s.fresh)
  refine ⟨t, hexec, htsu, ?_, (s.fjz.pronk (qHerdId (withPhase phArm v))), ?_⟩
  · rw [hkeeps Fjz.pronkHerd fun _ _ => rfl, of_bare Fjz.pronkHerd (fun _ => rfl) hbare]
    rfl
  · rw [hkeeps (Fjz.pronk · _) fun _ _ => rfl, pronk_of_bare hbare, pronk_onPronk_same, hphase]
    rfl

/-- A STEP leaves the top with the counters begun anew and no origin (R136, R145). -/
theorem pronkRequestStep_taken (h : admits .fjz q 0x5900 1 .wo (bvBytes (withPhase phStep v)) s = true)
    (hready : requestReady (withPhase phStep v) s = true) (hrange : requestRange (withPhase phStep v) s = true) :
    ∃ t, exec (.pronkRequestStep q v) s = .next t ∧ t.tsu = s.tsu ∧ (t.fjz.pronk (qHerdId (withPhase phStep v))).phase = 4 ∧
      (t.fjz.pronk (qHerdId (withPhase phStep v))).seq = qSeq (withPhase phStep v) ∧
      (t.fjz.pronk (qHerdId (withPhase phStep v))).origin = false := by
  have hphase : qPhase (withPhase phStep v) = 4 := qPhase_withPhase phStep v
  obtain ⟨f, t, hexec, htsu, hkeeps⟩ := pronkRequest_taken (c := .pronkRequestStep q v) rfl h hready hrange
  have hbare := bare_takePronkRequest (v := withPhase phStep v) (by rw [hphase]; decide) (onAgent .fjz f s.fresh)
  have hpronk := hkeeps (Fjz.pronk · (qHerdId (withPhase phStep v))) fun _ _ => rfl
  rw [pronk_of_bare hbare, pronk_onPronk_same, hphase] at hpronk
  exact ⟨t, hexec, htsu, by rw [hpronk]; rfl, by rw [hpronk]; rfl, by rw [hpronk]; rfl⟩

/-- A cancel is the origin's ABORT (R145). -/
theorem pronkCancel_taken (h : admits .fjz q 0x5900 1 .wo (bvBytes (withPhase phCancel v)) s = true)
    (hready : requestReady (withPhase phCancel v) s = true) :
    ∃ t, exec (.pronkCancel q v) s = .next t ∧ t.tsu = s.tsu ∧ (t.fjz.pronk (qHerdId (withPhase phCancel v))).phase = 3 ∧
      (t.fjz.pronk (qHerdId (withPhase phCancel v))).origin = false ∧
      (t.fjz.pronk (qHerdId (withPhase phCancel v))).seq = (s.fjz.pronk (qHerdId (withPhase phCancel v))).seq := by
  have hphase : qPhase (withPhase phCancel v) = phCancel := qPhase_withPhase phCancel v
  have hrange : requestRange (withPhase phCancel v) s = true := if_pos hphase
  obtain ⟨f, t, hexec, htsu, hkeeps⟩ := pronkRequest_taken (c := .pronkCancel q v) rfl h hready hrange
  have hpronk := hkeeps (Fjz.pronk · (qHerdId (withPhase phCancel v))) fun _ _ => rfl
  rw [takePronkRequest, if_pos hphase, pronk_pronkFinal] at hpronk
  exact ⟨t, hexec, htsu, by rw [hpronk]; rfl, by rw [hpronk], by rw [hpronk]; rfl⟩

end Request

/-- The counts of an ACK at the origin, and the origin's decision on them (R144, R145). -/
theorem pronkAck_decides {p : Nat} {c : Cell} {s : State} {k : PronkCtr} (hp : p < 72) (hw : s.fjz.works = true)
    (h : arrives .fjz p 5 c s = true) (hphase : kPhase c = 1) (hside : isChildSide s .fjz p = false)
    (hholds : s.fjz.holdsHerd (kHerd c) = true) (hseq : (s.fjz.pronk (kHerd c)).seq = kSeq c)
    (ho : (s.fjz.pronk (kHerd c)).origin = true) (hk : ackCounted p c (s.fjz.pronk (kHerd c)) = k) :
    ∃ t, exec (.pronkAck p c) s = .next t ∧ t.tsu = s.tsu ∧ (t.fjz.pronk (kHerd c)).ready = k.ready ∧
      (t.fjz.pronk (kHerd c)).refused = k.refused ∧
      (0 < k.refusedSum → (t.fjz.pronk (kHerd c)).phase = 3 ∧ (t.fjz.pronk (kHerd c)).origin = false) ∧
      (k.refusedSum = 0 → k.readySum = k.memberCount.toNat →
        (t.fjz.pronk (kHerd c)).phase = 2 ∧ (t.fjz.pronk (kHerd c)).origin = false) ∧
      (k.refusedSum = 0 → k.readySum ≠ k.memberCount.toNat → t.fjz.pronk (kHerd c) = k) := by
  obtain ⟨u, hexec, htsu, hcounted⟩ := pronkAck_counts hp hw h hphase hside hholds hseq
  obtain ⟨habort, hcommit, hwait⟩ := pronk_pronkJudge (hcounted.trans hk) (hk ▸ ho)
  refine ⟨_, hexec, htsu, ?_, ?_, fun href => ?_, fun href hready => ?_, hwait⟩
  · exact pronk_pronkJudge_counts (·.ready) (fun _ _ => rfl) (hcounted.trans hk)
  · exact pronk_pronkJudge_counts (·.refused) (fun _ _ => rfl) (hcounted.trans hk)
  · rw [habort href]; exact ⟨rfl, rfl⟩
  · rw [hcommit href hready]; exact ⟨rfl, rfl⟩

/-- Settles O36, by what each command leaves of the counters of its herd: the origin's last word, the counts of an ACK, the sums that
leave, and the counters begun anew. -/
theorem pronkOnTheTree : Obligations.PronkOnTheTree := by
  refine ⟨?_, ?_, ?_, ?_, ?_, fun herd s hw hholds htop hnever hchanged => pronkCountSend_sends hw hholds htop hnever hchanged, ?_⟩
  · intro q v s w h
    refine ⟨fun hready => ?_, fun hready hrange => ?_, fun hready hrange => ?_⟩
    · exact pronkRequest_refused (c := .pronkRequestArm q v) rfl h (.inl ⟨hready, rfl⟩)
    · exact pronkRequest_refused (c := .pronkRequestArm q v) rfl h (.inr ⟨hready, hrange, rfl⟩)
    · obtain ⟨t, hexec, htsu, hherd, k, hk⟩ := pronkRequestArm_taken h hready hrange
      refine ⟨t, hexec, htsu, hherd, ?_⟩
      rw [hk]
      exact ⟨rfl, rfl, rfl, rfl, rfl, rfl, rfl, rfl⟩
  · intro q v s w h hready hrange
    exact pronkRequestStep_taken h hready hrange
  · intro q v s w h hready
    exact pronkCancel_taken h hready
  · intro p c s hp hw h hphase hside hholds hseq ho k k'
    exact pronkAck_decides hp hw h hphase hside hholds hseq ho rfl
  · intro herd s hw ho href hdue
    have hpronk := pronk_pronkFinal herd phCommit 0 s.fresh
    refine ⟨_, pronkCommitDeadline_commits hw ho href hdue, tsu_of_beside_fresh (beside_pronkFinal ..), ?_⟩
    rw [hpronk]
    exact ⟨rfl, rfl⟩
  · intro p c s hp hw h hparent hholds hphase
    have hbare : (pronkDown true c (beginsFor c (received .fjz p c s))).fjz.bare = _ := bare_pronkDown true c _
    refine ⟨_, pronkForward_begins hp hw h hparent hholds hphase, ?_, ?_⟩
    · exact (tsu_of_beside (beside_pronkDown ..)).trans (received_tsu p c s)
    · rw [pronk_of_bare hbare, beginsFor, pronk_onPronk_same]
      exact ⟨rfl, rfl, rfl, rfl, fun p' hp' => queued_pronkForward h hp'⟩

end Sys2Proof
end

section
/-! PROOFS. What the records of the die leave alone, and the writes of the stream ledger (O42). -/

namespace Sys2Proof

open Machine

/-! ## The die beside its records -/

/-- The die without what the meter core and the tap write: their records, and the interrupt of the meter's ring. -/
def besideRecords (t : Tsu) : Tsu := { t with meter := {}, intStatus := 0, staging := [], tapSeq := 0, tapDropped := 0 }

/-- What the records do not show stays where `besideRecords` does. -/
theorem of_besideRecords {γ : Type} (g : Tsu → γ) (hg : ∀ t, g (besideRecords t) = g t) {t u : Tsu}
    (h : besideRecords t = besideRecords u) : g t = g u := by
  rw [← hg t, h, hg]

theorem herds_of_besideRecords {t u : Tsu} (h : besideRecords t = besideRecords u) : t.herds = u.herds :=
  of_besideRecords Tsu.herds (fun _ => rfl) h

theorem ledger_of_besideRecords {t u : Tsu} (h : besideRecords t = besideRecords u) : t.ledger = u.ledger :=
  of_besideRecords Tsu.ledger (fun _ => rfl) h

@[simp] theorem besideRecords_enterRing (b : BitVec 768) (t : Tsu) : besideRecords (enterRing b t) = besideRecords t := by
  unfold enterRing
  dsimp only
  split
  · rfl
  · rfl

@[simp] theorem besideRecords_moveFinal (t : Tsu) : besideRecords (moveFinal t) = besideRecords t := by
  unfold moveFinal
  split
  · rfl
  split
  · rfl
  dsimp only
  split
  · exact besideRecords_enterRing _ _
  · rfl

@[simp] theorem besideRecords_moveFinals (t : Tsu) : besideRecords (moveFinals t) = besideRecords t :=
  forAll_keeps besideRecords (fun _ => moveFinal) (fun _ => besideRecords_moveFinal) _ t

@[simp] theorem besideRecords_dropRecord (t : Tsu) : besideRecords (dropRecord t) = besideRecords t := by
  unfold dropRecord
  dsimp only
  split
  · rfl
  · rfl

@[simp] theorem besideRecords_issue (typ flags : Nat) (rest : List (Nat × Nat × Nat)) (recNs : Nat) (t : Tsu) :
    besideRecords (issue typ flags rest recNs t) = besideRecords t := by
  unfold issue
  dsimp only
  split
  · simp
  · exact (besideRecords_enterRing _ _).trans (besideRecords_moveFinals t)

@[simp] theorem besideRecords_logTamper (code detail aux : Nat) (t : Tsu) : besideRecords (logTamper code detail aux t) = besideRecords t := by
  unfold logTamper
  dsimp only
  split_ifs
  · rfl
  · rfl
  · exact besideRecords_issue ..

theorem besideRecords_ignored (t : Tsu) : besideRecords (ignored t) = besideRecords t := by
  unfold ignored
  dsimp only
  split
  · rfl
  · exact besideRecords_logTamper ..

/-- A step event of the meter core, where it leaves what is beside the records (R356). -/
theorem besideRecords_meterEvent {f : Tsu → Tsu} {t : Tsu} (hf : besideRecords (f t) = besideRecords t) :
    besideRecords (meterEvent f t) = besideRecords t := by
  unfold meterEvent
  split
  · exact besideRecords_ignored t
  · exact hf

theorem besideRecords_activate (i : Nat) (stream : U32) (tenant : Id24) (ns : Nat) (t : Tsu) :
    besideRecords (activate i stream tenant ns t) = besideRecords t := rfl

@[simp] theorem besideRecords_tap (kind : Nat) (data : Bytes) (s : State) : besideRecords (tap kind data s).tsu = besideRecords s.tsu := by
  unfold tap
  dsimp only
  split_ifs
  · rfl
  · rfl
  · rfl
  · rfl

@[simp] theorem besideRecords_tapHerd (kind h : Nat) (content : Bytes) (s : State) :
    besideRecords (tapHerd kind h content s).tsu = besideRecords s.tsu := besideRecords_tap ..

/-! ## One entry of the ledger -/

@[simp] theorem entry_setEntry_same (i : Nat) (e : BitVec 256) (s : State) : (setEntry i e s).tsu.entry i = e := Tbl.get_set_same ..

theorem entry_setEntry_ne {i j : Nat} (h : j ≠ i) (e : BitVec 256) (s : State) : (setEntry i e s).tsu.entry j = s.tsu.entry j :=
  Tbl.get_set_ne 0 s.tsu.ledger e h

/-- The context that a write of an entry is judged by. -/
def entryHerd (t : Tsu) (i : Nat) : Herd := match t.ledgerOwner i with | some h => t.herd h | none => {}

/-- An applied write sets its entry as R222 says; the rest of it is records (R268, R272). -/
theorem besideRecords_applyLedger (i : Nat) (v : BitVec 256) (s : State) :
    besideRecords (applyLedger i v s).tsu = besideRecords (setEntry i (writtenEntry (entryHerd s.tsu i) (s.tsu.entry i) v) s).tsu := by
  have hactive (b : Bool) (w : BitVec 256) (ns : Nat) (u : State) :
      besideRecords (if b then onTsu (meterEvent (activate i (lStream w) (lTenant w) ns)) u else u).tsu = besideRecords u.tsu := by
    cases b
    · rfl
    · exact besideRecords_meterEvent (besideRecords_activate ..)
  unfold applyLedger entryHerd
  dsimp only
  cases s.tsu.ledgerOwner i with
  | none => exact (besideRecords_tap ..).trans (hactive ..)
  | some h => exact (besideRecords_tapHerd ..).trans (hactive ..)

end Sys2Proof
end

section
/-! PROOFS. Writes of ledger entries and the advances of regions (O42). -/

namespace Sys2Proof

open Machine

/-! ## Octets of a word -/

theorem length_leBytes (n x : Nat) : (leBytes n x).length = n := by
  induction n generalizing x with
  | zero => rfl
  | succ n ih => exact congrArg (· + 1) (ih _)

/-- The octets of a number, and more behind them, spell the number and what the rest spells above it. -/
theorem ofLe_leBytes_append (n x : Nat) (bs : Bytes) : ofLe (leBytes n x ++ bs) = x % 256 ^ n + 256 ^ n * ofLe bs := by
  induction n generalizing x with
  | zero => simp [leBytes, Nat.mod_one]
  | succ n ih =>
    have hdigit : x % 256 ^ (n + 1) = x % 256 + 256 * (x / 256 % 256 ^ n) := by rw [pow_succ', Nat.mod_mul]
    have hhead : (BitVec.ofNat 8 x).toNat = x % 256 := by simp
    rw [leBytes, List.cons_append, ofLe, ih, hhead, hdigit, pow_succ']
    ring

theorem bytesBv_bvBytes_append (v : BitVec 256) (bs : Bytes) : bytesBv 256 (bvBytes v ++ bs) = v := by
  refine BitVec.eq_of_toNat_eq ?_
  have h := ofLe_leBytes_append 32 v.toNat bs
  have hlt := v.isLt
  rw [bytesBv, bvBytes, h, BitVec.toNat_ofNat, show (256 : Nat) ^ 32 = 2 ^ 256 by norm_num, Nat.add_mul_mod_self_left, Nat.mod_mod,
    Nat.mod_eq_of_lt hlt]

/-! ## The tenant of a write (R272) -/

/-- What the tenant slots do not show, the allocation of one leaves alone. -/
theorem allocTenant_keeps {γ : Type} (g : Meter → γ) (hg : ∀ m a b, g { m with tenantsA := a, tenantsB := b } = g m) (id : Id24) (m : Meter) :
    g (allocTenant id m) = g m := by
  unfold allocTenant
  split
  · rfl
  split
  · exact hg ..
  · rfl

theorem tenant_word_named (id : Id24) : tnValid (pack 256 [(0, 24, id.toNat), (24, 1, 1)]) = true ∧
    tnId (pack 256 [(0, 24, id.toNat), (24, 1, 1)]) = id :=
  ⟨bitOf_pack (b := true) rfl (by simp [b2n]), fld_pack rfl (by simp)⟩

/-- A tenant that has a slot, or can be given one, has one after the allocation. -/
theorem tenantOk_allocTenant {m : Meter} {v : BitVec 256} (h : tenantOk m v = true) : tenantOk (allocTenant (lTenant v) m) v = true := by
  unfold allocTenant
  split
  · exact h
  split
  next k hfree =>
    obtain ⟨hvalid, hid⟩ := tenant_word_named (lTenant v)
    generalize pack 256 [(0, 24, (lTenant v).toNat), (24, 1, 1)] = w at hvalid hid ⊢
    have hne : w ≠ 0 := fun h0 => by rw [h0] at hvalid; exact absurd hvalid (by decide)
    have hmem := (Tbl.get_mem 0 (m.tenantsA.set 0 k w) k).resolve_right (by rwa [Tbl.get_set_same])
    rw [Tbl.get_set_same] at hmem
    have hfound : ((m.setTenant k w).tenantSlot (lTenant v)).isSome = true := by
      rw [Meter.tenantSlot, Option.isSome_map, List.find?_isSome]
      exact ⟨_, hmem, by simp [hvalid, hid]⟩
    rw [tenantOk, hfound, Bool.true_or]
  · exact h

/-- Whether a write is admitted is told by the meter through its slot of the entry and the tenants alone. -/
theorem ledgerReadyFor_meter {t : Tsu} {m : Meter} {i : Nat} {v : BitVec 256} {iter : Option U64} (hslot : m.slot i = t.meter.slot i)
    (htenant : tenantOk m v = tenantOk t.meter v) : ledgerReadyFor { t with meter := m } i v iter = ledgerReadyFor t i v iter := by
  have hingress (old : BitVec 256) : ingressOk { t with meter := m } i old v = ingressOk t i old v := by
    unfold ingressOk
    dsimp only
    rw [hslot]
  have howner : liveOwner { t with meter := m } i = liveOwner t i := rfl
  unfold ledgerReadyFor
  rw [howner]
  dsimp only
  rw [hslot, htenant]
  cases liveOwner t i with
  | none =>
    dsimp only
    rw [hingress]
    rfl
  | some h =>
    dsimp only
    rw [hingress]
    rfl

/-! ## The request -/

/-- The block with the tenant slot that an admitted write allocates. -/
def withTenant (v : BitVec 256) (s : State) : State := onMeter (allocTenant (lTenant v)) s

/-- The allocation of its tenant keeps a write admitted. -/
theorem ledgerReadyFor_withTenant {v : BitVec 256} {i : Nat} {iter : Option U64} {s : State} (h : ledgerReadyFor s.tsu i v iter = true) :
    ledgerReadyFor (withTenant v s).tsu i v iter = true := by
  have htenant : tenantOk s.tsu.meter v = true := by
    rw [ledgerReadyFor, Bool.and_eq_true, Bool.and_eq_true] at h
    exact h.1.2
  have hslot : (allocTenant (lTenant v) s.tsu.meter).slot i = s.tsu.meter.slot i := allocTenant_keeps (Meter.slot · i) (fun _ _ _ => rfl) _ _
  exact (ledgerReadyFor_meter hslot ((tenantOk_allocTenant htenant).trans htenant.symm)).trans h

theorem countFragments_withTenant (v : BitVec 256) (p n : Nat) (s : State) :
    countFragments .tsu p n (withTenant v s) = withTenant v (countFragments .tsu p n s) := by
  have hup : isUp (withTenant v s) .tsu p = isUp s .tsu p := rfl
  unfold countFragments
  rw [hup]
  split
  · rfl
  · rfl

theorem heard_withTenant (q : Req) (v : BitVec 256) (s : State) : heard q (withTenant v s) = withTenant v (heard q s) := by
  have hfresh : (withTenant v s).fresh = withTenant v s.fresh := rfl
  unfold heard tunnelCells
  rw [hfresh]
  cases q.src with
  | tunA => exact countFragments_withTenant ..
  | tunB => exact countFragments_withTenant ..
  | _ => rfl

/-- The checks of an agent do not look at the tenants. -/
theorem admits_withTenant (d : Dev) (q : Req) (i j : Nat) (a : Access) (b : Bytes) (v : BitVec 256) (s : State) (k e : Nat) :
    admits d q i j a b (withTenant v s) k e = admits d q i j a b s k e := by
  have hsealed : (withTenant v s).tsu.meter.isSealed = s.tsu.meter.isSealed := allocTenant_keeps Meter.isSealed (fun _ _ _ => rfl) _ _
  unfold admits
  rw [hsealed]
  cases d
  · rfl
  · rfl

/-- An admitted request reaches what serves it. -/
theorem takeRequest_admitted {d : Dev} {q : Req} {i j : Nat} {a : Access} {b : Bytes} {s : State} {k e : Nat} (serve : State → State)
    (h : admits d q i j a b s k e = true) : takeRequest d q i j b serve s.fresh = serve (heard q s) := by
  have hroute := admits_heard d q q i j a b s k e
  rw [h] at hroute
  simp only [admits, heardNow, Bool.and_eq_true, decide_eq_true_eq, Bool.or_eq_true] at h hroute
  obtain ⟨⟨⟨⟨⟨⟨⟨⟨⟨⟨⟨⟨-, hzdp⟩, hup⟩, hsrc⟩, -⟩, -⟩, -⟩, -⟩, -⟩, -⟩, hlen⟩, -⟩, -⟩ := h
  obtain ⟨⟨⟨⟨⟨⟨⟨⟨⟨-, hhere⟩, -⟩, -⟩, -⟩, -⟩, -⟩, -⟩, -⟩, -⟩ := hroute
  have hopen : ¬ (q.src = .net ∧ (!zdpHeard s.fresh.fjz q) = true) := by
    rintro ⟨hnet, hdeaf⟩
    rcases hzdp with hother | hheard
    · exact hother hnet
    · simp [hheard] at hdeaf
  have hup' : agentUp s.fresh d = true := by rw [← hup]; cases d <;> rfl
  unfold heard at hhere ⊢
  rw [hlen] at hhere ⊢
  simp only [takeRequest, hup', hsrc, hopen, hhere, Bool.not_true, Bool.false_eq_true, or_self, if_false]

end Sys2Proof
end

section
/-! PROOFS. Writes of ledger entries and the advances of regions (O42), second part: the commands. -/

namespace Sys2Proof

open Machine

/-- An admitted write of the ledger that waits has the response PENDING (R140, R322). -/
theorem agentWrite_waits {q : Req} {c : Instr} (hpl : placeOf c = requestPlace .tsu q) {op : WriteOp} {s : State} {x e n : Nat}
    (h : admits .tsu q op.index op.sub op.access op.bytes s op.kind op.elem = true)
    (hst : writeStatus (heard q s) .tsu (asTaken q) op = stOk) (hcls : op.cls (taken .tsu q s) = .ledger x e n) (haccept : op.accept = id) :
    perform true (inTurn c (agentWrite .tsu q op)) s = .next (enterErrs (answered .tsu q op.index op.sub stPending
      (park .tsu (asTaken q) op (.ledger x e n) (taken .tsu q s)))) := by
  have hlog (u : State) : logSealed .tsu op.access stOk op.index op.sub u = u := by simp [logSealed, stOk, stWorld, stSealed]
  have hfind := findRsp_admitted ((admits_heard .tsu q q ..).trans h)
  rw [perform_true, inTurn_heard hpl (agentWrite_admitted h).1, (agentWrite_admitted h).2, serveWrite]
  unfold taken at hcls ⊢
  simp only [hfind, hst, hlog, hcls, haccept, ne_eq, not_true_eq_false, if_false]
  rfl

section Entry
variable {q : Req} {v : BitVec 256} {iter : Option U64} {i : Nat} {s : State}

theorem size_wLedgerEntry (i : Nat) (v : BitVec 256) (iter : Option U64) : (wLedgerEntry i v iter).size = (wLedgerEntry i v iter).bytes.length := by
  cases iter with
  | none => simp [wLedgerEntry, bvBytes, length_leBytes]
  | some x => simp [wLedgerEntry, bvBytes, length_leBytes]

theorem ready_heard (q : Req) (s : State) : (wLedgerEntry i v iter).ready (heard q s) = ledgerReadyFor s.tsu i v iter :=
  heard_keeps (fun u => ledgerReadyFor u.tsu i v iter) (fun _ _ _ => rfl) q s

theorem cls_wLedgerEntry_none {u : State} (h : liveOwner u.tsu i = none) : (wLedgerEntry i v iter).cls u = .now := by
  unfold wLedgerEntry
  dsimp only
  rw [h]

theorem cls_wLedgerEntry_some {u : State} {c : Nat} (h : liveOwner u.tsu i = some c) :
    (wLedgerEntry i v iter).cls u = .ledger c i (applyIterOf iter) := by
  unfold wLedgerEntry
  dsimp only
  rw [h]

/-- A write of a ledger entry is judged by the entry and its owner alone (R139, R140). -/
theorem ledgerEntry_status (h : admits .tsu q 0x5090 2 .rw (wLedgerEntry i v iter).bytes s 2 i = true) (hi : i < 65536)
    (hrange : lPos v ≤ lLimit v ∧ lState v ≤ lsFaulted)
    (hroom : liveOwner s.tsu i = none ∨ s.tsu.agent.heldLedger.length < 1024) :
    writeStatus (heard q s) .tsu (asTaken q) (wLedgerEntry i v iter) = if ledgerReadyFor s.tsu i v iter then stOk else stState := by
  have hlive : liveOwner (heard q s).tsu i = liveOwner s.tsu i := heard_keeps (fun u => liveOwner u.tsu i) (fun _ _ _ => rfl) q s
  have hfree : (waits (heard q s) ((wLedgerEntry i v iter).cls (heard q s)) &&
      pendingFull (agent (heard q s) .tsu) ((wLedgerEntry i v iter).cls (heard q s))) = false := by
    cases hl : liveOwner s.tsu i with
    | none => rw [cls_wLedgerEntry_none (hlive.trans hl)]; rfl
    | some c =>
      have hlen : s.tsu.agent.heldLedger.length < 1024 := hroom.resolve_left (by rw [hl]; simp)
      rw [cls_wLedgerEntry_some (hlive.trans hl), heard_agent]
      exact Bool.and_eq_false_iff.mpr (.inr (decide_eq_false (Nat.not_le_of_lt hlen)))
  have hin : (wLedgerEntry i v iter).range (heard q s) = true := decide_eq_true hrange
  have hpresent : (wLedgerEntry i v iter).present (heard q s) = true := decide_eq_true hi
  rw [writeStatus_admitted (op := wLedgerEntry i v iter) (by rw [admits_heard]; exact h) rfl (.inl (size_wLedgerEntry i v iter)),
    hfree, hin, hpresent, ready_heard]
  cases ledgerReadyFor s.tsu i v iter <;> rfl

/-- A write of a ledger entry is served as any other, with the tenant slot that its acceptance allocates (R272). -/
theorem ledgerEntry_serves (hel : element s .tsu q 0x5090 1 = i)
    (h : admits .tsu q 0x5090 2 .rw (wLedgerEntry i v iter).bytes s 2 i = true)
    (hst : writeStatus (heard q s) .tsu (asTaken q) (wLedgerEntry i v iter) = if ledgerReadyFor s.tsu i v iter then stOk else stState) :
    exec (.ledgerEntry q v iter) s = perform true (inTurn (.ledgerEntry q v iter) (agentWrite .tsu q (wLedgerEntry i v iter)))
      (if ledgerReadyFor s.tsu i v iter then withTenant v s else s) := by
  have hserve (u : State) (hu : admits .tsu q 0x5090 2 .rw (wLedgerEntry i v iter).bytes u 2 i = true) :
      perform true (inTurn (.ledgerEntry q v iter) (agentWrite .tsu q (wLedgerEntry i v iter))) u =
        .next (enterErrs (serveWrite .tsu q (wLedgerEntry i v iter) (heard q u))) := by
    have hu' := agentWrite_admitted (op := wLedgerEntry i v iter) hu
    rw [perform_true, inTurn_heard rfl hu'.1, hu'.2]
  have hexec : exec (.ledgerEntry q v iter) s = .next (enterErrs (ledgerWrite q (wLedgerEntry i v iter) v (heard q s))) := by
    have hheard := (agentWrite_admitted (op := wLedgerEntry i v iter) h).1
    rw [exec, execLedgerEntry, perform_true, inTurn_heard rfl hheard]
    dsimp only
    rw [element_fresh, hel]
    exact congrArg (fun u => Host.Outcome.next (enterErrs u)) (takeRequest_admitted _ h)
  have hfind : findRsp (heard q s).tsu.agent (asTaken q) = none := by
    have hnone := findRsp_admitted ((admits_heard .tsu q q ..).trans h)
    exact hnone
  rw [hexec, ledgerWrite, hfind, hst]
  cases hready : ledgerReadyFor s.tsu i v iter with
  | false => exact (hserve s h).symm
  | true =>
    refine Eq.trans ?_ (hserve (withTenant v s) ((admits_withTenant ..).trans h)).symm
    rw [heard_withTenant]
    rfl

/-- A write that the entry or its owner does not allow is refused with STATE, and changes nothing (R139, R140). -/
theorem ledgerEntry_refused (hel : element s .tsu q 0x5090 1 = i)
    (h : admits .tsu q 0x5090 2 .rw (wLedgerEntry i v iter).bytes s 2 i = true) (hi : i < 65536)
    (hready : ledgerReadyFor s.tsu i v iter = false) :
    exec (.ledgerEntry q v iter) s = .next (answered .tsu q 0x5090 2 stState (taken .tsu q s)) := by
  have hpresent : (wLedgerEntry i v iter).present (heard q s) = true := decide_eq_true hi
  have hno : (wLedgerEntry i v iter).ready (heard q s) = false := (ready_heard q s).trans hready
  have hst : writeStatus (heard q s) .tsu (asTaken q) (wLedgerEntry i v iter) = stState := by
    rw [writeStatus_admitted (op := wLedgerEntry i v iter) ((admits_heard ..).trans h) rfl (.inl (size_wLedgerEntry i v iter)),
      hpresent, hno]
    rfl
  rw [ledgerEntry_serves hel h (by rw [hst, hready]; rfl), hready, if_neg (by simp),
    agentWrite_refuses (op := wLedgerEntry i v iter) rfl h rfl (.inl (size_wLedgerEntry i v iter)) hpresent (.inl ⟨hno, rfl⟩)]
  exact congrArg Host.Outcome.next (enterErrs_nil ((answered_staged ..).trans (taken_staged .tsu q s)))

/-- An admitted write of an entry without a live owner takes effect at once, in the block with its tenant. -/
theorem ledgerEntry_takes (hel : element s .tsu q 0x5090 1 = i)
    (h : admits .tsu q 0x5090 2 .rw (wLedgerEntry i v iter).bytes s 2 i = true) (hi : i < 65536)
    (hrange : lPos v ≤ lLimit v ∧ lState v ≤ lsFaulted) (hready : ledgerReadyFor s.tsu i v iter = true) (hlive : liveOwner s.tsu i = none) :
    exec (.ledgerEntry q v iter) s =
      .next (enterErrs (answered .tsu q 0x5090 2 stOk (applyLedger i v (taken .tsu q (withTenant v s))))) := by
  have hst := ledgerEntry_status h hi hrange (.inl hlive)
  have hready' : ledgerReadyFor (withTenant v s).tsu i v iter = true := ledgerReadyFor_withTenant hready
  have hheard : liveOwner (heard q (withTenant v s)).tsu i = none :=
    (heard_keeps (fun u => liveOwner u.tsu i) (fun _ _ _ => rfl) q (withTenant v s)).trans hlive
  have htaken : liveOwner (taken .tsu q (withTenant v s)).tsu i = none :=
    (taken_keeps (d := .tsu) (fun u => liveOwner u.tsu i) (fun _ _ _ => rfl) (fun _ _ => rfl) q (withTenant v s)).trans hlive
  rw [ledgerEntry_serves hel h hst, hready, if_pos rfl]
  exact agentWrite_takes (op := wLedgerEntry i v iter) rfl ((admits_withTenant ..).trans h) rfl (.inl (size_wLedgerEntry i v iter))
    (decide_eq_true hi) ((ready_heard q _).trans hready') (decide_eq_true hrange) (cls_wLedgerEntry_none hheard)
    (cls_wLedgerEntry_none htaken) rfl

/-- An admitted write of an entry with a live owner waits for its iteration, in the block with its tenant (R140). -/
theorem ledgerEntry_waits {c : Nat} (hel : element s .tsu q 0x5090 1 = i)
    (h : admits .tsu q 0x5090 2 .rw (wLedgerEntry i v iter).bytes s 2 i = true) (hi : i < 65536)
    (hrange : lPos v ≤ lLimit v ∧ lState v ≤ lsFaulted) (hready : ledgerReadyFor s.tsu i v iter = true)
    (hlive : liveOwner s.tsu i = some c) (hroom : s.tsu.agent.heldLedger.length < 1024) :
    exec (.ledgerEntry q v iter) s = .next (enterErrs (answered .tsu q 0x5090 2 stPending
      (park .tsu (asTaken q) (wLedgerEntry i v iter) (.ledger c i (applyIterOf iter)) (taken .tsu q (withTenant v s))))) := by
  have hst := ledgerEntry_status h hi hrange (.inr hroom)
  have hready' : ledgerReadyFor (withTenant v s).tsu i v iter = true := ledgerReadyFor_withTenant hready
  have hadmits := (admits_withTenant .tsu q 0x5090 2 .rw (wLedgerEntry i v iter).bytes v s 2 i).trans h
  have hst' := ledgerEntry_status hadmits hi hrange (.inr hroom)
  rw [hready', if_pos rfl] at hst'
  have hcls : (wLedgerEntry i v iter).cls (taken .tsu q (withTenant v s)) = .ledger c i (applyIterOf iter) :=
    cls_wLedgerEntry_some
      ((taken_keeps (d := .tsu) (fun u => liveOwner u.tsu i) (fun _ _ _ => rfl) (fun _ _ => rfl) q (withTenant v s)).trans hlive)
  rw [ledgerEntry_serves hel h hst, hready, if_pos rfl]
  exact agentWrite_waits (op := wLedgerEntry i v iter) rfl hadmits hst' hcls rfl

end Entry

/-! ## The advances of regions (R138) -/

/-- An advance that the region may add, to a word that can be read. -/
theorem advPending_adds {region e : Nat} {amount : U8} {s : State} (hmay : mayAdvance s.tsu region e = true)
    (hbad : s.tsu.badLedger.contains e = false) :
    advPending region e amount s = setEntry e (putN (s.tsu.entry e) 112 8 (min 255 (lAdv (s.tsu.entry e) + amount.toNat))) s := by
  unfold advPending
  rw [if_neg (by rw [hmay, hbad]; simp)]

/-- A word that can be read is among no unreadable ones, and stays so when it is written. -/
theorem badLedger_setEntry {i : Nat} {s : State} (hbad : s.tsu.badLedger.contains i = false) (e : BitVec 256) :
    (setEntry i e s).tsu.badLedger = s.tsu.badLedger := by
  refine List.filter_eq_self.mpr fun k hk => decide_eq_true fun hki => ?_
  subst hki
  simp [hk] at hbad

theorem advanced_fields (e : BitVec 256) (n : Nat) : lAdv (putN e 112 8 n) = n % 256 ∧ lPos (putN e 112 8 n) = lPos e ∧
    lState (putN e 112 8 n) = lState e :=
  ⟨fldN_putN_same e n (by decide), fldN_putN_beside e n (by decide), fldN_putN_beside e n (by decide)⟩

/-- What an advance leaves (R138). -/
theorem advPending_fields {region e : Nat} {amount : U8} {s : State} (hmay : mayAdvance s.tsu region e = true)
    (hbad : s.tsu.badLedger.contains e = false) :
    lAdv ((advPending region e amount s).tsu.entry e) = min 255 (lAdv (s.tsu.entry e) + amount.toNat) ∧
      lPos ((advPending region e amount s).tsu.entry e) = lPos (s.tsu.entry e) ∧
      lState ((advPending region e amount s).tsu.entry e) = lState (s.tsu.entry e) ∧
      (∀ j, j ≠ e → (advPending region e amount s).tsu.entry j = s.tsu.entry j) ∧
      advPending region e amount s = { s with tsu := { s.tsu with ledger := (advPending region e amount s).tsu.ledger } } := by
  obtain ⟨hadv, hpos, hstate⟩ := advanced_fields (s.tsu.entry e) (min 255 (lAdv (s.tsu.entry e) + amount.toNat))
  rw [advPending_adds hmay hbad, entry_setEntry_same]
  refine ⟨hadv.trans (Nat.mod_eq_of_lt (by omega)), hpos, hstate, fun j hj => entry_setEntry_ne hj .., ?_⟩
  generalize putN (s.tsu.entry e) 112 8 (min 255 (lAdv (s.tsu.entry e) + amount.toNat)) = w
  have hparts : setEntry e w s =
      { s with tsu := { s.tsu with ledger := (setEntry e w s).tsu.ledger, badLedger := (setEntry e w s).tsu.badLedger } } := rfl
  rw [badLedger_setEntry hbad] at hparts
  exact hparts

theorem ledgerAdvPending_next {region : Nat} {entry : U16} {amount : U8} {s : State} (hw : s.tsu.works = true) (hr : region < 52)
    (hnext : tokenNext (inPhase 3 0) region qLedger s = true) :
    exec (.ledgerAdvPending region entry amount) s = .next (enterErrs (advPending region entry.toNat amount (tookToken region qLedger s))) :=
  performOn_token (i := .ledgerAdvPending region entry amount) (decide_eq_true hr) hw hnext

theorem mayAdvance_tookToken (region n q e : Nat) (s : State) : mayAdvance (tookToken n q s).tsu region e = mayAdvance s.tsu region e := rfl

/-! ## The entry that a write leaves -/

/-- What neither a request's arrival nor its tenant shows is as it was. -/
theorem taken_withTenant_keeps {γ : Type} {g : Tsu → γ}
    (hg : ∀ t w busy done irq dropped ports a, g (Tsu.answering t w busy done irq dropped ports a) = g t)
    (hm : ∀ t m, g { t with meter := m } = g t) (q : Req) (v : BitVec 256) (s : State) : g (taken .tsu q (withTenant v s)).tsu = g s.tsu :=
  (taken_die_keeps hg q (withTenant v s)).trans (hm s.tsu _)

/-- An applied write, as its answer shows it: what the records do not show is the entry's alone. -/
theorem applied_keeps {γ : Type} {g : Tsu → γ} (hb : ∀ t, g (besideRecords t) = g t)
    (hg : ∀ t w busy done irq dropped ports a, g (Tsu.answering t w busy done irq dropped ports a) = g t)
    (q : Req) (i : Nat) (v : BitVec 256) (u : State) :
    g (answered .tsu q 0x5090 2 stOk (applyLedger i v u)).tsu =
      g (setEntry i (writtenEntry (entryHerd u.tsu i) (u.tsu.entry i) v) u).tsu :=
  (answered_die_keeps hg ..).trans (of_besideRecords g hb (besideRecords_applyLedger i v u))

/-- What an applied write leaves, as its answer shows it. -/
theorem applied_entry {q : Req} {i : Nat} {v : BitVec 256} {s t : State}
    (ht : t = enterErrs (answered .tsu q 0x5090 2 stOk (applyLedger i v (taken .tsu q (withTenant v s))))) :
    t.fjz = s.fjz ∧ t.tsu.tc = s.tsu.tc ∧ t.tsu.herds = s.tsu.herds ∧
      t.tsu.entry i = writtenEntry (entryHerd s.tsu i) (s.tsu.entry i) v ∧ ∀ j, j ≠ i → t.tsu.entry j = s.tsu.entry j := by
  subst ht
  have hherd : entryHerd (taken .tsu q (withTenant v s)).tsu i = entryHerd s.tsu i :=
    taken_withTenant_keeps (g := (entryHerd · i)) (fun _ _ _ _ _ _ _ _ => rfl) (fun _ _ => rfl) ..
  have hold (j : Nat) : (taken .tsu q (withTenant v s)).tsu.entry j = s.tsu.entry j :=
    taken_withTenant_keeps (g := (Tsu.entry · j)) (fun _ _ _ _ _ _ _ _ => rfl) (fun _ _ => rfl) ..
  have hentry (j : Nat) : (enterErrs (answered .tsu q 0x5090 2 stOk (applyLedger i v (taken .tsu q (withTenant v s))))).tsu.entry j =
      (setEntry i (writtenEntry (entryHerd s.tsu i) (s.tsu.entry i) v) (taken .tsu q (withTenant v s))).tsu.entry j := by
    rw [Tsu.entry, enterErrs_ledger, ← Tsu.entry, applied_keeps (g := (Tsu.entry · j)) (fun _ => rfl) (fun _ _ _ _ _ _ _ _ => rfl), hherd,
      hold i]
  refine ⟨?_, ?_, ?_, ?_, fun j hj => ?_⟩
  · rw [enterErrs_fjz, fjz_answered, fjz_applyLedger, taken_fjz]
    rfl
  · rw [enterErrs_tc, answered_tc, tc_applyLedger, taken_tc]
    rfl
  · rw [enterErrs_herds, applied_keeps (g := Tsu.herds) (fun _ => rfl) (fun _ _ _ _ _ _ _ _ => rfl)]
    exact taken_withTenant_keeps (g := Tsu.herds) (fun _ _ _ _ _ _ _ _ => rfl) (fun _ _ => rfl) ..
  · rw [hentry, entry_setEntry_same]
  · rw [hentry, entry_setEntry_ne hj, hold]

/-- The write of the ledger that waits, as the list holds it (R140). -/
def heldOf (q : Req) (v : BitVec 256) (iter : Option U64) (c i frc : Nat) : HeldWrite :=
  ⟨c, i, v, applyIterOf iter, asTaken q, frc⟩

theorem deliverRsp_agent (r : Rsp) (s : State) : (deliverRsp .tsu r s).tsu.agent = s.tsu.agent := by
  have hmessage (p : Nat) : (sendMessage .tsu p tDictRsp (agent s .tsu).deviceId.toNat (rspBytes r) s).tsu.agent = s.tsu.agent := by
    unfold sendMessage
    dsimp only
    split
    · rfl
    · exact forAll_keeps (fun u : State => u.tsu.agent) (send .tsu p)
        (fun c u => sendOn_keeps (fun u : State => u.tsu.agent) (fun _ _ => rfl) (fun _ _ => rfl) (fun _ _ => rfl) false c u) _ _
  unfold deliverRsp
  split
  · rfl
  · exact hmessage 0
  · exact hmessage 1
  · rfl

theorem heldLedger_taken (q : Req) (s : State) : (taken .tsu q s).tsu.agent.heldLedger = s.tsu.agent.heldLedger := by
  have hheard : (heard q s).tsu.agent = s.tsu.agent := heard_agent .tsu q s
  unfold taken countTaken
  dsimp only [onAgent, onTsu]
  rw [← hheard]
  split_ifs
  · rfl
  · rfl
  · rfl
  · rfl

/-- What a write that waits leaves: itself, at the end of the list. -/
theorem waiting_entry {q : Req} {i c : Nat} {v : BitVec 256} {iter : Option U64} {s t : State}
    (ht : t = enterErrs (answered .tsu q 0x5090 2 stPending
      (park .tsu (asTaken q) (wLedgerEntry i v iter) (.ledger c i (applyIterOf iter)) (taken .tsu q (withTenant v s))))) :
    t.fjz = s.fjz ∧ t.tsu.tc = s.tsu.tc ∧ t.tsu.herds = s.tsu.herds ∧ t.tsu.ledger = s.tsu.ledger ∧
      t.tsu.agent.heldLedger = s.tsu.agent.heldLedger ++ [heldOf q v iter c i (counterOf (taken .tsu q (withTenant v s)) .tsu)] := by
  subst ht
  have hvalue : bytesBv 256 (wLedgerEntry i v iter).bytes = v := bytesBv_bvBytes_append v _
  have hkeeps {γ : Type} {g : Tsu → γ} (hg : ∀ t w busy done irq dropped ports a, g (Tsu.answering t w busy done irq dropped ports a) = g t)
      (hm : ∀ t m, g { t with meter := m } = g t) (f : Agent → Agent) :
      g (answered .tsu q 0x5090 2 stPending (onAgent .tsu f (taken .tsu q (withTenant v s)))).tsu = g s.tsu :=
    (answered_die_keeps hg ..).trans ((hg _ _ _ _ _ _ _ _).trans (taken_withTenant_keeps hg hm ..))
  refine ⟨?_, ?_, ?_, ?_, ?_⟩
  · rw [enterErrs_fjz, fjz_answered]
    exact taken_fjz q _
  · rw [enterErrs_tc]
    exact hkeeps (g := Tsu.tc) (fun _ _ _ _ _ _ _ _ => rfl) (fun _ _ => rfl) _
  · rw [enterErrs_herds]
    exact hkeeps (g := Tsu.herds) (fun _ _ _ _ _ _ _ _ => rfl) (fun _ _ => rfl) _
  · rw [enterErrs_ledger]
    exact hkeeps (g := Tsu.ledger) (fun _ _ _ _ _ _ _ _ => rfl) (fun _ _ => rfl) _
  · rw [enterErrs_agent, answered, deliverRsp_agent]
    refine congrArg₂ (· ++ ·) (heldLedger_taken q (withTenant v s)) ?_
    rw [hvalue]
    rfl

/-- Settles O42: a write is served as any other in the block with its tenant, and an advance is one field of its entry. -/
theorem ledgerWrites : Obligations.LedgerWrites := by
  refine ⟨?_, fun region entry amount s hw hr hnext => ⟨fun hmay => ?_, fun hmay hbad => ?_⟩⟩
  · intro q v iter s i hi h hpos hstate
    refine ⟨fun hready hlive => ?_, fun c hready hlive hroom => ?_, fun hready => ?_⟩
    · obtain ⟨hfjz, htc, hherds, hentry, hother⟩ := applied_entry (q := q) (i := i) (v := v) (s := s) rfl
      exact ⟨_, ledgerEntry_takes rfl h hi ⟨hpos, hstate⟩ hready hlive, hfjz, htc, hherds, hentry, hother⟩
    · obtain ⟨hfjz, htc, hherds, hledger, hheld⟩ := waiting_entry (q := q) (i := i) (c := c) (v := v) (iter := iter) (s := s) rfl
      exact ⟨_, _, ledgerEntry_waits rfl h hi ⟨hpos, hstate⟩ hready hlive hroom, hfjz, htc, hherds, hledger, hheld, rfl, rfl, rfl, rfl⟩
    · exact ledgerEntry_refused rfl h hi hready
  · have hno : advPending region entry.toNat amount (tookToken region qLedger s) = tookToken region qLedger s :=
      if_pos (.inl (by rw [mayAdvance_tookToken, hmay]; rfl))
    rw [ledgerAdvPending_next hw hr hnext, hno, enterErrs_nil (tookToken_staged ..)]
  · have hstaged : (advPending region entry.toNat amount (tookToken region qLedger s)).staged = [] := by
      rw [advPending_adds (s := tookToken region qLedger s) hmay hbad]; rfl
    refine ⟨_, ledgerAdvPending_next hw hr hnext, ?_⟩
    rw [enterErrs_nil hstaged]
    exact advPending_fields hmay hbad

end Sys2Proof
end

section
/-! PROOFS. A herd that halts on a fault of this die (R135), and the faults of the sequencer's timers (O40). -/

namespace Sys2Proof

open Machine

/-! ## Sending on both ports -/

theorem sendBoth_staged (c : Cell) (s : State) : (sendBoth c s).staged = s.staged :=
  forAll_keeps State.staged (fun p => sendOn .tsu p false c) (fun p u => sendOn_staged .tsu p false c u) [0, 1] s

theorem sendBoth_die_keeps {γ : Type} {v : Tsu → γ}
    (h : ∀ (t : Tsu) (w : Option Rsp) (busy done : Bool) (irq : U32) (dropped : U64) (ports : Tbl Port) (a : Agent),
      v (Tsu.answering t w busy done irq dropped ports a) = v t) (c : Cell) (s : State) : v (sendBoth c s).tsu = v s.tsu :=
  forAll_keeps (fun u : State => v u.tsu) (fun p => sendOn .tsu p false c) (fun p u => sendOn_die_keeps h p false c u) [0, 1] s

/-! ## One record of the die -/

/-- The ring after one more record. -/
theorem enterErr_errs (e : ErrRec × Bytes) (s : State) : (enterErr e s).tsu.errs = pushErr 256 e.1 s.tsu.errs := by
  refine (tap_errs ..).trans ?_
  dsimp only
  split
  · split
    · rfl
    · rfl
  · split
    · rfl
    · rfl

theorem enterErrs_single_errs {e : ErrRec × Bytes} {s : State} (h : s.staged = [e]) :
    (enterErrs s).tsu.errs = pushErr 256 e.1 s.tsu.errs := by
  have hone : enterErrs s = enterErr e { s with staged := [] } := by
    simp [enterErrs, h, sortBy, insertBy, forAll]
  rw [hone, enterErr_errs]

/-- A ring with room takes the record, but for its mark of what was dropped before it. -/
theorem pushErr_ring {r : ErrRec} {e : ErrRing} (h : e.ring.length < 256) :
    (pushErr 256 r e).ring = e.ring ++ [{ r with droppedBefore := e.gap }] := by
  rw [pushErr, if_pos h]

/-- The record of a herd context as the die enters it. -/
def herdRecord (h : Nat) (code : U16) (halts : Bool) (obj waiter : U32) (round detail : Nat) (s : State) : ErrRec :=
  { code := code, halts := halts, herd := (s.tsu.herd h).herdId.setWidth 24, object := obj, waiter := waiter,
    round := BitVec.ofNat 16 round, detail := BitVec.ofNat 16 (min detail 0xFFFF), ht := s.tsu.now, die := s.tsu.agent.deviceId,
    secure := objSecure s .tsu obj, fjouz := false }

theorem raiseHerd_staged (h : Nat) (code : U16) (halts : Bool) (obj waiter : U32) (round detail : Nat) (s : State) :
    ∃ b, (raiseHerd h code halts obj waiter round detail s).staged = s.staged ++ [(herdRecord h code halts obj waiter round detail s, b)] :=
  ⟨_, rfl⟩

/-! ## A fault halts its herd (R135) -/

/-- The halt time of a fault of this die. -/
def faultHalt (h : Nat) (s : State) : HT := earlier (s.tsu.herd h).halt (ceilNs s.tsu.now + htOfNs (leadNs s (s.tsu.herd h)))

theorem faultHerd_halts {h : Nat} {code : U16} {obj waiter : U32} {round detail : Nat} {s : State}
    (hrun : (s.tsu.herd h).state = .running) (hself : (s.tsu.herd h).selfFault = false) :
    faultHerd h code obj waiter round detail s = haltHerd' h code (raiseHerd h code true obj waiter round detail s) := by
  unfold faultHerd
  rw [if_neg (by simp [hrun, hself])]

theorem herd_raiseHerd {γ : Type} {g : Herd → γ} (hg : ∀ x f, g { x with lastFault := f } = g x) (h k : Nat) (code : U16) (halts : Bool)
    (obj waiter : U32) (round detail : Nat) (s : State) :
    g ((raiseHerd h code halts obj waiter round detail s).tsu.herd k) = g (s.tsu.herd k) := by
  by_cases hk : k = h
  · subst hk
    refine (congrArg g (herd_onHerd_same k _ (raise _ s))).trans ?_
    split
    · exact hg ..
    · rfl
  · exact congrArg g (raiseHerd_herd_ne hk ..)

theorem links_raiseHerd (h : Nat) (code : U16) (halts : Bool) (obj waiter : U32) (round detail : Nat) (s : State) :
    (raiseHerd h code halts obj waiter round detail s).tsu.links = s.tsu.links := rfl

/-- A record of Table 5.17 stays in LAST_FAULT (R155). -/
theorem lastFault_raiseHerd {code : U16} (hcode : code.toNat / 256 = 5) (h : Nat) (halts : Bool) (obj waiter : U32) (round detail : Nat)
    (s : State) : ((raiseHerd h code halts obj waiter round detail s).tsu.herd h).lastFault = code := by
  refine (congrArg Herd.lastFault (herd_onHerd_same h _ (raise _ s))).trans ?_
  rw [if_pos hcode]

/-- The die that halts a herd, with the HALT cell counted (R251), before the cell goes to its ports. -/
def haltMarked (h : Nat) (t : HT) (s : State) : State :=
  onTsu (fun d => { d with haltSeq := d.haltSeq + 1, haltsSent := bump d.haltsSent })
    (onHerd h (fun x => { x with halt := some t, selfFault := true }) s)

theorem haltMarked_herd_same (h : Nat) (t : HT) (s : State) :
    (haltMarked h t s).tsu.herd h = { s.tsu.herd h with halt := some t, selfFault := true } :=
  herd_onHerd_same h (fun x => { x with halt := some t, selfFault := true }) s

theorem haltMarked_herd_ne {g h : Nat} (hg : g ≠ h) (t : HT) (s : State) : (haltMarked h t s).tsu.herd g = s.tsu.herd g :=
  herd_onHerd_ne (fun x => { x with halt := some t, selfFault := true }) s hg

theorem haltHerd'_eq (h : Nat) (code : U16) (s : State) :
    ∃ c, haltHerd' h code s = sendBoth c (haltMarked h (faultHalt h s) s) := ⟨_, rfl⟩

theorem faultHalt_raiseHerd (h k : Nat) (code : U16) (halts : Bool) (obj waiter : U32) (round detail : Nat) (s : State) :
    faultHalt k (raiseHerd h code halts obj waiter round detail s) = faultHalt k s := by
  have hhalt := herd_raiseHerd (g := Herd.halt) (fun _ _ => rfl) h k code halts obj waiter round detail s
  have hlead := herd_raiseHerd (g := Herd.haltLead) (fun _ _ => rfl) h k code halts obj waiter round detail s
  unfold faultHalt leadNs
  rw [hhalt, hlead]
  rfl

theorem herd_enterErrs_sendBoth (c : Cell) (s : State) (g : Nat) : (enterErrs (sendBoth c s)).tsu.herd g = s.tsu.herd g := by
  rw [enterErrs_herd]
  exact sendBoth_die_keeps (v := (Tsu.herd · g)) (fun _ _ _ _ _ _ _ _ => rfl) c s

theorem haltSeq_enterErrs_sendBoth (c : Cell) (s : State) : (enterErrs (sendBoth c s)).tsu.haltSeq = s.tsu.haltSeq :=
  (enterErrs_keeps (·.tsu.haltSeq) (fun _ _ _ _ _ _ => rfl) (fun _ => rfl) (sendBoth c s)).trans
    (sendBoth_die_keeps (v := Tsu.haltSeq) (fun _ _ _ _ _ _ _ _ => rfl) c s)

theorem errs_enterErrs_sendBoth {c : Cell} {e : ErrRec × Bytes} {s : State} (h : s.staged = [e]) :
    (enterErrs (sendBoth c s)).tsu.errs = pushErr 256 e.1 s.tsu.errs := by
  rw [enterErrs_single_errs ((sendBoth_staged c s).trans h), sendBoth_die_keeps (v := Tsu.errs) (fun _ _ _ _ _ _ _ _ => rfl)]

/-- The fault of a running context that has raised none before halts its herd. -/
theorem haltsBy_faultHerd {h : Nat} {code : U16} {obj waiter : U32} {round detail : Nat} {s : State} (hstaged : s.staged = [])
    (hrun : (s.tsu.herd h).state = .running) (hself : (s.tsu.herd h).selfFault = false) :
    haltsBy h code s (enterErrs (faultHerd h code obj waiter round detail s)) := by
  obtain ⟨c, hc⟩ := haltHerd'_eq h code (raiseHerd h code true obj waiter round detail s)
  obtain ⟨b, hb⟩ := raiseHerd_staged h code true obj waiter round detail s
  have hstate := (raiseHerd_state h h code true obj waiter round detail s).trans hrun
  have hothers (g : Nat) (hg : g ≠ h) := raiseHerd_herd_ne hg code true obj waiter round detail s
  have hfjz := fjz_raiseHerd h code true obj waiter round detail s
  have htc := tc_raiseHerd h code true obj waiter round detail s
  have hseq : (raiseHerd h code true obj waiter round detail s).tsu.haltSeq = s.tsu.haltSeq := rfl
  have herrs : (raiseHerd h code true obj waiter round detail s).tsu.errs = s.tsu.errs := rfl
  rw [faultHalt_raiseHerd] at hc
  rw [hstaged, List.nil_append] at hb
  rw [faultHerd_halts hrun hself, hc]
  generalize raiseHerd h code true obj waiter round detail s = w at *
  have hring := errs_enterErrs_sendBoth (c := c) (s := haltMarked h (faultHalt h s) w) hb
  have htaken : (haltMarked h (faultHalt h s) w).tsu.errs = s.tsu.errs := herrs
  rw [htaken] at hring
  refine ⟨?_, ?_, ?_, ?_, ?_, ?_, ?_, fun hroom => ?_, fun g hg => ?_⟩
  · rw [enterErrs_fjz, fjz_sendBoth]
    exact hfjz
  · rw [enterErrs_tc, tc_sendBoth]
    exact htc
  · rw [herd_enterErrs_sendBoth, haltMarked_herd_same]
    exact hstate
  · rw [herd_enterErrs_sendBoth, haltMarked_herd_same]
  · rw [herd_enterErrs_sendBoth, haltMarked_herd_same, faultHalt]
  · rw [haltSeq_enterErrs_sendBoth, ← hseq]
    rfl
  · rw [hring, pushErr_total]
  · exact ⟨_, by rw [hring, pushErr_ring hroom], rfl, rfl, rfl, rfl⟩
  · rw [herd_enterErrs_sendBoth]
    exact (haltMarked_herd_ne hg ..).trans (hothers g hg)

/-- What a fault of a context finds beside its steps is what it found with them. -/
theorem haltsBy_of_steps {h : Nat} {code : U16} {f : Herd → Herd} {s t : State}
    (hf : ∀ x, (f x).halt = x.halt ∧ (f x).haltLead = x.haltLead ∧ (f x).herdId = x.herdId)
    (ht : haltsBy h code (onHerd h f s.fresh) t) : haltsBy h code s t := by
  obtain ⟨hhalt, hlead, hid⟩ := hf (s.tsu.herd h)
  have hherd : (onHerd h f s.fresh).tsu.herd h = f (s.tsu.herd h) := herd_onHerd_same ..
  obtain ⟨hfjz, htc, hrun, hself, htime, hseq, htotal, hring, hother⟩ := ht
  rw [hherd, hhalt, leadNs, hlead] at htime
  rw [hherd, hid] at hring
  exact ⟨hfjz, htc, hrun, hself, htime, hseq, htotal, hring, fun g hg => (hother g hg).trans (herd_onHerd_ne _ _ hg)⟩

/-! ## The timers (R133, R134) -/

/-- A record of a context that halts nothing: what it leaves of every context, and one error counted. -/
theorem recorded_errs {h : Nat} {code : U16} {obj waiter : U32} {round detail : Nat} {s : State} (hstaged : s.staged = []) :
    (enterErrs (raiseHerd h code false obj waiter round detail s)).tsu.errs.total = bump s.tsu.errs.total := by
  obtain ⟨b, hb⟩ := raiseHerd_staged h code false obj waiter round detail s
  rw [hstaged, List.nil_append] at hb
  exact enterErrs_single_total hb

theorem atPhase4_staged (s : State) : (atPhase4 s).staged = [] := by
  unfold atPhase4 phase4
  split
  · rfl
  · exact enterErrs_staged _

/-- A command of the sequencer in phase 4 or after it, on a die that works. -/
theorem performOn_turn {i : Instr} {h : Nat} {act : State → State} {s : State} (hw : s.tsu.works = true) (hh : h < 64)
    (ha : s.aheadOf (placeOf i) = false) : performOn .tsu (ctxOk h) (inTurn i act) s = .next (enterErrs (act s.fresh)) := by
  rw [performOn_works (d := .tsu) (show ctxOk h = true from decide_eq_true hh) hw, inTurn_acts ((aheadOf_fresh ..).trans ha)]

/-- The step past its deadline is marked, so that it is reported once. -/
def lateMarked (r : RunStep) (x : Herd) : Herd := { x with steps := x.steps.map fun q => if q = r then { r with late := true } else q }

section Overrun
variable {h step : Nat} {r : RunStep} {s : State} (hw : s.tsu.works = true) (hh : h < 64) (ha : s.aheadOf (inPhase 4 h) = false)
include hw hh ha

/-- In FREE_GRID a step past its deadline is marked and raises STEP_OVERRUN (R133). -/
theorem stepOverrun_raises (hfree : freeGrid s.tsu (s.tsu.herd h) = true)
    (hfind : (s.tsu.herd h).steps.find? (fun r => decide (r.step = step) && overrun s.tsu r) = some r)
    (hself : (s.tsu.herd h).selfFault = false) :
    ∃ obj waiter round, exec (.stepOverrun h step) s = .next (enterErrs
      (if (s.tsu.herd h).state = .running then faultHerd h 0x0501 obj waiter round 0 (onHerd h (lateMarked r) s.fresh)
        else raiseHerd h 0x0501 false obj waiter round 0 (onHerd h (lateMarked r) s.fresh))) := by
  refine ⟨herdObj h, BitVec.ofNat 32 ((regionsOf r.left).headD 0), r.iter % 65536, ?_⟩
  rw [exec, execStepOverrun, performOn_turn (i := .stepOverrun h step) hw hh ha]
  dsimp only
  rw [fresh_tsu, hfree, hfind, hself]
  simp only [Bool.not_true, Bool.false_eq_true, if_false, or_false]
  rfl

theorem stepOverrun_halts (hfree : freeGrid s.tsu (s.tsu.herd h) = true)
    (hfind : (s.tsu.herd h).steps.find? (fun r => decide (r.step = step) && overrun s.tsu r) = some r)
    (hrun : (s.tsu.herd h).state = .running) (hself : (s.tsu.herd h).selfFault = false) :
    ∃ t, exec (.stepOverrun h step) s = .next t ∧ haltsBy h 0x0501 s t := by
  have hmine : (onHerd h (lateMarked r) s.fresh).tsu.herd h = lateMarked r (s.tsu.herd h) := herd_onHerd_same ..
  obtain ⟨obj, waiter, round, hexec⟩ := stepOverrun_raises hw hh ha hfree hfind hself
  rw [if_pos hrun] at hexec
  exact ⟨_, hexec, haltsBy_of_steps (f := lateMarked r) (fun _ => ⟨rfl, rfl, rfl⟩)
    (haltsBy_faultHerd rfl (by rw [hmine]; exact hrun) (by rw [hmine]; exact hself))⟩

/-- A context that no longer runs records the fault and has nothing to halt (R135). -/
theorem stepOverrun_records (hfree : freeGrid s.tsu (s.tsu.herd h) = true)
    (hfind : (s.tsu.herd h).steps.find? (fun r => decide (r.step = step) && overrun s.tsu r) = some r)
    (hrun : (s.tsu.herd h).state ≠ .running) (hself : (s.tsu.herd h).selfFault = false) :
    ∃ t, exec (.stepOverrun h step) s = .next t ∧ sameBeyond h s t ∧ (t.tsu.herd h).lastFault = 0x0501 ∧
      (t.tsu.herd h).state = (s.tsu.herd h).state ∧ t.tsu.errs.total = bump s.tsu.errs.total := by
  obtain ⟨obj, waiter, round, hexec⟩ := stepOverrun_raises hw hh ha hfree hfind hself
  rw [if_neg hrun] at hexec
  have hmine (g : Nat) (hg : g ≠ h) : (onHerd h (lateMarked r) s.fresh).tsu.herd g = s.tsu.herd g := herd_onHerd_ne _ _ hg
  have hstate : ((onHerd h (lateMarked r) s.fresh).tsu.herd h).state = (s.tsu.herd h).state :=
    (congrArg Herd.state (herd_onHerd_same h (lateMarked r) s.fresh)).trans rfl
  have htotal := recorded_errs (h := h) (code := 0x0501) (obj := obj) (waiter := waiter) (round := round) (detail := 0)
    (s := onHerd h (lateMarked r) s.fresh) rfl
  have hlinks : (onHerd h (lateMarked r) s.fresh).tsu.links = s.tsu.links := rfl
  refine ⟨_, hexec, ⟨?_, ?_, ?_, fun g hg => ?_⟩, ?_, ?_, htotal⟩
  · rw [enterErrs_fjz, fjz_raiseHerd]
    rfl
  · rw [enterErrs_tc, tc_raiseHerd]
    rfl
  · rw [enterErrs_links, ← hlinks, links_raiseHerd]
  · rw [enterErrs_herd, raiseHerd_herd_ne hg, hmine g hg]
  · rw [enterErrs_herd, lastFault_raiseHerd (by decide)]
  · rw [enterErrs_herd, raiseHerd_state, hstate]

/-- Without a step past its deadline nothing happens. -/
theorem stepOverrun_none (hnone : (s.tsu.herd h).steps.find? (fun r => decide (r.step = step) && overrun s.tsu r) = none) :
    exec (.stepOverrun h step) s = .next s.fresh := by
  rw [exec, execStepOverrun, performOn_turn (i := .stepOverrun h step) hw hh ha]
  dsimp only
  rw [fresh_tsu, hnone, ite_self]
  exact congrArg Host.Outcome.next (enterErrs_nil rfl)

end Overrun

section Gates
variable {h : Nat} {s : State} (hw : s.tsu.works = true) (hh : h < 64) (ha : s.aheadOf (inPhase 5 (8192 + h)) = false)
include hw hh ha

/-- GATE_MISSED with an entry whose gates were evaluated and did not hold (Table 5.4). -/
theorem gateMissed_halts {a : Ahead} (hfree : freeGrid (atPhase4 s).tsu ((atPhase4 s).tsu.herd h) = true)
    (hmem : a ∈ ((atPhase4 s).tsu.herd h).ahead) (hpath : a.path = []) (hsince : a.since ≠ none)
    (hnot : (failedGate (atPhase4 s).tsu a).isNone = true) (hopen : (openGate (atPhase4 s).tsu a fun _ => true).isSome = true)
    (hrun : ((atPhase4 s).tsu.herd h).state = .running) (hself : ((atPhase4 s).tsu.herd h).selfFault = false) :
    ∃ t, exec (.gateMissed h) s = .next t ∧ haltsBy h 0x0502 (atPhase4 s) t := by
  have hfound : (((atPhase4 s).tsu.herd h).ahead.find? fun a => a.path.isEmpty && decide (a.since ≠ none) &&
      (failedGate (atPhase4 s).tsu a).isNone && (openGate (atPhase4 s).tsu a fun _ => true).isSome).isSome = true :=
    List.find?_isSome.mpr ⟨a, hmem, by simp [hpath, hsince, hnot, hopen]⟩
  obtain ⟨b, hb⟩ := Option.isSome_iff_exists.mp hfound
  have hexec : exec (.gateMissed h) s = .next (enterErrs (faultHerd h 0x0502 (herdObj h) (BitVec.ofNat 32 b.step) (b.iter % 65536)
      ((openGate (atPhase4 s).tsu b fun _ => true).getD 0) (atPhase4 s))) := by
    rw [exec, execGateMissed, performOn_turn (i := .gateMissed h) hw hh ha]
    dsimp only
    rw [← atPhase4, hfree, hb]
    rfl
  exact ⟨_, hexec, haltsBy_faultHerd (atPhase4_staged s) hrun hself⟩

/-- GATE_TIMEOUT with an entry whose counter or event gate is past its timeout (R134). -/
theorem gateTimeout_halts {a : Ahead} (hmode : ((atPhase4 s).tsu.herd h).mode ≠ 0) (hstrict : (atPhase4 s).tsu.replayStrict = false)
    (hmem : a ∈ ((atPhase4 s).tsu.herd h).ahead) (hpath : a.path = []) (hdue : Machine.reached (atPhase4 s).tsu.tc a.outTick = true)
    (hopen : (openGate (atPhase4 s).tsu a timedGate).isSome = true)
    (hrun : ((atPhase4 s).tsu.herd h).state = .running) (hself : ((atPhase4 s).tsu.herd h).selfFault = false) :
    ∃ t, exec (.gateTimeout h) s = .next t ∧ haltsBy h 0x0503 (atPhase4 s) t := by
  have hfound : (((atPhase4 s).tsu.herd h).ahead.find? fun a => a.path.isEmpty && Machine.reached (atPhase4 s).tsu.tc a.outTick &&
      (openGate (atPhase4 s).tsu a timedGate).isSome).isSome = true :=
    List.find?_isSome.mpr ⟨a, hmem, by simp [hpath, hdue, hopen]⟩
  obtain ⟨b, hb⟩ := Option.isSome_iff_exists.mp hfound
  have hskip : ¬ (((atPhase4 s).tsu.herd h).mode = modeFree ∨ (atPhase4 s).tsu.replayStrict = true) := not_or.mpr ⟨hmode, by simp [hstrict]⟩
  have hexec : exec (.gateTimeout h) s = .next (enterErrs (faultHerd h 0x0503 (herdObj h) (BitVec.ofNat 32 b.step) (b.iter % 65536)
      ((openGate (atPhase4 s).tsu b timedGate).getD 0) (atPhase4 s))) := by
    rw [exec, execGateTimeout, performOn_turn (i := .gateTimeout h) hw hh ha]
    dsimp only
    rw [← atPhase4, if_neg hskip, hb]
  exact ⟨_, hexec, haltsBy_faultHerd (atPhase4_staged s) hrun hself⟩

/-- A context without a run has no gate to judge. -/
theorem gates_of_empty (hempty : (atPhase4 s).tsu.herd h = {}) :
    exec (.gateMissed h) s = .next (atPhase4 s) ∧ exec (.gateTimeout h) s = .next (atPhase4 s) := by
  have hsame := enterErrs_nil (atPhase4_staged s)
  constructor
  · rw [exec, execGateMissed, performOn_turn (i := .gateMissed h) hw hh ha]
    dsimp only
    rw [← atPhase4, hempty]
    exact congrArg Host.Outcome.next ((congrArg enterErrs (ite_self _)).trans hsame)
  · rw [exec, execGateTimeout, performOn_turn (i := .gateTimeout h) hw hh ha]
    dsimp only
    rw [← atPhase4, hempty]
    exact congrArg Host.Outcome.next ((congrArg enterErrs (ite_self _)).trans hsame)

end Gates

/-- Settles O40, each timer by what it finds: a fault that halts, a fault that is recorded alone, or nothing. -/
theorem sequencerFaultsHaltTheHerd : Obligations.SequencerFaultsHaltTheHerd := by
  refine ⟨fun h step r s hw hh ha hfree hfind hrun hself => stepOverrun_halts hw hh ha hfree hfind hrun hself,
    fun h step r s hw hh ha hfree hfind hrun hself => stepOverrun_records hw hh ha hfree hfind hrun hself,
    fun h step s hw hh ha hnone => stepOverrun_none hw hh ha hnone, ?_, ?_, fun h s hw hh ha hempty => gates_of_empty hw hh ha hempty⟩
  · intro h a s hw hh ha u hfree hmem hpath hsince hnot hopen hrun hself
    exact gateMissed_halts hw hh ha hfree hmem hpath hsince hnot hopen hrun hself
  · intro h a s hw hh ha u hmode hstrict hmem hpath hdue hopen hrun hself
    exact gateTimeout_halts hw hh ha hmode hstrict hmem hpath hdue hopen hrun hself

end Sys2Proof
end

section
/-! PROOFS. A HALT at a Fjouz chip (O54), first part. -/

namespace Sys2Proof

open Machine

/-! ## Cells forwarded by bypass (R252) -/

/-- A port that owes no CONTINUATION gives up no pair. -/
theorem holdPairs_of_continues {x : Port} (h : x.continues = none) (limit : Nat) (t : HT) : holdPairs limit t x = x := by
  unfold holdPairs
  split
  next n c e kept hlane hbegun =>
    have hno : (c.pair && decide (n + 1 = x.slots)) = false := by
      simpa [Port.continues, hlane] using h
    rw [hno, if_neg (by simp)]
  · rfl

theorem putOnLane_state (t : HT) (e : TxCell) (x : Port) : (putOnLane t e x).state = x.state := by
  simp only [putOnLane, apply_ite Port.state, ite_self]

theorem holdPairs_state (limit : Nat) (t : HT) (x : Port) : (holdPairs limit t x).state = x.state := by
  unfold holdPairs
  split
  · split
    · dsimp only
      split
      · exact putOnLane_state ..
      · rfl
    · rfl
  · rfl

/-- A HALT forwarded on one port. -/
def bypassTo (c : Cell) (p : Nat) (s : State) : State :=
  sendOn .fjz p true c
    (onPort .fjz p (fun x => holdPairs s.fjz.p3Limit.toNat (cwStart s .fjz { x with slots := x.slots - 1 }) x) s)

theorem bypassOn_eq (ps : List Nat) (c : Cell) (s : State) : bypassOn ps c s = forAll ps (bypassTo c) s := rfl

theorem port_bypassTo_other {p r : Nat} (h : p ≠ r) (c : Cell) (s : State) : port (bypassTo c r s) .fjz p = port s .fjz p :=
  (port_sendOn_other .fjz h true c _).trans (port_onPort_other .fjz _ _ h)

theorem counterOf_bypassTo (c : Cell) (r : Nat) (s : State) : counterOf (bypassTo c r s) .fjz = counterOf s .fjz :=
  (counterOf_sendOn .fjz r true c _).trans (counterOf_onPort ..)

theorem port_bypassOn_other {p : Nat} {ps : List Nat} (h : p ∉ ps) (c : Cell) (s : State) :
    port (bypassOn ps c s) .fjz p = port s .fjz p := by
  rw [bypassOn_eq]
  exact forAll_keeps_mem (v := (port · .fjz p)) (fun r hr u => port_bypassTo_other (fun hpr => h (by rw [hpr]; exact hr)) c u) s

/-- A port that is UP takes the cell behind what it still holds. -/
theorem txq_bypassTo {p : Nat} {c : Cell} {s : State} (hcls : c.cls = 0) (hup : (port s .fjz p).state = .up) :
    ∃ l, (port (bypassTo c p s) .fjz p).txq = l ++ [{ cell := c, bypass := true, ready := counterOf s .fjz }] := by
  have hheld := queued_sendOn hcls .fjz p true
    (onPort .fjz p (fun x => holdPairs s.fjz.p3Limit.toNat (cwStart s .fjz { x with slots := x.slots - 1 }) x) s)
  have htxq := hheld (by rw [port_onPort_same, holdPairs_state]; exact hup)
  rw [counterOf_onPort] at htxq
  exact ⟨_, htxq⟩

theorem queued_bypassTo {p : Nat} {c : Cell} {s : State} (hcls : c.cls = 0) (hcont : (port s .fjz p).continues = none) :
    queued .fjz p c true s (bypassTo c p s) := by
  have hsame : port (onPort .fjz p (fun x => holdPairs s.fjz.p3Limit.toNat (cwStart s .fjz { x with slots := x.slots - 1 }) x) s) .fjz p =
      port s .fjz p := (port_onPort_same ..).trans (holdPairs_of_continues hcont ..)
  exact queued_of_before (queued_sendOn hcls .fjz p true _) (by rw [hsame]) (by rw [hsame]) (counterOf_onPort ..)

/-- Each port of a list without repetitions that owes no CONTINUATION is given the cell once. -/
theorem queued_bypassOn {c : Cell} (hcls : c.cls = 0) {ps : List Nat} (hps : ps.Nodup) {p : Nat} (hp : p ∈ ps) {s : State}
    (hcont : (port s .fjz p).continues = none) : queued .fjz p c true s (bypassOn ps c s) := by
  induction ps generalizing s with
  | nil => cases hp
  | cons r ps ih =>
    obtain ⟨hfresh, hps⟩ := List.nodup_cons.mp hps
    by_cases hr : p = r
    · subst hr
      exact queued_of_after (queued_bypassTo hcls hcont) (congrArg Port.txq (port_bypassOn_other hfresh c (bypassTo c p s)))
    · have hport := port_bypassTo_other hr c s
      have hrest := ih hps ((List.mem_cons.mp hp).resolve_left hr) (s := bypassTo c r s) (by rw [hport]; exact hcont)
      exact queued_of_before hrest (by rw [hport]) (by rw [hport]) (counterOf_bypassTo c r s)

/-- What a cell sent by bypass leaves of the chip. -/
theorem bypassOn_keeps {γ : Type} (v : Fjz → γ) (hports : ∀ x ps, v { x with ports := ps } = v x)
    (hdropped : ∀ x n, v { x with p3Dropped := n } = v x) (ps : List Nat) (c : Cell) (s : State) : v (bypassOn ps c s).fjz = v s.fjz := by
  rw [bypassOn_eq]
  refine forAll_keeps (fun u : State => v u.fjz) (bypassTo c) (fun r u => ?_) ps s
  exact (sendOn_keeps (fun u : State => v u.fjz) (fun _ _ => hports _ _) (fun _ _ => rfl) (fun n u => hdropped u.fjz n) true c _).trans
    (hports u.fjz _)

theorem beside_bypassTo (c : Cell) (r : Nat) (s : State) : beside (bypassTo c r s) = beside s :=
  (beside_sendOn r true c _).trans (beside_onPort ..)

theorem beside_bypassOn (ps : List Nat) (c : Cell) (s : State) : beside (bypassOn ps c s) = beside s :=
  beside_forAll (bypassTo c) (beside_bypassTo c) ps s

/-! ## The HALT's effect (R252, R253) -/

section Trigger
variable {γ : Type} (v : Fjz → γ)
  (hfreeze : ∀ (x : Fjz) r t n f w g, v { x with
    recState := r, freezeHt := t, freezeTrigger := n, freezeAt := f, freezeBy := w, freezeHerd := g } = v x)
  (hextra : ∀ (x : Fjz) n, v { x with triggersExtra := n } = v x)
include hfreeze hextra

/-- What a freeze trigger leaves of the chip (R294). -/
theorem freezeTrigger_keeps (n : U8) (w : U32) (g : Id24) (x : Fjz) : v (freezeTrigger n w g x) = v x := by
  unfold freezeTrigger
  split
  · rfl
  split
  · exact hfreeze x ..
  · exact hextra x _

theorem haltTrigger_keeps (c : Cell) (x : Fjz) : v (haltTrigger c x) = v x := by
  unfold haltTrigger
  extract_lets held
  split
  · exact freezeTrigger_keeps v hfreeze hextra ..
  · rfl

/-- What a HALT on its way down leaves of the chip, before it goes to the ports. -/
theorem haltGoesDown_keeps (hforwarded : ∀ (x : Fjz) fs, v { x with forwarded := fs } = v x)
    (hevents : ∀ (x : Fjz) es, v { x with events := es } = v x) (turned sent : Bool) (c : Cell) (x : Fjz) :
    v (haltTrigger c (rememberHalt true sent c (if turned then ownEntry c.body x else x))) = v x := by
  refine (haltTrigger_keeps v hfreeze hextra ..).trans ((hforwarded _ _).trans ?_)
  cases turned
  · rfl
  · exact ownEntry_keeps v hevents ..

end Trigger

/-- A HALT that goes up is remembered and leaves for the parent. -/
theorem haltUpwards_eq {c : Cell} {s : State} (h : mergedBy s.fjz false c = false) :
    ∃ sent, haltUpwards c s = bypassOn s.fjz.parentPort.toList c (onFjz (rememberHalt false sent c) s) := by
  refine ⟨s.fjz.parentPort.toList.any fun p => isUp s .fjz p, ?_⟩
  unfold haltUpwards
  rw [if_neg (by simp [h])]

/-- A HALT on its way down. -/
def downward (c : Cell) : Cell := { c with body := putBit c.body 3 true }

/-- A HALT that goes down is remembered, triggers the freeze of its herd, and leaves for the ports of the herd; one that turns here is
kept (R292). -/
theorem haltDownwards_eq {turned : Bool} {c : Cell} {s : State} (h : mergedBy s.fjz true c = false) :
    ∃ sent, haltDownwards turned c s = bypassOn (haltPorts s (haltHerd (downward c))) (downward c)
      (onFjz (fun x => haltTrigger (downward c) (rememberHalt true sent (downward c) (if turned then ownEntry (downward c).body x else x))) s) := by
  refine ⟨(haltPorts s (haltHerd (downward c))).any fun p => isUp s .fjz p, ?_⟩
  unfold haltDownwards
  rw [if_neg (by simp [h])]
  rfl

theorem haltHerd_downward (c : Cell) : haltHerd (downward c) = haltHerd c := fld_put_beside c.body _ (by decide)

theorem haltPorts_herd {s : State} {herd : Id24} (h : herd ≠ 0xFFFFFF) : haltPorts s herd = s.fjz.withStandby (s.fjz.herdPorts herd) :=
  if_neg h

/-- The ports of a herd are told by the reservations, their contexts, the role, and the standing of the ports. -/
theorem herdPorts_of_same {x y : Fjz} (hresvs : x.resvs = y.resvs) (hctxs : x.ctxs = y.ctxs) (hrole : x.role = y.role)
    (hstate : ∀ r, (x.ports.get {} r).state = (y.ports.get {} r).state)
    (hpeer : ∀ r, (x.ports.get {} r).peerPort = (y.ports.get {} r).peerPort) (herd : Id24) :
    x.withStandby (x.herdPorts herd) = y.withStandby (y.herdPorts herd) := by
  simp only [Fjz.herdPorts, Fjz.herdCtxs, Fjz.withStandby, Fjz.standbyPorts, Fjz.ctx, hresvs, hctxs, hrole, hstate, hpeer]

theorem herdPorts_received (p : Nat) (c : Cell) (s : State) (herd : Id24) :
    (received .fjz p c s).fjz.withStandby ((received .fjz p c s).fjz.herdPorts herd) = s.fjz.withStandby (s.fjz.herdPorts herd) :=
  herdPorts_of_same (received_fjz_keeps Fjz.resvs (fun _ _ => rfl) ..) (received_fjz_keeps Fjz.ctxs (fun _ _ => rfl) ..)
    (received_fjz_keeps Fjz.role (fun _ _ => rfl) ..) (received_port_keeps Port.state (fun _ _ _ _ => rfl) .fjz .fjz p · c s)
    (received_port_keeps Port.peerPort (fun _ _ _ _ => rfl) .fjz .fjz p · c s) herd

theorem mergedBy_received (p : Nat) (c c' : Cell) (down : Bool) (s : State) :
    mergedBy (received .fjz p c s).fjz down c' = mergedBy s.fjz down c' :=
  received_fjz_keeps (mergedBy · down c') (fun _ _ => rfl) p c s

/-! ## What a HALT leaves beside the chip -/

theorem beside_haltUpwards (c : Cell) (s : State) : beside (haltUpwards c s) = beside s := by
  unfold haltUpwards
  split
  · rfl
  · exact beside_bypassOn ..

theorem beside_haltDownwards (turned : Bool) (c : Cell) (s : State) : beside (haltDownwards turned c s) = beside s := by
  unfold haltDownwards
  split
  · rfl
  · exact beside_bypassOn ..

theorem beside_chipTakesHalt (c : Cell) (s : State) : beside (chipTakesHalt c s) = beside s := by
  unfold chipTakesHalt
  split_ifs
  · exact beside_haltDownwards ..
  · exact beside_haltUpwards ..
  · exact beside_haltDownwards ..
  · rfl

/-! ## The cell at the chip -/

section Forward
variable {p : Nat} {c : Cell} {s : State} (hp : p < 72) (hw : s.fjz.works = true) (h : arrives .fjz p 6 c s = true)
include hp hw h

/-- A HALT that the chip takes: one from below, or one from the parent that it follows (R16). -/
theorem haltForward_takes (hdir : haltDown c = false ∨ s.fjz.parentPort = some p) :
    exec (.haltForward p c) s = .next (chipTakesHalt c (received .fjz p c s)) ∧ (chipTakesHalt c (received .fjz p c s)).tsu = s.tsu := by
  have hparent : (received .fjz p c s).fjz.parentPort = s.fjz.parentPort := of_bare Fjz.parentPort (fun _ => rfl) (bare_received p c s)
  have htakes : ¬ (haltDown c = true ∧ (received .fjz p c s).fjz.parentPort ≠ some p) := by
    rw [hparent]
    rintro ⟨hdown, hother⟩
    rcases hdir with hup | hmine
    · simp [hup] at hdown
    · exact hother hmine
  obtain ⟨hexec, htsu⟩ := performOn_chipCell (i := .haltForward p c) (types := [tHalt])
    (act := fun u => if haltDown c ∧ u.fjz.parentPort ≠ some p then u else chipTakesHalt c u) rfl (decide_eq_true hp) hw h rfl fun u => by
      split
      · rfl
      · exact beside_chipTakesHalt ..
  rw [if_neg htakes] at hexec htsu
  exact ⟨hexec, htsu⟩

/-- A HALT from above on a port that is not the parent's goes no further. -/
theorem haltForward_stray (hdown : haltDown c = true) (hother : s.fjz.parentPort ≠ some p) :
    exec (.haltForward p c) s = .next (received .fjz p c s) := by
  have hparent : (received .fjz p c s).fjz.parentPort = s.fjz.parentPort := of_bare Fjz.parentPort (fun _ => rfl) (bare_received p c s)
  obtain ⟨hexec, -⟩ := performOn_chipCell (i := .haltForward p c) (types := [tHalt])
    (act := fun u => if haltDown c ∧ u.fjz.parentPort ≠ some p then u else chipTakesHalt c u) rfl (decide_eq_true hp) hw h rfl fun u => by
      split
      · rfl
      · exact beside_chipTakesHalt ..
  rw [if_pos ⟨hdown, by rw [hparent]; exact hother⟩] at hexec
  exact hexec

theorem haltForward_up (hdown : haltDown c = false) (hrole : s.fjz.role.toNat ≠ haltTop c) (hmerged : mergedBy s.fjz false c = false) :
    ∃ t, exec (.haltForward p c) s = .next t ∧ t.tsu = s.tsu ∧ t.fjz.errs = s.fjz.errs ∧
      ∀ p', s.fjz.parentPort = some p' → (port s .fjz p').state = .up →
        (∃ l, (port t .fjz p').txq = l ++ [{ cell := c, bypass := true, ready := counterOf s .fjz }]) ∧
        ((port s .fjz p').continues = none → queued .fjz p' c true s t) := by
  obtain ⟨hexec, htsu⟩ := haltForward_takes hp hw h (.inl hdown)
  obtain ⟨htyp, hsound⟩ := typ_of_arrives h
  have hcls := cls_of_sound hsound (htyp ▸ by decide)
  obtain ⟨sent, hup⟩ := haltUpwards_eq ((mergedBy_received p c c false s).trans hmerged)
  have hrole' : (received .fjz p c s).fjz.role = s.fjz.role := received_fjz_keeps Fjz.role (fun _ _ => rfl) p c s
  have hparent : (received .fjz p c s).fjz.parentPort = s.fjz.parentPort := of_bare Fjz.parentPort (fun _ => rfl) (bare_received p c s)
  have htake : chipTakesHalt c (received .fjz p c s) = haltUpwards c (received .fjz p c s) := by
    unfold chipTakesHalt
    rw [if_neg (by simp [hdown]), if_pos (by rw [hrole']; exact hrole)]
  rw [htake, hup, hparent] at hexec htsu
  refine ⟨_, hexec, htsu, ?_, fun p' hp' hstate => ?_⟩
  · rw [bypassOn_keeps Fjz.errs (fun _ _ => rfl) (fun _ _ => rfl)]
    exact received_fjz_keeps Fjz.errs (fun _ _ => rfl) p c s
  · rw [hp']
    constructor
    · obtain ⟨l, hl⟩ := txq_bypassTo (p := p') (c := c) (s := onFjz (rememberHalt false sent c) (received .fjz p c s)) hcls
        ((received_port_keeps Port.state (fun _ _ _ _ => rfl) .fjz .fjz p p' c s).trans hstate)
      exact ⟨l, hl.trans (by rw [show counterOf (onFjz (rememberHalt false sent c) (received .fjz p c s)) .fjz = counterOf s .fjz from
        counterOf_received .fjz .fjz p c s])⟩
    · intro hcont
      have hqueued := queued_bypassOn (s := onFjz (rememberHalt false sent c) (received .fjz p c s)) hcls (List.nodup_singleton p')
        (List.mem_singleton_self p') ((received_port_keeps Port.continues (fun _ _ _ _ => rfl) .fjz .fjz p p' c s).trans hcont)
      exact queued_of_received (queued_of_before hqueued rfl rfl rfl)

omit hp hw in
/-- A HALT that goes down is queued on every port of its herd that owes no CONTINUATION. -/
theorem queued_haltDownwards {turned : Bool} (hherd : haltHerd c ≠ 0xFFFFFF) (hmerged : mergedBy s.fjz true c = false) {p' : Nat}
    (hmem : p' ∈ s.fjz.withStandby (s.fjz.herdPorts (haltHerd c))) (hcont : (port s .fjz p').continues = none) :
    queued .fjz p' (downward c) true s (haltDownwards turned c (received .fjz p c s)) := by
  obtain ⟨htyp, hsound⟩ := typ_of_arrives h
  have hcls : (downward c).cls = 0 := cls_of_sound hsound (htyp ▸ by decide)
  obtain ⟨sent, hdown⟩ := haltDownwards_eq (turned := turned) ((mergedBy_received p c c true s).trans hmerged)
  have hnodup := nodup_withStandby (x := s.fjz) (nodup_herdPorts s.fjz (haltHerd c))
  rw [hdown, haltHerd_downward, haltPorts_herd hherd, herdPorts_received]
  have hports := haltGoesDown_keeps Fjz.ports (fun _ _ _ _ _ _ _ => rfl) (fun _ _ => rfl) (fun _ _ => rfl) (fun _ _ => rfl) turned sent
    (downward c) (received .fjz p c s).fjz
  have hfrc := haltGoesDown_keeps Fjz.frc (fun _ _ _ _ _ _ _ => rfl) (fun _ _ => rfl) (fun _ _ => rfl) (fun _ _ => rfl) turned sent
    (downward c) (received .fjz p c s).fjz
  generalize hf : (fun x => haltTrigger (downward c) (rememberHalt true sent (downward c)
    (if turned = true then ownEntry (downward c).body x else x))) = f
  have hport : port (onFjz f (received .fjz p c s)) .fjz p' = port (received .fjz p c s) .fjz p' := by
    rw [← hf]
    exact congrArg (fun ports => Tbl.get ({} : Port) ports p') hports
  have hcounter : counterOf (onFjz f (received .fjz p c s)) .fjz = counterOf (received .fjz p c s) .fjz := by
    rw [← hf]
    exact congrArg BitVec.toNat hfrc
  have hqueued := queued_bypassOn (s := onFjz f (received .fjz p c s)) hcls hnodup hmem
    (by rw [hport]; exact (received_port_keeps Port.continues (fun _ _ _ _ => rfl) .fjz .fjz p p' c s).trans hcont)
  exact queued_of_received (queued_of_before hqueued (by rw [hport]) (by rw [hport]) hcounter)

/-- A HALT from below turns at the top that it names. -/
theorem haltForward_turns (hdown : haltDown c = false) (hrole : s.fjz.role.toNat = haltTop c) (hherd : haltHerd c ≠ 0xFFFFFF)
    (hholds : s.fjz.holdsHerd (haltHerd c) = true) (hmerged : mergedBy s.fjz true c = false) :
    ∃ t, exec (.haltForward p c) s = .next t ∧ t.tsu = s.tsu ∧
      ∀ p' ∈ s.fjz.withStandby (s.fjz.herdPorts (haltHerd c)), (port s .fjz p').continues = none →
        queued .fjz p' (downward c) true s t := by
  obtain ⟨hexec, htsu⟩ := haltForward_takes hp hw h (.inl hdown)
  have hrole' : (received .fjz p c s).fjz.role = s.fjz.role := received_fjz_keeps Fjz.role (fun _ _ => rfl) p c s
  have hholds' : (received .fjz p c s).fjz.holdsHerd (haltHerd c) = true :=
    (received_fjz_keeps (Fjz.holdsHerd · (haltHerd c)) (fun _ _ => rfl) p c s).trans hholds
  have htake : chipTakesHalt c (received .fjz p c s) = haltDownwards true c (received .fjz p c s) := by
    unfold chipTakesHalt
    rw [if_neg (by simp [hdown]), if_neg (by rw [hrole']; simp [hrole]), if_pos (.inr hholds')]
  rw [htake] at hexec htsu
  exact ⟨_, hexec, htsu, fun p' hmem hcont => queued_haltDownwards h hherd hmerged hmem hcont⟩

/-- A HALT from the parent goes on down, and is not kept again. -/
theorem haltForward_down (hdown : haltDown c = true) (hparent : s.fjz.parentPort = some p) (hherd : haltHerd c ≠ 0xFFFFFF)
    (hmerged : mergedBy s.fjz true c = false) :
    ∃ t, exec (.haltForward p c) s = .next t ∧ t.tsu = s.tsu ∧ t.fjz.events = s.fjz.events ∧
      ∀ p' ∈ s.fjz.withStandby (s.fjz.herdPorts (haltHerd c)), (port s .fjz p').continues = none →
        queued .fjz p' (downward c) true s t := by
  obtain ⟨hexec, htsu⟩ := haltForward_takes hp hw h (.inr hparent)
  have htake : chipTakesHalt c (received .fjz p c s) = haltDownwards false c (received .fjz p c s) := by
    unfold chipTakesHalt
    rw [if_pos hdown]
  rw [htake] at hexec htsu
  obtain ⟨sent, hsent⟩ := haltDownwards_eq (turned := false) ((mergedBy_received p c c true s).trans hmerged)
  refine ⟨_, hexec, htsu, ?_, fun p' hmem hcont => queued_haltDownwards h hherd hmerged hmem hcont⟩
  rw [hsent, bypassOn_keeps Fjz.events (fun _ _ => rfl) (fun _ _ => rfl)]
  exact (haltTrigger_keeps Fjz.events (fun _ _ _ _ _ _ _ => rfl) (fun _ _ => rfl) ..).trans
    (received_fjz_keeps Fjz.events (fun _ _ => rfl) p c s)

/-- A HALT whose herd the chip does not hold goes no further at its top. -/
theorem haltForward_discards (hdown : haltDown c = false) (hrole : s.fjz.role.toNat = haltTop c) (hherd : haltHerd c ≠ 0xFFFFFF)
    (hholds : s.fjz.holdsHerd (haltHerd c) = false) :
    exec (.haltForward p c) s = .next (onFjz (fun x => { x with haltDiscards := bump x.haltDiscards }) (received .fjz p c s)) := by
  obtain ⟨hexec, -⟩ := haltForward_takes hp hw h (.inl hdown)
  have hrole' : (received .fjz p c s).fjz.role = s.fjz.role := received_fjz_keeps Fjz.role (fun _ _ => rfl) p c s
  have hholds' : (received .fjz p c s).fjz.holdsHerd (haltHerd c) = false :=
    (received_fjz_keeps (Fjz.holdsHerd · (haltHerd c)) (fun _ _ => rfl) p c s).trans hholds
  have hnot : ¬ (haltHerd c = everyHerd ∨ (received .fjz p c s).fjz.holdsHerd (haltHerd c) = true) :=
    not_or.mpr ⟨hherd, by simp [hholds']⟩
  rw [hexec, chipTakesHalt, if_neg (by simp [hdown]), if_neg (by rw [hrole']; simp [hrole]), if_neg hnot]

/-- A HALT that one already forwarded makes needless is counted alone (R253). -/
theorem haltForward_merges (hdown : haltDown c = true) (hparent : s.fjz.parentPort = some p) (hmerged : mergedBy s.fjz true c = true) :
    exec (.haltForward p c) s = .next (onFjz (fun x => { x with haltsMerged := bump x.haltsMerged }) (received .fjz p c s)) := by
  obtain ⟨hexec, -⟩ := haltForward_takes hp hw h (.inr hparent)
  rw [hexec, chipTakesHalt, if_pos hdown, haltDownwards, if_pos ((mergedBy_received p c c true s).trans hmerged)]

end Forward

end Sys2Proof
end

section
/-! PROOFS. What a command about one context leaves beyond it, and a HALT at a die (O54). -/

namespace Sys2Proof

open Machine

/-! ## Beyond one context -/

theorem sameBeyond_trans {h : Nat} {s t u : State} (hst : sameBeyond h s t) (htu : sameBeyond h t u) : sameBeyond h s u := by
  obtain ⟨hfjz, htc, hlinks, hherds⟩ := hst
  obtain ⟨hfjz', htc', hlinks', hherds'⟩ := htu
  exact ⟨hfjz'.trans hfjz, htc'.trans htc, hlinks'.trans hlinks, fun g hg => (hherds' g hg).trans (hherds g hg)⟩

theorem sameBeyond_of_same {h : Nat} {s t : State} (hfjz : t.fjz = s.fjz) (htc : t.tsu.tc = s.tsu.tc) (hlinks : t.tsu.links = s.tsu.links)
    (hherds : t.tsu.herds = s.tsu.herds) : sameBeyond h s t :=
  ⟨hfjz, htc, hlinks, fun g _ => herd_congr hherds g⟩

theorem sameBeyond_onHerd (h : Nat) (f : Herd → Herd) (s : State) : sameBeyond h s (onHerd h f s) :=
  ⟨rfl, rfl, rfl, fun _ hg => herd_onHerd_ne f s hg⟩

theorem sameBeyond_raiseHerd (h : Nat) (code : U16) (halts : Bool) (obj waiter : U32) (round detail : Nat) (s : State) :
    sameBeyond h s (raiseHerd h code halts obj waiter round detail s) :=
  ⟨fjz_raiseHerd .., tc_raiseHerd .., links_raiseHerd .., fun _ hg => raiseHerd_herd_ne hg ..⟩

theorem sameBeyond_enterErrs (h : Nat) (s : State) : sameBeyond h s (enterErrs s) :=
  sameBeyond_of_same (enterErrs_fjz s) (enterErrs_tc s) (enterErrs_links s) (enterErrs_herds s)

theorem sameBeyond_tapHerd (h kind k : Nat) (content : Bytes) (s : State) : sameBeyond h s (tapHerd kind k content s) :=
  sameBeyond_of_same (fjz_tapHerd ..) (tc_tapHerd ..) (of_besideRecords Tsu.links (fun _ => rfl) (besideRecords_tapHerd kind k content s))
    (herds_of_besideRecords (besideRecords_tapHerd kind k content s))

theorem received_die_keeps {γ : Type} {v : Tsu → γ} (hv : ∀ t ps, v { t with ports := ps } = v t) (p : Nat) (c : Cell) (s : State) :
    v (received .tsu p c s).tsu = v s.tsu := by
  unfold received
  split
  · exact hv s.tsu _
  · rfl

theorem sameBeyond_received (h p : Nat) (c : Cell) (s : State) : sameBeyond h s (received .tsu p c s) :=
  sameBeyond_of_same (received_fjz ..) (received_tc ..) (received_die_keeps (v := Tsu.links) (fun _ _ => rfl) p c s) (received_herds ..)

theorem sameBeyond_sendBoth (h : Nat) (c : Cell) (s : State) : sameBeyond h s (sendBoth c s) :=
  sameBeyond_of_same (fjz_sendBoth ..) (tc_sendBoth ..) (sendBoth_die_keeps (v := Tsu.links) (fun _ _ _ _ _ _ _ _ => rfl) c s)
    (sendBoth_die_keeps (v := Tsu.herds) (fun _ _ _ _ _ _ _ _ => rfl) c s)

theorem herd_tapHerd (g kind k : Nat) (content : Bytes) (s : State) : (tapHerd kind k content s).tsu.herd g = s.tsu.herd g :=
  herd_congr (herds_of_besideRecords (besideRecords_tapHerd kind k content s)) g

theorem tapHerd_staged (kind k : Nat) (content : Bytes) (s : State) : (tapHerd kind k content s).staged = s.staged := tap_staged ..

/-! ## HALT at a die (R254, R257) -/

/-- A halt time stands at a context. -/
def haltSet (h : Nat) (hh : HT) : State → State := onHerd h fun x => { x with halt := some (earlier x.halt hh) }

/-- The die has taken a HALT and is about to apply it. -/
def haltNoted (h : Nat) (c : Cell) (s : State) : State := tapHalt h c (onTsu (takeKey c) s)

theorem takeHalt_applies {c : Cell} {more : Nat → State → State} {h : Nat} {s : State} (hnew : haltTaken s.tsu c = false)
    (hctx : s.tsu.haltCtx c = some h) :
    takeHalt c more s = more h (applyHalt h (haltHt c) (haltOrigin c) (haltSeqOf c) (haltNoted h c s)) := by
  have hctx' : (onTsu (takeKey c) s).tsu.haltCtx c = some h := hctx
  unfold takeHalt
  rw [if_neg (by simp [hnew])]
  dsimp only
  rw [hctx']
  rfl

theorem sameBeyond_haltNoted (h : Nat) (c : Cell) (s : State) : sameBeyond h s (haltNoted h c s) :=
  sameBeyond_trans (t := onTsu (takeKey c) s) ⟨rfl, rfl, rfl, fun _ _ => rfl⟩ (sameBeyond_tapHerd ..)

theorem herd_haltNoted (g h : Nat) (c : Cell) (s : State) : (haltNoted h c s).tsu.herd g = s.tsu.herd g := herd_tapHerd ..

theorem haltNoted_keeps {γ : Type} {v : Tsu → γ} (hv : ∀ t, v (besideRecords t) = v t) (h : Nat) (c : Cell) (s : State) :
    v (haltNoted h c s).tsu = v (takeKey c s.tsu) :=
  of_besideRecords v hv (besideRecords_tapHerd ..)

/-- The die knows a HALT that it has taken. -/
theorem haltTaken_of {t : Tsu} {ks : List (Id24 × U16)} {c : Cell} (h : t.haltsTaken = ks ++ [(haltOrigin c, haltSeqOf c)]) :
    haltTaken t c = true := by
  simp [haltTaken, h]

/-- A context that a HALT reaches too late is to halt at its next boundary. -/
def lateNoted (h : Nat) (s : State) : State :=
  onHerd h (fun x => { x with haltLate := true }) (onTsu (fun t => { t with haltLates := bump t.haltLates }) s)

theorem lateHalt_raises (h : Nat) (hh : HT) (origin : Id24) (seq : U16) (s : State) :
    ∃ waiter detail, lateHalt h hh origin seq s = raiseHerd h 0x0901 true (herdObj h) waiter seq.toNat detail (lateNoted h s) :=
  ⟨_, _, rfl⟩

theorem sameBeyond_lateNoted (h : Nat) (s : State) : sameBeyond h s (lateNoted h s) :=
  ⟨rfl, rfl, rfl, fun _ hg => herd_onHerd_ne (fun x => { x with haltLate := true }) _ hg⟩

theorem sameBeyond_lateHalt (h : Nat) (hh : HT) (origin : Id24) (seq : U16) (s : State) : sameBeyond h s (lateHalt h hh origin seq s) := by
  obtain ⟨waiter, detail, hlate⟩ := lateHalt_raises h hh origin seq s
  rw [hlate]
  exact sameBeyond_trans (sameBeyond_lateNoted h s) (sameBeyond_raiseHerd ..)

/-- A HALT that comes in time sets the halt time alone. -/
theorem applyHalt_in_time {h : Nat} {hh : HT} {s : State} (hlate : haltIsLate (s.tsu.herd h) hh = false) (origin : Id24) (seq : U16) :
    applyHalt h hh origin seq s = haltSet h hh s := by
  unfold applyHalt
  rw [hlate]
  rfl

theorem applyHalt_late {h : Nat} {hh : HT} {s : State} (hlate : haltIsLate (s.tsu.herd h) hh = true) (origin : Id24) (seq : U16) :
    applyHalt h hh origin seq s = lateHalt h hh origin seq (haltSet h hh s) := by
  unfold applyHalt
  rw [hlate]
  rfl

theorem sameBeyond_applyHalt (h : Nat) (hh : HT) (origin : Id24) (seq : U16) (s : State) :
    sameBeyond h s (applyHalt h hh origin seq s) := by
  have hset : sameBeyond h s (haltSet h hh s) := sameBeyond_onHerd ..
  cases hlate : haltIsLate (s.tsu.herd h) hh with
  | false =>
    rw [applyHalt_in_time hlate]
    exact hset
  | true =>
    rw [applyHalt_late hlate]
    exact sameBeyond_trans hset (sameBeyond_lateHalt ..)

theorem herd_haltSet (h : Nat) (hh : HT) (s : State) :
    (haltSet h hh s).tsu.herd h = { s.tsu.herd h with halt := some (earlier (s.tsu.herd h).halt hh) } := herd_onHerd_same ..

theorem herd_lateNoted (h : Nat) (s : State) : (lateNoted h s).tsu.herd h = { s.tsu.herd h with haltLate := true } :=
  herd_onHerd_same h (fun x => { x with haltLate := true }) _

/-- What an applied HALT leaves of its context beside its halt time, its lateness and its last fault. -/
theorem herd_applyHalt {γ : Type} {g : Herd → γ} (hlast : ∀ x f, g { x with lastFault := f } = g x)
    (hlate : ∀ x b, g { x with haltLate := b } = g x) (h : Nat) (hh : HT) (origin : Id24) (seq : U16) (s : State) :
    g ((applyHalt h hh origin seq s).tsu.herd h) = g { s.tsu.herd h with halt := some (earlier (s.tsu.herd h).halt hh) } := by
  cases hl : haltIsLate (s.tsu.herd h) hh with
  | false => rw [applyHalt_in_time hl, herd_haltSet]
  | true =>
    obtain ⟨waiter, detail, hraise⟩ := lateHalt_raises h hh origin seq (haltSet h hh s)
    rw [applyHalt_late hl, hraise, herd_raiseHerd hlast, herd_lateNoted, hlate, herd_haltSet]

theorem raiseHerd_haltsTaken (h : Nat) (code : U16) (halts : Bool) (obj waiter : U32) (round detail : Nat) (s : State) :
    (raiseHerd h code halts obj waiter round detail s).tsu.haltsTaken = s.tsu.haltsTaken := rfl
theorem raiseHerd_haltLates (h : Nat) (code : U16) (halts : Bool) (obj waiter : U32) (round detail : Nat) (s : State) :
    (raiseHerd h code halts obj waiter round detail s).tsu.haltLates = s.tsu.haltLates := rfl
theorem raiseHerd_errs (h : Nat) (code : U16) (halts : Bool) (obj waiter : U32) (round detail : Nat) (s : State) :
    (raiseHerd h code halts obj waiter round detail s).tsu.errs = s.tsu.errs := rfl
theorem haltSet_haltsTaken (h : Nat) (hh : HT) (s : State) : (haltSet h hh s).tsu.haltsTaken = s.tsu.haltsTaken := rfl
theorem haltSet_haltLates (h : Nat) (hh : HT) (s : State) : (haltSet h hh s).tsu.haltLates = s.tsu.haltLates := rfl
theorem haltSet_errs (h : Nat) (hh : HT) (s : State) : (haltSet h hh s).tsu.errs = s.tsu.errs := rfl
theorem haltSet_staged (h : Nat) (hh : HT) (s : State) : (haltSet h hh s).staged = s.staged := rfl
theorem lateNoted_haltsTaken (h : Nat) (s : State) : (lateNoted h s).tsu.haltsTaken = s.tsu.haltsTaken := rfl
theorem lateNoted_haltLates (h : Nat) (s : State) : (lateNoted h s).tsu.haltLates = bump s.tsu.haltLates := rfl
theorem lateNoted_errs (h : Nat) (s : State) : (lateNoted h s).tsu.errs = s.tsu.errs := rfl
theorem lateNoted_staged (h : Nat) (s : State) : (lateNoted h s).staged = s.staged := rfl

theorem applyHalt_haltsTaken (h : Nat) (hh : HT) (origin : Id24) (seq : U16) (s : State) :
    (applyHalt h hh origin seq s).tsu.haltsTaken = s.tsu.haltsTaken := by
  cases hl : haltIsLate (s.tsu.herd h) hh with
  | false => rw [applyHalt_in_time hl, haltSet_haltsTaken]
  | true =>
    obtain ⟨waiter, detail, hraise⟩ := lateHalt_raises h hh origin seq (haltSet h hh s)
    rw [applyHalt_late hl, hraise, raiseHerd_haltsTaken, lateNoted_haltsTaken, haltSet_haltsTaken]

/-- A late HALT is counted, and raises the one record of the command. -/
theorem applyHalt_late_counts {h : Nat} {hh : HT} {origin : Id24} {seq : U16} {s : State} (hlate : haltIsLate (s.tsu.herd h) hh = true) :
    (applyHalt h hh origin seq s).tsu.haltLates = bump s.tsu.haltLates ∧
      ((applyHalt h hh origin seq s).tsu.herd h).haltLate = true ∧
      (applyHalt h hh origin seq s).tsu.errs = s.tsu.errs ∧ ∃ e, (applyHalt h hh origin seq s).staged = s.staged ++ [e] := by
  obtain ⟨waiter, detail, hraise⟩ := lateHalt_raises h hh origin seq (haltSet h hh s)
  obtain ⟨b, hb⟩ := raiseHerd_staged h 0x0901 true (herdObj h) waiter seq.toNat detail (lateNoted h (haltSet h hh s))
  rw [lateNoted_staged, haltSet_staged] at hb
  rw [applyHalt_late hlate, hraise]
  refine ⟨?_, ?_, ?_, _, hb⟩
  · rw [raiseHerd_haltLates, lateNoted_haltLates, haltSet_haltLates]
  · rw [herd_raiseHerd (g := Herd.haltLate) (fun _ _ => rfl), herd_lateNoted]
  · rw [raiseHerd_errs, lateNoted_errs, haltSet_errs]

/-! ## HALT_AT and HALT_PAUSE -/

section Take
variable {p h : Nat} {c : Cell} {s : State} (hp : p < 2) (hw : s.tsu.works = true) (harr : arrives .tsu p 6 c s = true)
include hp hw harr

/-- A command about a HALT cell that arrives at a die. -/
theorem haltCell_acts {i : Instr} (hi : placeOf i = cellTurn .tsu p 6) (act : State → State) :
    performOn .tsu (portOk .tsu p) (receive i .tsu p [tHalt] c act) s = .next (enterErrs (act (received .tsu p c s))) :=
  performOn_receive (d := .tsu) hi (decide_eq_true hp) hw harr rfl

theorem haltAt_acts (hkind : haltKind c = 0) :
    exec (.haltAt p c) s = .next (enterErrs (takeHalt c (fun _ u => u) (received .tsu p c s))) := by
  rw [exec, execHaltAt, haltCell_acts hp hw harr rfl, if_pos hkind]

theorem haltPause_acts (hkind : haltKind c = 1) :
    exec (.haltPause p c) s = .next (enterErrs (takeHalt c (recordPause (haltOrigin c)) (received .tsu p c s))) := by
  rw [exec, execHaltPause, haltCell_acts hp hw harr rfl, if_pos hkind]

/-- A HALT of a reserved KIND is counted (R254). -/
theorem haltAt_reserved (hkind : 3 ≤ haltKind c) :
    exec (.haltAt p c) s = .next (onTsu (fun t => { t with haltDiscards := bump t.haltDiscards }) (received .tsu p c s)) := by
  rw [exec, execHaltAt, haltCell_acts hp hw harr rfl, if_neg (by omega), if_pos hkind]
  exact congrArg Host.Outcome.next (enterErrs_nil (received_staged ..))

/-- A HALT that the die has taken is counted (R254). -/
theorem haltAt_repeated (htaken : haltTaken s.tsu c = true) (hkind : haltKind c = 0) :
    exec (.haltAt p c) s = .next (onTsu (fun t => { t with haltDiscards := bump t.haltDiscards }) (received .tsu p c s)) := by
  have htaken' : haltTaken (received .tsu p c s).tsu c = true :=
    (received_die_keeps (v := (haltTaken · c)) (fun _ _ => rfl) p c s).trans htaken
  rw [haltAt_acts hp hw harr hkind, takeHalt, if_pos htaken']
  exact congrArg Host.Outcome.next (enterErrs_nil (received_staged ..))

end Take

/-- What a HALT that arrives leaves of the die before it acts: that it was taken (R254). -/
theorem haltNoted_received (h p : Nat) (c : Cell) (s : State) :
    sameBeyond h s (haltNoted h c (received .tsu p c s)) ∧ (haltNoted h c (received .tsu p c s)).tsu.herd h = s.tsu.herd h ∧
      (haltNoted h c (received .tsu p c s)).tsu.haltsTaken = s.tsu.haltsTaken ++ [(haltOrigin c, haltSeqOf c)] ∧
      (haltNoted h c (received .tsu p c s)).tsu.haltLates = s.tsu.haltLates ∧
      (haltNoted h c (received .tsu p c s)).tsu.errs = s.tsu.errs ∧ (haltNoted h c (received .tsu p c s)).staged = [] := by
  have htaken : (received .tsu p c s).tsu.haltsTaken = s.tsu.haltsTaken := received_die_keeps (v := Tsu.haltsTaken) (fun _ _ => rfl) p c s
  have hlates : (received .tsu p c s).tsu.haltLates = s.tsu.haltLates := received_die_keeps (v := Tsu.haltLates) (fun _ _ => rfl) p c s
  refine ⟨sameBeyond_trans (sameBeyond_received ..) (sameBeyond_haltNoted ..), ?_, ?_, ?_, ?_, ?_⟩
  · rw [herd_haltNoted]
    exact herd_congr (received_herds ..) h
  · rw [haltNoted_keeps (v := Tsu.haltsTaken) fun _ => rfl, ← htaken]
    rfl
  · rw [haltNoted_keeps (v := Tsu.haltLates) fun _ => rfl, ← hlates]
    rfl
  · rw [haltNoted_keeps (v := Tsu.errs) fun _ => rfl]
    exact received_errs ..
  · exact (tapHerd_staged ..).trans (received_staged ..)

section Applied
variable {p h : Nat} {c : Cell} {s : State} (hp : p < 2) (hw : s.tsu.works = true) (harr : arrives .tsu p 6 c s = true)
  (hnew : haltTaken s.tsu c = false) (hctx : s.tsu.haltCtx c = some h)
include hp hw harr hnew hctx

omit hp hw harr in
/-- A new HALT for a context of the die is applied to it. -/
theorem takeHalt_received (more : Nat → State → State) : takeHalt c more (received .tsu p c s) =
    more h (applyHalt h (haltHt c) (haltOrigin c) (haltSeqOf c) (haltNoted h c (received .tsu p c s))) :=
  takeHalt_applies ((received_die_keeps (v := (haltTaken · c)) (fun _ _ => rfl) p c s).trans hnew)
    ((received_die_keeps (v := (Tsu.haltCtx · c)) (fun _ _ => rfl) p c s).trans hctx)

theorem haltAt_applies (hkind : haltKind c = 0) : ∃ t, exec (.haltAt p c) s = .next t ∧ sameBeyond h s t ∧ haltTaken t.tsu c = true ∧
    (t.tsu.herd h).halt = some (earlier (s.tsu.herd h).halt (haltHt c)) ∧ (t.tsu.herd h).state = (s.tsu.herd h).state ∧
    (haltIsLate (s.tsu.herd h) (haltHt c) = true → (t.tsu.herd h).haltLate = true ∧ t.tsu.haltLates = bump s.tsu.haltLates ∧
      t.tsu.errs.total = bump s.tsu.errs.total) ∧
    (haltIsLate (s.tsu.herd h) (haltHt c) = false → (t.tsu.herd h).haltLate = (s.tsu.herd h).haltLate ∧ t.tsu.errs = s.tsu.errs) := by
  obtain ⟨hbeyond, hherd, htaken, hlates, herrs, hstaged⟩ := haltNoted_received h p c s
  refine ⟨_, haltAt_acts hp hw harr hkind, ?_⟩
  rw [takeHalt_received hnew hctx]
  generalize haltNoted h c (received .tsu p c s) = n at *
  refine ⟨?_, ?_, ?_, ?_, fun hlate => ?_, fun hlate => ?_⟩
  · exact sameBeyond_trans hbeyond (sameBeyond_trans (sameBeyond_applyHalt ..) (sameBeyond_enterErrs ..))
  · refine haltTaken_of (ks := s.tsu.haltsTaken) ?_
    rw [enterErrs_keeps (·.tsu.haltsTaken) (fun _ _ _ _ _ _ => rfl) (fun _ => rfl), applyHalt_haltsTaken, htaken]
  · rw [enterErrs_herd, herd_applyHalt (g := Herd.halt) (fun _ _ => rfl) (fun _ _ => rfl), hherd]
  · rw [enterErrs_herd, herd_applyHalt (g := Herd.state) (fun _ _ => rfl) (fun _ _ => rfl), hherd]
  · obtain ⟨hcount, hmark, hring, e, he⟩ := applyHalt_late_counts (origin := haltOrigin c) (seq := haltSeqOf c) (by rw [hherd]; exact hlate)
    rw [hstaged, List.nil_append] at he
    refine ⟨by rw [enterErrs_herd]; exact hmark, ?_, by rw [enterErrs_single_total he, hring, herrs]⟩
    rw [enterErrs_keeps (·.tsu.haltLates) (fun _ _ _ _ _ _ => rfl) (fun _ => rfl), hcount, hlates]
  · have hset := applyHalt_in_time (s := n) (by rw [hherd]; exact hlate) (haltOrigin c) (haltSeqOf c)
    rw [hset, enterErrs_nil ((haltSet_staged ..).trans hstaged), herd_haltSet, hherd, haltSet_errs, herrs]
    exact ⟨rfl, rfl⟩

theorem haltPause_applies (hkind : haltKind c = 1) : ∃ t, exec (.haltPause p c) s = .next t ∧ sameBeyond h s t ∧
    haltTaken t.tsu c = true ∧ (t.tsu.herd h).halt = some (earlier (s.tsu.herd h).halt (haltHt c)) ∧
    (t.tsu.herd h).state = (s.tsu.herd h).state := by
  obtain ⟨hbeyond, hherd, htaken, -, -, -⟩ := haltNoted_received h p c s
  refine ⟨_, haltPause_acts hp hw harr hkind, ?_⟩
  rw [takeHalt_received hnew hctx]
  generalize haltNoted h c (received .tsu p c s) = n at *
  refine ⟨?_, ?_, ?_, ?_⟩
  · exact sameBeyond_trans hbeyond (sameBeyond_trans (sameBeyond_applyHalt ..)
      (sameBeyond_trans (sameBeyond_raiseHerd ..) (sameBeyond_enterErrs ..)))
  · refine haltTaken_of (ks := s.tsu.haltsTaken) ?_
    rw [enterErrs_keeps (·.tsu.haltsTaken) (fun _ _ _ _ _ _ => rfl) (fun _ => rfl), recordPause, raiseHerd_haltsTaken,
      applyHalt_haltsTaken, htaken]
  · rw [enterErrs_herd, recordPause, herd_raiseHerd (g := Herd.halt) (fun _ _ => rfl),
      herd_applyHalt (g := Herd.halt) (fun _ _ => rfl) (fun _ _ => rfl), hherd]
  · rw [enterErrs_herd, recordPause, herd_raiseHerd (g := Herd.state) (fun _ _ => rfl),
      herd_applyHalt (g := Herd.state) (fun _ _ => rfl) (fun _ _ => rfl), hherd]

end Applied

/-! ## HALT_NOW_CELL (R255) -/

/-- The regions whose step a context launched are told to stop. -/
theorem forAll_emit_out (o : Nat → Out) (ns : List Nat) (s : State) :
    forAll ns (fun n s => emit (o n) s) s = { s with out := s.out ++ ns.map o } := by
  induction ns generalizing s with
  | nil => simp [forAll]
  | cons n ns ih =>
    refine (ih (emit (o n) s)).trans ?_
    simp [emit]

/-- A context that a NOW stops, before its record. -/
def nowStopped (h : Nat) (s : State) : State :=
  let u := onHerd h (fun x => { x with halt := some (earlier x.halt s.tsu.now), stoppedNow := true }) s
  { u with out := u.out ++ (u.tsu.stepsOf h).map Out.stop }

/-- What a NOW waits for: the regions that it has told to stop. -/
def nowWait (c : Cell) (h : Nat) (s : State) : NowStop := ⟨(haltOrigin c).setWidth 32, (s.tsu.herd h).iter16, s.tsu.stepsOf h, 0⟩

theorem stopNow_eq (c : Cell) (h : Nat) (s : State) : stopNow c h s =
    if s.tsu.stepsOf h = [] then raiseHaltedNow h (nowWait c h (nowStopped h (tapHalt h c s))) (nowStopped h (tapHalt h c s))
    else onHerd h (fun x => { x with nowStops := x.nowStops ++ [nowWait c h (nowStopped h (tapHalt h c s))] }) (nowStopped h (tapHalt h c s)) := by
  have hsteps : (tapHalt h c s).tsu.stepsOf h = s.tsu.stepsOf h :=
    of_besideRecords (Tsu.stepsOf · h) (fun _ => rfl) (besideRecords_tapHerd ..)
  rw [← hsteps]
  unfold stopNow
  dsimp only
  rw [forAll_emit_out]
  rfl

theorem herd_nowStopped (h : Nat) (s : State) : (nowStopped h s).tsu.herd h =
    { s.tsu.herd h with halt := some (earlier (s.tsu.herd h).halt s.tsu.now), stoppedNow := true } :=
  herd_onHerd_same h (fun x => { x with halt := some (earlier x.halt s.tsu.now), stoppedNow := true }) s

theorem sameBeyond_nowStopped (h : Nat) (s : State) : sameBeyond h s (nowStopped h s) :=
  ⟨rfl, rfl, rfl, fun _ hg => herd_onHerd_ne (fun x => { x with halt := some (earlier x.halt s.tsu.now), stoppedNow := true }) s hg⟩

theorem nowStopped_out (h : Nat) (s : State) : (nowStopped h s).out = s.out ++ (s.tsu.stepsOf h).map Out.stop := rfl
theorem nowStopped_staged (h : Nat) (s : State) : (nowStopped h s).staged = s.staged := rfl
theorem nowStopped_errs (h : Nat) (s : State) : (nowStopped h s).tsu.errs = s.tsu.errs := rfl
theorem nowStopped_regions (h : Nat) (s : State) : (nowStopped h s).tsu.regions = s.tsu.regions := rfl
theorem nowStopped_haltsTaken (h : Nat) (s : State) : (nowStopped h s).tsu.haltsTaken = s.tsu.haltsTaken := rfl
theorem raiseHerd_regions (h : Nat) (code : U16) (halts : Bool) (obj waiter : U32) (round detail : Nat) (s : State) :
    (raiseHerd h code halts obj waiter round detail s).tsu.regions = s.tsu.regions := rfl
theorem raiseHerd_out (h : Nat) (code : U16) (halts : Bool) (obj waiter : U32) (round detail : Nat) (s : State) :
    (raiseHerd h code halts obj waiter round detail s).out = s.out := rfl

section Now
variable {p h : Nat} {c : Cell} {s : State} (hp : p < 2) (hw : s.tsu.works = true) (harr : arrives .tsu p 6 c s = true)
  (hnew : haltTaken s.tsu c = false) (hctx : s.tsu.haltCtx c = some h) (hkind : haltKind c = 2) (hherd : haltHerd c ≠ 0xFFFFFF)
include hp hw harr hnew hctx hkind hherd

/-- A NOW of one herd stops its context. -/
theorem haltNowCell_stops : exec (.haltNowCell p c) s = .next (enterErrs (stopNow c h (onTsu (takeKey c) (received .tsu p c s)))) := by
  have hnew' : haltTaken (received .tsu p c s).tsu c = false :=
    (received_die_keeps (v := (haltTaken · c)) (fun _ _ => rfl) p c s).trans hnew
  have hctxs : (onTsu (takeKey c) (received .tsu p c s)).tsu.nowCtxs c = [h] := by
    have hctx' : (onTsu (takeKey c) (received .tsu p c s)).tsu.haltCtx c = some h :=
      (received_die_keeps (v := (Tsu.haltCtx · c)) (fun _ _ => rfl) p c s).trans hctx
    unfold Tsu.nowCtxs
    rw [if_neg (show ¬ haltHerd c = everyHerd from hherd), hctx']
    rfl
  rw [exec, execHaltNowCell, haltCell_acts hp hw harr rfl, if_pos hkind, takeNow, if_neg (by simp [hnew'])]
  dsimp only
  rw [hctxs]
  rfl

theorem haltNowCell_applies : ∃ t, exec (.haltNowCell p c) s = .next t ∧ sameBeyond h s t ∧
    haltTaken t.tsu c = true ∧ (t.tsu.herd h).halt = some (earlier (s.tsu.herd h).halt s.tsu.now) ∧
    (t.tsu.herd h).stoppedNow = true ∧ t.tsu.regions = s.tsu.regions ∧ t.out = (s.tsu.stepsOf h).map Out.stop ∧
    (s.tsu.stepsOf h = [] → t.tsu.errs.total = bump s.tsu.errs.total ∧ (t.tsu.herd h).nowStops = (s.tsu.herd h).nowStops) ∧
    (s.tsu.stepsOf h ≠ [] → t.tsu.errs = s.tsu.errs ∧ ∃ w, (t.tsu.herd h).nowStops = (s.tsu.herd h).nowStops ++ [w] ∧
      w.regions = s.tsu.stepsOf h ∧ w.count = 0) := by
  obtain ⟨hbeyond, hsame, htaken, -, herrs, hstaged⟩ := haltNoted_received h p c s
  have hregions : (haltNoted h c (received .tsu p c s)).tsu.regions = s.tsu.regions :=
    (haltNoted_keeps (v := Tsu.regions) (fun _ => rfl) ..).trans (received_die_keeps (v := Tsu.regions) (fun _ _ => rfl) p c s)
  have hnow : (haltNoted h c (received .tsu p c s)).tsu.now = s.tsu.now := by rw [Tsu.now, hbeyond.2.1, ← Tsu.now]
  have hout : (haltNoted h c (received .tsu p c s)).out = [] := (tap_out ..).trans (received_out ..)
  have hsteps : (onTsu (takeKey c) (received .tsu p c s)).tsu.stepsOf h = s.tsu.stepsOf h :=
    received_die_keeps (v := (Tsu.stepsOf · h)) (fun _ _ => rfl) p c s
  have hsteps' : (haltNoted h c (received .tsu p c s)).tsu.stepsOf h = s.tsu.stepsOf h :=
    (haltNoted_keeps (v := (Tsu.stepsOf · h)) (fun _ => rfl) ..).trans hsteps
  refine ⟨_, haltNowCell_stops hp hw harr hnew hctx hkind hherd, ?_⟩
  rw [stopNow_eq, hsteps, ← haltNoted]
  generalize haltNoted h c (received .tsu p c s) = n at *
  have hstop := herd_nowStopped h n
  have hwait : (nowWait c h (nowStopped h n)).regions = s.tsu.stepsOf h := hsteps'
  rw [hsame, hnow] at hstop
  have hbeyond' := sameBeyond_trans hbeyond (sameBeyond_nowStopped h n)
  have htaken' := (nowStopped_haltsTaken h n).trans htaken
  have hregions' := (nowStopped_regions h n).trans hregions
  have herrs' := (nowStopped_errs h n).trans herrs
  have hstaged' := (nowStopped_staged h n).trans hstaged
  have hout' : (nowStopped h n).out = (s.tsu.stepsOf h).map Out.stop := by rw [nowStopped_out, hout, hsteps', List.nil_append]
  generalize nowStopped h n = u at *
  by_cases hnone : s.tsu.stepsOf h = []
  · rw [if_pos hnone, raiseHaltedNow]
    obtain ⟨b, hb⟩ := raiseHerd_staged h 0x0902 true (herdObj h) (nowWait c h u).waiter (nowWait c h u).round (nowWait c h u).count u
    rw [hstaged', List.nil_append] at hb
    have hmine {γ : Type} (g : Herd → γ) (hg : ∀ x f, g { x with lastFault := f } = g x) :=
      herd_raiseHerd hg h h 0x0902 true (herdObj h) (nowWait c h u).waiter (nowWait c h u).round (nowWait c h u).count u
    refine ⟨?_, ?_, ?_, ?_, ?_, ?_, fun _ => ⟨?_, ?_⟩, fun hsome => absurd hnone hsome⟩
    · exact sameBeyond_trans hbeyond' (sameBeyond_trans (sameBeyond_raiseHerd ..) (sameBeyond_enterErrs ..))
    · refine haltTaken_of (ks := s.tsu.haltsTaken) ?_
      rw [enterErrs_keeps (·.tsu.haltsTaken) (fun _ _ _ _ _ _ => rfl) (fun _ => rfl), raiseHerd_haltsTaken, htaken']
    · rw [enterErrs_herd, hmine Herd.halt fun _ _ => rfl, hstop]
    · rw [enterErrs_herd, hmine Herd.stoppedNow fun _ _ => rfl, hstop]
    · rw [enterErrs_regions, raiseHerd_regions, hregions']
    · rw [enterErrs_out, raiseHerd_out, hout']
    · rw [enterErrs_single_total hb, raiseHerd_errs, herrs']
    · rw [enterErrs_herd, hmine Herd.nowStops fun _ _ => rfl, hstop]
  · rw [if_neg hnone, enterErrs_nil ((onHerd_staged ..).trans hstaged')]
    refine ⟨sameBeyond_trans hbeyond' (sameBeyond_onHerd ..), haltTaken_of (ks := s.tsu.haltsTaken) htaken', ?_, ?_, hregions', hout',
      fun h0 => absurd h0 hnone, fun _ => ⟨herrs', nowWait c h u, ?_, hwait, rfl⟩⟩
    · rw [herd_onHerd_same, hstop]
    · rw [herd_onHerd_same, hstop]
    · rw [herd_onHerd_same, hstop]

end Now

/-! ## HALT_NOW (R251, R255) -/

/-- The HALT cells of a die are numbered and counted as they leave (R251). -/
theorem sendHalt_eq (kind span : Nat) (herd : Id24) (run : U8) (hh : HT) (cause : U16) (s : State) : ∃ c,
    sendHalt kind span herd run hh cause s =
      sendBoth c (onTsu (fun t => { t with haltSeq := t.haltSeq + 1, haltsSent := bump t.haltsSent }) s) := ⟨_, rfl⟩

/-- A NOW of the die names something here, and one HALT leaves. -/
theorem dieHaltsNow_eq {v : U32} {s : State} (h : nowReady .tsu v s = true) : ∃ c, dieHaltsNow v s =
    sendBoth c (onTsu (fun t => { t with haltNow := v, haltSeq := t.haltSeq + 1, haltsSent := bump t.haltsSent }) s) := by
  unfold dieHaltsNow
  unfold nowReady at h
  dsimp only at h ⊢
  split
  · obtain ⟨c, hc⟩ := sendHalt_eq 2 (onTsu (fun t => { t with haltNow := v }) s).tsu.highSpan everyHerd 0 0 0
      (onTsu (fun t => { t with haltNow := v }) s)
    exact ⟨c, hc⟩
  next hone =>
    rw [if_neg hone] at h
    obtain ⟨k, hk⟩ := Option.isSome_iff_exists.mp h
    have hk' : (onTsu (fun t => { t with haltNow := v }) s).tsu.nowCtx v = some k := hk
    rw [hk']
    exact ⟨_, rfl⟩

end Sys2Proof
end

section
/-! PROOFS. HALT_NOW of either part, and the HALTs (O54). -/

namespace Sys2Proof

open Machine

section DieNow
variable {q : Req} {v : U32} {s : State} (h : admits .tsu q 0x9040 1 .rws (bvBytes v) s = true)
include h

theorem haltNow_die_takes (hready : nowReady .tsu v s = true) :
    ∃ t, exec (.haltNow .tsu q v) s = .next t ∧ t.fjz = s.fjz ∧ t.tsu.herds = s.tsu.herds ∧
      t.tsu.haltNow = v ∧ t.tsu.haltSeq = s.tsu.haltSeq + 1 ∧ t.tsu.haltsSent = bump s.tsu.haltsSent := by
  have hheard : nowReady .tsu v (heard q s) = true := (heard_keeps (nowReady .tsu v) (fun _ _ _ => rfl) q s).trans hready
  have htaken : nowReady .tsu v (taken .tsu q s) = true :=
    (taken_keeps (d := .tsu) (nowReady .tsu v) (fun _ _ _ => rfl) (fun _ _ => rfl) q s).trans hready
  obtain ⟨c, hc⟩ := dieHaltsNow_eq htaken
  have hexec : exec (.haltNow .tsu q v) s = .next (enterErrs (answered .tsu q 0x9040 1 stOk (dieHaltsNow v (taken .tsu q s)))) :=
    agentWrite_takes (c := .haltNow .tsu q v) rfl (op := wHaltNow .tsu v) h rfl (.inl rfl) rfl hheard rfl rfl rfl rfl
  have hstaged : (answered .tsu q 0x9040 1 stOk (dieHaltsNow v (taken .tsu q s))).staged = [] := by
    rw [answered_staged, hc, sendBoth_staged]
    exact taken_staged ..
  have hkeeps {γ : Type} {g : Tsu → γ} (hg : ∀ t w busy done irq dropped ports a, g (Tsu.answering t w busy done irq dropped ports a) = g t) :
      g (answered .tsu q 0x9040 1 stOk (dieHaltsNow v (taken .tsu q s))).tsu =
        g { (taken .tsu q s).tsu with haltNow := v, haltSeq := (taken .tsu q s).tsu.haltSeq + 1,
                                      haltsSent := bump (taken .tsu q s).tsu.haltsSent } := by
    rw [answered_die_keeps hg, hc, sendBoth_die_keeps hg]
    rfl
  have hseq : (taken .tsu q s).tsu.haltSeq = s.tsu.haltSeq := taken_die_keeps (v := Tsu.haltSeq) (fun _ _ _ _ _ _ _ _ => rfl) q s
  have hsent : (taken .tsu q s).tsu.haltsSent = s.tsu.haltsSent := taken_die_keeps (v := Tsu.haltsSent) (fun _ _ _ _ _ _ _ _ => rfl) q s
  rw [enterErrs_nil hstaged] at hexec
  refine ⟨_, hexec, ?_, ?_, ?_, ?_, ?_⟩
  · rw [fjz_answered, hc, fjz_sendBoth]
    exact taken_fjz q s
  · rw [hkeeps (g := Tsu.herds) fun _ _ _ _ _ _ _ _ => rfl]
    exact taken_herds ..
  · rw [hkeeps (g := Tsu.haltNow) fun _ _ _ _ _ _ _ _ => rfl]
  · rw [hkeeps (g := Tsu.haltSeq) fun _ _ _ _ _ _ _ _ => rfl, ← hseq]
  · rw [hkeeps (g := Tsu.haltsSent) fun _ _ _ _ _ _ _ _ => rfl, ← hsent]

theorem haltNow_die_refused (hready : nowReady .tsu v s = false) :
    exec (.haltNow .tsu q v) s = .next (answered .tsu q 0x9040 1 stState (taken .tsu q s)) := by
  have hheard : nowReady .tsu v (heard q s) = false := (heard_keeps (nowReady .tsu v) (fun _ _ _ => rfl) q s).trans hready
  have hexec : exec (.haltNow .tsu q v) s = .next (enterErrs (answered .tsu q 0x9040 1 stState (taken .tsu q s))) :=
    agentWrite_refuses (c := .haltNow .tsu q v) rfl (op := wHaltNow .tsu v) h rfl (.inl rfl) rfl (.inl ⟨hheard, rfl⟩)
  rw [hexec, enterErrs_nil ((answered_staged ..).trans (taken_staged ..))]

end DieNow

/-! ## HALT_NOW of a chip -/

theorem chipHalt_keeps {γ : Type} {g : Fjz → γ} (hg : ∀ x, g x.bare = g x) (hforwarded : ∀ (x : Fjz) fs, g { x with forwarded := fs } = g x)
    (ps : List Nat) (c : Cell) (s : State) : g (chipHalt ps c s).fjz = g { s.fjz with haltsSent := bump s.fjz.haltsSent } := by
  have hevents (x : Fjz) (es) : g { x with events := es } = g x := (hg _).symm.trans (hg x)
  have hsend (u : State) : g (sendAll .fjz ps false c u).fjz = g u.fjz :=
    of_bare g hg (bare_forAll _ (fun p u => bare_sendOn p false c u) ps u)
  have hown := ownEntry_keeps g hevents c.body { s.fjz with haltsSent := bump s.fjz.haltsSent }
  unfold chipHalt
  dsimp only
  rw [hsend]
  generalize hentry : ownEntry c.body = entry at hown ⊢
  split
  · exact hown
  · exact (hforwarded _ _).trans hown

theorem beside_chipHalt (ps : List Nat) (c : Cell) (s : State) : beside (chipHalt ps c s) = beside s := by
  have hown : beside (onFjz (fun x => ownEntry c.body { x with haltsSent := bump x.haltsSent }) s) = beside s := beside_onFjz _ s
  unfold chipHalt
  dsimp only
  generalize onFjz (fun x => ownEntry c.body { x with haltsSent := bump x.haltsSent }) s = u at hown ⊢
  refine (beside_forAll _ (fun p u => beside_sendOn p false c u) ps _).trans ?_
  split
  · exact hown
  · exact (beside_onFjz _ u).trans hown

/-- The chip with a NOW of its own numbered. -/
def nowNumbered (herd : Id24) (x : Fjz) : Fjz := { x with haltNow := herd.setWidth 32, haltSeq := x.haltSeq + 1 }

theorem chipHaltsNow_eq (herd : Id24) (s : State) :
    ∃ ps c, chipHaltsNow herd s = chipHalt ps c (onFjz (haltTrigger c) (onFjz (nowNumbered herd) s)) := ⟨_, _, rfl⟩

theorem beside_chipHaltsNow (herd : Id24) (s : State) : beside (chipHaltsNow herd s) = beside s := by
  obtain ⟨ps, c, hc⟩ := chipHaltsNow_eq herd s
  rw [hc, beside_chipHalt, beside_onFjz, beside_onFjz]

/-- A chip numbers and counts the NOW that it originates. -/
theorem chipHaltsNow_fields (herd : Id24) (s : State) : (chipHaltsNow herd s).fjz.haltNow = herd.setWidth 32 ∧
    (chipHaltsNow herd s).fjz.haltSeq = s.fjz.haltSeq + 1 ∧ (chipHaltsNow herd s).fjz.haltsSent = bump s.fjz.haltsSent := by
  obtain ⟨ps, c, hc⟩ := chipHaltsNow_eq herd s
  rw [hc]
  refine ⟨?_, ?_, ?_⟩
  · rw [chipHalt_keeps (g := Fjz.haltNow) (fun _ => rfl) (fun _ _ => rfl)]
    exact haltTrigger_keeps Fjz.haltNow (fun _ _ _ _ _ _ _ => rfl) (fun _ _ => rfl) c (nowNumbered herd s.fjz)
  · rw [chipHalt_keeps (g := Fjz.haltSeq) (fun _ => rfl) (fun _ _ => rfl)]
    exact haltTrigger_keeps Fjz.haltSeq (fun _ _ _ _ _ _ _ => rfl) (fun _ _ => rfl) c (nowNumbered herd s.fjz)
  · rw [chipHalt_keeps (g := Fjz.haltsSent) (fun _ => rfl) (fun _ _ => rfl)]
    exact congrArg bump (haltTrigger_keeps Fjz.haltsSent (fun _ _ _ _ _ _ _ => rfl) (fun _ _ => rfl) c (nowNumbered herd s.fjz))

/-- HALT_NOW of a chip names every herd or one of 24 bits. -/
theorem setWidth_of_nowReady {v : U32} {s : State} (h : nowReady .fjz v s = true) : (v.setWidth 24).setWidth 32 = v := by
  have hlt : v.toNat < 2 ^ 24 := by
    simp only [nowReady, Bool.or_eq_true, Bool.and_eq_true, decide_eq_true_eq] at h
    rcases h with hevery | ⟨hsmall, -⟩
    · rw [hevery]
      decide
    · omega
  refine BitVec.eq_of_toNat_eq ?_
  rw [BitVec.toNat_setWidth, BitVec.toNat_setWidth, Nat.mod_eq_of_lt hlt, Nat.mod_eq_of_lt v.isLt]

theorem haltNow_chip_takes {q : Req} {v : U32} {s : State} (h : admits .fjz q 0x9040 1 .rws (bvBytes v) s = true)
    (hready : nowReady .fjz v s = true) :
    ∃ t, exec (.haltNow .fjz q v) s = .next t ∧ t.tsu = s.tsu ∧ t.fjz.haltNow = v ∧ t.fjz.haltSeq = s.fjz.haltSeq + 1 ∧
      t.fjz.haltsSent = bump s.fjz.haltsSent := by
  have hheard : nowReady .fjz v (heard q s) = true := (heard_keeps (nowReady .fjz v) (fun _ _ _ => rfl) q s).trans hready
  obtain ⟨f, t, hexec, htsu, hkeeps⟩ := chipWrite_takes (c := .haltNow .fjz q v) rfl (op := wHaltNow .fjz v) h rfl rfl rfl hheard
    rfl (fun _ => rfl) (fun _ => rfl) (beside_chipHaltsNow (v.setWidth 24))
  obtain ⟨hnow, hseq, hsent⟩ := chipHaltsNow_fields (v.setWidth 24) (onAgent .fjz f s.fresh)
  rw [setWidth_of_nowReady hready] at hnow
  exact ⟨t, hexec, htsu, (hkeeps Fjz.haltNow fun _ _ => rfl).trans hnow, (hkeeps Fjz.haltSeq fun _ _ => rfl).trans hseq,
    (hkeeps Fjz.haltsSent fun _ _ => rfl).trans hsent⟩

/-- Settles O54: the ways of a HALT through a chip, its effect on the context that it names, and the NOW of either part. -/
theorem halts : Obligations.Halts := by
  refine ⟨fun p c s hp hw h => ⟨haltForward_up hp hw h, haltForward_turns hp hw h, haltForward_down hp hw h,
      haltForward_stray hp hw h, haltForward_discards hp hw h, haltForward_merges hp hw h⟩,
    fun p h c s hp hw harr hnew hctx => ⟨haltAt_applies hp hw harr hnew hctx, haltPause_applies hp hw harr hnew hctx,
      haltNowCell_applies hp hw harr hnew hctx⟩,
    fun p c s hp hw harr => haltAt_reserved hp hw harr, fun p c s hp hw harr => haltAt_repeated hp hw harr,
    fun q v s h => ⟨haltNow_die_takes h, haltNow_die_refused h⟩, fun q v s h => haltNow_chip_takes h⟩

end Sys2Proof
end

section
/-! PROOFS. The PRONK cells at a die: ARM, COMMIT, ABORT and STEP (O37). -/

namespace Sys2Proof

open Machine

/-! ## A PRONK cell reaches its context (R146) -/

section Cell
variable {p h phase : Nat} {c : Cell} {s : State} (hp : p < 2) (hw : s.tsu.works = true) (harr : arrives .tsu p 5 c s = true)
include hp hw harr

/-- A command about a PRONK cell that arrives at a die. -/
theorem pronkCell_acts {i : Instr} (hi : placeOf i = cellTurn .tsu p 5) (act : State → State) :
    performOn .tsu (portOk .tsu p) (receive i .tsu p [tPronk] c act) s = .next (enterErrs (act (received .tsu p c s))) :=
  performOn_receive (d := .tsu) hi (decide_eq_true hp) hw harr rfl

/-- A cell of the phase, outside a replay, acts on the context that holds its herd. -/
theorem pronkAtDie_acts {i : Instr} (hi : placeOf i = cellTurn .tsu p 5) (hphase : kPhase c = phase)
    (hreplay : s.tsu.tc.state ≠ .replayPinned) (hctx : s.tsu.ctxOf (kHerd c) = some h) (none_ : State → State) (act : Nat → State → State) :
    performOn .tsu (portOk .tsu p) (pronkAtDie i p phase c none_ act) s = .next (enterErrs (act h (received .tsu p c s))) := by
  have hreplay' : (received .tsu p c s).tsu.tc.state ≠ .replayPinned := by rwa [received_tc]
  have hctx' : (received .tsu p c s).tsu.ctxOf (kHerd c) = some h :=
    (received_die_keeps (v := (Tsu.ctxOf · (kHerd c))) (fun _ _ => rfl) p c s).trans hctx
  rw [pronkAtDie, pronkCell_acts hp hw harr hi, if_neg (by simp [hphase]), if_neg hreplay', hctx']

/-- A COMMIT for no context, or in a replay, is counted (R356). -/
theorem pronkCommit_discards (hphase : kPhase c = 2) (hnone : s.tsu.ctxOf (kHerd c) = none ∨ s.tsu.tc.state = .replayPinned) :
    exec (.pronkCommit p c) s = .next (onTsu (fun t => { t with pronkDiscards := bump t.pronkDiscards }) (received .tsu p c s)) := by
  have htc : (received .tsu p c s).tsu.tc = s.tsu.tc := received_tc ..
  have hctx : (received .tsu p c s).tsu.ctxOf (kHerd c) = s.tsu.ctxOf (kHerd c) :=
    received_die_keeps (v := (Tsu.ctxOf · (kHerd c))) (fun _ _ => rfl) p c s
  have hcount : enterErrs (countPronkDiscard (received .tsu p c s)) = countPronkDiscard (received .tsu p c s) :=
    enterErrs_nil (received_staged ..)
  rw [exec, execPronkCommit, pronkAtDie, pronkCell_acts hp hw harr rfl, if_neg (by simp [hphase, phCommit]), htc, hctx]
  by_cases hreplay : s.tsu.tc.state = .replayPinned
  · rw [if_pos hreplay, hcount]
    rfl
  · rw [if_neg hreplay, hnone.resolve_right hreplay]
    exact congrArg Host.Outcome.next hcount

end Cell

/-- A cell that arrives changes no context. -/
theorem herd_received (g p : Nat) (c : Cell) (s : State) : (received .tsu p c s).tsu.herd g = s.tsu.herd g :=
  herd_congr (received_herds ..) g

/-! ## What ARM leaves -/

theorem sameBeyond_tapArmed (k h outcome : Nat) (s : State) : sameBeyond k s (tapArmed h outcome s) := sameBeyond_tapHerd ..

theorem herd_tapArmed (g h outcome : Nat) (s : State) : (tapArmed h outcome s).tsu.herd g = s.tsu.herd g := herd_tapHerd ..

theorem tapArmed_staged (h outcome : Nat) (s : State) : (tapArmed h outcome s).staged = s.staged := tapHerd_staged ..

theorem sameBeyond_armHerd (h : Nat) (seq : U32) (fire : HT) (start : Nat) (ids : U16 × U16) (origin : Id24) (s : State) :
    sameBeyond h s (armHerd h seq fire start ids origin s) := sameBeyond_onHerd ..

/-- A context that a pronk arms (Table 5.11). -/
theorem herd_armHerd (h : Nat) (seq : U32) (fire : HT) (start : Nat) (ids : U16 × U16) (origin : Id24) (s : State) :
    ((armHerd h seq fire start ids origin s).tsu.herd h).state = .armed ∧
      ((armHerd h seq fire start ids origin s).tsu.herd h).fireHt = fire ∧
      ((armHerd h seq fire start ids origin s).tsu.herd h).startStep = BitVec.ofNat 32 start ∧
      ((armHerd h seq fire start ids origin s).tsu.herd h).seqLast = seq ∧
      ((armHerd h seq fire start ids origin s).tsu.herd h).abort = none ∧
      ((armHerd h seq fire start ids origin s).tsu.herd h).halt = none ∧
      ((armHerd h seq fire start ids origin s).tsu.herd h).before =
        (if (s.tsu.herd h).state = .armed then (s.tsu.herd h).before else (s.tsu.herd h).state) := by
  unfold armHerd
  rw [herd_onHerd_same]
  exact ⟨rfl, rfl, rfl, rfl, rfl, rfl, rfl⟩

/-- A context that does not run ends what it was armed for, and no other context sees it. -/
theorem sameBeyond_endRun {h : Nat} {st : HerdState} {s : State} (hs : (s.tsu.herd h).state ≠ .running) :
    sameBeyond h s (endRun h st s) := by
  refine ⟨?_, ?_, ?_, fun g hg => endRun_herd_ne hg hs⟩
  · rw [endRun_idle hs]
    rfl
  · rw [endRun_idle hs]
    rfl
  · rw [endRun_idle hs]
    rfl

theorem endRun_idle_staged {h : Nat} {st : HerdState} {s : State} (hs : (s.tsu.herd h).state ≠ .running) :
    (endRun h st s).staged = s.staged := by
  rw [endRun_idle hs]
  rfl

/-! ## The ACK of a die (R144) -/

/-- The ACK of a die. -/
def ackOf (die : Id24) (c : Cell) (cause : Nat) : Cell :=
  mkPronk die.toNat phAck (kHerd c) (kSeq c) (kFire c) (kEpoch c) (kTemplate c)
    [(196, 24, b2n (decide (cause = 0))), (220, 24, b2n (decide (cause ≠ 0))), (252, 8, cause)]

theorem sameBeyond_armAck (h : Nat) (c : Cell) (cause : Nat) (s : State) : sameBeyond h s (armAck c cause s) := sameBeyond_sendBoth ..

theorem herd_armAck (g : Nat) (c : Cell) (cause : Nat) (s : State) : (armAck c cause s).tsu.herd g = s.tsu.herd g :=
  sendBoth_die_keeps (v := (Tsu.herd · g)) (fun _ _ _ _ _ _ _ _ => rfl) (ackOf s.tsu.agent.deviceId c cause) s

theorem armAck_staged (c : Cell) (cause : Nat) (s : State) : (armAck c cause s).staged = s.staged :=
  sendBoth_staged (ackOf s.tsu.agent.deviceId c cause) s

theorem queued_armAck {p : Nat} (hp : p < 2) (c : Cell) (cause : Nat) (s : State) :
    queued .tsu p (ackOf s.tsu.agent.deviceId c cause) false s (armAck c cause s) := by
  have hboth : p ∈ [0, 1] := by
    rcases (show p = 0 ∨ p = 1 by omega) with rfl | rfl
    · exact List.mem_cons_self
    · exact List.mem_cons_of_mem _ List.mem_cons_self
  exact queued_sendAll (mkCell_cls_p0 (by decide) _ _ _) .tsu false (by decide) hboth s

/-- A cell queued after a step that left the ports and the time of the die is queued from before it. -/
theorem queued_of_ports {p : Nat} {c : Cell} {b : Bool} {s u t : State} (h : queued .tsu p c b u t) (hports : u.tsu.ports = s.tsu.ports)
    (htc : u.tsu.tc = s.tsu.tc) : queued .tsu p c b s t := by
  have hport : port u .tsu p = port s .tsu p := congrArg (·.get {} p) hports
  exact queued_of_before h (congrArg Port.state hport) (congrArg Port.txq hport) (congrArg (·.frc.toNat) htc)

/-! ## ARM at a context -/

/-- A context armed and recorded, before the ACK. -/
def armTaken (h : Nat) (c : Cell) (s : State) : State :=
  tapArmed h 0 (armHerd h (kSeq c) (kFire c) (kStart c) (kEpoch c, kTemplate c) c.addr s)

/-- What an ARM that passes leaves (Table 5.11). -/
theorem armTaken_leaves (h : Nat) (c : Cell) (s : State) : sameBeyond h s (armTaken h c s) ∧ (armTaken h c s).staged = s.staged ∧
    (armTaken h c s).tsu.agent = s.tsu.agent ∧ (armTaken h c s).tsu.ports = s.tsu.ports :=
  ⟨sameBeyond_trans (sameBeyond_armHerd ..) (sameBeyond_tapArmed ..), tapArmed_staged ..,
    (of_besideRecords Tsu.agent (fun _ => rfl) (besideRecords_tapHerd ..)).trans rfl,
    (of_besideRecords Tsu.ports (fun _ => rfl) (besideRecords_tapHerd ..)).trans rfl⟩

theorem herd_armTaken (h : Nat) (c : Cell) (s : State) :
    (armTaken h c s).tsu.herd h = (armHerd h (kSeq c) (kFire c) (kStart c) (kEpoch c, kTemplate c) c.addr s).tsu.herd h := herd_tapArmed ..

theorem takeArm_arms {h : Nat} {c : Cell} {s : State} (hcause : armCause s.tsu h c = 0) :
    takeArm h c s = armAck c 0 (armTaken h c s) := by
  unfold takeArm
  rw [hcause]
  rfl

theorem takeArm_refuses {h : Nat} {c : Cell} {s : State} (hcause : armCause s.tsu h c ≠ 0) :
    takeArm h c s = refuseArm h (armCause s.tsu h c) c s := by
  unfold takeArm
  split
  next hnone => exact absurd hnone hcause
  · rfl

/-- A context that an ARM has failed. -/
def armFailed (c : Cell) (x : Herd) : Herd := { x with seqLast := kSeq c, originId := c.addr, acted := [(0, kSeq c)] }

/-- A context that has acted on an ARM. -/
def armNoted (c : Cell) (x : Herd) : Herd := { x with acted := x.acted ++ [(0, kSeq c)] }

/-- A context in another state than those of Table 5.11 notes the ARM alone (R14). -/
theorem refuseArm_wrong_state (h : Nat) (c : Cell) (s : State) : refuseArm h 1 c s = armAck c 1 (onHerd h (armNoted c) s) := rfl

theorem hasActed_armNoted {c : Cell} (hphase : kPhase c = 0) (x : Herd) : (armNoted c x).hasActed c = true := by
  unfold Herd.hasActed armNoted
  rw [hphase]
  exact List.contains_iff_mem.mpr (List.mem_append_right _ (List.mem_singleton.mpr rfl))

/-- An ARM that fails another check is noted, and drops an armed pronk (R146). -/
theorem refuseArm_drops {h cause : Nat} {c : Cell} {s : State} (hcause : cause ≠ 1) : refuseArm h cause c s =
    armAck c cause (if (s.tsu.herd h).state = .armed then endRun h (s.tsu.herd h).before (onHerd h (armFailed c) s)
      else onHerd h (armFailed c) s) := by
  unfold refuseArm
  dsimp only
  rw [if_neg hcause]
  rfl

section Arm
variable {p h : Nat} {c : Cell} {s : State} (hp : p < 2) (hw : s.tsu.works = true) (harr : arrives .tsu p 5 c s = true)
  (hphase : kPhase c = 0) (hreplay : s.tsu.tc.state ≠ .replayPinned) (hctx : s.tsu.ctxOf (kHerd c) = some h)
  (hseq : (s.tsu.herd h).seqLast.toNat < (kSeq c).toNat) (hfree : (s.tsu.herd h).state ≠ .committed)
  (hnew : (s.tsu.herd h).hasActed c = false)
include hp hw harr hphase hreplay hctx hseq hfree hnew

/-- A new ARM at a context that is not committed is judged. -/
theorem pronkArm_takes : exec (.pronkArm p c) s = .next (enterErrs (takeArm h c (received .tsu p c s))) := by
  rw [exec, execPronkArm, pronkAtDie_acts (phase := phArm) hp hw harr rfl hphase hreplay hctx]
  dsimp only
  rw [herd_received, if_neg (by simp [hfree, hnew]; omega)]

/-- An ARM that passes arms the context and answers on both ports. -/
theorem pronkArm_arms (hcause : armCause s.tsu h c = 0) :
    ∃ t, exec (.pronkArm p c) s = .next t ∧ sameBeyond h s t ∧ (t.tsu.herd h).state = .armed ∧
      (t.tsu.herd h).fireHt = kFire c ∧ (t.tsu.herd h).startStep = BitVec.ofNat 32 (kStart c) ∧
      (t.tsu.herd h).seqLast = kSeq c ∧ (t.tsu.herd h).abort = none ∧ (t.tsu.herd h).halt = none ∧
      (t.tsu.herd h).before = (if (s.tsu.herd h).state = .armed then (s.tsu.herd h).before else (s.tsu.herd h).state) ∧
      ∀ p', p' < 2 → queued .tsu p' (ackOf s.tsu.agent.deviceId c 0) false s t := by
  have hcause' : armCause (received .tsu p c s).tsu h c = 0 :=
    (received_die_keeps (v := (armCause · h c)) (fun _ _ => rfl) p c s).trans hcause
  have hagent : (received .tsu p c s).tsu.agent = s.tsu.agent := received_die_keeps (v := Tsu.agent) (fun _ _ => rfl) p c s
  obtain ⟨hbeyond, hstaged, hagent', hports⟩ := armTaken_leaves h c (received .tsu p c s)
  have hfields := herd_armHerd h (kSeq c) (kFire c) (kStart c) (kEpoch c, kTemplate c) c.addr (received .tsu p c s)
  rw [← herd_armTaken, herd_received] at hfields
  obtain ⟨hstate, hfire, hstart, hlast, habort, hhalt, hbefore⟩ := hfields
  refine ⟨_, pronkArm_takes hp hw harr hphase hreplay hctx hseq hfree hnew, ?_⟩
  rw [takeArm_arms hcause', enterErrs_nil ((armAck_staged ..).trans (hstaged.trans (received_staged ..))), herd_armAck]
  refine ⟨sameBeyond_trans (sameBeyond_received ..) (sameBeyond_trans hbeyond (sameBeyond_armAck ..)),
    hstate, hfire, hstart, hlast, habort, hhalt, hbefore, fun p' hp' => ?_⟩
  have hack := queued_armAck hp' c 0 (armTaken h c (received .tsu p c s))
  rw [hagent', hagent] at hack
  exact queued_of_received (queued_of_ports hack hports hbeyond.2.1)

/-- An ARM that fails a check is noted, and an armed context goes back to its state before. -/
theorem pronkArm_drops (hcause : 1 < armCause s.tsu h c) :
    ∃ t, exec (.pronkArm p c) s = .next t ∧ sameBeyond h s t ∧ (t.tsu.herd h).seqLast = kSeq c ∧
      (t.tsu.herd h).state = (if (s.tsu.herd h).state = .armed then (s.tsu.herd h).before else (s.tsu.herd h).state) := by
  have hcause' : armCause (received .tsu p c s).tsu h c = armCause s.tsu h c :=
    received_die_keeps (v := (armCause · h c)) (fun _ _ => rfl) p c s
  have hherd : (onHerd h (armFailed c) (received .tsu p c s)).tsu.herd h = armFailed c (s.tsu.herd h) := by
    rw [herd_onHerd_same, herd_received]
  have hbeyond : sameBeyond h s (onHerd h (armFailed c) (received .tsu p c s)) :=
    sameBeyond_trans (sameBeyond_received ..) (sameBeyond_onHerd ..)
  have hstaged : (onHerd h (armFailed c) (received .tsu p c s)).staged = [] := received_staged ..
  refine ⟨_, pronkArm_takes hp hw harr hphase hreplay hctx hseq hfree hnew, ?_⟩
  rw [takeArm_refuses (by omega), hcause', refuseArm_drops (by omega), herd_received]
  generalize onHerd h (armFailed c) (received .tsu p c s) = u at *
  by_cases harmed : (s.tsu.herd h).state = .armed
  · have hidle : (u.tsu.herd h).state ≠ .running := by
      rw [hherd, armFailed, harmed]
      decide
    rw [if_pos harmed, if_pos harmed, enterErrs_nil ((armAck_staged ..).trans ((endRun_idle_staged hidle).trans hstaged)), herd_armAck,
      endRun_herd, hherd]
    exact ⟨sameBeyond_trans hbeyond (sameBeyond_trans (sameBeyond_endRun hidle) (sameBeyond_armAck ..)), rfl, rfl⟩
  · rw [if_neg harmed, if_neg harmed, enterErrs_nil ((armAck_staged ..).trans hstaged), herd_armAck, hherd]
    exact ⟨sameBeyond_trans hbeyond (sameBeyond_armAck ..), rfl, rfl⟩

/-- An ARM at a context in another state changes nothing but what the context has acted on (R14). -/
theorem pronkArm_wrong_state (hcause : armCause s.tsu h c = 1) :
    ∃ t, exec (.pronkArm p c) s = .next t ∧ sameBeyond h s t ∧ (t.tsu.herd h).hasActed c = true ∧
      (t.tsu.herd h).seqLast = (s.tsu.herd h).seqLast ∧ (t.tsu.herd h).state = (s.tsu.herd h).state := by
  have hcause' : armCause (received .tsu p c s).tsu h c = 1 :=
    (received_die_keeps (v := (armCause · h c)) (fun _ _ => rfl) p c s).trans hcause
  have hstaged : (onHerd h (armNoted c) (received .tsu p c s)).staged = [] := received_staged ..
  refine ⟨_, pronkArm_takes hp hw harr hphase hreplay hctx hseq hfree hnew, ?_⟩
  rw [takeArm_refuses (by omega), hcause', refuseArm_wrong_state, enterErrs_nil ((armAck_staged ..).trans hstaged), herd_armAck,
    herd_onHerd_same, herd_received]
  exact ⟨sameBeyond_trans (sameBeyond_received ..) (sameBeyond_trans (sameBeyond_onHerd ..) (sameBeyond_armAck ..)),
    hasActed_armNoted hphase _, rfl, rfl⟩

end Arm

/-! ## PRONK_COMMIT and PRONK_ABORT (R146, R147) -/

/-- The armed pronk takes a COMMIT or an ABORT that it has not acted on. -/
theorem takeFinal_acts {h : Nat} {c : Cell} {act : State → State} {s : State} (hnew : (s.tsu.herd h).hasActed c = false)
    (hopen : (s.tsu.herd h).decidedSeq ≠ some (kSeq c)) (hstate : (s.tsu.herd h).state = .armed ∨ (s.tsu.herd h).state = .committed)
    (hseq : kSeq c = (s.tsu.herd h).seqLast) : takeFinal h c act s = act (actOn h c s) := by
  unfold takeFinal
  dsimp only
  rw [if_neg (by simp [hnew]), if_neg hopen, if_pos ⟨hstate, hseq⟩]

section Final
variable {p h : Nat} {c : Cell} {s : State} (hp : p < 2) (hw : s.tsu.works = true) (harr : arrives .tsu p 5 c s = true)
  (hreplay : s.tsu.tc.state ≠ .replayPinned) (hctx : s.tsu.ctxOf (kHerd c) = some h)
  (hstate : (s.tsu.herd h).state = .armed ∨ (s.tsu.herd h).state = .committed) (hseq : kSeq c = (s.tsu.herd h).seqLast)
  (hnew : (s.tsu.herd h).hasActed c = false) (hopen : (s.tsu.herd h).decidedSeq ≠ some (kSeq c))

/-- The context after a COMMIT or an ABORT that sets `f`. -/
def finalTaken (p h : Nat) (c : Cell) (f : Herd → Herd) (s : State) : State := onHerd h f (actOn h c (received .tsu p c s))

theorem sameBeyond_finalTaken (p h : Nat) (c : Cell) (f : Herd → Herd) (s : State) : sameBeyond h s (finalTaken p h c f s) :=
  sameBeyond_trans (sameBeyond_received ..) (sameBeyond_trans (t := actOn h c (received .tsu p c s)) (sameBeyond_onHerd ..) (sameBeyond_onHerd ..))

theorem herd_finalTaken (p h : Nat) (c : Cell) (f : Herd → Herd) (s : State) : (finalTaken p h c f s).tsu.herd h =
    f { s.tsu.herd h with acted := (s.tsu.herd h).acted ++ [(BitVec.ofNat 3 (kPhase c), kSeq c)], originId := c.addr } := by
  rw [finalTaken, herd_onHerd_same, actOn, herd_onHerd_same, herd_received]

include hp hw harr hreplay hctx hstate hseq hnew hopen

/-- A COMMIT or an ABORT of the armed pronk reaches its context. -/
theorem pronkFinal_takes {i : Instr} {phase : Nat} (hi : placeOf i = cellTurn .tsu p 5) (hphase : kPhase c = phase) (f : Herd → Herd) :
    performOn .tsu (portOk .tsu p) (pronkAtDie i p phase c countPronkDiscard fun h => takeFinal h c (onHerd h f)) s =
      .next (finalTaken p h c f s) := by
  have hherd := herd_received h p c s
  rw [pronkAtDie_acts hp hw harr hi hphase hreplay hctx,
    takeFinal_acts (by rwa [hherd]) (by rwa [hherd]) (by rwa [hherd]) (by rwa [hherd])]
  exact congrArg Host.Outcome.next (enterErrs_nil (received_staged ..))

theorem pronkCommit_commits (hphase : kPhase c = 2) : ∃ t, exec (.pronkCommit p c) s = .next t ∧ sameBeyond h s t ∧
    (t.tsu.herd h).state = .committed ∧ (t.tsu.herd h).abort = (s.tsu.herd h).abort ∧ (t.tsu.herd h).fireHt = (s.tsu.herd h).fireHt := by
  refine ⟨_, pronkFinal_takes hp hw harr hreplay hctx hstate hseq hnew hopen rfl hphase (fun x => { x with state := .committed }),
    sameBeyond_finalTaken .., ?_⟩
  rw [herd_finalTaken]
  exact ⟨rfl, rfl, rfl⟩

theorem pronkAbort_aborts (hphase : kPhase c = 3) : ∃ t, exec (.pronkAbort p c) s = .next t ∧ sameBeyond h s t ∧
    (t.tsu.herd h).abort = some (kCause c) ∧ (t.tsu.herd h).state = (s.tsu.herd h).state := by
  refine ⟨_, pronkFinal_takes hp hw harr hreplay hctx hstate hseq hnew hopen rfl hphase (fun x => { x with abort := some (kCause c) }),
    sameBeyond_finalTaken .., ?_⟩
  rw [herd_finalTaken]
  exact ⟨rfl, rfl⟩

end Final

/-! ## PRONK_STEP (R136) -/

/-- The descriptors that a STEP pronk releases, or its lateness. -/
def stepTaken (late : Bool) (c : Cell) (x : Herd) : Herd :=
  { x with seqLast := kSeq c, acted := [(4, kSeq c)], stepDeadline := if late then some (kFire c, kSeq c) else x.stepDeadline,
           releases := if late then x.releases else x.releases ++ [(kFire c, kCount c)] }

/-- A STEP pronk comes after the tick of T − 2,000 ns. -/
def stepLate (t : Tsu) (c : Cell) : Bool := decide (tickOf t.tc (kFire c - htOfNs 2000) < t.tc.frc.toNat)

theorem takeStep_eq (h : Nat) (c : Cell) (s : State) : ∃ content, takeStep h (kSeq c) (kFire c) (kEpoch c, kTemplate c) (kCount c) s =
    tapHerd 1 h content (onHerd h (stepTaken (stepLate s.tsu c) c) s) := by
  unfold takeStep tapPronk
  exact ⟨_, rfl⟩

/-- A STEP pronk names the chip that it comes from. -/
def originTaken (c : Cell) (x : Herd) : Herd := { x with originId := c.addr }

theorem pronkStep_takes {p h : Nat} {c : Cell} {s : State} (hp : p < 2) (hw : s.tsu.works = true) (harr : arrives .tsu p 5 c s = true)
    (hphase : kPhase c = 4) (hreplay : s.tsu.tc.state ≠ .replayPinned) (hctx : s.tsu.ctxOf (kHerd c) = some h)
    (hseq : (s.tsu.herd h).seqLast.toNat < (kSeq c).toNat) (hrun : (s.tsu.herd h).state = .running) (hmode : (s.tsu.herd h).mode = 2) :
    ∃ t, exec (.pronkStep p c) s = .next t ∧ sameBeyond h s t ∧ (t.tsu.herd h).seqLast = kSeq c ∧
      (t.tsu.herd h).releases = (s.tsu.herd h).releases ++ (if stepLate s.tsu c = true then [] else [(kFire c, kCount c)]) ∧
      (t.tsu.herd h).stepDeadline = (if stepLate s.tsu c = true then some (kFire c, kSeq c) else (s.tsu.herd h).stepDeadline) := by
  have hlate : stepLate (onHerd h (originTaken c) (received .tsu p c s)).tsu c = stepLate s.tsu c := by
    have htc : (onHerd h (originTaken c) (received .tsu p c s)).tsu.tc = s.tsu.tc := received_tc ..
    unfold stepLate
    rw [htc]
  have hherd : (onHerd h (originTaken c) (received .tsu p c s)).tsu.herd h =
      originTaken c (s.tsu.herd h) := by
    rw [herd_onHerd_same, herd_received]
  have hbeyond : sameBeyond h s (onHerd h (originTaken c) (received .tsu p c s)) :=
    sameBeyond_trans (sameBeyond_received ..) (sameBeyond_onHerd ..)
  have hstaged : (onHerd h (originTaken c) (received .tsu p c s)).staged = [] := received_staged ..
  have hexec : exec (.pronkStep p c) s = .next (enterErrs (takeStep h (kSeq c) (kFire c) (kEpoch c, kTemplate c) (kCount c)
      (onHerd h (originTaken c) (received .tsu p c s)))) := by
    rw [exec, execPronkStep, pronkAtDie_acts (phase := phStep) hp hw harr rfl hphase hreplay hctx]
    dsimp only
    rw [herd_received, if_neg (by omega), if_neg (by simp [hrun, hmode, modeSingle])]
    rfl
  obtain ⟨content, hstep⟩ := takeStep_eq h c (onHerd h (originTaken c) (received .tsu p c s))
  rw [hlate] at hstep
  refine ⟨_, hexec, ?_⟩
  rw [hstep]
  generalize onHerd h (originTaken c) (received .tsu p c s) = u at *
  rw [enterErrs_nil ((tapHerd_staged ..).trans ((onHerd_staged ..).trans hstaged)), herd_tapHerd, herd_onHerd_same, hherd, stepTaken, originTaken]
  refine ⟨sameBeyond_trans hbeyond (sameBeyond_trans (sameBeyond_onHerd ..) (sameBeyond_tapHerd ..)), rfl, ?_, rfl⟩
  cases stepLate s.tsu c with
  | true => exact (List.append_nil _).symm
  | false => rfl

end Sys2Proof
end

section
/-! PROOFS. What the arrivals of a die leave of its contexts and participations (O37). -/

namespace Sys2Proof

open Machine

/-! ## The contexts of a die stay -/

/-- The contexts of the die, its time and its links are the same, and nothing of the chip is touched. -/
def sameContexts (s t : State) : Prop :=
  t.fjz = s.fjz ∧ t.tsu.tc = s.tsu.tc ∧ t.tsu.links = s.tsu.links ∧ ∀ g, t.tsu.herd g = s.tsu.herd g

theorem sameContexts_refl (s : State) : sameContexts s s := ⟨rfl, rfl, rfl, fun _ => rfl⟩

theorem sameContexts_trans {s t u : State} (hst : sameContexts s t) (htu : sameContexts t u) : sameContexts s u := by
  obtain ⟨hfjz, htc, hlinks, hherds⟩ := hst
  obtain ⟨hfjz', htc', hlinks', hherds'⟩ := htu
  exact ⟨hfjz'.trans hfjz, htc'.trans htc, hlinks'.trans hlinks, fun g => (hherds' g).trans (hherds g)⟩

theorem sameBeyond_of_sameContexts {s t : State} (h : Nat) (hst : sameContexts s t) : sameBeyond h s t := by
  obtain ⟨hfjz, htc, hlinks, hherds⟩ := hst
  exact ⟨hfjz, htc, hlinks, fun g _ => hherds g⟩

theorem sameContexts_forAll {α : Type} {f : α → State → State} (hf : ∀ a u, sameContexts u (f a u)) (xs : List α) (s : State) :
    sameContexts s (forAll xs f s) := by
  induction xs generalizing s with
  | nil => exact sameContexts_refl s
  | cons a xs ih => exact sameContexts_trans (hf a s) (ih (f a s))

theorem sameContexts_onPart (n : Nat) (f : Part → Part) (s : State) : sameContexts s (onPart n f s) := ⟨rfl, rfl, rfl, fun _ => rfl⟩

/-- A record of another class than that of Table 5.17 leaves every context. -/
theorem sameContexts_raiseHerd {code : U16} (hcode : code.toNat / 256 ≠ 5) (h : Nat) (halts : Bool) (obj waiter : U32) (round detail : Nat)
    (s : State) : sameContexts s (raiseHerd h code halts obj waiter round detail s) := by
  refine ⟨fjz_raiseHerd .., tc_raiseHerd .., links_raiseHerd .., fun g => ?_⟩
  by_cases hg : g = h
  · subst hg
    refine (herd_onHerd_same g _ (raise _ s)).trans ?_
    rw [if_neg hcode]
    rfl
  · exact raiseHerd_herd_ne hg ..

theorem sameContexts_replayDiff (h : Nat) (obj : U32) (round : U16) (s : State) : sameContexts s (replayDiff h obj round s) := by
  have hcount (n : U32) : sameContexts s (onTsu (fun t => { t with replayMismatches := n }) s) := ⟨rfl, rfl, rfl, fun _ => rfl⟩
  have hstore (g : Tsu → BitVec 128) (u : State) : sameContexts u (onTsu (fun t => { t with firstDiff := g t }) u) :=
    ⟨rfl, rfl, rfl, fun _ => rfl⟩
  unfold replayDiff
  dsimp only
  split
  · exact sameContexts_trans (hcount _) (sameContexts_trans (sameContexts_raiseHerd (by decide) ..) (hstore _ _))
  · exact hcount _

theorem sameContexts_compareArrival (h : Nat) (a : U16 × U16 × U8 × U8 × U64) (s : State) :
    sameContexts s (compareArrival true h a s) := by
  have hrec (rs) : sameContexts s (onTsu (fun t => { t with recArrivals := rs }) s) := ⟨rfl, rfl, rfl, fun _ => rfl⟩
  unfold compareArrival
  dsimp only
  split
  · exact sameContexts_refl s
  split
  · split
    · exact hrec _
    · exact sameContexts_trans (hrec _) (sameContexts_replayDiff ..)
  · exact ⟨rfl, rfl, rfl, fun _ => rfl⟩

theorem sameContexts_send (p : Nat) (c : Cell) (s : State) : sameContexts s (send .tsu p c s) :=
  ⟨fjz_send_die .., tc_sendOn_die .., sendOn_die_keeps (v := Tsu.links) (fun _ _ _ _ _ _ _ _ => rfl) p false c s,
    fun g => sendOn_die_keeps (v := (Tsu.herd · g)) (fun _ _ _ _ _ _ _ _ => rfl) p false c s⟩

theorem sameContexts_sendFirst (p : Nat) (c : Cell) (s : State) : sameContexts s (sendFirst p c s) := by
  unfold sendFirst
  dsimp only
  split
  · exact sameContexts_refl s
  · exact ⟨rfl, rfl, rfl, fun _ => rfl⟩

theorem sameContexts_tapHerd (kind h : Nat) (content : Bytes) (s : State) : sameContexts s (tapHerd kind h content s) := by
  obtain ⟨hfjz, htc, hlinks, -⟩ := sameBeyond_tapHerd h kind h content s
  exact ⟨hfjz, htc, hlinks, fun g => herd_tapHerd g ..⟩

/-- An arrival that leaves, or goes to the comparison alone, changes no context. -/
theorem sameContexts_sendPart (n : Nat) (kind : BitVec 4) (round : U16) (replay first : Bool) (cause : BitVec 3) (members : Id24)
    (deadline : U64) (origin : Id24) (payload : Payload) (s : State) :
    sameContexts s (sendPart n kind round replay first cause members deadline origin payload s) := by
  unfold sendPart
  split
  · exact sameContexts_refl s
  dsimp only
  split
  · exact sameContexts_refl s
  split
  · exact sameContexts_compareArrival ..
  refine sameContexts_trans ?_ (sameContexts_tapHerd ..)
  split
  · exact sameContexts_trans (sameContexts_compareArrival ..) (sameContexts_sendFirst ..)
  · exact sameContexts_trans (sameContexts_compareArrival ..) (sameContexts_send ..)

theorem sameContexts_queueArrival (n : Nat) (kind : BitVec 4) (cause : BitVec 3) (members : Id24) (deadline : U64) (payload : Payload)
    (s : State) : sameContexts s (queueArrival n kind cause members deadline payload s) :=
  sameContexts_trans (sameContexts_onPart ..) (sameContexts_sendPart ..)

theorem sameContexts_startArrive (h : Nat) (fire : HT) (value : Bool) (s : State) : sameContexts s (startArrive h fire value s) :=
  sameContexts_queueArrival ..

theorem sameContexts_resyncPart (h n : Nat) (s : State) : sameContexts s (resyncPart h n s) := by
  unfold resyncPart
  dsimp only
  split
  · split
    · exact sameContexts_sendPart ..
    · exact sameContexts_refl s
  · exact sameContexts_refl s

theorem sameContexts_moveHerd (h : Nat) (plane : Plane) (s : State) : sameContexts s (moveHerd h plane s) :=
  sameContexts_trans (sameContexts_forAll (fun _ _ => sameContexts_onPart ..) ..)
    (sameContexts_trans (sameContexts_forAll (sameContexts_resyncPart h) ..)
      (sameContexts_forAll (fun _ _ => sameContexts_forAll (fun _ _ => sameContexts_sendPart ..) ..) ..))

theorem sameContexts_moveIfLost (h : Nat) (s : State) : sameContexts s (moveIfLost h s) := by
  unfold moveIfLost
  split
  · split
    · exact sameContexts_moveHerd ..
    · exact sameContexts_refl s
  · exact sameContexts_refl s

/-! ## The participations of a die -/

theorem parts_raiseHerd (h : Nat) (code : U16) (halts : Bool) (obj waiter : U32) (round detail : Nat) (s : State) :
    (raiseHerd h code halts obj waiter round detail s).tsu.parts = s.tsu.parts := rfl

theorem parts_replayDiff (h : Nat) (obj : U32) (round : U16) (s : State) : (replayDiff h obj round s).tsu.parts = s.tsu.parts := by
  have hcount (n : U32) : (onTsu (fun t => { t with replayMismatches := n }) s).tsu.parts = s.tsu.parts := rfl
  have hstore (g : Tsu → BitVec 128) (u : State) : (onTsu (fun t => { t with firstDiff := g t }) u).tsu.parts = u.tsu.parts := rfl
  unfold replayDiff
  dsimp only
  split
  · exact (hstore _ _).trans ((parts_raiseHerd ..).trans (hcount _))
  · exact hcount _

theorem parts_compareArrival (h : Nat) (a : U16 × U16 × U8 × U8 × U64) (s : State) :
    (compareArrival true h a s).tsu.parts = s.tsu.parts := by
  unfold compareArrival
  dsimp only
  split
  · rfl
  split
  · split
    · rfl
    · exact parts_replayDiff ..
  · rfl

theorem parts_sendFirst (p : Nat) (c : Cell) (s : State) : (sendFirst p c s).tsu.parts = s.tsu.parts := by
  unfold sendFirst
  dsimp only
  split
  · rfl
  · rfl

/-- A cell that leaves for a participation changes none. -/
theorem parts_sendPart (n : Nat) (kind : BitVec 4) (round : U16) (replay first : Bool) (cause : BitVec 3) (members : Id24)
    (deadline : U64) (origin : Id24) (payload : Payload) (s : State) :
    (sendPart n kind round replay first cause members deadline origin payload s).tsu.parts = s.tsu.parts := by
  unfold sendPart
  split
  · rfl
  dsimp only
  split
  · rfl
  split
  · exact parts_compareArrival ..
  refine (of_besideRecords Tsu.parts (fun _ => rfl) (besideRecords_tapHerd ..)).trans ?_
  split
  · exact (parts_sendFirst ..).trans (parts_compareArrival ..)
  · exact (sendOn_die_keeps (v := Tsu.parts) (fun _ _ _ _ _ _ _ _ => rfl) _ false _ _).trans (parts_compareArrival ..)

theorem parts_resyncPart (h n : Nat) (s : State) : (resyncPart h n s).tsu.parts = s.tsu.parts := by
  unfold resyncPart
  dsimp only
  split
  · split
    · exact parts_sendPart ..
    · rfl
  · rfl

theorem parts_replayPart (n : Nat) (s : State) : (replayPart n s).tsu.parts = s.tsu.parts :=
  forAll_keeps (fun u : State => u.tsu.parts) _ (fun _ _ => parts_sendPart ..) _ s

/-- What a change leaves of a participation, a pass over several leaves. -/
theorem part_forAll_onPart_keeps {γ : Type} {g : Part → γ} {f : Part → Part} (hg : ∀ x, g (f x) = g x) (k : Nat) (ns : List Nat) (s : State) :
    g ((forAll ns (fun n u => onPart n f u) s).tsu.part k) = g (s.tsu.part k) := by
  refine forAll_keeps (fun u : State => g (u.tsu.part k)) (fun n u => onPart n f u) (fun n u => ?_) ns s
  by_cases hk : k = n
  · subst hk
    rw [part_onPart_same, hg]
  · rw [part_onPart_ne f u hk]

/-- A move to the other plane changes the generation and the plane of a participation alone (R206). -/
theorem part_moveIfLost {γ : Type} {g : Part → γ} (hg : ∀ (x : Part) gen plane, g { x with gen := gen, plane := plane } = g x) (h k : Nat)
    (s : State) : g ((moveIfLost h s).tsu.part k) = g (s.tsu.part k) := by
  have hmove (plane : Plane) : g ((moveHerd h plane s).tsu.part k) = g (s.tsu.part k) := by
    have hreplay (ns : List Nat) (u : State) : (forAll ns replayPart u).tsu.parts = u.tsu.parts :=
      forAll_keeps (fun u : State => u.tsu.parts) _ parts_replayPart ns u
    have hresync (ns : List Nat) (u : State) : (forAll ns (resyncPart h) u).tsu.parts = u.tsu.parts :=
      forAll_keeps (fun u : State => u.tsu.parts) _ (parts_resyncPart h) ns u
    unfold moveHerd
    dsimp only
    refine (congrArg (fun ps => g (ps.get {} k)) ((hreplay _ _).trans (hresync _ _))).trans ?_
    exact part_forAll_onPart_keeps (f := fun p => { p with gen := p.gen + 1, plane := plane }) (fun x => hg x _ _) k _ s
  unfold moveIfLost
  split
  · split
    · exact hmove _
    · rfl
  · rfl

/-- An arrival queued with no round sent ahead moves the window by one round. -/
theorem part_queueArrival {n : Nat} {s : State} (hahead : (s.tsu.part n).sentAhead = []) (kind : BitVec 4) (cause : BitVec 3) (members : Id24)
    (deadline : U64) (payload : Payload) :
    ((queueArrival n kind cause members deadline payload s).tsu.part n).a = (s.tsu.part n).a + 1 ∧
      ((queueArrival n kind cause members deadline payload s).tsu.part n).d = (s.tsu.part n).d ∧
      ((queueArrival n kind cause members deadline payload s).tsu.part n).run = (s.tsu.part n).run := by
  unfold queueArrival
  dsimp only
  rw [Tsu.part, parts_sendPart, ← Tsu.part, part_onPart_same]
  simp only [shiftWindow, hahead, List.length_nil, passSentAhead, and_self]

theorem firePart_twice (seq : U32) (x : Part) : firePart seq (firePart seq x) = firePart seq x := rfl

/-- A fire starts every participation of its context over (R183). -/
theorem part_forAll_firePart {n : Nat} {ns : List Nat} (hn : n ∈ ns) (seq : U32) (s : State) :
    (forAll ns (fun n u => onPart n (firePart seq) u) s).tsu.part n = firePart seq (s.tsu.part n) := by
  have hfired (ms : List Nat) (u : State) (hu : u.tsu.part n = firePart seq (s.tsu.part n)) :
      (forAll ms (fun n u => onPart n (firePart seq) u) u).tsu.part n = firePart seq (s.tsu.part n) := by
    induction ms generalizing u with
    | nil => exact hu
    | cons m ms ih =>
      refine ih _ ?_
      by_cases hm : n = m
      · subst hm
        rw [part_onPart_same, hu, firePart_twice]
      · rw [part_onPart_ne _ u hm, hu]
  induction ns generalizing s with
  | nil => cases hn
  | cons m ms ih =>
    by_cases hm : n = m
    · subst hm
      exact hfired ms _ (part_onPart_same ..)
    · have hrest : n ∈ ms := (List.mem_cons.mp hn).resolve_left hm
      have hsame : (onPart m (firePart seq) s).tsu.part n = s.tsu.part n := part_onPart_ne _ s hm
      rw [← hsame] at hfired ⊢
      exact ih hrest _ hfired

end Sys2Proof
end

section
/-! PROOFS. The decision and the fire of a pronk at a die, and the pronk at the die (O37). -/

namespace Sys2Proof

open Machine

/-- A command of the pronk at its place in the tick acts. -/
theorem performOn_pronkTurn {i : Instr} {h : Nat} {act : State → State} {s : State} (hw : s.tsu.works = true) (hh : h < 64)
    (ha : s.aheadOf (placeOf i) = false) : performOn .tsu (herdOk h) (inTurn i act) s = .next (enterErrs (act s.fresh)) :=
  performOn_turn hw hh ha

theorem sameContexts_enterErrs (s : State) : sameContexts s (enterErrs s) :=
  ⟨enterErrs_fjz s, enterErrs_tc s, enterErrs_links s, fun g => enterErrs_herd g s⟩

/-! ## The decision (R147) -/

/-- A context whose decision is taken. -/
def decidedAs (fires : Bool) (x : Herd) : Herd := { x with decidedSeq := some x.seqLast, fires := fires }

/-- A context that does not fire arrives with 0 on the tick of T. -/
def zeroSet (tc : TimeCore) (x : Herd) : Herd :=
  { x with zeroAt := some (x.fireTick.getD (tickOf tc x.fireHt), x.fireHt, x.seqLast), fireTick := none, decideTick := none }

theorem decideHerd_fires {h : Nat} {s : State} (hcommitted : (s.tsu.herd h).state = .committed) (hnone : (s.tsu.herd h).abort = none) :
    decideHerd h s = onHerd h (decidedAs true) s := by
  unfold decideHerd
  simp only [hcommitted, hnone, and_self, decide_true, if_true]
  rfl

/-- The record of a pronk that does not fire. -/
def unfiredCode (x : Herd) : U16 := if x.abort = none then 0x0509 else 0x050A

theorem unfiredCode_class (x : Herd) : (unfiredCode x).toNat / 256 = 5 := by
  unfold unfiredCode
  split
  · rfl
  · rfl

/-- A context that does not fire, with its record and before its run ends. -/
def unfired (h detail : Nat) (s : State) : State :=
  onHerd h (zeroSet s.tsu.tc) (tapArmed h 2 (raiseHerd h (unfiredCode (s.tsu.herd h)) false (herdObj h) (s.tsu.herd h).originWaiter
    (s.tsu.herd h).seqLast.toNat detail (onHerd h (decidedAs false) s)))

theorem decideHerd_drops {h : Nat} {s : State} (hno : ¬ ((s.tsu.herd h).state = .committed ∧ (s.tsu.herd h).abort = none)) :
    ∃ detail, decideHerd h s = endRun h (s.tsu.herd h).before (unfired h detail s) := by
  have htc (code : U16) (waiter : U32) (round detail : Nat) : (tapArmed h 2 (raiseHerd h code false (herdObj h) waiter round detail
      (onHerd h (decidedAs false) s))).tsu.tc = s.tsu.tc :=
    (tc_tapHerd ..).trans ((tc_raiseHerd ..).trans rfl)
  unfold decideHerd unfired unfiredCode
  simp only [hno, decide_false, Bool.false_eq_true, if_false]
  cases habort : (s.tsu.herd h).abort with
  | none =>
    refine ⟨0, ?_⟩
    rw [if_pos rfl, ← htc 0x0509 (s.tsu.herd h).originWaiter (s.tsu.herd h).seqLast.toNat 0]
    rfl
  | some cause =>
    refine ⟨cause.toNat, ?_⟩
    rw [if_neg (by simp), ← htc 0x050A (s.tsu.herd h).originWaiter (s.tsu.herd h).seqLast.toNat cause.toNat]
    rfl

theorem sameBeyond_unfired (h detail : Nat) (s : State) : sameBeyond h s (unfired h detail s) :=
  sameBeyond_trans (sameBeyond_onHerd h (decidedAs false) s)
    (sameBeyond_trans (sameBeyond_raiseHerd ..) (sameBeyond_trans (sameBeyond_tapArmed ..) (sameBeyond_onHerd ..)))

/-- What stays of a context that does not fire, beside its last fault. -/
theorem herd_unfired {γ : Type} {g : Herd → γ} (hg : ∀ x f, g (zeroSet s.tsu.tc { x with lastFault := f }) = g (zeroSet s.tsu.tc x))
    (h detail : Nat) : g ((unfired h detail s).tsu.herd h) = g (zeroSet s.tsu.tc (decidedAs false (s.tsu.herd h))) := by
  unfold unfired
  rw [herd_onHerd_same, herd_tapArmed]
  refine (herd_raiseHerd (g := fun x => g (zeroSet s.tsu.tc x)) hg h h _ false _ _ _ detail _).trans ?_
  rw [herd_onHerd_same]

theorem lastFault_unfired (h detail : Nat) (s : State) : ((unfired h detail s).tsu.herd h).lastFault = unfiredCode (s.tsu.herd h) := by
  unfold unfired
  rw [herd_onHerd_same, herd_tapArmed]
  exact lastFault_raiseHerd (unfiredCode_class _) h false _ _ _ detail _

section Decision
variable {h : Nat} {s : State} (hw : s.tsu.works = true) (hh : h < 64) (ha : s.aheadOf (inPhase 1 (100 + h)) = false)
  (hopen : (s.tsu.herd h).decidedSeq = none) (hdue : Machine.reached s.tsu.tc (s.tsu.herd h).decideTick = true)
include hw hh ha hopen hdue

theorem pronkDecision_decides (hstate : (s.tsu.herd h).state = .armed ∨ (s.tsu.herd h).state = .committed) :
    exec (.pronkDecision h) s = .next (enterErrs (decideHerd h s.fresh)) := by
  rw [exec, execPronkDecision, performOn_pronkTurn (i := .pronkDecision h) hw hh ha]
  dsimp only
  rw [if_pos (show _ from ⟨hstate, hopen, hdue⟩)]

theorem pronkDecision_fires (hcommitted : (s.tsu.herd h).state = .committed) (hnone : (s.tsu.herd h).abort = none) :
    exec (.pronkDecision h) s = .next (onHerd h (fun x => { x with decidedSeq := some x.seqLast, fires := true }) s.fresh) := by
  rw [pronkDecision_decides hw hh ha hopen hdue (.inr hcommitted), decideHerd_fires (s := s.fresh) hcommitted hnone]
  exact congrArg Host.Outcome.next (enterErrs_nil (onHerd_staged ..))

theorem pronkDecision_drops
    (hno : (s.tsu.herd h).state = .armed ∨ ((s.tsu.herd h).state = .committed ∧ (s.tsu.herd h).abort ≠ none)) :
    ∃ t, exec (.pronkDecision h) s = .next t ∧ sameBeyond h s t ∧ (t.tsu.herd h).state = (s.tsu.herd h).before ∧
      (t.tsu.herd h).decidedSeq = some (s.tsu.herd h).seqLast ∧ (t.tsu.herd h).fires = false ∧
      (∀ f, (s.tsu.herd h).fireTick = some f → (t.tsu.herd h).zeroAt = some (f, (s.tsu.herd h).fireHt, (s.tsu.herd h).seqLast)) ∧
      (t.tsu.herd h).lastFault = (if (s.tsu.herd h).abort = none then 0x0509 else 0x050A) := by
  have hstate : (s.tsu.herd h).state = .armed ∨ (s.tsu.herd h).state = .committed := hno.imp id And.left
  have hnot : ¬ ((s.tsu.herd h).state = .committed ∧ (s.tsu.herd h).abort = none) := by
    rintro ⟨hcommitted, hnone⟩
    rcases hno with harmed | ⟨-, hsome⟩
    · rw [hcommitted] at harmed
      cases harmed
    · exact hsome hnone
  obtain ⟨detail, hdrop⟩ := decideHerd_drops (s := s.fresh) hnot
  have hmine {γ : Type} (g : Herd → γ) (hg : ∀ x f, g (zeroSet s.tsu.tc { x with lastFault := f }) = g (zeroSet s.tsu.tc x)) :
      g ((unfired h detail s.fresh).tsu.herd h) = g (zeroSet s.tsu.tc (decidedAs false (s.tsu.herd h))) :=
    herd_unfired (s := s.fresh) hg h detail
  have hlast := lastFault_unfired h detail s.fresh
  have hbeyond : sameBeyond h s (unfired h detail s.fresh) := sameBeyond_unfired h detail s.fresh
  have hidle : ((unfired h detail s.fresh).tsu.herd h).state ≠ .running := by
    rw [hmine Herd.state fun _ _ => rfl]
    exact fun hrun => by rcases hstate with hs | hs <;> exact absurd (hs.symm.trans hrun) (by decide)
  refine ⟨_, pronkDecision_decides hw hh ha hopen hdue hstate, ?_⟩
  rw [hdrop]
  generalize unfired h detail s.fresh = u at *
  rw [enterErrs_herd, endRun_herd]
  refine ⟨sameBeyond_trans hbeyond (sameBeyond_trans (sameBeyond_endRun hidle) (sameBeyond_enterErrs ..)), rfl,
    hmine Herd.decidedSeq fun _ _ => rfl, hmine Herd.fires fun _ _ => rfl, fun f hf => ?_, hlast⟩
  refine (hmine Herd.zeroAt fun _ _ => rfl).trans ?_
  have htick : (decidedAs false (s.tsu.herd h)).fireTick = some f := hf
  rw [zeroSet, htick]
  rfl

end Decision

/-! ## The fire (R147, R148, R183) -/

/-- A context that fires. -/
def fired (x : Herd) : Herd :=
  { x with state := .running, base := x.fireHt, iter := 0, cur := x.startStep, fireTick := none, decideTick := none, fires := false,
           bnum := 0, lastGrid := none, steps := [], ahead := [], lastFl := 0, sameTick := 0, started := false, departing := none,
           openMarks := [], badHead := false }

/-- The context has fired and is recorded; its participations are as they were. -/
def firedTapped (h : Nat) (s : State) : State := tapArmed h 1 (onHerd h fired s)

theorem herd_firedTapped (h : Nat) (s : State) : (firedTapped h s).tsu.herd h = fired (s.tsu.herd h) := by
  rw [firedTapped, herd_tapArmed, herd_onHerd_same]

theorem parts_firedTapped (h : Nat) (s : State) : (firedTapped h s).tsu.parts = s.tsu.parts :=
  (of_besideRecords Tsu.parts (fun _ => rfl) (besideRecords_tapHerd ..)).trans rfl

theorem sameBeyond_firedTapped (h : Nat) (s : State) : sameBeyond h s (firedTapped h s) :=
  sameBeyond_trans (sameBeyond_onHerd ..) (sameBeyond_tapArmed ..)

theorem partsOf_firedTapped (h : Nat) (s : State) : (firedTapped h s).tsu.partsOf h = s.tsu.partsOf h := by
  unfold Tsu.partsOf
  rw [herd_firedTapped, parts_firedTapped]
  rfl

/-- Every participation of the context starts over, and moves if its port is lost. -/
def partsFired (h : Nat) (s : State) : State :=
  moveIfLost h (forAll (s.tsu.partsOf h) (fun n u => onPart n (firePart (s.tsu.herd h).seqLast) u) (firedTapped h s))

theorem fireHerd_eq (h : Nat) (s : State) : fireHerd h s = startArrive h (s.tsu.herd h).fireHt true (partsFired h s) := by
  rw [partsFired, ← partsOf_firedTapped]
  rfl

theorem sameContexts_partsFired (h : Nat) (s : State) : sameContexts (firedTapped h s) (partsFired h s) :=
  sameContexts_trans (sameContexts_forAll (fun _ _ => sameContexts_onPart ..) ..) (sameContexts_moveIfLost ..)

/-- The arrival at the start tine is round r of the pronk (R148). -/
theorem part_fireHerd {h : Nat} {s : State} (hmine : (s.tsu.herd h).startTine ∈ s.tsu.partsOf h)
    (hstart : ptStart (s.tsu.part (s.tsu.herd h).startTine).entry = true) :
    ((fireHerd h s).tsu.part (s.tsu.herd h).startTine).a = (s.tsu.herd h).seqLast.setWidth 16 ∧
      ((fireHerd h s).tsu.part (s.tsu.herd h).startTine).d = (s.tsu.herd h).seqLast.setWidth 16 - 1 ∧
      ((fireHerd h s).tsu.part (s.tsu.herd h).startTine).run = (s.tsu.herd h).seqLast.setWidth 8 := by
  have htine : ((partsFired h s).tsu.herd h).startTine = (s.tsu.herd h).startTine := by
    rw [(sameContexts_partsFired h s).2.2.2 h, herd_firedTapped]
    rfl
  have hpart {γ : Type} {g : Part → γ} (hg : ∀ (x : Part) gen plane, g { x with gen := gen, plane := plane } = g x) :
      g ((partsFired h s).tsu.part (s.tsu.herd h).startTine) =
        g (firePart (s.tsu.herd h).seqLast (s.tsu.part (s.tsu.herd h).startTine)) := by
    rw [partsFired, part_moveIfLost hg, part_forAll_firePart hmine]
    exact congrArg (fun ps => g (firePart (s.tsu.herd h).seqLast (Tbl.get {} ps (s.tsu.herd h).startTine))) (parts_firedTapped h s)
  have hahead : ((partsFired h s).tsu.part (s.tsu.herd h).startTine).sentAhead = [] := hpart (g := Part.sentAhead) fun _ _ _ => rfl
  have ha := hpart (g := Part.a) fun _ _ _ => rfl
  have hd := hpart (g := Part.d) fun _ _ _ => rfl
  have hrun := hpart (g := Part.run) fun _ _ _ => rfl
  simp only [firePart, hstart, if_true] at ha hd hrun
  rw [fireHerd_eq, startArrive]
  rw [htine]
  obtain ⟨ha', hd', hrun'⟩ := part_queueArrival hahead kArrival 0 1
    (BitVec.ofNat 64 (nsOf (s.tsu.herd h).fireHt + ((partsFired h s).tsu.herd h).startTimeout.toNat)) (BitVec.ofNat 512 (b2n true))
  rw [ha', hd', hrun', ha, hd, hrun]
  exact ⟨BitVec.sub_add_cancel .., rfl, rfl⟩

section Fire
variable {h : Nat} {s : State} (hw : s.tsu.works = true) (hh : h < 64) (ha : s.aheadOf (inPhase 1 (200 + h)) = false)
include hw hh ha

theorem pronkFire_fires (hcommitted : (s.tsu.herd h).state = .committed) (hfires : (s.tsu.herd h).fires = true)
    (hdue : Machine.reached s.tsu.tc (s.tsu.herd h).fireTick = true) (hzero : (s.tsu.herd h).zeroAt = none) :
    ∃ t, exec (.pronkFire h) s = .next t ∧ sameBeyond h s t ∧ (t.tsu.herd h).state = .running ∧
      (t.tsu.herd h).base = (s.tsu.herd h).fireHt ∧ (t.tsu.herd h).iter = 0 ∧ (t.tsu.herd h).cur = (s.tsu.herd h).startStep ∧
      (t.tsu.herd h).bnum = 0 ∧ (t.tsu.herd h).started = false ∧
      ((s.tsu.herd h).startTine ∈ s.tsu.partsOf h → ptStart (s.tsu.part (s.tsu.herd h).startTine).entry = true →
        (t.tsu.part (s.tsu.herd h).startTine).a = (s.tsu.herd h).seqLast.setWidth 16 ∧
        (t.tsu.part (s.tsu.herd h).startTine).d = (s.tsu.herd h).seqLast.setWidth 16 - 1 ∧
        (t.tsu.part (s.tsu.herd h).startTine).run = (s.tsu.herd h).seqLast.setWidth 8) := by
  have hzero' : (s.fresh.tsu.herd h).zeroAt = none := hzero
  have hexec : exec (.pronkFire h) s = .next (enterErrs (fireHerd h s.fresh)) := by
    rw [exec, execPronkFire, performOn_pronkTurn (i := .pronkFire h) hw hh ha]
    dsimp only
    rw [hzero']
    dsimp only
    rw [if_pos ⟨hcommitted, hfires, hdue⟩]
  have hsame : sameContexts (firedTapped h s.fresh) (enterErrs (fireHerd h s.fresh)) := by
    rw [fireHerd_eq]
    exact sameContexts_trans (sameContexts_partsFired ..) (sameContexts_trans (sameContexts_startArrive ..) (sameContexts_enterErrs ..))
  have hparts : (enterErrs (fireHerd h s.fresh)).tsu.parts = (fireHerd h s.fresh).tsu.parts :=
    enterErrs_keeps (·.tsu.parts) (fun _ _ _ _ _ _ => rfl) (fun _ => rfl) _
  have hbeyond : sameBeyond h s (firedTapped h s.fresh) := sameBeyond_firedTapped h s.fresh
  refine ⟨_, hexec, sameBeyond_trans hbeyond (sameBeyond_of_sameContexts h hsame), ?_⟩
  rw [hsame.2.2.2 h, herd_firedTapped]
  refine ⟨rfl, rfl, rfl, rfl, rfl, rfl, fun hmine hstart => ?_⟩
  rw [Tsu.part, hparts]
  exact part_fireHerd (s := s.fresh) hmine hstart

/-- A context that did not fire arrives with 0 on the tick of T, and stays as it is. -/
theorem pronkFire_zero {z : Nat × HT × U32} (hidle : (s.tsu.herd h).state ≠ .committed) (hzero : (s.tsu.herd h).zeroAt = some z)
    (hdue : z.1 ≤ s.tsu.tc.frc.toNat) : ∃ t, exec (.pronkFire h) s = .next t ∧ sameBeyond h s t ∧ (t.tsu.herd h).zeroAt = none ∧
      (t.tsu.herd h).state = (s.tsu.herd h).state := by
  have hzero' : (s.fresh.tsu.herd h).zeroAt = some z := hzero
  have hdue' : z.1 ≤ s.fresh.tsu.tc.frc.toNat := hdue
  have harrive : sameContexts (onHerd h (fun x => { x with zeroAt := none }) s.fresh) (arriveZero h z.2.1 z.2.2 s.fresh) := by
    unfold arriveZero
    dsimp only
    split
    · exact sameContexts_refl _
    · exact sameContexts_trans (sameContexts_onPart ..) (sameContexts_startArrive ..)
  have hherd : (arriveZero h z.2.1 z.2.2 s.fresh).tsu.herd h = { s.tsu.herd h with zeroAt := none } := by
    rw [harrive.2.2.2 h, herd_onHerd_same]
    rfl
  have hexec : exec (.pronkFire h) s = .next (enterErrs (arriveZero h z.2.1 z.2.2 s.fresh)) := by
    rw [exec, execPronkFire, performOn_pronkTurn (i := .pronkFire h) hw hh ha]
    simp only [hzero', if_pos hdue']
    rw [if_neg (by rw [hherd]; exact fun hfire => hidle hfire.1)]
  have hbeyond : sameBeyond h s (onHerd h (fun x => { x with zeroAt := none }) s.fresh) :=
    sameBeyond_onHerd h (fun x => { x with zeroAt := none }) s.fresh
  refine ⟨_, hexec, sameBeyond_trans hbeyond (sameBeyond_of_sameContexts h (sameContexts_trans harrive (sameContexts_enterErrs ..))), ?_⟩
  rw [enterErrs_herd, hherd]
  exact ⟨rfl, rfl⟩

end Fire

/-! ## STEP_RELEASE_DEADLINE (R136) -/

/-- A STEP pronk that came too late is reported once. -/
theorem stepReleaseDeadline_raises {h : Nat} {d : HT × U32} {s : State} (hw : s.tsu.works = true) (hh : h < 64)
    (hd : (s.tsu.herd h).stepDeadline = some d) : ∃ t, exec (.stepReleaseDeadline h) s = .next t ∧ sameBeyond h s t ∧
      (t.tsu.herd h).stepDeadline = none ∧ (t.tsu.herd h).lastFault = 0x0509 ∧ t.tsu.errs.total = bump s.tsu.errs.total := by
  have hd' : (s.fresh.tsu.herd h).stepDeadline = some d := hd
  have hexec : exec (.stepReleaseDeadline h) s = .next (enterErrs (raiseHerd h 0x0509 false (herdObj h) (s.tsu.herd h).originWaiter
      d.2.toNat 0 (onHerd h (fun x => { x with stepDeadline := none }) s.fresh))) := by
    rw [exec, execStepReleaseDeadline, performOn_works (d := .tsu) (show herdOk h = true from decide_eq_true hh) hw]
    dsimp only
    rw [hd']
    rfl
  have hbeyond : sameBeyond h s (onHerd h (fun x => { x with stepDeadline := none }) s.fresh) :=
    sameBeyond_onHerd h (fun x => { x with stepDeadline := none }) s.fresh
  have hmine : ((onHerd h (fun x => { x with stepDeadline := none }) s.fresh).tsu.herd h).stepDeadline = none := by
    rw [herd_onHerd_same]
  have herrs : (onHerd h (fun x => { x with stepDeadline := none }) s.fresh).tsu.errs = s.tsu.errs := rfl
  have hstaged : (onHerd h (fun x => { x with stepDeadline := none }) s.fresh).staged = [] := rfl
  refine ⟨_, hexec, ?_⟩
  generalize onHerd h (fun x => { x with stepDeadline := none }) s.fresh = u at *
  obtain ⟨b, hb⟩ := raiseHerd_staged h 0x0509 false (herdObj h) (s.tsu.herd h).originWaiter d.2.toNat 0 u
  rw [hstaged, List.nil_append] at hb
  refine ⟨sameBeyond_trans hbeyond (sameBeyond_trans (sameBeyond_raiseHerd ..) (sameBeyond_enterErrs ..)), ?_, ?_, ?_⟩
  · rw [enterErrs_herd, herd_raiseHerd (g := Herd.stepDeadline) (fun _ _ => rfl), hmine]
  · rw [enterErrs_herd]
    exact lastFault_raiseHerd (by decide) ..
  · rw [enterErrs_single_total hb, raiseHerd_errs, herrs]

/-- Settles O37: the cells of a pronk at a die, its decision, its fire or its arrival with 0, and a STEP pronk. -/
theorem pronkAtTheDie : Obligations.PronkAtTheDie := by
  refine ⟨fun p h c s hp hw harr hphase hreplay hctx hseq hfree hnew =>
      ⟨pronkArm_arms hp hw harr hphase hreplay hctx hseq hfree hnew, pronkArm_drops hp hw harr hphase hreplay hctx hseq hfree hnew,
        pronkArm_wrong_state hp hw harr hphase hreplay hctx hseq hfree hnew⟩,
    fun p h c s hp hw harr hreplay hctx hstate hseq hnew hopen =>
      ⟨pronkCommit_commits hp hw harr hreplay hctx hstate hseq hnew hopen, pronkAbort_aborts hp hw harr hreplay hctx hstate hseq hnew hopen⟩,
    fun p c s hp hw harr => pronkCommit_discards hp hw harr,
    fun h s hw hh ha hopen hdue => ⟨pronkDecision_fires hw hh ha hopen hdue, pronkDecision_drops hw hh ha hopen hdue⟩,
    fun h s hw hh ha => pronkFire_fires hw hh ha,
    fun h z s hw hh ha => pronkFire_zero hw hh ha,
    fun p h c s hp hw harr hphase hreplay hctx hseq hrun hmode => pronkStep_takes hp hw harr hphase hreplay hctx hseq hrun hmode,
    fun h d s hw hh hd => stepReleaseDeadline_raises hw hh hd⟩

end Sys2Proof
end

section
/-! PROOFS. The stream groups of the contexts, as the work of phases 7 and 8 leaves them (O41). -/

namespace Sys2Proof

open Machine

/-! ## The groups of the contexts -/

/-- The stream groups of every context. -/
def groupsOf (t : Tsu) (g : Nat) : BitVec 480 := (t.herd g).groups

/-- Every context keeps its stream groups. -/
def keepsGroups (s t : State) : Prop := groupsOf t.tsu = groupsOf s.tsu

theorem keepsGroups_refl (s : State) : keepsGroups s s := rfl

theorem keepsGroups_trans {s t u : State} (hst : keepsGroups s t) (htu : keepsGroups t u) : keepsGroups s u := Eq.trans htu hst

theorem keepsGroups_of_herds {s t : State} (h : t.tsu.herds = s.tsu.herds) : keepsGroups s t :=
  funext fun g => congrArg Herd.groups (herd_congr h g)

theorem keepsGroups_of_sameContexts {s t : State} (h : sameContexts s t) : keepsGroups s t := by
  obtain ⟨-, -, -, hherds⟩ := h
  exact funext fun g => congrArg Herd.groups (hherds g)

theorem keepsGroups_ite {c : Prop} [Decidable c] {s t : State} (h : keepsGroups s t) : keepsGroups s (if c then t else s) := by
  split
  · exact h
  · exact keepsGroups_refl s

theorem keepsGroups_forAll {α : Type} {f : α → State → State} (hf : ∀ a u, keepsGroups u (f a u)) (xs : List α) (s : State) :
    keepsGroups s (forAll xs f s) :=
  forAll_keeps (fun u : State => groupsOf u.tsu) f hf xs s

theorem keepsGroups_onHerd {f : Herd → Herd} (hf : ∀ x, (f x).groups = x.groups) (h : Nat) (s : State) : keepsGroups s (onHerd h f s) := by
  refine funext fun g => ?_
  unfold groupsOf
  by_cases hg : g = h
  · subst hg
    rw [herd_onHerd_same, hf]
  · rw [herd_onHerd_ne f s hg]

theorem keepsGroups_raiseHerd (h : Nat) (code : U16) (halts : Bool) (obj waiter : U32) (round detail : Nat) (s : State) :
    keepsGroups s (raiseHerd h code halts obj waiter round detail s) :=
  funext fun g => herd_raiseHerd (g := Herd.groups) (fun _ _ => rfl) h g ..

theorem keepsGroups_tapHerd (kind h : Nat) (content : Bytes) (s : State) : keepsGroups s (tapHerd kind h content s) :=
  keepsGroups_of_herds (tapHerd_herds ..)

/-- A change of one part of the die that is not its contexts. -/
theorem keepsGroups_onTsu {f : Tsu → Tsu} {s : State} (hf : (f s.tsu).herds = s.tsu.herds) : keepsGroups s (onTsu f s) :=
  keepsGroups_of_herds hf

theorem keepsGroups_meterEvent {f : Tsu → Tsu} {s : State} (hf : besideRecords (f s.tsu) = besideRecords s.tsu) :
    keepsGroups s (onTsu (meterEvent f) s) :=
  keepsGroups_onTsu (herds_of_besideRecords (besideRecords_meterEvent hf))

theorem keepsGroups_setEntry (i : Nat) (e : BitVec 256) (s : State) : keepsGroups s (setEntry i e s) := keepsGroups_of_herds rfl

/-! ## The meter's side of an entry -/

theorem besideRecords_takeSlot (i : Nat) (e : BitVec 256) (ns : Nat) (t : Tsu) : besideRecords (takeSlot i e ns t) = besideRecords t := by
  have hactive (b : Bool) : besideRecords (if b then activate i (lStream e) (lTenant e) ns t else t) = besideRecords t := by
    cases b
    · rfl
    · exact besideRecords_activate ..
  have hlogged (b : Bool) (m : Meter) (detail : Nat) (u : Tsu) :
      besideRecords (if b then logTamper 12 detail 0 { u with meter := m } else { u with meter := m }) = besideRecords u := by
    cases b
    · rfl
    · exact (besideRecords_logTamper ..).trans rfl
  exact (hlogged _ _ _ _).trans (hactive _)

theorem besideRecords_takeUnreadable (i : Nat) (t : Tsu) : besideRecords (takeUnreadable i t) = besideRecords t := rfl

theorem besideRecords_finalRecord (i endState : Nat) (herd : Id24) (t : Tsu) :
    besideRecords (finalRecord i endState herd t) = besideRecords t := by
  unfold finalRecord
  dsimp only
  split
  · rfl
  split
  · exact besideRecords_enterRing ..
  · rfl

/-! ## One entry (R141, R154, R266) -/

theorem keepsGroups_takeEntry (i : Nat) (s : State) : keepsGroups s (takeEntry i s) := by
  unfold takeEntry
  dsimp only
  split
  · exact keepsGroups_refl s
  · exact keepsGroups_trans (keepsGroups_meterEvent (besideRecords_takeSlot ..)) (keepsGroups_setEntry ..)

theorem keepsGroups_finalRecord (i endState : Nat) (herd : Id24) (s : State) :
    keepsGroups s (onTsu (meterEvent (finalRecord i endState herd)) s) := keepsGroups_meterEvent (besideRecords_finalRecord ..)

theorem keepsGroups_ledgerOpOn (h op amount ns i : Nat) (s : State) : keepsGroups s (ledgerOpOn h op amount ns i s) := by
  unfold ledgerOpOn
  dsimp only
  split
  · split
    · exact keepsGroups_setEntry ..
    · exact keepsGroups_refl s
  · split
    · exact keepsGroups_trans (keepsGroups_setEntry ..) (keepsGroups_meterEvent (besideRecords_activate ..))
    · exact keepsGroups_refl s
  · split
    · exact keepsGroups_trans (keepsGroups_takeEntry i s) (keepsGroups_trans (keepsGroups_finalRecord ..) (keepsGroups_setEntry ..))
    · exact keepsGroups_refl s
  · split
    · exact keepsGroups_trans (keepsGroups_setEntry ..) (keepsGroups_raiseHerd ..)
    · exact keepsGroups_refl s
  · exact keepsGroups_refl s

theorem keepsGroups_autoTake (i : Nat) (s : State) : keepsGroups s (autoTake i s) := by
  unfold autoTake
  split
  · exact keepsGroups_takeEntry i s
  · exact keepsGroups_refl s

theorem keepsGroups_passEntry (p : LedgerOp) (rank i : Nat) (s : State) : keepsGroups s (passEntry p rank i s).1 := by
  unfold passEntry
  dsimp only
  split
  · exact keepsGroups_ledgerOpOn ..
  · split
    · exact keepsGroups_trans (keepsGroups_meterEvent rfl) (keepsGroups_setEntry ..)
    · exact keepsGroups_refl s
  · exact keepsGroups_autoTake i s
  · exact keepsGroups_takeEntry i s
  · split
    · exact keepsGroups_setEntry ..
    · exact keepsGroups_refl s
  · split
    · exact keepsGroups_setEntry ..
    · exact keepsGroups_refl s

theorem keepsGroups_haltHerd' (h : Nat) (code : U16) (s : State) : keepsGroups s (haltHerd' h code s) := by
  obtain ⟨c, hc⟩ := haltHerd'_eq h code s
  rw [hc]
  refine keepsGroups_trans (t := haltMarked h (faultHalt h s) s) ?_ (keepsGroups_of_herds ?_)
  · exact keepsGroups_onHerd (f := fun x => { x with halt := some (faultHalt h s), selfFault := true }) (fun _ => rfl) h s
  · exact sendBoth_die_keeps (v := Tsu.herds) (fun _ _ _ _ _ _ _ _ => rfl) c _

theorem keepsGroups_faultHerd (h : Nat) (code : U16) (obj waiter : U32) (round detail : Nat) (s : State) :
    keepsGroups s (faultHerd h code obj waiter round detail s) := by
  unfold faultHerd
  dsimp only
  split
  · exact keepsGroups_refl s
  · exact keepsGroups_trans (keepsGroups_raiseHerd ..) (keepsGroups_haltHerd' ..)

theorem keepsGroups_ledgerFault (h i : Nat) (s : State) : keepsGroups s (ledgerFault h i s) := by
  unfold ledgerFault
  dsimp only
  split
  · exact keepsGroups_faultHerd ..
  · exact keepsGroups_raiseHerd ..

theorem keepsGroups_passBad (p : LedgerOp) (i : Nat) (s : State) : keepsGroups s (passBad p i s) := by
  unfold passBad
  refine keepsGroups_trans ?_ (keepsGroups_ledgerFault ..)
  split
  · exact keepsGroups_meterEvent (besideRecords_takeUnreadable ..)
  · exact keepsGroups_refl s

/-! ## Passes (R141, R239) -/

theorem keepsGroups_passChunk (fuel room : Nat) (p : LedgerOp) (s : State) : keepsGroups s (passChunk fuel room p s).1 := by
  induction fuel generalizing room p s with
  | zero => exact keepsGroups_refl s
  | succ fuel ih =>
    unfold passChunk
    dsimp only
    split
    · exact keepsGroups_refl s
    split
    · exact keepsGroups_refl s
    · refine keepsGroups_trans ?_ (ih _ _ _)
      split
      · exact keepsGroups_passBad ..
      · exact keepsGroups_passEntry ..

theorem keepsGroups_passEnded (p : LedgerOp) (s : State) : keepsGroups s (passEnded p s) := by
  unfold passEnded
  dsimp only
  refine keepsGroups_trans ?_ (keepsGroups_onHerd (fun _ => by rfl) ..)
  split
  · exact keepsGroups_trans (keepsGroups_raiseHerd ..) (keepsGroups_onHerd (fun _ => by rfl) ..)
  · exact keepsGroups_refl s

theorem keepsGroups_visitPass (h : Nat) (p : LedgerOp) (r : State × List LedgerOp) : keepsGroups r.1 (visitPass h p r).1 := by
  unfold visitPass
  dsimp only
  split
  · exact keepsGroups_refl r.1
  split
  · exact keepsGroups_trans (keepsGroups_passChunk ..) (keepsGroups_passEnded ..)
  · exact keepsGroups_passChunk ..

theorem keepsGroups_runPasses (h : Nat) (s : State) : keepsGroups s (runPasses h s) := by
  have hvisits (ps : List LedgerOp) (r : State × List LedgerOp) : keepsGroups r.1 (ps.foldl (fun r p => visitPass h p r) r).1 := by
    induction ps generalizing r with
    | nil => exact keepsGroups_refl r.1
    | cons p ps ih => exact keepsGroups_trans (keepsGroups_visitPass h p r) (ih _)
  have hclear : keepsGroups s (onTsu (fun t => { t with ledgerOps := [] }) s) := keepsGroups_of_herds rfl
  have hset (ps : List LedgerOp) (u : State) : keepsGroups u (onTsu (fun t => { t with ledgerOps := ps }) u) := keepsGroups_of_herds rfl
  exact keepsGroups_trans hclear (keepsGroups_trans (hvisits _ (_, [])) (hset _ _))

theorem keepsGroups_finishPasses (h : Nat) (s : State) : keepsGroups s (finishPasses h s) := by
  have hclear (f : LedgerOp → Bool) : keepsGroups s (onTsu (fun t => { t with ledgerOps := t.ledgerOps.filter f }) s) := keepsGroups_of_herds rfl
  unfold finishPasses
  dsimp only
  exact keepsGroups_trans (hclear _)
    (keepsGroups_forAll (fun _ _ => keepsGroups_trans (keepsGroups_passChunk ..) (keepsGroups_passEnded ..)) ..)

theorem keepsGroups_addPass (p : LedgerOp) (s : State) : keepsGroups s (addPass p s) := keepsGroups_of_herds rfl

theorem keepsGroups_beginPass (h g : Nat) (act : GroupAct) (ns : Nat) (s : State) : keepsGroups s (beginPass h g act ns s) :=
  keepsGroups_addPass ..

theorem keepsGroups_beginAll (h : Nat) (act : GroupAct) (ns : Nat) (s : State) : keepsGroups s (beginAll h act ns s) :=
  keepsGroups_addPass ..

/-! ## Open marks (R264 to R266) -/

theorem keepsGroups_openGroup (h g ns : Nat) (s : State) : keepsGroups s (openGroup h g ns s) := by
  unfold openGroup
  split
  · exact keepsGroups_refl s
  · exact keepsGroups_trans (keepsGroups_onHerd (fun _ => by rfl) ..) (keepsGroups_meterEvent rfl)

theorem keepsGroups_closeGroup (t0 : Tsu) (h g ns : Nat) (s : State) : keepsGroups s (closeGroup t0 h g ns s) := by
  unfold closeGroup
  split
  · exact keepsGroups_refl s
  dsimp only
  split
  · exact keepsGroups_trans (keepsGroups_onHerd (fun _ => by rfl) ..) (keepsGroups_meterEvent rfl)
  · exact keepsGroups_trans (keepsGroups_onHerd (fun _ => by rfl) ..) (keepsGroups_beginPass ..)

theorem keepsGroups_autoPass (h g ns : Nat) (s : State) : keepsGroups s (autoPass h g ns s) := by
  unfold autoPass
  split
  · exact keepsGroups_refl s
  · exact keepsGroups_beginPass ..

theorem keepsGroups_renewOpen (t0 : Tsu) (h ns : Nat) (s : State) : keepsGroups s (renewOpen t0 h ns s) := by
  refine keepsGroups_forAll (fun g u => ?_) (List.range 15) s
  split
  · split
    · exact keepsGroups_trans (keepsGroups_closeGroup ..) (keepsGroups_trans (keepsGroups_autoPass ..) (keepsGroups_openGroup ..))
    · exact keepsGroups_refl u
  · exact keepsGroups_refl u

theorem keepsGroups_closeHerd (t0 : Tsu) (h : Nat) (s : State) : keepsGroups s (closeHerd t0 h s) := by
  refine keepsGroups_forAll (fun g u => ?_) (List.range 15) s
  split
  · exact keepsGroups_refl u
  · exact keepsGroups_trans (keepsGroups_closeGroup ..) (keepsGroups_beginPass ..)

/-! ## Swaps (R234 to R240) -/

theorem keepsGroups_takePlan (h : Nat) (plan : BitVec 256) (s : State) : keepsGroups s (takePlan h plan s) := by
  unfold takePlan
  dsimp only
  split
  · exact keepsGroups_trans (keepsGroups_onHerd (fun _ => by rfl) ..) (keepsGroups_tapHerd ..)
  · exact keepsGroups_refl s

theorem keepsGroups_abortSwap (h : Nat) (cause : U32) (s : State) : keepsGroups s (abortSwap h cause s) :=
  keepsGroups_trans (keepsGroups_onHerd (f := fun x => { x with swap := .idle, refetchWait := false }) (fun _ => rfl) h s)
    (keepsGroups_raiseHerd ..)

theorem keepsGroups_takeCancel (h : Nat) (s : State) : keepsGroups s (takeCancel h s) := by
  unfold takeCancel
  dsimp only
  split
  · exact keepsGroups_trans (keepsGroups_tapHerd ..) (keepsGroups_abortSwap ..)
  · exact keepsGroups_refl s

theorem keepsGroups_swapFetch (h step : Nat) (s : State) : keepsGroups s (swapFetch h step s) := by
  refine keepsGroups_onHerd (fun x => ?_) h s
  split
  · rfl
  · rfl

theorem keepsGroups_swapArrive (h : Nat) (s : State) : keepsGroups s (swapArrive h s) :=
  keepsGroups_of_sameContexts (sameContexts_queueArrival ..)

theorem keepsGroups_swapFlip (h : Nat) (grid : HT) (s : State) : keepsGroups s (swapFlip h grid s) := by
  unfold swapFlip
  dsimp only
  refine keepsGroups_trans ?_ (keepsGroups_trans (keepsGroups_onHerd (fun _ => by rfl) ..)
    (keepsGroups_trans (keepsGroups_beginAll ..) (keepsGroups_raiseHerd ..)))
  split
  · exact keepsGroups_raiseHerd ..
  · exact keepsGroups_refl s

theorem keepsGroups_swapDecide (h : Nat) (b : Boundary) (d : Desc) (s : State) : keepsGroups s (swapDecide h b d s) := by
  unfold swapDecide
  dsimp only
  split
  · exact keepsGroups_refl s
  split
  · split
    · exact keepsGroups_abortSwap ..
    · exact keepsGroups_refl s
  split
  · exact keepsGroups_swapFlip ..
  split
  · exact keepsGroups_abortSwap ..
  · exact keepsGroups_refl s

theorem keepsGroups_swapRelease (h : Nat) (s : State) : keepsGroups s (swapRelease h s) := by
  unfold swapRelease
  dsimp only
  split
  · exact keepsGroups_onHerd (fun _ => by rfl) ..
  · exact keepsGroups_refl s

theorem keepsGroups_swapAction (h : Nat) (b : Boundary) (d : Desc) (s : State) : keepsGroups s (swapAction h b d s) := by
  unfold swapAction
  split
  · exact keepsGroups_swapFetch ..
  · exact keepsGroups_swapArrive ..
  · exact keepsGroups_swapDecide ..
  · exact keepsGroups_swapRelease ..
  · exact keepsGroups_refl s

theorem keepsGroups_drainCheck (h : Nat) (grid : HT) (s : State) : keepsGroups s (drainCheck h grid s) := by
  unfold drainCheck
  dsimp only
  split
  · exact keepsGroups_beginAll ..
  · exact keepsGroups_refl s

/-! ## Phases 7 and 8 of a context (R264, R322) -/

theorem keepsGroups_deadlineTime (herd : Id24) (s : State) : keepsGroups s (deadlineTime herd s).2 := by
  unfold deadlineTime
  split
  · split
    · exact keepsGroups_of_herds rfl
    · exact keepsGroups_refl s
  · exact keepsGroups_refl s

theorem keepsGroups_beginLedger (h : Nat) (d : Desc) (s : State) : keepsGroups s (beginLedger h d s) := by
  unfold beginLedger
  split
  · exact keepsGroups_refl s
  split
  · exact keepsGroups_trans (keepsGroups_deadlineTime ..) (keepsGroups_trans (keepsGroups_tapHerd ..) (keepsGroups_beginPass ..))
  · exact keepsGroups_beginPass ..

theorem keepsGroups_descActions (t0 : Tsu) (b : Boundary) (s : State) : keepsGroups s (descActions t0 b s) := by
  unfold descActions
  dsimp only
  refine keepsGroups_trans ?_ (keepsGroups_ite (keepsGroups_openGroup ..))
  refine keepsGroups_trans ?_ (keepsGroups_ite (keepsGroups_beginPass ..))
  refine keepsGroups_trans ?_ (keepsGroups_ite (keepsGroups_autoPass ..))
  refine keepsGroups_trans ?_ (keepsGroups_beginLedger ..)
  exact keepsGroups_trans (keepsGroups_swapAction ..) (keepsGroups_ite (keepsGroups_closeGroup ..))

theorem keepsGroups_boundaryPhase7 (t0 : Tsu) (b : Boundary) (s : State) : keepsGroups s (boundaryPhase7 t0 b s) :=
  keepsGroups_trans (keepsGroups_renewOpen ..) (keepsGroups_trans (keepsGroups_ite (keepsGroups_descActions ..))
    (keepsGroups_trans (keepsGroups_drainCheck ..) (keepsGroups_runPasses ..)))

theorem keepsGroups_herdPhase7 (t0 : Tsu) (h : Nat) (s : State) : keepsGroups s (herdPhase7 t0 h s) :=
  keepsGroups_trans (keepsGroups_trans (keepsGroups_runPasses h s) (keepsGroups_forAll (keepsGroups_boundaryPhase7 t0) ..))
    (keepsGroups_ite (keepsGroups_trans (keepsGroups_closeHerd ..) (keepsGroups_runPasses ..)))

theorem keepsGroups_appliedRsp (q : Req) (index sub status : Nat) (s : State) : keepsGroups s (appliedRsp .tsu q index sub status s) :=
  keepsGroups_of_herds (appliedRsp_die_keeps (v := Tsu.herds) (fun _ _ _ _ _ _ _ _ => rfl) ..)

theorem keepsGroups_applyPendingWrite (w : PendingWrite) (s : State) : keepsGroups s (applyPendingWrite w s) := by
  unfold applyPendingWrite
  refine keepsGroups_trans ?_ (keepsGroups_appliedRsp ..)
  split
  · exact keepsGroups_onHerd (fun _ => by rfl) ..
  split
  · exact keepsGroups_takePlan ..
  split
  · exact keepsGroups_takeCancel ..
  · exact keepsGroups_refl s

theorem keepsGroups_onAgent (f : Agent → Agent) (s : State) : keepsGroups s (onAgent .tsu f s) := keepsGroups_of_herds rfl

theorem keepsGroups_applyPending (h : Nat) (all : Bool) (s : State) : keepsGroups s (applyPending h all s) :=
  keepsGroups_trans (keepsGroups_onAgent _ s) (keepsGroups_forAll keepsGroups_applyPendingWrite ..)

theorem keepsGroups_applyHeld (w : HeldWrite) (s : State) : keepsGroups s (applyHeld w s) := by
  unfold applyHeld
  split
  · exact keepsGroups_trans (keepsGroups_of_herds ((herds_of_besideRecords (besideRecords_applyLedger ..)).trans rfl)) (keepsGroups_appliedRsp ..)
  · exact keepsGroups_appliedRsp ..

theorem keepsGroups_applyHeldOf (h : Nat) (due : HeldWrite → Bool) (s : State) : keepsGroups s (applyHeldOf h due s) :=
  keepsGroups_trans (keepsGroups_onAgent _ s) (keepsGroups_forAll keepsGroups_applyHeld ..)

theorem keepsGroups_herdPhase8 (t0 : Tsu) (h : Nat) (s : State) : keepsGroups s (herdPhase8 t0 h s) :=
  keepsGroups_trans (keepsGroups_trans (keepsGroups_ite (keepsGroups_applyPending ..))
    (keepsGroups_forAll (fun _ _ => keepsGroups_applyHeldOf ..) ..)) (keepsGroups_ite (keepsGroups_applyHeldOf ..))

/-- The work that a context finishes before it is released leaves the groups of every context. -/
theorem keepsGroups_finishContext (h : Nat) (s : State) : keepsGroups s (finishContext h s) := by
  have hclear (f : Boundary → Bool) (g : Nat × Bool → Bool) :
      keepsGroups s (onTsu (fun t => { t with bounds := t.bounds.filter f, ended := t.ended.filter g }) s) := keepsGroups_of_herds rfl
  exact keepsGroups_trans (hclear _ _)
    (keepsGroups_trans (keepsGroups_herdPhase7 ..) (keepsGroups_trans (keepsGroups_herdPhase8 ..) (keepsGroups_finishPasses ..)))

end Sys2Proof
end

section
/-! PROOFS. LOAD_COMMIT, UNLOAD and the writes of descriptors (O41). -/

namespace Sys2Proof

open Machine

/-! ## SYNC_RESET and the participations of a context (R156, R183) -/

theorem sameContexts_syncReset (h : Nat) (s : State) : sameContexts s (syncReset h s) := ⟨rfl, rfl, rfl, fun _ => rfl⟩

/-- What a filter by key takes away reads as the default. -/
theorem tbl_get_filter_out {α : Type} (d : α) {p : Nat → Bool} {k : Nat} (hk : p k = false) (t : Tbl α) :
    Tbl.get d (t.filter fun e => p e.1) k = d := by
  induction t with
  | nil => rfl
  | cons e t ih =>
    by_cases he : p e.1 = true
    · have hne : e.1 ≠ k := fun heq => by rw [heq, hk] at he; cases he
      rw [List.filter_cons_of_pos (p := fun e : Nat × α => p e.1) he]
      exact (if_neg hne).trans ih
    · rw [List.filter_cons_of_neg (p := fun e : Nat × α => p e.1) he]
      exact ih

theorem counters_syncReset (h : Nat) (s : State) : (syncReset h s).tsu.counters =
    s.tsu.counters.filter fun e => !inRange e.1 (s.tsu.herd h).syncFirst (s.tsu.herd h).syncCount := rfl

theorem events_syncReset (h : Nat) (s : State) : (syncReset h s).tsu.events =
    s.tsu.events.filter fun e => !inRange e.1 (s.tsu.herd h).eventFirst (s.tsu.herd h).eventCount := rfl

theorem counter_syncReset_in {h n : Nat} {s : State} (hn : inRange n (s.tsu.herd h).syncFirst (s.tsu.herd h).syncCount = true) :
    (syncReset h s).tsu.counter n = {} := by
  rw [Tsu.counter, counters_syncReset]
  exact tbl_get_filter_out _ (p := fun k => !inRange k (s.tsu.herd h).syncFirst (s.tsu.herd h).syncCount) (by rw [hn]; rfl) _

theorem counter_syncReset_out {h n : Nat} {s : State} (hn : inRange n (s.tsu.herd h).syncFirst (s.tsu.herd h).syncCount = false) :
    (syncReset h s).tsu.counter n = s.tsu.counter n := by
  rw [Tsu.counter, counters_syncReset]
  exact Tbl.get_filter_ne _ _ _ _ fun _ => by rw [hn]; rfl

theorem event_syncReset_in {h n : Nat} {s : State} (hn : inRange n (s.tsu.herd h).eventFirst (s.tsu.herd h).eventCount = true) :
    (syncReset h s).tsu.event n = {} := by
  rw [Tsu.event, events_syncReset]
  exact tbl_get_filter_out _ (p := fun k => !inRange k (s.tsu.herd h).eventFirst (s.tsu.herd h).eventCount) (by rw [hn]; rfl) _

theorem sameContexts_fillParts (h : Nat) (s : State) : sameContexts s (fillParts h s) :=
  sameContexts_forAll (fun _ _ => sameContexts_onPart ..) ..

/-- The participations alone are filled. -/
theorem fillParts_keeps {γ : Type} {v : Tsu → γ} (hv : ∀ t ps, v { t with parts := ps } = v t) (h : Nat) (s : State) :
    v (fillParts h s).tsu = v s.tsu := by
  refine forAll_keeps (fun u : State => v u.tsu) _ (fun i u => ?_) _ s
  exact hv u.tsu _

theorem fillParts_staged (h : Nat) (s : State) : (fillParts h s).staged = s.staged :=
  forAll_keeps State.staged _ (fun i u => by rfl) _ s

theorem sameContexts_tapChange (h action : Nat) (s : State) : sameContexts s (tapChange h action s) := sameContexts_tapHerd ..

theorem besideRecords_tapChange (h action : Nat) (s : State) : besideRecords (tapChange h action s).tsu = besideRecords s.tsu :=
  besideRecords_tapHerd ..

theorem tapChange_staged (h action : Nat) (s : State) : (tapChange h action s).staged = s.staged := tapHerd_staged ..

theorem sameContexts_answered (q : Req) (i j st : Nat) (s : State) : sameContexts s (answered .tsu q i j st s) :=
  ⟨fjz_answered .., answered_tc .., answered_die_keeps (v := Tsu.links) (fun _ _ _ _ _ _ _ _ => rfl) q i j st s,
    fun g => answered_die_keeps (v := (Tsu.herd · g)) (fun _ _ _ _ _ _ _ _ => rfl) q i j st s⟩

theorem sameContexts_taken (q : Req) (s : State) : sameContexts s (taken .tsu q s) :=
  ⟨taken_fjz q s, taken_tc .., taken_die_keeps (v := Tsu.links) (fun _ _ _ _ _ _ _ _ => rfl) q s,
    fun g => taken_die_keeps (v := (Tsu.herd · g)) (fun _ _ _ _ _ _ _ _ => rfl) q s⟩

/-! ## LOAD_COMMIT (R150 to R152) -/

/-- A context that is loaded anew. -/
def loadedFresh (own : Id24) (x : Herd) : Herd :=
  { freshRun x with state := .loaded, watchPeak := 0, loadStatus := loadStatusOf own { code := 0 } }

theorem commitLoad_refused {h : Nat} {secure : Bool} {f : LoadFail} {s : State} (hf : admission s h secure = some f) :
    commitLoad h secure s = onHerd h (fun x => { x with loadStatus := loadStatusOf s.tsu.agent.deviceId f }) s := by
  unfold commitLoad
  rw [hf]

theorem commitLoad_loads {h : Nat} {secure : Bool} {s : State} (hnone : admission s h secure = none) : commitLoad h secure s =
    tapChange h 0 (fillParts h (syncReset h (onHerd h (loadedFresh s.tsu.agent.deviceId) s))) := by
  unfold commitLoad
  rw [hnone]
  rfl

section Load
variable {q : Req} {h : Nat} {s : State} (hh : h < 64) (hadm : admits .tsu q (0x5100 + h) 0x16 .wo [1] s = true)
include hh hadm

theorem loadCommit_takes : exec (.loadCommit q h 1) s =
    .next (enterErrs (answered .tsu q (0x5100 + h) 0x16 stOk (commitLoad h (secureReq q) (taken .tsu q s)))) := by
  rw [exec, execLoadCommit, decide_eq_true hh]
  exact agentWrite_takes (c := .loadCommit q h 1) rfl (op := wLoadCommit q h 1) hadm rfl (.inl rfl) rfl rfl rfl rfl rfl rfl

theorem loadCommit_refused {f : LoadFail} (hf : admission (taken .tsu q s) h (secureReq q) = some f) :
    exec (.loadCommit q h 1) s = .next (answered .tsu q (0x5100 + h) 0x16 stOk
      (onHerd h (fun x => { x with loadStatus := loadStatusOf s.tsu.agent.deviceId f }) (taken .tsu q s))) := by
  have hid : (taken .tsu q s).tsu.agent.deviceId = s.tsu.agent.deviceId := taken_deviceId .tsu q s
  rw [loadCommit_takes hh hadm, commitLoad_refused hf, hid]
  exact congrArg Host.Outcome.next (enterErrs_nil ((answered_staged ..).trans (taken_staged ..)))

theorem loadCommit_loads (hnone : admission (taken .tsu q s) h (secureReq q) = none) :
    ∃ t, exec (.loadCommit q h 1) s = .next t ∧ sameBeyond h s t ∧ (t.tsu.herd h).state = .loaded ∧
      (t.tsu.herd h).loadStatus = loadStatusOf s.tsu.agent.deviceId { code := 0 } ∧
      (t.tsu.herd h).decl = (s.tsu.herd h).decl ∧ (t.tsu.herd h).halt = none ∧
      (∀ n, inRange n (s.tsu.herd h).syncFirst (s.tsu.herd h).syncCount = true → t.tsu.counter n = {}) ∧
      (∀ n, inRange n (s.tsu.herd h).eventFirst (s.tsu.herd h).eventCount = true → t.tsu.event n = {}) ∧
      (∀ n, inRange n (s.tsu.herd h).syncFirst (s.tsu.herd h).syncCount = false → t.tsu.counter n = s.tsu.counter n) := by
  have hid : (taken .tsu q s).tsu.agent.deviceId = s.tsu.agent.deviceId := taken_deviceId .tsu q s
  have hexec := loadCommit_takes hh hadm
  rw [commitLoad_loads hnone, hid] at hexec
  have hbeyond : sameBeyond h s (onHerd h (loadedFresh s.tsu.agent.deviceId) (taken .tsu q s)) :=
    sameBeyond_trans (sameBeyond_of_sameContexts h (sameContexts_taken q s)) (sameBeyond_onHerd ..)
  have hherd : (onHerd h (loadedFresh s.tsu.agent.deviceId) (taken .tsu q s)).tsu.herd h =
      loadedFresh s.tsu.agent.deviceId (s.tsu.herd h) := by
    rw [herd_onHerd_same]
    exact congrArg _ (herd_congr (taken_herds ..) h)
  have hcounter (n : Nat) : (onHerd h (loadedFresh s.tsu.agent.deviceId) (taken .tsu q s)).tsu.counter n = s.tsu.counter n :=
    taken_die_keeps (v := (Tsu.counter · n)) (fun _ _ _ _ _ _ _ _ => rfl) q s
  have hstaged : (onHerd h (loadedFresh s.tsu.agent.deviceId) (taken .tsu q s)).staged = [] := taken_staged ..
  generalize onHerd h (loadedFresh s.tsu.agent.deviceId) (taken .tsu q s) = u at *
  have hlater : sameContexts u (answered .tsu q (0x5100 + h) 0x16 stOk (tapChange h 0 (fillParts h (syncReset h u)))) :=
    sameContexts_trans (sameContexts_syncReset ..) (sameContexts_trans (sameContexts_fillParts ..)
      (sameContexts_trans (sameContexts_tapChange ..) (sameContexts_answered ..)))
  have hkeeps {γ : Type} {v : Tsu → γ} (hparts : ∀ t ps, v { t with parts := ps } = v t) (hrecords : ∀ t, v (besideRecords t) = v t)
      (hanswer : ∀ (t : Tsu) w busy done irq dropped ports a, v (Tsu.answering t w busy done irq dropped ports a) = v t) :
      v (answered .tsu q (0x5100 + h) 0x16 stOk (tapChange h 0 (fillParts h (syncReset h u)))).tsu = v (syncReset h u).tsu :=
    (answered_die_keeps hanswer ..).trans ((of_besideRecords v hrecords (besideRecords_tapChange ..)).trans (fillParts_keeps hparts ..))
  have hcounters (n : Nat) := hkeeps (v := (Tsu.counter · n)) (fun _ _ => rfl) (fun _ => rfl) (fun _ _ _ _ _ _ _ _ => rfl)
  have hevents (n : Nat) := hkeeps (v := (Tsu.event · n)) (fun _ _ => rfl) (fun _ => rfl) (fun _ _ _ _ _ _ _ _ => rfl)
  have hdone : (answered .tsu q (0x5100 + h) 0x16 stOk (tapChange h 0 (fillParts h (syncReset h u)))).staged = [] := by
    rw [answered_staged, tapChange_staged, fillParts_staged]
    exact hstaged
  rw [enterErrs_nil hdone] at hexec
  refine ⟨_, hexec, sameBeyond_trans hbeyond (sameBeyond_of_sameContexts h hlater), ?_⟩
  rw [hlater.2.2.2 h, hherd]
  refine ⟨rfl, rfl, rfl, rfl, fun n hn => ?_, fun n hn => ?_, fun n hn => ?_⟩
  · exact (hcounters n).trans (counter_syncReset_in (by rw [hherd]; exact hn))
  · exact (hevents n).trans (event_syncReset_in (by rw [hherd]; exact hn))
  · exact (hcounters n).trans ((counter_syncReset_out (by rw [hherd]; exact hn)).trans (hcounter n))

end Load

/-! ## The entries that UNLOAD releases (R266) -/

theorem ledger_faultHerd (h : Nat) (code : U16) (obj waiter : U32) (round detail : Nat) (s : State) :
    (faultHerd h code obj waiter round detail s).tsu.ledger = s.tsu.ledger := by
  unfold faultHerd
  dsimp only
  split
  · rfl
  · obtain ⟨c, hc⟩ := haltHerd'_eq h code (raiseHerd h code true obj waiter round detail s)
    have hmarked (t : HT) (u : State) : (haltMarked h t u).tsu.ledger = u.tsu.ledger := rfl
    rw [hc, sendBoth_die_keeps (v := Tsu.ledger) (fun _ _ _ _ _ _ _ _ => rfl), hmarked]
    rfl

theorem ledger_ledgerFault (h i : Nat) (s : State) : (ledgerFault h i s).tsu.ledger = s.tsu.ledger := by
  unfold ledgerFault
  dsimp only
  split
  · exact ledger_faultHerd ..
  · rfl

theorem ledger_meterEvent {f : Tsu → Tsu} {s : State} (hf : besideRecords (f s.tsu) = besideRecords s.tsu) :
    (onTsu (meterEvent f) s).tsu.ledger = s.tsu.ledger :=
  ledger_of_besideRecords (besideRecords_meterEvent hf)

theorem entry_congr {t u : Tsu} (h : t.ledger = u.ledger) (i : Nat) : t.entry i = u.entry i := congrArg (Tbl.get 0 · i) h

theorem entry_takeEntry_ne {i j : Nat} (hj : j ≠ i) (s : State) : (takeEntry i s).tsu.entry j = s.tsu.entry j := by
  unfold takeEntry
  dsimp only
  split
  · rfl
  · rw [entry_setEntry_ne hj]
    exact entry_congr (ledger_meterEvent (besideRecords_takeSlot ..)) j

/-- An entry that is released is FREE. -/
theorem entry_unloadEntry_same (herd : Id24) (h i : Nat) (s : State) : lState ((unloadEntry herd h i s).tsu.entry i) = lsFree := by
  unfold unloadEntry
  dsimp only
  split
  · rw [entry_setEntry_same]
    decide
  split
  · assumption
  · rw [entry_setEntry_same]
    decide

theorem entry_unloadEntry_ne {i j : Nat} (hj : j ≠ i) (herd : Id24) (h : Nat) (s : State) :
    (unloadEntry herd h i s).tsu.entry j = s.tsu.entry j := by
  unfold unloadEntry
  dsimp only
  split
  · rw [entry_setEntry_ne hj]
    exact entry_congr ((ledger_meterEvent (besideRecords_finalRecord ..)).trans
      ((ledger_ledgerFault ..).trans (ledger_meterEvent (besideRecords_takeUnreadable ..)))) j
  split
  · rfl
  · rw [entry_setEntry_ne hj]
    exact (entry_congr (ledger_meterEvent (besideRecords_finalRecord ..)) j).trans (entry_takeEntry_ne hj s)

/-- A FREE entry stays FREE as others are released. -/
theorem entry_forAll_unloadEntry_free (herd : Id24) (h : Nat) (is : List Nat) {j : Nat} {s : State} (hfree : lState (s.tsu.entry j) = lsFree) :
    lState ((forAll is (unloadEntry herd h) s).tsu.entry j) = lsFree := by
  induction is generalizing s with
  | nil => exact hfree
  | cons i is ih =>
    refine ih ?_
    by_cases hj : j = i
    · subst hj
      exact entry_unloadEntry_same ..
    · rw [entry_unloadEntry_ne hj]
      exact hfree

theorem entry_forAll_unloadEntry_mem (herd : Id24) (h : Nat) {is : List Nat} {j : Nat} (hj : j ∈ is) (s : State) :
    lState ((forAll is (unloadEntry herd h) s).tsu.entry j) = lsFree := by
  induction is generalizing s with
  | nil => cases hj
  | cons i is ih =>
    by_cases hhead : j = i
    · subst hhead
      exact entry_forAll_unloadEntry_free herd h is (entry_unloadEntry_same ..)
    · exact ih ((List.mem_cons.mp hj).resolve_left hhead) _

/-- The entries of a context's groups are those that it holds (R138). -/
theorem mem_groupEntries {x : Herd} {i : Nat} (hi : x.holds 2 i = true) : i ∈ x.groupEntries := by
  obtain ⟨g, hg, hin⟩ := List.any_eq_true.mp (show ((List.range 15).any fun g => inRange i (x.group g).1 (x.group g).2) = true from hi)
  obtain ⟨hfirst, hlast⟩ := of_decide_eq_true hin
  refine List.mem_flatMap.mpr ⟨x.group g, List.mem_map_of_mem hg, List.mem_map.mpr ⟨i - (x.group g).1, ?_, ?_⟩⟩
  · exact List.mem_range.mpr (by omega)
  · omega

theorem groupEntries_congr {x y : Herd} (h : x.groups = y.groups) : x.groupEntries = y.groupEntries := by
  unfold Herd.groupEntries Herd.groupList Herd.group
  rw [h]

/-- A context about to be released leaves every entry that it holds FREE. -/
theorem entry_unloadEntries {h i : Nat} {s : State} (hi : (s.tsu.herd h).holds 2 i = true) :
    lState ((unloadEntries h (finishContext h s)).tsu.entry i) = lsFree := by
  have hgroups : ((finishContext h s).tsu.herd h).groups = (s.tsu.herd h).groups := congrFun (keepsGroups_finishContext h s) h
  refine entry_forAll_unloadEntry_mem _ h ?_ (finishContext h s)
  rw [groupEntries_congr hgroups]
  exact mem_groupEntries hi

/-! ## UNLOAD (Table 5.11) -/

/-- The participations that a context declares are cleared. -/
def partsCleared (x : Herd) (s : State) : State := forAll (List.range x.tineCount) (fun i s => onPart (x.tineFirst + i) (fun _ => {}) s) s

/-- The written flags of a context's descriptors are cleared. -/
def writtenCleared (x : Herd) (s : State) : State := onTsu (fun t => { t with written := t.written.filter fun i => !x.owns i }) s

/-- What UNLOAD leaves beside the context itself. -/
def resourcesReleased (h : Nat) (s : State) : State :=
  writtenCleared (s.tsu.herd h) (partsCleared (s.tsu.herd h) (syncReset h (unloadEntries h (finishContext h s))))

theorem releaseHerd_eq (h : Nat) (s : State) : releaseHerd h s =
    onHerd h (fun x => { freshRun x with state := .free }) (tapChange h 2 (resourcesReleased h s)) := rfl

theorem part_partsCleared {x : Herd} {i : Nat} (hi : i < x.tineCount) (s : State) : (partsCleared x s).tsu.part (x.tineFirst + i) = {} := by
  have hcleared (is : List Nat) (u : State) (hu : u.tsu.part (x.tineFirst + i) = {}) :
      (forAll is (fun i s => onPart (x.tineFirst + i) (fun _ => {}) s) u).tsu.part (x.tineFirst + i) = {} := by
    induction is generalizing u with
    | nil => exact hu
    | cons j is ih =>
      refine ih _ ?_
      by_cases hj : x.tineFirst + i = x.tineFirst + j
      · rw [hj, part_onPart_same]
      · rw [part_onPart_ne _ u hj, hu]
  have hmem (is : List Nat) (hin : i ∈ is) (u : State) :
      (forAll is (fun i s => onPart (x.tineFirst + i) (fun _ => {}) s) u).tsu.part (x.tineFirst + i) = {} := by
    induction is generalizing u with
    | nil => cases hin
    | cons j is ih =>
      by_cases hj : i = j
      · subst hj
        exact hcleared is _ (part_onPart_same ..)
      · exact ih ((List.mem_cons.mp hin).resolve_left hj) _
  exact hmem _ (List.mem_range.mpr hi) s

theorem partsCleared_keeps {γ : Type} {v : Tsu → γ} (hv : ∀ t ps, v { t with parts := ps } = v t) (x : Herd) (s : State) :
    v (partsCleared x s).tsu = v s.tsu := by
  refine forAll_keeps (fun u : State => v u.tsu) _ (fun i u => ?_) _ s
  exact hv u.tsu _

theorem not_mem_writtenCleared {x : Herd} {i : Nat} (hi : x.owns i = true) (s : State) : i ∉ (writtenCleared x s).tsu.written := by
  intro hmem
  obtain ⟨-, hout⟩ := List.mem_filter.mp hmem
  rw [hi] at hout
  cases hout

section Unload
variable {q : Req} {h : Nat} {s : State} (hh : h < 64) (hadm : admits .tsu q (0x5100 + h) 0x18 .wo [1] s = true)
include hh hadm

/-- A context at rest is released. -/
theorem unload_releases (hrest : (s.tsu.herd h).state = .loaded ∨ (s.tsu.herd h).state = .halted ∨ (s.tsu.herd h).state = .done ∨
      (s.tsu.herd h).state = .left) :
    ∃ t, exec (.unload q h 1) s = .next t ∧ t.fjz = s.fjz ∧ t.tsu.tc = s.tsu.tc ∧ (t.tsu.herd h).state = .free ∧
      (∀ i, (s.tsu.herd h).owns i = true → i ∉ t.tsu.written) ∧
      (∀ i, i < (s.tsu.herd h).tineCount → t.tsu.part ((s.tsu.herd h).tineFirst + i) = {}) ∧
      (∀ i, (s.tsu.herd h).holds 2 i = true → lState (t.tsu.entry i) = lsFree) := by
  have hready : (wUnload h 1).ready (heard q s) = true := by
    refine (heard_keeps (wUnload h 1).ready (fun _ _ _ => rfl) q s).trans ?_
    exact decide_eq_true hrest
  have hexec : exec (.unload q h 1) s =
      .next (enterErrs (answered .tsu q (0x5100 + h) 0x18 stOk (releaseHerd h (taken .tsu q s)))) := by
    rw [exec, execUnload, decide_eq_true hh]
    exact agentWrite_takes (c := .unload q h 1) rfl (op := wUnload h 1) hadm rfl (.inl rfl) rfl hready rfl rfl rfl rfl
  have hherd : (taken .tsu q s).tsu.herd h = s.tsu.herd h := herd_congr (taken_herds ..) h
  have hkeeps {γ : Type} {v : Tsu → γ} (hrecords : ∀ t, v (besideRecords t) = v t) (hherds : ∀ t xs, v { t with herds := xs } = v t)
      (hanswer : ∀ (t : Tsu) w busy done irq dropped ports a, v (Tsu.answering t w busy done irq dropped ports a) = v t) :
      v (answered .tsu q (0x5100 + h) 0x18 stOk (releaseHerd h (taken .tsu q s))).tsu = v (resourcesReleased h (taken .tsu q s)).tsu := by
    rw [answered_die_keeps hanswer, releaseHerd_eq]
    exact (hherds _ _).trans (of_besideRecords v hrecords (besideRecords_tapChange ..))
  refine ⟨_, hexec, ?_, ?_, ?_, fun i hi => ?_, fun i hi => ?_, fun i hi => ?_⟩
  · rw [enterErrs_fjz, fjz_answered, fjz_releaseHerd, taken_fjz]
  · rw [enterErrs_tc, answered_tc, tc_releaseHerd, taken_tc]
  · rw [enterErrs_herd, (sameContexts_answered ..).2.2.2 h, releaseHerd_eq, herd_onHerd_same]
  · rw [enterErrs_keeps (·.tsu.written) (fun _ _ _ _ _ _ => rfl) (fun _ => rfl),
      hkeeps (v := Tsu.written) (fun _ => rfl) (fun _ _ => rfl) (fun _ _ _ _ _ _ _ _ => rfl)]
    exact not_mem_writtenCleared (by rw [hherd]; exact hi) _
  · rw [enterErrs_keeps (·.tsu.part ((s.tsu.herd h).tineFirst + i)) (fun _ _ _ _ _ _ => rfl) (fun _ => rfl),
      hkeeps (v := (Tsu.part · ((s.tsu.herd h).tineFirst + i))) (fun _ => rfl) (fun _ _ => rfl) (fun _ _ _ _ _ _ _ _ => rfl),
      resourcesReleased, hherd]
    exact part_partsCleared hi _
  · rw [enterErrs_keeps (·.tsu.entry i) (fun _ _ _ _ _ _ => rfl) (fun _ => rfl),
      hkeeps (v := (Tsu.entry · i)) (fun _ => rfl) (fun _ _ => rfl) (fun _ _ _ _ _ _ _ _ => rfl)]
    have hparts := partsCleared_keeps (v := (Tsu.entry · i)) (fun _ _ => rfl) ((taken .tsu q s).tsu.herd h)
      (syncReset h (unloadEntries h (finishContext h (taken .tsu q s))))
    exact (congrArg lState hparts).trans (entry_unloadEntries (by rw [hherd]; exact hi))

/-- A live context, or a FREE one, is not released. -/
theorem unload_refused (hbusy : (s.tsu.herd h).live = true ∨ (s.tsu.herd h).state = .free) :
    exec (.unload q h 1) s = .next (answered .tsu q (0x5100 + h) 0x18 stState (taken .tsu q s)) := by
  have hready : (wUnload h 1).ready (heard q s) = false := by
    refine (heard_keeps (wUnload h 1).ready (fun _ _ _ => rfl) q s).trans (decide_eq_false ?_)
    have hst : (s.tsu.herd h).state = .armed ∨ (s.tsu.herd h).state = .committed ∨ (s.tsu.herd h).state = .running ∨
        (s.tsu.herd h).state = .free := by
      rcases hbusy with hlive | hfree
      · exact (of_decide_eq_true hlive).imp id (Or.imp id .inl)
      · exact .inr (.inr (.inr hfree))
    show ¬ ((s.tsu.herd h).state = .loaded ∨ (s.tsu.herd h).state = .halted ∨ (s.tsu.herd h).state = .done ∨ (s.tsu.herd h).state = .left)
    rcases hst with hst | hst | hst | hst <;> rw [hst] <;> decide
  have hexec : exec (.unload q h 1) s = .next (enterErrs (answered .tsu q (0x5100 + h) 0x18 stState (taken .tsu q s))) := by
    rw [exec, execUnload, decide_eq_true hh]
    exact agentWrite_refuses (c := .unload q h 1) rfl (op := wUnload h 1) hadm rfl (.inl rfl) rfl (.inl ⟨hready, rfl⟩)
  rw [hexec, enterErrs_nil ((answered_staged ..).trans (taken_staged ..))]

end Unload

/-! ## STEP_DESC (R119) -/

section Descriptor
variable {q : Req} {v : BitVec 512} {s : State} {i : Nat} (hel : element s .tsu q 0x5080 1 = i) (hi : i < 16384)
  (hadm : admits .tsu q 0x5080 2 .rw (bvBytes v) s 1 i = true)
include hel hi hadm

omit hi hadm in
/-- The descriptor that a write names is that of the state in which it comes. -/
theorem stepDesc_serves : exec (.stepDesc q v) s = perform true (inTurn (.stepDesc q v) (agentWrite .tsu q (wStepDesc i v))) s := by
  rw [exec, execStepDesc]
  simp only [perform_true, inTurn, element_fresh, hel]

omit hel hi hadm in
theorem size_wStepDesc (i : Nat) (v : BitVec 512) : (wStepDesc i v).size = (wStepDesc i v).bytes.length := by
  simp [wStepDesc, bvBytes, length_leBytes]

omit hel hi hadm in
theorem ready_wStepDesc (q : Req) (i : Nat) (v : BitVec 512) (s : State) : (wStepDesc i v).ready (heard q s) = !stepHeld s.tsu i :=
  heard_keeps (wStepDesc i v).ready (fun _ _ _ => rfl) q s

theorem stepDesc_writes (hfree : stepHeld s.tsu i = false) : ∃ t, exec (.stepDesc q v) s = .next t ∧ t.fjz = s.fjz ∧
    t.tsu.herds = s.tsu.herds ∧ t.tsu.desc i = v ∧ i ∈ t.tsu.written ∧ ∀ j, j ≠ i → t.tsu.desc j = s.tsu.desc j := by
  have hexec : exec (.stepDesc q v) s = .next (enterErrs (answered .tsu q 0x5080 2 stOk ((wStepDesc i v).apply (taken .tsu q s)))) :=
    (stepDesc_serves hel).trans (agentWrite_takes (c := .stepDesc q v) rfl (op := wStepDesc i v) hadm rfl (.inl (size_wStepDesc i v))
      (decide_eq_true hi) (by rw [ready_wStepDesc, hfree]; rfl) rfl rfl rfl rfl)
  have hstaged : ((wStepDesc i v).apply (taken .tsu q s)).staged = [] := taken_staged ..
  rw [enterErrs_nil ((answered_staged ..).trans hstaged)] at hexec
  have hkeeps {γ : Type} {g : Tsu → γ} (hg : ∀ (t : Tsu) w busy done irq dropped ports a, g (Tsu.answering t w busy done irq dropped ports a) = g t) :
      g (answered .tsu q 0x5080 2 stOk ((wStepDesc i v).apply (taken .tsu q s))).tsu = g ((wStepDesc i v).apply (taken .tsu q s)).tsu :=
    answered_die_keeps hg ..
  refine ⟨_, hexec, ?_, ?_, ?_, ?_, fun j hj => ?_⟩
  · exact (fjz_answered ..).trans (taken_fjz q s)
  · exact (hkeeps (g := Tsu.herds) fun _ _ _ _ _ _ _ _ => rfl).trans (taken_herds ..)
  · exact (hkeeps (g := (Tsu.desc · i)) fun _ _ _ _ _ _ _ _ => rfl).trans (Tbl.get_set_same ..)
  · refine (hkeeps (g := Tsu.written) fun _ _ _ _ _ _ _ _ => rfl) ▸ ?_
    show i ∈ if (taken .tsu q s).tsu.written.contains i then (taken .tsu q s).tsu.written else (taken .tsu q s).tsu.written ++ [i]
    split
    next hin => exact List.contains_iff_mem.mp hin
    · exact List.mem_append_right _ (List.mem_singleton.mpr rfl)
  · refine (hkeeps (g := (Tsu.desc · j)) fun _ _ _ _ _ _ _ _ => rfl).trans ((Tbl.get_set_ne 0 (taken .tsu q s).tsu.steps v hj).trans ?_)
    exact taken_die_keeps (v := (Tsu.desc · j)) (fun _ _ _ _ _ _ _ _ => rfl) q s

theorem stepDesc_refused (hheld : stepHeld s.tsu i = true) :
    exec (.stepDesc q v) s = .next (answered .tsu q 0x5080 2 stState (taken .tsu q s)) := by
  have hexec : exec (.stepDesc q v) s = .next (enterErrs (answered .tsu q 0x5080 2 stState (taken .tsu q s))) :=
    (stepDesc_serves hel).trans (agentWrite_refuses (c := .stepDesc q v) rfl (op := wStepDesc i v) hadm rfl (.inl (size_wStepDesc i v))
      (decide_eq_true hi) (.inl ⟨by rw [ready_wStepDesc, hheld]; rfl, rfl⟩))
  rw [hexec, enterErrs_nil ((answered_staged ..).trans (taken_staged ..))]

end Descriptor

/-- Settles O41: LOAD_COMMIT whole or refused, the release of a context at rest, and the writes of descriptors. -/
theorem loadAndUnload : Obligations.LoadAndUnload :=
  ⟨fun _ _ _ hh hadm => ⟨fun _ hf => loadCommit_refused hh hadm hf, loadCommit_loads hh hadm⟩,
    fun _ _ _ hh hadm => ⟨unload_releases hh hadm, unload_refused hh hadm⟩,
    fun _ _ _ hi hadm => ⟨stepDesc_writes rfl hi hadm, stepDesc_refused rfl hi hadm⟩⟩

end Sys2Proof
end
